-- ==== Sys2Proof/Word.lean ====
section
/-!
DEFINITION. Sys2Proof/Word.lean: the word types of the model (00 R10, R13): a byte of memory, a 32-bit word and a
64-bit register word.
-/

namespace Sys2Proof

/-- One byte of any memory (00 R10). -/
abbrev Byte := BitVec 8

/-- A 64-bit register or instruction word; a 32-bit register is held with its upper half zero (00 R13). -/
abbrev Word := BitVec 64

end Sys2Proof
end

