-- ==== Sys2Proof/Machine/Wire.lean ====
section
/-!
DEFINITION. Machine/Wire.lean: what commands carry as operands besides numbers: a fabric packet (13 R377) and a schedule image
(16 R491, 05 R117, 09 R256; the image's form is the model's own, log entry 13).
-/

namespace Sys2Proof.Machine

/-- A fabric packet: the fields of its header (13 R377) and its payload bytes. -/
structure Packet where
  typ : Nat
  vc : Nat
  cls : Nat
  trust : Bool
  dup : Bool
  hops : Nat
  sgen : Nat
  egen : Nat
  src : Nat
  dst : Nat
  sep : Nat
  status : Nat
  tag : Nat
  len : Nat
  hint : Nat
  use : Nat
  aop : Nat
  asz : Nat
  cseq : Nat
  addr : Nat
  data : List Nat
  deriving DecidableEq, Repr

/-- What a DISC says of the other end (13 R392): node, domain, part, generation, package port, group role, RM_ELIGIBLE, transmit and
receive latencies, enrolment state. -/
structure Ident where
  node : Nat
  domain : Nat
  part : Nat
  gen : Nat
  port : Nat
  paired : Bool
  eligible : Bool
  txLat : Nat
  rxLat : Nat
  enrol : Nat
  deriving DecidableEq, Repr

/-- A package in the Ringmaster's enrolment table (13 R389-R395, 14 R413, R417): node, generation, domain part number, RM_ELIGIBLE, whether it
has sent READY, whether WORK was sent, parent, depth, its UP ports as (own port, partner node, partner port), the beat of its
last heartbeat, or of the takeover if that is later, and the beat at which this Ringmaster last heard from it (14 R415). -/
structure Member where
  node : Nat
  gen : Nat
  eligible : Bool
  ready : Bool
  working : Bool
  parent : Nat
  depth : Nat
  links : List (Nat × Nat × Nat)
  heard : Nat
  direct : Option Nat
  deriving DecidableEq, Repr

/-- A re-shard in progress (14 R424): new epoch, fence step, image-set table, packages of the new layout, packages that have sent
PREPARED and LOADED, fence moves, whether the epoch is closed, the first step of the new epoch. -/
structure Reshard where
  epoch : Nat
  fence : Nat
  table : Nat
  layout : List Nat
  prepared : List Nat
  loaded : List Nat
  moves : Nat
  closed : Bool
  first : Nat
  deriving DecidableEq, Repr

/-- Ringmaster state (14 R413-R430): the highest term heard; the best claim seen (term, node); whether this package is Ringmaster, is
suspended, claims (beat of its claim); the beat at which it last heard from a Ringmaster, a claim, the last HB_ACK, and last RM_SYNC;
the enrolment table; the standby; sync number sent, and the base of the last acknowledged one; the layout epoch and its
packages; a re-shard; the current step; reports of steps not decided (step, node, bits, beat of arrival), the beat of each such step's first; the last decisions
(step, decision), newest first; how often the last step was decided RECOMPUTE in a row; the health log (kind, source, words);
ticks with a slip, the tick from which ticks without one count; SLIP_UP and STEP_TMO in ms; the last TICK_CHANGE sent; norm values
(group, node, die, four F64); events to report (1 RESHARD_NEEDED, 2 RESHARD_FAILED, 4 STEP_SUSPECT); whether the standby is told to take over; the layout epoch that a closing epoch goes over to and how far it is: 0 decision and streams, 1 re-arm program, 2 records given, 3 records taken (R424, R426, R428);
syncs sent and not acknowledged with the packages enrolled at them (R415); the last epoch message sent (code, arguments). As a worker: the
decision and epoch messages last applied (code, arguments, term; R414); the tick at which streams start and the zones whose have not (R424). The term of the Ringmaster heard from, or of this package's own office (R413); the last STEP_DECIDE sent, and whether it, the last TICK_CHANGE and
the last epoch message are due again (R414, R415). -/
structure RmSt where
  term : Nat
  best : Option (Nat × Nat)
  master : Bool
  suspended : Bool
  claim : Option Nat
  heardRm : Option Nat
  heardClaim : Option Nat
  hbAck : Option Nat
  synced : Option Nat
  table : List Member
  standby : Option Nat
  syncNo : Nat
  base : Option (List Nat)
  epoch : Nat
  layout : List Nat
  reshard : Option Reshard
  step : Nat
  reports : List (Nat × Nat × Nat × Nat)
  firsts : List (Nat × Nat)
  decisions : List (Nat × Nat)
  again : Nat
  log : List (Nat × Nat × List Nat)
  slips : List Nat
  slipFrom : Nat
  slipUp : Nat
  stepTmo : Nat
  tickSent : Option (List Nat)
  norms : List (Nat × Nat × Nat × List Nat)
  events : Nat
  handover : Bool
  rearm : Option (Nat × Nat)
  unacked : List (Nat × List Nat)
  epochMsg : Option (Nat × List Nat)
  applied : List (Nat × List Nat × Nat)
  openAt : Option (Nat × List Nat)
  rmTerm : Nat
  lastDecide : Option (List Nat)
  resend : Bool
  deriving DecidableEq, Repr

def RmSt.reset : RmSt :=
  ⟨0, none, false, false, none, none, none, none, none, [], none, 0, none, 0, [], none, 0, [], [], [], 0, [], [], 0, 4, 20, none, [], 0, false, none, [], none, [], none, 0, none, false⟩

/-- How a firmware command reaches its execution (16 R486): taken from the queue of accepted commands by its sequence number, or
arriving through a port class on its own (class of 16 R485, fabric port or 0, argument words). -/
inductive Via where
  | taken (seq : Nat)
  | arrives (cls port : Nat) (args : List Nat)
  deriving DecidableEq, Repr

/-- A Ringmaster command: how it reaches its execution, and the Ringmaster's answer to one that was forwarded, which is an outcome, a
status and a response (14 R429). -/
structure RmVia where
  via : Via
  reply : Option (Nat × Nat × List Nat)
  deriving DecidableEq, Repr

/-- What a tier timeout ends (12 R359): the order number of a core's job or the TAG of an update die's requests, the tier, and the row of
a local move where it ends. -/
structure TierWait where
  ord : Nat
  tier : Nat
  row : Nat
  deriving DecidableEq, Repr

/-- The fields of a SWITCH entry (13 R374): the slot, and the spare lane it goes to. -/
structure SwitchEntry where
  slot : Nat
  spare : Nat
  deriving DecidableEq, Repr

/-- A RESUME entry received (13 R374): the port, and the SEQ that it names. -/
structure ResumeEntry where
  port : Nat
  seq : Nat
  deriving DecidableEq, Repr

/-- Bytes that an image places: 0 core memory or window of a core, 1 stack tier, 2 peat of a die, 3 far tier. -/
structure ImageMem where
  space : Nat
  unit : Nat
  addr : Nat
  bytes : List Nat
  deriving DecidableEq, Repr

/-- A micro-program slot of an image (06 R156). -/
structure ImageSlot where
  slot : Nat
  cfg : Nat
  consts : List Nat
  uops : List Nat
  deriving DecidableEq, Repr

/-- What an image gives one core: program ranges (stream, PBASE, PLIMIT), drain profiles (number, A, B), slots, rotation seeds,
threshold profiles and tallies as register words, RMAX, the descriptors to check (09 R256, 04 R105, 06 R156, 05 R117, 07 R207). -/
structure ImageCore where
  core : Nat
  streams : List (Nat × Nat × Nat)
  profiles : List (Nat × Nat × Nat)
  slots : List ImageSlot
  seeds : List (Nat × Nat)
  thr : List (Nat × Nat)
  tallies : List (Nat × Nat)
  rmax : Option Nat
  descriptors : List Nat
  deriving DecidableEq, Repr

/-- What an image gives one update die: registers by offset in the UD block, as words (10 R314). -/
structure ImageUd where
  die : Nat
  regs : List (Nat × Nat)
  deriving DecidableEq, Repr

/-- What an image binds to a layer's gradient format of one kind (0 activation, 1 weight; 05 R137, R138): the tags of its tallies,
drain profiles (core, number, whether the auxiliary format), descriptors (core, core-local address, whether the destination). -/
structure GfmtBind where
  layer : Nat
  kind : Nat
  tags : List Nat
  profiles : List (Nat × Nat × Bool)
  descs : List (Nat × Nat × Bool)
  deriving DecidableEq, Repr

/-- A global-norm group of an image (14 R412): group, die, hall addresses of the blocks its NORM_OUT writes and its NORM_IN reads,
the gate turnstile of that NORM_IN. -/
structure NormBind where
  group : Nat
  die : Nat
  outAddr : Nat
  inAddr : Nat
  gate : Nat
  deriving DecidableEq, Repr

/-- A record that changes its owner with a layout (14 R428): whether this package gives or takes it, its die, its ULX there, the checkpoint tensor. -/
structure Migration where
  give : Bool
  die : Nat
  ulx : Nat
  tensor : Nat
  deriving DecidableEq, Repr

/-- A schedule image (16 R491): the tick plan (planned length, first segment, planned beats of each tick class), the planning
frequency code and the ratio code assumed for each core named, memory, cores, update dies, the gradient format table's
address with the allowed formats of each layer (activation, weight) and what is bound to them, the norm groups, job tags of cores and of UD0 and
UD1 as 288 and 289 (15 R456), whether it permits boost (15 R438), the records that change their owner with it (14 R428). -/
structure SchedImage where
  planned : Nat
  tick0 : Nat
  beat0 : Nat
  classes : List Nat
  planCode : Nat
  ratios : List (Nat × Nat)
  memory : List ImageMem
  cores : List ImageCore
  uds : List ImageUd
  gfmtBase : Nat
  gfmtAllow : List (Nat × Nat)
  gfmtBinds : List GfmtBind
  norms : List NormBind
  tags : List (Nat × Nat)
  boost : Bool
  migrations : List Migration
  deriving DecidableEq, Repr

/-- What a start finds around the package and measures, by the steps of 16 R476 and R478: channels that fail timing training (unit: sites 0-9,
dies 10 and 11; channel), lanes of stack channels that fail their test (site, channel, pseudo-channel, lane; 11 R329), update dies whose link
does not come up, the residual skews of the 16 crossings (08 R220), units
whose training record is not reused (R479), whether the retained firmware fails its digest, the host link as trained (width, rate code,
flit mode; 17 R504), the start's duration in ms. -/
structure StartEnv where
  bad : List (Nat × Nat)
  lanes : List (Nat × Nat × Nat × Nat)
  noLink : List Nat
  skews : List Int
  refused : List Nat
  broken : Bool
  width : Nat
  rate : Nat
  flit : Bool
  ms : Nat
  deriving DecidableEq, Repr

/-- A device behind a CXL port as enumeration finds it (17 R520, R521): bus and function number, serial number, capacity in bytes, whether it is
Type-3, whether it reports its memory active within 60 s. -/
structure CxlDev where
  bus : Nat
  fn : Nat
  serial : Nat
  cap : Nat
  type3 : Bool
  active : Bool
  deriving DecidableEq, Repr

end Sys2Proof.Machine
end

