-- ==== Sys2Proof/Syntax.lean ====
section
/-!
DEFINITION. Sys2Proof/Syntax.lean: the commands of the block, one constructor per row of spec/opcode_table.json: instructions of the
core streams, events inside the package, packets and pins, firmware commands, register accesses of the host and management ports.
-/

namespace Sys2Proof

open Sys2Proof.Machine

/-- A command: one row of the opcode table. The docstring of each constructor names its row and rule. -/
inductive Instr where
  /-- MWLD, R75: Loads a weight tile into one buffer of each engine named in EMASK, after the issue checks. -/
  | mwld (core stream : Nat)
  /-- MWLD_BUFFER_VALID, R73: A weight load finishes and the buffer becomes valid for MMULs that wait on it. -/
  | mwldBufferValid (core ord : Nat)
  /-- MMUL, R76: Issues a pass of activation rows against a selected weight buffer, with the issue checks and the tile binding. -/
  | mmul (core stream : Nat)
  /-- MMUL_COMPLETE, R65: An MMUL's last row reaches the accumulators; it pushes its ladder inputs and advances the ladder count. -/
  | mmulComplete (core ord : Nat)
  /-- ACCLD, R88: Writes accumulator words of a tile from core memory or zero, under SRC and RAW. -/
  | accld (core stream : Nat)
  /-- ACCLD_COMPLETE, R109: An ACCLD finishes and performs its turnstile side effects. -/
  | accldComplete (core ord : Nat)
  /-- DRAIN, R95: Reads tile rows through scale, bias, activation and narrowing into core memory. -/
  | drain (core stream : Nat)
  /-- HOOK_ROW, R171: A drained row waiting for the vector engine is taken in its round and runs the hook micro-program in context H. -/
  | hookRow (core eng : Nat)
  /-- DRAIN_COMPLETE, R102: A DRAIN finishes: it releases OWNER when KEEP is 0, ORs events into the drain record and delivers its side effects. -/
  | drainComplete (core ord : Nat)
  /-- SSMUL, R122: Binds the lowest free Sideshow slot to an engine, tile and stream and computes its contribution; waits when no slot is free. -/
  | ssmul (core stream : Nat)
  /-- SSMUL_COMPLETE, R124: The Sideshow computation finishes and its slot becomes usable by the SIDE MMUL. -/
  | ssmulComplete (core ord : Nat)
  /-- SNCHK_CHECK, R130: Waits for the stream's earlier DRAINs, then evaluates trouble and continues, replays or degrades. -/
  | snchkCheck (core stream : Nat)
  /-- SNCHK_END, R131: Closes a replay: evaluates, clears the replay bit and returns to QC_RET. -/
  | snchkEnd (core stream : Nat)
  /-- VSETL, R155: Sets the stream's length register VL from an immediate or a scalar register. -/
  | vsetl (core stream : Nat)
  /-- VSETV, R174: Writes a scalar value to every lane of a vector register. -/
  | vsetv (core stream : Nat)
  /-- VMAP, R163: Runs a micro-program slot over ROWS x VL elements with loads and stores. -/
  | vmap (core stream : Nat)
  /-- VCVT, R164: Converts elements between formats. -/
  | vcvt (core stream : Nat)
  /-- VRED, R166: Reduces each row to one F32 value by SUM, MAX or MIN. -/
  | vred (core stream : Nat)
  /-- VKRN, R168: Runs a fused backward kernel for normalisation or soft-maximum. -/
  | vkrn (core stream : Nat)
  /-- VE_INSTRUCTION_COMPLETE, R173: A vector-engine instruction finishes and performs its turnstile side effects. -/
  | veInstructionComplete (core ord : Nat)
  /-- DMOV_COPY, R187: Issues a COPY move that reads, decodes, extracts, rotates, encodes and writes rows. -/
  | dmovCopy (core stream : Nat)
  /-- DMOV_TENSOR, R194: Issues a whole-tensor move that translates the tensor ID through the directory. -/
  | dmovTensor (core stream : Nat)
  /-- DMOV_FILL, R193: Issues a FILL move that writes the fill value into every destination element. -/
  | dmovFill (core stream : Nat)
  /-- DMOV_COMPLETE, R196: A move's destination writes are all visible; its side record is updated and its turnstile side effects are performed. -/
  | dmovComplete (core ord : Nat)
  /-- DMOV_FAILED, R197: A move ends with a failure status, without side effects, and MOVEFAIL is raised. -/
  | dmovFailed (core ord row : Nat)
  /-- PROBE_START, R200: Starts a run-ahead probe for a fetched RA DMOV that has not issued. -/
  | probeStart (core stream pc : Nat)
  /-- PROBE_TICK_EXPIRY, R203: A probe's DMOV has not issued by the tick limit, and the probe is cancelled. -/
  | probeTickExpiry (core stream pc : Nat)
  /-- NOP, R249: Completes at issue. -/
  | nop (core stream : Nat)
  /-- HALT, R249: Issues the stream's stop, which waits for every earlier instruction to complete. -/
  | halt (core stream : Nat)
  /-- STREAM_ENTERS_HALTED, R249: Every earlier instruction has completed and the stream enters HALTED. -/
  | streamEntersHalted (core stream : Nat)
  /-- SMOVI, R249: Moves an immediate into a scalar register. -/
  | smovi (core stream : Nat)
  /-- SALU, R249: Performs a scalar arithmetic or logic function. -/
  | salu (core stream : Nat)
  /-- SLD, R242: Starts a 64-bit scalar load from core memory. -/
  | sld (core stream : Nat)
  /-- SLD_LOAD_COMPLETE, R242: The loaded value lands in its register and the register becomes available. -/
  | sldLoadComplete (core stream reg : Nat)
  /-- SST, R253: Stores a scalar register to core memory. -/
  | sst (core stream : Nat)
  /-- BR, R249: Conditional or unconditional branch; a branch against prediction flushes the fetch buffer. -/
  | br (core stream : Nat)
  /-- DBNZ, R249: Decrements a counter and branches while it is non-zero. -/
  | dbnz (core stream : Nat)
  /-- TINC, R263: Increments a local or remote turnstile at issue. -/
  | tinc (core stream : Nat)
  /-- TADV, R260: Adds a delta to a turnstile's TARGET. -/
  | tadv (core stream : Nat)
  /-- TRESET, R261: Resets COUNT, TARGET and EPOCH of a range of turnstiles. -/
  | treset (core stream : Nat)
  /-- TEPOCH, R262: Sets the stream's turnstile epoch. -/
  | tepoch (core stream : Nat)
  /-- TICKB, R250: Sets or advances the stream's tick base. -/
  | tickb (core stream : Nat)
  /-- HINT, R252: Sends a load-class hint to the zone control core. -/
  | hint (core stream : Nat)
  /-- WAITC, R251: Fences the stream's own work and then waits a number of cycles. -/
  | waitc (core stream : Nat)
  /-- RDT, R249: Reads the beat replica, the tick number or the zone cycle count into a register. -/
  | rdt (core stream : Nat)
  /-- INSTRUCTION_FETCH, R257: Fetches a line of instructions into a stream's fetch buffer under the branch predictions. -/
  | instructionFetch (core stream : Nat)
  /-- GUARD_WATCHDOG, R255: A guard has waited longer than SQ_WDOG; WDOG is raised and SQS_WAIT is recorded. -/
  | guardWatchdog (core stream : Nat)
  /-- TS_INCREMENT, R260: An increment reaches its turnstile bank and is added, or discarded for epoch. -/
  | tsIncrement (k : Nat)
  /-- STREAM_STOPPED, R256: A stream named by SQ_STOP reaches its issue boundary and enters STOPPED. -/
  | streamStopped (core stream : Nat)
  /-- TICK_BOUNDARY, R232: The zone replica reaches a tick start beat and the tick boundary takes effect. -/
  | tickBoundary (zone : Nat)
  /-- PENDING_SEGMENT_EFFECT, R237: The beat reaches B_eff and the pending segment becomes current. -/
  | pendingSegmentEffect
  /-- BEAT_REPLICA_WRITE, R227: The beat counter writes its value to every zone replica each 1,024 beats. -/
  | beatReplicaWrite
  /-- TIME_EXCHANGE, R229: Every 1 ms a non-root package sends TREQ to its parent. -/
  | timeExchange
  /-- EXCHANGE_MISSED, R229: A millisecond passes without an accepted exchange; holdover or loss follows. -/
  | exchangeMissed
  /-- ORIGIN_TIMEOUT, R231: No partner reports ACQ within 20 ms of winning, so the new Ringmaster takes the origin role with its own counter. -/
  | originTimeout
  /-- DROOP_TRIP, R443: A droop detector trips and stretches the next zone period by 25 or 50 %. -/
  | droopTrip (zone depth : Nat)
  /-- REALIGNMENT_STRETCH, R222: Eight cycles after the previous stretch, the zone adds a 25 % realignment stretch. -/
  | realignmentStretch (zone : Nat)
  /-- NEIGHBOUR_INFORMED, R223: A neighbouring zone learns of a stretch episode and its crossing becomes mesochronous. -/
  | neighbourInformed (crossing : Nat)
  /-- CROSSING_SYNCHRONOUS, R224: Both lags are whole and the crossing returns to synchronous mode. -/
  | crossingSynchronous (crossing : Nat)
  /-- GLIDE_START, R215: The voltage ramp ends and all generators glide to the new frequency. -/
  | glideStart
  /-- GLIDE_END, R215: The glide reaches its target; re-phasing and return to synchronous mode follow. -/
  | glideEnd
  /-- AGEING_SAMPLE, R271: Every 2^30 beats the ageing monitors are sampled and the Fmax fields may be scaled. -/
  | ageingSample (core loss : Nat)
  /-- STACK_READ, R322: A read arrives at a stack site and is served through the stack cache under its hint and use count. -/
  | stackRead (id addr len hint use : Nat) (errs : List (Nat × Nat)) (cacheErr : Bool)
  /-- STACK_WRITE, R321: A write arrives at a stack site, updates resident copies and is written through. -/
  | stackWrite (id addr hint use : Nat) (data : List Nat)
  /-- STACK_ATOMIC, R325: An atomic operation executes at the stack site. -/
  | stackAtomic (id addr aop : Nat) (wide : Bool) (op cmp : Nat)
  /-- CACHE_FILL, R324: A fill lands in the stack cache with a victim chosen by priority, or is served uncached. -/
  | cacheFill (k : Nat)
  /-- STACK_FAULT, R328: A stack reports a channel fault, or stops answering. -/
  | stackFault (site ch : Nat) (dead : Bool)
  /-- SCRUB_READ, R327: The site scrubs a mapped line and rewrites it when corrected. -/
  | scrubRead (unit : Nat) (errs : List (Nat × Nat))
  /-- COMPACTION_COMPLETE, R331: A compaction ends; channels move to OUT and the range falls. -/
  | compactionComplete (unit : Nat)
  /-- STACK_TEMPERATURE_READ, R317: Each millisecond the stack temperature is read and the refresh rate is adjusted. -/
  | stackTemperatureRead (site temp : Nat)
  /-- STACK_CE_READOUT, R316: Once a second the stack's own corrected-error counts are read into MEM_DIE_CE. -/
  | stackCeReadout (site n : Nat)
  /-- PEAT_ACCESS, R336: An access to a peat-tier offset is served for the owning die or answered REFUSED. -/
  | peatAccess (id who addr : Nat) (write : Bool) (len : Nat) (data : List Nat) (errs : List (Nat × Nat))
  /-- MODULE_TEMPERATURE_READ, R338: Every 100 ms a DDR5 module's temperature is read and refresh is adjusted. -/
  | moduleTemperatureRead (die ch temp : Nat)
  /-- DIRECTORY_WALK, R353: A directory walk's read returns and the entry is cached and applied, or the walk fails. -/
  | directoryWalk (id : Nat) (late : Bool)
  /-- TIER_TIMEOUT, R359: A hall request or MOVING wait exceeds its tier timeout and ends DM_TIER_LATE. -/
  | tierTimeout (core : Nat) (w : TierWait)
  /-- LATE_REPLY, R359: A response arriving after its request timed out is discarded and counted. -/
  | lateReply (tier : Nat)
  /-- WALK_START, R286: A Sedge walk of the update list begins for UD_STEP, automatically when AUTO is set. -/
  | walkStart (die : Nat)
  /-- UPDATE, R288: An UPDATE entry starts when its gate holds and applies the update rule to its record. -/
  | update (die idx : Nat)
  /-- COMMIT_WORD, R296: After every state write is acknowledged, the commit word names the new slot and STEP. -/
  | commitWord (die idx : Nat)
  /-- COPY_EMISSION_COMPLETE, R295: Every write of a working copy is acknowledged and its buffer turnstile is incremented. -/
  | copyEmissionComplete (die id : Nat)
  /-- SCAN, R290: A SCAN entry accumulates squared gradients or the scan program into its norm group. -/
  | scan (die idx : Nat)
  /-- NORM_OUT, R290: Writes a norm group's accumulators to its block and zeroes them. -/
  | normOut (die idx : Nat)
  /-- NORM_IN, R290: Reads four F64 values into the norm registers. -/
  | normIn (die idx : Nat)
  /-- ENTRY_COMPLETE, R286: A list entry completes and its DONE turnstile is incremented. -/
  | entryComplete (die idx : Nat)
  /-- WALK_COMPLETE, R286: Every entry of a walk has completed; STEP_DONE is raised, or the die enters HOLDING. -/
  | walkComplete (die : Nat)
  /-- DEGRADED_MARK, R300: A degraded mark arrives at an update die and is recorded with UD_STEP. -/
  | degradedMark (k : Nat)
  /-- SEDGE_LINK_RESET, R312: An end of a Sedge link resets; walks stop and in-flight entries are abandoned. -/
  | sedgeLinkReset (die : Nat)
  /-- CKPT_DONE, R309: A checkpoint or restore transfer completes. -/
  | ckptDone (die : Nat)
  /-- SIGNAL_DETECTED, R391: A port detects signal with EN set and begins training. -/
  | signalDetected (port : Nat)
  /-- TRAINING_COMPLETE, R391: A port's lanes lock and deskew and it sends DISC. -/
  | trainingComplete (port skew : Nat) (ok : Bool)
  /-- DISC, R392: A DISC is received; the port becomes UP or ISOLATED and a generation change is handled. -/
  | disc (port : Nat) (id : Ident)
  /-- FLIT_RECEIVE, R373: A flit arrives, is checked by CRC and SEQ, and is accepted or discarded with a NAK. -/
  | flitReceive (port : Nat) (head body crc : List Nat) (errA errB : Nat)
  /-- LINK_CONTROL_NAK, R373: A link-control NAK makes the sender resend from the named SEQ. -/
  | linkControlNak (port seq : Nat)
  /-- CREDIT, R374: Returned credits are added for a VC and class. -/
  | credit (port vc cls count : Nat)
  /-- SWITCH, R398: A spare-lane switch is proposed or confirmed and the slot moves to the spare. -/
  | switch (port : Nat) (e : SwitchEntry)
  /-- PAUSE, R374: The partner stops sending packet data until RESUME. -/
  | pause (port : Nat)
  /-- RESUME, R374: Packet data resumes from the named SEQ. -/
  | resume (e : ResumeEntry)
  /-- LANE_ERROR_WINDOW, R398: A 100 us window closes; a failing lane enters RECOVER, or a retry excess fails the port. -/
  | laneErrorWindow (die ln ser unc : Nat)
  /-- SWITCH_TIMEOUT, R398: No SWITCH confirmation arrives within 500 us, and the port fails. -/
  | switchTimeout (port : Nat)
  /-- PORT_FAILURE, R399: A port loses lock or its partner's markers, goes DOWN, and traffic moves or is rerouted. -/
  | portFailure (port : Nat)
  /-- TRANSIT_FORWARD, R396: A packet for a remote DST is forwarded by the route table, or answered NO_ROUTE. -/
  | transitForward (port : Nat) (p : Packet)
  /-- RD, R379: A fabric read request is served and answered RDR or NAK. -/
  | fabRd (port : Nat) (p : Packet)
  /-- RDP, R383: A fill-only probe read is served as a local probe, or dropped. -/
  | fabRdp (port : Nat) (p : Packet)
  /-- WR, R379: A fabric write request is applied and answered WACK or NAK. -/
  | fabWr (port : Nat) (p : Packet)
  /-- AT, R381: A fabric atomic is applied once at the stack site, with duplicate suppression. -/
  | fabAt (port : Nat) (p : Packet)
  /-- INC, R382: A fabric turnstile increment is applied under permission and epoch, and answered INCACK. -/
  | fabInc (port : Nat) (p : Packet)
  /-- RDR, R380: Read data returns to the requester, or is discarded as stray. -/
  | fabRdr (port : Nat) (p : Packet)
  /-- WACK, R380: A write acknowledgement returns to the requester. -/
  | fabWack (port : Nat) (p : Packet)
  /-- ATR, R381: An atomic response returns the old value. -/
  | fabAtr (port : Nat) (p : Packet)
  /-- INCACK, R264: An increment acknowledgement completes a remote increment, or maps a refusal. -/
  | fabIncack (port : Nat) (p : Packet)
  /-- PACK, R383: A probe acknowledgement returns. -/
  | fabPack (port : Nat) (p : Packet)
  /-- NAK, R380: A negative response ends a request with its mapped status. -/
  | fabNak (port : Nat) (p : Packet)
  /-- TREQ, R388: A parent stamps a time request and answers TRSP. -/
  | treq (port : Nat) (p : Packet)
  /-- TRSP, R229: A time reply runs the exchange procedure: step, freeze, acquisition and rate update. -/
  | trsp (port : Nat) (p : Packet)
  /-- DUPLICATE_RECORD_EXPIRY, R386: A non-idempotent request record expires after 4 ms. -/
  | duplicateRecordExpiry
  /-- CSEQ_HOLD_EXPIRY, R384: An early CTRL packet has been held for 1 ms. -/
  | cseqHoldExpiry (src : Nat)
  /-- ENROL_REQ, R394: An enrolment request reaches the Ringmaster, which grants or denies it. -/
  | enrolReq (port src cseq : Nat) (trust : Bool) (words : List Nat)
  /-- ENROL_REQ_TIMER, R394: A Probing package sends ENROL_REQ every 10 ms, or every 1 s after DEPTH. -/
  | enrolReqTimer
  /-- ENROL_GRANT, R394: The package becomes Enrolled and installs its routes and parent. -/
  | enrolGrant (port src cseq : Nat) (trust : Bool) (words : List Nat)
  /-- ENROL_DENY, R394: The package becomes Detached or keeps probing, by the DENY code. -/
  | enrolDeny (port src cseq : Nat) (trust : Bool) (words : List Nat)
  /-- READY, R393: A package reports its beat acquired to the Ringmaster. -/
  | ready (port src cseq : Nat) (trust : Bool) (words : List Nat)
  /-- UNREADY, R393: A Working package reports its beat lost and returns to Enrolled. -/
  | unready (port src cseq : Nat) (trust : Bool) (words : List Nat)
  /-- WORK, R417: The Ringmaster makes a package Working in a layout epoch. -/
  | work (port src cseq : Nat) (trust : Bool) (words : List Nat)
  /-- LEAVE, R393: A package leaves the domain, or announces a restart with its next generation. -/
  | leave (port src cseq : Nat) (trust : Bool) (words : List Nat)
  /-- LEAVE_ACK, R393: A leaving package becomes Detached. -/
  | leaveAck (port src cseq : Nat) (trust : Bool) (words : List Nat)
  /-- LEAVE_TIMEOUT, R393: 100 ms after LEAVE without an acknowledgement, the package becomes Detached. -/
  | leaveTimeout
  /-- NO_PORT_UP_TIMEOUT, R393: No port has been UP for 100 ms and the package becomes Detached. -/
  | noPortUpTimeout
  /-- HEARTBEAT, R395: The Ringmaster receives a heartbeat and answers HB_ACK. -/
  | heartbeat (port src cseq : Nat) (trust : Bool) (words : List Nat)
  /-- HEARTBEAT_TIMER, R395: An enrolled package sends HEARTBEAT every 10 ms. -/
  | heartbeatTimer
  /-- HEARTBEAT_MISS, R395: After three missed heartbeats the Ringmaster removes the package. -/
  | heartbeatMiss (node : Nat)
  /-- ROUTE_SET, R396: Route-table entries and parents are installed and REROUTE is raised. -/
  | routeSet (port src cseq : Nat) (trust : Bool) (words : List Nat)
  /-- RM_CLAIM, R413: A claim is forwarded and followed if better, or ignored by a live Ringmaster. -/
  | rmClaim (port src cseq : Nat) (trust : Bool) (words : List Nat)
  /-- CLAIM_TIMER, R413: An eligible package that has heard from no Ringmaster for 200 ms floods RM_CLAIM. -/
  | claimTimer
  /-- CLAIM_SUCCESS, R413: A claimer that hears no better claim for 100 ms becomes Ringmaster and appoints a standby. -/
  | claimSuccess
  /-- RM_SYNC, R414: The standby mirrors the Ringmaster state and answers SYNC_ACK. -/
  | rmSync (port src cseq : Nat) (trust : Bool) (words : List Nat) (st : RmSt)
  /-- RM_SYNC_TIMER, R414: The Ringmaster sends RM_SYNC at least every 10 ms. -/
  | rmSyncTimer
  /-- STANDBY_TAKEOVER, R414: After 30 ms without RM_SYNC, the standby claims and becomes Ringmaster. -/
  | standbyTakeover
  /-- QUORUM_CHECK, R415: The Ringmaster suspends or resumes by the share of its base heard in 30 ms. -/
  | quorumCheck
  /-- HB_ACK_LOSS, R416: A worker without HB_ACK for 50 ms keeps running and follows the best claim. -/
  | hbAckLoss
  /-- HB_ACK, R419: A worker hears from its Ringmaster. -/
  | hbAck (port src cseq : Nat) (trust : Bool) (words : List Nat)
  /-- TICK_CHANGE, R237: A tick-length change arrives; it becomes pending, takes effect late, or is ignored by sequence. -/
  | tickChange (port src cseq : Nat) (trust : Bool) (words : List Nat)
  /-- EPOCH_PREPARE, R424: A package stages the new epoch's images and sends PREPARED. -/
  | epochPrepare (port src cseq : Nat) (trust : Bool) (words : List Nat) (image : Option SchedImage)
  /-- EPOCH_CLOSE, R426: A package applies the decision, stops streams, re-arms turnstiles and migrates records. -/
  | epochClose (port src cseq : Nat) (trust : Bool) (words : List Nat)
  /-- EPOCH_OPEN, R424: A package starts its streams for the first step of the new epoch at the start tick. -/
  | epochOpen (port src cseq : Nat) (trust : Bool) (words : List Nat)
  /-- STEP_DECIDE, R421: Firmware resolves held dies by APPLY, SKIP or RECOMPUTE. -/
  | stepDecide (port src cseq : Nat) (trust : Bool) (words : List Nat)
  /-- NORM_TOTAL, R412: Firmware writes the global norm totals and increments the NORM_IN gate turnstiles. -/
  | normTotal (port src cseq : Nat) (trust : Bool) (words : List Nat)
  /-- NODE_GEN, R498: A new generation of a node is learned and requests outstanding to it end PARTNER_RESET. -/
  | nodeGen (port src cseq : Nat) (trust : Bool) (words : List Nat)
  /-- NODE_REMOVED, R395: The removal of a package is announced. -/
  | nodeRemoved (port src cseq : Nat) (trust : Bool) (words : List Nat)
  /-- HEALTH_STEP_REPORT, R421: The Ringmaster records a package's step report and decides the step when all have arrived. -/
  | healthStepReport (port src cseq : Nat) (trust : Bool) (words : List Nat)
  /-- STEP_TMO, R421: STEP_TMO runs out with a report missing and the step is decided RECOMPUTE. -/
  | stepTmo
  /-- HEALTH_SLIP, R422: A slip report is counted, and at SLIP_UP a tick lengthening is sent. -/
  | healthSlip (port src cseq : Nat) (trust : Bool) (words : List Nat)
  /-- TICK_SHRINK, R422: After 4,096 ticks without a slip, the Ringmaster shortens ticks towards the planned length. -/
  | tickShrink
  /-- HEALTH_BEAT_LOST, R420: The Ringmaster logs a package's lost beat. -/
  | healthBeatLost (port src cseq : Nat) (trust : Bool) (words : List Nat)
  /-- HEALTH_LATE_CONTRIB, R426: The Ringmaster marks the step named in a late contribution for recompute, or reports STEP_SUSPECT. -/
  | healthLateContrib (port src cseq : Nat) (trust : Bool) (words : List Nat)
  /-- HEALTH_MEM_FENCE, R420: The Ringmaster logs a fenced channel. -/
  | healthMemFence (port src cseq : Nat) (trust : Bool) (words : List Nat)
  /-- HEALTH_PORT_DOWN, R399: The Ringmaster recomputes routes and parents after a port failure. -/
  | healthPortDown (port src cseq : Nat) (trust : Bool) (words : List Nat)
  /-- HEALTH_TORN, R420: The Ringmaster logs a torn record. -/
  | healthTorn (port src cseq : Nat) (trust : Bool) (words : List Nat)
  /-- HEALTH_NORM, R412: The Ringmaster adds a die's norm block into its group total. -/
  | healthNorm (port src cseq : Nat) (trust : Bool) (words : List Nat)
  /-- HEALTH_PREPARED, R424: The Ringmaster records that a package has staged its new images. -/
  | healthPrepared (port src cseq : Nat) (trust : Bool) (words : List Nat)
  /-- HEALTH_LOADED, R424: The Ringmaster records a loaded package and opens the epoch when all have loaded. -/
  | healthLoaded (port src cseq : Nat) (trust : Bool) (words : List Nat)
  /-- HEALTH_SYNC_ACK, R414: The standby acknowledges a sync. -/
  | healthSyncAck (port src cseq : Nat) (trust : Bool) (words : List Nat)
  /-- HEALTH_COOLING, R455: The Ringmaster logs a warning record. -/
  | healthCooling (port src cseq : Nat) (trust : Bool) (words : List Nat)
  /-- STALE_READ, R426: Each millisecond, firmware reads TS_STALE and sends LATE_CONTRIB reports. -/
  | staleRead
  /-- POWER_CONTROLLER_RUN, R437: Every microsecond the controller predicts power and sets code, duty or the minimum-power state. -/
  | powerControllerRun (avg fixed : Nat) (zones : List Nat)
  /-- BUDGET_STEP_SAMPLE, R433: The BUDGET_STEP pins are sampled and an agreed code selects B_step. -/
  | budgetStepSample (pins : Nat)
  /-- BUDGET_TAKES_EFFECT, R432: A written B_pm takes effect 2 us after acceptance, clamped. -/
  | budgetTakesEffect
  /-- SENSOR_SAMPLE, R446: Each 100 us the junction sensors are sampled and hot-spot values formed. -/
  | sensorSample (readings : List Int)
  /-- THERMAL_LIMIT_UPDATE, R447: Each millisecond P_th is lowered or raised from the temperatures. -/
  | thermalLimitUpdate
  /-- CLOCK_STOP_END, R448: After 100 ms within limits, the clock stop ends into the minimum-power state. -/
  | clockStopEnd
  /-- MINIMUM_POWER_EXIT, R449: The last cause clears and the package leaves the minimum-power state with P_th at 350 W. -/
  | minimumPowerExit
  /-- TRAY_SILENCE, R451: No coolant report has been accepted for 500 ms and worst-case values are assumed. -/
  | traySilence
  /-- HINT_RECEIVED, R442: A hint arrives at the zone control core and is held, applied, or dropped. -/
  | hintReceived (k : Nat)
  /-- HINT_PHASE_END, R442: A hint's phase ends and the zone's announced power and margin change. -/
  | hintPhaseEnd (k : Nat)
  /-- DROOP_MARGIN_ADAPT, R444: At the end of a tick or a block of 100 ticks, the zone's base margin rises or falls. -/
  | droopMarginAdapt (zone : Nat)
  /-- ENERGY_ATTRIBUTION, R457: Each millisecond measured energy is attributed to job tags. -/
  | energyAttribution (zones : List (Nat × List (Nat × Nat))) (uds : List Nat) (sites : List (Nat × List (Nat × Nat))) (other : Nat)
  /-- THERMAL_CYCLE_SAMPLE, R459: Once a second turning points are taken and rainflow cycles are counted. -/
  | thermalCycleSample (compute io sedge : Int)
  /-- WEAR_SAVE_TIMER, R460: Every 24 hours of operation a wear record is written to flash. -/
  | wearSaveTimer
  /-- POWER_GOOD, R476: PKG_PWRGD rises and a cold start runs its steps. -/
  | powerGood (env : StartEnv)
  /-- PKG_PWRGD_LOW, R540: PKG_PWRGD is low for more than 2 us and every die is held in reset. -/
  | pkgPwrgdLow (ns : Nat)
  /-- RAIL_OUT_OF_RANGE, R540: A rail leaves its range for 10 us and the package is held in reset. -/
  | railOutOfRange (ns : Nat)
  /-- REFCLK_LOSS, R540: REFCLK_PKG shows no edge for 1 us and every die is held in reset. -/
  | refclkLoss (ns : Nat)
  /-- REFCLK_RETURN, R540: REFCLK_PKG runs for 100 us again and a cold start begins. -/
  | refclkReturn (ns : Nat) (env : StartEnv)
  /-- PKG_RST, R540: PKG_RST# held low resets the package, and its rise begins a cold start. -/
  | pkgRst (low : Bool) (ns : Nat) (env : StartEnv)
  /-- LOCKSTEP_MISMATCH, R484: The package control cores disagree and the package enters HALTED. -/
  | lockstepMismatch
  /-- GFMT_QUERY, R142: Returns a layer's gradient format entry. -/
  | gfmtQuery (via : Via)
  /-- GFMT_PIN, R142: Sets and pins a layer's format. -/
  | gfmtPin (via : Via)
  /-- GFMT_RELEASE, R142: Clears a layer's format pin. -/
  | gfmtRelease (via : Via)
  /-- GFMT_LIMITS, R142: Replaces UP and DOWN at the next fence. -/
  | gfmtLimits (via : Via)
  /-- SQ_START, R256: Sets the PC of named streams and puts them in RUN. -/
  | sqStart (via : Via)
  /-- SQ_STOP, R256: Stops named streams at their next issue boundary. -/
  | sqStop (via : Via)
  /-- SQ_QUERY, R256: Returns a core's sequencer status and stream blocks. -/
  | sqQuery (via : Via)
  /-- UD_STEP_BEGIN, R308: Sets UD_STEP and starts a walk. -/
  | udStepBegin (via : Via)
  /-- UD_STEP_COMMIT, R303: Resolves a hold by APPLY or SKIP. -/
  | udStepCommit (via : Via)
  /-- UD_STOP, R308: No further entry starts and the walk ends incomplete. -/
  | udStop (via : Via)
  /-- UD_RESTORE, R309: Writes a record and slot 0 from a checkpoint tensor. -/
  | udRestore (via : Via)
  /-- UD_CKPT, R309: Writes the committed version of a record to a tensor. -/
  | udCkpt (via : Via)
  /-- UD_REEMIT, R308: Emits the copies of the committed version into a buffer. -/
  | udReemit (via : Via)
  /-- UD_ACCEPT_TORN, R308: Clears TORN and keeps the contents. -/
  | udAcceptTorn (via : Via)
  /-- UD_SET_EXP, R308: Writes E and PIN of a layer. -/
  | udSetExp (via : Via)
  /-- UD_QUERY, R308: Returns a record and its update status. -/
  | udQuery (via : Via)
  /-- MEM_QUERY, R342: Returns a site's status, range and channel maps. -/
  | memQuery (via : Via)
  /-- MEM_FENCE, R342: Fences a stack channel by command. -/
  | memFence (via : Via)
  /-- MEM_COMPACT, R331: Maps out fenced channels and re-interleaves the site. -/
  | memCompact (via : Via)
  /-- MEM_CACHE_RELEASE, R342: Makes every kept and counted line unprotected. -/
  | memCacheRelease (via : Via)
  /-- MEM_CACHE_FLUSH, R342: Invalidates every line of the named caches. -/
  | memCacheFlush (via : Via)
  /-- PT_QUERY, R342: Returns a die's peat status and channel maps. -/
  | ptQuery (via : Via)
  /-- PT_FENCE, R342: Fences a peat channel by command. -/
  | ptFence (via : Via)
  /-- PT_COMPACT, R339: Compacts a die's peat channels. -/
  | ptCompact (via : Via)
  /-- DIR_CREATE, R356: Writes a new valid directory entry. -/
  | dirCreate (via : Via)
  /-- DIR_SET, R356: Replaces the fields of an entry except VALID, STATE and VER. -/
  | dirSet (via : Via)
  /-- DIR_DELETE, R356: Waits for in-flight uses, then invalidates an entry. -/
  | dirDelete (via : Via)
  /-- DIR_QUERY, R356: Returns an entry and its in-flight count. -/
  | dirQuery (via : Via)
  /-- DIR_BEGIN_MOVE, R356: Moves an entry from IDLE to MOVING. -/
  | dirBeginMove (via : Via)
  /-- DIR_COMMIT_MOVE, R357: Waits for moves of the old version, then writes the new place and sets IDLE. -/
  | dirCommitMove (via : Via)
  /-- DIR_ABORT_MOVE, R356: Returns a MOVING entry to IDLE unchanged. -/
  | dirAbortMove (via : Via)
  /-- DIR_MARK_LOST, R356: Sets an entry LOST and ends moves waiting on it. -/
  | dirMarkLost (via : Via)
  /-- DIR_FLUSH, R356: Invalidates every cached entry with no use in flight. -/
  | dirFlush (via : Via)
  /-- FAB_QUERY, R401: Returns the fabric status, enrolment and port blocks. -/
  | fabQuery (via : Via)
  /-- FAB_PORT_SET, R401: Enables or disables ports. -/
  | fabPortSet (via : Via)
  /-- FAB_JOIN, R401: Moves a Detached package to Probing. -/
  | fabJoin (via : Via)
  /-- FAB_LEAVE, R401: Moves an Enrolled or Working package to Leaving. -/
  | fabLeave (via : Via)
  /-- RM_QUERY, R429: Returns the Ringmaster state, decisions and health log. -/
  | rmQuery (via : RmVia)
  /-- RM_RESHARD, R424: Requests a move to a new layout epoch at a fence step. -/
  | rmReshard (via : RmVia) (layout : List Nat)
  /-- RM_TICK, R429: Requests a tick-length change. -/
  | rmTick (via : RmVia)
  /-- RM_POLICY, R429: Replaces SLIP_UP and STEP_TMO. -/
  | rmPolicy (via : RmVia)
  /-- RM_HANDOVER, R429: Makes the standby take over at once. -/
  | rmHandover (via : RmVia)
  /-- PWR_QUERY, R461: Returns the power status, warnings, limits, power, temperatures and coolant. -/
  | pwrQuery (via : Via)
  /-- PWR_SET_BUDGET, R432: Writes the PMBus budget B_pm. -/
  | pwrSetBudget (via : Via)
  /-- PWR_ENERGY_QUERY, R461: Returns a tag's energy total. -/
  | pwrEnergyQuery (via : Via)
  /-- PWR_ENERGY_RELEASE, R458: Returns a tag's total and frees its accumulator. -/
  | pwrEnergyRelease (via : Via)
  /-- PWR_FORCE_MIN, R449: Sets or withdraws the FORCED cause. -/
  | pwrForceMin (via : Via)
  /-- PWR_COOL_CLEAR, R449: Allows ABRUPT to clear. -/
  | pwrCoolClear (via : Via)
  /-- PWR_RESUME, R448: Allows a latched clock stop to end. -/
  | pwrResume (via : Via)
  /-- PWR_WEAR_SAVE, R460: Writes a wear record to flash. -/
  | pwrWearSave (via : Via)
  /-- PKG_QUERY, R491: Returns package state, boot, starts, generations and lock. -/
  | pkgQuery (via : Via)
  /-- WARM, R478: Runs a warm start with memories in self-refresh. -/
  | warm (via : Via) (env : StartEnv)
  /-- COLD, R476: Begins a cold start. -/
  | cold (via : Via) (env : StartEnv)
  /-- DIE_RESET, R480: Restarts one Sedge die or I/O die 1-3. -/
  | dieReset (via : Via) (env : StartEnv)
  /-- SCHED_LOAD, R491: Checks and loads a schedule image, putting every stream in IDLE. -/
  | schedLoad (via : Via) (image : Option SchedImage)
  /-- SCHED_UNLOAD, R491: Puts every stream in IDLE, discards the tick plan and cancels probes. -/
  | schedUnload (via : Via)
  /-- FLASH_WRITE, R475: Writes and verifies an image in the unused flash slot. -/
  | flashWrite (via : Via) (image : List Nat) (part : Bool)
  /-- JNL_QUERY, R491: Returns journal entries. -/
  | jnlQuery (via : Via)
  /-- JNL_SPILL, R495: Sets or stops journal spill to host memory. -/
  | jnlSpill (via : Via)
  /-- DBG_UNLOCK, R488: Opens the debug lock. -/
  | dbgUnlock (via : Via)
  /-- DBG_LOCK, R488: Closes the debug lock. -/
  | dbgLock (via : Via)
  /-- RETURN_CAPTURE, R501: Writes the capture record to flash and, optionally, to host memory. -/
  | returnCapture (via : Via) (part : Bool)
  /-- TS_INC, R277: A host write increments a turnstile under its epoch stamp. -/
  | tsInc (ts value : Nat)
  /-- TS_COUNT_WRITE, R277: An expert write sets a turnstile's COUNT. -/
  | tsCountWrite (ts value : Nat)
  /-- TS_TARGET_WRITE, R277: An expert write sets a turnstile's TARGET. -/
  | tsTargetWrite (ts value : Nat)
  /-- VE_SLOT_CFG_WRITE, R156: Writes a slot configuration and checks the slot, setting or clearing BAD. -/
  | veSlotCfgWrite (core slot value : Nat)
  /-- VE_SLOT_CONTENT_WRITE, R156: Writes a micro-op or constant of a slot and sets BAD. -/
  | veSlotContentWrite (core slot k value : Nat)
  /-- UD_RULE_CFG_WRITE, R305: Writes an expert-rule configuration and checks the slot. -/
  | udRuleCfgWrite (die slot value : Nat)
  /-- RATICKS_WRITE, R203: Writes the run-ahead lead; 0 disables and cancels probes. -/
  | raticksWrite (core value : Nat)
  /-- DIR_CTRL_EN_WRITE, R364: Enables or disables the directory, clearing a lost range on re-enable. -/
  | dirCtrlEnWrite (value : Nat)
  /-- MEM_CTRL_CEN_WRITE, R321: Enables or bypasses the stack cache, invalidating every line. -/
  | memCtrlCenWrite (site value : Nat)
  /-- TIME_CTRL_ALIGN_WRITE, R240: Reruns the aligner from stored codes. -/
  | timeCtrlAlignWrite (value : Nat) (skews : List Int)
  /-- UD_RECBASE_FIRST_WRITE, R311: The first write of UD_RECBASE after a cold start clears the record range. -/
  | udRecbaseFirstWrite (die value : Nat)
  /-- TIME_BEAT_READ, R240: A 32-bit read of TIME_BEAT latches the high half. -/
  | timeBeatRead (size : Nat)
  /-- REGISTER_READ_CLEAR, R11: A read of RC fields returns them and clears the fields wholly read. -/
  | registerReadClear (addr size : Nat)
  /-- REGISTER_WRITE, R11: A write to a register without a row of its own, under access codes and expert level. -/
  | registerWrite (addr size value : Nat)
  /-- BAR2_READ, R510: A host read of the stack window is split into line requests and completed. -/
  | bar2Read (addr len : Nat)
  /-- BAR2_WRITE, R509: A host write of the stack window is split into line requests. -/
  | bar2Write (addr : Nat) (data : List Nat)
  /-- BAR2_ATOMICOP, R511: A host AtomicOp executes at the stack site. -/
  | bar2Atomicop (addr op size operand compare : Nat)
  /-- BAR2_TIMEOUT, R510: A BAR2 request exceeds HIF_TMO.BAR2 and ends in Completer Abort or a drop. -/
  | bar2Timeout (addr : Nat) (write : Bool)
  /-- HIF_BAR2_WRITE, R509: Rebases the stack window and sets its hint, governing later BAR2 requests. -/
  | hifBar2Write (value : Nat)
  /-- SUBMISSION_DOORBELL, R513: A new submission-queue TAIL is written. -/
  | submissionDoorbell (value : Nat)
  /-- FRAME_FETCH, R513: Firmware fetches a command frame when there is room, and parses it. -/
  | frameFetch (frame args : List Nat)
  /-- TURNSTILE_DOORBELL, R512: A doorbell write increments a mapped turnstile. -/
  | turnstileDoorbell (page index value : Nat)
  /-- COMPLETION_ENTRY_WRITE, R515: A completion entry and its response are written, then an MSI-X message is sent. -/
  | completionEntryWrite
  /-- CQ_HEAD_WRITE, R513: The host consumes completion entries and frees room. -/
  | cqHeadWrite (value : Nat)
  /-- CQEN_WRITE, R513: Enables the queues, resetting pointers, or disables fetching. -/
  | cqenWrite (value : Nat) (bme : Bool)
  /-- MSIX_UNMASK, R518: Unmasking a vector sends its pending message. -/
  | msixUnmask (vec : Nat) (enable mask : Bool)
  /-- DMA_TIMEOUT, R516: A host read exceeds HIF_TMO.DMA; its command fails and DMA_ERR is raised. -/
  | dmaTimeout (seq : Nat) (frame : List Nat)
  /-- FLR, R519: Function Level Reset resets the host-port state. -/
  | flr
  /-- HOT_RESET, R519: A hot reset or link disable retrains the link and resets the host-port state. -/
  | hotReset (width rate : Nat) (flit : Bool)
  /-- PERST, R519: PERST# resets the host port only. -/
  | perst (width rate : Nat) (flit : Bool)
  /-- CXL_LINK_UP, R521: A CXL link comes up and firmware enumerates its devices and sets ranges. -/
  | cxlLinkUp (port width rate : Nat) (devs : List CxlDev)
  /-- CXL_DEVICE_NOT_ACTIVE, R521: A device is not active after 60 s and is excluded. -/
  | cxlDeviceNotActive (port serial : Nat)
  /-- CXL_LINK_DOWN, R522: A CXL link goes down or a fatal error occurs, and the window answers FENCED. -/
  | cxlLinkDown (port : Nat)
  /-- CLEAR_FAULTS, R525: Clears status bits whose cause has ended and releases ALERT#. -/
  | clearFaults (pec : Bool)
  /-- CAPABILITY, R523: Returns the PMBus capability byte. -/
  | capability
  /-- STATUS_BYTE, R525: Returns the low byte of STATUS_WORD. -/
  | statusByte
  /-- STATUS_WORD, R525: Returns the status word. -/
  | statusWord
  /-- STATUS_TEMPERATURE, R525: Returns the temperature status. -/
  | statusTemperature
  /-- STATUS_CML, R523: Returns the communication status. -/
  | statusCml
  /-- STATUS_MFR_SPECIFIC, R525: Returns the coolant and sensor warning bits. -/
  | statusMfrSpecific
  /-- READ_TEMPERATURE_1, R523: Returns the hottest hot-spot value. -/
  | readTemperature1
  /-- READ_TEMPERATURE_2, R523: Returns the hottest stack temperature. -/
  | readTemperature2
  /-- READ_TEMPERATURE_3, R523: Returns the coolant inlet in use. -/
  | readTemperature3
  /-- READ_PIN, R523: Returns the 1-ms average package power. -/
  | readPin
  /-- PMBUS_REVISION, R523: Returns the PMBus revision. -/
  | pmbusRevision
  /-- MFR_ID, R523: Returns the manufacturer identity. -/
  | mfrId
  /-- MFR_MODEL, R523: Returns the part number. -/
  | mfrModel
  /-- MFR_SERIAL, R523: Returns the serial number. -/
  | mfrSerial
  /-- MFR_COOLANT, R450: A coolant report is accepted or rejected and coolant limits are applied. -/
  | mfrCoolant (data : List Nat) (pec : Bool)
  /-- MFR_BUDGET, R432: Writes or reads B_pm over PMBus; a write is journaled as PWR_SET_BUDGET. -/
  | mfrBudget (write : Bool) (watts : Nat) (pec : Bool)
  /-- MFR_CMD, R526: Queues a command frame from MGMT, or NACKs it while eight completions are held. -/
  | mfrCmd (frame : List Nat) (pec : Bool)
  /-- MFR_RSP, R526: Returns and releases the oldest MGMT completion. -/
  | mfrRsp
  /-- SMBUS_INVALID_COMMAND, R523: An unknown command code is NACKed and STATUS_CML bit 7 is set. -/
  | smbusInvalidCommand (code : Nat)
  /-- ALERT_RESPONSE, R527: A won read of the Alert Response Address releases ALERT#. -/
  | alertResponse (won : Bool)
  /-- EXTEST, R528: Boundary-scan test, effective only in RESET or RECOVERY. -/
  | extest (pins bits : Nat)
  /-- SAMPLE_PRELOAD, R528: Standard boundary-scan sample and preload. -/
  | samplePreload (pins bits : Nat)
  /-- CLAMP, R528: Boundary-scan clamp, effective only in RESET or RECOVERY. -/
  | clamp
  /-- HIGHZ, R528: Boundary-scan high impedance, effective only in RESET or RECOVERY. -/
  | highz
  /-- IDCODE, R528: Returns the JTAG identity. -/
  | idcode
  /-- BYPASS, R528: Selects the bypass register. -/
  | bypass
  /-- DBGREG, R529: Performs a BAR0 access over JTAG while the debug lock is open. -/
  | dbgreg (word : Nat)
  /-- DBGCMD, R529: Submits a command frame over JTAG as class DBG. -/
  | dbgcmd (frame : List Nat)
  /-- DBGCMD_CAPTURE, R529: Capture-DR returns the oldest held DBG completion. -/
  | dbgcmdCapture
  /-- MARKER_LOCK_LOSS, R398: A fabric lane loses marker lock and its port enters RECOVER to switch the slot to the spare. -/
  | markerLockLoss (die ln : Nat)
  /-- MODULE_REPORTED_FAULT, R339: A DDR5 module reports a fault of its channel and the peat channel is fenced with REASON 5. -/
  | moduleReportedFault (die ch : Nat)
  /-- FAR_TIER_ACCESS, R347: A request to a local far-tier offset reaches its CXL port and is answered OK, UE, UNMAPPED or FENCED. -/
  | farTierAccess (id addr : Nat) (write : Bool) (len : Nat) (data : List Nat) (bad : Bool)
  /-- CXL_IO_ERROR, R522: An error reported over CXL.io is logged by the port's AER and counted in HIF_CXLp.ERR. -/
  | cxlIoError (port : Nat) (fatal : Bool)
  deriving DecidableEq, Repr

end Sys2Proof
end

