-- ==== Sys2Proof/Decode.lean ====
section
/-!
DEFINITION. Sys2Proof/Decode.lean: the command that a word of the opcode table spells. The table gives no row any bits: commands
carry operands and no encoding, so that no word spells one. The core instructions' own words are decoded where they are fetched
(Machine/Operands.lean).
-/

namespace Sys2Proof

/-- The command whose table bits are `w`: none, as no row of the table has bits. -/
def decodeTableWord (_nbits _w : Nat) : Option Instr := none

end Sys2Proof
end

