-- ==== Sys2Proof/Machine/Num.lean ====
section
/-!
DEFINITION. Machine/Num.lean: number formats, rounding, block scaling and conversion (chapter 02, R29-R56).
Element encodings are natural numbers below 2^width. Finite values are exact: a sign, a magnitude and a power of two.
-/

namespace Sys2Proof.Machine

/-- The eight element formats (R29). -/
inductive Fmt where
  | f32 | b16 | h16 | f8e4 | f8e5 | f4 | i8 | i4
  deriving DecidableEq, Repr

/-- The format a 4-bit code names; reserved codes name none (R29). -/
def Fmt.ofCode : Nat → Option Fmt
  | 0 => some .f32 | 1 => some .b16 | 2 => some .h16 | 3 => some .f8e4
  | 4 => some .f8e5 | 5 => some .f4 | 6 => some .i8 | 7 => some .i4 | _ => none

/-- The 4-bit code of a format (R29). -/
def Fmt.code : Fmt → Nat
  | .f32 => 0 | .b16 => 1 | .h16 => 2 | .f8e4 => 3 | .f8e5 => 4 | .f4 => 5 | .i8 => 6 | .i4 => 7

/-- Bits per element (R29). -/
def Fmt.bits : Fmt → Nat
  | .f32 => 32 | .b16 => 16 | .h16 => 16 | .f8e4 => 8 | .f8e5 => 8 | .f4 => 4 | .i8 => 8 | .i4 => 4

/-- Narrow formats are stored in scaled blocks; wide formats as plain elements (R29). -/
def Fmt.narrow : Fmt → Bool
  | .f32 => false | .b16 => false | .h16 => false | _ => true

/-- Bytes that `n` elements of a format occupy, the last byte of a 4-bit row counted whole (R36). -/
def Fmt.bytes (t : Fmt) (n : Nat) : Nat := (n * t.bits + 7) / 8

/-- Exponent-field bits of a floating format (R30); 0 for the integer formats. -/
def Fmt.ebits : Fmt → Nat
  | .f32 => 8 | .b16 => 8 | .h16 => 5 | .f8e4 => 4 | .f8e5 => 5 | .f4 => 2 | .i8 => 0 | .i4 => 0

/-- Mantissa-field bits q of a floating format (R30). -/
def Fmt.mbits : Fmt → Nat
  | .f32 => 23 | .b16 => 7 | .h16 => 10 | .f8e4 => 3 | .f8e5 => 2 | .f4 => 1 | .i8 => 0 | .i4 => 0

/-- Exponent bias (R30). -/
def Fmt.bias : Fmt → Int
  | .f32 => 127 | .b16 => 127 | .h16 => 15 | .f8e4 => 7 | .f8e5 => 15 | .f4 => 1 | .i8 => 0 | .i4 => 0

/-- The integer formats (R31). -/
def Fmt.isInt : Fmt → Bool
  | .i8 => true | .i4 => true | _ => false

/-- The canonical NaN encoding (R30, R33); the formats without one answer 0, which nothing reads. -/
def Fmt.nanEnc : Fmt → Nat
  | .f32 => 0x7FC00000 | .b16 => 0x7FC0 | .h16 => 0x7E00 | .f8e4 => 0x7F | .f8e5 => 0x7E | _ => 0

/-- An element value: NaN, an infinity, or exactly (-1)^neg * mag * 2^e (R30, R37). -/
inductive Val where
  | nan
  | inf (neg : Bool)
  | fin (neg : Bool) (mag : Nat) (e : Int)
  deriving DecidableEq, Repr

/-- Positive zero. -/
def Val.zero : Val := .fin false 0 0

def Val.isFinite : Val → Bool
  | .fin _ _ _ => true
  | _ => false

def Val.isNaN : Val → Bool
  | .nan => true
  | _ => false

def Val.isZero : Val → Bool
  | .fin _ 0 _ => true
  | _ => false

def Val.isNeg : Val → Bool
  | .nan => false
  | .inf n => n
  | .fin n _ _ => n

def Val.neg : Val → Val
  | .nan => .nan
  | .inf n => .inf (!n)
  | .fin n m e => .fin (!n) m e

def Val.abs : Val → Val
  | .nan => .nan
  | .inf _ => .inf false
  | .fin _ m e => .fin false m e

/-- An exact dyadic number m * 2^e: the `ex` values of the manual's pseudocode (R15). -/
structure Dy where
  m : Int
  e : Int
  deriving DecidableEq, Repr

def Dy.zero : Dy := ⟨0, 0⟩

/-- 2 to an integer power as an integer factor; negative exponents are never asked for. -/
def pow2 (k : Int) : Int := Int.ofNat (2 ^ k.toNat)

def Dy.add (a b : Dy) : Dy :=
  if a.m = 0 then b
  else if b.m = 0 then a
  else if a.e ≤ b.e then ⟨a.m + b.m * pow2 (b.e - a.e), a.e⟩
  else ⟨a.m * pow2 (a.e - b.e) + b.m, b.e⟩

def Dy.mul (a b : Dy) : Dy := if a.m = 0 || b.m = 0 then ⟨0, 0⟩ else ⟨a.m * b.m, a.e + b.e⟩

def Dy.neg (a : Dy) : Dy := ⟨-a.m, a.e⟩

def Dy.sub (a b : Dy) : Dy := a.add b.neg

def Dy.abs (a : Dy) : Dy := ⟨Int.ofNat a.m.natAbs, a.e⟩

/-- Scaling by a power of two is exact. -/
def Dy.scale (a : Dy) (k : Int) : Dy := ⟨a.m, a.e + k⟩

def Dy.lt (a b : Dy) : Bool := (a.sub b).m < 0

def Dy.le (a b : Dy) : Bool := (a.sub b).m ≤ 0

def Dy.eq (a b : Dy) : Bool := (a.sub b).m = 0

def Dy.max (a b : Dy) : Dy := if a.lt b then b else a

def Dy.ofInt (i : Int) : Dy := ⟨i, 0⟩

def Val.toDy : Val → Dy
  | .fin n m e => ⟨if n then -(Int.ofNat m) else Int.ofNat m, e⟩
  | _ => Dy.zero

/-- A dyadic number as a finite value; an exact zero takes the sign given. -/
def Dy.toVal (a : Dy) (zneg : Bool := false) : Val :=
  if a.m = 0 then .fin zneg 0 0 else .fin (a.m < 0) a.m.natAbs a.e

/-- The three rounding modes (R40). -/
inductive Rnd where
  | rne | rtz | sr
  deriving DecidableEq, Repr

/-- The mode of a 2-bit RND field; 0b11 is reserved (R40). -/
def Rnd.ofCode : Nat → Option Rnd
  | 0 => some .rne | 1 => some .rtz | 2 => some .sr | _ => none

/-- A rounding grid (R40): significand bits with the exponent of the smallest step, or the integers. -/
inductive Grid where
  | flt (p : Nat) (emin : Int)
  | int
  deriving DecidableEq, Repr

/-- The grid of a format: p = q + 1 significand bits, smallest subnormal 2^(1 - bias - q) (R30, R31). -/
def Fmt.grid (t : Fmt) : Grid :=
  if t.isInt then .int else .flt (t.mbits + 1) (1 - t.bias - Int.ofNat t.mbits)

/-- The power of two of the grid step around a magnitude mag * 2^e. -/
def Grid.step (g : Grid) (mag : Nat) (e : Int) : Int :=
  match g with
  | .int => 0
  | .flt p emin => max emin (e + Int.ofNat (Nat.log2 mag) - Int.ofNat (p - 1))

/-- Rounds the magnitude mag * 2^e to n steps of 2^q of the grid, answering (n, q) (R40, R41). -/
def roundMag (g : Grid) (rm : Rnd) (rnd : Nat) (mag : Nat) (e : Int) : Nat × Int :=
  if mag = 0 then (0, 0)
  else
    let q := g.step mag e
    if q ≤ e then (mag * 2 ^ (e - q).toNat, q)
    else
      let d := (q - e).toNat
      let lo := mag / 2 ^ d
      let rem := mag % 2 ^ d
      if rem = 0 then (lo, q)
      else match rm with
        | .rtz => (lo, q)
        | .rne =>
          let twice := 2 * rem
          if twice < 2 ^ d then (lo, q)
          else if 2 ^ d < twice then (lo + 1, q)
          else if lo % 2 = 0 then (lo, q) else (lo + 1, q)
        | .sr => if 65536 ≤ rem * 65536 / 2 ^ d + rnd then (lo + 1, q) else (lo, q)

/-- Rounds an exact number to a grid (R40, R41). -/
def Dy.round (x : Dy) (g : Grid) (rm : Rnd) (rnd : Nat) : Dy :=
  let r := roundMag g rm rnd x.m.natAbs x.e
  ⟨if x.m < 0 then -(Int.ofNat r.1) else Int.ofNat r.1, r.2⟩

/-- The largest finite magnitude of a format (R30, R31, R45). -/
def Fmt.maxfin : Fmt → Dy
  | .f32 => ⟨0xFFFFFF, 104⟩ | .b16 => ⟨0xFF, 120⟩ | .h16 => ⟨65504, 0⟩
  | .f8e4 => ⟨448, 0⟩ | .f8e5 => ⟨57344, 0⟩ | .f4 => ⟨6, 0⟩ | .i8 => ⟨127, 0⟩ | .i4 => ⟨7, 0⟩

/-- The value of an element encoding, before any block scale (R30, R31). -/
def Fmt.decode (t : Fmt) (enc : Nat) : Val :=
  if t.isInt then
    let h := 2 ^ (t.bits - 1)
    let x := enc % 2 ^ t.bits
    if x < h then .fin false x 0 else .fin true (2 ^ t.bits - x) 0
  else
    let s := enc / 2 ^ (t.bits - 1) % 2 = 1
    let ef := enc / 2 ^ t.mbits % 2 ^ t.ebits
    let m := enc % 2 ^ t.mbits
    let top := 2 ^ t.ebits - 1
    let ieee := t ≠ .f8e4 ∧ t ≠ .f4
    if ieee ∧ ef = top then (if m = 0 then .inf s else .nan)
    else if t = .f8e4 ∧ ef = top ∧ m = 7 then .nan
    else if ef = 0 then .fin s m (1 - t.bias - Int.ofNat t.mbits)
    else .fin s (2 ^ t.mbits + m) (Int.ofNat ef - t.bias - Int.ofNat t.mbits)

/-- The encoding of a magnitude n * 2^q that lies on the floating grid of a format, with its sign. -/
def Fmt.encodeMag (t : Fmt) (neg : Bool) (n : Nat) (q : Int) : Nat :=
  let sg := if neg then 2 ^ (t.bits - 1) else 0
  if n = 0 then sg
  else
    let emin := 1 - t.bias - Int.ofNat t.mbits
    let lg := q + Int.ofNat (Nat.log2 n)
    if lg < 1 - t.bias then sg + n * 2 ^ (q - emin).toNat
    else
      let ef := (lg + t.bias).toNat
      let fr := n * 2 ^ t.mbits / 2 ^ (Nat.log2 n) - 2 ^ t.mbits
      sg + ef * 2 ^ t.mbits + fr

/-- The infinity encodings of the wide formats (R30). -/
def Fmt.infEnc (t : Fmt) (neg : Bool) : Nat :=
  (if neg then 2 ^ (t.bits - 1) else 0) + (2 ^ t.ebits - 1) * 2 ^ t.mbits

/-- Conversion events (R43), one bit each, in the order of the units' event registers. -/
def evInexact : Nat := 1
def evUnderflow : Nat := 2
def evOverflow : Nat := 4
def evSaturated : Nat := 8
def evNonfinite : Nat := 16
def evScaleExhausted : Nat := 32

/-- An encoding or other result with the events raised on the way. -/
structure WithEv (α : Type) where
  val : α
  ev : Nat
  deriving DecidableEq, Repr

/-- Rounds a value into a wide format (R33, R40, R41, R44). A rounded zero keeps its sign (R32). -/
def Fmt.ofVal (t : Fmt) (rm : Rnd) (rnd : Nat) : Val → WithEv Nat
  | .nan => ⟨t.nanEnc, evNonfinite⟩
  | .inf s => ⟨t.infEnc s, evNonfinite⟩
  | .fin s mag e =>
    if mag = 0 then ⟨t.encodeMag s 0 0, 0⟩
    else
      let r := roundMag t.grid rm rnd mag e
      let rounded : Dy := ⟨Int.ofNat r.1, r.2⟩
      if t.maxfin.lt rounded then
        match rm with
        | .rne => ⟨t.infEnc s, evOverflow ||| evInexact⟩
        | _ => ⟨t.infEnc s - 1, evOverflow ||| evInexact⟩
      else
        let exceeds := rm = .rtz ∧ t.maxfin.lt ⟨Int.ofNat mag, e⟩
        let inx := if rounded.eq ⟨Int.ofNat mag, e⟩ then 0 else evInexact
        ⟨t.encodeMag s r.1 r.2,
          inx ||| (if r.1 = 0 then evUnderflow else 0) ||| (if exceeds then evOverflow else 0)⟩

/-- An F32 pattern read as a value. -/
def f32v (x : Nat) : Val := Fmt.f32.decode x

/-- rne_f32 of an exact value. -/
def f32rne (v : Val) : Nat := (Fmt.f32.ofVal .rne 0 v).val

/-- FLAG_O and FLAG_E of a scale word, kept as its bits [11:10] in place (R38). -/
def keepOE (scaleWord : Nat) : Nat := scaleWord / 1024 % 4 * 4

def flagZ : Nat := 1
def flagS : Nat := 2
def flagO : Nat := 4
def flagE : Nat := 8

/-- The smallest integer s with amax ≤ mf * 2^s, by its position among neighbouring powers (R47). -/
def minScale (amax mf : Dy) : Int :=
  let lo := amax.e + Int.ofNat (Nat.log2 amax.m.natAbs) - (mf.e + Int.ofNat (Nat.log2 mf.m.natAbs))
  if amax.le (mf.scale (lo - 1)) then lo - 1
  else if amax.le (mf.scale lo) then lo
  else lo + 1

/-- One element of a narrow block: the value, already scaled, becomes an encoding and events (R45, R47). -/
def Fmt.narrowElem (t : Fmt) (rm : Rnd) (rnd : Nat) (v : Dy) : WithEv Nat :=
  if t.maxfin.lt v.abs then
    let m := t.maxfin
    let enc := if t.isInt then (if v.m < 0 then 2 ^ t.bits - m.m.natAbs else m.m.natAbs)
      else t.encodeMag (v.m < 0) m.m.natAbs m.e
    ⟨enc, evSaturated ||| evInexact⟩
  else
    let r := v.round t.grid rm rnd
    let inx := if r.eq v then 0 else evInexact
    let und := if r.m = 0 ∧ v.m ≠ 0 then evUnderflow else 0
    let enc :=
      if r.m = 0 then 0
      else if t.isInt then
        let k := r.m.natAbs * 2 ^ r.e.toNat
        if r.m < 0 then 2 ^ t.bits - k else k
      else t.encodeMag (r.m < 0) r.m.natAbs r.e
    ⟨enc, inx ||| und⟩

/-- A quantised block: scale word, element encodings, events (R47). -/
structure QBlock where
  scale : Nat
  enc : List Nat
  ev : Nat
  deriving DecidableEq, Repr

/-- R47, quantise_block. `fixed` is the forced static code, if any; `n` real elements lead the list, which is padded to
32 positions; `rnd` supplies one 16-bit value an element in SR. -/
def quantiseBlock (x : List Val) (t : Fmt) (fixed : Option Nat) (rm : Rnd) (rnd : List Nat) (keep : Nat) : QBlock :=
  if x.any (fun v => !v.isFinite) then ⟨keep * 256 + 255, List.replicate 32 0, evNonfinite⟩
  else
    let d := x.map Val.toDy
    let amax := d.foldl (fun a v => a.max v.abs) Dy.zero
    if amax.m = 0 then ⟨(keep ||| flagZ) * 256, List.replicate 32 0, 0⟩
    else
      let s0 := match fixed with
        | some c => Int.ofNat c - 127
        | none => minScale amax t.maxfin
      let clamped := fixed.isNone && (s0 < -127 || 127 < s0)
      let s := if fixed.isSome then s0 else max (-127) (min 127 s0)
      let els := (List.range 32).map fun i =>
        match d[i]? with
        | some v => t.narrowElem rm (rnd.getD i 0) (v.scale (-s))
        | none => ⟨0, 0⟩
      let bev := els.foldl (fun a w => a ||| w.ev) 0
      let sat := bev &&& evSaturated ≠ 0
      let allZero := els.all fun w => w.val = 0
      let ev := if clamped ∧ bev &&& evInexact ≠ 0 then bev ||| evScaleExhausted else bev
      let fl := keep ||| (if sat then flagS else 0) ||| (if allZero ∧ fixed.isNone then flagZ else 0)
      ⟨fl * 256 + (s + 127).toNat, els.map (·.val), ev⟩

/-- A block element decoded with its scale word (R37). -/
def Fmt.decodeBlockElem (t : Fmt) (scaleWord enc : Nat) : Val :=
  let sc := scaleWord % 256
  if sc = 255 then .nan
  else if scaleWord / 256 % 2 = 1 then Val.zero
  else match t.decode enc with
    | .nan => .nan
    | .inf n => .inf n
    | .fin n m e => .fin n m (e + Int.ofNat sc - 127)

/-- Bytes of a natural number, least significant first (R10). -/
def leBytes : Nat → Nat → List Nat
  | 0, _ => []
  | k + 1, x => x % 256 :: leBytes k (x / 256)

/-- The number that bytes spell, least significant first (R10). -/
def ofLeBytes : List Nat → Nat
  | [] => 0
  | b :: bs => b + 256 * ofLeBytes bs

/-- Words of 8 bytes as bytes, as argument lists and packets carry them (17 R514, 13 R377). -/
def wordBytes (ws : List Nat) : List Nat := ws.flatMap (leBytes 8)

/-- A number's bits [hi:lo]. -/
def nbitsAt (w hi lo : Nat) : Nat := w / 2 ^ lo % 2 ^ (hi + 1 - lo)

/-- Two 4-bit codes a byte, the even element in the low half (R36). -/
def packNibbles : List Nat → List Nat
  | [] => []
  | [a] => [a % 16]
  | a :: b :: r => (a % 16 + 16 * (b % 16)) :: packNibbles r

/-- Element encodings as the bytes they occupy (R36, R10). -/
def Fmt.pack (t : Fmt) (l : List Nat) : List Nat :=
  if t.bits = 4 then packNibbles l else l.flatMap (leBytes (t.bits / 8))

/-- A list cut into groups of at most `k`, in order; fuel bounds the count. -/
def chunksFuel {α : Type} : Nat → Nat → List α → List (List α)
  | 0, _, _ => []
  | f + 1, k, l => match l with
    | [] => []
    | _ => l.take k :: chunksFuel f k (l.drop k)

/-- Blocks of 32 along the reduction dimension, the tail block shorter (R34). -/
def blocks32 {α : Type} (l : List α) : List (List α) := chunksFuel l.length 32 l

/-- A row of values in a format, as element bytes and scale-word bytes with the events raised (R52). `rnd i` is the random
value of element i; `keep b` the FLAG_O and FLAG_E bits of block b (as flags [3:2]). -/
structure Encoded where
  elems : List Nat
  scales : List Nat
  ev : Nat
  blocks : List QBlock
  deriving DecidableEq, Repr

def encodeRow (t : Fmt) (fixed : Option Nat) (rm : Rnd) (rnd : Nat → Nat) (keep : Nat → Nat) (x : List Val) : Encoded :=
  if t.narrow then
    let bs := (blocks32 x).zipIdx.map fun p =>
      quantiseBlock p.1 t fixed rm ((List.range 32).map fun i => rnd (32 * p.2 + i)) (keep p.2)
    ⟨t.pack (bs.flatMap (·.enc)), bs.flatMap (fun b => leBytes 2 b.scale), bs.foldl (fun a b => a ||| b.ev) 0, bs⟩
  else
    let es := x.zipIdx.map fun p => t.ofVal rm (rnd p.2) p.1
    ⟨t.pack (es.map (·.val)), [], es.foldl (fun a w => a ||| w.ev) 0, []⟩

end Sys2Proof.Machine
end

