-- ==== Sys2Proof/Machine/FloatFns.lean ====
section
/-!
DEFINITION. Machine/FloatFns.lean: F32 arithmetic on patterns and the table-and-polynomial functions of the vector engine
(06 R157-R161), the A32, A16 and I32 nodes of the engines (03 R62, R64).
A pattern is the 32-bit encoding as a natural number.
-/

namespace Sys2Proof.Machine

/-- Exact sum with IEEE 754 infinities and signed zeros (06 R158). -/
def Val.add : Val → Val → Val
  | .nan, _ => .nan
  | _, .nan => .nan
  | .inf a, .inf b => if a = b then .inf a else .nan
  | .inf a, _ => .inf a
  | _, .inf b => .inf b
  | .fin a m e, .fin b n f =>
    if m = 0 ∧ n = 0 then .fin (a && b) 0 0
    else (Dy.add (Val.fin a m e).toDy (Val.fin b n f).toDy).toVal false

/-- Exact product with IEEE 754 infinities and signed zeros. -/
def Val.mul : Val → Val → Val
  | .nan, _ => .nan
  | _, .nan => .nan
  | .inf a, .inf b => .inf (a != b)
  | .inf a, .fin b n _ => if n = 0 then .nan else .inf (a != b)
  | .fin a m _, .inf b => if m = 0 then .nan else .inf (a != b)
  | .fin a m e, .fin b n f => .fin (a != b) (m * n) (e + f)

/-- Order of two values that are not NaN; both zeros are equal. -/
def Val.lt : Val → Val → Bool
  | .nan, _ => false
  | _, .nan => false
  | .inf a, .inf b => a && !b
  | .inf a, _ => a
  | _, .inf b => !b
  | x, y => x.toDy.lt y.toDy

def Val.le (x y : Val) : Bool := !x.isNaN && !y.isNaN && !(y.lt x)

def Val.eq (x y : Val) : Bool := x.le y && y.le x

/-- rne_f32(a + b). -/
def fadd (a b : Nat) : Nat := f32rne ((f32v a).add (f32v b))

/-- rne_f32(a * b). -/
def fmul (a b : Nat) : Nat := f32rne ((f32v a).mul (f32v b))

/-- rne_f32(a * b + c), one rounding. -/
def ffma (a b c : Nat) : Nat := f32rne (((f32v a).mul (f32v b)).add (f32v c))

/-- Negation of a pattern. -/
def fneg (a : Nat) : Nat := if a / 2 ^ 31 % 2 = 1 then a - 2 ^ 31 else a + 2 ^ 31

/-- Absolute value of a pattern. -/
def fabs (a : Nat) : Nat := a % 2 ^ 31

def fsub (a b : Nat) : Nat := fadd a (fneg b)

def qNaN : Nat := 0x7FC00000
def posInf : Nat := 0x7F800000
def negInf : Nat := 0xFF800000
def fOne : Nat := 0x3F800000

/-- MIN: NaN if either is NaN; -0 is below +0 (R157, R158). -/
def fmin (a b : Nat) : Nat :=
  if (f32v a).isNaN || (f32v b).isNaN then qNaN
  else if (f32v a).lt (f32v b) then a
  else if (f32v b).lt (f32v a) then b
  else if (f32v a).isNeg then a else b

/-- MAX: NaN if either is NaN; +0 is above -0 (R157, R158). -/
def fmax (a b : Nat) : Nat :=
  if (f32v a).isNaN || (f32v b).isNaN then qNaN
  else if (f32v a).lt (f32v b) then b
  else if (f32v b).lt (f32v a) then a
  else if (f32v a).isNeg then b else a

/-- The integer a value rounds to. -/
def Val.toIntRnd (rm : Rnd) : Val → Int
  | .fin n m e =>
    let r := roundMag .int rm 0 m e
    let k := Int.ofNat (r.1 * 2 ^ r.2.toNat)
    if n then -k else k
  | _ => 0

/-- RINT and TRUNC: an integral F32, keeping the sign of a zero. -/
def frint (rm : Rnd) (a : Nat) : Nat :=
  match f32v a with
  | .fin n m e =>
    let r := roundMag .int rm 0 m e
    f32rne (.fin n r.1 r.2)
  | v => f32rne v

/-- A 32-bit pattern read as two's complement. -/
def asI32 (x : Nat) : Int := if x < 2 ^ 31 then Int.ofNat x else Int.ofNat x - 2 ^ 32

/-- An integer as a 32-bit pattern, modulo 2^32. -/
def ofI32 (i : Int) : Nat := (i % (2 ^ 32 : Int)).toNat

/-- F2I with saturation; 0 for NaN (R158). -/
def f2i (rm : Rnd) (a : Nat) : Nat :=
  match f32v a with
  | .nan => 0
  | .inf n => if n then 0x80000000 else 0x7FFFFFFF
  | v =>
    let k := v.toIntRnd rm
    if k < -(2 ^ 31 : Int) then 0x80000000 else if (2 ^ 31 - 1 : Int) < k then 0x7FFFFFFF else ofI32 k

/-- I2F: rne_f32 of an i32. -/
def i2f (a : Nat) : Nat := f32rne ((Dy.ofInt (asI32 a)).toVal false)

/-- An integer as the nearest F32. -/
def fOfInt (k : Int) : Nat := f32rne ((Dy.ofInt k).toVal false)

/-- Multiplication by an exact power of two, rounded once. -/
def fscale (a : Nat) (k : Int) : Nat :=
  match f32v a with
  | .fin n m e => f32rne (.fin n m (e + k))
  | v => f32rne v

/-- x = y * 2^e with 1 <= y < 2, for finite x > 0 (R160, R161). -/
def fsplit (x : Nat) : Nat × Int :=
  match f32v x with
  | .fin _ m e =>
    let l := Int.ofNat (Nat.log2 m)
    (f32rne (.fin false m (-l)), e + l)
  | _ => (fOne, 0)

/-- TEXP[j] = 2^(j/64), each the nearest F32 (R159). -/
def texp : List Nat := [
  0x3F800000, 0x3F8164D2, 0x3F82CD87, 0x3F843A29, 0x3F85AAC3, 0x3F871F62, 0x3F88980F, 0x3F8A14D5,
  0x3F8B95C2, 0x3F8D1ADF, 0x3F8EA43A, 0x3F9031DC, 0x3F91C3D3, 0x3F935A2B, 0x3F94F4F0, 0x3F96942D,
  0x3F9837F0, 0x3F99E046, 0x3F9B8D3A, 0x3F9D3EDA, 0x3F9EF532, 0x3FA0B051, 0x3FA27043, 0x3FA43516,
  0x3FA5FED7, 0x3FA7CD94, 0x3FA9A15B, 0x3FAB7A3A, 0x3FAD583F, 0x3FAF3B79, 0x3FB123F6, 0x3FB311C4,
  0x3FB504F3, 0x3FB6FD92, 0x3FB8FBAF, 0x3FBAFF5B, 0x3FBD08A4, 0x3FBF179A, 0x3FC12C4D, 0x3FC346CD,
  0x3FC5672A, 0x3FC78D75, 0x3FC9B9BE, 0x3FCBEC15, 0x3FCE248C, 0x3FD06334, 0x3FD2A81E, 0x3FD4F35B,
  0x3FD744FD, 0x3FD99D16, 0x3FDBFBB8, 0x3FDE60F5, 0x3FE0CCDF, 0x3FE33F89, 0x3FE5B907, 0x3FE8396A,
  0x3FEAC0C7, 0x3FED4F30, 0x3FEFE4BA, 0x3FF28177, 0x3FF5257D, 0x3FF7D0DF, 0x3FFA83B3, 0x3FFD3E0C]

/-- TRCP[j] = 64/j for j = 48 to 96 (R160). -/
def trcp : List Nat := [
  0x3FAAAAAB, 0x3FA72F05, 0x3FA3D70A, 0x3FA0A0A1, 0x3F9D89D9, 0x3F9A90E8, 0x3F97B426, 0x3F94F209,
  0x3F924925, 0x3F8FB824, 0x3F8D3DCB, 0x3F8AD8F3, 0x3F888889, 0x3F864B8A, 0x3F842108, 0x3F820821,
  0x3F800000, 0x3F7C0FC1, 0x3F783E10, 0x3F74898D, 0x3F70F0F1, 0x3F6D7304, 0x3F6A0EA1, 0x3F66C2B4,
  0x3F638E39, 0x3F607038, 0x3F5D67C9, 0x3F5A740E, 0x3F579436, 0x3F54C77B, 0x3F520D21, 0x3F4F6475,
  0x3F4CCCCD, 0x3F4A4588, 0x3F47CE0C, 0x3F4565C8, 0x3F430C31, 0x3F40C0C1, 0x3F3E82FA, 0x3F3C5264,
  0x3F3A2E8C, 0x3F381703, 0x3F360B61, 0x3F340B41, 0x3F321643, 0x3F302C0B, 0x3F2E4C41, 0x3F2C7692,
  0x3F2AAAAB]

/-- TLOG[j] = ln(j/64) for j = 48 to 96; TLOG[64] = 0 (R160). -/
def tlog : List Nat := [
  0xBE934B11, 0xBE88BC74, 0xBE7CC8E3, 0xBE6881C0, 0xBE549F6A, 0xBE411E0B, 0xBE2DFA03, 0xBE1B2FE6,
  0xBE08BC74, 0xBDED393B, 0xBDC99AF3, 0xBDA6988B, 0xBD842CC6, 0xBD44A551, 0xBD020AEC, 0xBC8102B3,
  0x00000000, 0x3C7E0546, 0x3CFC14D8, 0x3D3BA2C8, 0x3D785186, 0x3D9A0EBD, 0x3DB78694, 0x3DD4936A,
  0x3DF1383B, 0x3E06BBF4, 0x3E14AA98, 0x3E22695B, 0x3E2FF984, 0x3E3D5C48, 0x3E4A92D5, 0x3E579E4A,
  0x3E647FBE, 0x3E71383B, 0x3E7DC8C3, 0x3E851927, 0x3E8B3AE5, 0x3E914A10, 0x3E974716, 0x3E9D3263,
  0x3EA30C5E, 0x3EA8D56C, 0x3EAE8DEE, 0x3EB43641, 0x3EB9CEC0, 0x3EBF57C2, 0x3EC4D19C, 0x3ECA3CA1,
  0x3ECF991F]

/-- TRSQ[j], the inverse square root of the centre of interval j (R161). -/
def trsq : List Nat := [
  0x3F7F017E, 0x3F7D0D3E, 0x3F7B2452, 0x3F79464E, 0x3F7772CB, 0x3F75A969, 0x3F73E9CB, 0x3F723399,
  0x3F708681, 0x3F6EE232, 0x3F6D4660, 0x3F6BB2C5, 0x3F6A271A, 0x3F68A31D, 0x3F672691, 0x3F65B139,
  0x3F6442DB, 0x3F62DB41, 0x3F617A36, 0x3F601F87, 0x3F5ECB04, 0x3F5D7C7F, 0x3F5C33CC, 0x3F5AF0BF,
  0x3F59B330, 0x3F587AF7, 0x3F5747EE, 0x3F5619F2, 0x3F54F0DF, 0x3F53CC93, 0x3F52ACEE, 0x3F5191D1,
  0x3F507B1D, 0x3F4F68B6, 0x3F4E5A7F, 0x3F4D505E, 0x3F4C4A38, 0x3F4B47F4, 0x3F4A497A, 0x3F494EB3,
  0x3F485787, 0x3F4763E2, 0x3F4673AC, 0x3F4586D3, 0x3F449D42, 0x3F43B6E6, 0x3F42D3AD, 0x3F41F383,
  0x3F411659, 0x3F403C1C, 0x3F3F64BD, 0x3F3E902C, 0x3F3DBE58, 0x3F3CEF34, 0x3F3C22B1, 0x3F3B58C0,
  0x3F3A9154, 0x3F39CC60, 0x3F3909D6, 0x3F3849AA, 0x3F378BD0, 0x3F36D03D, 0x3F3616E4, 0x3F355FBA,
  0x3F3450FC, 0x3F32EF41, 0x3F319589, 0x3F304387, 0x3F2EF8F2, 0x3F2DB587, 0x3F2C7904, 0x3F2B432A,
  0x3F2A13C0, 0x3F28EA8C, 0x3F27C759, 0x3F26A9F4, 0x3F25922C, 0x3F247FD3, 0x3F2372BD, 0x3F226ABE,
  0x3F2167AF, 0x3F206968, 0x3F1F6FC4, 0x3F1E7AA0, 0x3F1D89D9, 0x3F1C9D4E, 0x3F1BB4E1, 0x3F1AD073,
  0x3F19EFE6, 0x3F191320, 0x3F183A05, 0x3F17647C, 0x3F16926C, 0x3F15C3BC, 0x3F14F857, 0x3F143026,
  0x3F136B13, 0x3F12A90B, 0x3F11E9F9, 0x3F112DCA, 0x3F10746D, 0x3F0FBDCE, 0x3F0F09DD, 0x3F0E5889,
  0x3F0DA9C2, 0x3F0CFD79, 0x3F0C539F, 0x3F0BAC25, 0x3F0B06FD, 0x3F0A641A, 0x3F09C36D, 0x3F0924EC,
  0x3F088889, 0x3F07EE37, 0x3F0755ED, 0x3F06BF9E, 0x3F062B40, 0x3F0598C7, 0x3F05082A, 0x3F04795F,
  0x3F03EC5C, 0x3F036117, 0x3F02D788, 0x3F024FA6, 0x3F01C967, 0x3F0144C4, 0x3F00C1B4, 0x3F004030]

/-- INV_L = 64 / ln 2 (R159). -/
def invL : Nat := 0x42B8AA3B

/-- L_HI = 709 / 2^16 (R159). -/
def lHi : Nat := 0x3C314000

/-- L_LO = ln 2 / 64 - L_HI (R159). -/
def lLo : Nat := 0x37485FDF

/-- C3 = 1/6 (R159). -/
def expC3 : Nat := 0x3E2AAAAB

/-- LN2_HI: ln 2 rounded toward zero to 16 significant bits (R160). -/
def ln2Hi : Nat := 0x3F317200

/-- LN2_LO = ln 2 - LN2_HI (R160). -/
def ln2Lo : Nat := 0x35BFBE8E

/-- D3 = 1/3 (R160). -/
def logD3 : Nat := 0x3EAAAAAB

/-- D5 = 1/5 (R160). -/
def logD5 : Nat := 0x3E4CCCCD

/-- 1.5957691 (R97). -/
def geluA : Nat := 0x3FCC4229

/-- 0.07135482 (R97). -/
def geluB : Nat := 0x3D92227A

/-- EXP (R159). -/
def vexp (x : Nat) : Nat :=
  let v := f32v x
  if v.isNaN then qNaN
  else if !(v.lt (.fin false 89 0)) then posInf
  else if v.le (.fin true 104 0) then 0
  else
    let t := fmul x invL
    let k := (f32v t).toIntRnd .rne
    let r := fsub x (fmul (fOfInt k) lHi)
    let r := fsub r (fmul (fOfInt k) lLo)
    let j := (k % 64).toNat
    let m := k / 64
    let q := fadd 0x3F000000 (fmul r expC3)
    let q := fmul (fmul r r) q
    let p := fadd r q
    let f := fmul (texp.getD j 0) p
    let f := fadd (texp.getD j 0) f
    fscale f m

/-- LOG (R160). -/
def vlog (x : Nat) : Nat :=
  let v := f32v x
  if v.isNaN || v.lt (.fin false 0 0) then qNaN
  else if v.isZero then negInf
  else if x = posInf then posInf
  else
    let s := fsplit x
    let big := !((f32v s.1).lt (.fin false 3 (-1)))
    let y := if big then fmul s.1 0x3F000000 else s.1
    let e := if big then s.2 + 1 else s.2
    let j := ((f32v (fmul y 0x42800000)).toIntRnd .rne).toNat
    let r := ffma y (trcp.getD (j - 48) 0) 0xBF800000
    let q := fmul r logD5
    let q := fsub q 0x3E800000
    let q := fmul r q
    let q := fadd q logD3
    let q := fmul r q
    let q := fsub q 0x3F000000
    let q := fmul (fmul r r) q
    let p := fadd r q
    let t := fadd (fmul (fOfInt e) ln2Hi) (tlog.getD (j - 48) 0)
    let u := fadd (fmul (fOfInt e) ln2Lo) p
    fadd t u

/-- One Newton step of RSQRT (R161). -/
def rsqrtStep (y g : Nat) : Nat :=
  let h := fmul y g
  let h := fmul h g
  let h := fmul h 0x3F000000
  let h := fsub 0x3FC00000 h
  fmul g h

/-- RSQRT (R161). -/
def vrsqrt (x : Nat) : Nat :=
  let v := f32v x
  if v.isNaN || v.lt (.fin false 0 0) then qNaN
  else if v.isZero then (if v.isNeg then negInf else posInf)
  else if x = posInf then 0
  else
    let s := fsplit x
    let odd := s.2 % 2 = 1
    let y := if odd then fscale s.1 1 else s.1
    let e := if odd then s.2 - 1 else s.2
    let j := if odd then 64 + s.1 / 2 ^ 17 % 64 else s.1 / 2 ^ 17 % 64
    let g := rsqrtStep y (rsqrtStep y (trsq.getD j 0))
    fscale g (-e / 2)

/-- Event of a float operation: EV_OVERFLOW when finite operands yield an infinity, EV_NONFINITE for a NaN result (R158). -/
def floatEv (ins : List Nat) (r : Nat) : Nat :=
  match f32v r with
  | .nan => evNonfinite
  | .inf _ => if ins.all (fun a => (f32v a).isFinite) then evOverflow else 0
  | _ => 0

/-- The A16 grid: F32 values with the low eight bits clear (03 R62). -/
def rneA16 (v : Val) : Nat :=
  match v with
  | .fin s mag e =>
    if mag = 0 then Fmt.f32.encodeMag s 0 0
    else
      let r := roundMag (.flt 16 (-141)) .rne 0 mag e
      if Dy.lt ⟨0xFFFF, 112⟩ ⟨Int.ofNat r.1, r.2⟩ then Fmt.f32.infEnc s
      else Fmt.f32.encodeMag s r.1 r.2
  | w => f32rne w

/-- The accumulation modes (03 R58). -/
inductive AccMode where
  | a32 | a16 | i32
  deriving DecidableEq, Repr

def AccMode.ofCode : Nat → Option AccMode
  | 0 => some .a32 | 1 => some .a16 | 2 => some .i32 | _ => none

/-- Event-byte bits of a tile (03 R80, R82). -/
def tevRunOvf : Nat := 1
def tevNonfinite : Nat := 2
def tevAccOvf : Nat := 4
def tevI32Sat : Nat := 8
def tevI32Scale : Nat := 16

/-- Events of a node or accumulator value: ACC_OVF also sets NONFINITE (03 R62, R80). -/
def nodeEv (ins : List Nat) (r : Nat) : Nat :=
  match f32v r with
  | .nan => tevNonfinite
  | .inf _ => if ins.all (fun a => (f32v a).isFinite) then tevAccOvf ||| tevNonfinite else tevNonfinite
  | _ => 0

/-- A tree node (03 R62): A32, A16 or exact I32. -/
def treeNode (m : AccMode) (x y : WithEv Nat) : WithEv Nat :=
  match m with
  | .a32 => let r := fadd x.val y.val; ⟨r, x.ev ||| y.ev ||| nodeEv [x.val, y.val] r⟩
  | .a16 => let r := rneA16 ((f32v x.val).add (f32v y.val)); ⟨r, x.ev ||| y.ev ||| nodeEv [x.val, y.val] r⟩
  | .i32 => ⟨ofI32 (asI32 x.val + asI32 y.val), x.ev ||| y.ev⟩

/-- acc_add: an A32 node, or the saturating I32 addition (03 R64, R65). -/
def accAdd (m : AccMode) (x y : WithEv Nat) : WithEv Nat :=
  match m with
  | .i32 =>
    let s := asI32 x.val + asI32 y.val
    if (2 ^ 31 - 1 : Int) < s then ⟨0x7FFFFFFF, x.ev ||| y.ev ||| tevI32Sat⟩
    else if s < -(2 ^ 31 : Int) then ⟨0x80000000, x.ev ||| y.ev ||| tevI32Sat⟩
    else ⟨ofI32 s, x.ev ||| y.ev⟩
  | _ => treeNode .a32 x y

/-- Sums of neighbouring pairs, in order. -/
def pairUp {α : Type} (f : α → α → α) : List α → List α
  | a :: b :: r => f a b :: pairUp f r
  | l => l

/-- tree() of 03 R65 over a power-of-two list: pairs, then pairs of pairs; fuel is its depth. -/
def treeSum {α : Type} (f : α → α → α) : Nat → List α → List α
  | 0, l => l
  | d + 1, l => treeSum f d (pairUp f l)

/-- The top of a tree over at most 64 inputs. -/
def treeTop {α : Type} (f : α → α → α) (z : α) (l : List α) : α := ((treeSum f 6 l).head?).getD z

end Sys2Proof.Machine
end

