-- ==== Sys2Proof/Machine/RegMap.lean ====
section
/-!
DEFINITION. Machine/RegMap.lean: the BAR0 address of every register and the place of every named field, as the register
tables of the chapters give them (00 R11-R13, 17 R506). A register of a block with copies takes the copy's number first
(core, site, die), then its own index.
-/

namespace Sys2Proof.Machine

/-- A field of a register: bits [hi:lo] (00 R10). -/
structure Fld where
  hi : Nat
  lo : Nat
  deriving DecidableEq, Repr

/-- Field width in bits. -/
def Fld.width (f : Fld) : Nat := f.hi + 1 - f.lo

/-- 03 R82; 32 bits. -/
def ME_CTRL (b i : Nat) : Nat := 0x1001000 + b * 0x10000 + i * 0x100
def fME_CTRL_ZGATE : Fld := ⟨1, 1⟩
def fME_CTRL_EN : Fld := ⟨0, 0⟩

/-- 03 R82; 64 bits. -/
def ME_STATUS (b i : Nat) : Nat := 0x1001008 + b * 0x10000 + i * 0x100
def fME_STATUS_LCOUNT : Fld := ⟨43, 33⟩
def fME_STATUS_LOCC : Fld := ⟨32, 30⟩
def fME_STATUS_LDEPTH : Fld := ⟨29, 28⟩
def fME_STATUS_LTILE : Fld := ⟨27, 24⟩
def fME_STATUS_WB1_FMT : Fld := ⟨23, 20⟩
def fME_STATUS_WB0_FMT : Fld := ⟨19, 16⟩
def fME_STATUS_WB1_ACC : Fld := ⟨15, 14⟩
def fME_STATUS_WB0_ACC : Fld := ⟨13, 12⟩
def fME_STATUS_WB1_LOADING : Fld := ⟨11, 11⟩
def fME_STATUS_WB0_LOADING : Fld := ⟨10, 10⟩
def fME_STATUS_WB1_VALID : Fld := ⟨9, 9⟩
def fME_STATUS_WB0_VALID : Fld := ⟨8, 8⟩
def fME_STATUS_OWNER : Fld := ⟨7, 6⟩
def fME_STATUS_BUSY : Fld := ⟨0, 0⟩

/-- 03 R82; 32 bits. -/
def ME_EVENTS (b i : Nat) : Nat := 0x1001010 + b * 0x10000 + i * 0x100
def fME_EVENTS_I32_SCALE : Fld := ⟨4, 4⟩
def fME_EVENTS_I32_SAT : Fld := ⟨3, 3⟩
def fME_EVENTS_ACC_OVF : Fld := ⟨2, 2⟩
def fME_EVENTS_NONFINITE : Fld := ⟨1, 1⟩
def fME_EVENTS_RUN_OVF : Fld := ⟨0, 0⟩

/-- 03 R82; 64 bits. -/
def ME_TEV_LO (b i : Nat) : Nat := 0x1001018 + b * 0x10000 + i * 0x100
def fME_TEV_LO_TEV7 : Fld := ⟨63, 56⟩
def fME_TEV_LO_TEV6 : Fld := ⟨55, 48⟩
def fME_TEV_LO_TEV5 : Fld := ⟨47, 40⟩
def fME_TEV_LO_TEV4 : Fld := ⟨39, 32⟩
def fME_TEV_LO_TEV3 : Fld := ⟨31, 24⟩
def fME_TEV_LO_TEV2 : Fld := ⟨23, 16⟩
def fME_TEV_LO_TEV1 : Fld := ⟨15, 8⟩
def fME_TEV_LO_TEV0 : Fld := ⟨7, 0⟩

/-- 03 R82; 64 bits. -/
def ME_TEV_HI (b i : Nat) : Nat := 0x1001020 + b * 0x10000 + i * 0x100
def fME_TEV_HI_TEV15 : Fld := ⟨63, 56⟩
def fME_TEV_HI_TEV14 : Fld := ⟨55, 48⟩
def fME_TEV_HI_TEV13 : Fld := ⟨47, 40⟩
def fME_TEV_HI_TEV12 : Fld := ⟨39, 32⟩
def fME_TEV_HI_TEV11 : Fld := ⟨31, 24⟩
def fME_TEV_HI_TEV10 : Fld := ⟨23, 16⟩
def fME_TEV_HI_TEV9 : Fld := ⟨15, 8⟩
def fME_TEV_HI_TEV8 : Fld := ⟨7, 0⟩

/-- 03 R82; 64 bits. -/
def ME_FAULT (b i : Nat) : Nat := 0x1001028 + b * 0x10000 + i * 0x100
def fME_FAULT_CODE : Fld := ⟨63, 56⟩
def fME_FAULT_STREAM : Fld := ⟨55, 54⟩
def fME_FAULT_COUNT : Fld := ⟨47, 32⟩
def fME_FAULT_PC : Fld := ⟨31, 0⟩

/-- 03 R82; 64 bits. -/
def ME_BUSY_CYC (b i : Nat) : Nat := 0x1001030 + b * 0x10000 + i * 0x100
def fME_BUSY_CYC_BUSY_CYC : Fld := ⟨63, 0⟩

/-- 03 R82; 64 bits. -/
def ME_MACS (b i : Nat) : Nat := 0x1001038 + b * 0x10000 + i * 0x100
def fME_MACS_MACS : Fld := ⟨63, 0⟩

/-- 03 R82; 64 bits. -/
def ME_STALL_CYC (b i : Nat) : Nat := 0x1001040 + b * 0x10000 + i * 0x100
def fME_STALL_CYC_STALL_CYC : Fld := ⟨63, 0⟩

/-- 04 R112; 32 bits. -/
def DR_CTRL (b : Nat) : Nat := 0x1001400 + b * 0x10000
def fDR_CTRL_EN : Fld := ⟨0, 0⟩

/-- 04 R112; 64 bits. -/
def DR_STATUS (b : Nat) : Nat := 0x1001408 + b * 0x10000
def fDR_STATUS_HOOK_WAIT : Fld := ⟨11, 8⟩
def fDR_STATUS_WINDOW_BUSY : Fld := ⟨7, 4⟩
def fDR_STATUS_SIDE_BUSY : Fld := ⟨3, 0⟩

/-- 04 R112; 32 bits. -/
def DR_EVENTS (b : Nat) : Nat := 0x1001410 + b * 0x10000
def fDR_EVENTS_TEV_OR : Fld := ⟨12, 8⟩
def fDR_EVENTS_ACC_PARITY : Fld := ⟨6, 6⟩
def fDR_EVENTS_EV_SCALE_EXHAUSTED : Fld := ⟨5, 5⟩
def fDR_EVENTS_EV_NONFINITE : Fld := ⟨4, 4⟩
def fDR_EVENTS_EV_SATURATED : Fld := ⟨3, 3⟩
def fDR_EVENTS_EV_OVERFLOW : Fld := ⟨2, 2⟩
def fDR_EVENTS_EV_UNDERFLOW : Fld := ⟨1, 1⟩
def fDR_EVENTS_EV_INEXACT : Fld := ⟨0, 0⟩

/-- 04 R112; 64 bits. -/
def DR_FAULT (b : Nat) : Nat := 0x1001418 + b * 0x10000
def fDR_FAULT_CODE : Fld := ⟨63, 56⟩
def fDR_FAULT_STREAM : Fld := ⟨55, 54⟩
def fDR_FAULT_ENG : Fld := ⟨53, 52⟩
def fDR_FAULT_COUNT : Fld := ⟨47, 32⟩
def fDR_FAULT_PC : Fld := ⟨31, 0⟩

/-- 04 R112; 64 bits. -/
def DR_ROWS (b : Nat) : Nat := 0x1001420 + b * 0x10000
def fDR_ROWS_ROWS : Fld := ⟨63, 0⟩

/-- 04 R112; 64 bits. -/
def DR_STALL_CYC (b : Nat) : Nat := 0x1001428 + b * 0x10000
def fDR_STALL_CYC_STALL_CYC : Fld := ⟨63, 0⟩

/-- 04 R112; 64 bits. -/
def DR_PERR (b : Nat) : Nat := 0x1001430 + b * 0x10000
def fDR_PERR_COUNT : Fld := ⟨31, 0⟩

/-- 04 R112; 64 bits. -/
def DR_PROF_A (b i : Nat) : Nat := 0x1001440 + b * 0x10000 + i * 0x10
def fDR_PROF_A_SCALE : Fld := ⟨63, 32⟩
def fDR_PROF_A_OFMT : Fld := ⟨31, 28⟩
def fDR_PROF_A_RND : Fld := ⟨27, 26⟩
def fDR_PROF_A_BSZ : Fld := ⟨25, 24⟩
def fDR_PROF_A_BDIR : Fld := ⟨23, 23⟩
def fDR_PROF_A_ACT : Fld := ⟨22, 20⟩
def fDR_PROF_A_BIASF : Fld := ⟨19, 18⟩
def fDR_PROF_A_AUXF : Fld := ⟨17, 14⟩
def fDR_PROF_A_AUXEN : Fld := ⟨13, 13⟩
def fDR_PROF_A_NCOL : Fld := ⟨12, 6⟩
def fDR_PROF_A_LK : Fld := ⟨5, 3⟩

/-- 04 R112; 32 bits. -/
def DR_PROF_B (b i : Nat) : Nat := 0x1001448 + b * 0x10000 + i * 0x10
def fDR_PROF_B_HOOK : Fld := ⟨20, 16⟩
def fDR_PROF_B_SFIX : Fld := ⟨8, 8⟩
def fDR_PROF_B_SCODE : Fld := ⟨7, 0⟩

/-- 07 R211; 32 bits. -/
def DM_CTRL (b : Nat) : Nat := 0x1001800 + b * 0x10000
def fDM_CTRL_RATICKS : Fld := ⟨2, 1⟩
def fDM_CTRL_EN : Fld := ⟨0, 0⟩

/-- 07 R211; 64 bits. -/
def DM_STATUS (b : Nat) : Nat := 0x1001808 + b * 0x10000
def fDM_STATUS_PROBES : Fld := ⟨23, 16⟩
def fDM_STATUS_EXEC : Fld := ⟨15, 12⟩
def fDM_STATUS_WAIT_U : Fld := ⟨2, 2⟩
def fDM_STATUS_WAIT_B : Fld := ⟨1, 1⟩
def fDM_STATUS_WAIT_F : Fld := ⟨0, 0⟩

/-- 07 R211; 32 bits. -/
def DM_EVENTS (b : Nat) : Nat := 0x1001810 + b * 0x10000
def fDM_EVENTS_RA_CANCEL : Fld := ⟨7, 7⟩
def fDM_EVENTS_RA_DROP : Fld := ⟨6, 6⟩
def fDM_EVENTS_EV_SCALE_EXHAUSTED : Fld := ⟨5, 5⟩
def fDM_EVENTS_EV_NONFINITE : Fld := ⟨4, 4⟩
def fDM_EVENTS_EV_SATURATED : Fld := ⟨3, 3⟩
def fDM_EVENTS_EV_OVERFLOW : Fld := ⟨2, 2⟩
def fDM_EVENTS_EV_UNDERFLOW : Fld := ⟨1, 1⟩
def fDM_EVENTS_EV_INEXACT : Fld := ⟨0, 0⟩

/-- 07 R211; 64 bits. -/
def DM_FAULT (b : Nat) : Nat := 0x1001818 + b * 0x10000
def fDM_FAULT_CODE : Fld := ⟨63, 56⟩
def fDM_FAULT_STREAM : Fld := ⟨55, 54⟩
def fDM_FAULT_COUNT : Fld := ⟨47, 32⟩
def fDM_FAULT_PC : Fld := ⟨31, 0⟩

/-- 07 R211; 64 bits. -/
def DM_CSTAT (b : Nat) : Nat := 0x1001820 + b * 0x10000
def fDM_CSTAT_STATUS : Fld := ⟨63, 56⟩
def fDM_CSTAT_STREAM : Fld := ⟨55, 54⟩
def fDM_CSTAT_COUNT : Fld := ⟨47, 32⟩
def fDM_CSTAT_PC : Fld := ⟨31, 0⟩

/-- 07 R211; 64 bits. -/
def DM_BYTES_RD (b : Nat) : Nat := 0x1001828 + b * 0x10000
def fDM_BYTES_RD_BYTES : Fld := ⟨63, 0⟩

/-- 07 R211; 64 bits. -/
def DM_BYTES_WR (b : Nat) : Nat := 0x1001830 + b * 0x10000
def fDM_BYTES_WR_BYTES : Fld := ⟨63, 0⟩

/-- 07 R211; 64 bits. -/
def DM_STALL_CYC (b : Nat) : Nat := 0x1001838 + b * 0x10000
def fDM_STALL_CYC_STALL_CYC : Fld := ⟨63, 0⟩

/-- 07 R211; 64 bits. -/
def DM_RA_PROBES (b : Nat) : Nat := 0x1001840 + b * 0x10000
def fDM_RA_PROBES_COUNT : Fld := ⟨63, 0⟩

/-- 07 R211; 64 bits. -/
def DM_RA_LINES (b : Nat) : Nat := 0x1001848 + b * 0x10000
def fDM_RA_LINES_COUNT : Fld := ⟨63, 0⟩

/-- 07 R211; 64 bits. -/
def DM_RA_CANCEL (b : Nat) : Nat := 0x1001850 + b * 0x10000
def fDM_RA_CANCEL_COUNT : Fld := ⟨63, 0⟩

/-- 07 R211; 64 bits. -/
def DM_RA_DROP (b : Nat) : Nat := 0x1001858 + b * 0x10000
def fDM_RA_DROP_COUNT : Fld := ⟨63, 0⟩

/-- 07 R211; 32 bits. -/
def DM_SIDE (b i : Nat) : Nat := 0x1001860 + b * 0x10000 + i * 0x8
def fDM_SIDE_VALID : Fld := ⟨7, 7⟩
def fDM_SIDE_CNT : Fld := ⟨6, 0⟩

/-- 05 R149; 32 bits. -/
def QC_CTRL (b : Nat) : Nat := 0x1002000 + b * 0x10000
def fQC_CTRL_RMAX : Fld := ⟨23, 16⟩
def fQC_CTRL_EN : Fld := ⟨0, 0⟩

/-- 05 R149; 64 bits. -/
def QC_STATUS (b : Nat) : Nat := 0x1002008 + b * 0x10000
def fQC_STATUS_RCOUNT : Fld := ⟨39, 32⟩
def fQC_STATUS_REPLAY_U : Fld := ⟨2, 2⟩
def fQC_STATUS_REPLAY_B : Fld := ⟨1, 1⟩
def fQC_STATUS_REPLAY_F : Fld := ⟨0, 0⟩

/-- 05 R149; 32 bits. -/
def QC_EVENTS (b : Nat) : Nat := 0x1002010 + b * 0x10000
def fQC_EVENTS_RLIMIT : Fld := ⟨8, 8⟩
def fQC_EVENTS_DEGRADED : Fld := ⟨7, 7⟩
def fQC_EVENTS_REPLAY : Fld := ⟨6, 6⟩
def fQC_EVENTS_SS_UNBOUND : Fld := ⟨5, 5⟩
def fQC_EVENTS_CROWD : Fld := ⟨4, 4⟩
def fQC_EVENTS_RUN_OVF : Fld := ⟨3, 3⟩
def fQC_EVENTS_NONFINITE : Fld := ⟨2, 2⟩
def fQC_EVENTS_EXHAUST : Fld := ⟨1, 1⟩
def fQC_EVENTS_CLIP : Fld := ⟨0, 0⟩

/-- 05 R149; 64 bits. -/
def QC_FAULT (b : Nat) : Nat := 0x1002018 + b * 0x10000
def fQC_FAULT_CODE : Fld := ⟨63, 56⟩
def fQC_FAULT_STREAM : Fld := ⟨55, 54⟩
def fQC_FAULT_COUNT : Fld := ⟨47, 32⟩
def fQC_FAULT_PC : Fld := ⟨31, 0⟩

/-- 05 R149; 64 bits. -/
def QC_REPLAYS (b : Nat) : Nat := 0x1002020 + b * 0x10000
def fQC_REPLAYS_COUNT : Fld := ⟨63, 0⟩

/-- 05 R149; 64 bits. -/
def QC_DEGRADED (b : Nat) : Nat := 0x1002028 + b * 0x10000
def fQC_DEGRADED_COUNT : Fld := ⟨63, 0⟩

/-- 05 R149; 64 bits. -/
def QC_DEGR_LAST (b : Nat) : Nat := 0x1002030 + b * 0x10000
def fQC_DEGR_LAST_TAG : Fld := ⟨63, 48⟩
def fQC_DEGR_LAST_CLASS : Fld := ⟨47, 43⟩
def fQC_DEGR_LAST_REASON : Fld := ⟨42, 41⟩
def fQC_DEGR_LAST_STREAM : Fld := ⟨40, 39⟩
def fQC_DEGR_LAST_PC : Fld := ⟨31, 0⟩

/-- 05 R149; 32 bits. -/
def QC_CROWD (b : Nat) : Nat := 0x1002038 + b * 0x10000
def fQC_CROWD_SLOT : Fld := ⟨31, 0⟩

/-- 05 R149; 64 bits. -/
def QC_CROWD_CH (b : Nat) : Nat := 0x1002040 + b * 0x10000
def fQC_CROWD_CH_VALID : Fld := ⟨37, 37⟩
def fQC_CROWD_CH_CSLOT : Fld := ⟨36, 32⟩
def fQC_CROWD_CH_CHANNEL : Fld := ⟨31, 0⟩

/-- 05 R149; 32 bits. -/
def QC_DREC (b i : Nat) : Nat := 0x1002048 + b * 0x10000 + i * 0x8
def fQC_DREC_ME3 : Fld := ⟨31, 24⟩
def fQC_DREC_ME2 : Fld := ⟨23, 16⟩
def fQC_DREC_ME1 : Fld := ⟨15, 8⟩
def fQC_DREC_ME0 : Fld := ⟨7, 0⟩

/-- 05 R149; 32 bits. -/
def QC_RET (b i : Nat) : Nat := 0x1002060 + b * 0x10000 + i * 0x8
def fQC_RET_PC : Fld := ⟨31, 0⟩

/-- 05 R149; 32 bits. -/
def QC_THR (b i : Nat) : Nat := 0x1002080 + b * 0x10000 + i * 0x8
def fQC_THR_CLIP : Fld := ⟨31, 16⟩
def fQC_THR_EXH_EN : Fld := ⟨0, 0⟩

/-- 05 R149; 64 bits. -/
def QC_RSEED (b i : Nat) : Nat := 0x10020C0 + b * 0x10000 + i * 0x8
def fQC_RSEED_SEED : Fld := ⟨63, 0⟩

/-- 05 R149; 32 bits. -/
def TL_CFG (b i : Nat) : Nat := 0x1002100 + b * 0x10000 + i * 0x40
def fTL_CFG_TAG : Fld := ⟨31, 16⟩
def fTL_CFG_THR : Fld := ⟨15, 14⟩
def fTL_CFG_EN : Fld := ⟨0, 0⟩

/-- 05 R149; 64 bits. -/
def TL_W_ELEM (b i : Nat) : Nat := 0x1002108 + b * 0x10000 + i * 0x40
def fTL_W_ELEM_CLIP : Fld := ⟨63, 32⟩
def fTL_W_ELEM_ELEMS : Fld := ⟨31, 0⟩

/-- 05 R149; 64 bits. -/
def TL_W_BLK (b i : Nat) : Nat := 0x1002110 + b * 0x10000 + i * 0x40
def fTL_W_BLK_NF : Fld := ⟨63, 48⟩
def fTL_W_BLK_EXH : Fld := ⟨47, 32⟩
def fTL_W_BLK_SAT : Fld := ⟨31, 16⟩
def fTL_W_BLK_ZERO : Fld := ⟨15, 0⟩

/-- 05 R149; 64 bits. -/
def TL_S_ELEM (b i : Nat) : Nat := 0x1002118 + b * 0x10000 + i * 0x40
def fTL_S_ELEM_ELEMS : Fld := ⟨63, 0⟩

/-- 05 R149; 64 bits. -/
def TL_S_CLIPLO (b i : Nat) : Nat := 0x1002120 + b * 0x10000 + i * 0x40
def fTL_S_CLIPLO_CLIPLO : Fld := ⟨63, 0⟩

/-- 05 R149; 64 bits. -/
def TL_S_CLIPHI (b i : Nat) : Nat := 0x1002128 + b * 0x10000 + i * 0x40
def fTL_S_CLIPHI_CLIPHI : Fld := ⟨63, 0⟩

/-- 05 R149; 64 bits. -/
def TL_S_BLK (b i : Nat) : Nat := 0x1002130 + b * 0x10000 + i * 0x40
def fTL_S_BLK_ZERO : Fld := ⟨63, 32⟩
def fTL_S_BLK_BLOCKS : Fld := ⟨31, 0⟩

/-- 05 R149; 64 bits. -/
def TL_S_BLK2 (b i : Nat) : Nat := 0x1002138 + b * 0x10000 + i * 0x40
def fTL_S_BLK2_SAT : Fld := ⟨63, 32⟩
def fTL_S_BLK2_EXH : Fld := ⟨31, 16⟩
def fTL_S_BLK2_NF : Fld := ⟨15, 0⟩

/-- 05 R149; 64 bits. -/
def SS_STATUS (b : Nat) : Nat := 0x1002900 + b * 0x10000
def fSS_STATUS_SLOT3 : Fld := ⟨63, 48⟩
def fSS_STATUS_SLOT2 : Fld := ⟨47, 32⟩
def fSS_STATUS_SLOT1 : Fld := ⟨31, 16⟩
def fSS_STATUS_SLOT0 : Fld := ⟨15, 0⟩

/-- 05 R149; 32 bits. -/
def SS_EVENTS (b : Nat) : Nat := 0x1002908 + b * 0x10000
def fSS_EVENTS_NONFINITE : Fld := ⟨1, 1⟩
def fSS_EVENTS_SS_UNBOUND : Fld := ⟨0, 0⟩

/-- 05 R149; 64 bits. -/
def SS_BUSY_CYC (b : Nat) : Nat := 0x1002910 + b * 0x10000
def fSS_BUSY_CYC_BUSY_CYC : Fld := ⟨63, 0⟩

/-- 06 R179; 32 bits. -/
def VE_CTRL (b : Nat) : Nat := 0x1004000 + b * 0x10000
def fVE_CTRL_EN : Fld := ⟨0, 0⟩

/-- 06 R179; 64 bits. -/
def VE_STATUS (b : Nat) : Nat := 0x1004008 + b * 0x10000
def fVE_STATUS_SLOT : Fld := ⟨39, 35⟩
def fVE_STATUS_KIND : Fld := ⟨34, 32⟩
def fVE_STATUS_ROWS_LEFT : Fld := ⟨31, 8⟩
def fVE_STATUS_STREAM : Fld := ⟨7, 6⟩
def fVE_STATUS_HOOK_ACTIVE : Fld := ⟨5, 5⟩
def fVE_STATUS_WAIT_INPUT : Fld := ⟨4, 4⟩
def fVE_STATUS_BUSY : Fld := ⟨0, 0⟩

/-- 06 R179; 32 bits. -/
def VE_EVENTS (b : Nat) : Nat := 0x1004010 + b * 0x10000
def fVE_EVENTS_EV_SCALE_EXHAUSTED : Fld := ⟨5, 5⟩
def fVE_EVENTS_EV_NONFINITE : Fld := ⟨4, 4⟩
def fVE_EVENTS_EV_SATURATED : Fld := ⟨3, 3⟩
def fVE_EVENTS_EV_OVERFLOW : Fld := ⟨2, 2⟩
def fVE_EVENTS_EV_UNDERFLOW : Fld := ⟨1, 1⟩
def fVE_EVENTS_EV_INEXACT : Fld := ⟨0, 0⟩

/-- 06 R179; 64 bits. -/
def VE_FAULT (b : Nat) : Nat := 0x1004018 + b * 0x10000
def fVE_FAULT_CODE : Fld := ⟨63, 56⟩
def fVE_FAULT_STREAM : Fld := ⟨55, 54⟩
def fVE_FAULT_COUNT : Fld := ⟨47, 32⟩
def fVE_FAULT_PC : Fld := ⟨31, 0⟩

/-- 06 R179; 64 bits. -/
def VE_GROUPS (b : Nat) : Nat := 0x1004020 + b * 0x10000
def fVE_GROUPS_GROUPS : Fld := ⟨63, 0⟩

/-- 06 R179; 64 bits. -/
def VE_STALL_CYC (b : Nat) : Nat := 0x1004028 + b * 0x10000
def fVE_STALL_CYC_STALL_CYC : Fld := ⟨63, 0⟩

/-- 06 R179; 64 bits. -/
def VE_HOOK_ROWS (b : Nat) : Nat := 0x1004030 + b * 0x10000
def fVE_HOOK_ROWS_ROWS : Fld := ⟨63, 0⟩

/-- 06 R179; 32 bits. -/
def VE_VL (b i : Nat) : Nat := 0x1004038 + b * 0x10000 + i * 0x8
def fVE_VL_VL : Fld := ⟨23, 0⟩

/-- 06 R179; 64 bits. -/
def VE_SLOT_CFG (b i : Nat) : Nat := 0x1004100 + b * 0x10000 + i * 0x8
def fVE_SLOT_CFG_IFMT3 : Fld := ⟨63, 60⟩
def fVE_SLOT_CFG_IFMT2 : Fld := ⟨59, 56⟩
def fVE_SLOT_CFG_IFMT1 : Fld := ⟨55, 52⟩
def fVE_SLOT_CFG_IFMT0 : Fld := ⟨51, 48⟩
def fVE_SLOT_CFG_OFMT1 : Fld := ⟨47, 44⟩
def fVE_SLOT_CFG_OFMT0 : Fld := ⟨43, 40⟩
def fVE_SLOT_CFG_RND : Fld := ⟨39, 38⟩
def fVE_SLOT_CFG_BSZ : Fld := ⟨37, 36⟩
def fVE_SLOT_CFG_NIN : Fld := ⟨35, 33⟩
def fVE_SLOT_CFG_NOUT : Fld := ⟨32, 31⟩
def fVE_SLOT_CFG_LEN : Fld := ⟨30, 25⟩
def fVE_SLOT_CFG_BAD : Fld := ⟨0, 0⟩

/-- 06 R179; 32 bits. -/
def VE_SLOT_C (b i : Nat) : Nat := 0x1004200 + b * 0x10000 + i * 0x4
def fVE_SLOT_C_VALUE : Fld := ⟨31, 0⟩

/-- 06 R179; 32 bits. -/
def VE_UOP (b i : Nat) : Nat := 0x1004400 + b * 0x10000 + i * 0x4
def fVE_UOP_UOP : Fld := ⟨31, 0⟩

/-- 09 R276; 32 bits. -/
def SQ_CTRL (b : Nat) : Nat := 0x1000000 + b * 0x10000
def fSQ_CTRL_UFRAME : Fld := ⟨7, 4⟩
def fSQ_CTRL_PRIO : Fld := ⟨1, 1⟩
def fSQ_CTRL_EN : Fld := ⟨0, 0⟩

/-- 09 R276; 64 bits. -/
def SQ_STATUS (b : Nat) : Nat := 0x1000008 + b * 0x10000
def fSQ_STATUS_STATE_U : Fld := ⟨11, 9⟩
def fSQ_STATUS_STATE_B : Fld := ⟨8, 6⟩
def fSQ_STATUS_STATE_F : Fld := ⟨5, 3⟩

/-- 09 R276; 32 bits. -/
def SQ_EVENTS (b : Nat) : Nat := 0x1000010 + b * 0x10000
def fSQ_EVENTS_HINT_DROP : Fld := ⟨6, 6⟩
def fSQ_EVENTS_WDOG : Fld := ⟨5, 5⟩
def fSQ_EVENTS_MOVEFAIL : Fld := ⟨4, 4⟩
def fSQ_EVENTS_FAULT_U : Fld := ⟨2, 2⟩
def fSQ_EVENTS_FAULT_B : Fld := ⟨1, 1⟩
def fSQ_EVENTS_FAULT_F : Fld := ⟨0, 0⟩

/-- 09 R276; 32 bits. -/
def SQ_WDOG (b : Nat) : Nat := 0x1000018 + b * 0x10000
def fSQ_WDOG_LIMIT : Fld := ⟨31, 0⟩

/-- 09 R276; 64 bits. -/
def SQ_ISSUED (b : Nat) : Nat := 0x1000020 + b * 0x10000
def fSQ_ISSUED_COUNT : Fld := ⟨63, 0⟩

/-- 09 R276; 32 bits. -/
def SQS_PC (b i : Nat) : Nat := 0x1000100 + b * 0x10000 + i * 0x100
def fSQS_PC_PC : Fld := ⟨31, 0⟩

/-- 09 R276; 32 bits. -/
def SQS_PBASE (b i : Nat) : Nat := 0x1000108 + b * 0x10000 + i * 0x100
def fSQS_PBASE_PBASE : Fld := ⟨31, 0⟩

/-- 09 R276; 32 bits. -/
def SQS_PLIMIT (b i : Nat) : Nat := 0x100010C + b * 0x10000 + i * 0x100
def fSQS_PLIMIT_PLIMIT : Fld := ⟨31, 0⟩

/-- 09 R276; 64 bits. -/
def SQS_TB (b i : Nat) : Nat := 0x1000110 + b * 0x10000 + i * 0x100
def fSQS_TB_TB : Fld := ⟨47, 0⟩

/-- 09 R276; 32 bits. -/
def SQS_CFG (b i : Nat) : Nat := 0x1000118 + b * 0x10000 + i * 0x100
def fSQS_CFG_EPOCH : Fld := ⟨7, 0⟩

/-- 09 R276; 64 bits. -/
def SQS_FAULT (b i : Nat) : Nat := 0x1000120 + b * 0x10000 + i * 0x100
def fSQS_FAULT_CODE : Fld := ⟨63, 56⟩
def fSQS_FAULT_UNIT : Fld := ⟨55, 48⟩
def fSQS_FAULT_PC : Fld := ⟨31, 0⟩

/-- 09 R276; 64 bits. -/
def SQS_MFAIL (b i : Nat) : Nat := 0x1000128 + b * 0x10000 + i * 0x100
def fSQS_MFAIL_STATUS : Fld := ⟨63, 56⟩
def fSQS_MFAIL_COUNT : Fld := ⟨47, 32⟩
def fSQS_MFAIL_PC : Fld := ⟨31, 0⟩

/-- 09 R276; 32 bits. -/
def SQS_WAIT (b i : Nat) : Nat := 0x1000130 + b * 0x10000 + i * 0x100
def fSQS_WAIT_WAITING : Fld := ⟨31, 31⟩
def fSQS_WAIT_REASON : Fld := ⟨30, 28⟩
def fSQS_WAIT_WDOG : Fld := ⟨14, 14⟩
def fSQS_WAIT_TS : Fld := ⟨13, 0⟩

/-- 09 R276; 64 bits. -/
def SQS_ISSUED (b i : Nat) : Nat := 0x1000138 + b * 0x10000 + i * 0x100
def fSQS_ISSUED_COUNT : Fld := ⟨63, 0⟩

/-- 09 R276; 64 bits. -/
def SQS_LOST (b i : Nat) : Nat := 0x1000140 + b * 0x10000 + i * 0x100
def fSQS_LOST_COUNT : Fld := ⟨63, 0⟩

/-- 09 R276; 64 bits. -/
def SQS_WAITCYC (b i : Nat) : Nat := 0x1000148 + b * 0x10000 + i * 0x100
def fSQS_WAITCYC_COUNT : Fld := ⟨63, 0⟩

/-- 09 R276; 64 bits. -/
def SQS_S (b i : Nat) : Nat := 0x1000400 + b * 0x10000 + i * 0x8
def fSQS_S_VALUE : Fld := ⟨63, 0⟩

/-- 09 R276; 64 bits. -/
def CAP_STATE (b : Nat) : Nat := 0x1006000 + b * 0x10000
def fCAP_STATE_REFRESHES : Fld := ⟨63, 48⟩
def fCAP_STATE_AGE_LOSS : Fld := ⟨47, 40⟩
def fCAP_STATE_EN : Fld := ⟨3, 3⟩
def fCAP_STATE_FUSE_DIS : Fld := ⟨2, 2⟩
def fCAP_STATE_OVL_DIS : Fld := ⟨1, 1⟩
def fCAP_STATE_OVERLAY : Fld := ⟨0, 0⟩

/-- 09 R276; 64 bits. -/
def CAP_FMAX_LO (b : Nat) : Nat := 0x1006008 + b * 0x10000
def fCAP_FMAX_LO_F0700 : Fld := ⟨63, 48⟩
def fCAP_FMAX_LO_F0650 : Fld := ⟨47, 32⟩
def fCAP_FMAX_LO_F0600 : Fld := ⟨31, 16⟩
def fCAP_FMAX_LO_F0550 : Fld := ⟨15, 0⟩

/-- 09 R276; 64 bits. -/
def CAP_FMAX_HI (b : Nat) : Nat := 0x1006010 + b * 0x10000
def fCAP_FMAX_HI_F0800 : Fld := ⟨31, 16⟩
def fCAP_FMAX_HI_F0750 : Fld := ⟨15, 0⟩

/-- 09 R277; 32 bits. -/
def TS_COUNT (i : Nat) : Nat := 0x700000 + i * 0x10
def fTS_COUNT_COUNT : Fld := ⟨31, 0⟩

/-- 09 R277; 32 bits. -/
def TS_TARGET (i : Nat) : Nat := 0x700004 + i * 0x10
def fTS_TARGET_TARGET : Fld := ⟨31, 0⟩

/-- 09 R277; 32 bits. -/
def TS_STATE (i : Nat) : Nat := 0x700008 + i * 0x10
def fTS_STATE_MET : Fld := ⟨8, 8⟩
def fTS_STATE_EPOCH : Fld := ⟨7, 0⟩

/-- 09 R277; 32 bits. -/
def TS_INC (i : Nat) : Nat := 0x70000C + i * 0x10
def fTS_INC_EPOCH : Fld := ⟨31, 24⟩
def fTS_INC_AMOUNT : Fld := ⟨23, 0⟩

/-- 09 R277; 64 bits. -/
def TS_STALE : Nat := 0x740000
def fTS_STALE_COUNT : Fld := ⟨63, 0⟩

/-- 09 R277; 64 bits. -/
def TS_STALE_LAST : Nat := 0x740008
def fTS_STALE_LAST_NODE : Fld := ⟨59, 48⟩
def fTS_STALE_LAST_STAMP : Fld := ⟨47, 40⟩
def fTS_STALE_LAST_CUR : Fld := ⟨39, 32⟩
def fTS_STALE_LAST_TS : Fld := ⟨13, 0⟩

/-- 09 R277; 64 bits. -/
def TS_RINC : Nat := 0x740010
def fTS_RINC_COUNT : Fld := ⟨63, 0⟩

/-- 09 R277; 64 bits. -/
def TS_REFUSED : Nat := 0x740018
def fTS_REFUSED_COUNT : Fld := ⟨63, 0⟩

/-- 12 R366; 32 bits. -/
def DIR_CTRL : Nat := 0x780000
def fDIR_CTRL_EN : Fld := ⟨0, 0⟩

/-- 12 R366; 64 bits. -/
def DIR_STATUS : Nat := 0x780008
def fDIR_STATUS_REBUILT : Fld := ⟨63, 48⟩
def fDIR_STATUS_WALKS : Fld := ⟨20, 16⟩
def fDIR_STATUS_STATE : Fld := ⟨1, 0⟩

/-- 12 R366; 32 bits. -/
def DIR_EVENTS : Nat := 0x780010
def fDIR_EVENTS_LOST_PAIR : Fld := ⟨4, 4⟩
def fDIR_EVENTS_LATE_REPLY : Fld := ⟨3, 3⟩
def fDIR_EVENTS_TIER_LATE : Fld := ⟨2, 2⟩
def fDIR_EVENTS_WALK_ERR : Fld := ⟨1, 1⟩
def fDIR_EVENTS_DIR_LOST : Fld := ⟨0, 0⟩

/-- 12 R366; 64 bits. -/
def DIR_BASE : Nat := 0x780018
def fDIR_BASE_BASE : Fld := ⟨41, 26⟩

/-- 12 R366; 64 bits. -/
def DIR_TMO : Nat := 0x780020
def fDIR_TMO_REMOTE : Fld := ⟨47, 32⟩
def fDIR_TMO_FAR : Fld := ⟨31, 16⟩
def fDIR_TMO_STACK : Fld := ⟨15, 0⟩

/-- 12 R366; 64 bits. -/
def DIR_HIT : Nat := 0x780028
def fDIR_HIT_COUNT : Fld := ⟨63, 0⟩

/-- 12 R366; 64 bits. -/
def DIR_MISS : Nat := 0x780030
def fDIR_MISS_COUNT : Fld := ⟨63, 0⟩

/-- 12 R366; 64 bits. -/
def DIR_WALK_ERR : Nat := 0x780038
def fDIR_WALK_ERR_COUNT : Fld := ⟨63, 0⟩

/-- 12 R366; 64 bits. -/
def DIR_ERR_LAST : Nat := 0x780040
def fDIR_ERR_LAST_KIND : Fld := ⟨63, 56⟩
def fDIR_ERR_LAST_ID : Fld := ⟨20, 0⟩

/-- 12 R366; 64 bits. -/
def DIR_TIER_LATE : Nat := 0x780048
def fDIR_TIER_LATE_REMOTE : Fld := ⟨47, 32⟩
def fDIR_TIER_LATE_FAR : Fld := ⟨31, 16⟩
def fDIR_TIER_LATE_STACK : Fld := ⟨15, 0⟩

/-- 12 R366; 64 bits. -/
def DIR_LATE_REPLY : Nat := 0x780050
def fDIR_LATE_REPLY_REMOTE : Fld := ⟨47, 32⟩
def fDIR_LATE_REPLY_FAR : Fld := ⟨31, 16⟩
def fDIR_LATE_REPLY_STACK : Fld := ⟨15, 0⟩

/-- 12 R366; 32 bits. -/
def DIR_INFL : Nat := 0x780058
def fDIR_INFL_OVF : Fld := ⟨27, 16⟩
def fDIR_INFL_ENTRIES : Fld := ⟨15, 0⟩

/-- 12 R366; 64 bits. -/
def TIER_FAR (i : Nat) : Nat := 0x780060 + i * 0x8
def fTIER_FAR_UP : Fld := ⟨63, 63⟩
def fTIER_FAR_RANGE : Fld := ⟨48, 0⟩

/-- 08 R240; 32 bits. -/
def TIME_CTRL : Nat := 0x100000
def fTIME_CTRL_ALIGN : Fld := ⟨1, 1⟩
def fTIME_CTRL_GATE_OVR : Fld := ⟨0, 0⟩

/-- 08 R240; 64 bits. -/
def TIME_STATUS : Nat := 0x100008
def fTIME_STATUS_ROOT : Fld := ⟨7, 7⟩
def fTIME_STATUS_PEND : Fld := ⟨6, 6⟩
def fTIME_STATUS_PLAN : Fld := ⟨5, 5⟩
def fTIME_STATUS_GLIDE : Fld := ⟨4, 4⟩
def fTIME_STATUS_ALIGNED : Fld := ⟨3, 3⟩
def fTIME_STATUS_GATE : Fld := ⟨2, 2⟩
def fTIME_STATUS_HOLDOVER : Fld := ⟨1, 1⟩
def fTIME_STATUS_ACQ : Fld := ⟨0, 0⟩

/-- 08 R240; 64 bits. -/
def TIME_BEAT : Nat := 0x100010
def fTIME_BEAT_BEAT : Fld := ⟨63, 0⟩

/-- 08 R240; 32 bits. -/
def TIME_BEAT_HIL : Nat := 0x100018
def fTIME_BEAT_HIL_HI : Fld := ⟨31, 0⟩

/-- 08 R240; 64 bits. -/
def TIME_TICK : Nat := 0x100020
def fTIME_TICK_TICK : Fld := ⟨47, 0⟩

/-- 08 R240; 64 bits. -/
def TIME_TICK_START : Nat := 0x100028
def fTIME_TICK_START_BEAT : Fld := ⟨63, 0⟩

/-- 08 R240; 64 bits. -/
def TIME_SEG_TICK : Nat := 0x100030
def fTIME_SEG_TICK_TICK : Fld := ⟨47, 0⟩

/-- 08 R240; 64 bits. -/
def TIME_SEG_BEAT : Nat := 0x100038
def fTIME_SEG_BEAT_BEAT : Fld := ⟨63, 0⟩

/-- 08 R240; 64 bits. -/
def TIME_SEG_LEN : Nat := 0x100040
def fTIME_SEG_LEN_PLANNED : Fld := ⟨49, 32⟩
def fTIME_SEG_LEN_SEQ : Fld := ⟨31, 24⟩
def fTIME_SEG_LEN_SEQV : Fld := ⟨18, 18⟩
def fTIME_SEG_LEN_LEN : Fld := ⟨17, 0⟩

/-- 08 R240; 64 bits. -/
def TIME_PEND_TICK : Nat := 0x100048
def fTIME_PEND_TICK_VALID : Fld := ⟨63, 63⟩
def fTIME_PEND_TICK_TICK : Fld := ⟨47, 0⟩

/-- 08 R240; 64 bits. -/
def TIME_PEND_BEAT : Nat := 0x100050
def fTIME_PEND_BEAT_BEAT : Fld := ⟨63, 0⟩

/-- 08 R240; 32 bits. -/
def TIME_PEND_LEN : Nat := 0x100058
def fTIME_PEND_LEN_SEQ : Fld := ⟨31, 24⟩
def fTIME_PEND_LEN_LEN : Fld := ⟨17, 0⟩

/-- 08 R240; 64 bits. -/
def TIME_SERVO : Nat := 0x100060
def fTIME_SERVO_THETA : Fld := ⟨63, 32⟩
def fTIME_SERVO_RATE : Fld := ⟨31, 0⟩

/-- 08 R240; 32 bits. -/
def TIME_SERVO_CFG : Nat := 0x100068
def fTIME_SERVO_CFG_ACQ_THR : Fld := ⟨31, 24⟩
def fTIME_SERVO_CFG_HOLD_MAX : Fld := ⟨23, 14⟩
def fTIME_SERVO_CFG_DELAY_MAX : Fld := ⟨13, 0⟩

/-- 08 R240; 32 bits. -/
def TIME_PARENT : Nat := 0x100070
def fTIME_PARENT_VALID : Fld := ⟨31, 31⟩
def fTIME_PARENT_PORT : Fld := ⟨27, 24⟩
def fTIME_PARENT_NODE : Fld := ⟨11, 0⟩

/-- 08 R240; 32 bits. -/
def TIME_ASYM : Nat := 0x100078
def fTIME_ASYM_ASYM : Fld := ⟨15, 0⟩

/-- 08 R240; 32 bits. -/
def TIME_EVENTS : Nat := 0x100080
def fTIME_EVENTS_STUCK : Fld := ⟨6, 6⟩
def fTIME_EVENTS_FCAP_LIMIT : Fld := ⟨5, 5⟩
def fTIME_EVENTS_LATE_CHANGE : Fld := ⟨4, 4⟩
def fTIME_EVENTS_SLIP : Fld := ⟨3, 3⟩
def fTIME_EVENTS_BEAT_LOST : Fld := ⟨2, 2⟩
def fTIME_EVENTS_HOLDOVER : Fld := ⟨1, 1⟩
def fTIME_EVENTS_ACQUIRED : Fld := ⟨0, 0⟩

/-- 08 R240; 64 bits. -/
def TIME_SLIPS : Nat := 0x100088
def fTIME_SLIPS_COUNT : Fld := ⟨63, 0⟩

/-- 08 R240; 64 bits. -/
def TIME_SLIP_LAST : Nat := 0x100090
def fTIME_SLIP_LAST_CORE : Fld := ⟨56, 48⟩
def fTIME_SLIP_LAST_TICK : Fld := ⟨47, 0⟩

/-- 08 R240; 64 bits. -/
def TIME_LATE : Nat := 0x100098
def fTIME_LATE_COUNT : Fld := ⟨63, 0⟩

/-- 08 R240; 32 bits. -/
def TIME_FREQ : Nat := 0x1000A0
def fTIME_FREQ_FCAP : Fld := ⟨22, 16⟩
def fTIME_FREQ_TARGET : Fld := ⟨14, 8⟩
def fTIME_FREQ_CODE : Fld := ⟨6, 0⟩

/-- 08 R240; 32 bits. -/
def TIME_XMODE : Nat := 0x1000A8
def fTIME_XMODE_SYNC : Fld := ⟨15, 0⟩

/-- 08 R240; 64 bits. -/
def TIME_DISCARD : Nat := 0x1000B0
def fTIME_DISCARD_COUNT : Fld := ⟨63, 0⟩

/-- 08 R240; 32 bits. -/
def TIME_ZSTAT (i : Nat) : Nat := 0x100100 + i * 0x40
def fTIME_ZSTAT_EPISODE : Fld := ⟨3, 3⟩
def fTIME_ZSTAT_LAG : Fld := ⟨1, 0⟩

/-- 08 R240; 64 bits. -/
def TIME_ZCYC (i : Nat) : Nat := 0x100108 + i * 0x40
def fTIME_ZCYC_CYCLES : Fld := ⟨63, 0⟩

/-- 08 R240; 64 bits. -/
def TIME_ZCYC_TICK (i : Nat) : Nat := 0x100110 + i * 0x40
def fTIME_ZCYC_TICK_CYCLES : Fld := ⟨63, 0⟩

/-- 08 R240; 64 bits. -/
def TIME_ZSTR (i : Nat) : Nat := 0x100118 + i * 0x40
def fTIME_ZSTR_S50 : Fld := ⟨63, 32⟩
def fTIME_ZSTR_S25 : Fld := ⟨31, 0⟩

/-- 08 R240; 64 bits. -/
def TIME_ZLOST (i : Nat) : Nat := 0x100120 + i * 0x40
def fTIME_ZLOST_CYCLES : Fld := ⟨63, 0⟩

/-- 08 R240; 32 bits. -/
def TIME_ZSLIPS (i : Nat) : Nat := 0x100128 + i * 0x40
def fTIME_ZSLIPS_COUNT : Fld := ⟨31, 0⟩

/-- 08 R240; 64 bits. -/
def TIME_ZBEAT (i : Nat) : Nat := 0x100130 + i * 0x40
def fTIME_ZBEAT_BEAT : Fld := ⟨63, 0⟩

/-- 08 R240; 32 bits. -/
def TIME_CORE (i : Nat) : Nat := 0x100400 + i * 0x4
def fTIME_CORE_RATIO : Fld := ⟨15, 14⟩
def fTIME_CORE_EN : Fld := ⟨13, 13⟩
def fTIME_CORE_VCODE : Fld := ⟨5, 0⟩

/-- 08 R240; 32 bits. -/
def TIME_XING (i : Nat) : Nat := 0x100900 + i * 0x8
def fTIME_XING_EPISODES : Fld := ⟨31, 16⟩
def fTIME_XING_STUCK : Fld := ⟨8, 8⟩
def fTIME_XING_SKEW : Fld := ⟨7, 1⟩
def fTIME_XING_SYNC : Fld := ⟨0, 0⟩

/-- 10 R315; 32 bits. -/
def UD_CTRL (b : Nat) : Nat := 0x400000 + b * 0x100000
def fUD_CTRL_AUTO : Fld := ⟨2, 2⟩
def fUD_CTRL_PAUSE : Fld := ⟨1, 1⟩
def fUD_CTRL_EN : Fld := ⟨0, 0⟩

/-- 10 R315; 64 bits. -/
def UD_STATUS (b : Nat) : Nat := 0x400008 + b * 0x100000
def fUD_STATUS_HELD : Fld := ⟨47, 33⟩
def fUD_STATUS_ENTRY : Fld := ⟨32, 18⟩
def fUD_STATUS_INFLIGHT : Fld := ⟨17, 15⟩
def fUD_STATUS_TROUBLE_STEP : Fld := ⟨11, 11⟩
def fUD_STATUS_HOLDING : Fld := ⟨10, 10⟩
def fUD_STATUS_WALKING : Fld := ⟨9, 9⟩
def fUD_STATUS_LINK_UP : Fld := ⟨8, 8⟩

/-- 10 R315; 32 bits. -/
def UD_EVENTS (b : Nat) : Nat := 0x400010 + b * 0x100000
def fUD_EVENTS_CKPT_DONE : Fld := ⟨10, 10⟩
def fUD_EVENTS_PARTNER_RESET : Fld := ⟨9, 9⟩
def fUD_EVENTS_PEAT_ECC : Fld := ⟨8, 8⟩
def fUD_EVENTS_COPY_FAIL : Fld := ⟨7, 7⟩
def fUD_EVENTS_FAULT : Fld := ⟨6, 6⟩
def fUD_EVENTS_MARK_OVF : Fld := ⟨5, 5⟩
def fUD_EVENTS_TORN : Fld := ⟨4, 4⟩
def fUD_EVENTS_HELD : Fld := ⟨3, 3⟩
def fUD_EVENTS_TROUBLE : Fld := ⟨2, 2⟩
def fUD_EVENTS_SKIP : Fld := ⟨1, 1⟩
def fUD_EVENTS_STEP_DONE : Fld := ⟨0, 0⟩

/-- 10 R315; 64 bits. -/
def UD_FAULT (b : Nat) : Nat := 0x400018 + b * 0x100000
def fUD_FAULT_CODE : Fld := ⟨63, 56⟩
def fUD_FAULT_ENTRY : Fld := ⟨46, 32⟩
def fUD_FAULT_STEP : Fld := ⟨31, 0⟩

/-- 10 R315; 64 bits. -/
def UD_STEP (b : Nat) : Nat := 0x400020 + b * 0x100000
def fUD_STEP_STEP : Fld := ⟨31, 0⟩

/-- 10 R315; 64 bits. -/
def UD_SSEED (b : Nat) : Nat := 0x400028 + b * 0x100000
def fUD_SSEED_SEED : Fld := ⟨63, 0⟩

/-- 10 R315; 64 bits. -/
def UD_RECBASE (b : Nat) : Nat := 0x400030 + b * 0x100000
def fUD_RECBASE_NREC : Fld := ⟨55, 40⟩
def fUD_RECBASE_BASE : Fld := ⟨39, 0⟩

/-- 10 R315; 64 bits. -/
def UD_COPYBASE (b : Nat) : Nat := 0x400038 + b * 0x100000
def fUD_COPYBASE_NCOPY : Fld := ⟨55, 40⟩
def fUD_COPYBASE_BASE : Fld := ⟨39, 0⟩

/-- 10 R315; 64 bits. -/
def UD_LISTBASE (b : Nat) : Nat := 0x400040 + b * 0x100000
def fUD_LISTBASE_LEN : Fld := ⟨54, 40⟩
def fUD_LISTBASE_BASE : Fld := ⟨39, 0⟩

/-- 10 R315; 32 bits. -/
def UD_EPOCH (b : Nat) : Nat := 0x400048 + b * 0x100000
def fUD_EPOCH_EPOCH : Fld := ⟨7, 0⟩

/-- 10 R315; 32 bits. -/
def UD_ECFG (b : Nat) : Nat := 0x400050 + b * 0x100000
def fUD_ECFG_EMAX : Fld := ⟨15, 8⟩
def fUD_ECFG_EHYST : Fld := ⟨7, 0⟩

/-- 10 R315; 64 bits. -/
def UD_SKIPS (b : Nat) : Nat := 0x400058 + b * 0x100000
def fUD_SKIPS_COUNT : Fld := ⟨63, 0⟩

/-- 10 R315; 64 bits. -/
def UD_SKIP_LAST (b : Nat) : Nat := 0x400060 + b * 0x100000
def fUD_SKIP_LAST_TAG : Fld := ⟨63, 48⟩
def fUD_SKIP_LAST_ULX : Fld := ⟨47, 32⟩
def fUD_SKIP_LAST_CLASS : Fld := ⟨31, 24⟩
def fUD_SKIP_LAST_STEP : Fld := ⟨23, 0⟩

/-- 10 R315; 64 bits. -/
def UD_UPDATES (b : Nat) : Nat := 0x400068 + b * 0x100000
def fUD_UPDATES_COUNT : Fld := ⟨63, 0⟩

/-- 10 R315; 64 bits. -/
def UD_PARAMS (b : Nat) : Nat := 0x400070 + b * 0x100000
def fUD_PARAMS_COUNT : Fld := ⟨63, 0⟩

/-- 10 R315; 64 bits. -/
def UD_MARKS (b : Nat) : Nat := 0x400078 + b * 0x100000
def fUD_MARKS_OVF : Fld := ⟨7, 7⟩
def fUD_MARKS_COUNT : Fld := ⟨6, 0⟩

/-- 10 R315; 64 bits. -/
def UD_BUSY_CYC (b : Nat) : Nat := 0x400080 + b * 0x100000
def fUD_BUSY_CYC_COUNT : Fld := ⟨63, 0⟩

/-- 10 R315; 64 bits. -/
def UD_PEAT_RD (b : Nat) : Nat := 0x400088 + b * 0x100000
def fUD_PEAT_RD_BYTES : Fld := ⟨63, 0⟩

/-- 10 R315; 64 bits. -/
def UD_PEAT_WR (b : Nat) : Nat := 0x400090 + b * 0x100000
def fUD_PEAT_WR_BYTES : Fld := ⟨63, 0⟩

/-- 10 R315; 32 bits. -/
def UD_PSET (b i : Nat) : Nat := 0x400100 + b * 0x100000 + i * 0x4
def fUD_PSET_VALUE : Fld := ⟨31, 0⟩

/-- 10 R315; 64 bits. -/
def UD_RULE_CFG (b i : Nat) : Nat := 0x400900 + b * 0x100000 + i * 0x8
def fUD_RULE_CFG_BAD : Fld := ⟨63, 63⟩
def fUD_RULE_CFG_SREAD : Fld := ⟨18, 18⟩
def fUD_RULE_CFG_ULEN : Fld := ⟨17, 9⟩
def fUD_RULE_CFG_SLEN : Fld := ⟨8, 0⟩

/-- 10 R315; 32 bits. -/
def UD_UOP (b i : Nat) : Nat := 0x401000 + b * 0x100000 + i * 0x4
def fUD_UOP_UOP : Fld := ⟨31, 0⟩

/-- 10 R315; 64 bits. -/
def UD_LAYER (b i : Nat) : Nat := 0x402000 + b * 0x100000 + i * 0x8
def fUD_LAYER_PIN : Fld := ⟨63, 63⟩
def fUD_LAYER_E : Fld := ⟨55, 48⟩
def fUD_LAYER_COUNT : Fld := ⟨47, 32⟩
def fUD_LAYER_SUM : Fld := ⟨31, 0⟩

/-- 10 R315; 64 bits. -/
def UD_NACC (b i : Nat) : Nat := 0x404000 + b * 0x100000 + i * 0x8
def fUD_NACC_VALUE : Fld := ⟨63, 0⟩

/-- 10 R315; 64 bits. -/
def UD_NREG (b i : Nat) : Nat := 0x404200 + b * 0x100000 + i * 0x8
def fUD_NREG_VALUE : Fld := ⟨63, 0⟩

/-- 10 R315; 64 bits. -/
def UD_MARK (b i : Nat) : Nat := 0x404400 + b * 0x100000 + i * 0x8
def fUD_MARK_VALID : Fld := ⟨63, 63⟩
def fUD_MARK_STEP : Fld := ⟨47, 16⟩
def fUD_MARK_TAG : Fld := ⟨15, 0⟩

/-- 11 R344; 32 bits. -/
def MEM_CTRL (b : Nat) : Nat := 0x300000 + b * 0x10000
def fMEM_CTRL_CEN : Fld := ⟨0, 0⟩

/-- 11 R344; 64 bits. -/
def MEM_STATUS (b : Nat) : Nat := 0x300008 + b * 0x10000
def fMEM_STATUS_NLIVE : Fld := ⟨15, 10⟩
def fMEM_STATUS_CONTENTS_LOST : Fld := ⟨5, 5⟩
def fMEM_STATUS_COMPACTING : Fld := ⟨4, 4⟩
def fMEM_STATUS_SREF : Fld := ⟨3, 3⟩
def fMEM_STATUS_STATE : Fld := ⟨2, 0⟩

/-- 11 R344; 32 bits. -/
def MEM_EVENTS (b : Nat) : Nat := 0x300010 + b * 0x10000
def fMEM_EVENTS_TEMP_HIGH : Fld := ⟨11, 11⟩
def fMEM_EVENTS_SCRUB_PASS : Fld := ⟨10, 10⟩
def fMEM_EVENTS_CACHE_ERR : Fld := ⟨9, 9⟩
def fMEM_EVENTS_CONTENTS_LOST : Fld := ⟨8, 8⟩
def fMEM_EVENTS_UNMAPPED : Fld := ⟨7, 7⟩
def fMEM_EVENTS_LANE_REPAIR : Fld := ⟨6, 6⟩
def fMEM_EVENTS_COMPACT_DONE : Fld := ⟨5, 5⟩
def fMEM_EVENTS_MAPOUT : Fld := ⟨4, 4⟩
def fMEM_EVENTS_FENCE : Fld := ⟨3, 3⟩
def fMEM_EVENTS_POISON : Fld := ⟨2, 2⟩
def fMEM_EVENTS_UE : Fld := ⟨1, 1⟩
def fMEM_EVENTS_CE : Fld := ⟨0, 0⟩

/-- 11 R344; 64 bits. -/
def MEM_RANGE (b : Nat) : Nat := 0x300018 + b * 0x10000
def fMEM_RANGE_BYTES : Fld := ⟨37, 0⟩

/-- 11 R344; 32 bits. -/
def MEM_CH_LIVE (b : Nat) : Nat := 0x300020 + b * 0x10000
def fMEM_CH_LIVE_MAP : Fld := ⟨31, 0⟩

/-- 11 R344; 32 bits. -/
def MEM_CH_FENCED (b : Nat) : Nat := 0x300028 + b * 0x10000
def fMEM_CH_FENCED_MAP : Fld := ⟨31, 0⟩

/-- 11 R344; 32 bits. -/
def MEM_CH_OUT (b : Nat) : Nat := 0x300030 + b * 0x10000
def fMEM_CH_OUT_MAP : Fld := ⟨31, 0⟩

/-- 11 R344; 32 bits. -/
def MEM_THRESH (b : Nat) : Nat := 0x300038 + b * 0x10000
def fMEM_THRESH_CE_THR : Fld := ⟨31, 16⟩
def fMEM_THRESH_UE_THR : Fld := ⟨7, 0⟩

/-- 11 R344; 64 bits. -/
def MEM_CE (b : Nat) : Nat := 0x300040 + b * 0x10000
def fMEM_CE_COUNT : Fld := ⟨63, 0⟩

/-- 11 R344; 64 bits. -/
def MEM_UE (b : Nat) : Nat := 0x300048 + b * 0x10000
def fMEM_UE_COUNT : Fld := ⟨63, 0⟩

/-- 11 R344; 64 bits. -/
def MEM_ERR_LAST (b : Nat) : Nat := 0x300050 + b * 0x10000
def fMEM_ERR_LAST_KIND : Fld := ⟨63, 56⟩
def fMEM_ERR_LAST_CH : Fld := ⟨55, 51⟩
def fMEM_ERR_LAST_PC : Fld := ⟨50, 50⟩
def fMEM_ERR_LAST_SYMBOL : Fld := ⟨39, 32⟩

/-- 11 R344; 64 bits. -/
def MEM_ERR_ADDR (b : Nat) : Nat := 0x300058 + b * 0x10000
def fMEM_ERR_ADDR_OFFSET : Fld := ⟨37, 0⟩

/-- 11 R344; 64 bits. -/
def MEM_DIE_CE (b : Nat) : Nat := 0x300060 + b * 0x10000
def fMEM_DIE_CE_COUNT : Fld := ⟨63, 0⟩

/-- 11 R344; 64 bits. -/
def MEM_UNMAP (b : Nat) : Nat := 0x300068 + b * 0x10000
def fMEM_UNMAP_COUNT : Fld := ⟨63, 0⟩

/-- 11 R344; 32 bits. -/
def MEM_TEMP (b : Nat) : Nat := 0x300070 + b * 0x10000
def fMEM_TEMP_MAXT : Fld := ⟨15, 8⟩
def fMEM_TEMP_TEMP : Fld := ⟨7, 0⟩

/-- 11 R344; 32 bits. -/
def MEM_SCRUB (b : Nat) : Nat := 0x300078 + b * 0x10000
def fMEM_SCRUB_PERIOD : Fld := ⟨15, 0⟩

/-- 11 R344; 32 bits. -/
def MEM_CACHE_CFG (b : Nat) : Nat := 0x300080 + b * 0x10000
def fMEM_CACHE_CFG_PROTW : Fld := ⟨4, 0⟩

/-- 11 R344; 64 bits. -/
def MEM_C_HIT (b : Nat) : Nat := 0x300088 + b * 0x10000
def fMEM_C_HIT_COUNT : Fld := ⟨63, 0⟩

/-- 11 R344; 64 bits. -/
def MEM_C_MISS (b : Nat) : Nat := 0x300090 + b * 0x10000
def fMEM_C_MISS_COUNT : Fld := ⟨63, 0⟩

/-- 11 R344; 64 bits. -/
def MEM_C_FILL (b : Nat) : Nat := 0x300098 + b * 0x10000
def fMEM_C_FILL_COUNT : Fld := ⟨63, 0⟩

/-- 11 R344; 64 bits. -/
def MEM_C_PROBE (b : Nat) : Nat := 0x3000A0 + b * 0x10000
def fMEM_C_PROBE_COUNT : Fld := ⟨63, 0⟩

/-- 11 R344; 64 bits. -/
def MEM_C_DEMOTE (b : Nat) : Nat := 0x3000A8 + b * 0x10000
def fMEM_C_DEMOTE_COUNT : Fld := ⟨63, 0⟩

/-- 11 R344; 64 bits. -/
def MEM_C_ERR (b : Nat) : Nat := 0x3000B0 + b * 0x10000
def fMEM_C_ERR_COUNT : Fld := ⟨63, 0⟩

/-- 11 R344; 64 bits. -/
def MEM_POISON (b : Nat) : Nat := 0x3000B8 + b * 0x10000
def fMEM_POISON_COUNT : Fld := ⟨63, 0⟩

/-- 11 R344; 64 bits. -/
def MEM_CH (b i : Nat) : Nat := 0x300100 + b * 0x10000 + i * 0x8
def fMEM_CH_STATE : Fld := ⟨63, 62⟩
def fMEM_CH_REASON : Fld := ⟨61, 59⟩
def fMEM_CH_PC1_REP : Fld := ⟨55, 42⟩
def fMEM_CH_PC0_REP : Fld := ⟨41, 28⟩
def fMEM_CH_UE : Fld := ⟨23, 16⟩
def fMEM_CH_CE : Fld := ⟨15, 0⟩

/-- 11 R345; 64 bits. -/
def PT_STATUS (b : Nat) : Nat := 0x3A0000 + b * 0x10000
def fPT_STATUS_RATE : Fld := ⟨23, 16⟩
def fPT_STATUS_NLIVE : Fld := ⟨10, 8⟩
def fPT_STATUS_CONTENTS_LOST : Fld := ⟨5, 5⟩
def fPT_STATUS_COMPACTING : Fld := ⟨4, 4⟩
def fPT_STATUS_SREF : Fld := ⟨3, 3⟩
def fPT_STATUS_STATE : Fld := ⟨2, 0⟩

/-- 11 R345; 32 bits. -/
def PT_EVENTS (b : Nat) : Nat := 0x3A0008 + b * 0x10000
def fPT_EVENTS_MISMATCH : Fld := ⟨12, 12⟩
def fPT_EVENTS_TEMP_HIGH : Fld := ⟨11, 11⟩
def fPT_EVENTS_SCRUB_PASS : Fld := ⟨10, 10⟩
def fPT_EVENTS_REFUSED : Fld := ⟨9, 9⟩
def fPT_EVENTS_CONTENTS_LOST : Fld := ⟨8, 8⟩
def fPT_EVENTS_UNMAPPED : Fld := ⟨7, 7⟩
def fPT_EVENTS_COMPACT_DONE : Fld := ⟨5, 5⟩
def fPT_EVENTS_MAPOUT : Fld := ⟨4, 4⟩
def fPT_EVENTS_FENCE : Fld := ⟨3, 3⟩
def fPT_EVENTS_POISON : Fld := ⟨2, 2⟩
def fPT_EVENTS_UE : Fld := ⟨1, 1⟩
def fPT_EVENTS_CE : Fld := ⟨0, 0⟩

/-- 11 R345; 64 bits. -/
def PT_RANGE (b : Nat) : Nat := 0x3A0010 + b * 0x10000
def fPT_RANGE_BYTES : Fld := ⟨40, 0⟩

/-- 11 R345; 32 bits. -/
def PT_THRESH (b : Nat) : Nat := 0x3A0018 + b * 0x10000
def fPT_THRESH_CE_THR : Fld := ⟨31, 16⟩
def fPT_THRESH_UE_THR : Fld := ⟨7, 0⟩

/-- 11 R345; 64 bits. -/
def PT_CE (b : Nat) : Nat := 0x3A0020 + b * 0x10000
def fPT_CE_COUNT : Fld := ⟨63, 0⟩

/-- 11 R345; 64 bits. -/
def PT_UE (b : Nat) : Nat := 0x3A0028 + b * 0x10000
def fPT_UE_COUNT : Fld := ⟨63, 0⟩

/-- 11 R345; 64 bits. -/
def PT_ERR_LAST (b : Nat) : Nat := 0x3A0030 + b * 0x10000
def fPT_ERR_LAST_KIND : Fld := ⟨63, 56⟩
def fPT_ERR_LAST_CH : Fld := ⟨55, 54⟩
def fPT_ERR_LAST_SUB : Fld := ⟨53, 53⟩
def fPT_ERR_LAST_DEV : Fld := ⟨52, 48⟩

/-- 11 R345; 64 bits. -/
def PT_ERR_ADDR (b : Nat) : Nat := 0x3A0038 + b * 0x10000
def fPT_ERR_ADDR_ADDR : Fld := ⟨39, 0⟩

/-- 11 R345; 64 bits. -/
def PT_UNMAP (b : Nat) : Nat := 0x3A0040 + b * 0x10000
def fPT_UNMAP_COUNT : Fld := ⟨63, 0⟩

/-- 11 R345; 32 bits. -/
def PT_SCRUB (b : Nat) : Nat := 0x3A0048 + b * 0x10000
def fPT_SCRUB_PERIOD : Fld := ⟨15, 0⟩

/-- 11 R345; 64 bits. -/
def PT_POISON (b : Nat) : Nat := 0x3A0050 + b * 0x10000
def fPT_POISON_COUNT : Fld := ⟨63, 0⟩

/-- 11 R345; 64 bits. -/
def PT_CH_INFO (b i : Nat) : Nat := 0x3A0100 + b * 0x10000 + i * 0x10
def fPT_CH_INFO_STATE : Fld := ⟨63, 62⟩
def fPT_CH_INFO_REASON : Fld := ⟨61, 59⟩
def fPT_CH_INFO_CAP : Fld := ⟨56, 48⟩
def fPT_CH_INFO_TYPE : Fld := ⟨47, 44⟩
def fPT_CH_INFO_RANKS : Fld := ⟨43, 40⟩
def fPT_CH_INFO_WIDTH : Fld := ⟨39, 38⟩
def fPT_CH_INFO_MAXRATE : Fld := ⟨31, 24⟩
def fPT_CH_INFO_TEMP : Fld := ⟨7, 0⟩

/-- 11 R345; 64 bits. -/
def PT_CH_ERR (b i : Nat) : Nat := 0x3A0108 + b * 0x10000 + i * 0x10
def fPT_CH_ERR_UE : Fld := ⟨23, 16⟩
def fPT_CH_ERR_CE : Fld := ⟨15, 0⟩

/-- 13 R404; 32 bits. -/
def FAB_CTRL : Nat := 0x600000
def fFAB_CTRL_AUTO : Fld := ⟨1, 1⟩
def fFAB_CTRL_EN : Fld := ⟨0, 0⟩

/-- 13 R404; 64 bits. -/
def FAB_STATUS : Nat := 0x600008
def fFAB_STATUS_ISOLATED : Fld := ⟨31, 16⟩
def fFAB_STATUS_UP : Fld := ⟨15, 0⟩

/-- 13 R404; 32 bits. -/
def FAB_EVENTS : Nat := 0x600010
def fFAB_EVENTS_LOOP_DROP : Fld := ⟨10, 10⟩
def fFAB_EVENTS_DUPREC_OVF : Fld := ⟨9, 9⟩
def fFAB_EVENTS_GEN_CHANGE : Fld := ⟨8, 8⟩
def fFAB_EVENTS_DETACHED : Fld := ⟨7, 7⟩
def fFAB_EVENTS_WORKING : Fld := ⟨6, 6⟩
def fFAB_EVENTS_ENROLLED : Fld := ⟨5, 5⟩
def fFAB_EVENTS_ENROL_DENIED : Fld := ⟨4, 4⟩
def fFAB_EVENTS_REROUTE : Fld := ⟨3, 3⟩
def fFAB_EVENTS_LANE_SWITCH : Fld := ⟨2, 2⟩
def fFAB_EVENTS_PORT_ISOLATED : Fld := ⟨1, 1⟩
def fFAB_EVENTS_PORT_DOWN : Fld := ⟨0, 0⟩

/-- 13 R404; 64 bits. -/
def FAB_ID : Nat := 0x600018
def fFAB_ID_ELIGIBLE : Fld := ⟨63, 63⟩
def fFAB_ID_GEN : Fld := ⟨62, 59⟩
def fFAB_ID_DOMAIN : Fld := ⟨47, 16⟩
def fFAB_ID_NODE : Fld := ⟨11, 0⟩

/-- 13 R404; 64 bits. -/
def FAB_ENROL : Nat := 0x600020
def fFAB_ENROL_STATE : Fld := ⟨63, 61⟩
def fFAB_ENROL_DENY : Fld := ⟨60, 58⟩
def fFAB_ENROL_DEPTH : Fld := ⟨57, 55⟩
def fFAB_ENROL_RM_VALID : Fld := ⟨54, 54⟩
def fFAB_ENROL_SB_VALID : Fld := ⟨53, 53⟩
def fFAB_ENROL_RM : Fld := ⟨47, 36⟩
def fFAB_ENROL_SB : Fld := ⟨35, 24⟩

/-- 13 R404; 64 bits. -/
def FAB_THRESH : Nat := 0x600028
def fFAB_THRESH_SER_THR : Fld := ⟨63, 48⟩
def fFAB_THRESH_UNC_THR : Fld := ⟨47, 40⟩
def fFAB_THRESH_RETRY_THR : Fld := ⟨39, 32⟩

/-- 13 R404; 64 bits. -/
def FAB_DROP : Nat := 0x600030
def fFAB_DROP_LOOP : Fld := ⟨63, 32⟩
def fFAB_DROP_NOROUTE : Fld := ⟨31, 0⟩

/-- 13 R404; 64 bits. -/
def FAB_DUP : Nat := 0x600038
def fFAB_DUP_SUPPRESSED : Fld := ⟨63, 32⟩
def fFAB_DUP_STRAY : Fld := ⟨31, 0⟩

/-- 13 R404; 64 bits. -/
def FAB_GEN_DISC : Nat := 0x600040
def fFAB_GEN_DISC_COUNT : Fld := ⟨63, 0⟩

/-- 13 R404; 64 bits. -/
def FAB_PERM : Nat := 0x600048
def fFAB_PERM_COUNT : Fld := ⟨63, 0⟩

/-- 13 R404; 32 bits. -/
def FP_CTRL (b i : Nat) : Nat := 0x600100 + b * 0x40000 + i * 0x80
def fFP_CTRL_EN : Fld := ⟨0, 0⟩

/-- 13 R404; 64 bits. -/
def FP_STATUS (b i : Nat) : Nat := 0x600108 + b * 0x40000 + i * 0x80
def fFP_STATUS_PNODE : Fld := ⟨63, 52⟩
def fFP_STATUS_PPORT : Fld := ⟨51, 48⟩
def fFP_STATUS_PGEN : Fld := ⟨47, 44⟩
def fFP_STATUS_SPARE_USED : Fld := ⟨7, 7⟩
def fFP_STATUS_PAIRED : Fld := ⟨6, 6⟩
def fFP_STATUS_TRUSTED : Fld := ⟨5, 5⟩
def fFP_STATUS_STATE : Fld := ⟨2, 0⟩

/-- 13 R404; 32 bits. -/
def FP_LANEMAP (b i : Nat) : Nat := 0x600110 + b * 0x40000 + i * 0x80
def fFP_LANEMAP_SLOTS : Fld := ⟨19, 0⟩

/-- 13 R404; 64 bits. -/
def FP_RETRY (b i : Nat) : Nat := 0x600118 + b * 0x40000 + i * 0x80
def fFP_RETRY_COUNT : Fld := ⟨63, 0⟩

/-- 13 R404; 64 bits. -/
def FP_FEC_CORR (b i : Nat) : Nat := 0x600120 + b * 0x40000 + i * 0x80
def fFP_FEC_CORR_COUNT : Fld := ⟨63, 0⟩

/-- 13 R404; 64 bits. -/
def FP_FEC_UNC (b i : Nat) : Nat := 0x600128 + b * 0x40000 + i * 0x80
def fFP_FEC_UNC_COUNT : Fld := ⟨63, 0⟩

/-- 13 R404; 64 bits. -/
def FP_TX_FLITS (b i : Nat) : Nat := 0x600130 + b * 0x40000 + i * 0x80
def fFP_TX_FLITS_COUNT : Fld := ⟨63, 0⟩

/-- 13 R404; 64 bits. -/
def FP_RX_FLITS (b i : Nat) : Nat := 0x600138 + b * 0x40000 + i * 0x80
def fFP_RX_FLITS_COUNT : Fld := ⟨63, 0⟩

/-- 13 R404; 32 bits. -/
def FP_DOWNS (b i : Nat) : Nat := 0x600140 + b * 0x40000 + i * 0x80
def fFP_DOWNS_COUNT : Fld := ⟨31, 0⟩

/-- 13 R404; 32 bits. -/
def FP_SKEW (b i : Nat) : Nat := 0x600148 + b * 0x40000 + i * 0x80
def fFP_SKEW_SKEW : Fld := ⟨31, 0⟩

/-- 13 R404; 64 bits. -/
def FL_STATUS (b i : Nat) : Nat := 0x600300 + b * 0x40000 + i * 0x10
def fFL_STATUS_SER : Fld := ⟨63, 32⟩
def fFL_STATUS_RETIRED : Fld := ⟨8, 8⟩
def fFL_STATUS_LOCK : Fld := ⟨7, 7⟩
def fFL_STATUS_SPARE : Fld := ⟨6, 6⟩
def fFL_STATUS_IN_USE : Fld := ⟨5, 5⟩
def fFL_STATUS_PORT : Fld := ⟨2, 1⟩

/-- 13 R404; 64 bits. -/
def FL_ERR (b i : Nat) : Nat := 0x600308 + b * 0x40000 + i * 0x10
def fFL_ERR_COUNT : Fld := ⟨63, 0⟩

/-- 13 R404; 32 bits. -/
def FAB_ROUTE (i : Nat) : Nat := 0x610000 + i * 0x4
def fFAB_ROUTE_VALID : Fld := ⟨31, 31⟩
def fFAB_ROUTE_SETC : Fld := ⟨30, 30⟩
def fFAB_ROUTE_UPHOP : Fld := ⟨29, 29⟩
def fFAB_ROUTE_PORTB : Fld := ⟨7, 4⟩
def fFAB_ROUTE_PORTA : Fld := ⟨3, 0⟩

/-- 15 R465; 32 bits. -/
def PWR_CTRL : Nat := 0x200000
def fPWR_CTRL_CSTOP_LATCH : Fld := ⟨6, 6⟩
def fPWR_CTRL_ABRUPT_LATCH : Fld := ⟨5, 5⟩
def fPWR_CTRL_HINT_EN : Fld := ⟨4, 4⟩
def fPWR_CTRL_BOOST_EN : Fld := ⟨3, 3⟩
def fPWR_CTRL_ADAPT : Fld := ⟨2, 2⟩
def fPWR_CTRL_FORCE_MIN : Fld := ⟨1, 1⟩

/-- 15 R465; 64 bits. -/
def PWR_STATUS : Nat := 0x200008
def fPWR_STATUS_DUTY : Fld := ⟨20, 16⟩
def fPWR_STATUS_START_MARGIN : Fld := ⟨13, 13⟩
def fPWR_STATUS_BOOST : Fld := ⟨12, 12⟩
def fPWR_STATUS_ASSUMED : Fld := ⟨11, 11⟩
def fPWR_STATUS_STATE : Fld := ⟨10, 8⟩
def fPWR_STATUS_MINCAUSE : Fld := ⟨5, 0⟩

/-- 15 R465; 32 bits. -/
def PWR_EVENTS : Nat := 0x200010
def fPWR_EVENTS_ETAG_OVF : Fld := ⟨9, 9⟩
def fPWR_EVENTS_TRAY_BAD : Fld := ⟨8, 8⟩
def fPWR_EVENTS_HINT_LATE : Fld := ⟨7, 7⟩
def fPWR_EVENTS_WARN : Fld := ⟨6, 6⟩
def fPWR_EVENTS_RESUME : Fld := ⟨5, 5⟩
def fPWR_EVENTS_CSTOP : Fld := ⟨4, 4⟩
def fPWR_EVENTS_MINPWR_EXIT : Fld := ⟨3, 3⟩
def fPWR_EVENTS_MINPWR_ENTER : Fld := ⟨2, 2⟩
def fPWR_EVENTS_BUDGET_CLAMP : Fld := ⟨1, 1⟩
def fPWR_EVENTS_BUDGET_CHANGE : Fld := ⟨0, 0⟩

/-- 15 R465; 32 bits. -/
def PWR_WARN : Nat := 0x200018
def fPWR_WARN_WARN : Fld := ⟨14, 0⟩

/-- 15 R465; 32 bits. -/
def PWR_BUDGET : Nat := 0x200020
def fPWR_BUDGET_WATTS : Fld := ⟨15, 0⟩

/-- 15 R465; 32 bits. -/
def PWR_BSTEP : Nat := 0x200028
def fPWR_BSTEP_LEVEL : Fld := ⟨26, 16⟩
def fPWR_BSTEP_CODE : Fld := ⟨2, 0⟩

/-- 15 R465; 64 bits. -/
def PWR_BSTEP_LVL_LO : Nat := 0x200030
def fPWR_BSTEP_LVL_LO_LVL3_0 : Fld := ⟨63, 0⟩

/-- 15 R465; 64 bits. -/
def PWR_BSTEP_LVL_HI : Nat := 0x200038
def fPWR_BSTEP_LVL_HI_LVL7_4 : Fld := ⟨63, 0⟩

/-- 15 R465; 64 bits. -/
def PWR_LIMITS : Nat := 0x200040
def fPWR_LIMITS_EFF : Fld := ⟨63, 48⟩
def fPWR_LIMITS_COOL : Fld := ⟨47, 32⟩
def fPWR_LIMITS_THERM : Fld := ⟨31, 16⟩
def fPWR_LIMITS_CEILCODE : Fld := ⟨6, 0⟩

/-- 15 R465; 64 bits. -/
def PWR_POWER : Nat := 0x200048
def fPWR_POWER_P1US : Fld := ⟨63, 48⟩
def fPWR_POWER_P1MS : Fld := ⟨47, 32⟩
def fPWR_POWER_PEAK : Fld := ⟨31, 16⟩

/-- 15 R465; 64 bits. -/
def PWR_OVER : Nat := 0x200050
def fPWR_OVER_COUNT : Fld := ⟨63, 32⟩
def fPWR_OVER_LONGEST : Fld := ⟨31, 16⟩

/-- 15 R465; 64 bits. -/
def PWR_TJ : Nat := 0x200058
def fPWR_TJ_TJ : Fld := ⟨63, 54⟩
def fPWR_TJ_HS : Fld := ⟨53, 48⟩
def fPWR_TJ_STACKT : Fld := ⟨47, 40⟩
def fPWR_TJ_SITE : Fld := ⟨39, 36⟩

/-- 15 R465; 64 bits. -/
def PWR_COOL : Nat := 0x200060
def fPWR_COOL_INLET : Fld := ⟨63, 48⟩
def fPWR_COOL_OUTLET : Fld := ⟨47, 32⟩
def fPWR_COOL_FLOW : Fld := ⟨31, 16⟩
def fPWR_COOL_SEQ : Fld := ⟨7, 0⟩

/-- 15 R465; 64 bits. -/
def PWR_COOL_STAT : Nat := 0x200068
def fPWR_COOL_STAT_AGE : Fld := ⟨63, 48⟩
def fPWR_COOL_STAT_ACCEPTED : Fld := ⟨47, 32⟩
def fPWR_COOL_STAT_REJECTED : Fld := ⟨31, 16⟩

/-- 15 R465; 32 bits. -/
def PWR_MARGIN_CFG : Nat := 0x200070
def fPWR_MARGIN_CFG_MSTART : Fld := ⟨31, 24⟩
def fPWR_MARGIN_CFG_MMIN : Fld := ⟨23, 16⟩
def fPWR_MARGIN_CFG_MMAX : Fld := ⟨15, 8⟩

/-- 15 R465; 32 bits. -/
def PWR_DROOP_CFG : Nat := 0x200078
def fPWR_DROOP_CFG_DTHR1 : Fld := ⟨31, 24⟩
def fPWR_DROOP_CFG_DTHR2 : Fld := ⟨23, 16⟩
def fPWR_DROOP_CFG_STR_LO : Fld := ⟨15, 8⟩
def fPWR_DROOP_CFG_STR_HI : Fld := ⟨7, 0⟩

/-- 15 R465; 64 bits. -/
def PWR_ENERGY : Nat := 0x200080
def fPWR_ENERGY_MJ : Fld := ⟨63, 0⟩

/-- 15 R465; 64 bits. -/
def PWR_COUNTS : Nat := 0x200088
def fPWR_COUNTS_MINPWR : Fld := ⟨63, 48⟩
def fPWR_COUNTS_CSTOPS : Fld := ⟨47, 32⟩
def fPWR_COUNTS_TRIPS : Fld := ⟨31, 16⟩
def fPWR_COUNTS_ABRUPTS : Fld := ⟨15, 0⟩

/-- 15 R465; 64 bits. -/
def PWR_WEAR : Nat := 0x200090
def fPWR_WEAR_INDEX : Fld := ⟨63, 32⟩
def fPWR_WEAR_WARN : Fld := ⟨31, 0⟩

/-- 15 R465; 32 bits. -/
def PWR_HCLS (i : Nat) : Nat := 0x200100 + i * 0x8
def fPWR_HCLS_POWER : Fld := ⟨31, 16⟩
def fPWR_HCLS_ADD : Fld := ⟨7, 0⟩

/-- 15 R465; 64 bits. -/
def PWR_ZPOWER (i : Nat) : Nat := 0x200200 + i * 0x20
def fPWR_ZPOWER_P1MS : Fld := ⟨63, 48⟩
def fPWR_ZPOWER_P1US : Fld := ⟨47, 32⟩

/-- 15 R465; 32 bits. -/
def PWR_ZMARGIN (i : Nat) : Nat := 0x200208 + i * 0x20
def fPWR_ZMARGIN_BASE : Fld := ⟨15, 8⟩
def fPWR_ZMARGIN_ADD : Fld := ⟨7, 0⟩

/-- 15 R465; 32 bits. -/
def PWR_ZHINT (i : Nat) : Nat := 0x20020C + i * 0x20
def fPWR_ZHINT_HELD : Fld := ⟨27, 24⟩
def fPWR_ZHINT_ANNOUNCED : Fld := ⟨15, 0⟩

/-- 15 R465; 64 bits. -/
def PWR_ZDROOP (i : Nat) : Nat := 0x200210 + i * 0x20
def fPWR_ZDROOP_MAXDROOP : Fld := ⟨63, 48⟩
def fPWR_ZDROOP_LASTTICK : Fld := ⟨31, 0⟩

/-- 15 R465; 64 bits. -/
def PWR_ZENERGY (i : Nat) : Nat := 0x200218 + i * 0x20
def fPWR_ZENERGY_MJ : Fld := ⟨63, 0⟩

/-- 15 R465; 64 bits. -/
def PWR_HS (i : Nat) : Nat := 0x200400 + i * 0x8
def fPWR_HS_VAL : Fld := ⟨63, 54⟩
def fPWR_HS_SB : Fld := ⟨53, 44⟩
def fPWR_HS_SA : Fld := ⟨43, 34⟩
def fPWR_HS_ABSENT : Fld := ⟨7, 7⟩
def fPWR_HS_PAIRFAIL : Fld := ⟨6, 6⟩
def fPWR_HS_FAILB : Fld := ⟨5, 5⟩
def fPWR_HS_FAILA : Fld := ⟨4, 4⟩
def fPWR_HS_DISAGREE : Fld := ⟨3, 3⟩

/-- 15 R465; 32 bits. -/
def PWR_CTAG (i : Nat) : Nat := 0x200800 + i * 0x4
def fPWR_CTAG_TAG : Fld := ⟨15, 0⟩

/-- 15 R465; 32 bits. -/
def PWR_UDTAG : Nat := 0x200C80
def fPWR_UDTAG_UD1 : Fld := ⟨31, 16⟩
def fPWR_UDTAG_UD0 : Fld := ⟨15, 0⟩

/-- 15 R465; 32 bits. -/
def PWR_ETAG_ID (i : Nat) : Nat := 0x201000 + i * 0x10
def fPWR_ETAG_ID_VALID : Fld := ⟨31, 31⟩
def fPWR_ETAG_ID_TAG : Fld := ⟨15, 0⟩

/-- 15 R465; 64 bits. -/
def PWR_ETAG_MJ (i : Nat) : Nat := 0x201008 + i * 0x10
def fPWR_ETAG_MJ_MJ : Fld := ⟨63, 0⟩

/-- 15 R465; 32 bits. -/
def PWR_CYC (i : Nat) : Nat := 0x201400 + i * 0x4
def fPWR_CYC_COUNT : Fld := ⟨31, 0⟩

/-- 17 R508; 64 bits. -/
def PKG_ID : Nat := 0x0
def fPKG_ID_DEVID : Fld := ⟨63, 48⟩
def fPKG_ID_IODIES : Fld := ⟨47, 44⟩
def fPKG_ID_STACKS : Fld := ⟨39, 32⟩
def fPKG_ID_MAGIC : Fld := ⟨31, 0⟩

/-- 17 R508; 64 bits. -/
def PKG_SERIAL : Nat := 0x8
def fPKG_SERIAL_SERIAL : Fld := ⟨63, 0⟩

/-- 17 R508; 32 bits. -/
def PKG_REV : Nat := 0x10
def fPKG_REV_CD : Fld := ⟨31, 24⟩
def fPKG_REV_IO : Fld := ⟨23, 16⟩
def fPKG_REV_UD : Fld := ⟨15, 8⟩
def fPKG_REV_SUB : Fld := ⟨7, 0⟩

/-- 17 R508; 64 bits. -/
def PKG_CONFIG : Nat := 0x18
def fPKG_CONFIG_NCORES : Fld := ⟨40, 32⟩
def fPKG_CONFIG_IOMAP : Fld := ⟨19, 16⟩
def fPKG_CONFIG_STACKMAP : Fld := ⟨9, 0⟩

/-- 17 R508; 64 bits. -/
def PKG_FW : Nat := 0x20
def fPKG_FW_VERSION : Fld := ⟨63, 0⟩

/-- 17 R508; 64 bits. -/
def PKG_CORES (i : Nat) : Nat := 0x28 + i * 0x8
def fPKG_CORES_EN : Fld := ⟨63, 0⟩

/-- 16 R503; 64 bits. -/
def PKG_STATE : Nat := 0x100
def fPKG_STATE_ELAPSED : Fld := ⟨47, 32⟩
def fPKG_STATE_STEP : Fld := ⟨23, 16⟩
def fPKG_STATE_STEPFAIL : Fld := ⟨15, 8⟩
def fPKG_STATE_LAST : Fld := ⟨5, 4⟩
def fPKG_STATE_RELOADED : Fld := ⟨3, 3⟩
def fPKG_STATE_STATE : Fld := ⟨2, 0⟩

/-- 16 R503; 32 bits. -/
def PKG_EVENTS : Nat := 0x108
def fPKG_EVENTS_CORE_LIMIT : Fld := ⟨14, 14⟩
def fPKG_EVENTS_CAPTURE_DONE : Fld := ⟨13, 13⟩
def fPKG_EVENTS_DBG_UNLOCKED : Fld := ⟨12, 12⟩
def fPKG_EVENTS_SPILL_ERR : Fld := ⟨11, 11⟩
def fPKG_EVENTS_JNL_FULL : Fld := ⟨10, 10⟩
def fPKG_EVENTS_GEN_DISC : Fld := ⟨9, 9⟩
def fPKG_EVENTS_PARTNER_RESET : Fld := ⟨8, 8⟩
def fPKG_EVENTS_PERM_DENIED : Fld := ⟨7, 7⟩
def fPKG_EVENTS_XW_DENIED : Fld := ⟨6, 6⟩
def fPKG_EVENTS_TUNE_IGNORED : Fld := ⟨5, 5⟩
def fPKG_EVENTS_OVL_IGNORED : Fld := ⟨4, 4⟩
def fPKG_EVENTS_LOCKSTEP : Fld := ⟨3, 3⟩
def fPKG_EVENTS_RECOVERY : Fld := ⟨2, 2⟩
def fPKG_EVENTS_BOOT_FALLBACK : Fld := ⟨1, 1⟩
def fPKG_EVENTS_START_DONE : Fld := ⟨0, 0⟩

/-- 16 R503; 64 bits. -/
def PKG_BOOT : Nat := 0x110
def fPKG_BOOT_SEQ : Fld := ⟨63, 32⟩
def fPKG_BOOT_FAIL_A : Fld := ⟨31, 29⟩
def fPKG_BOOT_FAIL_B : Fld := ⟨28, 26⟩
def fPKG_BOOT_TUNE_IGN : Fld := ⟨25, 18⟩
def fPKG_BOOT_SLOT : Fld := ⟨1, 1⟩
def fPKG_BOOT_VALID : Fld := ⟨0, 0⟩

/-- 16 R503; 64 bits. -/
def PKG_STARTS : Nat := 0x118
def fPKG_STARTS_START : Fld := ⟨63, 32⟩
def fPKG_STARTS_WARMS : Fld := ⟨31, 16⟩

/-- 16 R503; 32 bits. -/
def PKG_GEN : Nat := 0x120
def fPKG_GEN_FAB : Fld := ⟨31, 28⟩
def fPKG_GEN_CD : Fld := ⟨27, 24⟩
def fPKG_GEN_UD1 : Fld := ⟨23, 20⟩
def fPKG_GEN_UD0 : Fld := ⟨19, 16⟩
def fPKG_GEN_IO3 : Fld := ⟨15, 12⟩
def fPKG_GEN_IO2 : Fld := ⟨11, 8⟩
def fPKG_GEN_IO1 : Fld := ⟨7, 4⟩
def fPKG_GEN_IO0 : Fld := ⟨3, 0⟩

/-- 16 R503; 64 bits. -/
def PKG_GEN_DISC : Nat := 0x128
def fPKG_GEN_DISC_COUNT : Fld := ⟨63, 0⟩

/-- 16 R503; 64 bits. -/
def PKG_PRESET : Nat := 0x130
def fPKG_PRESET_COUNT : Fld := ⟨63, 0⟩

/-- 16 R503; 64 bits. -/
def PKG_XW_DENY : Nat := 0x138
def fPKG_XW_DENY_COUNT : Fld := ⟨63, 0⟩

/-- 16 R503; 64 bits. -/
def PKG_PERM_DENY : Nat := 0x140
def fPKG_PERM_DENY_COUNT : Fld := ⟨63, 0⟩

/-- 16 R503; 32 bits. -/
def PKG_LOCK : Nat := 0x148
def fPKG_LOCK_CAPTURED : Fld := ⟨2, 2⟩
def fPKG_LOCK_TEST_LOCKED : Fld := ⟨1, 1⟩
def fPKG_LOCK_DBG_LOCKED : Fld := ⟨0, 0⟩

/-- 16 R503; 64 bits. -/
def PKG_OVL : Nat := 0x150
def fPKG_OVL_IGNORED : Fld := ⟨31, 16⟩
def fPKG_OVL_APPLIED : Fld := ⟨15, 0⟩

/-- 16 R503; 32 bits. -/
def PKG_PERM (i : Nat) : Nat := 0x180 + i * 0x8
def fPKG_PERM_MASK : Fld := ⟨31, 0⟩

/-- 16 R503; 32 bits. -/
def JNL_CTRL : Nat := 0x400
def fJNL_CTRL_LOG2N : Fld := ⟨5, 1⟩
def fJNL_CTRL_SPILL : Fld := ⟨0, 0⟩

/-- 16 R503; 64 bits. -/
def JNL_HEAD : Nat := 0x408
def fJNL_HEAD_SEQ : Fld := ⟨63, 0⟩

/-- 16 R503; 32 bits. -/
def JNL_INFO : Nat := 0x410
def fJNL_INFO_PENDING : Fld := ⟨6, 0⟩

/-- 16 R503; 64 bits. -/
def JNL_SPILL_BASE : Nat := 0x418
def fJNL_SPILL_BASE_ADDR : Fld := ⟨63, 0⟩

/-- 16 R503; 64 bits. -/
def JNL_SPILL_ERR : Nat := 0x420
def fJNL_SPILL_ERR_COUNT : Fld := ⟨63, 0⟩

/-- 17 R532; 32 bits. -/
def HIF_CTRL : Nat := 0x800000
def fHIF_CTRL_CQEN : Fld := ⟨0, 0⟩

/-- 17 R532; 64 bits. -/
def HIF_STATUS : Nat := 0x800008
def fHIF_STATUS_BME : Fld := ⟨15, 15⟩
def fHIF_STATUS_D3HOT : Fld := ⟨14, 14⟩
def fHIF_STATUS_FLIT : Fld := ⟨13, 13⟩
def fHIF_STATUS_WIDTH : Fld := ⟨12, 8⟩
def fHIF_STATUS_RATE : Fld := ⟨7, 4⟩

/-- 17 R532; 32 bits. -/
def HIF_EVENTS : Nat := 0x800010
def fHIF_EVENTS_RM_REPORT : Fld := ⟨7, 7⟩
def fHIF_EVENTS_CXL_CHANGE : Fld := ⟨6, 6⟩
def fHIF_EVENTS_CXL_EVENT : Fld := ⟨5, 5⟩
def fHIF_EVENTS_DMA_ERR : Fld := ⟨4, 4⟩
def fHIF_EVENTS_FRAME_ERR : Fld := ⟨3, 3⟩
def fHIF_EVENTS_BAR2_ERR : Fld := ⟨2, 2⟩
def fHIF_EVENTS_FLR : Fld := ⟨1, 1⟩
def fHIF_EVENTS_LINK_DEGRADED : Fld := ⟨0, 0⟩

/-- 17 R532; 64 bits. -/
def HIF_BAR2 : Nat := 0x800018
def fHIF_BAR2_BASE : Fld := ⟨43, 32⟩
def fHIF_BAR2_USE : Fld := ⟨5, 2⟩
def fHIF_BAR2_HINT : Fld := ⟨1, 0⟩

/-- 17 R532; 32 bits. -/
def HIF_TMO : Nat := 0x800020
def fHIF_TMO_DMA : Fld := ⟨31, 16⟩
def fHIF_TMO_BAR2 : Fld := ⟨15, 0⟩

/-- 17 R532; 64 bits. -/
def HIF_BAR2_ERR : Nat := 0x800028
def fHIF_BAR2_ERR_STATUS : Fld := ⟨63, 56⟩
def fHIF_BAR2_ERR_WRITE : Fld := ⟨55, 55⟩
def fHIF_BAR2_ERR_COUNT : Fld := ⟨47, 32⟩

/-- 17 R532; 64 bits. -/
def HIF_BAR2_EADDR : Nat := 0x800030
def fHIF_BAR2_EADDR_OFFSET : Fld := ⟨35, 0⟩

/-- 17 R532; 64 bits. -/
def HIF_SQ_BASE : Nat := 0x800038
def fHIF_SQ_BASE_ADDR : Fld := ⟨63, 12⟩

/-- 17 R532; 64 bits. -/
def HIF_SQ : Nat := 0x800040
def fHIF_SQ_LOG2 : Fld := ⟨35, 32⟩
def fHIF_SQ_HEAD : Fld := ⟨31, 16⟩
def fHIF_SQ_TAIL : Fld := ⟨15, 0⟩

/-- 17 R532; 64 bits. -/
def HIF_CQ_BASE : Nat := 0x800048
def fHIF_CQ_BASE_ADDR : Fld := ⟨63, 12⟩

/-- 17 R532; 64 bits. -/
def HIF_CQ : Nat := 0x800050
def fHIF_CQ_PHASE : Fld := ⟨36, 36⟩
def fHIF_CQ_LOG2 : Fld := ⟨35, 32⟩
def fHIF_CQ_TAIL : Fld := ⟨31, 16⟩
def fHIF_CQ_HEAD : Fld := ⟨15, 0⟩

/-- 17 R532; 64 bits. -/
def HIF_FRAME_ERR : Nat := 0x800058
def fHIF_FRAME_ERR_COUNT : Fld := ⟨63, 0⟩

/-- 17 R532; 64 bits. -/
def HIF_CORE_FAULT (i : Nat) : Nat := 0x800060 + i * 0x8
def fHIF_CORE_FAULT_CORES : Fld := ⟨63, 0⟩

/-- 17 R532; 64 bits. -/
def HIF_CXL (i : Nat) : Nat := 0x800090 + i * 0x8
def fHIF_CXL_DEVS : Fld := ⟨42, 40⟩
def fHIF_CXL_ERR : Fld := ⟨31, 16⟩
def fHIF_CXL_WIDTH : Fld := ⟨12, 8⟩
def fHIF_CXL_RATE : Fld := ⟨7, 4⟩
def fHIF_CXL_DEGRADED : Fld := ⟨3, 3⟩
def fHIF_CXL_UP : Fld := ⟨1, 1⟩
def fHIF_CXL_PRESENT : Fld := ⟨0, 0⟩

/-- 17 R532; 64 bits. -/
def HIF_SMB : Nat := 0x8000A8
def fHIF_SMB_PECERR : Fld := ⟨63, 48⟩
def fHIF_SMB_FRAMES : Fld := ⟨47, 32⟩
def fHIF_SMB_NACK : Fld := ⟨31, 16⟩
def fHIF_SMB_ALERT : Fld := ⟨7, 7⟩
def fHIF_SMB_ADDR : Fld := ⟨6, 0⟩

/-- 17 R532; 32 bits. -/
def HIF_JTAG : Nat := 0x8000B0
def fHIF_JTAG_REFUSED : Fld := ⟨1, 1⟩
def fHIF_JTAG_DBG_PEND : Fld := ⟨0, 0⟩

/-- 17 R532; 32 bits. -/
def HIF_DBMAP (i : Nat) : Nat := 0x800104 + i * 0x4
def fHIF_DBMAP_EN : Fld := ⟨31, 31⟩
def fHIF_DBMAP_BASE : Fld := ⟨13, 0⟩

end Sys2Proof.Machine
end

