-- ==== Sys2Proof/Machine/RegTable.lean ====
section
/-!
DEFINITION. Machine/RegTable.lean: the register tables of the chapters as data: where a register lies in its block, how wide
it is, and each field's access code, reset value and whether a warm start keeps it (00 R11, R12).
Resets that depend on fuses, flash, straps or the boot image are those of the part that log entry 5 names (DESIGN CHOICE).
-/

namespace Sys2Proof.Machine

/-- Access codes (00 R11). -/
inductive Acc where
  | rw | ro | rc | w1c | w1s | wo | xw
  deriving DecidableEq, Repr

/-- One field of a register table: bits, access, reset, kept through a warm start. -/
structure FieldD where
  f : Fld
  acc : Acc
  reset : Nat
  warm : Bool
  deriving DecidableEq, Repr

/-- One register of a block: offset, width in bits, copies, stride between copies, fields. -/
structure RegD where
  off : Nat
  size : Nat
  n : Nat
  stride : Nat
  fields : List FieldD
  deriving DecidableEq, Repr

/-- The register blocks of BAR0 (17 R506). -/
inductive Blk where
  | pkg | time | pwr | mem | pt | ud | fab | sync | hif | core
  deriving DecidableEq, Repr

def regsPkg0 : List RegD := [
  ⟨0x0, 64, 1, 0x0, [⟨fPKG_ID_DEVID, .ro, 29348, false⟩,
      ⟨fPKG_ID_IODIES, .ro, 4, false⟩,
      ⟨fPKG_ID_STACKS, .ro, 10, false⟩,
      ⟨fPKG_ID_MAGIC, .ro, 0x424d4e44, false⟩]⟩  /- PKG_ID -/,
  ⟨0x8, 64, 1, 0x0, [⟨fPKG_SERIAL_SERIAL, .ro, 1, false⟩]⟩  /- PKG_SERIAL -/,
  ⟨0x10, 32, 1, 0x0, [⟨fPKG_REV_CD, .ro, 0, false⟩,
      ⟨fPKG_REV_IO, .ro, 0, false⟩,
      ⟨fPKG_REV_UD, .ro, 0, false⟩,
      ⟨fPKG_REV_SUB, .ro, 0, false⟩]⟩  /- PKG_REV -/,
  ⟨0x18, 64, 1, 0x0, [⟨fPKG_CONFIG_NCORES, .ro, 288, false⟩,
      ⟨fPKG_CONFIG_IOMAP, .ro, 15, false⟩,
      ⟨fPKG_CONFIG_STACKMAP, .ro, 1023, false⟩]⟩  /- PKG_CONFIG -/,
  ⟨0x20, 64, 1, 0x0, [⟨fPKG_FW_VERSION, .ro, 0, true⟩]⟩  /- PKG_FW -/,
  ⟨0x28, 64, 5, 0x8, [⟨fPKG_CORES_EN, .ro, 0xffffffffffffffff, false⟩]⟩  /- PKG_CORES -/,
  ⟨0x100, 64, 1, 0x0, [⟨fPKG_STATE_ELAPSED, .ro, 0, false⟩,
      ⟨fPKG_STATE_STEP, .ro, 1, false⟩,
      ⟨fPKG_STATE_STEPFAIL, .ro, 0, false⟩,
      ⟨fPKG_STATE_LAST, .ro, 1, false⟩,
      ⟨fPKG_STATE_RELOADED, .ro, 0, false⟩,
      ⟨fPKG_STATE_STATE, .ro, 1, false⟩]⟩  /- PKG_STATE -/,
  ⟨0x108, 32, 1, 0x0, [⟨fPKG_EVENTS_CORE_LIMIT, .w1c, 0, false⟩,
      ⟨fPKG_EVENTS_CAPTURE_DONE, .w1c, 0, false⟩,
      ⟨fPKG_EVENTS_DBG_UNLOCKED, .w1c, 0, false⟩,
      ⟨fPKG_EVENTS_SPILL_ERR, .w1c, 0, false⟩,
      ⟨fPKG_EVENTS_JNL_FULL, .w1c, 0, false⟩,
      ⟨fPKG_EVENTS_GEN_DISC, .w1c, 0, false⟩,
      ⟨fPKG_EVENTS_PARTNER_RESET, .w1c, 0, false⟩,
      ⟨fPKG_EVENTS_PERM_DENIED, .w1c, 0, false⟩,
      ⟨fPKG_EVENTS_XW_DENIED, .w1c, 0, false⟩,
      ⟨fPKG_EVENTS_TUNE_IGNORED, .w1c, 0, false⟩,
      ⟨fPKG_EVENTS_OVL_IGNORED, .w1c, 0, false⟩,
      ⟨fPKG_EVENTS_LOCKSTEP, .w1c, 0, false⟩,
      ⟨fPKG_EVENTS_RECOVERY, .w1c, 0, false⟩,
      ⟨fPKG_EVENTS_BOOT_FALLBACK, .w1c, 0, false⟩,
      ⟨fPKG_EVENTS_START_DONE, .w1c, 0, false⟩]⟩  /- PKG_EVENTS -/]

def regsPkg1 : List RegD := [
  ⟨0x110, 64, 1, 0x0, [⟨fPKG_BOOT_SEQ, .ro, 0, true⟩,
      ⟨fPKG_BOOT_FAIL_A, .ro, 0, false⟩,
      ⟨fPKG_BOOT_FAIL_B, .ro, 0, false⟩,
      ⟨fPKG_BOOT_TUNE_IGN, .ro, 0, false⟩,
      ⟨fPKG_BOOT_SLOT, .ro, 0, false⟩,
      ⟨fPKG_BOOT_VALID, .ro, 0, false⟩]⟩  /- PKG_BOOT -/,
  ⟨0x118, 64, 1, 0x0, [⟨fPKG_STARTS_START, .ro, 0, false⟩,
      ⟨fPKG_STARTS_WARMS, .ro, 0, true⟩]⟩  /- PKG_STARTS -/,
  ⟨0x120, 32, 1, 0x0, [⟨fPKG_GEN_FAB, .ro, 0, false⟩,
      ⟨fPKG_GEN_CD, .ro, 0, false⟩,
      ⟨fPKG_GEN_UD1, .ro, 0, false⟩,
      ⟨fPKG_GEN_UD0, .ro, 0, false⟩,
      ⟨fPKG_GEN_IO3, .ro, 0, false⟩,
      ⟨fPKG_GEN_IO2, .ro, 0, false⟩,
      ⟨fPKG_GEN_IO1, .ro, 0, false⟩,
      ⟨fPKG_GEN_IO0, .ro, 0, false⟩]⟩  /- PKG_GEN -/,
  ⟨0x128, 64, 1, 0x0, [⟨fPKG_GEN_DISC_COUNT, .rc, 0, false⟩]⟩  /- PKG_GEN_DISC -/,
  ⟨0x130, 64, 1, 0x0, [⟨fPKG_PRESET_COUNT, .rc, 0, false⟩]⟩  /- PKG_PRESET -/,
  ⟨0x138, 64, 1, 0x0, [⟨fPKG_XW_DENY_COUNT, .rc, 0, false⟩]⟩  /- PKG_XW_DENY -/,
  ⟨0x140, 64, 1, 0x0, [⟨fPKG_PERM_DENY_COUNT, .rc, 0, false⟩]⟩  /- PKG_PERM_DENY -/,
  ⟨0x148, 32, 1, 0x0, [⟨fPKG_LOCK_CAPTURED, .ro, 0, false⟩,
      ⟨fPKG_LOCK_TEST_LOCKED, .ro, 1, false⟩,
      ⟨fPKG_LOCK_DBG_LOCKED, .ro, 1, false⟩]⟩  /- PKG_LOCK -/]

def regsPkg2 : List RegD := [
  ⟨0x150, 64, 1, 0x0, [⟨fPKG_OVL_IGNORED, .ro, 0, false⟩,
      ⟨fPKG_OVL_APPLIED, .ro, 0, false⟩]⟩  /- PKG_OVL -/,
  ⟨0x180, 32, 5, 0x8, [⟨fPKG_PERM_MASK, .ro, 0, true⟩]⟩  /- PKG_PERM -/,
  ⟨0x400, 32, 1, 0x0, [⟨fJNL_CTRL_LOG2N, .ro, 0, false⟩,
      ⟨fJNL_CTRL_SPILL, .ro, 0, false⟩]⟩  /- JNL_CTRL -/,
  ⟨0x408, 64, 1, 0x0, [⟨fJNL_HEAD_SEQ, .ro, 0, true⟩]⟩  /- JNL_HEAD -/,
  ⟨0x410, 32, 1, 0x0, [⟨fJNL_INFO_PENDING, .ro, 0, false⟩]⟩  /- JNL_INFO -/,
  ⟨0x418, 64, 1, 0x0, [⟨fJNL_SPILL_BASE_ADDR, .ro, 0, false⟩]⟩  /- JNL_SPILL_BASE -/,
  ⟨0x420, 64, 1, 0x0, [⟨fJNL_SPILL_ERR_COUNT, .rc, 0, false⟩]⟩  /- JNL_SPILL_ERR -/]

/-- The registers of the PKG block. -/
def regsPkg : List RegD := regsPkg0 ++ regsPkg1 ++ regsPkg2

def regsTime0 : List RegD := [
  ⟨0x0, 32, 1, 0x0, [⟨fTIME_CTRL_ALIGN, .xw, 0, false⟩,
      ⟨fTIME_CTRL_GATE_OVR, .xw, 0, false⟩]⟩  /- TIME_CTRL -/,
  ⟨0x8, 64, 1, 0x0, [⟨fTIME_STATUS_ROOT, .ro, 0, false⟩,
      ⟨fTIME_STATUS_PEND, .ro, 0, false⟩,
      ⟨fTIME_STATUS_PLAN, .ro, 0, false⟩,
      ⟨fTIME_STATUS_GLIDE, .ro, 0, false⟩,
      ⟨fTIME_STATUS_ALIGNED, .ro, 0, false⟩,
      ⟨fTIME_STATUS_GATE, .ro, 1, false⟩,
      ⟨fTIME_STATUS_HOLDOVER, .ro, 0, false⟩,
      ⟨fTIME_STATUS_ACQ, .ro, 0, false⟩]⟩  /- TIME_STATUS -/,
  ⟨0x10, 64, 1, 0x0, [⟨fTIME_BEAT_BEAT, .ro, 0, true⟩]⟩  /- TIME_BEAT -/,
  ⟨0x18, 32, 1, 0x0, [⟨fTIME_BEAT_HIL_HI, .ro, 0, false⟩]⟩  /- TIME_BEAT_HIL -/,
  ⟨0x20, 64, 1, 0x0, [⟨fTIME_TICK_TICK, .ro, 0, false⟩]⟩  /- TIME_TICK -/,
  ⟨0x28, 64, 1, 0x0, [⟨fTIME_TICK_START_BEAT, .ro, 0, false⟩]⟩  /- TIME_TICK_START -/,
  ⟨0x30, 64, 1, 0x0, [⟨fTIME_SEG_TICK_TICK, .ro, 0, false⟩]⟩  /- TIME_SEG_TICK -/,
  ⟨0x38, 64, 1, 0x0, [⟨fTIME_SEG_BEAT_BEAT, .ro, 0, false⟩]⟩  /- TIME_SEG_BEAT -/]

def regsTime1 : List RegD := [
  ⟨0x40, 64, 1, 0x0, [⟨fTIME_SEG_LEN_PLANNED, .ro, 0, false⟩,
      ⟨fTIME_SEG_LEN_SEQ, .ro, 0, false⟩,
      ⟨fTIME_SEG_LEN_SEQV, .ro, 0, false⟩,
      ⟨fTIME_SEG_LEN_LEN, .ro, 0, false⟩]⟩  /- TIME_SEG_LEN -/,
  ⟨0x48, 64, 1, 0x0, [⟨fTIME_PEND_TICK_VALID, .ro, 0, false⟩,
      ⟨fTIME_PEND_TICK_TICK, .ro, 0, false⟩]⟩  /- TIME_PEND_TICK -/,
  ⟨0x50, 64, 1, 0x0, [⟨fTIME_PEND_BEAT_BEAT, .ro, 0, false⟩]⟩  /- TIME_PEND_BEAT -/,
  ⟨0x58, 32, 1, 0x0, [⟨fTIME_PEND_LEN_SEQ, .ro, 0, false⟩,
      ⟨fTIME_PEND_LEN_LEN, .ro, 0, false⟩]⟩  /- TIME_PEND_LEN -/,
  ⟨0x60, 64, 1, 0x0, [⟨fTIME_SERVO_THETA, .ro, 0, false⟩,
      ⟨fTIME_SERVO_RATE, .ro, 0, true⟩]⟩  /- TIME_SERVO -/,
  ⟨0x68, 32, 1, 0x0, [⟨fTIME_SERVO_CFG_ACQ_THR, .xw, 20, false⟩,
      ⟨fTIME_SERVO_CFG_HOLD_MAX, .xw, 250, false⟩,
      ⟨fTIME_SERVO_CFG_DELAY_MAX, .xw, 10000, false⟩]⟩  /- TIME_SERVO_CFG -/,
  ⟨0x70, 32, 1, 0x0, [⟨fTIME_PARENT_VALID, .ro, 0, false⟩,
      ⟨fTIME_PARENT_PORT, .ro, 0, false⟩,
      ⟨fTIME_PARENT_NODE, .ro, 0, false⟩]⟩  /- TIME_PARENT -/,
  ⟨0x78, 32, 1, 0x0, [⟨fTIME_ASYM_ASYM, .xw, 0, false⟩]⟩  /- TIME_ASYM -/]

def regsTime2 : List RegD := [
  ⟨0x80, 32, 1, 0x0, [⟨fTIME_EVENTS_STUCK, .w1c, 0, false⟩,
      ⟨fTIME_EVENTS_FCAP_LIMIT, .w1c, 0, false⟩,
      ⟨fTIME_EVENTS_LATE_CHANGE, .w1c, 0, false⟩,
      ⟨fTIME_EVENTS_SLIP, .w1c, 0, false⟩,
      ⟨fTIME_EVENTS_BEAT_LOST, .w1c, 0, false⟩,
      ⟨fTIME_EVENTS_HOLDOVER, .w1c, 0, false⟩,
      ⟨fTIME_EVENTS_ACQUIRED, .w1c, 0, false⟩]⟩  /- TIME_EVENTS -/,
  ⟨0x88, 64, 1, 0x0, [⟨fTIME_SLIPS_COUNT, .rc, 0, false⟩]⟩  /- TIME_SLIPS -/,
  ⟨0x90, 64, 1, 0x0, [⟨fTIME_SLIP_LAST_CORE, .rc, 0, false⟩,
      ⟨fTIME_SLIP_LAST_TICK, .rc, 0, false⟩]⟩  /- TIME_SLIP_LAST -/,
  ⟨0x98, 64, 1, 0x0, [⟨fTIME_LATE_COUNT, .rc, 0, false⟩]⟩  /- TIME_LATE -/,
  ⟨0xA0, 32, 1, 0x0, [⟨fTIME_FREQ_FCAP, .ro, 104, false⟩,
      ⟨fTIME_FREQ_TARGET, .ro, 80, false⟩,
      ⟨fTIME_FREQ_CODE, .ro, 80, true⟩]⟩  /- TIME_FREQ -/,
  ⟨0xA8, 32, 1, 0x0, [⟨fTIME_XMODE_SYNC, .ro, 0, false⟩]⟩  /- TIME_XMODE -/,
  ⟨0xB0, 64, 1, 0x0, [⟨fTIME_DISCARD_COUNT, .rc, 0, false⟩]⟩  /- TIME_DISCARD -/,
  ⟨0x100, 32, 12, 0x40, [⟨fTIME_ZSTAT_EPISODE, .ro, 0, false⟩,
      ⟨fTIME_ZSTAT_LAG, .ro, 0, false⟩]⟩  /- TIME_ZSTAT -/]

def regsTime3 : List RegD := [
  ⟨0x108, 64, 12, 0x40, [⟨fTIME_ZCYC_CYCLES, .ro, 0, false⟩]⟩  /- TIME_ZCYC -/,
  ⟨0x110, 64, 12, 0x40, [⟨fTIME_ZCYC_TICK_CYCLES, .ro, 0, false⟩]⟩  /- TIME_ZCYC_TICK -/,
  ⟨0x118, 64, 12, 0x40, [⟨fTIME_ZSTR_S50, .rc, 0, false⟩,
      ⟨fTIME_ZSTR_S25, .rc, 0, false⟩]⟩  /- TIME_ZSTR -/,
  ⟨0x120, 64, 12, 0x40, [⟨fTIME_ZLOST_CYCLES, .rc, 0, false⟩]⟩  /- TIME_ZLOST -/,
  ⟨0x128, 32, 12, 0x40, [⟨fTIME_ZSLIPS_COUNT, .rc, 0, false⟩]⟩  /- TIME_ZSLIPS -/,
  ⟨0x130, 64, 12, 0x40, [⟨fTIME_ZBEAT_BEAT, .ro, 0, false⟩]⟩  /- TIME_ZBEAT -/,
  ⟨0x400, 32, 288, 0x4, [⟨fTIME_CORE_RATIO, .ro, 0, false⟩,
      ⟨fTIME_CORE_EN, .ro, 0, false⟩,
      ⟨fTIME_CORE_VCODE, .ro, 20, false⟩]⟩  /- TIME_CORE -/,
  ⟨0x900, 32, 16, 0x8, [⟨fTIME_XING_EPISODES, .rc, 0, false⟩,
      ⟨fTIME_XING_STUCK, .ro, 0, false⟩,
      ⟨fTIME_XING_SKEW, .ro, 0, false⟩,
      ⟨fTIME_XING_SYNC, .ro, 0, false⟩]⟩  /- TIME_XING -/]

/-- The registers of the TIME block. -/
def regsTime : List RegD := regsTime0 ++ regsTime1 ++ regsTime2 ++ regsTime3

def regsPwr0 : List RegD := [
  ⟨0x0, 32, 1, 0x0, [⟨fPWR_CTRL_CSTOP_LATCH, .xw, 0, true⟩,
      ⟨fPWR_CTRL_ABRUPT_LATCH, .xw, 0, true⟩,
      ⟨fPWR_CTRL_HINT_EN, .xw, 1, false⟩,
      ⟨fPWR_CTRL_BOOST_EN, .xw, 1, true⟩,
      ⟨fPWR_CTRL_ADAPT, .xw, 1, false⟩,
      ⟨fPWR_CTRL_FORCE_MIN, .xw, 0, true⟩]⟩  /- PWR_CTRL -/,
  ⟨0x8, 64, 1, 0x0, [⟨fPWR_STATUS_DUTY, .ro, 16, false⟩,
      ⟨fPWR_STATUS_START_MARGIN, .ro, 1, false⟩,
      ⟨fPWR_STATUS_BOOST, .ro, 0, false⟩,
      ⟨fPWR_STATUS_ASSUMED, .ro, 1, false⟩,
      ⟨fPWR_STATUS_STATE, .ro, 0, false⟩,
      ⟨fPWR_STATUS_MINCAUSE, .ro, 0, false⟩]⟩  /- PWR_STATUS -/,
  ⟨0x10, 32, 1, 0x0, [⟨fPWR_EVENTS_ETAG_OVF, .w1c, 0, false⟩,
      ⟨fPWR_EVENTS_TRAY_BAD, .w1c, 0, false⟩,
      ⟨fPWR_EVENTS_HINT_LATE, .w1c, 0, false⟩,
      ⟨fPWR_EVENTS_WARN, .w1c, 0, false⟩,
      ⟨fPWR_EVENTS_RESUME, .w1c, 0, false⟩,
      ⟨fPWR_EVENTS_CSTOP, .w1c, 0, false⟩,
      ⟨fPWR_EVENTS_MINPWR_EXIT, .w1c, 0, false⟩,
      ⟨fPWR_EVENTS_MINPWR_ENTER, .w1c, 0, false⟩,
      ⟨fPWR_EVENTS_BUDGET_CLAMP, .w1c, 0, false⟩,
      ⟨fPWR_EVENTS_BUDGET_CHANGE, .w1c, 0, false⟩]⟩  /- PWR_EVENTS -/,
  ⟨0x18, 32, 1, 0x0, [⟨fPWR_WARN_WARN, .ro, 0, false⟩]⟩  /- PWR_WARN -/,
  ⟨0x20, 32, 1, 0x0, [⟨fPWR_BUDGET_WATTS, .xw, 1600, true⟩]⟩  /- PWR_BUDGET -/,
  ⟨0x28, 32, 1, 0x0, [⟨fPWR_BSTEP_LEVEL, .ro, 1600, false⟩,
      ⟨fPWR_BSTEP_CODE, .ro, 7, false⟩]⟩  /- PWR_BSTEP -/,
  ⟨0x30, 64, 1, 0x0, [⟨fPWR_BSTEP_LVL_LO_LVL3_0, .xw, 0, true⟩]⟩  /- PWR_BSTEP_LVL_LO -/,
  ⟨0x38, 64, 1, 0x0, [⟨fPWR_BSTEP_LVL_HI_LVL7_4, .xw, 0, true⟩]⟩  /- PWR_BSTEP_LVL_HI -/]

def regsPwr1 : List RegD := [
  ⟨0x40, 64, 1, 0x0, [⟨fPWR_LIMITS_EFF, .ro, 1600, false⟩,
      ⟨fPWR_LIMITS_COOL, .ro, 1066, false⟩,
      ⟨fPWR_LIMITS_THERM, .ro, 1600, false⟩,
      ⟨fPWR_LIMITS_CEILCODE, .ro, 80, false⟩]⟩  /- PWR_LIMITS -/,
  ⟨0x48, 64, 1, 0x0, [⟨fPWR_POWER_P1US, .ro, 0, false⟩,
      ⟨fPWR_POWER_P1MS, .ro, 0, false⟩,
      ⟨fPWR_POWER_PEAK, .rc, 0, false⟩]⟩  /- PWR_POWER -/,
  ⟨0x50, 64, 1, 0x0, [⟨fPWR_OVER_COUNT, .rc, 0, false⟩,
      ⟨fPWR_OVER_LONGEST, .rc, 0, false⟩]⟩  /- PWR_OVER -/,
  ⟨0x58, 64, 1, 0x0, [⟨fPWR_TJ_TJ, .ro, 0, false⟩,
      ⟨fPWR_TJ_HS, .ro, 0, false⟩,
      ⟨fPWR_TJ_STACKT, .ro, 0, false⟩,
      ⟨fPWR_TJ_SITE, .ro, 0, false⟩]⟩  /- PWR_TJ -/,
  ⟨0x60, 64, 1, 0x0, [⟨fPWR_COOL_INLET, .ro, 720, false⟩,
      ⟨fPWR_COOL_OUTLET, .ro, 720, false⟩,
      ⟨fPWR_COOL_FLOW, .ro, 120, false⟩,
      ⟨fPWR_COOL_SEQ, .ro, 0, false⟩]⟩  /- PWR_COOL -/,
  ⟨0x68, 64, 1, 0x0, [⟨fPWR_COOL_STAT_AGE, .ro, 65535, false⟩,
      ⟨fPWR_COOL_STAT_ACCEPTED, .rc, 0, false⟩,
      ⟨fPWR_COOL_STAT_REJECTED, .rc, 0, false⟩]⟩  /- PWR_COOL_STAT -/,
  ⟨0x70, 32, 1, 0x0, [⟨fPWR_MARGIN_CFG_MSTART, .xw, 20, true⟩,
      ⟨fPWR_MARGIN_CFG_MMIN, .xw, 8, true⟩,
      ⟨fPWR_MARGIN_CFG_MMAX, .xw, 32, true⟩]⟩  /- PWR_MARGIN_CFG -/,
  ⟨0x78, 32, 1, 0x0, [⟨fPWR_DROOP_CFG_DTHR1, .xw, 30, true⟩,
      ⟨fPWR_DROOP_CFG_DTHR2, .xw, 50, true⟩,
      ⟨fPWR_DROOP_CFG_STR_LO, .xw, 10, true⟩,
      ⟨fPWR_DROOP_CFG_STR_HI, .xw, 200, true⟩]⟩  /- PWR_DROOP_CFG -/]

def regsPwr2 : List RegD := [
  ⟨0x80, 64, 1, 0x0, [⟨fPWR_ENERGY_MJ, .ro, 0, true⟩]⟩  /- PWR_ENERGY -/,
  ⟨0x88, 64, 1, 0x0, [⟨fPWR_COUNTS_MINPWR, .rc, 0, false⟩,
      ⟨fPWR_COUNTS_CSTOPS, .rc, 0, false⟩,
      ⟨fPWR_COUNTS_TRIPS, .rc, 0, false⟩,
      ⟨fPWR_COUNTS_ABRUPTS, .rc, 0, false⟩]⟩  /- PWR_COUNTS -/,
  ⟨0x90, 64, 1, 0x0, [⟨fPWR_WEAR_INDEX, .ro, 0, false⟩,
      ⟨fPWR_WEAR_WARN, .xw, 0, true⟩]⟩  /- PWR_WEAR -/,
  ⟨0x100, 32, 16, 0x8, [⟨fPWR_HCLS_POWER, .xw, 0, true⟩,
      ⟨fPWR_HCLS_ADD, .xw, 0, true⟩]⟩  /- PWR_HCLS -/,
  ⟨0x200, 64, 12, 0x20, [⟨fPWR_ZPOWER_P1MS, .ro, 0, false⟩,
      ⟨fPWR_ZPOWER_P1US, .ro, 0, false⟩]⟩  /- PWR_ZPOWER -/,
  ⟨0x208, 32, 12, 0x20, [⟨fPWR_ZMARGIN_BASE, .ro, 20, false⟩,
      ⟨fPWR_ZMARGIN_ADD, .ro, 0, false⟩]⟩  /- PWR_ZMARGIN -/,
  ⟨0x20C, 32, 12, 0x20, [⟨fPWR_ZHINT_HELD, .ro, 0, false⟩,
      ⟨fPWR_ZHINT_ANNOUNCED, .ro, 0, false⟩]⟩  /- PWR_ZHINT -/,
  ⟨0x210, 64, 12, 0x20, [⟨fPWR_ZDROOP_MAXDROOP, .rc, 0, false⟩,
      ⟨fPWR_ZDROOP_LASTTICK, .ro, 0, false⟩]⟩  /- PWR_ZDROOP -/]

def regsPwr3 : List RegD := [
  ⟨0x218, 64, 12, 0x20, [⟨fPWR_ZENERGY_MJ, .ro, 0, true⟩]⟩  /- PWR_ZENERGY -/,
  ⟨0x400, 64, 48, 0x8, [⟨fPWR_HS_VAL, .ro, 0, false⟩,
      ⟨fPWR_HS_SB, .ro, 0, false⟩,
      ⟨fPWR_HS_SA, .ro, 0, false⟩,
      ⟨fPWR_HS_ABSENT, .ro, 0, false⟩,
      ⟨fPWR_HS_PAIRFAIL, .ro, 0, false⟩,
      ⟨fPWR_HS_FAILB, .ro, 0, false⟩,
      ⟨fPWR_HS_FAILA, .ro, 0, false⟩,
      ⟨fPWR_HS_DISAGREE, .ro, 0, false⟩]⟩  /- PWR_HS -/,
  ⟨0x800, 32, 288, 0x4, [⟨fPWR_CTAG_TAG, .xw, 0, false⟩]⟩  /- PWR_CTAG -/,
  ⟨0xC80, 32, 1, 0x0, [⟨fPWR_UDTAG_UD1, .xw, 0, false⟩,
      ⟨fPWR_UDTAG_UD0, .xw, 0, false⟩]⟩  /- PWR_UDTAG -/,
  ⟨0x1000, 32, 64, 0x10, [⟨fPWR_ETAG_ID_VALID, .ro, 0, true⟩,
      ⟨fPWR_ETAG_ID_TAG, .ro, 0, true⟩]⟩  /- PWR_ETAG_ID -/,
  ⟨0x1008, 64, 64, 0x10, [⟨fPWR_ETAG_MJ_MJ, .ro, 0, true⟩]⟩  /- PWR_ETAG_MJ -/,
  ⟨0x1400, 32, 12, 0x4, [⟨fPWR_CYC_COUNT, .ro, 0, true⟩]⟩  /- PWR_CYC -/]

/-- The registers of the PWR block. -/
def regsPwr : List RegD := regsPwr0 ++ regsPwr1 ++ regsPwr2 ++ regsPwr3

def regsMem0 : List RegD := [
  ⟨0x0, 32, 1, 0x0, [⟨fMEM_CTRL_CEN, .xw, 1, true⟩]⟩  /- MEM_CTRL -/,
  ⟨0x8, 64, 1, 0x0, [⟨fMEM_STATUS_NLIVE, .ro, 0, true⟩,
      ⟨fMEM_STATUS_CONTENTS_LOST, .ro, 0, false⟩,
      ⟨fMEM_STATUS_COMPACTING, .ro, 0, false⟩,
      ⟨fMEM_STATUS_SREF, .ro, 0, false⟩,
      ⟨fMEM_STATUS_STATE, .ro, 0, false⟩]⟩  /- MEM_STATUS -/,
  ⟨0x10, 32, 1, 0x0, [⟨fMEM_EVENTS_TEMP_HIGH, .w1c, 0, false⟩,
      ⟨fMEM_EVENTS_SCRUB_PASS, .w1c, 0, false⟩,
      ⟨fMEM_EVENTS_CACHE_ERR, .w1c, 0, false⟩,
      ⟨fMEM_EVENTS_CONTENTS_LOST, .w1c, 0, false⟩,
      ⟨fMEM_EVENTS_UNMAPPED, .w1c, 0, false⟩,
      ⟨fMEM_EVENTS_LANE_REPAIR, .w1c, 0, false⟩,
      ⟨fMEM_EVENTS_COMPACT_DONE, .w1c, 0, false⟩,
      ⟨fMEM_EVENTS_MAPOUT, .w1c, 0, false⟩,
      ⟨fMEM_EVENTS_FENCE, .w1c, 0, false⟩,
      ⟨fMEM_EVENTS_POISON, .w1c, 0, false⟩,
      ⟨fMEM_EVENTS_UE, .w1c, 0, false⟩,
      ⟨fMEM_EVENTS_CE, .w1c, 0, false⟩]⟩  /- MEM_EVENTS -/,
  ⟨0x18, 64, 1, 0x0, [⟨fMEM_RANGE_BYTES, .ro, 0, true⟩]⟩  /- MEM_RANGE -/,
  ⟨0x20, 32, 1, 0x0, [⟨fMEM_CH_LIVE_MAP, .ro, 0, false⟩]⟩  /- MEM_CH_LIVE -/,
  ⟨0x28, 32, 1, 0x0, [⟨fMEM_CH_FENCED_MAP, .ro, 0, true⟩]⟩  /- MEM_CH_FENCED -/,
  ⟨0x30, 32, 1, 0x0, [⟨fMEM_CH_OUT_MAP, .ro, 0, true⟩]⟩  /- MEM_CH_OUT -/,
  ⟨0x38, 32, 1, 0x0, [⟨fMEM_THRESH_CE_THR, .xw, 65535, true⟩,
      ⟨fMEM_THRESH_UE_THR, .xw, 4, true⟩]⟩  /- MEM_THRESH -/]

def regsMem1 : List RegD := [
  ⟨0x40, 64, 1, 0x0, [⟨fMEM_CE_COUNT, .rc, 0, false⟩]⟩  /- MEM_CE -/,
  ⟨0x48, 64, 1, 0x0, [⟨fMEM_UE_COUNT, .rc, 0, false⟩]⟩  /- MEM_UE -/,
  ⟨0x50, 64, 1, 0x0, [⟨fMEM_ERR_LAST_KIND, .rc, 0, false⟩,
      ⟨fMEM_ERR_LAST_CH, .rc, 0, false⟩,
      ⟨fMEM_ERR_LAST_PC, .rc, 0, false⟩,
      ⟨fMEM_ERR_LAST_SYMBOL, .rc, 0, false⟩]⟩  /- MEM_ERR_LAST -/,
  ⟨0x58, 64, 1, 0x0, [⟨fMEM_ERR_ADDR_OFFSET, .rc, 0, false⟩]⟩  /- MEM_ERR_ADDR -/,
  ⟨0x60, 64, 1, 0x0, [⟨fMEM_DIE_CE_COUNT, .rc, 0, false⟩]⟩  /- MEM_DIE_CE -/,
  ⟨0x68, 64, 1, 0x0, [⟨fMEM_UNMAP_COUNT, .rc, 0, false⟩]⟩  /- MEM_UNMAP -/,
  ⟨0x70, 32, 1, 0x0, [⟨fMEM_TEMP_MAXT, .rc, 0, false⟩,
      ⟨fMEM_TEMP_TEMP, .ro, 0, false⟩]⟩  /- MEM_TEMP -/,
  ⟨0x78, 32, 1, 0x0, [⟨fMEM_SCRUB_PERIOD, .xw, 24, true⟩]⟩  /- MEM_SCRUB -/]

def regsMem2 : List RegD := [
  ⟨0x80, 32, 1, 0x0, [⟨fMEM_CACHE_CFG_PROTW, .xw, 12, true⟩]⟩  /- MEM_CACHE_CFG -/,
  ⟨0x88, 64, 1, 0x0, [⟨fMEM_C_HIT_COUNT, .rc, 0, false⟩]⟩  /- MEM_C_HIT -/,
  ⟨0x90, 64, 1, 0x0, [⟨fMEM_C_MISS_COUNT, .rc, 0, false⟩]⟩  /- MEM_C_MISS -/,
  ⟨0x98, 64, 1, 0x0, [⟨fMEM_C_FILL_COUNT, .rc, 0, false⟩]⟩  /- MEM_C_FILL -/,
  ⟨0xA0, 64, 1, 0x0, [⟨fMEM_C_PROBE_COUNT, .rc, 0, false⟩]⟩  /- MEM_C_PROBE -/,
  ⟨0xA8, 64, 1, 0x0, [⟨fMEM_C_DEMOTE_COUNT, .rc, 0, false⟩]⟩  /- MEM_C_DEMOTE -/,
  ⟨0xB0, 64, 1, 0x0, [⟨fMEM_C_ERR_COUNT, .rc, 0, false⟩]⟩  /- MEM_C_ERR -/,
  ⟨0xB8, 64, 1, 0x0, [⟨fMEM_POISON_COUNT, .rc, 0, false⟩]⟩  /- MEM_POISON -/]

def regsMem3 : List RegD := [
  ⟨0x100, 64, 32, 0x8, [⟨fMEM_CH_STATE, .ro, 0, true⟩,
      ⟨fMEM_CH_REASON, .ro, 0, true⟩,
      ⟨fMEM_CH_PC1_REP, .ro, 0, false⟩,
      ⟨fMEM_CH_PC0_REP, .ro, 0, false⟩,
      ⟨fMEM_CH_UE, .rc, 0, false⟩,
      ⟨fMEM_CH_CE, .rc, 0, false⟩]⟩  /- MEM_CH -/]

/-- The registers of the MEM block. -/
def regsMem : List RegD := regsMem0 ++ regsMem1 ++ regsMem2 ++ regsMem3

def regsPt0 : List RegD := [
  ⟨0x0, 64, 1, 0x0, [⟨fPT_STATUS_RATE, .ro, 0, true⟩,
      ⟨fPT_STATUS_NLIVE, .ro, 0, true⟩,
      ⟨fPT_STATUS_CONTENTS_LOST, .ro, 0, false⟩,
      ⟨fPT_STATUS_COMPACTING, .ro, 0, false⟩,
      ⟨fPT_STATUS_SREF, .ro, 0, false⟩,
      ⟨fPT_STATUS_STATE, .ro, 0, false⟩]⟩  /- PT_STATUS -/,
  ⟨0x8, 32, 1, 0x0, [⟨fPT_EVENTS_MISMATCH, .w1c, 0, false⟩,
      ⟨fPT_EVENTS_TEMP_HIGH, .w1c, 0, false⟩,
      ⟨fPT_EVENTS_SCRUB_PASS, .w1c, 0, false⟩,
      ⟨fPT_EVENTS_REFUSED, .w1c, 0, false⟩,
      ⟨fPT_EVENTS_CONTENTS_LOST, .w1c, 0, false⟩,
      ⟨fPT_EVENTS_UNMAPPED, .w1c, 0, false⟩,
      ⟨fPT_EVENTS_COMPACT_DONE, .w1c, 0, false⟩,
      ⟨fPT_EVENTS_MAPOUT, .w1c, 0, false⟩,
      ⟨fPT_EVENTS_FENCE, .w1c, 0, false⟩,
      ⟨fPT_EVENTS_POISON, .w1c, 0, false⟩,
      ⟨fPT_EVENTS_UE, .w1c, 0, false⟩,
      ⟨fPT_EVENTS_CE, .w1c, 0, false⟩]⟩  /- PT_EVENTS -/,
  ⟨0x10, 64, 1, 0x0, [⟨fPT_RANGE_BYTES, .ro, 0, true⟩]⟩  /- PT_RANGE -/,
  ⟨0x18, 32, 1, 0x0, [⟨fPT_THRESH_CE_THR, .xw, 65535, true⟩,
      ⟨fPT_THRESH_UE_THR, .xw, 4, true⟩]⟩  /- PT_THRESH -/,
  ⟨0x20, 64, 1, 0x0, [⟨fPT_CE_COUNT, .rc, 0, false⟩]⟩  /- PT_CE -/,
  ⟨0x28, 64, 1, 0x0, [⟨fPT_UE_COUNT, .rc, 0, false⟩]⟩  /- PT_UE -/,
  ⟨0x30, 64, 1, 0x0, [⟨fPT_ERR_LAST_KIND, .rc, 0, false⟩,
      ⟨fPT_ERR_LAST_CH, .rc, 0, false⟩,
      ⟨fPT_ERR_LAST_SUB, .rc, 0, false⟩,
      ⟨fPT_ERR_LAST_DEV, .rc, 0, false⟩]⟩  /- PT_ERR_LAST -/,
  ⟨0x38, 64, 1, 0x0, [⟨fPT_ERR_ADDR_ADDR, .rc, 0, false⟩]⟩  /- PT_ERR_ADDR -/]

def regsPt1 : List RegD := [
  ⟨0x40, 64, 1, 0x0, [⟨fPT_UNMAP_COUNT, .rc, 0, false⟩]⟩  /- PT_UNMAP -/,
  ⟨0x48, 32, 1, 0x0, [⟨fPT_SCRUB_PERIOD, .xw, 24, true⟩]⟩  /- PT_SCRUB -/,
  ⟨0x50, 64, 1, 0x0, [⟨fPT_POISON_COUNT, .rc, 0, false⟩]⟩  /- PT_POISON -/,
  ⟨0x100, 64, 4, 0x10, [⟨fPT_CH_INFO_STATE, .ro, 0, true⟩,
      ⟨fPT_CH_INFO_REASON, .ro, 0, true⟩,
      ⟨fPT_CH_INFO_CAP, .ro, 0, false⟩,
      ⟨fPT_CH_INFO_TYPE, .ro, 0, false⟩,
      ⟨fPT_CH_INFO_RANKS, .ro, 0, false⟩,
      ⟨fPT_CH_INFO_WIDTH, .ro, 0, false⟩,
      ⟨fPT_CH_INFO_MAXRATE, .ro, 0, false⟩,
      ⟨fPT_CH_INFO_TEMP, .ro, 0, false⟩]⟩  /- PT_CH_INFO -/,
  ⟨0x108, 64, 4, 0x10, [⟨fPT_CH_ERR_UE, .rc, 0, false⟩,
      ⟨fPT_CH_ERR_CE, .rc, 0, false⟩]⟩  /- PT_CH_ERR -/]

/-- The registers of the PT block. -/
def regsPt : List RegD := regsPt0 ++ regsPt1

def regsUd0 : List RegD := [
  ⟨0x0, 32, 1, 0x0, [⟨fUD_CTRL_AUTO, .xw, 1, true⟩,
      ⟨fUD_CTRL_PAUSE, .xw, 0, false⟩,
      ⟨fUD_CTRL_EN, .xw, 1, false⟩]⟩  /- UD_CTRL -/,
  ⟨0x8, 64, 1, 0x0, [⟨fUD_STATUS_HELD, .ro, 0, false⟩,
      ⟨fUD_STATUS_ENTRY, .ro, 0, false⟩,
      ⟨fUD_STATUS_INFLIGHT, .ro, 0, false⟩,
      ⟨fUD_STATUS_TROUBLE_STEP, .ro, 0, false⟩,
      ⟨fUD_STATUS_HOLDING, .ro, 0, false⟩,
      ⟨fUD_STATUS_WALKING, .ro, 0, false⟩,
      ⟨fUD_STATUS_LINK_UP, .ro, 0, false⟩]⟩  /- UD_STATUS -/,
  ⟨0x10, 32, 1, 0x0, [⟨fUD_EVENTS_CKPT_DONE, .w1c, 0, false⟩,
      ⟨fUD_EVENTS_PARTNER_RESET, .w1c, 0, false⟩,
      ⟨fUD_EVENTS_PEAT_ECC, .w1c, 0, false⟩,
      ⟨fUD_EVENTS_COPY_FAIL, .w1c, 0, false⟩,
      ⟨fUD_EVENTS_FAULT, .w1c, 0, false⟩,
      ⟨fUD_EVENTS_MARK_OVF, .w1c, 0, false⟩,
      ⟨fUD_EVENTS_TORN, .w1c, 0, false⟩,
      ⟨fUD_EVENTS_HELD, .w1c, 0, false⟩,
      ⟨fUD_EVENTS_TROUBLE, .w1c, 0, false⟩,
      ⟨fUD_EVENTS_SKIP, .w1c, 0, false⟩,
      ⟨fUD_EVENTS_STEP_DONE, .w1c, 0, false⟩]⟩  /- UD_EVENTS -/,
  ⟨0x18, 64, 1, 0x0, [⟨fUD_FAULT_CODE, .rc, 0, false⟩,
      ⟨fUD_FAULT_ENTRY, .rc, 0, false⟩,
      ⟨fUD_FAULT_STEP, .rc, 0, false⟩]⟩  /- UD_FAULT -/,
  ⟨0x20, 64, 1, 0x0, [⟨fUD_STEP_STEP, .ro, 0, true⟩]⟩  /- UD_STEP -/,
  ⟨0x28, 64, 1, 0x0, [⟨fUD_SSEED_SEED, .xw, 0, true⟩]⟩  /- UD_SSEED -/,
  ⟨0x30, 64, 1, 0x0, [⟨fUD_RECBASE_NREC, .xw, 0, true⟩,
      ⟨fUD_RECBASE_BASE, .xw, 0, true⟩]⟩  /- UD_RECBASE -/,
  ⟨0x38, 64, 1, 0x0, [⟨fUD_COPYBASE_NCOPY, .xw, 0, true⟩,
      ⟨fUD_COPYBASE_BASE, .xw, 0, true⟩]⟩  /- UD_COPYBASE -/]

def regsUd1 : List RegD := [
  ⟨0x40, 64, 1, 0x0, [⟨fUD_LISTBASE_LEN, .xw, 0, true⟩,
      ⟨fUD_LISTBASE_BASE, .xw, 0, true⟩]⟩  /- UD_LISTBASE -/,
  ⟨0x48, 32, 1, 0x0, [⟨fUD_EPOCH_EPOCH, .xw, 0, true⟩]⟩  /- UD_EPOCH -/,
  ⟨0x50, 32, 1, 0x0, [⟨fUD_ECFG_EMAX, .xw, 64, true⟩,
      ⟨fUD_ECFG_EHYST, .xw, 8, true⟩]⟩  /- UD_ECFG -/,
  ⟨0x58, 64, 1, 0x0, [⟨fUD_SKIPS_COUNT, .rc, 0, false⟩]⟩  /- UD_SKIPS -/,
  ⟨0x60, 64, 1, 0x0, [⟨fUD_SKIP_LAST_TAG, .rc, 0, false⟩,
      ⟨fUD_SKIP_LAST_ULX, .rc, 0, false⟩,
      ⟨fUD_SKIP_LAST_CLASS, .rc, 0, false⟩,
      ⟨fUD_SKIP_LAST_STEP, .rc, 0, false⟩]⟩  /- UD_SKIP_LAST -/,
  ⟨0x68, 64, 1, 0x0, [⟨fUD_UPDATES_COUNT, .rc, 0, false⟩]⟩  /- UD_UPDATES -/,
  ⟨0x70, 64, 1, 0x0, [⟨fUD_PARAMS_COUNT, .rc, 0, false⟩]⟩  /- UD_PARAMS -/,
  ⟨0x78, 64, 1, 0x0, [⟨fUD_MARKS_OVF, .ro, 0, false⟩,
      ⟨fUD_MARKS_COUNT, .ro, 0, false⟩]⟩  /- UD_MARKS -/]

def regsUd2 : List RegD := [
  ⟨0x80, 64, 1, 0x0, [⟨fUD_BUSY_CYC_COUNT, .rc, 0, false⟩]⟩  /- UD_BUSY_CYC -/,
  ⟨0x88, 64, 1, 0x0, [⟨fUD_PEAT_RD_BYTES, .rc, 0, false⟩]⟩  /- UD_PEAT_RD -/,
  ⟨0x90, 64, 1, 0x0, [⟨fUD_PEAT_WR_BYTES, .rc, 0, false⟩]⟩  /- UD_PEAT_WR -/,
  ⟨0x100, 32, 512, 0x4, [⟨fUD_PSET_VALUE, .xw, 0, true⟩]⟩  /- UD_PSET -/,
  ⟨0x900, 64, 4, 0x8, [⟨fUD_RULE_CFG_BAD, .ro, 0, true⟩,
      ⟨fUD_RULE_CFG_SREAD, .xw, 0, true⟩,
      ⟨fUD_RULE_CFG_ULEN, .xw, 0, true⟩,
      ⟨fUD_RULE_CFG_SLEN, .xw, 0, true⟩]⟩  /- UD_RULE_CFG -/,
  ⟨0x1000, 32, 1024, 0x4, [⟨fUD_UOP_UOP, .xw, 0, true⟩]⟩  /- UD_UOP -/,
  ⟨0x2000, 64, 1024, 0x8, [⟨fUD_LAYER_PIN, .xw, 0, true⟩,
      ⟨fUD_LAYER_E, .xw, 0, true⟩,
      ⟨fUD_LAYER_COUNT, .rc, 0, false⟩,
      ⟨fUD_LAYER_SUM, .rc, 0, false⟩]⟩  /- UD_LAYER -/,
  ⟨0x4000, 64, 64, 0x8, [⟨fUD_NACC_VALUE, .ro, 0, false⟩]⟩  /- UD_NACC -/]

def regsUd3 : List RegD := [
  ⟨0x4200, 64, 4, 0x8, [⟨fUD_NREG_VALUE, .ro, 0, false⟩]⟩  /- UD_NREG -/,
  ⟨0x4400, 64, 64, 0x8, [⟨fUD_MARK_VALID, .ro, 0, false⟩,
      ⟨fUD_MARK_STEP, .ro, 0, false⟩,
      ⟨fUD_MARK_TAG, .ro, 0, false⟩]⟩  /- UD_MARK -/]

/-- The registers of the UD block. -/
def regsUd : List RegD := regsUd0 ++ regsUd1 ++ regsUd2 ++ regsUd3

def regsFab0 : List RegD := [
  ⟨0x0, 32, 1, 0x0, [⟨fFAB_CTRL_AUTO, .xw, 1, true⟩,
      ⟨fFAB_CTRL_EN, .xw, 1, false⟩]⟩  /- FAB_CTRL -/,
  ⟨0x8, 64, 1, 0x0, [⟨fFAB_STATUS_ISOLATED, .ro, 0, false⟩,
      ⟨fFAB_STATUS_UP, .ro, 0, false⟩]⟩  /- FAB_STATUS -/,
  ⟨0x10, 32, 1, 0x0, [⟨fFAB_EVENTS_LOOP_DROP, .w1c, 0, false⟩,
      ⟨fFAB_EVENTS_DUPREC_OVF, .w1c, 0, false⟩,
      ⟨fFAB_EVENTS_GEN_CHANGE, .w1c, 0, false⟩,
      ⟨fFAB_EVENTS_DETACHED, .w1c, 0, false⟩,
      ⟨fFAB_EVENTS_WORKING, .w1c, 0, false⟩,
      ⟨fFAB_EVENTS_ENROLLED, .w1c, 0, false⟩,
      ⟨fFAB_EVENTS_ENROL_DENIED, .w1c, 0, false⟩,
      ⟨fFAB_EVENTS_REROUTE, .w1c, 0, false⟩,
      ⟨fFAB_EVENTS_LANE_SWITCH, .w1c, 0, false⟩,
      ⟨fFAB_EVENTS_PORT_ISOLATED, .w1c, 0, false⟩,
      ⟨fFAB_EVENTS_PORT_DOWN, .w1c, 0, false⟩]⟩  /- FAB_EVENTS -/,
  ⟨0x18, 64, 1, 0x0, [⟨fFAB_ID_ELIGIBLE, .ro, 1, false⟩,
      ⟨fFAB_ID_GEN, .ro, 0, false⟩,
      ⟨fFAB_ID_DOMAIN, .ro, 0, false⟩,
      ⟨fFAB_ID_NODE, .ro, 0, false⟩]⟩  /- FAB_ID -/,
  ⟨0x20, 64, 1, 0x0, [⟨fFAB_ENROL_STATE, .ro, 0, false⟩,
      ⟨fFAB_ENROL_DENY, .ro, 0, false⟩,
      ⟨fFAB_ENROL_DEPTH, .ro, 7, false⟩,
      ⟨fFAB_ENROL_RM_VALID, .ro, 0, false⟩,
      ⟨fFAB_ENROL_SB_VALID, .ro, 0, false⟩,
      ⟨fFAB_ENROL_RM, .ro, 0, false⟩,
      ⟨fFAB_ENROL_SB, .ro, 0, false⟩]⟩  /- FAB_ENROL -/,
  ⟨0x28, 64, 1, 0x0, [⟨fFAB_THRESH_SER_THR, .xw, 4000, true⟩,
      ⟨fFAB_THRESH_UNC_THR, .xw, 2, true⟩,
      ⟨fFAB_THRESH_RETRY_THR, .xw, 64, true⟩]⟩  /- FAB_THRESH -/,
  ⟨0x30, 64, 1, 0x0, [⟨fFAB_DROP_LOOP, .rc, 0, false⟩,
      ⟨fFAB_DROP_NOROUTE, .rc, 0, false⟩]⟩  /- FAB_DROP -/,
  ⟨0x38, 64, 1, 0x0, [⟨fFAB_DUP_SUPPRESSED, .rc, 0, false⟩,
      ⟨fFAB_DUP_STRAY, .rc, 0, false⟩]⟩  /- FAB_DUP -/]

def regsFab1 : List RegD := [
  ⟨0x40, 64, 1, 0x0, [⟨fFAB_GEN_DISC_COUNT, .rc, 0, false⟩]⟩  /- FAB_GEN_DISC -/,
  ⟨0x48, 64, 1, 0x0, [⟨fFAB_PERM_COUNT, .rc, 0, false⟩]⟩  /- FAB_PERM -/,
  ⟨0x100, 32, 4, 0x80, [⟨fFP_CTRL_EN, .xw, 1, false⟩]⟩  /- FP_CTRL -/,
  ⟨0x108, 64, 4, 0x80, [⟨fFP_STATUS_PNODE, .ro, 0, false⟩,
      ⟨fFP_STATUS_PPORT, .ro, 0, false⟩,
      ⟨fFP_STATUS_PGEN, .ro, 0, false⟩,
      ⟨fFP_STATUS_SPARE_USED, .ro, 0, false⟩,
      ⟨fFP_STATUS_PAIRED, .ro, 0, false⟩,
      ⟨fFP_STATUS_TRUSTED, .ro, 0, false⟩,
      ⟨fFP_STATUS_STATE, .ro, 0, false⟩]⟩  /- FP_STATUS -/,
  ⟨0x110, 32, 4, 0x80, [⟨fFP_LANEMAP_SLOTS, .ro, 0, false⟩]⟩  /- FP_LANEMAP -/,
  ⟨0x118, 64, 4, 0x80, [⟨fFP_RETRY_COUNT, .rc, 0, false⟩]⟩  /- FP_RETRY -/,
  ⟨0x120, 64, 4, 0x80, [⟨fFP_FEC_CORR_COUNT, .rc, 0, false⟩]⟩  /- FP_FEC_CORR -/,
  ⟨0x128, 64, 4, 0x80, [⟨fFP_FEC_UNC_COUNT, .rc, 0, false⟩]⟩  /- FP_FEC_UNC -/]

def regsFab2 : List RegD := [
  ⟨0x130, 64, 4, 0x80, [⟨fFP_TX_FLITS_COUNT, .rc, 0, false⟩]⟩  /- FP_TX_FLITS -/,
  ⟨0x138, 64, 4, 0x80, [⟨fFP_RX_FLITS_COUNT, .rc, 0, false⟩]⟩  /- FP_RX_FLITS -/,
  ⟨0x140, 32, 4, 0x80, [⟨fFP_DOWNS_COUNT, .rc, 0, false⟩]⟩  /- FP_DOWNS -/,
  ⟨0x148, 32, 4, 0x80, [⟨fFP_SKEW_SKEW, .ro, 0, false⟩]⟩  /- FP_SKEW -/,
  ⟨0x300, 64, 18, 0x10, [⟨fFL_STATUS_SER, .ro, 0, false⟩,
      ⟨fFL_STATUS_RETIRED, .ro, 0, false⟩,
      ⟨fFL_STATUS_LOCK, .ro, 0, false⟩,
      ⟨fFL_STATUS_SPARE, .ro, 0, false⟩,
      ⟨fFL_STATUS_IN_USE, .ro, 0, false⟩,
      ⟨fFL_STATUS_PORT, .ro, 0, false⟩]⟩  /- FL_STATUS -/,
  ⟨0x308, 64, 18, 0x10, [⟨fFL_ERR_COUNT, .rc, 0, false⟩]⟩  /- FL_ERR -/,
  ⟨0x10000, 32, 4096, 0x4, [⟨fFAB_ROUTE_VALID, .xw, 0, false⟩,
      ⟨fFAB_ROUTE_SETC, .xw, 0, false⟩,
      ⟨fFAB_ROUTE_UPHOP, .xw, 0, false⟩,
      ⟨fFAB_ROUTE_PORTB, .xw, 0, false⟩,
      ⟨fFAB_ROUTE_PORTA, .xw, 0, false⟩]⟩  /- FAB_ROUTE -/]

/-- The registers of the FAB block. -/
def regsFab : List RegD := regsFab0 ++ regsFab1 ++ regsFab2

def regsSync0 : List RegD := [
  ⟨0x0, 32, 16384, 0x10, [⟨fTS_COUNT_COUNT, .xw, 0, false⟩]⟩  /- TS_COUNT -/,
  ⟨0x4, 32, 16384, 0x10, [⟨fTS_TARGET_TARGET, .xw, 0, false⟩]⟩  /- TS_TARGET -/,
  ⟨0x8, 32, 16384, 0x10, [⟨fTS_STATE_MET, .ro, 1, false⟩,
      ⟨fTS_STATE_EPOCH, .ro, 0, false⟩]⟩  /- TS_STATE -/,
  ⟨0xC, 32, 16384, 0x10, [⟨fTS_INC_EPOCH, .wo, 0, false⟩,
      ⟨fTS_INC_AMOUNT, .wo, 0, false⟩]⟩  /- TS_INC -/,
  ⟨0x40000, 64, 1, 0x0, [⟨fTS_STALE_COUNT, .rc, 0, false⟩]⟩  /- TS_STALE -/,
  ⟨0x40008, 64, 1, 0x0, [⟨fTS_STALE_LAST_NODE, .rc, 0, false⟩,
      ⟨fTS_STALE_LAST_STAMP, .rc, 0, false⟩,
      ⟨fTS_STALE_LAST_CUR, .rc, 0, false⟩,
      ⟨fTS_STALE_LAST_TS, .rc, 0, false⟩]⟩  /- TS_STALE_LAST -/,
  ⟨0x40010, 64, 1, 0x0, [⟨fTS_RINC_COUNT, .rc, 0, false⟩]⟩  /- TS_RINC -/,
  ⟨0x40018, 64, 1, 0x0, [⟨fTS_REFUSED_COUNT, .rc, 0, false⟩]⟩  /- TS_REFUSED -/]

def regsSync1 : List RegD := [
  ⟨0x80000, 32, 1, 0x0, [⟨fDIR_CTRL_EN, .xw, 1, true⟩]⟩  /- DIR_CTRL -/,
  ⟨0x80008, 64, 1, 0x0, [⟨fDIR_STATUS_REBUILT, .ro, 0, false⟩,
      ⟨fDIR_STATUS_WALKS, .ro, 0, false⟩,
      ⟨fDIR_STATUS_STATE, .ro, 0, false⟩]⟩  /- DIR_STATUS -/,
  ⟨0x80010, 32, 1, 0x0, [⟨fDIR_EVENTS_LOST_PAIR, .w1c, 0, false⟩,
      ⟨fDIR_EVENTS_LATE_REPLY, .w1c, 0, false⟩,
      ⟨fDIR_EVENTS_TIER_LATE, .w1c, 0, false⟩,
      ⟨fDIR_EVENTS_WALK_ERR, .w1c, 0, false⟩,
      ⟨fDIR_EVENTS_DIR_LOST, .w1c, 0, false⟩]⟩  /- DIR_EVENTS -/,
  ⟨0x80018, 64, 1, 0x0, [⟨fDIR_BASE_BASE, .xw, 0, true⟩]⟩  /- DIR_BASE -/,
  ⟨0x80020, 64, 1, 0x0, [⟨fDIR_TMO_REMOTE, .xw, 2000, true⟩,
      ⟨fDIR_TMO_FAR, .xw, 1000, true⟩,
      ⟨fDIR_TMO_STACK, .xw, 500, true⟩]⟩  /- DIR_TMO -/,
  ⟨0x80028, 64, 1, 0x0, [⟨fDIR_HIT_COUNT, .rc, 0, false⟩]⟩  /- DIR_HIT -/,
  ⟨0x80030, 64, 1, 0x0, [⟨fDIR_MISS_COUNT, .rc, 0, false⟩]⟩  /- DIR_MISS -/,
  ⟨0x80038, 64, 1, 0x0, [⟨fDIR_WALK_ERR_COUNT, .rc, 0, false⟩]⟩  /- DIR_WALK_ERR -/]

def regsSync2 : List RegD := [
  ⟨0x80040, 64, 1, 0x0, [⟨fDIR_ERR_LAST_KIND, .rc, 0, false⟩,
      ⟨fDIR_ERR_LAST_ID, .rc, 0, false⟩]⟩  /- DIR_ERR_LAST -/,
  ⟨0x80048, 64, 1, 0x0, [⟨fDIR_TIER_LATE_REMOTE, .rc, 0, false⟩,
      ⟨fDIR_TIER_LATE_FAR, .rc, 0, false⟩,
      ⟨fDIR_TIER_LATE_STACK, .rc, 0, false⟩]⟩  /- DIR_TIER_LATE -/,
  ⟨0x80050, 64, 1, 0x0, [⟨fDIR_LATE_REPLY_REMOTE, .rc, 0, false⟩,
      ⟨fDIR_LATE_REPLY_FAR, .rc, 0, false⟩,
      ⟨fDIR_LATE_REPLY_STACK, .rc, 0, false⟩]⟩  /- DIR_LATE_REPLY -/,
  ⟨0x80058, 32, 1, 0x0, [⟨fDIR_INFL_OVF, .ro, 0, false⟩,
      ⟨fDIR_INFL_ENTRIES, .ro, 0, false⟩]⟩  /- DIR_INFL -/,
  ⟨0x80060, 64, 3, 0x8, [⟨fTIER_FAR_UP, .ro, 0, false⟩,
      ⟨fTIER_FAR_RANGE, .ro, 0, false⟩]⟩  /- TIER_FAR -/]

/-- The registers of the SYNC block. -/
def regsSync : List RegD := regsSync0 ++ regsSync1 ++ regsSync2

def regsHif0 : List RegD := [
  ⟨0x0, 32, 1, 0x0, [⟨fHIF_CTRL_CQEN, .rw, 0, false⟩]⟩  /- HIF_CTRL -/,
  ⟨0x8, 64, 1, 0x0, [⟨fHIF_STATUS_BME, .ro, 0, false⟩,
      ⟨fHIF_STATUS_D3HOT, .ro, 0, false⟩,
      ⟨fHIF_STATUS_FLIT, .ro, 0, false⟩,
      ⟨fHIF_STATUS_WIDTH, .ro, 0, false⟩,
      ⟨fHIF_STATUS_RATE, .ro, 0, false⟩]⟩  /- HIF_STATUS -/,
  ⟨0x10, 32, 1, 0x0, [⟨fHIF_EVENTS_RM_REPORT, .w1c, 0, false⟩,
      ⟨fHIF_EVENTS_CXL_CHANGE, .w1c, 0, false⟩,
      ⟨fHIF_EVENTS_CXL_EVENT, .w1c, 0, false⟩,
      ⟨fHIF_EVENTS_DMA_ERR, .w1c, 0, false⟩,
      ⟨fHIF_EVENTS_FRAME_ERR, .w1c, 0, false⟩,
      ⟨fHIF_EVENTS_BAR2_ERR, .w1c, 0, false⟩,
      ⟨fHIF_EVENTS_FLR, .w1c, 0, false⟩,
      ⟨fHIF_EVENTS_LINK_DEGRADED, .w1c, 0, false⟩]⟩  /- HIF_EVENTS -/,
  ⟨0x18, 64, 1, 0x0, [⟨fHIF_BAR2_BASE, .rw, 0, false⟩,
      ⟨fHIF_BAR2_USE, .rw, 0, false⟩,
      ⟨fHIF_BAR2_HINT, .rw, 0, false⟩]⟩  /- HIF_BAR2 -/,
  ⟨0x20, 32, 1, 0x0, [⟨fHIF_TMO_DMA, .rw, 50, false⟩,
      ⟨fHIF_TMO_BAR2, .rw, 1000, false⟩]⟩  /- HIF_TMO -/,
  ⟨0x28, 64, 1, 0x0, [⟨fHIF_BAR2_ERR_STATUS, .rc, 0, false⟩,
      ⟨fHIF_BAR2_ERR_WRITE, .rc, 0, false⟩,
      ⟨fHIF_BAR2_ERR_COUNT, .rc, 0, false⟩]⟩  /- HIF_BAR2_ERR -/,
  ⟨0x30, 64, 1, 0x0, [⟨fHIF_BAR2_EADDR_OFFSET, .rc, 0, false⟩]⟩  /- HIF_BAR2_EADDR -/,
  ⟨0x38, 64, 1, 0x0, [⟨fHIF_SQ_BASE_ADDR, .rw, 0, false⟩]⟩  /- HIF_SQ_BASE -/]

def regsHif1 : List RegD := [
  ⟨0x40, 64, 1, 0x0, [⟨fHIF_SQ_LOG2, .rw, 6, false⟩,
      ⟨fHIF_SQ_HEAD, .ro, 0, false⟩,
      ⟨fHIF_SQ_TAIL, .rw, 0, false⟩]⟩  /- HIF_SQ -/,
  ⟨0x48, 64, 1, 0x0, [⟨fHIF_CQ_BASE_ADDR, .rw, 0, false⟩]⟩  /- HIF_CQ_BASE -/,
  ⟨0x50, 64, 1, 0x0, [⟨fHIF_CQ_PHASE, .ro, 1, false⟩,
      ⟨fHIF_CQ_LOG2, .rw, 6, false⟩,
      ⟨fHIF_CQ_TAIL, .ro, 0, false⟩,
      ⟨fHIF_CQ_HEAD, .rw, 0, false⟩]⟩  /- HIF_CQ -/,
  ⟨0x58, 64, 1, 0x0, [⟨fHIF_FRAME_ERR_COUNT, .rc, 0, false⟩]⟩  /- HIF_FRAME_ERR -/,
  ⟨0x60, 64, 5, 0x8, [⟨fHIF_CORE_FAULT_CORES, .ro, 0, false⟩]⟩  /- HIF_CORE_FAULT -/,
  ⟨0x90, 64, 3, 0x8, [⟨fHIF_CXL_DEVS, .ro, 0, false⟩,
      ⟨fHIF_CXL_ERR, .rc, 0, false⟩,
      ⟨fHIF_CXL_WIDTH, .ro, 0, false⟩,
      ⟨fHIF_CXL_RATE, .ro, 0, false⟩,
      ⟨fHIF_CXL_DEGRADED, .ro, 0, false⟩,
      ⟨fHIF_CXL_UP, .ro, 0, false⟩,
      ⟨fHIF_CXL_PRESENT, .ro, 1, false⟩]⟩  /- HIF_CXL -/,
  ⟨0xA8, 64, 1, 0x0, [⟨fHIF_SMB_PECERR, .rc, 0, false⟩,
      ⟨fHIF_SMB_FRAMES, .rc, 0, false⟩,
      ⟨fHIF_SMB_NACK, .rc, 0, false⟩,
      ⟨fHIF_SMB_ALERT, .ro, 0, false⟩,
      ⟨fHIF_SMB_ADDR, .ro, 96, false⟩]⟩  /- HIF_SMB -/,
  ⟨0xB0, 32, 1, 0x0, [⟨fHIF_JTAG_REFUSED, .w1c, 0, false⟩,
      ⟨fHIF_JTAG_DBG_PEND, .ro, 0, false⟩]⟩  /- HIF_JTAG -/]

def regsHif2 : List RegD := [
  ⟨0x104, 32, 239, 0x4, [⟨fHIF_DBMAP_EN, .xw, 0, false⟩,
      ⟨fHIF_DBMAP_BASE, .xw, 0, false⟩]⟩  /- HIF_DBMAP -/]

/-- The registers of the HIF block. -/
def regsHif : List RegD := regsHif0 ++ regsHif1 ++ regsHif2

def regsCore0 : List RegD := [
  ⟨0x1000, 32, 4, 0x100, [⟨fME_CTRL_ZGATE, .rw, 1, false⟩,
      ⟨fME_CTRL_EN, .xw, 1, false⟩]⟩  /- ME_CTRL -/,
  ⟨0x1008, 64, 4, 0x100, [⟨fME_STATUS_LCOUNT, .ro, 0, false⟩,
      ⟨fME_STATUS_LOCC, .ro, 0, false⟩,
      ⟨fME_STATUS_LDEPTH, .ro, 0, false⟩,
      ⟨fME_STATUS_LTILE, .ro, 0, false⟩,
      ⟨fME_STATUS_WB1_FMT, .ro, 0, false⟩,
      ⟨fME_STATUS_WB0_FMT, .ro, 0, false⟩,
      ⟨fME_STATUS_WB1_ACC, .ro, 0, false⟩,
      ⟨fME_STATUS_WB0_ACC, .ro, 0, false⟩,
      ⟨fME_STATUS_WB1_LOADING, .ro, 0, false⟩,
      ⟨fME_STATUS_WB0_LOADING, .ro, 0, false⟩,
      ⟨fME_STATUS_WB1_VALID, .ro, 0, false⟩,
      ⟨fME_STATUS_WB0_VALID, .ro, 0, false⟩,
      ⟨fME_STATUS_OWNER, .ro, 0, false⟩,
      ⟨fME_STATUS_BUSY, .ro, 0, false⟩]⟩  /- ME_STATUS -/,
  ⟨0x1010, 32, 4, 0x100, [⟨fME_EVENTS_I32_SCALE, .w1c, 0, false⟩,
      ⟨fME_EVENTS_I32_SAT, .w1c, 0, false⟩,
      ⟨fME_EVENTS_ACC_OVF, .w1c, 0, false⟩,
      ⟨fME_EVENTS_NONFINITE, .w1c, 0, false⟩,
      ⟨fME_EVENTS_RUN_OVF, .w1c, 0, false⟩]⟩  /- ME_EVENTS -/,
  ⟨0x1018, 64, 4, 0x100, [⟨fME_TEV_LO_TEV7, .ro, 0, false⟩,
      ⟨fME_TEV_LO_TEV6, .ro, 0, false⟩,
      ⟨fME_TEV_LO_TEV5, .ro, 0, false⟩,
      ⟨fME_TEV_LO_TEV4, .ro, 0, false⟩,
      ⟨fME_TEV_LO_TEV3, .ro, 0, false⟩,
      ⟨fME_TEV_LO_TEV2, .ro, 0, false⟩,
      ⟨fME_TEV_LO_TEV1, .ro, 0, false⟩,
      ⟨fME_TEV_LO_TEV0, .ro, 0, false⟩]⟩  /- ME_TEV_LO -/,
  ⟨0x1020, 64, 4, 0x100, [⟨fME_TEV_HI_TEV15, .ro, 0, false⟩,
      ⟨fME_TEV_HI_TEV14, .ro, 0, false⟩,
      ⟨fME_TEV_HI_TEV13, .ro, 0, false⟩,
      ⟨fME_TEV_HI_TEV12, .ro, 0, false⟩,
      ⟨fME_TEV_HI_TEV11, .ro, 0, false⟩,
      ⟨fME_TEV_HI_TEV10, .ro, 0, false⟩,
      ⟨fME_TEV_HI_TEV9, .ro, 0, false⟩,
      ⟨fME_TEV_HI_TEV8, .ro, 0, false⟩]⟩  /- ME_TEV_HI -/,
  ⟨0x1028, 64, 4, 0x100, [⟨fME_FAULT_CODE, .rc, 0, false⟩,
      ⟨fME_FAULT_STREAM, .rc, 0, false⟩,
      ⟨fME_FAULT_COUNT, .rc, 0, false⟩,
      ⟨fME_FAULT_PC, .rc, 0, false⟩]⟩  /- ME_FAULT -/,
  ⟨0x1030, 64, 4, 0x100, [⟨fME_BUSY_CYC_BUSY_CYC, .rc, 0, false⟩]⟩  /- ME_BUSY_CYC -/,
  ⟨0x1038, 64, 4, 0x100, [⟨fME_MACS_MACS, .rc, 0, false⟩]⟩  /- ME_MACS -/]

def regsCore1 : List RegD := [
  ⟨0x1040, 64, 4, 0x100, [⟨fME_STALL_CYC_STALL_CYC, .rc, 0, false⟩]⟩  /- ME_STALL_CYC -/,
  ⟨0x1400, 32, 1, 0x0, [⟨fDR_CTRL_EN, .xw, 1, false⟩]⟩  /- DR_CTRL -/,
  ⟨0x1408, 64, 1, 0x0, [⟨fDR_STATUS_HOOK_WAIT, .ro, 0, false⟩,
      ⟨fDR_STATUS_WINDOW_BUSY, .ro, 0, false⟩,
      ⟨fDR_STATUS_SIDE_BUSY, .ro, 0, false⟩]⟩  /- DR_STATUS -/,
  ⟨0x1410, 32, 1, 0x0, [⟨fDR_EVENTS_TEV_OR, .w1c, 0, false⟩,
      ⟨fDR_EVENTS_ACC_PARITY, .w1c, 0, false⟩,
      ⟨fDR_EVENTS_EV_SCALE_EXHAUSTED, .w1c, 0, false⟩,
      ⟨fDR_EVENTS_EV_NONFINITE, .w1c, 0, false⟩,
      ⟨fDR_EVENTS_EV_SATURATED, .w1c, 0, false⟩,
      ⟨fDR_EVENTS_EV_OVERFLOW, .w1c, 0, false⟩,
      ⟨fDR_EVENTS_EV_UNDERFLOW, .w1c, 0, false⟩,
      ⟨fDR_EVENTS_EV_INEXACT, .w1c, 0, false⟩]⟩  /- DR_EVENTS -/,
  ⟨0x1418, 64, 1, 0x0, [⟨fDR_FAULT_CODE, .rc, 0, false⟩,
      ⟨fDR_FAULT_STREAM, .rc, 0, false⟩,
      ⟨fDR_FAULT_ENG, .rc, 0, false⟩,
      ⟨fDR_FAULT_COUNT, .rc, 0, false⟩,
      ⟨fDR_FAULT_PC, .rc, 0, false⟩]⟩  /- DR_FAULT -/,
  ⟨0x1420, 64, 1, 0x0, [⟨fDR_ROWS_ROWS, .rc, 0, false⟩]⟩  /- DR_ROWS -/,
  ⟨0x1428, 64, 1, 0x0, [⟨fDR_STALL_CYC_STALL_CYC, .rc, 0, false⟩]⟩  /- DR_STALL_CYC -/,
  ⟨0x1430, 64, 1, 0x0, [⟨fDR_PERR_COUNT, .rc, 0, false⟩]⟩  /- DR_PERR -/]

def regsCore2 : List RegD := [
  ⟨0x1440, 64, 8, 0x10, [⟨fDR_PROF_A_SCALE, .xw, 0x3f800000, false⟩,
      ⟨fDR_PROF_A_OFMT, .xw, 0, false⟩,
      ⟨fDR_PROF_A_RND, .xw, 0, false⟩,
      ⟨fDR_PROF_A_BSZ, .xw, 1, false⟩,
      ⟨fDR_PROF_A_BDIR, .xw, 0, false⟩,
      ⟨fDR_PROF_A_ACT, .xw, 0, false⟩,
      ⟨fDR_PROF_A_BIASF, .xw, 0, false⟩,
      ⟨fDR_PROF_A_AUXF, .xw, 1, false⟩,
      ⟨fDR_PROF_A_AUXEN, .xw, 0, false⟩,
      ⟨fDR_PROF_A_NCOL, .xw, 64, false⟩,
      ⟨fDR_PROF_A_LK, .xw, 0, false⟩]⟩  /- DR_PROF_A -/,
  ⟨0x1448, 32, 8, 0x10, [⟨fDR_PROF_B_HOOK, .xw, 0, false⟩,
      ⟨fDR_PROF_B_SFIX, .xw, 0, false⟩,
      ⟨fDR_PROF_B_SCODE, .xw, 127, false⟩]⟩  /- DR_PROF_B -/,
  ⟨0x1800, 32, 1, 0x0, [⟨fDM_CTRL_RATICKS, .xw, 2, false⟩,
      ⟨fDM_CTRL_EN, .xw, 1, false⟩]⟩  /- DM_CTRL -/,
  ⟨0x1808, 64, 1, 0x0, [⟨fDM_STATUS_PROBES, .ro, 0, false⟩,
      ⟨fDM_STATUS_EXEC, .ro, 0, false⟩,
      ⟨fDM_STATUS_WAIT_U, .ro, 0, false⟩,
      ⟨fDM_STATUS_WAIT_B, .ro, 0, false⟩,
      ⟨fDM_STATUS_WAIT_F, .ro, 0, false⟩]⟩  /- DM_STATUS -/,
  ⟨0x1810, 32, 1, 0x0, [⟨fDM_EVENTS_RA_CANCEL, .w1c, 0, false⟩,
      ⟨fDM_EVENTS_RA_DROP, .w1c, 0, false⟩,
      ⟨fDM_EVENTS_EV_SCALE_EXHAUSTED, .w1c, 0, false⟩,
      ⟨fDM_EVENTS_EV_NONFINITE, .w1c, 0, false⟩,
      ⟨fDM_EVENTS_EV_SATURATED, .w1c, 0, false⟩,
      ⟨fDM_EVENTS_EV_OVERFLOW, .w1c, 0, false⟩,
      ⟨fDM_EVENTS_EV_UNDERFLOW, .w1c, 0, false⟩,
      ⟨fDM_EVENTS_EV_INEXACT, .w1c, 0, false⟩]⟩  /- DM_EVENTS -/,
  ⟨0x1818, 64, 1, 0x0, [⟨fDM_FAULT_CODE, .rc, 0, false⟩,
      ⟨fDM_FAULT_STREAM, .rc, 0, false⟩,
      ⟨fDM_FAULT_COUNT, .rc, 0, false⟩,
      ⟨fDM_FAULT_PC, .rc, 0, false⟩]⟩  /- DM_FAULT -/,
  ⟨0x1820, 64, 1, 0x0, [⟨fDM_CSTAT_STATUS, .rc, 0, false⟩,
      ⟨fDM_CSTAT_STREAM, .rc, 0, false⟩,
      ⟨fDM_CSTAT_COUNT, .rc, 0, false⟩,
      ⟨fDM_CSTAT_PC, .rc, 0, false⟩]⟩  /- DM_CSTAT -/,
  ⟨0x1828, 64, 1, 0x0, [⟨fDM_BYTES_RD_BYTES, .rc, 0, false⟩]⟩  /- DM_BYTES_RD -/]

def regsCore3 : List RegD := [
  ⟨0x1830, 64, 1, 0x0, [⟨fDM_BYTES_WR_BYTES, .rc, 0, false⟩]⟩  /- DM_BYTES_WR -/,
  ⟨0x1838, 64, 1, 0x0, [⟨fDM_STALL_CYC_STALL_CYC, .rc, 0, false⟩]⟩  /- DM_STALL_CYC -/,
  ⟨0x1840, 64, 1, 0x0, [⟨fDM_RA_PROBES_COUNT, .rc, 0, false⟩]⟩  /- DM_RA_PROBES -/,
  ⟨0x1848, 64, 1, 0x0, [⟨fDM_RA_LINES_COUNT, .rc, 0, false⟩]⟩  /- DM_RA_LINES -/,
  ⟨0x1850, 64, 1, 0x0, [⟨fDM_RA_CANCEL_COUNT, .rc, 0, false⟩]⟩  /- DM_RA_CANCEL -/,
  ⟨0x1858, 64, 1, 0x0, [⟨fDM_RA_DROP_COUNT, .rc, 0, false⟩]⟩  /- DM_RA_DROP -/,
  ⟨0x1860, 32, 3, 0x8, [⟨fDM_SIDE_VALID, .ro, 0, false⟩,
      ⟨fDM_SIDE_CNT, .ro, 0, false⟩]⟩  /- DM_SIDE -/,
  ⟨0x2000, 32, 1, 0x0, [⟨fQC_CTRL_RMAX, .xw, 2, false⟩,
      ⟨fQC_CTRL_EN, .xw, 1, false⟩]⟩  /- QC_CTRL -/]

def regsCore4 : List RegD := [
  ⟨0x2008, 64, 1, 0x0, [⟨fQC_STATUS_RCOUNT, .ro, 0, false⟩,
      ⟨fQC_STATUS_REPLAY_U, .ro, 0, false⟩,
      ⟨fQC_STATUS_REPLAY_B, .ro, 0, false⟩,
      ⟨fQC_STATUS_REPLAY_F, .ro, 0, false⟩]⟩  /- QC_STATUS -/,
  ⟨0x2010, 32, 1, 0x0, [⟨fQC_EVENTS_RLIMIT, .w1c, 0, false⟩,
      ⟨fQC_EVENTS_DEGRADED, .w1c, 0, false⟩,
      ⟨fQC_EVENTS_REPLAY, .w1c, 0, false⟩,
      ⟨fQC_EVENTS_SS_UNBOUND, .w1c, 0, false⟩,
      ⟨fQC_EVENTS_CROWD, .w1c, 0, false⟩,
      ⟨fQC_EVENTS_RUN_OVF, .w1c, 0, false⟩,
      ⟨fQC_EVENTS_NONFINITE, .w1c, 0, false⟩,
      ⟨fQC_EVENTS_EXHAUST, .w1c, 0, false⟩,
      ⟨fQC_EVENTS_CLIP, .w1c, 0, false⟩]⟩  /- QC_EVENTS -/,
  ⟨0x2018, 64, 1, 0x0, [⟨fQC_FAULT_CODE, .rc, 0, false⟩,
      ⟨fQC_FAULT_STREAM, .rc, 0, false⟩,
      ⟨fQC_FAULT_COUNT, .rc, 0, false⟩,
      ⟨fQC_FAULT_PC, .rc, 0, false⟩]⟩  /- QC_FAULT -/,
  ⟨0x2020, 64, 1, 0x0, [⟨fQC_REPLAYS_COUNT, .rc, 0, false⟩]⟩  /- QC_REPLAYS -/,
  ⟨0x2028, 64, 1, 0x0, [⟨fQC_DEGRADED_COUNT, .rc, 0, false⟩]⟩  /- QC_DEGRADED -/,
  ⟨0x2030, 64, 1, 0x0, [⟨fQC_DEGR_LAST_TAG, .rc, 0, false⟩,
      ⟨fQC_DEGR_LAST_CLASS, .rc, 0, false⟩,
      ⟨fQC_DEGR_LAST_REASON, .rc, 0, false⟩,
      ⟨fQC_DEGR_LAST_STREAM, .rc, 0, false⟩,
      ⟨fQC_DEGR_LAST_PC, .rc, 0, false⟩]⟩  /- QC_DEGR_LAST -/,
  ⟨0x2038, 32, 1, 0x0, [⟨fQC_CROWD_SLOT, .w1c, 0, false⟩]⟩  /- QC_CROWD -/,
  ⟨0x2040, 64, 1, 0x0, [⟨fQC_CROWD_CH_VALID, .rc, 0, false⟩,
      ⟨fQC_CROWD_CH_CSLOT, .rc, 0, false⟩,
      ⟨fQC_CROWD_CH_CHANNEL, .rc, 0, false⟩]⟩  /- QC_CROWD_CH -/]

def regsCore5 : List RegD := [
  ⟨0x2048, 32, 3, 0x8, [⟨fQC_DREC_ME3, .ro, 0, false⟩,
      ⟨fQC_DREC_ME2, .ro, 0, false⟩,
      ⟨fQC_DREC_ME1, .ro, 0, false⟩,
      ⟨fQC_DREC_ME0, .ro, 0, false⟩]⟩  /- QC_DREC -/,
  ⟨0x2060, 32, 3, 0x8, [⟨fQC_RET_PC, .ro, 0, false⟩]⟩  /- QC_RET -/,
  ⟨0x2080, 32, 4, 0x8, [⟨fQC_THR_CLIP, .xw, 0, false⟩,
      ⟨fQC_THR_EXH_EN, .xw, 1, false⟩]⟩  /- QC_THR -/,
  ⟨0x20C0, 64, 8, 0x8, [⟨fQC_RSEED_SEED, .xw, 0, false⟩]⟩  /- QC_RSEED -/,
  ⟨0x2100, 32, 32, 0x40, [⟨fTL_CFG_TAG, .rw, 0, false⟩,
      ⟨fTL_CFG_THR, .rw, 0, false⟩,
      ⟨fTL_CFG_EN, .rw, 1, false⟩]⟩  /- TL_CFG -/,
  ⟨0x2108, 64, 32, 0x40, [⟨fTL_W_ELEM_CLIP, .ro, 0, false⟩,
      ⟨fTL_W_ELEM_ELEMS, .ro, 0, false⟩]⟩  /- TL_W_ELEM -/,
  ⟨0x2110, 64, 32, 0x40, [⟨fTL_W_BLK_NF, .ro, 0, false⟩,
      ⟨fTL_W_BLK_EXH, .ro, 0, false⟩,
      ⟨fTL_W_BLK_SAT, .ro, 0, false⟩,
      ⟨fTL_W_BLK_ZERO, .ro, 0, false⟩]⟩  /- TL_W_BLK -/,
  ⟨0x2118, 64, 32, 0x40, [⟨fTL_S_ELEM_ELEMS, .rc, 0, false⟩]⟩  /- TL_S_ELEM -/]

def regsCore6 : List RegD := [
  ⟨0x2120, 64, 32, 0x40, [⟨fTL_S_CLIPLO_CLIPLO, .rc, 0, false⟩]⟩  /- TL_S_CLIPLO -/,
  ⟨0x2128, 64, 32, 0x40, [⟨fTL_S_CLIPHI_CLIPHI, .rc, 0, false⟩]⟩  /- TL_S_CLIPHI -/,
  ⟨0x2130, 64, 32, 0x40, [⟨fTL_S_BLK_ZERO, .rc, 0, false⟩,
      ⟨fTL_S_BLK_BLOCKS, .rc, 0, false⟩]⟩  /- TL_S_BLK -/,
  ⟨0x2138, 64, 32, 0x40, [⟨fTL_S_BLK2_SAT, .rc, 0, false⟩,
      ⟨fTL_S_BLK2_EXH, .rc, 0, false⟩,
      ⟨fTL_S_BLK2_NF, .rc, 0, false⟩]⟩  /- TL_S_BLK2 -/,
  ⟨0x2900, 64, 1, 0x0, [⟨fSS_STATUS_SLOT3, .ro, 0, false⟩,
      ⟨fSS_STATUS_SLOT2, .ro, 0, false⟩,
      ⟨fSS_STATUS_SLOT1, .ro, 0, false⟩,
      ⟨fSS_STATUS_SLOT0, .ro, 0, false⟩]⟩  /- SS_STATUS -/,
  ⟨0x2908, 32, 1, 0x0, [⟨fSS_EVENTS_NONFINITE, .w1c, 0, false⟩,
      ⟨fSS_EVENTS_SS_UNBOUND, .w1c, 0, false⟩]⟩  /- SS_EVENTS -/,
  ⟨0x2910, 64, 1, 0x0, [⟨fSS_BUSY_CYC_BUSY_CYC, .rc, 0, false⟩]⟩  /- SS_BUSY_CYC -/,
  ⟨0x4000, 32, 1, 0x0, [⟨fVE_CTRL_EN, .xw, 1, false⟩]⟩  /- VE_CTRL -/]

def regsCore7 : List RegD := [
  ⟨0x4008, 64, 1, 0x0, [⟨fVE_STATUS_SLOT, .ro, 0, false⟩,
      ⟨fVE_STATUS_KIND, .ro, 0, false⟩,
      ⟨fVE_STATUS_ROWS_LEFT, .ro, 0, false⟩,
      ⟨fVE_STATUS_STREAM, .ro, 0, false⟩,
      ⟨fVE_STATUS_HOOK_ACTIVE, .ro, 0, false⟩,
      ⟨fVE_STATUS_WAIT_INPUT, .ro, 0, false⟩,
      ⟨fVE_STATUS_BUSY, .ro, 0, false⟩]⟩  /- VE_STATUS -/,
  ⟨0x4010, 32, 1, 0x0, [⟨fVE_EVENTS_EV_SCALE_EXHAUSTED, .w1c, 0, false⟩,
      ⟨fVE_EVENTS_EV_NONFINITE, .w1c, 0, false⟩,
      ⟨fVE_EVENTS_EV_SATURATED, .w1c, 0, false⟩,
      ⟨fVE_EVENTS_EV_OVERFLOW, .w1c, 0, false⟩,
      ⟨fVE_EVENTS_EV_UNDERFLOW, .w1c, 0, false⟩,
      ⟨fVE_EVENTS_EV_INEXACT, .w1c, 0, false⟩]⟩  /- VE_EVENTS -/,
  ⟨0x4018, 64, 1, 0x0, [⟨fVE_FAULT_CODE, .rc, 0, false⟩,
      ⟨fVE_FAULT_STREAM, .rc, 0, false⟩,
      ⟨fVE_FAULT_COUNT, .rc, 0, false⟩,
      ⟨fVE_FAULT_PC, .rc, 0, false⟩]⟩  /- VE_FAULT -/,
  ⟨0x4020, 64, 1, 0x0, [⟨fVE_GROUPS_GROUPS, .rc, 0, false⟩]⟩  /- VE_GROUPS -/,
  ⟨0x4028, 64, 1, 0x0, [⟨fVE_STALL_CYC_STALL_CYC, .rc, 0, false⟩]⟩  /- VE_STALL_CYC -/,
  ⟨0x4030, 64, 1, 0x0, [⟨fVE_HOOK_ROWS_ROWS, .rc, 0, false⟩]⟩  /- VE_HOOK_ROWS -/,
  ⟨0x4038, 32, 3, 0x8, [⟨fVE_VL_VL, .ro, 0, false⟩]⟩  /- VE_VL -/,
  ⟨0x4100, 64, 32, 0x8, [⟨fVE_SLOT_CFG_IFMT3, .xw, 0, false⟩,
      ⟨fVE_SLOT_CFG_IFMT2, .xw, 0, false⟩,
      ⟨fVE_SLOT_CFG_IFMT1, .xw, 0, false⟩,
      ⟨fVE_SLOT_CFG_IFMT0, .xw, 0, false⟩,
      ⟨fVE_SLOT_CFG_OFMT1, .xw, 0, false⟩,
      ⟨fVE_SLOT_CFG_OFMT0, .xw, 0, false⟩,
      ⟨fVE_SLOT_CFG_RND, .xw, 0, false⟩,
      ⟨fVE_SLOT_CFG_BSZ, .xw, 1, false⟩,
      ⟨fVE_SLOT_CFG_NIN, .xw, 0, false⟩,
      ⟨fVE_SLOT_CFG_NOUT, .xw, 0, false⟩,
      ⟨fVE_SLOT_CFG_LEN, .xw, 0, false⟩,
      ⟨fVE_SLOT_CFG_BAD, .ro, 0, false⟩]⟩  /- VE_SLOT_CFG -/]

def regsCore8 : List RegD := [
  ⟨0x4200, 32, 128, 0x4, [⟨fVE_SLOT_C_VALUE, .xw, 0, false⟩]⟩  /- VE_SLOT_C -/,
  ⟨0x4400, 32, 1024, 0x4, [⟨fVE_UOP_UOP, .xw, 0, false⟩]⟩  /- VE_UOP -/,
  ⟨0x0, 32, 1, 0x0, [⟨fSQ_CTRL_UFRAME, .xw, 15, false⟩,
      ⟨fSQ_CTRL_PRIO, .xw, 0, false⟩,
      ⟨fSQ_CTRL_EN, .xw, 1, false⟩]⟩  /- SQ_CTRL -/,
  ⟨0x8, 64, 1, 0x0, [⟨fSQ_STATUS_STATE_U, .ro, 0, false⟩,
      ⟨fSQ_STATUS_STATE_B, .ro, 0, false⟩,
      ⟨fSQ_STATUS_STATE_F, .ro, 0, false⟩]⟩  /- SQ_STATUS -/,
  ⟨0x10, 32, 1, 0x0, [⟨fSQ_EVENTS_HINT_DROP, .w1c, 0, false⟩,
      ⟨fSQ_EVENTS_WDOG, .w1c, 0, false⟩,
      ⟨fSQ_EVENTS_MOVEFAIL, .w1c, 0, false⟩,
      ⟨fSQ_EVENTS_FAULT_U, .w1c, 0, false⟩,
      ⟨fSQ_EVENTS_FAULT_B, .w1c, 0, false⟩,
      ⟨fSQ_EVENTS_FAULT_F, .w1c, 0, false⟩]⟩  /- SQ_EVENTS -/,
  ⟨0x18, 32, 1, 0x0, [⟨fSQ_WDOG_LIMIT, .xw, 0x989680, false⟩]⟩  /- SQ_WDOG -/,
  ⟨0x20, 64, 1, 0x0, [⟨fSQ_ISSUED_COUNT, .rc, 0, false⟩]⟩  /- SQ_ISSUED -/,
  ⟨0x100, 32, 3, 0x100, [⟨fSQS_PC_PC, .xw, 0, false⟩]⟩  /- SQS_PC -/]

def regsCore9 : List RegD := [
  ⟨0x108, 32, 3, 0x100, [⟨fSQS_PBASE_PBASE, .xw, 0, false⟩]⟩  /- SQS_PBASE -/,
  ⟨0x10C, 32, 3, 0x100, [⟨fSQS_PLIMIT_PLIMIT, .xw, 0, false⟩]⟩  /- SQS_PLIMIT -/,
  ⟨0x110, 64, 3, 0x100, [⟨fSQS_TB_TB, .ro, 0, false⟩]⟩  /- SQS_TB -/,
  ⟨0x118, 32, 3, 0x100, [⟨fSQS_CFG_EPOCH, .ro, 0, false⟩]⟩  /- SQS_CFG -/,
  ⟨0x120, 64, 3, 0x100, [⟨fSQS_FAULT_CODE, .rc, 0, false⟩,
      ⟨fSQS_FAULT_UNIT, .rc, 0, false⟩,
      ⟨fSQS_FAULT_PC, .rc, 0, false⟩]⟩  /- SQS_FAULT -/,
  ⟨0x128, 64, 3, 0x100, [⟨fSQS_MFAIL_STATUS, .rc, 0, false⟩,
      ⟨fSQS_MFAIL_COUNT, .rc, 0, false⟩,
      ⟨fSQS_MFAIL_PC, .rc, 0, false⟩]⟩  /- SQS_MFAIL -/,
  ⟨0x130, 32, 3, 0x100, [⟨fSQS_WAIT_WAITING, .ro, 0, false⟩,
      ⟨fSQS_WAIT_REASON, .ro, 0, false⟩,
      ⟨fSQS_WAIT_WDOG, .ro, 0, false⟩,
      ⟨fSQS_WAIT_TS, .ro, 0, false⟩]⟩  /- SQS_WAIT -/,
  ⟨0x138, 64, 3, 0x100, [⟨fSQS_ISSUED_COUNT, .rc, 0, false⟩]⟩  /- SQS_ISSUED -/]

def regsCore10 : List RegD := [
  ⟨0x140, 64, 3, 0x100, [⟨fSQS_LOST_COUNT, .rc, 0, false⟩]⟩  /- SQS_LOST -/,
  ⟨0x148, 64, 3, 0x100, [⟨fSQS_WAITCYC_COUNT, .rc, 0, false⟩]⟩  /- SQS_WAITCYC -/,
  ⟨0x400, 64, 96, 0x8, [⟨fSQS_S_VALUE, .xw, 0, false⟩]⟩  /- SQS_S -/,
  ⟨0x6000, 64, 1, 0x0, [⟨fCAP_STATE_REFRESHES, .ro, 0, false⟩,
      ⟨fCAP_STATE_AGE_LOSS, .ro, 0, false⟩,
      ⟨fCAP_STATE_EN, .ro, 1, false⟩,
      ⟨fCAP_STATE_FUSE_DIS, .ro, 0, false⟩,
      ⟨fCAP_STATE_OVL_DIS, .ro, 0, false⟩,
      ⟨fCAP_STATE_OVERLAY, .ro, 0, false⟩]⟩  /- CAP_STATE -/,
  ⟨0x6008, 64, 1, 0x0, [⟨fCAP_FMAX_LO_F0700, .ro, 1300, false⟩,
      ⟨fCAP_FMAX_LO_F0650, .ro, 1300, false⟩,
      ⟨fCAP_FMAX_LO_F0600, .ro, 1300, false⟩,
      ⟨fCAP_FMAX_LO_F0550, .ro, 1300, false⟩]⟩  /- CAP_FMAX_LO -/,
  ⟨0x6010, 64, 1, 0x0, [⟨fCAP_FMAX_HI_F0800, .ro, 1300, false⟩,
      ⟨fCAP_FMAX_HI_F0750, .ro, 1300, false⟩]⟩  /- CAP_FMAX_HI -/]

/-- The registers of the CORE block. -/
def regsCore : List RegD := regsCore0 ++ regsCore1 ++ regsCore2 ++ regsCore3 ++ regsCore4 ++ regsCore5 ++ regsCore6 ++ regsCore7 ++ regsCore8 ++ regsCore9 ++ regsCore10

/-- The registers of a block. -/
def Blk.regs : Blk → List RegD
  | .pkg => regsPkg
  | .time => regsTime
  | .pwr => regsPwr
  | .mem => regsMem
  | .pt => regsPt
  | .ud => regsUd
  | .fab => regsFab
  | .sync => regsSync
  | .hif => regsHif
  | .core => regsCore

end Sys2Proof.Machine
end

