-- ==== Sys2Proof/Machine/Sparse.lean ====
section
/-!
DEFINITION. Machine/Sparse.lean: sparse data by key, as a list of key and value pairs in one canonical form: keys strictly
rising, and no entry equal to what an unlisted key reads as. Memories, the register file and other keyed state use it.
-/

namespace Sys2Proof.Machine

/-- The value at a key; `d` is what an unlisted key reads as. -/
def sget {V : Type} (d : V) (k : Nat) : List (Nat × V) → V
  | [] => d
  | p :: t => if p.1 = k then p.2 else sget d k t

/-- Every entry of a key removed. -/
def sdel {V : Type} (k : Nat) : List (Nat × V) → List (Nat × V)
  | [] => []
  | p :: t => if p.1 = k then sdel k t else p :: sdel k t

/-- An entry put before the first larger key. -/
def sins {V : Type} (k : Nat) (v : V) : List (Nat × V) → List (Nat × V)
  | [] => [(k, v)]
  | p :: t => if k < p.1 then (k, v) :: p :: t else p :: sins k v t

/-- Writing a value; writing what an unlisted key reads as removes the entry. -/
def sput {V : Type} [DecidableEq V] (d : V) (k : Nat) (v : V) (l : List (Nat × V)) : List (Nat × V) :=
  if v = d then sdel k l else sins k v (sdel k l)

/-- Keys strictly rise and every key is at least `lo`. -/
def keysFrom {V : Type} : Nat → List (Nat × V) → Bool
  | _, [] => true
  | lo, p :: t => decide (lo ≤ p.1) && keysFrom (p.1 + 1) t

/-- The canonical form, with `d k` what key `k` reads as when unlisted. -/
def swf {V : Type} [DecidableEq V] (d : Nat → V) (l : List (Nat × V)) : Bool :=
  keysFrom 0 l && l.all fun p => !decide (p.2 = d p.1)

/-- A memory of bytes in canonical form: unlisted addresses read as 0 (11 R340; log entry 4). -/
def Memory.wf (m : List Host.Cell) : Bool := swf (fun _ => (0 : Byte)) m

/-- One byte of a memory. -/
def memByte (m : List Host.Cell) (a : Nat) : Byte := sget 0 a m

/-- One byte stored. -/
def memPut (m : List Host.Cell) (a : Nat) (b : Byte) : List Host.Cell := sput 0 a b m

/-- Bytes from an address upwards. -/
def memBytes (m : List Host.Cell) (a : Nat) : Nat → List Nat
  | 0 => []
  | n + 1 => (memByte m a).toNat :: memBytes m (a + 1) n

/-- Bytes stored from an address upwards. -/
def memStore (m : List Host.Cell) (a : Nat) : List Nat → List Host.Cell
  | [] => m
  | b :: bs => memStore (memPut m a (BitVec.ofNat 8 b)) (a + 1) bs

/-- A set of naturals as a rising list. -/
def setIns (k : Nat) : List Nat → List Nat
  | [] => [k]
  | j :: t => if k < j then k :: j :: t else if k = j then j :: t else j :: setIns k t

end Sys2Proof.Machine
end

