-- ==== Sys2Proof/Machine/Regs.lean ====
section
/-!
DEFINITION. Machine/Regs.lean: which register a BAR0 address names, its reset word, and reading and writing one field
(00 R10-R13, 17 R506). Field values are natural numbers; a write keeps the low bits that fit the field.
-/

namespace Sys2Proof.Machine

/-- A place in the register space: block, copy of the block, offset in it. -/
structure Place where
  blk : Blk
  copy : Nat
  off : Nat
  deriving DecidableEq, Repr

/-- The block that an address lies in (17 R506, 11 R343, 13 R404, 09 R272). -/
def placeOf (a : Nat) : Option Place :=
  if a < 0x100000 then some ⟨.pkg, 0, a⟩
  else if a < 0x200000 then some ⟨.time, 0, a - 0x100000⟩
  else if a < 0x300000 then some ⟨.pwr, 0, a - 0x200000⟩
  else if a < 0x3A0000 then some ⟨.mem, (a - 0x300000) / 0x10000, a % 0x10000⟩
  else if a < 0x3C0000 then some ⟨.pt, (a - 0x3A0000) / 0x10000, a % 0x10000⟩
  else if a < 0x400000 then none
  else if a < 0x600000 then some ⟨.ud, (a - 0x400000) / 0x100000, a % 0x100000⟩
  else if a < 0x700000 then some ⟨.fab, (a - 0x600000) / 0x40000, a % 0x40000⟩
  else if a < 0x800000 then some ⟨.sync, 0, a - 0x700000⟩
  else if a < 0x810000 then some ⟨.hif, 0, a - 0x800000⟩
  else if a < 0x1000000 then none
  else if a < 0x2200000 then some ⟨.core, (a - 0x1000000) / 0x10000, a % 0x10000⟩
  else none

/-- The copy of register `r` that lies at an offset of its block, if one does. -/
def RegD.index? (r : RegD) (off : Nat) : Option Nat :=
  if off < r.off then none
  else if r.n ≤ 1 then (if off = r.off then some 0 else none)
  else
    let d := off - r.off
    if d % r.stride = 0 ∧ d / r.stride < r.n then some (d / r.stride) else none

/-- The first register of a list that lies at an offset, with its copy number. -/
def findReg (off : Nat) : List RegD → Option (RegD × Nat)
  | [] => none
  | r :: t => match r.index? off with
    | some i => some (r, i)
    | none => findReg off t

/-- The register at an address: its block copy, its row, its own copy number. -/
structure RegAt where
  place : Place
  reg : RegD
  idx : Nat
  deriving DecidableEq, Repr

def regAt (a : Nat) : Option RegAt :=
  match placeOf a with
  | none => none
  | some p => match findReg p.off p.blk.regs with
    | none => none
    | some r => some ⟨p, r.1, r.2⟩

/-- A field value put in its place, nothing else set. -/
def Fld.at (f : Fld) (v : Nat) : Nat := v % 2 ^ f.width * 2 ^ f.lo

/-- PWR_BSTEP level n: 350 + floor(n * (ceiling - 350) / 7) W (15 R433). -/
def bstepLevel (ceiling n : Nat) : Nat := 350 + n * (ceiling - 350) / 7

/-- Four levels in one word, the first in the low half-word (15 R433). -/
def bstepWord (ceiling n : Nat) : Nat :=
  bstepLevel ceiling n + bstepLevel ceiling (n + 1) * 2 ^ 16 + bstepLevel ceiling (n + 2) * 2 ^ 32
    + bstepLevel ceiling (n + 3) * 2 ^ 48

/-- PWR_HCLS reset values, POWER in bits [31:16] and ADD in [7:0] (15 R441). -/
def hclsWord (k : Nat) : Nat :=
  match k with
  | 0 => 8 * 65536
  | 1 => 16 * 65536
  | 2 => 24 * 65536 + 1
  | 3 => 32 * 65536 + 2
  | 4 => 38 * 65536 + 3
  | 5 => 42 * 65536 + 4
  | _ => 0

/-- Reset words that differ from copy to copy of a register; the other registers take the sum of their fields' resets. -/
def resetIndexed (blk : Blk) (off i : Nat) : Option Nat :=
  match blk with
  | .core => if off = 0x2080 then some ((match i with | 0 => 0x3000 | 1 => 0x0400 | 2 => 0x0100 | _ => 0xFFFF) * 65536 + 1) else none
  | .ud =>
    if off = 0x100 then
      some (match i % 8 with | 1 => 0x3F666666 | 2 => 0x3F7FBE77 | 3 => 0x322BCC77 | 5 => 0x3F800000 | _ => 0)
    else none
  | .fab =>
    if off = 0x110 then some ((4 * i) + (4 * i + 1) * 32 + (4 * i + 2) * 1024 + (4 * i + 3) * 32768)
    else if off = 0x300 then some (if i < 16 then 0 else 64)
    else none
  | .pwr =>
    if off = 0x100 then some (hclsWord i)
    else if off = 0x30 then some (bstepWord 1600 0)
    else if off = 0x38 then some (bstepWord 1600 4)
    else if off = 0x1000 then some (if i = 0 then 2 ^ 31 else if i = 63 then 2 ^ 31 + 0xFFFF else 0)
    else none
  | .pkg => if off = 0x28 then some (if i < 4 then 2 ^ 64 - 1 else 2 ^ 32 - 1) else none
  | _ => none

/-- The reset word of a register (00 R12). -/
def RegAt.reset (r : RegAt) : Nat :=
  match resetIndexed r.place.blk r.reg.off r.idx with
  | some w => w
  | none => r.reg.fields.foldl (fun a f => a + f.f.at f.reset) 0

/-- What an address of the register space reads as while nothing lists it: its reset word, 0 where no register lies. -/
def resetWord (a : Nat) : Word :=
  match regAt a with
  | some r => BitVec.ofNat 64 r.reset
  | none => 0

/-- The registers, by BAR0 address; an unlisted one holds its reset word. -/
abbrev RegFile := List (Nat × Word)

/-- A field of a word (00 R10). -/
def fget (w : Word) (f : Fld) : Nat := w.toNat / 2 ^ f.lo % 2 ^ f.width

/-- A word with one field replaced. -/
def fset (w : Word) (f : Fld) (v : Nat) : Word :=
  BitVec.ofNat 64 (w.toNat % 2 ^ f.lo + v % 2 ^ f.width * 2 ^ f.lo + w.toNat / 2 ^ (f.lo + f.width) * 2 ^ (f.lo + f.width))

/-- One bit of a word. -/
def wbit (w : Word) (i : Nat) : Bool := w.toNat / 2 ^ i % 2 = 1

/-- Bits [hi:lo] of a word as a number (00 R10). -/
def bitsOf (w : Word) (hi lo : Nat) : Nat := fget w ⟨hi, lo⟩

end Sys2Proof.Machine
end

