-- ==== Sys2Proof/Machine/Types.lean ====
section
/-!
DEFINITION. Machine/Types.lean: the parts of the state that no register shows: cores, streams and instructions in progress
(chapters 03 to 09).
-/

namespace Sys2Proof.Machine

/-- One increment that a SIGP names (09 R246). -/
structure SigInc where
  loc : Bool
  node : Nat
  ts : Nat
  deriving DecidableEq, Repr

/-- What an issued instruction carries to its completion (09 R246, 08 R236): its stream, its address, the stream's EPOCH at
issue, its SIGP increments and, when launch-timed, the tick it belongs to. -/
structure Issued where
  stream : Nat
  pc : Nat
  epoch : Nat
  sig : List SigInc
  tick : Option Nat
  deriving DecidableEq, Repr

/-- The units' instructions that complete later than they issue. -/
inductive JobKind where
  | mwld | mmul | accld | drain | ssmul | ve | dmov | remInc | mark
  deriving DecidableEq, Repr

/-- A request that a move has sent to another package and not had answered: tag, address, bytes, the beat it left (12 R358). -/
structure MoveReq where
  tag : Nat
  addr : Nat
  len : Nat
  write : Bool
  at_ : Nat
  deriving DecidableEq, Repr

/-- What the tensor directory has answered a move that names a tensor (12 R353, R354): nothing asked yet, a walk under way or
waited for, the entry found MOVING (its ID, the beat of the wait's start), the place translated to (its ID, whether it counts
in the cached entry, its tier, address and extent length), the status it ended with. -/
inductive Trans where
  | none
  | walking (id : Nat)
  | moving (id since : Nat)
  | found (id : Nat) (cached : Bool) (tier addr len : Nat)
  | failed (status : Nat)
  deriving DecidableEq, Repr

/-- An instruction that a unit has accepted and not completed: its order of issue in the core, its word, the values captured
at issue (scalar operands, profile, slot or descriptor), the beat from which it asks memory, the accumulator tiles it touches and the side ports it uses (04 R91),
and what it has gathered since (rows through the hook, data from other packages; for a move its translation and the failure
that a response or a reset has brought it). -/
structure Job where
  ord : Nat
  kind : JobKind
  iss : Issued
  word : Word
  args : List Nat
  prog : List Nat
  tiles : List Nat
  ports : List Nat
  rows : List (List Nat)
  rx : List (Nat × Byte)
  reqs : List MoveReq
  sent : Bool
  trans : Trans
  fail : Option Nat
  since : Nat
  deriving DecidableEq, Repr

/-- Attributes of an accumulator tile (04 R85, 03 R66). The fields beginning with i are the tile as the instructions issued
so far leave it, which the checks at issue use; the others are the tile as the completed ones left it. `bindOrd` is the order
of the MMUL that made the binding in `owner`. -/
structure TileAttr where
  typ : Bool
  depth : Nat
  owner : Nat
  bindOrd : Nat
  tev : Nat
  count : Nat
  ldt : Nat
  row0 : Nat
  rows : Nat
  iDepth : Nat
  iCount : Nat
  iLdt : Nat
  iRow0 : Nat
  iRows : Nat
  deriving DecidableEq, Repr

/-- A weight buffer (03 R57, R59). Of the last load issued: whether there was one since the start, its format and mode codes,
valid rows and columns. Of the last load completed: whether there was one, its format code, rows, columns, and one list of
element encodings and one of scale words a column. -/
structure WBuf where
  loaded : Bool
  fmt : Nat
  acc : Nat
  iKv : Nat
  iNc : Nat
  valid : Bool
  xFmt : Nat
  kv : Nat
  nc : Nat
  cols : List (List Nat)
  scs : List (List Nat)
  deriving DecidableEq, Repr

/-- A Sideshow slot (05 R122): its binding, whether an MMUL has taken it, whether its results are complete, its words by row
and column. -/
structure SideSlot where
  used : Bool
  bound : Bool
  stream : Nat
  eng : Nat
  tile : Nat
  done : Bool
  ord : Nat
  words : List (Nat × Nat)
  deriving DecidableEq, Repr

/-- State of a stream that no register shows (09 R241, R242, R247, R257): the fetch buffer as addresses and words, where
fetching goes on (none: it has stopped), loads not landed (register, address, what they carry), the tick of the last
launch-timed instruction, a HALT issued and not yet in force, an SQ_STOP accepted and not yet in
force, the replica beat at which the head reached issue, the
instructions before this point that a replaying CHECK holds the increments of (05 R130), and HALTs of a stream stopped since that have yet to
complete, each with the order number below which its earlier instructions lie. -/
structure Stream where
  fbuf : List (Nat × Word)
  fnext : Option Nat
  slds : List (Nat × Nat × Issued)
  tick : Option Nat
  haltPend : Option Issued
  stopPend : Bool
  since : Nat
  heldSig : List Issued
  halts : List (Nat × Issued)
  deriving DecidableEq, Repr

/-- A run-ahead probe (07 R200-R205): its stream and DMOV, its launch tick, tick boundaries seen, the lines it reads, the
package it reads from, the tags of its requests that no PACK has answered (13 R380, R383). -/
structure Probe where
  stream : Nat
  pc : Nat
  tick : Option Nat
  seen : Nat
  lines : List Nat
  node : Nat
  tags : List Nat
  deriving DecidableEq, Repr

/-- Accumulator memory (04 R84, R86, R110): words, words with bad parity, occupied ladder slots. -/
structure AccMem where
  words : List (Nat × Nat)
  bad : List Nat
  occ : List Nat
  deriving DecidableEq, Repr

/-- State of a core that no register shows. -/
structure CoreSt where
  mem : List Host.Cell
  acc : AccMem
  tiles : List (Nat × TileAttr)
  wbs : List (Nat × WBuf)
  jobs : List Job
  nextOrd : Nat
  nextTag : Nat
  side : List SideSlot
  hookRound : List Nat
  vreg : List (Nat × Nat)
  sF : Stream
  sB : Stream
  sU : Stream
  probes : List Probe
  slips : List Nat
  uCount : Nat
  lastTile : List Nat
  deriving DecidableEq, Repr

/-- Replacement class of a stack-cache line (11 R322-R324): ordinary, kept, counted with uses to go, lowest priority. -/
inductive LineKind where
  | ordinary
  | kept
  | counted (uses : Nat)
  | low
  deriving DecidableEq, Repr

/-- A line of a stack cache: site, line number, class, the probe that filled it (core, stream, address of its DMOV) while
that probe lives (07 R202-R204), its 64 bytes as read and written since (11 R321); none yet for a probe's fill on its way. -/
structure CacheLine where
  site : Nat
  line : Nat
  kind : LineKind
  probe : Option (Nat × Nat × Nat)
  data : List Nat
  deriving DecidableEq, Repr

/-- Lines that a compaction wrote poisoned (11 R331, R339): the unit (sites 0-9, dies 10 and 11), its interleave before, the
channels that were fenced, its range after. Lines written since are in MemSt.healed. -/
structure PoisonMap where
  unit : Nat
  live : List Nat
  fenced : List Nat
  range : Nat
  deriving DecidableEq, Repr

/-- An error of a channel counted towards a threshold (11 R328): unit, channel, whether it was UE or POISON, line, beat. -/
structure ErrRec where
  unit : Nat
  ch : Nat
  ue : Bool
  line : Nat
  beat : Nat
  deriving DecidableEq, Repr

/-- An entry of the directory cache (12 R353, R355): ID, the entry's four words, its in-flight count. -/
structure DirEnt where
  id : Nat
  words : List Nat
  infl : Nat
  deriving DecidableEq, Repr

/-- A degraded mark on its way to an update die (05 R135, 10 R300), with the job of the SNCHK that waits for it. -/
structure MarkMsg where
  die : Nat
  tag : Nat
  core : Nat
  ord : Nat
  deriving DecidableEq, Repr

/-- An increment on its way to its turnstile bank (09 R260, R265). -/
structure IncMsg where
  ts : Nat
  amount : Nat
  stamp : Nat
  node : Nat
  deriving DecidableEq, Repr

/-- A journal entry (16 R492); `outcome` 0 PENDING, 1 DONE, 2 REFUSED, 3 FAILED, 4 INTERRUPTED; `digest` is 16 bytes. -/
structure JEnt where
  seq : Nat
  abeat : Nat
  cbeat : Nat
  start : Nat
  code : Nat
  port : Nat
  outcome : Nat
  status : Nat
  alen : Nat
  detail : Nat
  digest : List Nat
  obj : Nat
  deriving DecidableEq, Repr

def JEnt.empty : JEnt := ⟨0, 0, 0, 0, 0, 0, 0, 0, 0, 0, [], 0⟩

/-- An accepted command that waits or executes (16 R486, 17 R514): sequence number, code, port class, fabric port, tag, response
place, argument words, whether its completion entry is discarded (17 R513, R519). -/
structure Cmd where
  seq : Nat
  code : Nat
  cls : Nat
  port : Nat
  tag : Nat
  raddr : Nat
  rlen : Nat
  args : List Nat
  quiet : Bool
  deriving DecidableEq, Repr

/-- A completion that its port has not delivered yet (17 R515). -/
structure Comp where
  cls : Nat
  tag : Nat
  status : Nat
  outcome : Nat
  seq : Nat
  detail : Nat
  raddr : Nat
  resp : List Nat
  deriving DecidableEq, Repr

/-- An update-list entry in flight (10 R285): index, its words, its record's words, version step t, exponent e and classes of
trouble found at its start, requests to
other packages with the bytes they brought and a failure among them, whether its work is done (UPDATE: results written;
others: the accumulation, write or read done), whether its outcome is resolved (R286), the beat it started. -/
structure UdEnt where
  idx : Nat
  words : List Nat
  rcd : List Nat
  t : Nat
  e : Nat
  cls : Nat
  reqs : List MoveReq
  rx : List (Nat × Byte)
  fail : Option Nat
  ran : Bool
  resolved : Bool
  since : Nat
  deriving DecidableEq, Repr

/-- A working copy being written (10 R295): number, the entry it belongs to (none: UD_REEMIT or a resolution), record, its
buffer turnstile, requests unanswered, whether a write failed, whether the increment waits for UD_STEP_COMMIT, the tier of its
buffer (12 R346) and the beat of its writes. -/
structure UdEmit where
  id : Nat
  owner : Option Nat
  ulx : Nat
  ts : Nat
  reqs : List MoveReq
  failed : Bool
  held : Bool
  tier : Nat
  since : Nat
  deriving DecidableEq, Repr

/-- A record that holds (10 R303): ULX, step and exponent of its new version, whether it found trouble. -/
structure UdHeld where
  idx : Nat
  ulx : Nat
  t : Nat
  e : Nat
  bad : Bool
  deriving DecidableEq, Repr

/-- A checkpoint or restore (10 R309): the command's sequence number, whether it restores and whether only the master, the
record, the tensor's translation, requests to other packages, bytes received, a failure, the beat from which it asks memory. -/
structure UdXfer where
  seq : Nat
  restore : Bool
  masterOnly : Bool
  ulx : Nat
  id : Nat
  trans : Trans
  sent : Bool
  reqs : List MoveReq
  rx : List (Nat × Byte)
  fail : Option Nat
  since : Nat
  deriving DecidableEq, Repr

/-- Update-die state that no register shows (chapter 10): entries in flight and copies being written, oldest first; held
records; the rule slots as the walk copied them (configuration, then micro-ops); whether AUTO has the next walk due; whether
no entry may start any more in this walk; checkpoints and restores; the next tag and the next copy number; whether a copy of
this walk failed; steps whose walk has completed and waits for the other die's, with the report bits of 14 R420; steps resolved
that wait for the other die's; whether an APPLY waits for a checkpoint's reading (R309). -/
structure UdSt where
  ents : List UdEnt
  emits : List UdEmit
  held : List UdHeld
  rules : List (List Nat)
  auto : Bool
  stop : Bool
  xfers : List UdXfer
  nextTag : Nat
  nextEmit : Nat
  copyFail : Bool
  closed : List (Nat × Nat)
  resolved : List Nat
  due : Bool
  deriving DecidableEq, Repr

def UdSt.reset : UdSt := ⟨[], [], [], [], false, false, [], 0, 0, false, [], [], false⟩

/-- What a loaded schedule image leaves with firmware (16 R491, 08 R232, 05 R137-R141, 14 R412): planned tick length and beats of each
tick class; the gradient format table's address and layers, what is bound to its formats, whether it has been made since the
cold start, changes decided and not yet in effect (layer, kind, format code), UP and DOWN with their replacement at the next
fence, the default formats (activation, weight); the norm groups; the planning code and whether boost is permitted (15 R438). -/
structure SchedSt where
  planned : Nat
  classes : List Nat
  gbase : Nat
  glayers : Nat
  gbinds : List GfmtBind
  made : Bool
  pend : List (Nat × Nat × Nat)
  up : Nat
  down : Nat
  limits : Option (Nat × Nat)
  agDef : Nat
  wgDef : Nat
  norms : List NormBind
  planCode : Nat
  boost : Bool
  deriving DecidableEq, Repr

/-- No image loaded; the formats and limits of a boot image without GFMT (16 R469, 05 R138). -/
def SchedSt.reset : SchedSt := ⟨0, [], 0, 0, [], false, [], 0x40, 4, none, 4, 4, [], 80, false⟩

def Stream.reset : Stream := ⟨[], none, [], none, none, false, 0, [], []⟩

def TileAttr.reset : TileAttr := ⟨false, 0, 0, 0, 0, 0, 0, 0, 0, 0, 0, 0, 0, 0⟩

def WBuf.reset : WBuf := ⟨false, 0, 0, 0, 0, false, 0, 0, 0, [], []⟩

def SideSlot.reset : SideSlot := ⟨false, false, 0, 0, 0, false, 0, []⟩

/-- A core as a start leaves it (03 R83, 04 R111, 05 R143, 06 R178, 07 R210, 09 R273). -/
def CoreSt.reset : CoreSt :=
  ⟨[], ⟨[], [], []⟩, [], [], [], 1, 0, [SideSlot.reset, SideSlot.reset, SideSlot.reset, SideSlot.reset], [], [],
    Stream.reset, Stream.reset, Stream.reset, [], [], 0, [0, 0, 0, 0]⟩

/-- The attributes of a tile by its index (04 R84). -/
def CoreSt.tile (c : CoreSt) (ti : Nat) : TileAttr := sget TileAttr.reset ti c.tiles

def CoreSt.setTile (c : CoreSt) (ti : Nat) (t : TileAttr) : CoreSt :=
  { c with tiles := sput TileAttr.reset ti t c.tiles }

/-- Weight buffer `w` of engine `e`. -/
def CoreSt.wb (c : CoreSt) (e w : Nat) : WBuf := sget WBuf.reset (2 * e + w) c.wbs

def CoreSt.setWb (c : CoreSt) (e w : Nat) (x : WBuf) : CoreSt :=
  { c with wbs := sput WBuf.reset (2 * e + w) x c.wbs }

/-- Stream 1 is F, 2 is B, 3 is U (09 R241). -/
def CoreSt.stream (c : CoreSt) : Nat → Stream
  | 1 => c.sF
  | 2 => c.sB
  | _ => c.sU

def CoreSt.setStream (c : CoreSt) (i : Nat) (x : Stream) : CoreSt :=
  match i with
  | 1 => { c with sF := x }
  | 2 => { c with sB := x }
  | _ => { c with sU := x }

/-- Tile index of a tile of an engine (04 R84). A TILE above 1 on ME0 to ME2, which the load checks refuse (04 R106), names tile TILE
modulo 2 when a word is changed after them (DESIGN CHOICE, log entry 12). -/
def tileIdx (e t : Nat) : Nat := if e = 3 then 6 + t else 2 * e + t % 2

/-- The engine that a tile index belongs to (04 R84). -/
def tileEng (ti : Nat) : Nat := if ti < 6 then ti / 2 else 3

end Sys2Proof.Machine
end

