-- ==== Sys2Proof/Machine/CoreMem.lean ====
section
/-!
DEFINITION. Machine/CoreMem.lean: the core-local address space (09 R268): core memory and the accumulator window with its
tiles and descriptors (04 R84, R86, R92-R94), read and written by bytes, and accumulator words with their parity (04 R110).
-/

namespace Sys2Proof.Machine

/-- Bytes of core memory, 2.5 MiB (09 R268). -/
def coreMemSize : Nat := 0x280000

/-- The accumulator window of the core-local space (09 R268). -/
def winBase : Nat := 0x400000
def winSize : Nat := 0x100000

/-- The core-local address space is 32 bits wide (09 R268): operand addresses are bits [31:0], sums modulo 2^32. -/
def loc32 (a : Nat) : Nat := a % 2 ^ 32

/-- A range lies wholly in core memory or wholly in the accumulator window (09 R268); an empty range reaches nothing. -/
def rangeOk (a n : Nat) : Bool :=
  n = 0 || loc32 a + n ≤ coreMemSize || (winBase ≤ loc32 a && loc32 a + n ≤ winBase + winSize)

/-- The key of an accumulator word: tile index, physical row, column. -/
def accKey (ti p c : Nat) : Nat := ti * 8192 + p * 64 + c

/-- The key of an occupancy bit: element (r, c) and ladder slot k of a tile. -/
def occKey (ti r c k : Nat) : Nat := ((ti * 128 + r) * 64 + c) * 4 + k

/-- A word as stored. -/
def AccMem.word (m : AccMem) (k : Nat) : Nat := sget 0 k m.words

/-- A word as a port reads it: canonical NaN where its parity is bad (04 R110). -/
def AccMem.read (m : AccMem) (k : Nat) : Nat := if m.bad.contains k then qNaN else m.word k

/-- A whole word written, with good parity (04 R110). -/
def AccMem.write (m : AccMem) (k v : Nat) : AccMem :=
  { m with words := sput 0 k v m.words, bad := m.bad.filter (· ≠ k) }

/-- Bytes of a word merged; the parity stays as it was (04 R110). -/
def AccMem.merge (m : AccMem) (k v : Nat) : AccMem := { m with words := sput 0 k v m.words }

/-- What lies at a window offset (04 R92). -/
inductive WinAt where
  | word (key : Nat)
  | desc (ti : Nat)
  | none
  deriving DecidableEq, Repr

def winAt (o : Nat) : WinAt :=
  if o < 0x30000 then .word (accKey (o / 0x8000) (o % 0x8000 / 256) (o % 256 / 4))
  else if o < 0x40000 then .none
  else if o < 0xC0000 then .word (accKey (6 + (o - 0x40000) / 0x8000) (o % 0x8000 / 256) (o % 256 / 4))
  else if o < 0xC00B0 then .desc ((o - 0xC0000) / 8)
  else .none

/-- The tile index whose words an offset of the window lies in (04 R92). -/
def winTile (o : Nat) : Option Nat :=
  match winAt o with
  | .word k => some (k / 8192)
  | _ => none

/-- Tiles that a core-local range touches (04 R91). -/
def rangeTiles (a n : Nat) : List Nat :=
  if n = 0 || loc32 a < winBase || winBase + winSize ≤ loc32 a then []
  else
    let o := loc32 a - winBase
    (List.range 22).filter fun ti =>
      let base := if ti < 6 then ti * 0x8000 else 0x40000 + (ti - 6) * 0x8000
      base < o + n && o < base + 0x8000

/-- Engines that an EMASK names. -/
def engs (w : Word) : List Nat := [0, 1, 2, 3].filter fun e => bitsOf w 55 52 / 2 ^ e % 2 = 1

/-- Two lists share an element. -/
def meet (a b : List Nat) : Bool := a.any fun x => b.contains x

/-- The weight buffer that an MWLD loads or an MMUL applies. -/
def wbufOf (j : Job) : Nat := if j.kind = .mwld then bitsOf j.word 35 35 else bitsOf j.word 28 28

/-- An earlier instruction that a later one waits for (03 R74, 04 R91). -/
def waitsFor (j e : Job) : Bool :=
  e.ord < j.ord &&
    (meet j.tiles e.tiles || meet j.ports e.ports
      || (j.kind = .mmul && e.kind = .mmul && meet (engs j.word) (engs e.word))
      || (j.kind = .mwld && e.kind = .mwld && meet (engs j.word) (engs e.word))
      || (((j.kind = .mmul && e.kind = .mwld) || (j.kind = .mwld && e.kind = .mmul))
          && meet (engs j.word) (engs e.word) && wbufOf j = wbufOf e)
      || (j.kind = .ssmul && e.kind = .ssmul))

/-- A job may complete now: nothing earlier that it waits for is in progress (03 R74, 04 R91, 05 R124). -/
def CoreSt.mayEnd (c : CoreSt) (j : Job) : Bool := !c.jobs.any (waitsFor j)

/-- GANG of an MMUL (03 R76). -/
def mmGang (w : Word) : Bool := bitsOf w 21 21 = 1

/-- The engines whose tiles an MMUL adds into: ME3 alone with GANG (03 R65, R76). -/
def mmTargets (w : Word) : List Nat := if mmGang w then (if (engs w).isEmpty then [] else [3]) else engs w

/-- The tiles that a job reaches through side ports: its own for DRAIN and ACCLD, else those that its ranges touch (04 R91). -/
def sideTiles (j : Job) : List Nat := if j.kind = .mmul then j.tiles.drop (mmTargets j.word).length else j.tiles

/-- The engines whose side ports a job's window accesses use (04 R91). -/
def winPorts (j : Job) : List Nat := if j.kind = .drain || j.kind = .accld then j.ports.drop 1 else j.ports

/-- A side port holds this tile for a DRAIN, ACCLD or window access that no earlier operation keeps waiting (04 R91, R94). -/
def CoreSt.sideHeld (c : CoreSt) (ti : Nat) : Bool := c.jobs.any fun j => (sideTiles j).contains ti && c.mayEnd j

/-- A tile descriptor (04 R94). -/
def CoreSt.tileDesc (c : CoreSt) (ti : Nat) : Nat :=
  let t := c.tile ti
  t.count * 2 ^ 33 + t.depth * 2 ^ 28 + (if t.typ then 2 ^ 27 else 0) + t.owner * 2 ^ 25
    + (if c.sideHeld ti then 2 ^ 24 else 0) + t.tev

/-- One byte of the core-local space (04 R92, R110, 09 R268). -/
def CoreSt.locByte (c : CoreSt) (a : Nat) : Nat :=
  let a := loc32 a
  if a < coreMemSize then (memByte c.mem a).toNat
  else if winBase ≤ a ∧ a < winBase + winSize then
    let o := a - winBase
    match winAt o with
    | .word k => c.acc.read k / 256 ^ (o % 4) % 256
    | .desc ti => c.tileDesc ti / 256 ^ (o % 8) % 256
    | .none => 0
  else 0

/-- Bytes of the core-local space from an address upwards. -/
def CoreSt.locBytes (c : CoreSt) (a : Nat) : Nat → List Nat
  | 0 => []
  | n + 1 => c.locByte a :: c.locBytes (a + 1) n

/-- A little-endian number of `n` bytes of the core-local space. -/
def CoreSt.locNat (c : CoreSt) (a n : Nat) : Nat := ofLeBytes (c.locBytes a n)

/-- One byte stored in the core-local space; reserved places and descriptors ignore it (04 R92). -/
def CoreSt.locPut (c : CoreSt) (a b : Nat) : CoreSt :=
  let a := loc32 a
  if a < coreMemSize then { c with mem := memPut c.mem a (BitVec.ofNat 8 b) }
  else if winBase ≤ a ∧ a < winBase + winSize then
    let o := a - winBase
    match winAt o with
    | .word k =>
      let w := c.acc.word k
      let sh := 256 ^ (o % 4)
      { c with acc := c.acc.merge k (w / (sh * 256) * (sh * 256) + b % 256 * sh + w % sh) }
    | _ => c
  else c

/-- Whole words of the window that a store of `n` bytes at `a` covers get good parity (04 R110). -/
def CoreSt.healed (c : CoreSt) (a n : Nat) : CoreSt :=
  let a := loc32 a
  if winBase ≤ a ∧ a < winBase + winSize then
    let o := a - winBase
    { c with acc := { c.acc with bad := c.acc.bad.filter fun k =>
        !((List.range (n / 4 + 1)).any fun i =>
            let w := (o + 3) / 4 * 4 + 4 * i
            decide (w + 4 ≤ o + n) && decide (winAt w = .word k)) } }
  else c

/-- Bytes stored one after the other. -/
def CoreSt.locPuts (c : CoreSt) (a : Nat) : List Nat → CoreSt
  | [] => c
  | b :: bs => (c.locPut a b).locPuts (a + 1) bs

/-- Bytes stored in the core-local space from an address upwards (04 R92, R93, R110). -/
def CoreSt.locStore (c : CoreSt) (a : Nat) (bs : List Nat) : CoreSt := (c.locPuts a bs).healed a bs.length

/-- Bad words that a read of `n` bytes at `a` meets (04 R110). -/
def CoreSt.badIn (c : CoreSt) (a n : Nat) : Nat :=
  let a := loc32 a
  if winBase ≤ a ∧ a < winBase + winSize then
    let o := a - winBase
    ((List.range ((o % 4 + n + 3) / 4)).filter fun i =>
      match winAt (o / 4 * 4 + 4 * i) with
      | .word k => c.acc.bad.contains k
      | _ => false).length
  else 0

/-- Element encodings laid out from a byte string: `n` elements of a format (02 R36). -/
def Fmt.unpack (t : Fmt) (n : Nat) (bs : List Nat) : List Nat :=
  (List.range n).map fun i =>
    if t.bits = 4 then bs.getD (i / 2) 0 / 16 ^ (i % 2) % 16
    else ofLeBytes ((bs.drop (i * (t.bits / 8))).take (t.bits / 8))

/-- `n` element encodings at a core-local address (02 R36). -/
def CoreSt.elems (c : CoreSt) (t : Fmt) (a n : Nat) : List Nat := t.unpack n (c.locBytes a (t.bytes n))

/-- Scale words of `n` positions at a core-local address: none for a wide format (02 R34, R36). -/
def CoreSt.scales (c : CoreSt) (t : Fmt) (a n : Nat) : List Nat :=
  if t.narrow then (List.range ((n + 31) / 32)).map fun i => c.locNat (a + 2 * i) 2 else []

/-- Bytes that writing `n` elements stores: whole blocks in a narrow format, whose tail the quantiser pads with +0 (02 R34, R36). -/
def Fmt.outBytes (t : Fmt) (n : Nat) : Nat := t.bytes (if t.narrow then (n + 31) / 32 * 32 else n)

/-- Bytes of the scale words of `n` positions (02 R34). -/
def Fmt.scaleBytes (t : Fmt) (n : Nat) : Nat := if t.narrow then 2 * ((n + 31) / 32) else 0

/-- A row of `n` positions decoded with its block scales (02 R37). -/
def Fmt.decodeRow (t : Fmt) (els scs : List Nat) : List Val :=
  els.zipIdx.map fun p => if t.narrow then t.decodeBlockElem (scs.getD (p.2 / 32) 0) p.1 else t.decode p.1

/-- `n` values at a core-local element and scale address (02 R36, R37). -/
def CoreSt.values (c : CoreSt) (t : Fmt) (a sa n : Nat) : List Val := t.decodeRow (c.elems t a n) (c.scales t sa n)

end Sys2Proof.Machine
end

