-- ==== Sys2Proof/Machine/EngineMath.lean ====
section
/-!
DEFINITION. Machine/EngineMath.lean: what a matrix engine computes: chunks, runs, trees, the gang tree and the ladder
(03 R57-R67), on the accumulator memory of a core.
-/

namespace Sys2Proof.Machine

/-- Chunk length of a format in a mode (03 R57). -/
def chunkLen (f : Fmt) (m : AccMode) : Nat :=
  match f with
  | .f32 => 32
  | .b16 => if m = .a16 then 64 else 32
  | .h16 => if m = .a16 then 64 else 32
  | .f8e4 => 128
  | .f8e5 => 128
  | .i8 => 128
  | .f4 => 256
  | .i4 => 256

/-- Narrow run length (03 R57); 1 for wide formats. -/
def runLen (f : Fmt) : Nat := if f.narrow then (if f.bits = 4 then 8 else 4) else 1

/-- A mode that a format allows by itself (03 R58). -/
def modeAllows (f : Fmt) (m : AccMode) : Bool :=
  match m with
  | .a32 => !f.isInt
  | .a16 => f = .b16 || f = .h16
  | .i32 => f.isInt

/-- The accepted pairs of activation and weight format (03 R58). -/
def pairOk (a w : Fmt) (m : AccMode) : Bool :=
  modeAllows a m && modeAllows w m &&
    (match a with
    | .b16 | .h16 => w = .b16 || w = .h16
    | .f8e4 | .f8e5 => w = .f8e4 || w = .f8e5
    | f => w = f)

/-- Inputs of a column tree (03 R57). -/
def treeWidth (m : AccMode) : Nat := if m = .a16 then 64 else 32

/-- Which parts of split operands a pass multiplies (03 R63). -/
inductive SplitPart where
  | whole | hi | lo
  deriving DecidableEq, Repr

/-- The B16 value of a conversion. -/
def b16val (rm : Rnd) (v : Val) : Val := Fmt.b16.decode (Fmt.b16.ofVal rm 0 v).val

/-- hi and lo of an F32 element (03 R63). -/
def splitPart (p : SplitPart) (v : Val) : Val :=
  match p with
  | .whole => v
  | .hi => b16val .rtz v
  | .lo => if v.isFinite then b16val .rne (v.add (b16val .rtz v).neg) else Val.zero

/-- Event bit of a leaf or stored value that is not finite (03 R62). -/
def nonfinEv (v : Nat) : Nat := if (f32v v).isFinite then 0 else tevNonfinite

/-- One operand row of a pass in one engine: element values with block scales, the elements as integers (I32 mode), the
scale words. Positions beyond KV are left out; their products are +0 (03 R59). -/
structure OpRow where
  vals : List Val
  els : List Nat
  scs : List Nat
  deriving DecidableEq, Repr

/-- Element value of an integer format in I32 mode: zero in a FLAG_Z or non-finite block (03 R64). -/
def intElem (t : Fmt) (r : OpRow) (i : Nat) : Int :=
  let sw := r.scs.getD (i / 32) 0
  if sw % 256 = 255 || sw / 256 % 2 = 1 then 0
  else
    let h := 2 ^ (t.bits - 1)
    let x := r.els.getD i 0
    if x < h then Int.ofNat x else Int.ofNat x - 2 ^ t.bits

/-- Events of a block used in I32 mode (03 R64): I32_SCALE for a finite block with a code other than 0x7F, NONFINITE for 0xFF.
A FLAG_Z block raises neither (DEDUCED, log entry 12). -/
def intBlockEv (sw : Nat) : Nat :=
  if sw % 256 = 255 then tevNonfinite
  else if sw / 256 % 2 = 1 then 0
  else if sw % 256 = 127 then 0 else tevI32Scale

/-- The exact sum of a run's products with IEEE 754 infinities (03 R61): -0 only when every product is -0. -/
def runSum (l : List Val) : Val :=
  if l.any Val.isNaN then .nan
  else
    let pos := l.any fun v => v = .inf false
    let neg := l.any fun v => v = .inf true
    if pos && neg then .nan
    else if pos then .inf false
    else if neg then .inf true
    else
      let d := l.foldl (fun a v => a.add v.toDy) Dy.zero
      d.toVal (l.all fun v => v.isZero && v.isNeg)

/-- The product at a reduction position: +0 at or beyond KV (03 R59). -/
def prodAt (a w : List Val) (kv i : Nat) : Val :=
  if i < kv then (a.getD i Val.zero).mul (w.getD i Val.zero) else Val.zero

/-- The leaf of tree input g of one column (03 R61, R64). -/
def leafAt (af wf : Fmt) (m : AccMode) (a w : OpRow) (kv g : Nat) : WithEv Nat :=
  let rho := runLen af
  match m with
  | .i32 =>
    let s := (List.range rho).foldl (fun acc j =>
      let i := rho * g + j
      if i < kv then acc + intElem af a i * intElem wf w i else acc) (0 : Int)
    let ev := if rho * g < kv then intBlockEv (a.scs.getD (rho * g / 32) 0) ||| intBlockEv (w.scs.getD (rho * g / 32) 0) else 0
    ⟨ofI32 s, ev⟩
  | .a16 => let r := rneA16 (prodAt a.vals w.vals kv g); ⟨r, nonfinEv r⟩
  | .a32 =>
    if af.narrow then
      let s := runSum ((List.range rho).map fun j => prodAt a.vals w.vals kv (rho * g + j))
      let r := f32rne s
      ⟨r, nonfinEv r ||| (if s.isFinite && !(f32v r).isFinite then tevRunOvf else 0)⟩
    else let r := f32rne (prodAt a.vals w.vals kv g); ⟨r, nonfinEv r⟩

/-- One tree of a column over its leaves (03 R65). -/
def columnTree (af wf : Fmt) (m : AccMode) (a w : OpRow) (kv : Nat) : WithEv Nat :=
  treeTop (treeNode m) ⟨0, 0⟩ ((List.range (treeWidth m)).map (leafAt af wf m a w kv))

/-- A row with the parts of its elements that a split pass uses (03 R63). -/
def OpRow.part (r : OpRow) (p : SplitPart) : OpRow := { r with vals := r.vals.map (splitPart p) }

/-- chunk() of 03 R65: plain, or the three passes of split-B16. -/
def chunkOf (af wf : Fmt) (m : AccMode) (a w : OpRow) (kv : Nat) : WithEv Nat :=
  if af = .f32 then
    let lh := columnTree af wf m (a.part .lo) (w.part .hi) kv
    let hl := columnTree af wf m (a.part .hi) (w.part .lo) kv
    let hh := columnTree af wf m (a.part .hi) (w.part .hi) kv
    treeNode .a32 (treeNode .a32 lh hl) hh
  else columnTree af wf m a w kv

/-- The gang tree over four engines; exact in I32 mode (03 R65; DEDUCED, log entry 12). -/
def gangTree (m : AccMode) (g : List (WithEv Nat)) : WithEv Nat :=
  let n := treeNode (if m = .i32 then .i32 else .a32)
  n (n (g.getD 0 ⟨0, 0⟩) (g.getD 1 ⟨0, 0⟩)) (n (g.getD 2 ⟨0, 0⟩) (g.getD 3 ⟨0, 0⟩))

/-- Accumulator memory in the course of a pass: the memory, event bits gathered, parity errors met. -/
structure Pass where
  m : AccMem
  ev : Nat
  perr : Nat
  deriving DecidableEq, Repr

/-- Reads a word through the main port (04 R110). -/
def Pass.read (p : Pass) (k : Nat) : Nat × Pass :=
  if p.m.bad.contains k then (qNaN, { p with ev := p.ev ||| tevNonfinite, perr := p.perr + 1 }) else (p.m.word k, p)

def Pass.write (p : Pass) (k v : Nat) : Pass := { p with m := p.m.write k v }

def Pass.isOcc (p : Pass) (k : Nat) : Bool := p.m.occ.contains k

def Pass.setOcc (p : Pass) (k : Nat) : Pass := { p with m := { p.m with occ := setIns k p.m.occ } }

def Pass.clrOcc (p : Pass) (k : Nat) : Pass := { p with m := { p.m with occ := p.m.occ.filter (· ≠ k) } }

def Pass.addEv (p : Pass) (e : Nat) : Pass := { p with ev := p.ev ||| e }

/-- Key of the accumulator word of output row r (04 R86). -/
def accWordKey (ti l r c : Nat) : Nat := accKey ti (r * (l + 1)) c

/-- Key of ladder slot k of output row r (04 R86). -/
def slotKey (ti l r c k : Nat) : Nat := accKey ti (r * (l + 1) + 1 + k) c

/-- acc := acc_add(acc, v) (03 R65). -/
def Pass.addAcc (p : Pass) (m : AccMode) (key : Nat) (v : WithEv Nat) : Pass :=
  let r := p.read key
  let s := accAdd m ⟨r.1, 0⟩ v
  (r.2.write key s.val).addEv s.ev

/-- Level `lvl` of ladder_push with `fuel` levels to go (03 R65). -/
def ladderPushFrom (m : AccMode) (ti l r c : Nat) : Nat → Nat → WithEv Nat → Pass → Pass
  | 0, _, x, p => p.addAcc m (accWordKey ti l r c) x
  | f + 1, lvl, x, p =>
    if p.isOcc (occKey ti r c lvl) then
      let s := p.read (slotKey ti l r c lvl)
      ladderPushFrom m ti l r c f (lvl + 1) (accAdd m ⟨s.1, 0⟩ x) (s.2.clrOcc (occKey ti r c lvl))
    else ((p.write (slotKey ti l r c lvl) x.val).setOcc (occKey ti r c lvl)).addEv x.ev

/-- ladder_push of 03 R65. -/
def ladderPush (m : AccMode) (ti l r c : Nat) (x : WithEv Nat) (p : Pass) : Pass := ladderPushFrom m ti l r c l 0 x p

/-- Levels `lvl` upwards of ladder_flush, with the partial sum so far (03 R65). -/
def ladderFlushFrom (m : AccMode) (ti l r c : Nat) : Nat → Nat → Option (WithEv Nat) → Pass → Pass
  | 0, _, none, p => p
  | 0, _, some x, p => p.addAcc m (accWordKey ti l r c) x
  | f + 1, lvl, part, p =>
    if p.isOcc (occKey ti r c lvl) then
      let s := p.read (slotKey ti l r c lvl)
      let y : WithEv Nat := match part with
        | none => ⟨s.1, 0⟩
        | some x => accAdd m ⟨s.1, 0⟩ x
      ladderFlushFrom m ti l r c f (lvl + 1) (some y) (s.2.clrOcc (occKey ti r c lvl))
    else ladderFlushFrom m ti l r c f (lvl + 1) part p

/-- ladder_flush of 03 R65. -/
def ladderFlush (m : AccMode) (ti l r c : Nat) (p : Pass) : Pass := ladderFlushFrom m ti l r c l 0 none p

/-- The initial value of a covered element (03 R65, 04 R87): the preload, or +0; occupancy cleared. -/
def initElem (pre : Bool) (m : AccMode) (ti l r c : Nat) (p : Pass) : Pass :=
  let k := accWordKey ti l r c
  let q := if pre then
      let x := p.read k
      (x.2.write k x.1).addEv (if m = .i32 then 0 else nonfinEv x.1)
    else p.write k 0
  (List.range l).foldl (fun q j => q.clrOcc (occKey ti r c j)) q

/-- What an MMUL applies to one tile, its operands read: rows of activations and columns of weights, one list of each an engine
taking part (one, or four with GANG), the rows the engines hold, the Sideshow words (03 R60, R65). -/
structure MmulIn where
  ti : Nat
  af : Fmt
  wfs : List Fmt
  mode : AccMode
  l : Nat
  ldt : Nat
  row0 : Nat
  init : Bool
  pre : Bool
  gang : Bool
  nc : Nat
  acts : List (List OpRow)
  cols : List (List OpRow)
  kvs : List Nat
  ncs : List Nat
  side : Option (List (Nat × Nat))
  deriving DecidableEq, Repr

/-- ladder_input of 03 R65 for row i of the pass and column j. -/
def ladderInput (x : MmulIn) (i j : Nat) : WithEv Nat :=
  let one := fun e =>
    if j < x.ncs.getD e 0 then
      chunkOf x.af (x.wfs.getD e x.af) x.mode ((x.acts.getD e []).getD i ⟨[], [], []⟩) ((x.cols.getD e []).getD j ⟨[], [], []⟩) (x.kvs.getD e 0)
    else ⟨0, 0⟩
  if x.gang then gangTree x.mode [one 0, one 1, one 2, one 3] else one 0

/-- Sideshow word of element (r, j); +0 where no slot is bound (03 R67, 05 R123). -/
def sideWord (w : List (Nat × Nat)) (i j : Nat) : Nat := sget 0 (i * 64 + j) w

/-- DESIGN CHOICE (log entry 12): with SIDE = 1 in I32 mode the Sideshow word, an F32 pattern (05 R122), joins the I32 accumulator as the integer
that its bits are, and raises NONFINITE by its reading as F32; the spec does not say how the two meet. mmul_accumulate of 03 R65 on one tile: the tile's attributes and the accumulator memory after it, with parity errors. -/
def mmulTile (x : MmulIn) (n : Nat) (t : TileAttr) (am : AccMem) : TileAttr × AccMem × Nat × Nat :=
  let t := if x.init then { t with typ := x.mode = .i32, depth := x.l, tev := 0, count := 0 } else t
  let t := if x.l > 0 ∧ t.count = 0 then { t with ldt := x.ldt, row0 := x.row0, rows := n } else t
  let am := if x.init then { am with occ := am.occ.filter fun k => k / 32768 ≠ x.ti } else am
  let els := (List.range n).flatMap fun i => (List.range x.nc).map fun j => (i, j)
  let p : Pass := ⟨am, 0, 0⟩
  let p := if x.init then els.foldl (fun p (e : Nat × Nat) => initElem x.pre x.mode x.ti x.l (x.row0 + e.1) e.2 p) p else p
  let p := els.foldl (fun p (e : Nat × Nat) => ladderPush x.mode x.ti x.l (x.row0 + e.1) e.2 (ladderInput x e.1 e.2) p) p
  let cnt := t.count + 1
  let full := x.l > 0 && cnt = t.ldt
  let p := if full then
      (List.range t.rows).foldl (fun p i => (List.range 64).foldl (fun p c => ladderFlush x.mode x.ti x.l (t.row0 + i) c p) p) p
    else p
  let t := if x.l > 0 then { t with count := if full then 0 else cnt } else t
  let p := match x.side with
    | none => p
    | some w => els.foldl (fun p (e : Nat × Nat) => p.addAcc x.mode (accWordKey x.ti x.l (x.row0 + e.1) e.2) ⟨sideWord w (x.row0 + e.1) e.2, nonfinEv (sideWord w (x.row0 + e.1) e.2)⟩) p
  ({ t with tev := t.tev ||| p.ev }, p.m, p.ev, p.perr)

end Sys2Proof.Machine
end

