-- ==== Sys2Proof/Machine/Quant.lean ====
section
/-!
DEFINITION. Machine/Quant.lean: quantisation control as arithmetic: rotation (05 R113-R115), clip-tally counts (05 R126),
writing a row of values in a format with its flags (02 R47, R52, 05 R120, R132).
-/

namespace Sys2Proof.Machine

/-- mix64 of 05 R114. -/
def mix64 (z0 : Nat) : Nat :=
  let m := 2 ^ 64
  let z := z0 % m
  let z := (Nat.xor z (z / 2 ^ 30) * 0xBF58476D1CE4E5B9) % m
  let z := (Nat.xor z (z / 2 ^ 27) * 0x94D049BB133111EB) % m
  Nat.xor z (z / 2 ^ 31)

/-- The sign bit of reduction position p under a seed (05 R114). -/
def signBit (seed p : Nat) : Bool :=
  mix64 ((seed + (p % 2 ^ 32 / 64 + 1) * 0x9E3779B97F4A7C15) % 2 ^ 64) / 2 ^ (p % 64) % 2 = 1

/-- One butterfly stage of span h on a segment (05 R115). -/
def butterfly (h : Nat) (x : List Nat) : List Nat :=
  (List.range x.length).map fun i =>
    if i / h % 2 = 0 then fadd (x.getD i 0) (x.getD (i + h) 0) else fsub (x.getD (i - h) 0) (x.getD i 0)

/-- The k butterfly stages. -/
def butterflies : Nat → Nat → List Nat → List Nat
  | 0, _, x => x
  | k + 1, h, x => butterflies k (2 * h) (butterfly h x)

/-- rotate() of 05 R115 on one segment of 2^k elements, as F32 patterns. -/
def rotateSeg (k : Nat) (weight : Bool) (seed p0 : Nat) (fwd : Bool) (x : List Nat) : List Nat :=
  let e : Int := if (!weight) = fwd then -(Int.ofNat (k / 2)) else -(Int.ofNat ((k + 1) / 2))
  let flip := fun (l : List Nat) => l.zipIdx.map fun q => if signBit seed (p0 + q.2) then fneg q.1 else q.1
  let x := if fwd then flip x else x
  let x := (butterflies k 1 x).map fun v => fscale v e
  if fwd then x else flip x

/-- A row rotated segment by segment (05 R113, R115). -/
def rotateRow (k : Nat) (weight : Bool) (seed p0 : Nat) (fwd : Bool) (x : List Nat) : List Nat :=
  (chunksFuel x.length (2 ^ k) x).zipIdx.flatMap fun q => rotateSeg k weight seed (p0 + q.2 * 2 ^ k) fwd q.1

/-- The counts of a delivery to a clip tally (05 R126). -/
structure TallyCount where
  elems : Nat
  lo : Nat
  hi : Nat
  blocks : Nat
  zero : Nat
  sat : Nat
  exh : Nat
  nf : Nat
  deriving DecidableEq, Repr

def TallyCount.none : TallyCount := ⟨0, 0, 0, 0, 0, 0, 0, 0⟩

def TallyCount.add (a b : TallyCount) : TallyCount :=
  ⟨a.elems + b.elems, a.lo + b.lo, a.hi + b.hi, a.blocks + b.blocks, a.zero + b.zero, a.sat + b.sat, a.exh + b.exh, a.nf + b.nf⟩

/-- Counts of one narrow block (05 R126); `listed i` marks the extracted positions. -/
def tallyBlock (t : Fmt) (listed : Nat → Bool) (x : List Val) (q : QBlock) : TallyCount :=
  let fl := q.scale / 256
  let one := fun (c : Bool) => if c then 1 else 0
  if q.scale % 256 = 255 then ⟨0, 0, 0, 1, 0, 0, 0, 1⟩
  else
    let s := Int.ofNat (q.scale % 256) - 127
    let real := (x.zipIdx.filter fun p => !listed p.2)
    let lo := (real.filter fun p => !p.1.isZero && (q.enc.getD p.2 0) = 0).length
    let hi := (real.filter fun p => t.maxfin.lt (p.1.toDy.scale (-s)).abs).length
    ⟨real.length, lo, hi, 1, one (fl % 2 = 1), one (fl / 2 % 2 = 1), one (q.ev &&& evScaleExhausted ≠ 0), 0⟩

/-- Counts of one wide element (05 R126): its input value and the events of its conversion. -/
def tallyWide (v : Val) (ev : Nat) : TallyCount :=
  if v.isFinite then
    ⟨1, if ev &&& evUnderflow ≠ 0 then 1 else 0, if ev &&& evOverflow ≠ 0 then 1 else 0, 0, 0, 0, 0, 0⟩
  else TallyCount.none

/-- A row of values written in a format: element bytes, scale bytes, events, tally counts. -/
structure RowOut where
  elems : List Nat
  scales : List Nat
  ev : Nat
  tally : TallyCount
  deriving DecidableEq, Repr

/-- Writes F32 patterns as a row in a format (02 R47, R52): an F32 output copies the patterns and raises no event
(06 R163); `listed` marks extracted positions, `keep` the FLAG_O and FLAG_E bits of each block. -/
def writeRow (t : Fmt) (fixed : Option Nat) (rm : Rnd) (rnd : Nat → Nat) (keep : Nat → Nat) (listed : Nat → Bool)
    (x : List Nat) : RowOut :=
  if t = .f32 then
    ⟨x.flatMap (leBytes 4), [], 0, x.foldl (fun a v => a.add (tallyWide (f32v v) 0)) TallyCount.none⟩
  else
    let vs := x.map f32v
    let e := encodeRow t fixed rm rnd keep vs
    let tl := if t.narrow then
        ((blocks32 vs).zip e.blocks).zipIdx.foldl
          (fun a p => a.add (tallyBlock t (fun i => listed (32 * p.2 + i)) p.1.1 p.1.2)) TallyCount.none
      else vs.zipIdx.foldl (fun a p => a.add (tallyWide p.1 (t.ofVal rm (rnd p.2) p.1).ev)) TallyCount.none
    ⟨e.elems, e.scales, e.ev, tl⟩

/-- An element read into the vector engine or drain as an F32 pattern: an F32 source is copied (06 R163), any other is
converted with RNE (02 R52). -/
def loadF32 (t : Fmt) (enc : Nat) (v : Val) : WithEv Nat :=
  if t = .f32 then ⟨enc, 0⟩ else Fmt.f32.ofVal .rne 0 v

/-- `n` elements of a row read as F32 patterns with the events of their conversion. -/
def CoreSt.loadRow (c : CoreSt) (t : Fmt) (a sa n : Nat) : List (WithEv Nat) :=
  ((c.elems t a n).zip (c.values t a sa n)).map fun p => loadF32 t p.1 p.2

end Sys2Proof.Machine
end

