-- ==== Sys2Proof/Machine/MicroOp.lean ====
section
/-!
DEFINITION. Machine/MicroOp.lean: element micro-programs of the vector engine (06 R156-R161), lane by lane, the fixed
activations of the drain (04 R97) and the reductions and kernels of 06 R166-R170.
-/

namespace Sys2Proof.Machine

/-- Bits [hi:lo] of a natural number. -/
def nbits (w hi lo : Nat) : Nat := w / 2 ^ lo % 2 ^ (hi + 1 - lo)

/-- The slot constants and indices that a lane can select (06 R157). -/
structure LaneEnv where
  consts : List Nat
  col : Nat
  row : Nat
  deriving DecidableEq, Repr

/-- A source selector (06 R157). -/
def selectSrc (e : LaneEnv) (v : List Nat) (s : Nat) : Nat :=
  if s < 16 then v.getD s 0
  else if s < 20 then e.consts.getD (s - 16) 0
  else if s = 20 then 0
  else if s = 21 then fOne
  else if s = 22 then e.col % 2 ^ 32
  else if s = 23 then e.row % 2 ^ 32
  else 0

/-- Operations that take NA, AA and NB (06 R157). -/
def uopTakesMods (op : Nat) : Bool := (1 ≤ op && op ≤ 0xD) || (0x18 ≤ op && op ≤ 0x1A)

/-- Operation codes listed in 06 R157. -/
def uopKnown (op : Nat) : Bool := (1 ≤ op && op ≤ 0xE) || (0x10 ≤ op && op ≤ 0x1D)

/-- Operations with two sources or more, and with three (06 R157). -/
def uopUsesB (op : Nat) : Bool := (2 ≤ op && op ≤ 6) || (0x10 ≤ op && op ≤ 0x1D)
def uopUsesC (op : Nat) : Bool := op = 4 || op = 0x1D

/-- EXP with its events (06 R159). -/
def expE (a : Nat) : WithEv Nat :=
  let r := vexp a
  ⟨r, floatEv [a] r ||| (if (f32v a).isFinite && (f32v r).isZero then evUnderflow else 0)⟩

/-- F2I with its events (06 R158). -/
def f2iE (rm : Rnd) (a : Nat) : WithEv Nat :=
  let ev := match f32v a with
    | .nan => evNonfinite
    | .inf _ => evOverflow
    | v =>
      let k := v.toIntRnd rm
      if k < -(2 ^ 31 : Int) ∨ (2 ^ 31 - 1 : Int) < k then evOverflow else 0
  ⟨f2i rm a, ev⟩

/-- A comparison result (06 R157). -/
def maskOf (b : Bool) : Nat := if b then 0xFFFFFFFF else 0

/-- The result and events of an operation on its source patterns (06 R157, R158). -/
def uopResult (op a b c : Nat) : WithEv Nat :=
  let fl := fun (ins : List Nat) (r : Nat) => (⟨r, floatEv ins r⟩ : WithEv Nat)
  let m := 2 ^ 32
  match op with
  | 0x01 => ⟨a, 0⟩
  | 0x02 => fl [a, b] (fadd a b)
  | 0x03 => fl [a, b] (fmul a b)
  | 0x04 => fl [a, b, c] (ffma a b c)
  | 0x05 => fl [a, b] (fmin a b)
  | 0x06 => fl [a, b] (fmax a b)
  | 0x07 => expE a
  | 0x08 => fl [a] (vlog a)
  | 0x09 => fl [a] (vrsqrt a)
  | 0x0A => fl [a] (frint .rne a)
  | 0x0B => fl [a] (frint .rtz a)
  | 0x0C => f2iE .rne a
  | 0x0D => f2iE .rtz a
  | 0x0E => ⟨i2f a, 0⟩
  | 0x10 => ⟨(a + b) % m, 0⟩
  | 0x11 => ⟨(a + m - b) % m, 0⟩
  | 0x12 => ⟨Nat.land a b, 0⟩
  | 0x13 => ⟨Nat.lor a b, 0⟩
  | 0x14 => ⟨Nat.xor a b, 0⟩
  | 0x15 => ⟨a * 2 ^ (b % 32) % m, 0⟩
  | 0x16 => ⟨a / 2 ^ (b % 32), 0⟩
  | 0x17 => ⟨ofI32 (asI32 a / Int.ofNat (2 ^ (b % 32))), 0⟩
  | 0x18 => ⟨maskOf ((f32v a).lt (f32v b)), 0⟩
  | 0x19 => ⟨maskOf ((f32v a).le (f32v b)), 0⟩
  | 0x1A => ⟨maskOf ((f32v a).eq (f32v b)), 0⟩
  | 0x1B => ⟨maskOf (asI32 a < asI32 b), 0⟩
  | 0x1C => ⟨maskOf (a < b), 0⟩
  | 0x1D => ⟨if a ≠ 0 then b else c, 0⟩
  | _ => ⟨0, 0⟩

/-- One micro-op on a lane's registers (06 R157). -/
def runUop (e : LaneEnv) (w : Nat) (v : WithEv (List Nat)) : WithEv (List Nat) :=
  let op := nbits w 31 26
  let mods := uopTakesMods op
  let a0 := selectSrc e v.val (nbits w 21 17)
  let a1 := if mods && nbits w 5 5 = 1 then fabs a0 else a0
  let a := if mods && nbits w 6 6 = 1 then fneg a1 else a1
  let b0 := selectSrc e v.val (nbits w 16 12)
  let b := if mods && nbits w 4 4 = 1 then fneg b0 else b0
  let r := uopResult op a b (selectSrc e v.val (nbits w 11 7))
  ⟨v.val.set (nbits w 25 22) r.val, v.ev ||| r.ev⟩

/-- A micro-program on a lane (06 R163). -/
def runProg (e : LaneEnv) (prog : List Nat) (v : List Nat) : WithEv (List Nat) :=
  prog.foldl (fun s w => runUop e w s) ⟨v, 0⟩

/-- Statuses of the slot check (06 R175). -/
inductive SlotErr where
  | fmtReserved | fmtBlockZero | fmtRound | slotShape | uopReserved | uopMod
  deriving DecidableEq, Repr

/-- The slot check of 06 R175 on a configuration word and the slot's micro-ops. -/
def slotCheck (cfg : Word) (uops : List Nat) : Option SlotErr :=
  let nin := bitsOf cfg 35 33
  let nout := bitsOf cfg 32 31
  let len := bitsOf cfg 30 25
  let ifs := [bitsOf cfg 51 48, bitsOf cfg 55 52, bitsOf cfg 59 56, bitsOf cfg 63 60].take nin
  let ofs := [bitsOf cfg 43 40, bitsOf cfg 47 44].take nout
  let fs := ifs ++ ofs
  let anyNarrow := fs.any fun f => match Fmt.ofCode f with
    | some t => t.narrow
    | none => false
  let bsz := bitsOf cfg 37 36
  let us := uops.take len
  if fs.any (fun f => (Fmt.ofCode f).isNone) then some .fmtReserved
  else if (anyNarrow && (bsz = 2 || bsz = 3)) || bitsOf cfg 39 38 = 3 then some .fmtReserved
  else if anyNarrow && bsz = 0 then some .fmtBlockZero
  else if bitsOf cfg 39 38 = 2 then some .fmtRound
  else if nin > 4 || nout > 2 || len > 32 then some .slotShape
  else if us.any (fun w => !uopKnown (nbits w 31 26) || nbits w 21 17 ≥ 24
      || (uopUsesB (nbits w 31 26) && nbits w 16 12 ≥ 24) || (uopUsesC (nbits w 31 26) && nbits w 11 7 ≥ 24)) then some .uopReserved
  else if us.any (fun w => !uopTakesMods (nbits w 31 26) && nbits w 6 4 ≠ 0) then some .uopMod
  else none

/-- Float operations that carry events along. -/
def addE (a b : WithEv Nat) : WithEv Nat := let r := fadd a.val b.val; ⟨r, a.ev ||| b.ev ||| floatEv [a.val, b.val] r⟩
def subE (a b : WithEv Nat) : WithEv Nat := let r := fsub a.val b.val; ⟨r, a.ev ||| b.ev ||| floatEv [a.val, b.val] r⟩
def mulE (a b : WithEv Nat) : WithEv Nat := let r := fmul a.val b.val; ⟨r, a.ev ||| b.ev ||| floatEv [a.val, b.val] r⟩
def exE (a : WithEv Nat) : WithEv Nat := let r := expE a.val; ⟨r.val, a.ev ||| r.ev⟩
def rsqrtE (a : WithEv Nat) : WithEv Nat := let r := vrsqrt a.val; ⟨r, a.ev ||| floatEv [a.val] r⟩
def pureE (a : Nat) : WithEv Nat := ⟨a, 0⟩

/-- σ of 04 R97: e = exp(-z); d = 1 + e; q = rsqrt(d); s = q * q. -/
def sigmaE (z : WithEv Nat) : WithEv Nat :=
  let e := exE ⟨fneg z.val, z.ev⟩
  let q := rsqrtE (addE (pureE fOne) e)
  mulE q q

/-- The fixed activations of 04 R97; ACT 6 is the hook and is not computed here. -/
def activation (act lk : Nat) (x : Nat) : WithEv Nat :=
  if (f32v x).isNaN then ⟨qNaN, evNonfinite⟩
  else
    let relu := if (f32v x).le Val.zero then 0 else x
    match act with
    | 1 => ⟨relu, 0⟩
    | 2 => if Val.zero.lt (f32v x) then ⟨x, 0⟩ else ⟨fscale x (-(Int.ofNat lk) - 1), 0⟩
    | 3 => mulE (pureE relu) (pureE relu)
    | 4 => mulE (pureE x) (sigmaE (pureE x))
    | 5 =>
      let z := mulE (pureE x) (addE (pureE geluA) (mulE (pureE geluB) (mulE (pureE x) (pureE x))))
      mulE (pureE x) (sigmaE z)
    | _ => ⟨x, 0⟩

/-- Reduction operations (06 R166). -/
inductive Rop where
  | sum | max | min
  deriving DecidableEq, Repr

def Rop.ofCode : Nat → Rop
  | 0 => .sum
  | 1 => .max
  | _ => .min

def Rop.ident : Rop → Nat
  | .sum => 0x80000000
  | .max => negInf
  | .min => posInf

def Rop.node (o : Rop) (a b : WithEv Nat) : WithEv Nat :=
  let r := match o with
    | .sum => fadd a.val b.val
    | .max => fmax a.val b.val
    | .min => fmin a.val b.val
  ⟨r, a.ev ||| b.ev ||| floatEv [a.val, b.val] r⟩

/-- vred of 06 R166. -/
def vred (o : Rop) (x : List (WithEv Nat)) : WithEv Nat :=
  let p := (List.range 64).map fun l =>
    (x.zipIdx.filter fun q => q.2 % 64 = l).foldl (fun a q => o.node a q.1) ⟨o.ident, 0⟩
  treeTop o.node ⟨0, 0⟩ p

/-- Element i of kernels 1 and 2 (06 R169): the output gradient. -/
def normElem (krn : Nat) (dy xh g rstd ma mb : WithEv Nat) : WithEv Nat :=
  let u := mulE g dy
  let t := subE u (if krn = 2 then mb else pureE 0)
  mulE (subE t (mulE xh ma)) rstd

/-- Element of kernel 3 (06 R170): the probability and the gradient. -/
def smxElem (masked : Bool) (s dp lse d sc gs : WithEv Nat) : WithEv Nat × WithEv Nat :=
  if masked then (pureE 0, pureE 0)
  else
    let p := exE (subE (mulE sc s) lse)
    let ds := mulE (mulE p (subE dp d)) gs
    (p, ds)

end Sys2Proof.Machine
end

