-- ==== Sys2Proof/Machine/DrainMath.lean ====
section
/-!
DEFINITION. Machine/DrainMath.lean: the drain pipeline (04 R95-R100) and preloads (04 R88) as functions of the words read and
the drain profile captured at issue.
-/

namespace Sys2Proof.Machine

/-- A drain profile: its two register words (04 R112). -/
structure Profile where
  a : Word
  b : Word
  deriving DecidableEq, Repr

def Profile.scale (p : Profile) : Nat := fget p.a fDR_PROF_A_SCALE
def Profile.ofmt (p : Profile) : Nat := fget p.a fDR_PROF_A_OFMT
def Profile.rnd (p : Profile) : Nat := fget p.a fDR_PROF_A_RND
def Profile.bsz (p : Profile) : Nat := fget p.a fDR_PROF_A_BSZ
def Profile.bdir (p : Profile) : Bool := fget p.a fDR_PROF_A_BDIR = 1
def Profile.act (p : Profile) : Nat := fget p.a fDR_PROF_A_ACT
def Profile.biasf (p : Profile) : Nat := fget p.a fDR_PROF_A_BIASF
def Profile.auxf (p : Profile) : Nat := fget p.a fDR_PROF_A_AUXF
def Profile.auxen (p : Profile) : Bool := fget p.a fDR_PROF_A_AUXEN = 1
def Profile.ncol (p : Profile) : Nat := fget p.a fDR_PROF_A_NCOL
def Profile.lk (p : Profile) : Nat := fget p.a fDR_PROF_A_LK
def Profile.hook (p : Profile) : Nat := fget p.b fDR_PROF_B_HOOK
def Profile.sfix (p : Profile) : Bool := fget p.b fDR_PROF_B_SFIX = 1
def Profile.scode (p : Profile) : Nat := fget p.b fDR_PROF_B_SCODE

/-- The bias format of BIASF (04 R112). -/
def biasFmt : Nat → Option Fmt
  | 1 => some .f32
  | 2 => some .b16
  | 3 => some .h16
  | _ => none

/-- Status of a profile check (04 R106). -/
inductive ProfErr where
  | fmtReserved | fmtBlockZero | fmtRound | regPair | ncRange | drProfile
  deriving DecidableEq, Repr

/-- The profile checks of 04 R106. -/
def profileCheck (p : Profile) : Option ProfErr :=
  match Fmt.ofCode p.ofmt with
  | none => some .fmtReserved
  | some o =>
    let aux := if p.auxen then Fmt.ofCode p.auxf else some .f32
    match aux with
    | none => some .fmtReserved
    | some x =>
      if o.narrow && (p.bsz = 2 || p.bsz = 3) || p.rnd = 3 then some .fmtReserved
      else if o.narrow && p.bsz = 0 then some .fmtBlockZero
      else if p.rnd ≥ 2 then some .fmtRound
      else if p.ncol > 64 then some .ncRange
      else if p.act = 7 || !(f32v p.scale).isFinite || (p.auxen && x.narrow && p.bsz ≠ 1) || (p.sfix && p.scode = 255) then
        some .drProfile
      else none

/-- Stages 0 to 2 (04 R95): the pre-activation value of a word, with events; ACC_PARITY is bit 6. -/
def drainPre (p : Profile) (typ : Bool) (bad : Bool) (w : Nat) (bias : Option Nat) : WithEv Nat :=
  let x0 : WithEv Nat :=
    if bad then ⟨qNaN, 64 ||| evNonfinite⟩
    else if typ then
      let r := i2f w
      ⟨r, if (Val.eq (f32v r) ((Dy.ofInt (asI32 w)).toVal false)) then 0 else evInexact⟩
    else if (f32v w).isNaN then ⟨qNaN, evNonfinite⟩ else ⟨w, 0⟩
  let x1 := mulE x0 (pureE p.scale)
  match bias with
  | none => x1
  | some b => addE x1 (pureE b)

/-- The bias vector of a DRAIN as F32 patterns, decoded exactly (04 R95). -/
def biasRow (c : CoreSt) (p : Profile) (a : Nat) : List Nat :=
  match biasFmt p.biasf with
  | none => []
  | some t => (c.values t a 0 p.ncol).zip (c.elems t a p.ncol) |>.map fun q => if t = .f32 then q.2 else f32rne q.1

/-- Stage 2 values of output row r of a tile, with events and the parity errors met (04 R86, R95, R110). -/
def drainRow (c : CoreSt) (p : Profile) (ti r : Nat) (bias : List Nat) : List (WithEv Nat) :=
  let t := c.tile ti
  (List.range p.ncol).map fun j =>
    let k := accWordKey ti t.depth r j
    drainPre p t.typ (c.acc.bad.contains k) (c.acc.word k) (if p.biasf = 0 then none else some (bias.getD j 0))

/-- A matrix turned (04 R99): rows of `nc` columns become `nc` rows. -/
def turned (nc : Nat) (m : List (List Nat)) : List (List Nat) :=
  (List.range nc).map fun j => m.map fun row => row.getD j 0

/-- The rows of an output written at element and scale addresses with pitches: stores, events, tally counts (04 R99). -/
structure OutPlan where
  stores : List (Nat × List Nat)
  ev : Nat
  tally : TallyCount
  deriving DecidableEq, Repr

def outRows (t : Fmt) (fixed : Option Nat) (rm : Rnd) (keep : Nat) (d ds ep sp : Nat) (rows : List (List Nat)) : OutPlan :=
  rows.zipIdx.foldl (fun (o : OutPlan) (q : List Nat × Nat) =>
    let w := writeRow t fixed rm (fun _ => 0) (fun _ => keep) (fun _ => false) q.1
    let st := if t.narrow then [(loc32 (d + q.2 * ep), w.elems), (loc32 (ds + q.2 * sp), w.scales)]
      else [(loc32 (d + q.2 * ep), w.elems)]
    ⟨o.stores ++ st, o.ev ||| w.ev, o.tally.add w.tally⟩) ⟨[], 0, TallyCount.none⟩

/-- The element and scale ranges of an output of `n` rows of `len` elements (04 R99). -/
def outRanges (t : Fmt) (d ds ep sp n len : Nat) : List (Nat × Nat) :=
  (List.range n).flatMap fun i =>
    (loc32 (d + i * ep), t.outBytes len) :: (if t.narrow then [(loc32 (ds + i * sp), t.scaleBytes len)] else [])

/-- Stores applied to the core-local space in order. -/
def CoreSt.applyStores (c : CoreSt) (l : List (Nat × List Nat)) : CoreSt := l.foldl (fun c s => c.locStore s.1 s.2) c

/-- Rounding mode of a 2-bit field that the load checks limit to RNE and RTZ (02 R42). -/
def rndOf (c : Nat) : Rnd := if c = 1 then .rtz else .rne

/-- ACCLD words of output row i: +0, the column vector or row i of the source, raw or converted to F32 (04 R88); SRC 3 as 2 (DESIGN
CHOICE, log entry 12). -/
def accldRow (c : CoreSt) (src : Nat) (raw : Bool) (t : Fmt) (a sa ep sp ncol i : Nat) : List (WithEv Nat) :=
  if src = 0 then List.replicate ncol ⟨0, 0⟩
  else
    let k := if src = 1 then 0 else i
    if raw then (c.elems .f32 (loc32 (a + k * ep)) ncol).map pureE
    else c.loadRow t (loc32 (a + k * ep)) (loc32 (sa + k * sp)) ncol

end Sys2Proof.Machine
end

