-- ==== Sys2Proof/Config.lean ====
section
/-!
DEFINITION. Sys2Proof/Config.lean: the values that the spec leaves open and the model leaves free: constants without a body,
applied to the state's counter, so that every use has a value of its own (log entry 6).
-/

namespace Sys2Proof.Config

/-- A number of clock cycles or other count that timing decides (09 R267, 03 R73): what cycle counters advance by. -/
opaque cycles : Nat → Nat

/-- Whether a peat line with changes on three or more devices reads without UE (11 R337 states no outcome; log entry 22). -/
opaque peatPasses : Nat → Bool

/-- A byte that such a read returns. -/
opaque peatByte : Nat → Nat → Nat

/-- The number of a status that the spec names and gives no code (10 R314, 16 R490; log entry 30). -/
opaque statusCode : Nat → Nat

/-- A binary64 pattern that an unreadable norm operand stands for (10 R290 states no value; log entry 31). -/
opaque norm : Nat → Nat

/-- The version that a firmware section carries (17 R508 names it; the section's contents are the manufacturer's, 16 R470; log entry 64). -/
opaque fwVersion : List Nat → Nat

/-- The fixed transmit and receive latencies of a package port, in 1/16 beat (13 R390, R392 name them and give no value; log entry 45). -/
opaque txLat : Nat → Nat
opaque rxLat : Nat → Nat

/-- The JEDEC manufacturer identity (17 R528 names it and gives no value; log entry 68). -/
opaque manufacturer : Nat → Nat

end Sys2Proof.Config
end

