-- ==== Sys2Proof/Machine/State.lean ====
section
/-!
DEFINITION. Machine/State.lean: the state of the package, what stops a run, and the state after reset.
-/

namespace Sys2Proof.Machine

/-- Calliope state that no register shows (08 R222-R237): the low 32 bits of the 96-bit beat accumulator, the servo of
time_exchange (freq, good, far, stale), time-clock beats for which the beat is still frozen, the number of the last TREQ and the
outstanding ones (port, t1 in 1/16 beat), whether the origin role is won and not yet served, the frequency codes with stored phase
codes, whether the time clock runs, whether a tick of the plan has been reported, one more than the last tick whose boundary
each zone has seen, whether a glide has begun, quarter periods of lag since each zone's open episode began. -/
structure TimeSt where
  frac : Nat
  freq : Int
  good : Nat
  far : Nat
  stale : Nat
  frozen : Nat
  treqNo : Nat
  treqOut : List (Nat × Nat)
  originWait : Bool
  phaseCodes : List Nat
  running : Bool
  reported : Bool
  zseen : List (Nat × Nat)
  gliding : Bool
  lag : List (Nat × Nat)
  /-- Of a frequency change (08 R215): the frequency in 1/1000 code where the present leg began, its beat, and the highest code whose
  voltages the regulators hold or ramp to. -/
  legFrom : Nat
  legBeat : Nat
  rampTop : Nat
  /-- Regulators on a ramp (08 R215): the core, the VCODE the ramp began at, its beat. -/
  ramps : List (Nat × (Nat × Nat))
  /-- The reported tick is held by a late change (08 R237). -/
  held : Bool
  deriving DecidableEq, Repr

def TimeSt.reset : TimeSt := ⟨0, 0, 0, 0, 0, 0, 0, [], false, [], true, false, [], false, [], 0, 0, 0, [], false⟩

/-- What leaves the package or is answered inside it, oldest first in State.out. -/
inductive Out where
  /-- A packet leaves by a fabric port (13 R377), in flits from a sequence number on that carry an ACK; flits of zero words stand before it (13 R372, R388). -/
  | packet (port pad seq ack : Nat) (p : Packet)
  /-- Flits of a port's replay buffer are sent again, from a sequence number on (13 R373). -/
  | resend (port seq n : Nat)
  /-- A link-control entry leaves by a port: kind and low bits (13 R374), SEQ and ACK of its flit. -/
  | linkCtrl (port kind bits seq ack : Nat)
  /-- A CTRL message to the own package: destination, type, CSEQ, words (13 R384, 14 R418-R420; log entry 48). -/
  | ctrl (dst typ cseq : Nat) (words : List Nat)
  /-- What the RM_SYNC packet of a CSEQ to the standby mirrors (14 R414; log entry 44). -/
  | sync (dst cseq : Nat) (st : RmSt)
  /-- A Ringmaster command is forwarded to the Ringmaster (14 R429): node, code, arguments. -/
  | forward (dst code : Nat) (args : List Nat)
  /-- A memory request is answered: its number, status of 11 R320, bytes. -/
  | answer (id status : Nat) (data : List Nat)
  /-- A register read returns. -/
  | value (addr : Nat) (w : Nat)
  /-- A PCIe completion: 0 successful, 1 Unsupported Request, 2 Completer Abort (17 R507, R510). -/
  | pcie (outcome : Nat) (data : List Nat)
  /-- An SMBus transaction is answered, or not acknowledged (17 R523). -/
  | smbus (ack : Bool) (data : List Nat)
  /-- The bits that a JTAG data register captures or shifts (17 R528, R529). -/
  | jtag (bits : Nat)
  /-- The device writes host memory (17 R516). -/
  | host (addr : Nat) (data : List Nat)
  /-- An MSI-X message (17 R517). -/
  | msix (vec : Nat)
  deriving DecidableEq, Repr

/-- MSI-X of the host port (17 R517, R518): whether the function sends messages, the masked vectors, the pending ones. -/
structure MsixSt where
  enabled : Bool
  masked : List Nat
  pend : List Nat
  deriving DecidableEq, Repr

/-- Flits sent and not acknowledged: the first sequence number, how many, the packet they carry if any (13 R373). -/
structure Sent where
  seq : Nat
  n : Nat
  pkt : Option Packet
  deriving DecidableEq, Repr

/-- A fabric port's link state (13 R372-R375, R391, R398): the next sequence number to send and the one expected, the replay buffer,
credit units in use by 2 * VC + class, packets that wait for credits, whether this end has paused, body words
of a packet not complete, packets received and not taken, units freed and not yet returned, flits since the last credits,
whether a NAK is out, whether the partner
has paused, replays in this 100 us window, the identity last heard, the slot whose switch waits for confirmation, link-control entries that wait for room
in the replay buffer, the slot that the next flit falls to (R371). -/
structure PortSt where
  txSeq : Nat
  rxSeq : Nat
  replay : List Sent
  used : List (Nat × Nat)
  queue : List Packet
  paused : Bool
  part : List Nat
  rx : List Packet
  owed : List (Nat × Nat)
  since : Nat
  nakOut : Bool
  peerPaused : Bool
  retries : Nat
  ident : Option Ident
  switching : Option Nat
  ctl : List (Nat × Nat)
  deal : Nat
  deriving DecidableEq, Repr

def PortSt.reset : PortSt := ⟨0, 0, [], [], [], false, [], [], [], 0, false, false, 0, none, none, [], 0⟩

/-- The record of an AT or INC applied (13 R386): its key, the response sent, the beat. -/
structure DupRec where
  src : Nat
  sep : Nat
  tag : Nat
  sgen : Nat
  rsp : Packet
  beat : Nat
  deriving DecidableEq, Repr

/-- A CTRL message received (13 R384): the port it came by, its source, CSEQ, whether it was trusted when it arrived, type, words,
the mirrored state that an RM_SYNC carries, the image that an EPOCH_PREPARE leads to. -/
structure CtrlMsg where
  port : Nat
  src : Nat
  cseq : Nat
  trust : Bool
  typ : Nat
  words : List Nat
  st : Option RmSt
  image : Option SchedImage
  deriving DecidableEq, Repr

/-- Fabric state that no register shows (13 R373-R399): the generations of other nodes as last learned; ports; the CSEQ next expected of
each source and messages held back; the next CSEQ to send to each destination; records of applied requests; packets that wait for a new route. -/
structure FabSt where
  gens : List (Nat × Nat)
  ports : List (Nat × PortSt)
  next : List (Nat × Nat)
  held : List CtrlMsg
  cseq : List (Nat × Nat)
  dups : List DupRec
  orphans : List Packet
  gone : List (Nat × Nat × Nat)
  deriving DecidableEq, Repr

def FabSt.reset : FabSt := ⟨[], [], [], [], [], [], [], []⟩

/-- The memories and the stack caches. Bytes of the stack tier by offset (11 R318), of the peat tier by offset (R335), of the far
tier by offset (12 R347). Cached lines of all sites, the most recently used first, and fills on their way (11 R321-R324).
Symbols (stack) and devices (peat) whose stored bits have changed, by unit, line and symbol (R326, R337); far lines that their
device calls bad; lines that compactions poisoned and those written since; errors of the last second (R328); units that refresh
at the doubled rate (R317); the next line each unit scrubs (R327); the update dies whose record range has been cleared since the cold
start (10 R311); the peat lines written since the cold start, the others holding undefined data (R338). -/
structure MemSt where
  stack : List Host.Cell
  peat : List Host.Cell
  far : List Host.Cell
  cache : List CacheLine
  fills : List CacheLine
  flips : List (Nat × Nat)
  farBad : List Nat
  poison : List PoisonMap
  healed : List Nat
  recent : List ErrRec
  hot : List Nat
  scrubAt : List (Nat × Nat)
  recs : List Nat
  known : List Nat
  deriving DecidableEq, Repr

def MemSt.reset : MemSt := ⟨[], [], [], [], [], [], [], [], [], [], [], [], [], []⟩

/-- The SYNC block's directory (12 R353-R356): cached entries, the most recently used first; IDs being walked and IDs waiting
for a walk; uncached translations in flight; entries whose loss has been raised (R362); the beat each walk's read left (R358). -/
structure DirSt where
  cache : List DirEnt
  walks : List Nat
  queue : List Nat
  ovf : Nat
  lostSeen : List Nat
  walkAt : List (Nat × Nat)
  deriving DecidableEq, Repr

def DirSt.reset : DirSt := ⟨[], [], [], 0, [], []⟩

/-- A hint of a core's stream (09 R252): class, start beat, duration (0: until the stream's next hint). -/
structure HintMsg where
  zone : Nat
  core : Nat
  stream : Nat
  cls : Nat
  start : Nat
  dur : Nat
  deriving DecidableEq, Repr

/-- Power state that no register shows (chapter 15): hints on their way and held (R442); B_pm in effect and one written that is not
(R432); the last pin sample (R433); FORCED by command, PWR_COOL_CLEAR and PWR_RESUME given (R448, R449, R461); the beat since which TRIP, the clock
stop's end, the flow, the inlet and the low-flow warning have met their clearing conditions (R448, R449, R452); accepted reports (beat, outlet
minus inlet, flow) of the last second, newest first, and the beat of the first after a silence, and of the last start (R451, R453); the run of 1-us averages
above B_eff (R434); the beats of the last fall of B_eff and of the last rise of the code (R437); measured power of the other rails, and
of each zone (R437); microjoules not yet shown, by accumulator: 0-63 tags, 64 the package, 65 + z zones (R457, R458); droop stretches of each zone in
this tick; ticks since the gate first opened; for each zone ticks of the block of 100 and whether one exceeded STR_LO; lowered
margins that wait for a tick boundary (R444); turning points of the three die classes, newest first; whether the first report after a cold start
is awaited (R459); whether the sensors have been sampled since the start (R446); the job tags in effect in this interval, by core, 288 and
289 the update dies (R457). -/
structure PwrSt where
  hintsIn : List HintMsg
  held : List HintMsg
  bpm : Nat
  bpmNext : Option Nat
  pins : Nat
  forced : Bool
  coolClear : Bool
  resume : Bool
  tripOk : Option Nat
  stopOk : Option Nat
  flowOk : Option Nat
  inletOk : Option Nat
  lowOk : Option Nat
  reports : List (Nat × Int × Nat)
  reportsFrom : Option Nat
  startBeat : Nat
  run : Nat
  fellAt : Option Nat
  roseAt : Option Nat
  fixed : Nat
  zones : List (Nat × Nat)
  micro : List (Nat × Nat)
  droops : List (Nat × Nat)
  openTicks : Option Nat
  blocks : List (Nat × Nat)
  lowered : List Nat
  points : List (Nat × List Int)
  coldInlet : Bool
  sampled : Bool
  tagsAt : List (Nat × Nat)
  deriving DecidableEq, Repr

def PwrSt.reset : PwrSt :=
  ⟨[], [], 1600, none, 7, false, false, false, none, none, none, none, none, [], none, 0, 0, none, none, 0, [], [], [], none, [], [], [],
    true, false, []⟩

/-- A boot image as the checks of 16 R473 read it (R468-R472): SEQ, firmware version, identity (node, domain, eligible), per I/O die the
three bytes of PORTS, the five matrix rows, overlay entries, the word of GFMT if present, TUNE records (kind, key, mask, value). -/
structure BootImage where
  seq : Nat
  version : Nat
  node : Nat
  domain : Nat
  eligible : Bool
  ports : List (Nat × Nat × Nat)
  perm : List Nat
  ovl : List Nat
  gfmt : Option Nat
  tune : List (Nat × Nat × Nat × Nat)
  deriving DecidableEq, Repr

/-- A flash slot (16 R467): no valid header, the image the part was delivered with (log entry 5), bytes that FLASH_WRITE wrote. -/
inductive FlashSlot where
  | erased
  | factory
  | bytes (l : List Nat)
  deriving DecidableEq, Repr

/-- The configuration flash (16 R467): slots A and B, whether it answers, the persistent areas: start counter, AGE_LOSS of cores,
cycle counters and residues of the newest wear record with its sequence number, whether a capture is held, the captured words. -/
structure FlashSt where
  a : FlashSlot
  b : FlashSlot
  answers : Bool
  starts : Nat
  age : List (Nat × Nat)
  wearSeq : Nat
  wear : List Nat
  residues : List (Nat × List Int)
  captured : Bool
  capture : List Nat
  deriving DecidableEq, Repr

/-- A module as its sideband identifies it (11 R333, R345): 1 RDIMM or 2 MRDIMM, ranks, 0 x4 or 1 x8 devices, capacity in GiB, rated speed in units
of 100 MT/s. -/
structure Module where
  typ : Nat
  ranks : Nat
  width : Nat
  cap : Nat
  rate : Nat
  deriving DecidableEq, Repr

/-- What fuses, straps and the parts around the package fix (01 R1, R3, 16 R466, R471, R476, 17 R508, R523; log entry 5): part (0 BM-7210-4,
1 BM-7208-4, 2 BM-7208-2), serial number, revision word, cores disabled by fuse, Fmax at the six voltages and cores that differ,
the fused key digest, cores whose memories fail BIST, whether another SRAM fails, peat modules by 4 * die + channel, the address
strap. -/
structure FuseSt where
  part : Nat
  serial : Nat
  revs : Nat
  dead : List Nat
  fmax : List Nat
  fmaxOf : List (Nat × List Nat)
  key : List Nat
  bistCores : List Nat
  bistFails : Bool
  modules : List (Nat × Module)
  strap : Nat
  deriving DecidableEq, Repr

/-- The pins of 18 R536-R540 that hold the package in reset: PKG_PWRGD high, PKG_RST# low, REFCLK_PKG running, a rail's latch. -/
structure PinSt where
  pwrgd : Bool
  rstLow : Bool
  refclk : Bool
  railBad : Bool
  deriving DecidableEq, Repr

/-- Host and management state that no register shows (chapter 17): the sticky bits of the status commands and the clock-stop bit of
STATUS_WORD (R525), CXL devices enumerated on each port as (serial, capacity) in order (R521, R522), what the next Capture-DR of DBGREG
returns (R529), the boundary-scan register and what drives the pins: 0 the package, 1 that register, 2 nothing (R528), enumerations that wait for
a device to report its memory active: port, devices, serial numbers awaited (R521). -/
structure HifSt where
  stTemp : Nat
  stMfr : Nat
  stCml : Nat
  stStop : Bool
  cxl : List (Nat × List (Nat × Nat))
  dbgData : Nat
  scan : Nat
  drive : Nat
  cxlWait : List (Nat × List (Nat × Nat) × List Nat)
  deriving DecidableEq, Repr

def HifSt.reset : HifSt := ⟨0, 0, 0, false, [], 0, 0, 0, []⟩

/-- Package-control state that no register shows (chapter 16): the journal by slot (R492), accepted commands that wait or
execute (R486), completions not delivered, the image in use as firmware keeps it (R478), the pins, fuses and flash, the image of the next layout epoch staged, with that epoch (14 R424), the
command that is writing the flash (R491), the records that a closing epoch moves, each 0 waiting, 1 under way or 2 moved (14 R428), and the accepted
commands that have been forwarded to the Ringmaster (14 R429). -/
structure PkgSt where
  jnl : List (Nat × JEnt)
  cmds : List Cmd
  comps : List Comp
  image : Option BootImage
  pins : PinSt
  fuse : FuseSt
  flash : FlashSt
  staged : Option (Nat × SchedImage)
  flashBy : Option Nat
  migr : List (Migration × Nat)
  fwd : List Nat
  deriving DecidableEq, Repr

def PkgSt.reset : PkgSt :=
  ⟨[], [], [], none, ⟨true, false, true, false⟩,
    ⟨0, 1, 0, [], [650, 853, 1078, 1240, 1402, 1540], [], [], [], false,
      (List.range 8).map fun k => (k, ⟨2, 2, 0, 256, 88⟩), 0⟩,
    ⟨.factory, .erased, true, 0, [], 0, [], [], false, []⟩, none, none, [], []⟩

/-- The state of the package. `incs` are the increments and `marks` the degraded marks on their way. -/
structure State where
  pending : List Instr
  regs : RegFile
  cores : List (Nat × CoreSt)
  incs : List IncMsg
  marks : List MarkMsg
  out : List Out
  freeCtr : Nat
  time : TimeSt
  msix : MsixSt
  fab : FabSt
  mem : MemSt
  dir : DirSt
  pwr : PwrSt
  ud0 : UdSt
  ud1 : UdSt
  sched : SchedSt
  pkg : PkgSt
  rm : RmSt
  hif : HifSt
  deriving DecidableEq, Repr

/-- No meaning of this model faults: what the spec turns away is a status, an event or no change at all. -/
inductive Fault where
  /-- Raised by nothing; the type has to have a value for the interface. Safe. -/
  | unused
  deriving DecidableEq, Repr

/-- Why a command has no answer. -/
inductive Refusal where
  /-- The row has no meaning yet: raised by exec alone, for the mnemonic named. Safe. -/
  | notModelled (mnemonic : String)
  deriving DecidableEq, Repr

/-- The machine right after reset: registers at their reset words, no command waiting (16 R476, 18 R540; log entries 1, 5). -/
def State.reset : State :=
  ⟨[], [], [], [], [], [], 0, TimeSt.reset, ⟨false, List.range 16, []⟩, FabSt.reset, MemSt.reset, DirSt.reset, PwrSt.reset, UdSt.reset,
    UdSt.reset, SchedSt.reset, PkgSt.reset, RmSt.reset, HifSt.reset⟩

end Sys2Proof.Machine
end

