-- ==== Sys2Proof/Machine/Ops.lean ====
section
/-!
DEFINITION. Machine/Ops.lean: the named operations over the state: registers and their fields, event bits with their MSI-X
messages (17 R517, R518), saturating counts, cores, packets sent over the route table (13 R396).
-/

namespace Sys2Proof.Machine

/-- What a meaning answers. -/
abbrev Res := Host.Outcome State Fault Refusal

namespace State

/-- A register's word. -/
def reg (s : State) (a : Nat) : Word := sget (resetWord a) a s.regs

/-- A register's word replaced. -/
def setReg (s : State) (a : Nat) (w : Word) : State := { s with regs := sput (resetWord a) a w s.regs }

/-- A field of a register. -/
def rd (s : State) (a : Nat) (f : Fld) : Nat := fget (s.reg a) f

/-- A field of a register replaced. -/
def wr (s : State) (a : Nat) (f : Fld) (v : Nat) : State := s.setReg a (fset (s.reg a) f v)

/-- A one-bit field as a truth value. -/
def on (s : State) (a : Nat) (f : Fld) : Bool := s.rd a f = 1

/-- Bits ORed into a field. -/
def orF (s : State) (a : Nat) (f : Fld) (v : Nat) : State := s.wr a f (Nat.lor (s.rd a f) v)

/-- A count advanced, saturating at its width (log entry 14). -/
def bump (s : State) (a : Nat) (f : Fld) (n : Nat) : State := s.wr a f (min (2 ^ f.width - 1) (s.rd a f + n))

/-- A count of cycles or of waiting advanced by a number that timing decides (log entry 6). -/
def bumpFree (s : State) (a : Nat) (f : Fld) : State :=
  { s.bump a f (Config.cycles s.freeCtr) with freeCtr := s.freeCtr + 1 }

/-- A core's state. -/
def core (s : State) (b : Nat) : CoreSt := sget CoreSt.reset b s.cores

def setCore (s : State) (b : Nat) (c : CoreSt) : State := { s with cores := sput CoreSt.reset b c s.cores }

def modCore (s : State) (b : Nat) (f : CoreSt → CoreSt) : State := s.setCore b (f (s.core b))

def stream (s : State) (b i : Nat) : Stream := (s.core b).stream i

def setStream (s : State) (b i : Nat) (x : Stream) : State := s.modCore b fun c => c.setStream i x

def emit (s : State) (o : Out) : State := { s with out := s.out ++ [o] }

end State

/-- The MSI-X vector that an event register is a source of, and the bits of it that count (17 R517). -/
def vectorOf (a : Nat) : Option (Nat × Nat) :=
  if a = PKG_EVENTS then some (1, 2 ^ 64 - 1)
  else if a = PWR_EVENTS then some (2, 2 ^ 64 - 1)
  else if a = TIME_EVENTS then some (3, 2 ^ 64 - 1)
  else if a = FAB_EVENTS then some (5, 2 ^ 64 - 1)
  else if a = DIR_EVENTS then some (7, 2 ^ 64 - 1)
  else if a = HIF_EVENTS then some (9, 2 ^ 64 - 1)
  else if a = UD_EVENTS 0 ∨ a = UD_EVENTS 1 then some (6, 2 ^ 64 - 1)
  else if a = PT_EVENTS 0 ∨ a = PT_EVENTS 1 then some (4, 2 ^ 64 - 1)
  else if 0x300000 ≤ a ∧ a < 0x3A0000 ∧ a % 0x10000 = 0x10 then some (4, 2 ^ 64 - 1)
  else if 0x1000000 ≤ a ∧ a < 0x2200000 ∧ a % 0x10000 = 0x10 then some (8, 0x37)
  else none

namespace State

/-- A vector's summary: the OR of the set bits in its sources (17 R518). -/
def summary (s : State) (v : Nat) : Bool :=
  s.regs.any fun p => match vectorOf p.1 with
    | some q => q.1 = v && (p.2 &&& BitVec.ofNat 64 q.2) ≠ 0#64
    | none => false

/-- A vector's message: sent, or kept pending while the vector is masked (17 R518). -/
def sendMsi (s : State) (v : Nat) : State :=
  if s.msix.enabled && !s.msix.masked.contains v then s.emit (.msix v)
  else { s with msix := { s.msix with pend := setIns v s.msix.pend } }

/-- Sends the message of an event register's vector when its summary has risen from 0 (17 R518). -/
def notify (s0 s : State) (a : Nat) : State :=
  match vectorOf a with
  | none => s
  | some q => if !s0.summary q.1 && s.summary q.1 then s.sendMsi q.1 else s

/-- An event bit raised. -/
def raise (s : State) (a : Nat) (f : Fld) : State := notify s (s.wr a f 1) a

/-- Several event bits of one register raised: a mask in the register's own positions. -/
def raiseBits (s : State) (a m : Nat) : State := notify s (s.setReg a (s.reg a ||| BitVec.ofNat 64 m)) a

/-- The package's own node ID (13 R376). -/
def node (s : State) : Nat := s.rd FAB_ID fFAB_ID_NODE

/-- The package's own generation (13 R387). -/
def gen (s : State) : Nat := s.rd FAB_ID fFAB_ID_GEN

/-- Another node's generation as last learned (13 R387). -/
def genOf (s : State) (n : Nat) : Nat := sget 0 n s.fab.gens

/-- A fabric port is UP (13 R404). -/
def portUp (s : State) (p : Nat) : Bool := p < 16 && s.rd FAB_STATUS fFAB_STATUS_UP / 2 ^ p % 2 = 1

/-- The state of a fabric port (13 R391). -/
def portState (s : State) (p : Nat) : Nat := s.rd (FP_STATUS (p / 4) (p % 4)) fFP_STATUS_STATE

/-- The port a packet leaves by, and whether it enters class 1: the route entry of its DST, PORTA or PORTB by bit 0 of
SEP xor TAG, only ports that are UP (13 R396), or one whose lane is being switched, which holds its traffic queued (R398). -/
def route (s : State) (dst sep tag : Nat) : Option (Nat × Bool) :=
  let e := s.reg (FAB_ROUTE dst)
  if fget e fFAB_ROUTE_VALID = 0 then none
  else
    let a := fget e fFAB_ROUTE_PORTA
    let b := fget e fFAB_ROUTE_PORTB
    let h := (sep + tag) % 2
    let first := if h = 0 then a else b
    let second := if h = 0 then b else a
    let setc := fget e fFAB_ROUTE_SETC = 1
    if s.portUp first then some (first, setc) else if s.portUp second then some (second, setc)
    else if s.portState first = 3 then some (first, setc) else if s.portState second = 3 then some (second, setc) else none

/-- A port's link state. -/
def port (s : State) (p : Nat) : PortSt := sget PortSt.reset p s.fab.ports

def modMem (s : State) (f : MemSt → MemSt) : State := { s with mem := f s.mem }

def modFab (s : State) (f : FabSt → FabSt) : State := { s with fab := f s.fab }

def modPort (s : State) (p : Nat) (f : PortSt → PortSt) : State :=
  s.modFab fun x => { x with ports := sput PortSt.reset p (f (s.port p)) x.ports }

/-- The core is enabled in the capability table (09 R270). -/
def coreOn (s : State) (b : Nat) : Bool := b < 288 && s.on (CAP_STATE b) fCAP_STATE_EN

/-- The enrolment state (13 R393): 0 Detached, 1 Probing, 2 Enrolled, 3 Working, 4 Leaving. -/
def enrolled (s : State) : Nat := s.rd FAB_ENROL fFAB_ENROL_STATE

/-- Words 0 and 1 of an RM_MSG or HEALTH payload (14 R419). -/
def msgHead (s : State) (code node : Nat) : List Nat := [code * 2 ^ 56 + node * 2 ^ 44, s.rm.term % 2 ^ 32 * 2 ^ 32 + s.rm.epoch % 2 ^ 32]

/-- The cores' clocks run: hold duty is not 0 (15 R435, R448, 16 R484). -/
def clocked (s : State) : Bool := s.rd PWR_STATUS fPWR_STATUS_DUTY ≠ 0

end State

/-- The zone of a core (08 R213, 01 R3). -/
def zoneOf (b : Nat) : Nat := b / 24

/-- A request packet of this package (13 R377). -/
def mkPacket (s : State) (typ vc dst sep tag len addr : Nat) (data : List Nat) : Packet :=
  ⟨typ, vc, 0, true, false, 0, s.gen, s.genOf dst, s.node, dst, sep, 0, tag, len, 0, 0, 0, 0, 0, addr, data⟩

namespace State

/-- Credit units of a packet: 64 bytes of header and padded payload each (13 R374, R375). -/
def units (p : Packet) : Nat := (24 + (p.data.length + 7) / 8 * 8 + 63) / 64

/-- Flits of a packet: 16 words each; the model starts every packet in a flit of its own (13 R372, R377; log entry 40). -/
def flits (p : Packet) : Nat := (3 + (p.data.length + 7) / 8 + 15) / 16

/-- Receive buffer of a virtual channel, in units (13 R375). -/
def vcUnits (vc : Nat) : Nat := match vc with | 0 => 96 | 1 => 96 | 2 => 16 | 3 => 16 | _ => 4

/-- The key of a VC's buffer class. -/
def vcKey (p : Packet) : Nat := 2 * p.vc + p.cls

/-- A port may send a packet now: UP, not paused, room in the replay buffer, credits (13 R373-R375, R398). -/
def canSend (s : State) (port : Nat) (p : Packet) : Bool :=
  let x := s.port port
  s.portUp port && !x.paused && decide ((x.replay.map (·.n)).sum + flits p ≤ 2048)
    && decide (sget 0 (vcKey p) x.used + units p ≤ vcUnits p.vc)

/-- The SEQ of the last flit that a port received in order (13 R372). -/
def ackOf (s : State) (port : Nat) : Nat := ((s.port port).rxSeq + 4095) % 4096

/-- The flits of zero words that stand before a packet: a TIME packet begins in a flit that falls to slot 0 (13 R371, R388; log entry 40). -/
def padding (s : State) (port : Nat) (p : Packet) : Nat := if p.vc = 4 then (4 - (s.port port).deal) % 4 else 0

/-- A packet's flits leave, numbered, dealt to the slots and kept for replay (13 R371-R373). -/
def launch (s : State) (port : Nat) (p : Packet) : State :=
  let pad := s.padding port p
  let n := pad + flits p
  let seq := (s.port port).txSeq
  let s := s.modPort port fun x => { x with
    txSeq := (seq + n) % 4096, deal := (x.deal + n) % 4, replay := x.replay ++ [⟨seq, n, some p⟩]
    used := sput 0 (vcKey p) (sget 0 (vcKey p) x.used + units p) x.used }
  (s.emit (.packet port pad seq (s.ackOf port) p)).bump (FP_TX_FLITS (port / 4) (port % 4)) fFP_TX_FLITS_COUNT n

/-- A packet handed to a port: sent, or queued behind its virtual channel (13 R375). -/
def transmit (s : State) (port : Nat) (p : Packet) : State :=
  if s.canSend port p && !((s.port port).queue.any fun q => vcKey q = vcKey p) then s.launch port p
  else s.modPort port fun x => { x with queue := x.queue ++ [p] }

/-- A link-control entry leaves in a flit of its own, kept for replay as every flit that is not idle (13 R373, R374). -/
def launchCtl (s : State) (port kind bits : Nat) : State :=
  let seq := (s.port port).txSeq
  let s := s.modPort port fun x => { x with txSeq := (seq + 1) % 4096, deal := (x.deal + 1) % 4, replay := x.replay ++ [⟨seq, 1, none⟩] }
  (s.emit (.linkCtrl port kind bits seq (s.ackOf port))).bump (FP_TX_FLITS (port / 4) (port % 4)) fFP_TX_FLITS_COUNT 1

/-- A link-control entry handed to a port: sent while the replay buffer has room, else it waits (13 R373). -/
def sendCtl (s : State) (port kind bits : Nat) : State :=
  if (s.port port).ctl.isEmpty && decide (((s.port port).replay.map (·.n)).sum + 1 ≤ 2048) then s.launchCtl port kind bits
  else s.modPort port fun x => { x with ctl := x.ctl ++ [(kind, bits)] }

/-- What waits at a port goes out as far as it may: link-control entries, then each virtual channel in order (13 R373, R375). -/
def drainPort (s : State) (port : Nat) : State :=
  let c := (s.port port).ctl
  let s := c.foldl (fun s e => s.sendCtl port e.1 e.2) (s.modPort port fun x => { x with ctl := [] })
  let q := (s.port port).queue
  q.foldl (fun s p => s.transmit port p) (s.modPort port fun x => { x with queue := [] })

/-- A packet sent over the route table: none when there is no route (13 R396). -/
def send (s : State) (p : Packet) : Option State :=
  match s.route p.dst p.sep p.tag with
  | none => none
  | some r => some (s.transmit r.1 { p with cls := if r.2 then 1 else p.cls })

/-- A request sent: only an Enrolled or Working package originates one (13 R393), in another state there is no route (DESIGN CHOICE, log entry 70). -/
def sendReq (s : State) (p : Packet) : Option State := if s.enrolled = 2 || s.enrolled = 3 then s.send p else none

/-- A CTRL packet of this package's fabric management (13 R377, R384, R385, R387). -/
def ctrlPacket (s : State) (dst typ cseq : Nat) (words : List Nat) : Packet :=
  { mkPacket s typ 3 dst 304 0 (8 * words.length) 0 (wordBytes words) with cseq := cseq }

/-- A CTRL message of firmware, with the next CSEQ towards its destination (13 R384; log entry 53). Without a route it is dropped and counted
(R396). One to the own package is handed back to it (log entry 48). -/
def sendCtrl (s : State) (dst typ : Nat) (words : List Nat) : State :=
  let n := sget 0 dst s.fab.cseq
  let next := fun (s : State) => s.modFab fun x => { x with cseq := sput 0 dst ((n + 1) % 2 ^ 16) x.cseq }
  if dst = s.node then next (s.emit (.ctrl dst typ n words))
  else match s.send (s.ctrlPacket dst typ n words) with
    | some s => next s
    | none => s.bump FAB_DROP fFAB_DROP_NOROUTE 1

/-- A CTRL packet to the partner of a port, whatever the route table says (13 R392, R394, 14 R413); these are counted by a CSEQ of the port (log
entry 53). -/
def linkPacket (s : State) (port typ : Nat) (words : List Nat) : Packet :=
  s.ctrlPacket (s.rd (FP_STATUS (port / 4) (port % 4)) fFP_STATUS_PNODE) typ (sget 0 (4096 + port) s.fab.cseq) words

/-- The next CSEQ of a port is taken. -/
def linkNext (s : State) (port : Nat) : State :=
  s.modFab fun x => { x with cseq := sput 0 (4096 + port) ((sget 0 (4096 + port) x.cseq + 1) % 2 ^ 16) x.cseq }

/-- A HEALTH report to the Ringmaster (14 R420), from a package that may send it (13 R393). -/
def health (s : State) (kind : Nat) (args : List Nat) : State :=
  if 2 ≤ s.enrolled && s.on FAB_ENROL fFAB_ENROL_RM_VALID then
    s.sendCtrl (s.rd FAB_ENROL fFAB_ENROL_RM) 0x3C (s.msgHead kind s.node ++ args)
  else s

end State

end Sys2Proof.Machine
end

