-- ==== Sys2Proof/Machine/CoreOps.lean ====
section
/-!
DEFINITION. Machine/CoreOps.lean: operations that the rows of a core share: streams and their state, scalar registers,
turnstiles (09 R259, R260), tick starts and the launch gate (08 R232, R234), completion with its turnstile side effects and
the slip check (09 R246, 08 R236), rejection at issue (09 R254), probes ended (07 R203, R204).
-/

namespace Sys2Proof.Machine

/-- The STATE field of a stream in SQ_STATUS (09 R276). -/
def stateFld : Nat → Fld
  | 1 => fSQ_STATUS_STATE_F
  | 2 => fSQ_STATUS_STATE_B
  | _ => fSQ_STATUS_STATE_U

/-- The FAULT bit of a stream in SQ_EVENTS (09 R276). -/
def faultFld : Nat → Fld
  | 1 => fSQ_EVENTS_FAULT_F
  | 2 => fSQ_EVENTS_FAULT_B
  | _ => fSQ_EVENTS_FAULT_U

/-- The replay bit of a stream in QC_STATUS (05 R149). -/
def replayFld : Nat → Fld
  | 1 => fQC_STATUS_REPLAY_F
  | 2 => fQC_STATUS_REPLAY_B
  | _ => fQC_STATUS_REPLAY_U

/-- Stream states (09 R241). -/
def stIdle : Nat := 0
def stRun : Nat := 1
def stHalted : Nat := 2
def stFault : Nat := 3
def stStopped : Nat := 4

namespace State

def stState (s : State) (b i : Nat) : Nat := s.rd (SQ_STATUS b) (stateFld i)

def setSt (s : State) (b i v : Nat) : State := s.wr (SQ_STATUS b) (stateFld i) v

def pc (s : State) (b i : Nat) : Nat := s.rd (SQS_PC b (i - 1)) fSQS_PC_PC

def setPc (s : State) (b i v : Nat) : State := s.wr (SQS_PC b (i - 1)) fSQS_PC_PC v

/-- Scalar register r of a stream; s0 reads 0 (09 R241). -/
def sreg (s : State) (b i r : Nat) : Nat := if r = 0 then 0 else (s.reg (SQS_S b ((i - 1) * 32 + r))).toNat

/-- A scalar register written; s0 ignores writes (09 R241). -/
def setSreg (s : State) (b i r v : Nat) : State :=
  if r = 0 then s else s.setReg (SQS_S b ((i - 1) * 32 + r)) (BitVec.ofNat 64 v)

/-- The stream's epoch (09 R262). -/
def epoch (s : State) (b i : Nat) : Nat := s.rd (SQS_CFG b (i - 1)) fSQS_CFG_EPOCH

/-- The stream is in a Safety-net replay (05 R130). -/
def inReplay (s : State) (b i : Nat) : Bool := s.on (QC_STATUS b) (replayFld i)

/-- A turnstile is met: COUNT - TARGET as a signed 32-bit number is at least 0 (09 R259). -/
def met (s : State) (ts : Nat) : Bool :=
  (s.rd (TS_COUNT ts) fTS_COUNT_COUNT + 2 ^ 32 - s.rd (TS_TARGET ts) fTS_TARGET_TARGET) % 2 ^ 32 < 2 ^ 31

/-- An increment at its bank: added when its stamp is the turnstile's EPOCH, else discarded and counted (09 R260). -/
def applyInc (s : State) (x : IncMsg) : State :=
  let cur := s.rd (TS_STATE x.ts) fTS_STATE_EPOCH
  if cur = x.stamp then s.wr (TS_COUNT x.ts) fTS_COUNT_COUNT ((s.rd (TS_COUNT x.ts) fTS_COUNT_COUNT + x.amount) % 2 ^ 32)
  else
    ((((s.bump TS_STALE fTS_STALE_COUNT 1).wr TS_STALE_LAST fTS_STALE_LAST_NODE x.node).wr TS_STALE_LAST fTS_STALE_LAST_STAMP x.stamp).wr
      TS_STALE_LAST fTS_STALE_LAST_CUR cur).wr TS_STALE_LAST fTS_STALE_LAST_TS x.ts

/-- TRESET of one turnstile (09 R261). -/
def resetTs (s : State) (ts tgt ep : Nat) : State :=
  ((s.wr (TS_COUNT ts) fTS_COUNT_COUNT 0).wr (TS_TARGET ts) fTS_TARGET_TARGET tgt).wr (TS_STATE ts) fTS_STATE_EPOCH ep

/-- The beat of the package (08 R226). -/
def beat (s : State) : Nat := s.rd TIME_BEAT fTIME_BEAT_BEAT

/-- The start beat of tick t under the segment that governs it (08 R232, R234). -/
def tickStart (s : State) (t : Nat) : Nat :=
  if s.on TIME_PEND_TICK fTIME_PEND_TICK_VALID && s.rd TIME_PEND_TICK fTIME_PEND_TICK_TICK ≤ t then
    s.rd TIME_PEND_BEAT fTIME_PEND_BEAT_BEAT + (t - s.rd TIME_PEND_TICK fTIME_PEND_TICK_TICK) * s.rd TIME_PEND_LEN fTIME_PEND_LEN_LEN
  else
    (Int.ofNat (s.rd TIME_SEG_BEAT fTIME_SEG_BEAT_BEAT)
      + (Int.ofNat t - Int.ofNat (s.rd TIME_SEG_TICK fTIME_SEG_TICK_TICK)) * Int.ofNat (s.rd TIME_SEG_LEN fTIME_SEG_LEN_LEN)).toNat

/-- The launch gate is open (08 R232). -/
def gateOpen (s : State) : Bool := s.rd TIME_STATUS fTIME_STATUS_GATE = 0

/-- The beat replica of a core's zone (08 R227). -/
def zbeat (s : State) (b : Nat) : Nat := s.rd (TIME_ZBEAT (zoneOf b)) fTIME_ZBEAT_BEAT

/-- The slip check of an instruction that completes (08 R236). -/
def slipCheck (s : State) (b : Nat) (tick : Option Nat) : State :=
  match tick with
  | none => s
  | some t =>
    if s.gateOpen && s.tickStart (t + 1) < s.zbeat b && !(s.core b).slips.contains t then
      let s := s.modCore b fun c => { c with slips := setIns t c.slips }
      let s := (s.bump (TIME_ZSLIPS (zoneOf b)) fTIME_ZSLIPS_COUNT 1).bump TIME_SLIPS fTIME_SLIPS_COUNT 1
      let s := (s.wr TIME_SLIP_LAST fTIME_SLIP_LAST_CORE b).wr TIME_SLIP_LAST fTIME_SLIP_LAST_TICK t
      let s := s.raise TIME_EVENTS fTIME_EVENTS_SLIP
      if (s.cores.any fun c => c.1 ≠ b && c.2.slips.contains t) then s else s.health 2 [t, 1]
    else s

/-- A job put at the end of a core's list, with the next order number. -/
def addJob (s : State) (b : Nat) (j : Job) : State :=
  s.modCore b fun c => { c with jobs := c.jobs ++ [{ j with ord := c.nextOrd, since := s.beat }], nextOrd := c.nextOrd + 1 }

/-- A job by its order number. -/
def job (s : State) (b ord : Nat) : Option Job := (s.core b).jobs.find? fun j => j.ord = ord

def dropJob (s : State) (b ord : Nat) : State := s.modCore b fun c => { c with jobs := c.jobs.filter fun j => j.ord ≠ ord }

/-- Requests whose instruction has ended unanswered: what still answers them is discarded (12 R359). -/
def retire (s : State) (sep : Nat) (l : List MoveReq) : State :=
  { s with fab := { s.fab with gone := s.fab.gone ++ l.map fun q => (sep, q.tag, q.at_) } }

/-- A failure status recorded for a stream (09 R255). -/
def moveFail (s : State) (b i pc status : Nat) : State :=
  let a := SQS_MFAIL b (i - 1)
  (((s.wr a fSQS_MFAIL_STATUS status).bump a fSQS_MFAIL_COUNT 1).wr a fSQS_MFAIL_PC pc).raise (SQ_EVENTS b) fSQ_EVENTS_MOVEFAIL

/-- The next transaction tag of a core's requests is taken (13 R377). -/
def takeTag (s : State) (b : Nat) : State := s.modCore b fun c => { c with nextTag := (c.nextTag + 1) % 2 ^ 16 }

/-- One increment sent by a core (09 R246, R260, R264): on its way to the package's own bank, or as an INC packet whose
acknowledgement a job waits for; no route, which is counted (13 R396), ends it with DM_TIER_FAIL. `word` is the TINC's word, 0 for a SIGP increment. -/
def sendInc (s : State) (b : Nat) (iss : Issued) (word : Word) (loc : Bool) (node ts amount : Nat) : State :=
  if loc || node = s.node then { s with incs := s.incs ++ [⟨ts, amount, iss.epoch, s.node⟩] }
  else
    let tag := (s.core b).nextTag
    let p := mkPacket s 0x05 2 node b tag 0 (ts * 2 ^ 50 + iss.epoch * 2 ^ 42 + amount * 2 ^ 18) []
    match s.sendReq p with
    | none => ((s.bump FAB_DROP fFAB_DROP_NOROUTE 1).slipCheck b iss.tick).moveFail b iss.stream iss.pc 0x04
    | some s => (s.takeTag b).addJob b ⟨0, .remInc, iss, word, [node, ts], [], [], [], [], [], [⟨tag, 0, 0, true, s.beat⟩], false, .none, none, 0⟩

/-- The SIGP increments of a completed instruction (09 R246). -/
def sigIncs (s : State) (b : Nat) (iss : Issued) : State :=
  iss.sig.foldl (fun s x => s.sendInc b { iss with sig := [], tick := none } 0 x.loc x.node x.ts 1) s

/-- Completion of an instruction: the slip check and its increments (09 R246, 08 R236). -/
def finish (s : State) (b : Nat) (iss : Issued) : State := (s.slipCheck b iss.tick).sigIncs b iss

/-- Lines that a probe filled lose its mark: lowest priority after a cancellation, ordinary when superseded; fills still on
their way keep a mark of stream 0, which says that no probe owns them any more (07 R203, R204). -/
def releaseLines (s : State) (b i pc : Nat) (cancelled : Bool) : State :=
  let f := fun (m : Option (Nat × Nat × Nat)) (l : CacheLine) =>
    if l.probe == (some (b, i, pc)) then { l with probe := m, kind := (if cancelled then .low else l.kind) } else l
  s.modMem fun m => { m with cache := m.cache.map (f none), fills := m.fills.map (f (some (b, 0, 0))) }

/-- Probes of a core cancelled: every one that `f` names (07 R203, R204). -/
def cancelProbes (s : State) (b : Nat) (f : Probe → Bool) : State :=
  let gone := (s.core b).probes.filter f
  if gone.isEmpty then s
  else
    let s := s.modCore b fun c => { c with probes := c.probes.filter fun p => !f p }
    let s := gone.foldl (fun s p => s.releaseLines b p.stream p.pc true) s
    (s.bump (DM_RA_CANCEL b) fDM_RA_CANCEL_COUNT gone.length).raise (DM_EVENTS b) fDM_EVENTS_RA_CANCEL

/-- The fetch buffer of a stream discarded, with the probes of its DMOVs (09 R257). -/
def flush (s : State) (b i : Nat) (next : Option Nat) : State :=
  let st := s.stream b i
  (s.setStream b i { st with fbuf := [], fnext := next, since := s.zbeat b }).cancelProbes b fun p => p.stream = i

/-- A unit's fault register records a rejection (03 R82, 04 R112, 05 R149, 06 R179, 07 R211). -/
def unitFault (s : State) (a code i pc : Nat) : State :=
  (((s.wr a fME_FAULT_CODE code).wr a fME_FAULT_STREAM i).bump a fME_FAULT_COUNT 1).wr a fME_FAULT_PC pc

/-- Rejection at issue: the stream enters FAULT with its PC at the rejected instruction (09 R254). -/
def reject (s : State) (b i pc unit code : Nat) : State :=
  let s := (s.setSt b i stFault).setPc b i pc
  let a := SQS_FAULT b (i - 1)
  let s := ((s.wr a fSQS_FAULT_CODE code).wr a fSQS_FAULT_UNIT unit).wr a fSQS_FAULT_PC pc
  let s := (s.setReg (SQS_WAIT b (i - 1)) 0).flush b i none
  s.raise (SQ_EVENTS b) (faultFld i)

end State

end Sys2Proof.Machine
end

