-- ==== Sys2Proof/Machine/Ecc.lean ====
section
/-!
DEFINITION. Machine/Ecc.lean: the Reed-Solomon code of a stack line (11 R326) and what a read of a line with changed symbols
finds. The code is linear, so the changes alone decide: a change is a symbol position (0-63 data, 64-67 check) and the bits
that differ.
-/

namespace Sys2Proof.Machine

/-- Product in GF(2^8) with x^8 + x^4 + x^3 + x^2 + 1 (11 R326), by shift and add. -/
def gfMulAcc : Nat → Nat → Nat → Nat → Nat
  | 0, _, _, acc => acc
  | n + 1, a, b, acc =>
    gfMulAcc n (if 128 ≤ a then Nat.xor (2 * a % 256) 0x1D else 2 * a) (b / 2) (if b % 2 = 1 then Nat.xor acc a else acc)

def gfMul (a b : Nat) : Nat := gfMulAcc 8 a b 0

/-- A power of alpha = 2. -/
def gfAlpha : Nat → Nat
  | 0 => 1
  | n + 1 => gfMul (gfAlpha n) 2

/-- Syndrome j of a set of changes: byte i is the coefficient of x^(67 - i) (11 R326). -/
def syndrome (errs : List (Nat × Nat)) (j : Nat) : Nat :=
  errs.foldl (fun a e => Nat.xor a (gfMul e.2 (gfAlpha (j * (67 - e.1) % 255)))) 0

/-- The changes that poison a line: every check byte XORed with 0xFF (11 R331). -/
def poisonErrs : List (Nat × Nat) := [(64, 255), (65, 255), (66, 255), (67, 255)]

/-- What a read of a line finds (11 R326, R331). -/
inductive EccRes where
  | clean
  | fixed (sym mask : Nat)
  | poisoned
  | uncorrectable
  deriving DecidableEq, Repr

/-- Decoding of a line from its changes (11 R326, R331). -/
def eccDecode (errs : List (Nat × Nat)) : EccRes :=
  let sy := fun (l : List (Nat × Nat)) => [syndrome l 0, syndrome l 1, syndrome l 2, syndrome l 3]
  let s := sy errs
  if s = [0, 0, 0, 0] then .clean
  else if s = sy poisonErrs then .poisoned
  else match (List.range 68).find? fun i => s.getD 0 0 ≠ 0 && s = sy [(i, s.getD 0 0)] with
    | some i => .fixed i (s.getD 0 0)
    | none => .uncorrectable

/-- The 64 bytes a read returns: the stored ones with the changes and the correction applied. -/
def eccData (errs : List (Nat × Nat)) (fix : Option (Nat × Nat)) (bytes : List Nat) : List Nat :=
  let all := errs ++ fix.toList
  if all.isEmpty then bytes
  else bytes.zipIdx.map fun p => (all.filter fun e => e.1 = p.2).foldl (fun a e => Nat.xor a e.2) p.1

end Sys2Proof.Machine
end

