-- ==== Sys2Proof/Machine/StackMem.lean ====
section
/-!
DEFINITION. Machine/StackMem.lean: the stacks and their caches (chapter 11): where an offset lies (R318, R319), responses
(R320), the cache with its hints and use counts (R321-R324), correction and fencing (R326-R330), compaction (R331).
-/

namespace Sys2Proof.Machine

/-- Responses of a memory access, numbered as the fabric's statuses (11 R320, 13 R380). -/
def rsOk : Nat := 0
def rsUe : Nat := 1
def rsPoison : Nat := 2
def rsFenced : Nat := 3
def rsUnmapped : Nat := 4
def rsRefused : Nat := 5

/-- What an access leaves and answers. -/
structure Rsp where
  s : State
  st : Nat
  data : List Nat
  deriving DecidableEq, Repr

/-- The access hints of 11 R322: code, use count; whether firmware or the directory walker makes the access (12 R349). -/
structure Hint where
  code : Nat
  use : Nat
  fw : Bool
  deriving DecidableEq, Repr

def Hint.none : Hint := ⟨0, 0, false⟩

/-- Pieces of a range that do not cross a line (11 R316): `n` bounds their number. -/
def linePieces : Nat → Nat → Nat → List (Nat × Nat)
  | 0, _, _ => []
  | n + 1, a, len => if len = 0 then [] else
      let k := min len (64 - a % 64)
      (a, k) :: linePieces n (a + k) (len - k)

def pieces (a len : Nat) : List (Nat × Nat) := linePieces (len / 64 + 2) a len

/-- The channel of a line under an interleave: chunks of four lines go round the live channels (11 R319, R335). -/
def chanOf (live : List Nat) (line : Nat) : Nat := live.getD (line / 4 % live.length) 0

/-- The key of a line of a unit: sites 0 to 9, dies 10 and 11. -/
def lineKey (unit line : Nat) : Nat := unit * 2 ^ 40 + line

/-- The cache set of a line (11 R321; log entry 20). -/
def setOf (line : Nat) : Nat := line % 8192

/-- Kept and counted lines are protected (11 R322). -/
def LineKind.prot : LineKind → Bool
  | .kept => true
  | .counted _ => true
  | _ => false

def CacheLine.isAt (l : CacheLine) (site line : Nat) : Bool := l.site = site && l.line = line

/-- A copy of a line with bytes written over it from an offset on (11 R321). -/
def CacheLine.patch (l : CacheLine) (k : Nat) (bytes : List Nat) : CacheLine :=
  if l.data.isEmpty then l else { l with data := l.data.take k ++ bytes ++ l.data.drop (k + bytes.length) }

def CacheLine.inSet (l : CacheLine) (site line : Nat) : Bool := l.site = site && setOf l.line = setOf line

namespace State

/-- The interleaved channels of a site: those not mapped out (11 R319, R344). -/
def siteLive (s : State) (site : Nat) : List Nat :=
  (List.range 32).filter fun c => s.rd (MEM_CH site c) fMEM_CH_STATE ≠ 2

def siteRange (s : State) (site : Nat) : Nat := s.rd (MEM_RANGE site) fMEM_RANGE_BYTES

def siteState (s : State) (site : Nat) : Nat := s.rd (MEM_STATUS site) fMEM_STATUS_STATE

def cen (s : State) (site : Nat) : Bool := s.on (MEM_CTRL site) fMEM_CTRL_CEN

/-- A line of a unit reads as a compaction poisoned it (11 R331, R339). -/
def poisoned (s : State) (unit line : Nat) : Bool :=
  !s.mem.healed.contains (lineKey unit line)
    && s.mem.poison.any fun p => p.unit = unit && decide (line * 64 < p.range) && p.fenced.contains (chanOf p.live line)

/-- The changes of a line's stored symbols: those listed, and the poison pattern of a poisoned stack line (11 R326, R331). -/
def lineErrs (s : State) (unit line : Nat) : List (Nat × Nat) :=
  ((s.mem.flips.filter fun p => p.1 / 256 = lineKey unit line).map fun p => (p.1 % 256, p.2))
    ++ (if s.poisoned unit line && unit < 10 then poisonErrs else [])

/-- Changes that have come upon a line's stored symbols. -/
def disturb (s : State) (unit line : Nat) (errs : List (Nat × Nat)) : State :=
  s.modMem fun m => { m with flips := errs.foldl (fun f e =>
    let k := lineKey unit line * 256 + e.1 % 256
    sput 0 k (Nat.xor (sget 0 k f) (e.2 % 256)) f) m.flips }

/-- A line written anew: no changed symbol, no poison (11 R331). -/
def lineClean (s : State) (unit line : Nat) : State :=
  s.modMem fun m => { m with
    flips := m.flips.filter fun p => p.1 / 256 ≠ lineKey unit line
    healed := if s.poisoned unit line then setIns (lineKey unit line) m.healed else m.healed }

/-- Cached lines and pending fills that a predicate names invalidated (11 R321, R330). -/
def dropLines (s : State) (f : CacheLine → Bool) : State :=
  s.modMem fun m => { m with cache := m.cache.filter fun l => !f l, fills := m.fills.filter fun l => !f l }

/-- A site with a channel fenced or mapped out is DEGRADED; a FAILED one stays FAILED until the next cold start (11 R332). -/
def showDegraded (s : State) (site : Nat) : State :=
  if s.siteState site = 4 then s else s.wr (MEM_STATUS site) fMEM_STATUS_STATE 3

/-- A channel is fenced: its lines leave the cache, its bit is set, the fence is reported (11 R328, R330, 14 R420). -/
def fenceSite (s : State) (site ch reason : Nat) : State :=
  if s.rd (MEM_CH site ch) fMEM_CH_STATE ≠ 0 || s.siteRange site = 0 then s
  else
    let live := s.siteLive site
    let s := s.dropLines fun l => l.site = site && chanOf live l.line = ch
    let s := (s.wr (MEM_CH site ch) fMEM_CH_STATE 1).wr (MEM_CH site ch) fMEM_CH_REASON reason
    let s := s.orF (MEM_CH_FENCED site) fMEM_CH_FENCED_MAP (2 ^ ch)
    let m := s.rd (MEM_CH_LIVE site) fMEM_CH_LIVE_MAP
    let s := s.wr (MEM_CH_LIVE site) fMEM_CH_LIVE_MAP (if m / 2 ^ ch % 2 = 1 then m - 2 ^ ch else m)
    let s := s.showDegraded site
    (s.raise (MEM_EVENTS site) fMEM_EVENTS_FENCE).health 5 [site, ch]

/-- An error of a channel remembered for one second; older ones are forgotten (11 R328). -/
def remember (s : State) (r : ErrRec) : State :=
  s.modMem fun m => { m with recent := r :: m.recent.filter fun x => decide (s.beat < x.beat + 1000000000) }

/-- Corrected reads of a channel within the last second, and distinct lines with UE or POISON (11 R328). -/
def recentCe (s : State) (unit ch : Nat) : Nat := (s.mem.recent.filter fun r => r.unit = unit && r.ch = ch && !r.ue).length

def recentUe (s : State) (unit ch : Nat) : Nat :=
  ((s.mem.recent.filter fun r => r.unit = unit && r.ch = ch && r.ue).map (·.line)).eraseDups.length

/-- The thresholds of a channel checked: UE or POISON lines, then corrected reads (11 R328). -/
def siteThresholds (s : State) (site ch : Nat) : State :=
  if max 1 (s.rd (MEM_THRESH site) fMEM_THRESH_UE_THR) ≤ s.recentUe site ch then s.fenceSite site ch 2
  else if s.rd (MEM_THRESH site) fMEM_THRESH_CE_THR ≤ s.recentCe site ch then s.fenceSite site ch 3 else s

/-- A read error of a line recorded: kind 1 corrected, 2 UE, 3 POISON; reads with the probe flag never fence (11 R326, R328). -/
def siteError (s : State) (site line kind sym : Nat) (probe : Bool) : State :=
  let ch := chanOf (s.siteLive site) line
  let s := match kind with
    | 1 => (s.bump (MEM_CE site) fMEM_CE_COUNT 1).bump (MEM_CH site ch) fMEM_CH_CE 1
    | 2 => (s.bump (MEM_UE site) fMEM_UE_COUNT 1).bump (MEM_CH site ch) fMEM_CH_UE 1
    | _ => (s.bump (MEM_POISON site) fMEM_POISON_COUNT 1).bump (MEM_CH site ch) fMEM_CH_UE 1
  let e := MEM_ERR_LAST site
  let s := (((s.wr e fMEM_ERR_LAST_KIND kind).wr e fMEM_ERR_LAST_CH ch).wr e fMEM_ERR_LAST_PC (line % 2)).wr e fMEM_ERR_LAST_SYMBOL sym
  let s := s.wr (MEM_ERR_ADDR site) fMEM_ERR_ADDR_OFFSET (line * 64)
  let s := s.raise (MEM_EVENTS site) (match kind with | 1 => fMEM_EVENTS_CE | 2 => fMEM_EVENTS_UE | _ => fMEM_EVENTS_POISON)
  if probe then s else (s.remember ⟨site, ch, kind ≠ 1, line, s.beat⟩).siteThresholds site ch

/-- A line read from the stack, past the cache (11 R326): the response and the 64 bytes. -/
def dramRead (s : State) (site line : Nat) (probe : Bool) : Rsp :=
  let errs := s.lineErrs site line
  let bytes := memBytes s.mem.stack (site * 2 ^ 38 + line * 64) 64
  match eccDecode errs with
  | .clean => ⟨s, rsOk, eccData errs none bytes⟩
  | .fixed k v => ⟨s.siteError site line 1 k probe, rsOk, eccData errs (some (k, v)) bytes⟩
  | .poisoned => ⟨s.siteError site line 3 255 probe, rsPoison, []⟩
  | .uncorrectable => ⟨s.siteError site line 2 255 probe, rsUe, []⟩

/-- The data of a line of the stack as a read past the cache that succeeds returns it. -/
def dramData (s : State) (site line : Nat) : List Nat :=
  let errs := s.lineErrs site line
  let bytes := memBytes s.mem.stack (site * 2 ^ 38 + line * 64) 64
  match eccDecode errs with
  | .fixed k v => eccData errs (some (k, v)) bytes
  | _ => eccData errs none bytes

/-- The directory range of the stack tier (12 R349). -/
def inDirRange (s : State) (off : Nat) : Bool :=
  let b := s.rd DIR_BASE fDIR_BASE_BASE * 2 ^ 26
  b ≤ off && off < b + 2 ^ 26

/-- Where an access to a stack offset ends before its line is touched: unmapped, fenced, or not (11 R318, R320, R330, R331). -/
def stackGate (s : State) (off : Nat) : Nat :=
  let site := off / 2 ^ 38
  let a := off % 2 ^ 38
  if 10 ≤ site || s.siteState site = 0 || s.siteState site = 4 then rsUnmapped
  else if s.on (MEM_STATUS site) fMEM_STATUS_COMPACTING then rsFenced
  else if s.siteRange site ≤ a then rsUnmapped
  else if s.rd (MEM_CH site (chanOf (s.siteLive site) (a / 64))) fMEM_CH_STATE = 1 then rsFenced
  else rsOk

/-- An UNMAPPED response counted at its site (11 R320). -/
def countUnmapped (s : State) (off : Nat) : State :=
  let site := off / 2 ^ 38
  if 10 ≤ site || s.siteState site = 0 then s
  else (s.bump (MEM_UNMAP site) fMEM_UNMAP_COUNT 1).raise (MEM_EVENTS site) fMEM_EVENTS_UNMAPPED

def cached (s : State) (site line : Nat) : Option CacheLine := s.mem.cache.find? fun l => l.isAt site line

/-- The data of a line as a read that succeeds returns it: the resident copy's, else the stack's (11 R321, R326). -/
def lineData (s : State) (site line : Nat) : List Nat :=
  match if s.cen site then s.cached site line else none with
  | some l => l.data
  | none => s.dramData site line

/-- The least recently used protected lines beyond PROTW of a set become unprotected (11 R324). -/
def demote (s : State) (site line : Nat) : State :=
  let prot := s.mem.cache.filter fun l => l.inSet site line && l.kind.prot
  if prot.length ≤ s.rd (MEM_CACHE_CFG site) fMEM_CACHE_CFG_PROTW then s
  else match prot.getLast? with
    | none => s
    | some v =>
      let s := s.modMem fun m => { m with cache := m.cache.map fun l => if l.isAt v.site v.line then { l with kind := .ordinary } else l }
      s.bump (MEM_C_DEMOTE site) fMEM_C_DEMOTE_COUNT 1

/-- A resident line moved to the front of the recency order with a new class; an ordinary access has touched it. -/
def touch (s : State) (site line : Nat) (k : LineKind) : State :=
  (s.modMem fun m => { m with
    cache := (m.cache.filterMap fun l => if l.isAt site line then some { l with kind := k, probe := none } else none)
      ++ m.cache.filter fun l => !l.isAt site line }).demote site line

/-- A resident line whose class changes in its place. -/
def reclass (s : State) (site line : Nat) (k : LineKind) : State :=
  s.modMem fun m => { m with cache := m.cache.map fun l => if l.isAt site line then { l with kind := k, probe := none } else l }

def evict (s : State) (site line : Nat) : State :=
  s.modMem fun m => { m with cache := m.cache.filter fun l => !l.isAt site line }

/-- The victim of a set of 16 ways: none needed, a lowest-priority line, the least recently used unprotected line (11 R324). -/
def victim (s : State) (site line : Nat) : Option (Option CacheLine) :=
  let ways := s.mem.cache.filter fun l => l.inSet site line
  if ways.length < 16 then some none
  else match (ways.filter fun l => l.kind = .low).getLast? with
    | some l => some (some l)
    | none => match (ways.filter fun l => !l.kind.prot).getLast? with
      | some l => some (some l)
      | none => none

/-- A line enters the cache as the most recent of its set: whether it did (11 R324). -/
def allocate (s : State) (l : CacheLine) : State × Bool :=
  let ways := s.mem.cache.filter fun x => x.inSet l.site l.line && x.kind.prot
  let limit := s.rd (MEM_CACHE_CFG l.site) fMEM_CACHE_CFG_PROTW
  let excess := l.kind.prot && decide (limit ≤ ways.length)
  let s := if excess then
      match ways.getLast? with
      | some v => (s.modMem fun m => { m with cache := m.cache.map fun x => if x.isAt v.site v.line then { x with kind := .ordinary } else x })
      | none => s
    else s
  let s := if excess then s.bump (MEM_C_DEMOTE l.site) fMEM_C_DEMOTE_COUNT 1 else s
  let l := if excess && limit = 0 then { l with kind := .ordinary } else l
  match s.victim l.site l.line with
  | none => (s, false)
  | some none => (s.modMem fun m => { m with cache := l :: m.cache }, true)
  | some (some v) => ((s.evict v.site v.line).modMem fun m => { m with cache := l :: m.cache }, true)

/-- A fill on its way with the data its read returned; an ordinary access makes a fill already on its way its own (11 R321, R322). -/
def startFill (s : State) (l : CacheLine) : State :=
  if s.mem.fills.any fun x => x.isAt l.site l.line then
    if l.probe.isSome then s
    else s.modMem fun m => { m with fills := m.fills.map fun x => if x.isAt l.site l.line then l else x }
  else s.modMem fun m => { m with fills := m.fills ++ [l] }

/-- The effect of a read hit on a resident line (11 R322, R323). -/
def readHit (s : State) (site line : Nat) (h : Hint) (k : LineKind) : State :=
  if h.code = 2 then s.touch site line .kept
  else if h.code = 3 then (if h.use = 0 then s.evict site line else s.touch site line (.counted h.use))
  else match k with
    | .counted n =>
      if n ≤ 1 then s.evict site line
      else if h.code = 0 then s.touch site line (.counted (n - 1)) else s.reclass site line (.counted (n - 1))
    | .low => if h.code = 0 then s.touch site line .ordinary else s.reclass site line .low
    | k => if h.code = 0 then s.touch site line k else s.reclass site line k

/-- The fill that a read miss starts (11 R322). -/
def readMissFill (s : State) (site line : Nat) (h : Hint) (data : List Nat) : State :=
  match h.code with
  | 0 => s.startFill ⟨site, line, .ordinary, none, data⟩
  | 1 => s
  | 2 => s.startFill ⟨site, line, .kept, none, data⟩
  | _ => if h.use = 0 then s else s.startFill ⟨site, line, .counted h.use, none, data⟩

/-- One line read from the cache of its site or past it, before the read's effect on the cache (11 R320, R321, R326). -/
def stackReadLine (s : State) (off : Nat) : Rsp :=
  let site := off / 2 ^ 38
  let line := off % 2 ^ 38 / 64
  let g := s.stackGate off
  if g = rsUnmapped then ⟨s.countUnmapped off, g, []⟩
  else if g ≠ rsOk then ⟨s, g, []⟩
  else if !s.cen site then s.dramRead site line false
  else match s.cached site line with
    | some l => ⟨s.bump (MEM_C_HIT site) fMEM_C_HIT_COUNT 1, rsOk, l.data⟩
    | none => (s.bump (MEM_C_MISS site) fMEM_C_MISS_COUNT 1).dramRead site line false

/-- What a line that was read does to the cache (11 R322-R324); nothing when its channel has been fenced by then. -/
def readUse (s : State) (off : Nat) (h : Hint) (data : List Nat) : State :=
  let site := off / 2 ^ 38
  let line := off % 2 ^ 38 / 64
  if !s.cen site || s.stackGate off ≠ rsOk then s
  else match s.cached site line with
    | some l => s.readHit site line h l.kind
    | none => s.readMissFill site line h data

/-- Lines of a list of pieces read one after the other, with the line that each gives; the first failure ends the access (11 R320). -/
def stackReadLines : List (Nat × Nat) → State → State × Nat × List (List Nat)
  | [], s => (s, rsOk, [])
  | p :: t, s =>
    let r := s.stackReadLine p.1
    if r.st = rsOk then
      let rest := stackReadLines t r.s
      (rest.1, rest.2.1, r.data :: rest.2.2)
    else (r.s, r.st, [])

/-- A read of the stack tier (11 R320-R326): one that fails leaves the caches' lines as they were. -/
def stackRead (s : State) (off len : Nat) (h : Hint) : Rsp :=
  let ps := pieces off len
  let r := stackReadLines ps s
  if r.2.1 = rsOk then
    ⟨(ps.zip r.2.2).foldl (fun s x => s.readUse x.1.1 h x.2) r.1, rsOk, (ps.zip r.2.2).flatMap fun x => (x.2.drop (x.1.1 % 64)).take x.1.2⟩
  else ⟨r.1, r.2.1, []⟩

/-- The effect of a write on the cache (11 R322): it allocates a line only when it covers it. -/
def writeCache (s : State) (site line : Nat) (bytes : List Nat) (h : Hint) : State :=
  let res := (s.cached site line).isSome
  let put := fun (k : LineKind) =>
    if res then s.touch site line k else if bytes.length = 64 then (s.allocate ⟨site, line, k, none, bytes⟩).1 else s
  match h.code with
  | 2 => put .kept
  | 3 => if h.use = 0 then s.evict site line else put (.counted h.use)
  | _ => s.modMem fun m => { m with cache := m.cache.map fun l => if l.isAt site line then { l with probe := none } else l }

/-- Where a write to a stack offset ends: as a read does, and unmapped in the directory's range unless firmware makes it (12 R349). -/
def writeGate (s : State) (h : Hint) (off : Nat) : Nat := if !h.fw && s.inDirRange off then rsUnmapped else s.stackGate off

/-- One piece of a line written through, with the resident or pending copy (11 R321, R322): a partial write re-encodes its line, which an
uncorrectable one cannot be (log entry 21). -/
def stackWriteLine (s : State) (off : Nat) (bytes : List Nat) (h : Hint) : State :=
  let site := off / 2 ^ 38
  let line := off % 2 ^ 38 / 64
  let keep := bytes.length ≠ 64 && !s.poisoned site line && eccDecode (s.lineErrs site line) = .uncorrectable
  let s := if keep then s else s.lineClean site line
  let copy := fun (l : CacheLine) => if l.isAt site line then l.patch (off % 64) bytes else l
  let s := s.modMem fun m => { m with stack := memStore m.stack off bytes, cache := m.cache.map copy, fills := m.fills.map copy }
  if s.cen site then s.writeCache site line bytes h else s

def stackWriteLines (h : Hint) : List (Nat × Nat) → List Nat → State → State
  | [], _, s => s
  | p :: t, bs, s => stackWriteLines h t (bs.drop p.2) (s.stackWriteLine p.1 (bs.take p.2) h)

/-- A write of the stack tier (11 R320-R322): one that fails at any of its lines changes none. -/
def stackWrite (s : State) (off : Nat) (bytes : List Nat) (h : Hint) : Rsp :=
  let ps := pieces off bytes.length
  match ps.find? fun p => s.writeGate h p.1 ≠ rsOk with
  | some p => ⟨if s.writeGate h p.1 = rsUnmapped then s.countUnmapped p.1 else s, s.writeGate h p.1, []⟩
  | none => ⟨stackWriteLines h ps bytes s, rsOk, []⟩

/-- A probe read of a line (07 R201, R202): a fill with the probe's mark when the line is not cached; with the cache off it is
dropped and counted at the core that counts the probe. -/
def probeLine (s : State) (off : Nat) (owner : Nat × Nat × Nat) : State :=
  let site := off / 2 ^ 38
  let line := off % 2 ^ 38 / 64
  let drop := (s.bump (DM_RA_DROP owner.1) fDM_RA_DROP_COUNT 1).raise (DM_EVENTS owner.1) fDM_EVENTS_RA_DROP
  if s.stackGate off ≠ rsOk then drop
  else if !s.cen site then drop
  else if (s.cached site line).isSome then s
  else s.startFill ⟨site, line, .ordinary, some owner, []⟩

/-- Protected lines of a site beyond a number per set, least recently used ones first to go, become unprotected; how many (11 R324). -/
def trimLines (site limit : Nat) : List CacheLine → List Nat → List CacheLine × Nat
  | [], _ => ([], 0)
  | l :: t, seen =>
    if l.site = site && l.kind.prot then
      if limit ≤ seen.count (setOf l.line) then
        let r := trimLines site limit t seen
        ({ l with kind := .ordinary } :: r.1, r.2 + 1)
      else
        let r := trimLines site limit t (setOf l.line :: seen)
        (l :: r.1, r.2)
    else
      let r := trimLines site limit t seen
      (l :: r.1, r.2)

/-- PROTW of a site has been written (11 R324). -/
def protWritten (s : State) (site : Nat) : State :=
  let r := trimLines site (s.rd (MEM_CACHE_CFG site) fMEM_CACHE_CFG_PROTW) s.mem.cache []
  (s.modMem fun m => { m with cache := r.1 }).bump (MEM_C_DEMOTE site) fMEM_C_DEMOTE_COUNT r.2

/-- CEN of a site has been written: nothing stays cached, and the fills of probes are dropped and counted (11 R321, 07 R202). -/
def cenCleared (s : State) (site : Nat) : State :=
  let l := s.mem.fills.filterMap fun l => if l.site = site then l.probe else none
  l.foldl (fun s o => (s.bump (DM_RA_DROP o.1) fDM_RA_DROP_COUNT 1).raise (DM_EVENTS o.1) fDM_EVENTS_RA_DROP) (s.dropLines fun x => x.site = site)

/-- A fill on its way lands (11 R324, 07 R202): a probe's read is made now. -/
def landFill (s : State) (l : CacheLine) : State :=
  let s := s.modMem fun m => { m with fills := m.fills.filter fun x => !x.isAt l.site l.line }
  if (s.cached l.site l.line).isSome then s
  else match l.probe with
    | none =>
      let r := s.allocate l
      if r.2 then r.1.bump (MEM_C_FILL l.site) fMEM_C_FILL_COUNT 1 else r.1
    | some o =>
      let rd := s.dramRead l.site l.line true
      let drop := fun (s : State) => (s.bump (DM_RA_DROP o.1) fDM_RA_DROP_COUNT 1).raise (DM_EVENTS o.1) fDM_EVENTS_RA_DROP
      if rd.st ≠ rsOk then drop rd.s
      else
        let r := rd.s.allocate { l with data := rd.data, probe := if o.2.1 = 0 then none else l.probe }
        if r.2 then (r.1.bump (MEM_C_PROBE l.site) fMEM_C_PROBE_COUNT 1).bump (DM_RA_LINES o.1) fDM_RA_LINES_COUNT 1 else drop r.1

/-- MEM_COMPACT begins: nothing when no channel is fenced; every cached line of the site is invalidated (11 R321, R331). -/
def compactStart (s : State) (site : Nat) : State :=
  if s.rd (MEM_CH_FENCED site) fMEM_CH_FENCED_MAP = 0 then s
  else (s.wr (MEM_STATUS site) fMEM_STATUS_COMPACTING 1).dropLines fun l => l.site = site

/-- The contents of a unit after a compaction: lines from fenced channels are zero and poisoned, lines past the new range are
gone (11 R331). `base` and `size` bound the unit's addresses in its memory. -/
def moveLines (live fenced : List Nat) (base size range : Nat) (m : List Host.Cell) : List Host.Cell :=
  m.filter fun p =>
    !(base ≤ p.1 && p.1 < base + size) || (decide (p.1 - base < range) && !fenced.contains (chanOf live ((p.1 - base) / 64)))

/-- The marks of lines after a compaction of a unit. -/
def moveMarks (m : MemSt) (unit : Nat) (live fenced : List Nat) (range : Nat) : MemSt :=
  let stays := fun (k : Nat) => k / 2 ^ 40 ≠ unit
    || (decide (k % 2 ^ 40 * 64 < range) && !fenced.contains (chanOf live (k % 2 ^ 40)))
  { m with
    flips := m.flips.filter fun p => stays (p.1 / 256)
    healed := m.healed.filter stays
    known := m.known.filter stays
    poison := m.poison ++ [⟨unit, live, fenced, range⟩] }

/-- A site's compaction ends (11 R331). -/
def compactDone (s : State) (site : Nat) : State :=
  let live := s.siteLive site
  let fenced := live.filter fun c => s.rd (MEM_CH site c) fMEM_CH_STATE = 1
  let range := (live.length - fenced.length) * 2 ^ 32
  let s := s.modMem fun m => moveMarks { m with stack := moveLines live fenced (site * 2 ^ 38) (2 ^ 38) range m.stack } site live fenced range
  let s := fenced.foldl (fun s c => (s.wr (MEM_CH site c) fMEM_CH_STATE 2).orF (MEM_CH_OUT site) fMEM_CH_OUT_MAP (2 ^ c)) s
  let s := (s.wr (MEM_CH_FENCED site) fMEM_CH_FENCED_MAP 0).wr (MEM_RANGE site) fMEM_RANGE_BYTES range
  let s := ((s.wr (MEM_STATUS site) fMEM_STATUS_NLIVE (live.length - fenced.length)).wr (MEM_STATUS site) fMEM_STATUS_COMPACTING 0).showDegraded site
  (s.raise (MEM_EVENTS site) fMEM_EVENTS_COMPACT_DONE).raise (MEM_EVENTS site) fMEM_EVENTS_MAPOUT

end State

end Sys2Proof.Machine
end

