-- ==== Sys2Proof/Machine/PeatMem.lean ====
section
/-!
DEFINITION. Machine/PeatMem.lean: the peat tier's modules behind the two update dies (11 R333-R339) and far memory (12 R347).
-/

namespace Sys2Proof.Machine
namespace State

/-- The interleaved channels of a die: those not mapped out (11 R335). -/
def dieLive (s : State) (d : Nat) : List Nat := (List.range 4).filter fun c => s.rd (PT_CH_INFO d c) fPT_CH_INFO_STATE ≠ 2

def dieRange (s : State) (d : Nat) : Nat := s.rd (PT_RANGE d) fPT_RANGE_BYTES

/-- A peat channel is fenced (11 R330, R339). -/
def fenceDie (s : State) (d ch reason : Nat) : State :=
  if s.rd (PT_CH_INFO d ch) fPT_CH_INFO_STATE ≠ 0 || s.dieRange d = 0 then s
  else
    let s := (s.wr (PT_CH_INFO d ch) fPT_CH_INFO_STATE 1).wr (PT_CH_INFO d ch) fPT_CH_INFO_REASON reason
    let s := s.wr (PT_STATUS d) fPT_STATUS_STATE 3
    (s.raise (PT_EVENTS d) fPT_EVENTS_FENCE).health 5 [10 + d, ch]

/-- The thresholds of a channel checked: UE or POISON lines, then corrected reads (11 R328). -/
def dieThresholds (s : State) (d ch : Nat) : State :=
  if max 1 (s.rd (PT_THRESH d) fPT_THRESH_UE_THR) ≤ s.recentUe (10 + d) ch then s.fenceDie d ch 2
  else if s.rd (PT_THRESH d) fPT_THRESH_CE_THR ≤ s.recentCe (10 + d) ch then s.fenceDie d ch 3 else s

/-- A read error of a peat line: kind 1 corrected (with its device), 2 UE, 3 POISON (11 R337, R345). -/
def dieError (s : State) (d line kind dev : Nat) : State :=
  let live := s.dieLive d
  let ch := chanOf live line
  let s := match kind with
    | 1 => (s.bump (PT_CE d) fPT_CE_COUNT 1).bump (PT_CH_ERR d ch) fPT_CH_ERR_CE 1
    | 2 => (s.bump (PT_UE d) fPT_UE_COUNT 1).bump (PT_CH_ERR d ch) fPT_CH_ERR_UE 1
    | _ => (s.bump (PT_POISON d) fPT_POISON_COUNT 1).bump (PT_CH_ERR d ch) fPT_CH_ERR_UE 1
  let e := PT_ERR_LAST d
  let sub := line % 2
  let per := if s.rd (PT_CH_INFO d ch) fPT_CH_INFO_WIDTH = 1 then 5 else 10
  let s := (((s.wr e fPT_ERR_LAST_KIND kind).wr e fPT_ERR_LAST_CH ch).wr e fPT_ERR_LAST_SUB sub).wr e fPT_ERR_LAST_DEV
    (if kind = 1 then sub * per + dev else 31)
  let s := s.wr (PT_ERR_ADDR d) fPT_ERR_ADDR_ADDR (line * 64)
  let s := s.raise (PT_EVENTS d) (match kind with | 1 => fPT_EVENTS_CE | 2 => fPT_EVENTS_UE | _ => fPT_EVENTS_POISON)
  (s.remember ⟨10 + d, ch, kind ≠ 1, line, s.beat⟩).dieThresholds d ch

/-- Where an access to a die-local address ends before its line is touched (11 R320, R335, R339). -/
def peatGate (s : State) (d a : Nat) : Nat :=
  if 2 ≤ d then rsUnmapped
  else if s.on (PT_STATUS d) fPT_STATUS_COMPACTING then rsFenced
  else if s.dieRange d ≤ a then rsUnmapped
  else if s.rd (PT_CH_INFO d (chanOf (s.dieLive d) (a / 64))) fPT_CH_INFO_STATE = 1 then rsFenced
  else rsOk

def countPtUnmapped (s : State) (d : Nat) : State :=
  if 2 ≤ d then s else (s.bump (PT_UNMAP d) fPT_UNMAP_COUNT 1).raise (PT_EVENTS d) fPT_EVENTS_UNMAPPED

/-- The line as stored, at its place in the peat tier (11 R335). -/
def peatBytes (s : State) (d line : Nat) : List Nat := memBytes s.mem.peat (d * 2 ^ 40 + line * 64) 64

/-- A peat line holds defined data: it has been written since the cold start, or a compaction wrote it (11 R331, R338). -/
def peatKnown (s : State) (d line : Nat) : Bool := s.mem.known.contains (lineKey (10 + d) line) || s.poisoned (10 + d) line

/-- A read whose outcome the spec leaves open (11 R337, R338; log entry 22): undefined bytes, or UE. -/
def peatOpen (s : State) (d line : Nat) : Rsp :=
  let k := s.freeCtr
  let s := { s with freeCtr := k + 1 }
  if Config.peatPasses k then ⟨s, rsOk, (List.range 64).map fun i => Config.peatByte k i % 256⟩ else ⟨s.dieError d line 2 31, rsUe, []⟩

/-- One line read from the modules (11 R337): changes on one device are corrected, on two end UE; a line never written since the cold start
reads undefined data or UE (R338). -/
def peatReadLine (s : State) (d a : Nat) : Rsp :=
  let line := a / 64
  let g := s.peatGate d a
  if g = rsUnmapped then ⟨s.countPtUnmapped d, g, []⟩
  else if g ≠ rsOk then ⟨s, g, []⟩
  else if s.poisoned (10 + d) line then ⟨s.dieError d line 3 31, rsPoison, []⟩
  else if !s.peatKnown d line then s.peatOpen d line
  else match s.lineErrs (10 + d) line with
    | [] => ⟨s, rsOk, s.peatBytes d line⟩
    | [e] => ⟨s.dieError d line 1 e.1, rsOk, s.peatBytes d line⟩
    | [_, _] => ⟨s.dieError d line 2 31, rsUe, []⟩
    | _ => s.peatOpen d line

def peatReadPieces (d : Nat) : List (Nat × Nat) → State → Rsp
  | [], s => ⟨s, rsOk, []⟩
  | p :: t, s =>
    let r := s.peatReadLine d p.1
    if r.st = rsOk then
      let rest := peatReadPieces d t r.s
      if rest.st = rsOk then ⟨rest.s, rsOk, ((r.data.drop (p.1 % 64)).take p.2) ++ rest.data⟩ else ⟨rest.s, rest.st, []⟩
    else ⟨r.s, r.st, []⟩

/-- A read of a die's own modules (11 R336). -/
def peatRead (s : State) (d a len : Nat) : Rsp := peatReadPieces d (pieces a len) s

/-- One piece of a line written to the modules (11 R336): as at a stack site, an uncorrectable line keeps its changes under a
partial write (log entry 21); the other bytes of a line not written before take undefined values (R338). -/
def peatWriteLine (s : State) (d a : Nat) (bytes : List Nat) : State :=
  let line := a / 64
  let keep := bytes.length ≠ 64 && !s.poisoned (10 + d) line && decide (2 ≤ (s.lineErrs (10 + d) line).length)
  let fresh := bytes.length ≠ 64 && !s.peatKnown d line
  let s := if fresh then
      let k := s.freeCtr
      { s with freeCtr := k + 1 }.modMem fun m =>
        { m with peat := memStore m.peat (d * 2 ^ 40 + line * 64) ((List.range 64).map fun i => Config.peatByte k i % 256) }
    else s
  let s := if keep then s else s.lineClean (10 + d) line
  s.modMem fun m => { m with peat := memStore m.peat (d * 2 ^ 40 + a) bytes, known := setIns (lineKey (10 + d) line) m.known }

def peatWriteLines (d : Nat) : List (Nat × Nat) → List Nat → State → State
  | [], _, s => s
  | p :: t, bs, s => peatWriteLines d t (bs.drop p.2) (s.peatWriteLine d p.1 (bs.take p.2))

/-- A write of a die's own modules (11 R320, R336): one that fails at any of its lines changes none. -/
def peatWrite (s : State) (d a : Nat) (bytes : List Nat) : Rsp :=
  let ps := pieces a bytes.length
  match ps.find? fun p => s.peatGate d p.1 ≠ rsOk with
  | some p => ⟨if s.peatGate d p.1 = rsUnmapped then s.countPtUnmapped d else s, s.peatGate d p.1, []⟩
  | none => ⟨peatWriteLines d ps bytes s, rsOk, []⟩

/-- A peat-tier access by anyone but the owning die and firmware: REFUSED, counted in the window of the die that its offset names (11 R320, R336). -/
def peatForeign (s : State) (off : Nat) : Rsp :=
  let d := off / 2 ^ 40
  ⟨if 2 ≤ d then s else (s.bump (PT_UNMAP d) fPT_UNMAP_COUNT 1).raise (PT_EVENTS d) fPT_EVENTS_REFUSED, rsRefused, []⟩

/-- PT_COMPACT begins (11 R331, R339). -/
def dieFenced (s : State) (d : Nat) : List Nat := (s.dieLive d).filter fun c => s.rd (PT_CH_INFO d c) fPT_CH_INFO_STATE = 1

def dieCompactStart (s : State) (d : Nat) : State :=
  if (s.dieFenced d).isEmpty then s else s.wr (PT_STATUS d) fPT_STATUS_COMPACTING 1

/-- The capacity of a die's modules in bytes (11 R334, R335): the reference module's. -/
def moduleBytes (s : State) (d : Nat) : Nat :=
  match s.dieLive d with
  | c :: _ => s.rd (PT_CH_INFO d c) fPT_CH_INFO_CAP * 2 ^ 30
  | [] => 0

/-- A die's compaction ends (11 R331, R335, R339). -/
def dieCompactDone (s : State) (d : Nat) : State :=
  let live := s.dieLive d
  let fenced := s.dieFenced d
  let range := (live.length - fenced.length) * s.moduleBytes d
  let s := s.modMem fun m =>
    moveMarks { m with peat := moveLines live fenced (d * 2 ^ 40) (2 ^ 40) range m.peat } (10 + d) live fenced range
  let s := fenced.foldl (fun s c => s.wr (PT_CH_INFO d c) fPT_CH_INFO_STATE 2) s
  let s := (s.wr (PT_RANGE d) fPT_RANGE_BYTES range).wr (PT_STATUS d) fPT_STATUS_NLIVE (live.length - fenced.length)
  let s := (s.wr (PT_STATUS d) fPT_STATUS_COMPACTING 0).wr (PT_STATUS d) fPT_STATUS_STATE (if live.length = fenced.length then 4 else 3)
  (s.raise (PT_EVENTS d) fPT_EVENTS_COMPACT_DONE).raise (PT_EVENTS d) fPT_EVENTS_MAPOUT

/-- Where an access to a far-tier offset ends (12 R347): port p = 1 to 3 owns window p - 1. -/
def farGate (s : State) (off : Nat) : Nat :=
  let w := off / 2 ^ 48
  if 3 ≤ w then rsUnmapped
  else if s.rd PKG_CONFIG fPKG_CONFIG_IOMAP / 2 ^ (w + 1) % 2 = 0 then rsUnmapped
  else if !s.on (TIER_FAR w) fTIER_FAR_UP then rsFenced
  else if s.rd (TIER_FAR w) fTIER_FAR_RANGE ≤ off % 2 ^ 48 then rsUnmapped
  else rsOk

def farReadPieces : List (Nat × Nat) → State → Rsp
  | [], s => ⟨s, rsOk, []⟩
  | p :: t, s =>
    let g := s.farGate p.1
    if g ≠ rsOk then ⟨s, g, []⟩
    else if s.mem.farBad.contains (p.1 / 64) then ⟨s, rsUe, []⟩
    else
      let r := farReadPieces t s
      if r.st = rsOk then ⟨r.s, rsOk, memBytes s.mem.far p.1 p.2 ++ r.data⟩ else r

/-- A read of far memory (12 R347). -/
def farRead (s : State) (off len : Nat) : Rsp := farReadPieces (pieces off len) s

def farWriteLines : List (Nat × Nat) → List Nat → State → State
  | [], _, s => s
  | p :: t, bs, s =>
    farWriteLines t (bs.drop p.2) (s.modMem fun m => { m with
      far := memStore m.far p.1 (bs.take p.2)
      farBad := if p.2 = 64 then m.farBad.filter (· ≠ p.1 / 64) else m.farBad })

/-- A write of far memory (12 R347): one that fails at any of its lines changes none. -/
def farWrite (s : State) (off : Nat) (bytes : List Nat) : Rsp :=
  let ps := pieces off bytes.length
  match ps.find? fun p => s.farGate p.1 ≠ rsOk with
  | some p => ⟨s, s.farGate p.1, []⟩
  | none => ⟨farWriteLines ps bytes s, rsOk, []⟩

/-- The fields of a hall address (13 R376). -/
def hallNode (a : Nat) : Nat := a / 2 ^ 52
def hallTier (a : Nat) : Nat := a / 2 ^ 50 % 4
def hallOff (a : Nat) : Nat := a % 2 ^ 50

/-- A hall address names this package (13 R376). -/
def isLocal (s : State) (a : Nat) : Bool := hallNode a = s.node

/-- A read of a hall address of this package (13 R376, 11 R320, 12 R347). -/
def hallRead (s : State) (a len : Nat) (h : Hint) : Rsp :=
  if len = 0 then ⟨s, rsOk, []⟩
  else match hallTier a with
    | 0 => s.stackRead (hallOff a) len h
    | 1 => s.peatForeign (hallOff a)
    | 2 => s.farRead (hallOff a) len
    | _ => ⟨s, rsUnmapped, []⟩

/-- A write of a hall address of this package. -/
def hallWrite (s : State) (a : Nat) (bytes : List Nat) (h : Hint) : Rsp :=
  if bytes.isEmpty then ⟨s, rsOk, []⟩
  else match hallTier a with
    | 0 => s.stackWrite (hallOff a) bytes h
    | 1 => s.peatForeign (hallOff a)
    | 2 => s.farWrite (hallOff a) bytes
    | _ => ⟨s, rsUnmapped, []⟩

/-- The bytes a read of this package's memory returns, without its effects: what lies there as reads see it. -/
def hallPeek (s : State) (a len : Nat) : List Nat :=
  match hallTier a with
  | 0 => (pieces (hallOff a) len).flatMap fun p => ((s.lineData (p.1 / 2 ^ 38) (p.1 % 2 ^ 38 / 64)).drop (p.1 % 64)).take p.2
  | 2 => memBytes s.mem.far (hallOff a) len
  | _ => List.replicate len 0

end State
end Sys2Proof.Machine
end

