-- ==== Sys2Proof/Machine/Directory.lean ====
section
/-!
DEFINITION. Machine/Directory.lean: the tensor directory (chapter 12): entries (R350, R351), translation with the cache and walks
(R353-R355, R361), entries written (R356), the rebuild after a compaction (R362).
-/

namespace Sys2Proof.Machine

/-- Fields of an entry's four words (12 R350). -/
def entWord (e : List Nat) (k : Nat) : Nat := e.getD k 0
def entValid (e : List Nat) : Bool := nbitsAt (entWord e 0) 63 63 = 1
def entState (e : List Nat) : Nat := nbitsAt (entWord e 0) 62 61
def entTier (e : List Nat) : Nat := nbitsAt (entWord e 0) 60 59
def entRaw (e : List Nat) : Bool := nbitsAt (entWord e 0) 58 58 = 1
def entFmt (e : List Nat) : Nat := nbitsAt (entWord e 0) 57 54
def entBsz (e : List Nat) : Nat := nbitsAt (entWord e 0) 53 52
def entPin (e : List Nat) : Bool := nbitsAt (entWord e 0) 51 51 = 1
def entUdown (e : List Nat) : Bool := nbitsAt (entWord e 0) 50 50 = 1
def entVer (e : List Nat) : Nat := nbitsAt (entWord e 0) 31 24
def entAddr (e : List Nat) : Nat := entWord e 1
def entElen (e : List Nat) : Nat := nbitsAt (entWord e 2) 47 0

/-- Entry states (12 R350). -/
def entIdle : Nat := 0
def entMoving : Nat := 1
def entLost : Nat := 2

/-- An entry with bits [hi:lo] of word 0 replaced. -/
def entSet (e : List Nat) (hi lo v : Nat) : List Nat :=
  let w := entWord e 0
  (w - nbitsAt w hi lo * 2 ^ lo + v % 2 ^ (hi + 1 - lo) * 2 ^ lo) :: e.drop 1

/-- Bytes of the scale array (12 R351). -/
def entSlen (e : List Nat) : Nat :=
  match Fmt.ofCode (entFmt e) with
  | some t => if entRaw e || !t.narrow then 0 else if t.bits = 4 then entElen e / 8 else entElen e / 16
  | none => 0

/-- The extent length L (12 R351). -/
def entLen (e : List Nat) : Nat :=
  if entSlen e = 0 then entElen e else (entElen e + 63) / 64 * 64 + entSlen e

/-- A DMOV writes the tensor it names (TDIR, 07 R182). -/
def Job.writesTensor (j : Job) : Bool := nbitsAt (j.args.getD 0 0) 9 9 = 1

/-- Data-mover status of a memory or fabric response (11 R320, 13 R380). -/
def dmStatus (st : Nat) : Nat :=
  match st with
  | 0 => 0x00
  | 1 => 0x02
  | 2 => 0x02
  | 3 => 0x04
  | 4 => 0x01
  | 5 => 0x01
  | 6 => 0x06
  | _ => 0x04

namespace State

/-- The tier of a hall address as the directory codes it: 3 is remote (12 R346). -/
def tierOf (s : State) (a : Nat) : Nat := if s.isLocal a then hallTier a else 3

/-- The checks of an entry that a command writes (12 R352). -/
def entOk (s : State) (e : List Nat) : Bool :=
  let a := entAddr e
  let o := hallOff a
  let space := match hallTier a with
    | 0 => 10 * 2 ^ 38
    | 1 => 2 ^ 41
    | 2 => 3 * 2 ^ 48
    | _ => 0
  let fmt := entRaw e || match Fmt.ofCode (entFmt e) with
    | none => false
    | some t => !t.narrow || (entBsz e = 1 && decide (entElen e % (if t.bits = 4 then 16 else 32) = 0))
  a % 64 = 0 && entTier e = s.tierOf a && hallTier a ≠ 3 && decide (o + entLen e ≤ space) && fmt
    && (!entUdown e || entTier e = 1) && entState e ≠ 3

def modDir (s : State) (f : DirSt → DirSt) : State := { s with dir := f s.dir }

/-- Translations are made: DIR_CTRL.EN and a ready directory (12 R349, R364, R366). -/
def dirReady (s : State) : Bool := s.on DIR_CTRL fDIR_CTRL_EN && s.rd DIR_STATUS fDIR_STATUS_STATE = 1

/-- The stack-tier offset of the line of an entry (12 R349). -/
def dirOff (s : State) (id : Nat) : Nat := s.rd DIR_BASE fDIR_BASE_BASE * 2 ^ 26 + id / 2 * 64

def dirEnt (s : State) (id : Nat) : Option DirEnt := s.dir.cache.find? fun e => e.id = id

/-- The entry of a line's 64 bytes. -/
def entOfLine (bytes : List Nat) (id : Nat) : List Nat :=
  (List.range 4).map fun k => ofLeBytes ((bytes.drop (id % 2 * 32 + 8 * k)).take 8)

/-- An entry's in-flight count changed by one (12 R355). -/
def inflBump (s : State) (id : Nat) (up : Bool) : State :=
  s.modDir fun d => { d with cache := d.cache.map fun e =>
    if e.id = id then { e with infl := if up then e.infl + 1 else e.infl - 1 } else e }

/-- What an entry makes of a translation (12 R354): `dest` when the tensor is written. -/
def dirOutcome (s : State) (id : Nat) (e : List Nat) (inCache dest : Bool) : State × Trans :=
  if !entValid e then (s, .failed 0x07)
  else if entState e = entLost then (s, .failed 0x04)
  else if entState e = entMoving && dest then (s, .moving id s.beat)
  else
    let s := if inCache then s.inflBump id true else s.modDir fun d => { d with ovf := d.ovf + 1 }
    (s, .found id inCache (entTier e) (entAddr e) (entLen e))

/-- The number of walks shown in DIR_STATUS (12 R366). -/
def showWalks (s : State) : State := s.wr DIR_STATUS fDIR_STATUS_WALKS s.dir.walks.length

/-- A tier's timeout in beats (12 R358): tiers as directory entries code them. -/
def tierBeats (s : State) (tier : Nat) : Nat :=
  1000 * s.rd DIR_TMO (match tier with | 0 => fDIR_TMO_STACK | 2 => fDIR_TMO_FAR | _ => fDIR_TMO_REMOTE)

/-- A request that left at a beat has outrun its tier's timeout (12 R358). -/
def outran (s : State) (tier at_ : Nat) : Bool := decide (at_ + s.tierBeats tier ≤ s.beat)

/-- A walk of an ID begins, joins one under way, or waits for one of the 16 (12 R353). -/
def startWalk (s : State) (id : Nat) : State :=
  (s.modDir fun d =>
    if d.walks.contains id || d.queue.contains id then d
    else if d.walks.length < 16 then { d with walks := d.walks ++ [id], walkAt := sput 0 id s.beat d.walkAt }
    else { d with queue := d.queue ++ [id] }).showWalks

/-- Translation of a tensor ID (12 R353, R354). -/
def translate (s : State) (id : Nat) (dest : Bool) : State × Trans :=
  if !s.dirReady then (s, .failed 0x07)
  else match s.dirEnt id with
    | some e =>
      let s := (s.bump DIR_HIT fDIR_HIT_COUNT 1).modDir fun d => { d with cache := e :: d.cache.filter fun x => x.id ≠ id }
      s.dirOutcome id e.words true dest
    | none => ((s.bump DIR_MISS fDIR_MISS_COUNT 1).startWalk id, .walking id)

/-- A translation's use of its entry ends (12 R355). -/
def endTrans (s : State) (t : Trans) : State :=
  match t with
  | .found id true _ _ _ => s.inflBump id false
  | .found _ false _ _ _ => s.modDir fun d => { d with ovf := d.ovf - 1 }
  | _ => s

/-- An entry put into the directory cache: set of 8 ways by the low 12 bits of the ID; no way is free when all hold moves in
flight (12 R353, R355). -/
def dirFill (s : State) (id : Nat) (e : List Nat) : State × Bool :=
  let ways := s.dir.cache.filter fun x => x.id % 4096 = id % 4096
  if (ways.any fun x => x.id = id) then (s, true)
  else if ways.length < 8 then (s.modDir fun d => { d with cache := ⟨id, e, 0⟩ :: d.cache }, true)
  else match (ways.filter fun x => x.infl = 0).getLast? with
    | none => (s, false)
    | some v => (s.modDir fun d => { d with cache := ⟨id, e, 0⟩ :: d.cache.filter fun x => x.id ≠ v.id }, true)

/-- A job of a core replaced by a function of it. -/
def setJob (s : State) (b ord : Nat) (f : Job → Job) : State :=
  s.modCore b fun c => { c with jobs := c.jobs.map fun j => if j.ord = ord then f j else j }

/-- Moves whose translation stands as `f` says, by core and order. -/
def transJobs (s : State) (f : Trans → Bool) : List (Nat × Job) :=
  s.cores.flatMap fun c => (c.2.jobs.filter fun j => f j.trans).map fun j => (c.1, j)

/-- Translations that checkpoints and restores of the update dies wait for, by die and command (10 R309), and one of them set. -/
def transXfers (s : State) (f : Trans → Bool) : List (Nat × UdXfer) :=
  (s.ud0.xfers.filter fun x => f x.trans).map (fun x => (0, x)) ++ (s.ud1.xfers.filter fun x => f x.trans).map fun x => (1, x)

def setXfer (s : State) (d seq : Nat) (f : UdXfer → UdXfer) : State :=
  let up := fun (u : UdSt) => { u with xfers := u.xfers.map fun x => if x.seq = seq then f x else x }
  if d = 0 then { s with ud0 := up s.ud0 } else { s with ud1 := up s.ud1 }

/-- What an entry that is not valid or LOST makes of a checkpoint or restore: refused with UD_SHAPE, 0x0A04 (12 R354). -/
def udOutcome : Trans → Trans
  | .failed _ => .failed 0x0A04
  | t => t

/-- The translation of a checkpoint's or restore's tensor (12 R354): a checkpoint reads the old place while the entry is MOVING, a restore
waits as a destination does. -/
def translateUd (s : State) (id : Nat) (restore : Bool) : State × Trans :=
  let r := s.translate id restore
  (r.1, if s.dirReady then udOutcome r.2 else r.2)

/-- A walk of an ID ends with an entry: every move that waits for it gets its outcome (12 R353, R354). -/
def settle (s : State) (id : Nat) (e : List Nat) (inCache : Bool) : State :=
  let s := (s.transXfers fun t => t = .walking id).foldl (fun s x =>
    let r := s.dirOutcome id e inCache x.2.restore
    r.1.setXfer x.1 x.2.seq fun y => { y with trans := udOutcome r.2, since := s.beat }) s
  (s.transJobs fun t => t = .walking id).foldl (fun s x =>
    let r := s.dirOutcome id e inCache x.2.writesTensor
    r.1.setJob x.1 x.2.ord fun j => { j with trans := r.2, since := s.beat }) s

/-- A walk of an ID ends with a failure: every move that waits for it ends with the status (12 R361). -/
def settleFail (s : State) (id status : Nat) : State :=
  let s := (s.transXfers fun t => t = .walking id).foldl (fun s x => s.setXfer x.1 x.2.seq fun y => { y with trans := .failed status }) s
  (s.transJobs fun t => t = .walking id).foldl (fun s x => s.setJob x.1 x.2.ord fun j => { j with trans := .failed status }) s

/-- Moves that wait on a MOVING entry translate again (12 R354, R357). -/
def wake (s : State) (id : Nat) : State :=
  let s := (s.transXfers fun t => match t with | .moving k _ => k = id | _ => false).foldl (fun s x =>
    let r := s.translateUd id x.2.restore
    match r.2 with
    | .moving _ _ => s
    | t => r.1.setXfer x.1 x.2.seq fun y => { y with trans := t, since := s.beat }) s
  (s.transJobs fun t => match t with | .moving k _ => k = id | _ => false).foldl (fun s x =>
    let r := s.translate id x.2.writesTensor
    match r.2 with
    | .moving _ _ => s
    | t => r.1.setJob x.1 x.2.ord fun j => { j with trans := t, since := s.beat }) s

/-- An error of the directory recorded (12 R361, R366). -/
def dirErr (s : State) (kind id : Nat) : State := (s.wr DIR_ERR_LAST fDIR_ERR_LAST_KIND kind).wr DIR_ERR_LAST fDIR_ERR_LAST_ID id

/-- A request timed out at its tier: counted and raised (12 R359). -/
def countLate (s : State) (tier : Nat) : State :=
  let f := match tier with
    | 0 => fDIR_TIER_LATE_STACK
    | 2 => fDIR_TIER_LATE_FAR
    | _ => fDIR_TIER_LATE_REMOTE
  (s.bump DIR_TIER_LATE f 1).raise DIR_EVENTS fDIR_EVENTS_TIER_LATE

/-- A walk that fails (12 R361, R362). -/
def walkFail (s : State) (id st : Nat) : State :=
  let s := ((s.bump DIR_WALK_ERR fDIR_WALK_ERR_COUNT 1).dirErr (if st = rsFenced then 2 else 1) id).raise DIR_EVENTS fDIR_EVENTS_WALK_ERR
  let s := if st = rsPoison && !s.dir.lostSeen.contains id then
      (s.raise DIR_EVENTS fDIR_EVENTS_LOST_PAIR).modDir fun d => { d with lostSeen := setIns id d.lostSeen }
    else s
  s.settleFail id (if st = rsFenced then 0x04 else if st = rsUnmapped then 0x01 else 0x02)

/-- The walk's own read done, and what follows (12 R353, R361). -/
def walkRead (s : State) (id : Nat) (late : Bool) : State :=
  if late then
    ((((s.bump DIR_WALK_ERR fDIR_WALK_ERR_COUNT 1).dirErr 3 id).raise DIR_EVENTS fDIR_EVENTS_WALK_ERR).countLate 0).settleFail id 0x03
  else
    let r := s.stackRead (s.dirOff id) 64 ⟨1, 0, true⟩
    if r.st = rsOk then
      let e := entOfLine r.data id
      let f := r.s.dirFill id e
      f.1.settle id e f.2
    else r.s.walkFail id r.st

/-- A walk ends, late only once it has outrun the stack timeout; one that waits begins (12 R353, R358, R361). -/
def walkEnd (s : State) (id : Nat) (late : Bool) : State :=
  if !s.dir.walks.contains id || (late && !s.outran 0 (sget 0 id s.dir.walkAt)) then s
  else
    let s := s.modDir fun d => { d with
      walks := d.walks.filter (· ≠ id) ++ d.queue.take 1, queue := d.queue.drop 1
      walkAt := d.queue.head?.elim (sput 0 id 0 d.walkAt) fun q => sput 0 q s.beat (sput 0 id 0 d.walkAt) }
    (s.showWalks).walkRead id late

/-- Translations that started before a command on an entry read the line as it stands: a walk of it ends, and one that waits for its turn
takes it at once (12 R356; log entry 63). -/
def walkNow (s : State) (id : Nat) : State :=
  if s.dir.walks.contains id then s.walkEnd id false
  else if s.dir.queue.contains id then (s.modDir fun d => { d with queue := d.queue.filter (· ≠ id) }).walkRead id false
  else s

/-- An entry as a directory command sees it: the cached copy, else the line read (12 R356). -/
def entryOf (s : State) (id : Nat) : State × Option (List Nat) :=
  match s.dirEnt id with
  | some e => (s, some e.words)
  | none =>
    let r := s.stackRead (s.dirOff id) 64 ⟨0, 0, true⟩
    (r.s, if r.st = rsOk then some (entOfLine r.data id) else none)

/-- The other entry of a line. -/
def pairId (id : Nat) : Nat := if id % 2 = 0 then id + 1 else id - 1

def entBytes (e : List Nat) : List Nat := (List.range 4).flatMap fun k => leBytes 8 (entWord e k)

/-- An entry that could not be kept with its line partner (12 R356, R362). -/
def lostPair (s : State) (id : Nat) : State := (s.dirErr 4 id).raise DIR_EVENTS fDIR_EVENTS_LOST_PAIR

/-- A command writes an entry: the line in one write, the cached copy in the same step. The partner keeps what is cached or read of it; it
is written with VALID = 0 when the entry itself (`keep` false) or the partner is neither cached nor readable (12 R356). A write that is not
acknowledged changes no cached copy: its status. -/
def writeEntry (s : State) (id : Nat) (e : List Nat) (keep : Bool) : State × Nat :=
  let o := if keep then s.entryOf (pairId id) else (s, none)
  let other := o.2.getD [0, 0, 0, 0]
  let bytes := if id % 2 = 0 then entBytes e ++ entBytes other else entBytes other ++ entBytes e
  let w := o.1.stackWrite (s.dirOff id) bytes ⟨0, 0, true⟩
  if w.st ≠ rsOk then (w.s, w.st)
  else
    let s := if o.2.isSome then w.s else w.s.lostPair (pairId id)
    (s.modDir fun d => { d with
      cache := d.cache.map fun x => if x.id = id then { x with words := e } else if x.id = pairId id then { x with words := other } else x
      lostSeen := d.lostSeen.filter fun k => k / 2 ≠ id / 2 }, rsOk)

/-- The line of an entry lies in a fenced channel (12 R356). -/
def dirFenced (s : State) (id : Nat) : Bool := s.stackGate (s.dirOff id) = rsFenced

/-- After the compaction of the site that holds the directory, cached entries are written back (12 R362). -/
def dirRebuild (s : State) (site : Nat) : State :=
  if s.dirOff 0 / 2 ^ 38 ≠ site then s
  else ((s.dir.cache.map fun e => e.id / 2).eraseDups).foldl (fun s k =>
    let one := fun (s : State) (id : Nat) => match s.dirEnt id with
      | some e => (s, e.words)
      | none =>
        let r := s.entryOf id
        match r.2 with
        | some e => (r.1, e)
        | none => (r.1.raise DIR_EVENTS fDIR_EVENTS_LOST_PAIR, [0, 0, 0, 0])
    let a := one s (2 * k)
    let b := one a.1 (2 * k + 1)
    ((b.1.stackWrite (b.1.dirOff (2 * k)) (entBytes a.2 ++ entBytes b.2) ⟨0, 0, true⟩).s).bump DIR_STATUS fDIR_STATUS_REBUILT 1) s

/-- The directory range is wholly mapped (12 R349). -/
def dirMapped (s : State) : Bool :=
  let b := s.rd DIR_BASE fDIR_BASE_BASE * 2 ^ 26
  let site := b / 2 ^ 38
  site < 10 && s.siteState site ≠ 0 && s.siteState site ≠ 4 && decide (b % 2 ^ 38 + 2 ^ 26 ≤ s.siteRange site)

end State
end Sys2Proof.Machine
end

