-- ==== Sys2Proof/Machine/Operands.lean ====
section
/-!
DEFINITION. Machine/Operands.lean: the head of a stream with its prefixes (09 R243-R246), the scalar registers an instruction
names (09 R242), readiness (09 R247), arbitration (09 R248), and issue as one shared operation (09 R247-R254).
-/

namespace Sys2Proof.Machine

/-- The opcode of an instruction word (09 R243). -/
def opc (w : Word) : Nat := bitsOf w 63 56

/-- The opcodes that 09 R243 lists, prefixes apart. -/
def opcKnown (o : Nat) : Bool :=
  o ∈ [0x00, 0x01, 0x10, 0x12, 0x14, 0x15, 0x18, 0x19, 0x20, 0x21, 0x22, 0x23, 0x24, 0x28, 0x29, 0x2A, 0x40, 0x41, 0x42, 0x43,
    0x44, 0x45, 0x50, 0x51, 0x52, 0x53, 0x54, 0x55, 0x60]

/-- A governed instruction at the head of a stream: its address, its prefixes, its word, how many words it takes with them. -/
structure Head where
  pc : Nat
  guard : Option Word
  sigp : Option Word
  word : Word
  n : Nat
  deriving DecidableEq, Repr

/-- What stands at the head of a fetch buffer: nothing that can be judged yet; prefixes that break 09 R244, with the address and word of the
instruction they govern, or the prefix's address when they govern none (DESIGN CHOICE, log entry 15); a governed instruction. -/
inductive HeadR where
  | absent
  | bad (pc : Nat) (w : Option Word)
  | ok (h : Head)
  deriving DecidableEq, Repr

/-- Reads prefixes and the instruction they govern (09 R244); `x` is the address of the first prefix that breaks the rules. A fetch buffer full of
such prefixes is judged as it stands. -/
def parseHead (plimit : Nat) : Option Nat → Option Word → Option Word → Nat → List (Nat × Word) → HeadR
  | x, _, _, n, [] => match x with
    | some pc => if 32 ≤ n then .bad pc none else .absent
    | none => .absent
  | x, g, sg, n, aw :: t =>
    if opc aw.2 = 0x08 then
      if plimit ≤ aw.1 + 8 then .bad aw.1 none
      else parseHead plimit (if g.isSome || sg.isSome then x.or (some aw.1) else x) (some aw.2) sg (n + 1) t
    else if opc aw.2 = 0x09 then
      if plimit ≤ aw.1 + 8 then .bad aw.1 none
      else parseHead plimit (if sg.isSome then x.or (some aw.1) else x) g (some aw.2) (n + 1) t
    else if x.isSome then .bad aw.1 (some aw.2)
    else .ok ⟨aw.1, g, sg, aw.2, n + 1⟩

/-- A signed field of n bits as an integer. -/
def sext (n x : Nat) : Int := if x < 2 ^ (n - 1) then Int.ofNat x else Int.ofNat x - Int.ofNat (2 ^ n)

/-- An integer modulo 2^n. -/
def imod (n : Nat) (x : Int) : Nat := (x % Int.ofNat (2 ^ n)).toNat

/-- A register number and its successor. -/
def regPair (r : Nat) : List Nat := [r, (r + 1) % 32]

/-- The increments of a SIGP (09 R246). -/
def sigIncsOf (w : Word) : List SigInc :=
  (if bitsOf w 55 55 = 1 then [⟨bitsOf w 54 54 = 1, bitsOf w 53 42, bitsOf w 41 28⟩] else [])
    ++ (if bitsOf w 27 27 = 1 then [⟨bitsOf w 26 26 = 1, bitsOf w 25 14, bitsOf w 13 0⟩] else [])

namespace State

/-- The head of a stream. -/
def head (s : State) (b i : Nat) : HeadR :=
  parseHead (s.rd (SQS_PLIMIT b (i - 1)) fSQS_PLIMIT_PLIMIT) none none none 0 (s.stream b i).fbuf

/-- The drain profile that a DRAIN names (04 R104, R112). -/
def profile (s : State) (b n : Nat) : Profile := ⟨s.reg (DR_PROF_A b n), s.reg (DR_PROF_B b n)⟩

/-- The first word of the descriptor that a DMOV names (07 R181, R182). -/
def descWord (s : State) (b i : Nat) (w : Word) (k : Nat) : Word :=
  BitVec.ofNat 64 ((s.core b).locNat (loc32 (s.sreg b i (bitsOf w 55 51)) + 8 * k) 8)

/-- The scalar registers that an instruction reads or writes (09 R242, R249 and the encodings of the units). -/
def regsUsed (s : State) (b i : Nat) (w : Word) : List Nat :=
  match opc w with
  | 0x10 => [bitsOf w 55 51]
  | 0x12 => bitsOf w 55 51 :: bitsOf w 50 46 :: (if bitsOf w 40 40 = 1 then [] else [bitsOf w 45 41])
  | 0x14 => [bitsOf w 55 51, bitsOf w 50 46]
  | 0x15 => [bitsOf w 55 51, bitsOf w 50 46]
  | 0x18 => if bitsOf w 45 43 = 0 then [] else [bitsOf w 55 51, bitsOf w 50 46]
  | 0x19 => [bitsOf w 55 51]
  | 0x20 => if bitsOf w 28 28 = 1 then [] else [bitsOf w 27 23]
  | 0x21 => if bitsOf w 41 41 = 1 then [] else [bitsOf w 40 36]
  | 0x24 => if bitsOf w 55 55 = 1 then [] else [bitsOf w 54 50]
  | 0x29 => if bitsOf w 55 55 = 1 then [] else [bitsOf w 54 50]
  | 0x2A => [bitsOf w 55 51]
  | 0x40 => regPair (bitsOf w 51 47) ++ regPair (bitsOf w 46 42) ++ [bitsOf w 41 37]
  | 0x41 => regPair (bitsOf w 51 47) ++ regPair (bitsOf w 46 42)
  | 0x42 => regPair (bitsOf w 49 45) ++ regPair (bitsOf w 44 40) ++ [bitsOf w 39 35]
  | 0x43 =>
    let p := s.profile b (bitsOf w 49 47)
    regPair (bitsOf w 46 42) ++ regPair (bitsOf w 41 37) ++ [bitsOf w 31 27]
      ++ (if p.biasf = 0 then [] else [bitsOf w 36 32])
      ++ (if p.auxen then [bitsOf w 19 15, (bitsOf w 19 15 + 1) % 32, (bitsOf w 19 15 + 2) % 32] else [])
  | 0x44 => regPair (bitsOf w 49 45) ++ regPair (bitsOf w 44 40) ++ [bitsOf w 39 35]
  | 0x45 => [bitsOf w 32 28]
  | 0x50 => if bitsOf w 50 50 = 1 then [] else [bitsOf w 55 51]
  | 0x51 => [bitsOf w 55 51]
  | 0x52 => [bitsOf w 55 51]
  | 0x53 => [bitsOf w 55 51]
  | 0x54 => [bitsOf w 55 51]
  | 0x55 => [bitsOf w 55 51]
  | 0x60 =>
    let d := s.descWord b i w 0
    bitsOf w 55 51 :: (if bitsOf w 40 40 = 1 then regPair (bitsOf w 45 41) else [])
      ++ (if bitsOf d 46 46 = 1 || bitsOf d 36 36 = 1 then regPair (bitsOf w 50 46) else [])
  | _ => []

/-- Every instruction that the stream issued has completed (09 R249, R251). -/
def allDone (s : State) (b i : Nat) : Bool :=
  !(s.core b).jobs.any (fun j => j.iss.stream = i && (j.kind ≠ .remInc || j.word ≠ 0#64)) && (s.stream b i).slds.isEmpty

/-- The unit that executes a word cannot accept it now (09 R247). -/
def unitBusy (s : State) (b i : Nat) (w : Word) : Bool :=
  let js := (s.core b).jobs
  let mask := bitsOf w 55 52
  match opc w with
  | 0x29 => !s.allDone b i
  | 0x40 => [0, 1, 2, 3].any fun e => mask / 2 ^ e % 2 = 1 &&
      decide (4 ≤ (js.filter fun j => (j.kind = .mmul || j.kind = .mwld) && bitsOf j.word 55 52 / 2 ^ e % 2 = 1).length)
  | 0x41 => [0, 1, 2, 3].any fun e => mask / 2 ^ e % 2 = 1 &&
      decide (4 ≤ (js.filter fun j => (j.kind = .mmul || j.kind = .mwld) && bitsOf j.word 55 52 / 2 ^ e % 2 = 1).length)
  | 0x42 => decide (4 ≤ (js.filter fun j => (j.kind = .drain || j.kind = .accld) && bitsOf j.word 55 54 = bitsOf w 55 54).length)
  | 0x43 => decide (4 ≤ (js.filter fun j => (j.kind = .drain || j.kind = .accld) && bitsOf j.word 55 54 = bitsOf w 55 54).length)
  | 0x44 => !(s.core b).side.any fun x => !x.used
  | 0x45 => js.any fun j => j.kind = .drain && j.iss.stream = i && bitsOf w 54 51 / 2 ^ bitsOf j.word 55 54 % 2 = 1
  | 0x60 => decide (8 ≤ (js.filter fun j => j.kind = .dmov).length)
  | o => 0x50 ≤ o && o ≤ 0x55 && js.any fun j => j.kind = .ve

/-- The launch tick of a GUARD: TB + DT (09 R250). -/
def launchTick (s : State) (b i : Nat) (g : Word) : Nat :=
  (s.rd (SQS_TB b (i - 1)) fSQS_TB_TB + bitsOf g 54 48) % 2 ^ 48

/-- The launch beat (08 R234). -/
def launchBeat (s : State) (b i : Nat) (g : Word) : Nat := s.tickStart (s.launchTick b i g) + bitsOf g 47 30

/-- The launch time of a GUARD allows issue (08 R232, R234, R240). -/
def launchOk (s : State) (b i : Nat) (g : Word) : Bool :=
  bitsOf g 55 55 = 0 || s.on TIME_CTRL fTIME_CTRL_GATE_OVR || (s.gateOpen && decide (s.launchBeat b i g ≤ s.zbeat b))

/-- The first precondition of a GUARD that does not hold (09 R245). -/
def unmet (s : State) (g : Word) : Option Nat :=
  if bitsOf g 29 29 = 1 && !s.met (bitsOf g 28 15) then some (bitsOf g 28 15)
  else if bitsOf g 14 14 = 1 && !s.met (bitsOf g 13 0) then some (bitsOf g 13 0)
  else none

/-- A scalar register that a word names awaits a load (09 R242). -/
def awaits (s : State) (b i : Nat) (w : Word) : Bool :=
  (s.regsUsed b i w).any fun r => (s.stream b i).slds.any fun l => l.1 = r

/-- Why the head instruction is not ready, as REASON and TS of SQS_WAIT; none when it is ready (09 R247, R276). -/
def notReady (s : State) (b i : Nat) (h : Head) : Option (Nat × Nat) :=
  let un := match h.guard with
    | some g => s.unmet g
    | none => none
  let lo := match h.guard with
    | some g => s.launchOk b i g
    | none => true
  match un with
  | some ts => some (1, ts)
  | none =>
    if !lo then some (2, 0)
    else if s.awaits b i h.word then some (6, 0)
    else if s.unitBusy b i h.word then some (if opc h.word = 0x29 then 4 else 3, 0)
    else none

/-- A stream that may issue: in RUN on an enabled core with SQ_CTRL.EN, no HALT pending, its clock not held (09 R241, R249, R276, 15 R435). -/
def mayIssue (s : State) (b i : Nat) : Bool :=
  s.clocked && s.coreOn b && s.on (SQ_CTRL b) fSQ_CTRL_EN && (1 ≤ i && i ≤ 3) && s.stState b i = stRun && (s.stream b i).haltPend.isNone

/-- The stream's head instruction is ready (09 R247). -/
def ready (s : State) (b i : Nat) : Bool :=
  s.mayIssue b i && match s.head b i with
    | .ok h => (s.notReady b i h).isNone
    | _ => false

/-- The stream that issues in this cycle (09 R248). -/
def chosen (s : State) (b : Nat) : Option Nat :=
  let order := if s.on (SQ_CTRL b) fSQ_CTRL_PRIO then [1, 2, 3] else [2, 1, 3]
  let order := if s.rd (SQ_CTRL b) fSQ_CTRL_UFRAME ≤ (s.core b).uCount then 3 :: order else order
  order.find? fun i => s.ready b i

/-- The wait that SQS_WAIT shows: REASON and TS of a running stream's head that is not ready (09 R276). -/
def waitOf (s : State) (b i : Nat) : Option (Nat × Nat) :=
  if !s.coreOn b || s.stState b i ≠ stRun || (s.stream b i).haltPend.isSome then none
  else match s.head b i with
    | .absent => some (5, 0)
    | .bad .. => none
    | .ok h => s.notReady b i h

/-- SQS_WAIT: why the head waits now, and whether its guard has exceeded SQ_WDOG (09 R276). -/
def viewWait (s : State) (b i : Nat) : Nat :=
  let w := s.rd (SQS_WAIT b (i - 1)) fSQS_WAIT_WDOG * 2 ^ 14
  match s.waitOf b i with
  | some r => 2 ^ 31 + r.1 % 8 * 2 ^ 28 + w + r.2 % 2 ^ 14
  | none => w

/-- What the instruction carries to its completion (09 R246, 08 R236). -/
def issuedOf (s : State) (b i : Nat) (h : Head) : Issued :=
  let sig := match h.sigp with
    | some w => sigIncsOf w
    | none => []
  let tick := match h.guard with
    | some g => if bitsOf g 55 55 = 1 then some (s.launchTick b i g) else (s.stream b i).tick
    | none => (s.stream b i).tick
  ⟨i, h.pc, s.epoch b i, sig, tick⟩

/-- A late launch: the head reached issue after its launch beat (08 R234). -/
def isLate (s : State) (b i : Nat) (h : Head) : Bool :=
  match h.guard with
  | some g => bitsOf g 55 55 = 1 && !s.on TIME_CTRL fTIME_CTRL_GATE_OVR && decide (s.launchBeat b i g < (s.stream b i).since)
  | none => false

/-- The counts of one issue cycle: issued, the other ready streams' lost cycles, the U counter (09 R248, R276). -/
def countIssue (s : State) (b i : Nat) : State :=
  let others := [1, 2, 3].filter fun k => k ≠ i && s.ready b k
  let uReady := s.ready b 3
  let s := others.foldl (fun s k => s.bump (SQS_LOST b (k - 1)) fSQS_LOST_COUNT 1) s
  let s := (s.bump (SQ_ISSUED b) fSQ_ISSUED_COUNT 1).bump (SQS_ISSUED b (i - 1)) fSQS_ISSUED_COUNT 1
  s.modCore b fun c => { c with uCount := if i = 3 then 0 else if uReady then c.uCount + 1 else c.uCount }

/-- The head instruction leaves the fetch buffer and the PC moves past it (09 R241, R247). -/
def accept (s : State) (b i : Nat) (h : Head) : State :=
  let late := s.isLate b i h
  let iss := s.issuedOf b i h
  let s := s.countIssue b i
  let s := if late then s.bump TIME_LATE fTIME_LATE_COUNT 1 else s
  let s := (s.setPc b i (h.pc + 8)).setReg (SQS_WAIT b (i - 1)) 0
  let st := s.stream b i
  s.setStream b i { st with fbuf := st.fbuf.drop h.n, tick := iss.tick, since := s.zbeat b }

/-- A stream goes on at an address against its prediction, or after an unconditional branch (09 R257). -/
def jump (s : State) (b i target : Nat) : State := (s.setPc b i target).flush b i (some target)

/-- A core memory address that the sequencer may fetch from (09 R268). -/
def fetchable (a : Nat) : Bool := a + 8 ≤ coreMemSize

/-- The address of an SLD or SST: bits [31:0] of s[RA] + OFF (09 R249). -/
def memAddr (s : State) (b i : Nat) (w : Word) : Nat :=
  imod 32 (Int.ofNat (s.sreg b i (bitsOf w 50 46)) + sext 32 (bitsOf w 31 0))

/-- The rejections of SLD and SST, in order (09 R253, R275). -/
def memCheck (a : Nat) : Option Nat := if coreMemSize < a + 8 then some 0x51 else if a % 8 ≠ 0 then some 0x52 else none

/-- The sequencer's rejection of a word below SQ_PREFIX in its table (09 R249, R254, R275). -/
def ownCode (s : State) (b i : Nat) (w : Word) : Option Nat :=
  let opcode := fun (bad : Bool) => if bad then some 0x55 else none
  match opc w with
  | 0x14 => memCheck (s.memAddr b i w)
  | 0x15 => memCheck (s.memAddr b i w)
  | 0x12 => opcode (decide (13 ≤ bitsOf w 39 36))
  | 0x18 => opcode (decide (bitsOf w 45 43 = 7))
  | 0x2A => opcode (decide (bitsOf w 50 49 = 3))
  | o => opcode (!opcKnown o)

/-- What the head of a running stream makes it fault on by itself: a PC outside its program range, an unmapped PC, broken
prefixes, unless a lower code holds for the instruction they govern, a reserved opcode that would issue (09 R243, R244, R254, R268, R275).
Broken prefixes impose no launch time or precondition; the instruction waits only for its scalar registers (log entry 15). -/
def checkHead (s : State) (b i : Nat) : State :=
  if !s.mayIssue b i then s
  else
    let p := s.pc b i
    if p < s.rd (SQS_PBASE b (i - 1)) fSQS_PBASE_PBASE ∨ s.rd (SQS_PLIMIT b (i - 1)) fSQS_PLIMIT_PLIMIT ≤ p then s.reject b i p 6 0x53
    else if !fetchable p then s.reject b i p 6 0x51
    else match s.head b i with
      | .bad pc w => match w with
        | none => s.reject b i pc 6 0x56
        | some w => if s.awaits b i w then s else s.reject b i pc 6 ((s.ownCode b i w).getD 0x56)
      | .ok h => if !opcKnown (opc h.word) && (s.notReady b i h).isNone then s.reject b i h.pc 6 0x55 else s
      | .absent => s

/-- Issue of the head instruction of a stream, when it is one that `sel` names: it waits or loses arbitration, and nothing changes, or it acts
(09 R247, R248). -/
def issue (s : State) (b i : Nat) (sel : Word → Bool) (act : State → Head → State) : State :=
  if !s.mayIssue b i then s
  else match s.head b i with
    | .absent => s
    | .bad .. => s.checkHead b i
    | .ok h =>
      if !sel h.word then s
      else if (s.notReady b i h).isSome || s.chosen b ≠ some i then s
      else (act s h).checkHead b i

/-- An instruction that completes at issue (09 R267): accepted, its effect, its completion. -/
def complete (s : State) (b i : Nat) (h : Head) (eff : State → State) : State :=
  let iss := s.issuedOf b i h
  (eff (s.accept b i h)).finish b iss

end State

end Sys2Proof.Machine
end

