-- ==== Sys2Proof/Machine/Sequencer.lean ====
section
/-!
DEFINITION. Machine/Sequencer.lean: the sequencer's own instructions (09 R249-R253), fetching (09 R257), halts, stops, the guard
watchdog (09 R255) and the arrival of increments (09 R260).
-/

namespace Sys2Proof.Machine

/-- SALU functions (09 R249); none for the reserved codes. -/
def saluFn (fn : Nat) (a b : Word) : Option Word :=
  match fn with
  | 0 => some (a + b)
  | 1 => some (a - b)
  | 2 => some (a &&& b)
  | 3 => some (a ||| b)
  | 4 => some (a ^^^ b)
  | 5 => some (a <<< (b.toNat % 64))
  | 6 => some (a >>> (b.toNat % 64))
  | 7 => some (a.sshiftRight (b.toNat % 64))
  | 8 => some (a * b)
  | 9 => some (if a.slt b then a else b)
  | 10 => some (if a.slt b then b else a)
  | 11 => some (if a < b then a else b)
  | 12 => some (if a < b then b else a)
  | _ => none

/-- Branch conditions (09 R249); none for the reserved code. -/
def brCond (c : Nat) (a b : Word) : Option Bool :=
  match c with
  | 0 => some true
  | 1 => some (a = b)
  | 2 => some (a ≠ b)
  | 3 => some (a.slt b)
  | 4 => some (!a.slt b)
  | 5 => some (a < b)
  | 6 => some (!(a < b))
  | _ => none

namespace State

/-- A scalar register as a word. -/
def sw (s : State) (b i r : Nat) : Word := BitVec.ofNat 64 (s.sreg b i r)

end State

/-- NOP (09 R249). -/
def execNop (core stream : Nat) (s : State) : Res :=
  .next (s.issue core stream (fun w => opc w = 0x00) fun s h => s.complete core stream h id)

/-- HALT: the stream stops issuing and enters HALTED when its earlier instructions have completed (09 R249). Its PC stays at
the HALT (log entry 15). -/
def execHalt (core stream : Nat) (s : State) : Res :=
  .next (s.issue core stream (fun w => opc w = 0x01) fun s h =>
    let iss := s.issuedOf core stream h
    let s := (s.accept core stream h).setPc core stream h.pc
    s.setStream core stream { s.stream core stream with haltPend := some iss })

/-- A stream leaves RUN with a HALT issued and not complete: it keeps it, below an order number (09 R256). -/
def Stream.asideHalt (st : Stream) (ord : Nat) : Stream :=
  { st with haltPend := none, halts := st.halts ++ (st.haltPend.toList.map fun iss => (ord, iss)) }

/-- HALTs of a stream that was stopped before they came into force complete once the instructions before them have (09 R256). -/
def State.endHalts (s : State) (core stream : Nat) : State :=
  let st := s.stream core stream
  let due := st.halts.filter fun h => st.slds.isEmpty
    && !(s.core core).jobs.any fun j => j.iss.stream = stream && decide (j.ord < h.1) && (j.kind ≠ .remInc || j.word ≠ 0#64)
  if due.isEmpty then s
  else due.foldl (fun s h => s.finish core h.2) (s.setStream core stream { st with halts := st.halts.filter fun h => !due.contains h })

/-- The stream enters HALTED (09 R249); one stopped since stays STOPPED when its HALT completes (09 R256). -/
def State.entersHalted (s : State) (core stream : Nat) : State :=
  let s := s.endHalts core stream
  match (s.stream core stream).haltPend with
  | none => s
  | some iss =>
    if s.coreOn core && s.stState core stream = stRun && s.allDone core stream then
      let s := (s.setSt core stream stHalted).flush core stream none
      let s := s.setStream core stream { s.stream core stream with haltPend := none, stopPend := false }
      s.finish core iss
    else s

/-- SMOVI (09 R249). -/
def execSmovi (core stream : Nat) (s : State) : Res :=
  .next (s.issue core stream (fun w => opc w = 0x10) fun s h =>
    s.complete core stream h fun s =>
      let rd := bitsOf h.word 55 51
      let imm := bitsOf h.word 31 0
      let v := if bitsOf h.word 50 50 = 1 then imm * 2 ^ 32 + s.sreg core stream rd % 2 ^ 32 else imod 64 (sext 32 imm)
      s.setSreg core stream rd v)

/-- Operand B of a SALU (09 R249). -/
def saluB (s : State) (core stream : Nat) (w : Word) : Word :=
  if bitsOf w 40 40 = 1 then BitVec.ofNat 64 (imod 64 (sext 32 (bitsOf w 31 0))) else s.sw core stream (bitsOf w 45 41)

/-- SALU (09 R249). -/
def execSalu (core stream : Nat) (s : State) : Res :=
  .next (s.issue core stream (fun w => opc w = 0x12) fun s h =>
    match saluFn (bitsOf h.word 39 36) (s.sw core stream (bitsOf h.word 50 46)) (saluB s core stream h.word) with
    | none => s.reject core stream h.pc 6 0x55
    | some v => s.complete core stream h fun s => s.setSreg core stream (bitsOf h.word 55 51) v.toNat)

/-- SLD: the load starts; its register is not available until it lands (09 R242, R249, R253). -/
def execSld (core stream : Nat) (s : State) : Res :=
  .next (s.issue core stream (fun w => opc w = 0x14) fun s h =>
    let a := s.memAddr core stream h.word
    match State.memCheck a with
    | some c => s.reject core stream h.pc 6 c
    | none =>
      let iss := s.issuedOf core stream h
      let v := (s.core core).locNat a 8
      let s := s.accept core stream h
      let st := s.stream core stream
      s.setStream core stream { st with slds := st.slds ++ [(bitsOf h.word 55 51, v, iss)] })

/-- The loaded value lands in its register (09 R242). -/
def execSldLoadComplete (core stream reg : Nat) (s : State) : Res :=
  .next (match (s.stream core stream).slds.find? fun l => l.1 = reg with
    | none => s
    | some l =>
      let st := s.stream core stream
      let s := s.setStream core stream { st with slds := st.slds.erase l }
      (s.setSreg core stream reg l.2.1).finish core l.2.2)

/-- SST (09 R249, R253). -/
def execSst (core stream : Nat) (s : State) : Res :=
  .next (s.issue core stream (fun w => opc w = 0x15) fun s h =>
    let a := s.memAddr core stream h.word
    match State.memCheck a with
    | some c => s.reject core stream h.pc 6 c
    | none => s.complete core stream h fun s =>
      s.modCore core fun c => c.locStore a (leBytes 8 (s.sreg core stream (bitsOf h.word 55 51))))

/-- The target of a branch: PC + 8 * OFF (09 R249). -/
def branchTarget (pc : Nat) (w : Word) : Nat := imod 32 (Int.ofNat pc + 8 * sext 24 (bitsOf w 23 0))

/-- BR: a taken branch goes on at its target; not taken, the prediction holds unless CND is 0 (09 R249, R257). -/
def execBr (core stream : Nat) (s : State) : Res :=
  .next (s.issue core stream (fun w => opc w = 0x18) fun s h =>
    match brCond (bitsOf h.word 45 43) (s.sw core stream (bitsOf h.word 55 51)) (s.sw core stream (bitsOf h.word 50 46)) with
    | none => s.reject core stream h.pc 6 0x55
    | some t => s.complete core stream h fun s =>
      if t then s.jump core stream (branchTarget h.pc h.word) else s)

/-- DBNZ: the counter falls unless it is 0; taken, as predicted, while it is not 0 after that (09 R249, R257, R274). -/
def execDbnz (core stream : Nat) (s : State) : Res :=
  .next (s.issue core stream (fun w => opc w = 0x19) fun s h =>
    s.complete core stream h fun s =>
      let r := bitsOf h.word 55 51
      let v := s.sreg core stream r
      let s := if v = 0 then s else s.setSreg core stream r (v - 1)
      if 2 ≤ v then s.setPc core stream (branchTarget h.pc h.word) else s.jump core stream (h.pc + 8))

/-- TINC increments at issue; a remote one completes when it is acknowledged (09 R249, R263, R264). -/
def execTinc (core stream : Nat) (s : State) : Res :=
  .next (s.issue core stream (fun w => opc w = 0x20) fun s h =>
    let iss := s.issuedOf core stream h
    let w := h.word
    let amount := if bitsOf w 28 28 = 1 then bitsOf w 22 0 else s.sreg core stream (bitsOf w 27 23) % 2 ^ 24
    let loc := bitsOf w 55 55 = 1 || bitsOf w 54 43 = s.node
    let s := (s.accept core stream h).sendInc core iss w loc (bitsOf w 54 43) (bitsOf w 42 29) amount
    if loc then s.finish core iss else s)

/-- TADV: the delta is added to TARGET (09 R249, R260). -/
def execTadv (core stream : Nat) (s : State) : Res :=
  .next (s.issue core stream (fun w => opc w = 0x21) fun s h =>
    s.complete core stream h fun s =>
      let ts := bitsOf h.word 55 42
      let d := if bitsOf h.word 41 41 = 1 then bitsOf h.word 31 0 else s.sreg core stream (bitsOf h.word 40 36) % 2 ^ 32
      s.wr (TS_TARGET ts) fTS_TARGET_TARGET ((s.rd (TS_TARGET ts) fTS_TARGET_TARGET + d) % 2 ^ 32))

/-- TRESET of a range of turnstiles (09 R249, R261). -/
def execTreset (core stream : Nat) (s : State) : Res :=
  .next (s.issue core stream (fun w => opc w = 0x22) fun s h =>
    s.complete core stream h fun s =>
      let ep := s.epoch core stream
      (List.range (bitsOf h.word 41 31)).foldl
        (fun s k => s.resetTs ((bitsOf h.word 55 42 + k) % 16384) (imod 32 (sext 16 (bitsOf h.word 30 15))) ep) s)

/-- TEPOCH (09 R249, R262). -/
def execTepoch (core stream : Nat) (s : State) : Res :=
  .next (s.issue core stream (fun w => opc w = 0x23) fun s h =>
    s.complete core stream h fun s => s.wr (SQS_CFG core (stream - 1)) fSQS_CFG_EPOCH (bitsOf h.word 7 0))

/-- TICKB (09 R249, R250). -/
def execTickb (core stream : Nat) (s : State) : Res :=
  .next (s.issue core stream (fun w => opc w = 0x24) fun s h =>
    s.complete core stream h fun s =>
      let a := SQS_TB core (stream - 1)
      let v := if bitsOf h.word 55 55 = 1 then s.rd a fSQS_TB_TB + bitsOf h.word 15 0 else s.sreg core stream (bitsOf h.word 54 50)
      s.wr a fSQS_TB_TB (v % 2 ^ 48))

/-- HINT: sent to the zone control core of the core's zone (09 R249, R252). -/
def execHint (core stream : Nat) (s : State) : Res :=
  .next (s.issue core stream (fun w => opc w = 0x28) fun s h =>
    s.complete core stream h fun s =>
      let m : HintMsg := ⟨zoneOf core, core, stream, bitsOf h.word 55 52, s.zbeat core + bitsOf h.word 51 34, bitsOf h.word 33 16⟩
      { s with pwr := { s.pwr with hintsIn := s.pwr.hintsIn ++ [m] } })

/-- WAITC: issues once the stream's earlier instructions have completed and its cycles have passed (09 R249, R251). -/
def execWaitc (core stream : Nat) (s : State) : Res :=
  .next (s.issue core stream (fun w => opc w = 0x29) fun s h => s.complete core stream h id)

/-- RDT (09 R249); the cycle count moves on before it is read, as before a register read (log entry 6). -/
def execRdt (core stream : Nat) (s : State) : Res :=
  .next (s.issue core stream (fun w => opc w = 0x2A) fun s h =>
    let sel := bitsOf h.word 50 49
    if sel = 3 then s.reject core stream h.pc 6 0x55
    else s.complete core stream h fun s =>
      let s := if sel = 2 then s.bumpFree (TIME_ZCYC (zoneOf core)) fTIME_ZCYC_CYCLES else s
      let v := if sel = 0 then s.zbeat core
        else if sel = 1 then s.rd TIME_TICK fTIME_TICK_TICK
        else s.rd (TIME_ZCYC (zoneOf core)) fTIME_ZCYC_CYCLES
      s.setSreg core stream (bitsOf h.word 55 51) v)

/-- Where fetching goes on after an instruction (09 R257): none where it stops, or a jump elsewhere than to the next word. -/
inductive FetchOn where
  | on
  | stop
  | at (a : Nat)
  deriving DecidableEq, Repr

/-- The predictions of 09 R257. -/
def predict (base limit pc : Nat) (w : Word) : FetchOn :=
  if opc w = 0x01 then .stop
  else if opc w = 0x18 ∧ bitsOf w 45 43 = 0 then .stop
  else if opc w = 0x19 then
    let t := branchTarget pc w
    if base ≤ t ∧ t < limit then .at t else .stop
  else .on

/-- Words of one line put into the fetch buffer from an address upwards: at most `n`, and not beyond the range, the buffer's
room, the line's end or a predicted jump (09 R257, R267). -/
def fetchLine (c : CoreSt) (base limit : Nat) : Nat → Nat → List (Nat × Word) → List (Nat × Word) × Option Nat
  | 0, a, fb => (fb, some a)
  | n + 1, a, fb =>
    if limit ≤ a ∨ !State.fetchable a then (fb, none)
    else if 32 ≤ fb.length then (fb, some a)
    else
      let w := BitVec.ofNat 64 (c.locNat a 8)
      let fb := fb ++ [(a, w)]
      match predict base limit a w with
      | .stop => (fb, none)
      | .at t => (fb, some t)
      | .on => if (a + 8) % 64 = 0 then (fb, some (a + 8)) else fetchLine c base limit n (a + 8) fb

/-- INSTRUCTION_FETCH: one line for a running stream; then what its head faults on by itself (09 R243, R254, R257). -/
def execInstructionFetch (core stream : Nat) (s : State) : Res :=
  .next (if !s.mayIssue core stream then s
    else
      let st := s.stream core stream
      let was := s.head core stream
      let s := match st.fnext with
        | none => s
        | some a =>
          let r := fetchLine (s.core core) (s.rd (SQS_PBASE core (stream - 1)) fSQS_PBASE_PBASE)
            (s.rd (SQS_PLIMIT core (stream - 1)) fSQS_PLIMIT_PLIMIT) 8 a st.fbuf
          s.setStream core stream { st with fbuf := r.1, fnext := r.2 }
      let s := if was = .absent then s.setStream core stream { s.stream core stream with since := s.zbeat core } else s
      s.checkHead core stream)

/-- GUARD_WATCHDOG: a guard has waited longer than SQ_WDOG beats (09 R255); SQS_WAIT shows its turnstile while it waits. -/
def execGuardWatchdog (core stream : Nat) (s : State) : Res :=
  .next (if !s.mayIssue core stream then s
    else match s.head core stream with
      | .ok h =>
        match h.guard.bind s.unmet with
        | none => s
        | some _ =>
          let lim := s.rd (SQ_WDOG core) fSQ_WDOG_LIMIT
          if lim ≠ 0 && decide ((s.stream core stream).since + lim < s.zbeat core) then
            (s.wr (SQS_WAIT core (stream - 1)) fSQS_WAIT_WDOG 1).raise (SQ_EVENTS core) fSQ_EVENTS_WDOG
          else s
      | _ => s)

/-- TS_INCREMENT: the k-th increment on its way reaches its bank (09 R260, R265). -/
def execTsIncrement (k : Nat) (s : State) : Res :=
  .next (match s.incs[k]? with
    | none => s
    | some x => { s with incs := s.incs.eraseIdx k }.applyInc x)

/-- A stream that SQ_STOP named reaches its issue boundary (09 R256): a HALT that it issued has still to complete. -/
def State.streamStopped (s : State) (core stream : Nat) : State :=
  if s.coreOn core && (s.stream core stream).stopPend && s.stState core stream = stRun then
    let s := (s.setSt core stream stStopped).flush core stream none
    let s := s.setStream core stream { (s.stream core stream).asideHalt (s.core core).nextOrd with stopPend := false }
    s.setReg (SQS_WAIT core (stream - 1)) 0
  else s

end Sys2Proof.Machine
end

