-- ==== Sys2Proof/Machine/Engines.lean ====
section
/-!
DEFINITION. Machine/Engines.lean: MWLD and MMUL, their issue checks and their completion (03 R59, R60, R66, R73-R79, 05 R122,
R123), and the order in which a core's units complete (03 R74, 04 R91).
-/

namespace Sys2Proof.Machine

/-- The tiles that ranges of the core-local space touch, and the engines whose side ports they use (04 R91). -/
def winTiles (l : List (Nat × Nat)) : List Nat := (l.flatMap fun r => rangeTiles r.1 r.2).eraseDups

def portsOf (tiles : List Nat) : List Nat := (tiles.map tileEng).eraseDups

/-- The rejection recorded in every engine that the instruction names, then in the sequencer (03 R79, 09 R254). DESIGN CHOICE (log entry 12): R79
does not say which engine of several records it; with EMASK 0 none does. -/
def engReject (s : State) (b i : Nat) (h : Head) (code : Nat) : State :=
  ((engs h.word).foldl (fun s e => s.unitFault (ME_FAULT b e) code i h.pc) s).reject b i h.pc 1 code

/-- The first condition of a table that holds (09 R254). -/
def firstCode : List (Bool × Nat) → Option Nat
  | [] => none
  | p :: t => if p.1 then some p.2 else firstCode t

/-- Valid rows that engine e loads (03 R75). -/
def mwldKv (w : Word) (kc e : Nat) : Nat :=
  let kv := bitsOf w 34 24
  if bitsOf w 16 16 = 1 then min kc (kv - e * kc) else kv

/-- Chunk length of a format code in a mode code; 0 for reserved codes. -/
def chunkOfCodes (f m : Nat) : Nat :=
  match Fmt.ofCode f, AccMode.ofCode m with
  | some f, some m => chunkLen f m
  | _, _ => 0

/-- Element and scale addresses of column j of engine e: slices of the addresses with GSTEP (03 R59, R75). -/
def mwldCol (w : Word) (args : List Nat) (f : Fmt) (kc e j : Nat) : Nat × Nat :=
  let g := if bitsOf w 16 16 = 1 then e * kc else 0
  (loc32 (args.getD 0 0 + f.bytes g + j * args.getD 2 0), loc32 (args.getD 1 0 + g / 16 + j * args.getD 3 0))

/-- The ranges that an MWLD reads (03 R59); with EMASK 0 and GSTEP 0 they are checked as any other's (R77, R79). -/
def mwldRanges (w : Word) (args : List Nat) : List (Nat × Nat) :=
  match Fmt.ofCode (bitsOf w 41 38) with
  | none => []
  | some f =>
    let kc := chunkOfCodes (bitsOf w 41 38) (bitsOf w 15 14)
    (if (engs w).isEmpty && bitsOf w 16 16 = 0 then [0] else engs w).flatMap fun e =>
      let kv := mwldKv w kc e
      (List.range (bitsOf w 23 17)).flatMap fun j =>
        let a := mwldCol w args f kc e j
        [(a.1, f.bytes kv), (a.2, f.scaleBytes kv)]

/-- The scalar operands of MWLD and MMUL: two even pairs (03 R75, R76). -/
def pairArgs (s : State) (b i : Nat) (w : Word) : List Nat :=
  [loc32 (s.sreg b i (bitsOf w 51 47)), loc32 (s.sreg b i ((bitsOf w 51 47 + 1) % 32)),
    loc32 (s.sreg b i (bitsOf w 46 42)), loc32 (s.sreg b i ((bitsOf w 46 42 + 1) % 32))]

def engDisabled (s : State) (b : Nat) (w : Word) : Bool := (engs w).any fun e => !s.on (ME_CTRL b e) fME_CTRL_EN

/-- MWLD (03 R75, R77, R79). -/
def execMwld (core stream : Nat) (s : State) : Res :=
  .next (s.issue core stream (fun w => opc w = 0x41) fun s h =>
    let w := h.word
    let args := pairArgs s core stream w
    let rs := mwldRanges w args
    match firstCode [(engDisabled s core w, 0x07), (rs.any fun r => !rangeOk r.1 r.2, 0x08)] with
    | some c => engReject s core stream h c
    | none =>
      if (engs w).isEmpty then s.complete core stream h id
      else
        let iss := s.issuedOf core stream h
        let s := s.accept core stream h
        let kc := chunkOfCodes (bitsOf w 41 38) (bitsOf w 15 14)
        let s := s.modCore core fun c => (engs w).foldl (fun c e =>
          let x := c.wb e (bitsOf w 35 35)
          c.setWb e (bitsOf w 35 35) { x with loaded := true, fmt := bitsOf w 41 38, acc := bitsOf w 15 14, iKv := mwldKv w kc e, iNc := bitsOf w 23 17 }) c
        let t := winTiles rs
        s.addJob core ⟨0, .mwld, iss, w, args, [], t, portsOf t, [], [], [], false, .none, none, 0⟩)

/-- A weight load finishes: the buffer holds the columns and is valid (03 R59, R73, R77). -/
def execMwldBufferValid (core ord : Nat) (s : State) : Res :=
  .next (match s.job core ord with
    | none => s
    | some j =>
      if j.kind = .mwld && (s.clocked && (s.core core).mayEnd j) then
        let w := j.word
        let kc := chunkOfCodes (bitsOf w 41 38) (bitsOf w 15 14)
        let s := s.modCore core fun c => (engs w).foldl (fun c e =>
          let kv := mwldKv w kc e
          let cs := match Fmt.ofCode (bitsOf w 41 38) with
            | none => []
            | some f => (List.range (bitsOf w 23 17)).map fun k =>
                let a := mwldCol w j.args f kc e k
                (c.elems f a.1 kv, c.scales f a.2 kv)
          let x := c.wb e (bitsOf w 35 35)
          c.setWb e (bitsOf w 35 35) { x with
            valid := true, xFmt := bitsOf w 41 38, kv := kv, nc := bitsOf w 23 17, cols := cs.map (·.1), scs := cs.map (·.2) }) c
        let bad := (mwldRanges w j.args).foldl (fun n r => n + (s.core core).badIn r.1 r.2) 0
        let s := s.bump (DR_PERR core) fDR_PERR_COUNT bad
        let s := (engs w).foldl (fun s e => s.bumpFree (ME_STALL_CYC core e) fME_STALL_CYC_STALL_CYC) s
        (s.dropJob core ord).finish core j.iss
      else s)

/-- Fields of an MMUL word (03 R76). -/
def mmInit (w : Word) : Bool := bitsOf w 20 20 = 1
def mmSide (w : Word) : Bool := bitsOf w 18 18 = 1
def mmL (w : Word) : Nat := bitsOf w 23 22
def mmLdt (w : Word) : Nat := bitsOf w 17 7
def mmRow0 (w : Word) : Nat := bitsOf w 6 0
def mmWb (w : Word) : Nat := bitsOf w 28 28

def mmTile (w : Word) (e : Nat) : Nat := tileIdx e (bitsOf w 27 24)

/-- A tile's row capacity at depth L (03 R66). -/
def capacity (l : Nat) : Nat := 128 / (l + 1)

/-- Positions of an activation row that an MMUL reads, by the KV of the buffers it applies (03 R60). -/
def mmPositions (c : CoreSt) (w : Word) (kc : Nat) : Nat :=
  (engs w).foldl (fun m e =>
    let kv := (c.wb e (mmWb w)).iKv
    if kv = 0 then m else max m (if mmGang w then e * kc + kv else kv)) 0

/-- The activation ranges that an MMUL reads (03 R60). -/
def mmRanges (c : CoreSt) (w : Word) (args : List Nat) : List (Nat × Nat) :=
  match Fmt.ofCode (bitsOf w 36 33) with
  | none => []
  | some f =>
    let k := mmPositions c w (chunkOfCodes (bitsOf w 36 33) (bitsOf w 30 29))
    (List.range (args.getD 4 0)).flatMap fun i =>
      [(loc32 (args.getD 0 0 + i * args.getD 2 0), f.bytes k), (loc32 (args.getD 1 0 + i * args.getD 3 0), f.scaleBytes k)]

/-- The pair of formats or the mode does not fit a loaded buffer (03 R58, R79). A buffer never loaded shows no pair; that is
ME_WBUF_EMPTY (DEDUCED, log entry 12). -/
def fmtPairBad (c : CoreSt) (w : Word) : Bool :=
  (engs w).any fun e =>
    let x := c.wb e (mmWb w)
    x.loaded && (x.acc ≠ bitsOf w 30 29 ||
      match Fmt.ofCode (bitsOf w 36 33), Fmt.ofCode x.fmt, AccMode.ofCode (bitsOf w 30 29) with
      | some a, some f, some m => !pairOk a f m
      | _, _, _ => true)

/-- ME_LADDER_RANGE for one tile (03 R66, R79, 04 R85). -/
def ladderBad (t : TileAttr) (w : Word) (n : Nat) : Bool :=
  !mmInit w && (mmL w ≠ t.iDepth || (t.iCount ≠ 0 && (mmRow0 w ≠ t.iRow0 || n ≠ t.iRows)))

/-- The ladder count of a tile after an MMUL, as issued (03 R65, R66): count, run length, and whether the run completes. -/
def ladderNext (t : TileAttr) (w : Word) : Nat × Nat × Bool :=
  let c := if mmInit w then 0 else t.iCount
  let ldt := if c = 0 then mmLdt w else t.iLdt
  if c + 1 = ldt then (0, ldt, true) else (c + 1, ldt, false)

/-- The tile as an MMUL leaves it at its issue (03 R66). -/
def tileAtIssue (t : TileAttr) (w : Word) (stream ord n : Nat) : TileAttr :=
  let x := ladderNext t w
  let opens := mmL w > 0 && (mmInit w || t.iCount = 0)
  let t := if opens then { t with iLdt := x.2.1, iRow0 := mmRow0 w, iRows := n } else t
  let t := { t with iCount := if mmL w > 0 then x.1 else if mmInit w then 0 else t.iCount }
  if mmInit w then { t with owner := stream, bindOrd := ord, iDepth := mmL w } else t

/-- A bound slot of a stream for an engine and tile, by its number (05 R122). -/
def boundSlot (c : CoreSt) (stream e tile : Nat) : Option Nat :=
  (List.range 4).find? fun k => match c.side[k]? with
    | some x => x.used && x.bound && x.stream = stream && x.eng = e && x.tile = tile
    | none => false

/-- A Sideshow slot replaced. -/
def CoreSt.setSlot (c : CoreSt) (k : Nat) (f : SideSlot → SideSlot) : CoreSt :=
  { c with side := c.side.zipIdx.map fun p => if p.2 = k then f p.1 else p.1 }

/-- The byte of engine e in a stream's drain record (05 R149). -/
def drecFld (e : Nat) : Fld := ⟨8 * e + 7, 8 * e⟩

/-- SIDE = 1 takes the bound slot of a target engine at issue, or sets SS_UNBOUND (05 R122, R123): slot numbers, 4 for none. -/
def takeSlots (s : State) (b i : Nat) (w : Word) : State × List Nat :=
  if mmSide w then
    (mmTargets w).foldl (fun (p : State × List Nat) e =>
      match boundSlot (p.1.core b) i e (bitsOf w 27 24) with
      | some k => (p.1.modCore b fun c => c.setSlot k fun x => { x with bound := false }, p.2 ++ [k])
      | none =>
        (((p.1.wr (SS_EVENTS b) fSS_EVENTS_SS_UNBOUND 1).wr (QC_EVENTS b) fQC_EVENTS_SS_UNBOUND 1).orF (QC_DREC b (i - 1)) (drecFld e) 8,
          p.2 ++ [4])) (s, [])
  else (s, [])

/-- The issue rejections of MMUL in the order of their codes (03 R79). DESIGN CHOICE (log entry 12): ME_SIDE_ORDER of an empty MMUL (row count 0)
with SIDE = 1 and L > 0 is judged as if it advanced the ladder count, and one with EMASK 0 is never rejected by it. -/
def mmulCheck (s : State) (b i : Nat) (w : Word) (args : List Nat) : Option Nat :=
  let c := s.core b
  let n := args.getD 4 0
  let ts := (mmTargets w).map fun e => c.tile (mmTile w e)
  firstCode [
    (fmtPairBad c w, 0x01),
    ((engs w).any fun e => !(c.wb e (mmWb w)).loaded, 0x02),
    (mmL w = 0 && 128 < mmRow0 w + n, 0x03),
    ((0 < mmL w && capacity (mmL w) < mmRow0 w + n) || ts.any (fun t => ladderBad t w n), 0x04),
    (mmSide w && 0 < mmL w && ts.any (fun t => !(ladderNext t w).2.2), 0x05),
    (!mmInit w && ts.any (fun t => t.owner ≠ 0 && t.owner ≠ i), 0x06),
    (engDisabled s b w, 0x07),
    ((mmRanges c w args).any fun r => !rangeOk r.1 r.2, 0x08)]

/-- MMUL (03 R66, R76, R77, R79). DESIGN CHOICE (log entry 12): an empty MMUL binds no tile with INIT = 1 and takes no Sideshow slot with SIDE = 1. -/
def execMmul (core stream : Nat) (s : State) : Res :=
  .next (s.issue core stream (fun w => opc w = 0x40) fun s h =>
    let w := h.word
    let n := s.sreg core stream (bitsOf w 41 37) % 2 ^ 32
    let args := pairArgs s core stream w ++ [n]
    match mmulCheck s core stream w args with
    | some c => engReject s core stream h c
    | none =>
      if (engs w).isEmpty || n = 0 then s.complete core stream h id
      else
        let iss := s.issuedOf core stream h
        let s := s.accept core stream h
        let p := takeSlots s core stream w
        let ord := (p.1.core core).nextOrd
        let s := p.1.modCore core fun c => (mmTargets w).foldl (fun c e =>
          c.setTile (mmTile w e) (tileAtIssue (c.tile (mmTile w e)) w stream ord n)) c
        let s := s.modCore core fun c =>
          { c with lastTile := c.lastTile.zipIdx.map fun q => if (engs w).contains q.2 then bitsOf w 27 24 else q.1 }
        let t := winTiles (mmRanges (s.core core) w args)
        s.addJob core ⟨0, .mmul, iss, w, args, p.2, (mmTargets w).map (mmTile w) ++ t, portsOf t, [], [], [], false, .none, none, 0⟩)

/-- Row i of the activations as engine e takes it (03 R60). -/
def actRow (c : CoreSt) (f : Fmt) (w : Word) (args : List Nat) (kc kv e i : Nat) : OpRow :=
  let g := if mmGang w then e * kc else 0
  let a := loc32 (args.getD 0 0 + i * args.getD 2 0 + f.bytes g)
  let sa := loc32 (args.getD 1 0 + i * args.getD 3 0 + g / 16)
  ⟨c.values f a sa kv, c.elems f a kv, c.scales f sa kv⟩

/-- Column j of a loaded buffer as an operand (03 R59). -/
def bufCol (x : WBuf) (f : Fmt) (j : Nat) : OpRow :=
  let els := x.cols.getD j []
  let scs := x.scs.getD j []
  ⟨f.decodeRow els scs, els, scs⟩

/-- What an MMUL applies to the tile of target engine e (03 R60, R65). -/
def mmulIn (c : CoreSt) (w : Word) (args : List Nat) (e : Nat) (slot : Option (List (Nat × Nat))) : Option MmulIn :=
  match Fmt.ofCode (bitsOf w 36 33), AccMode.ofCode (bitsOf w 30 29) with
  | some f, some m =>
    let es := if mmGang w then [0, 1, 2, 3] else [e]
    let kc := chunkLen f m
    let bufs := es.map fun k => c.wb k (mmWb w)
    let wf := fun (x : WBuf) => (Fmt.ofCode x.xFmt).getD f
    some ⟨mmTile w e, f, bufs.map wf, m, mmL w, mmLdt w, mmRow0 w, mmInit w, bitsOf w 19 19 = 1, mmGang w,
      (bufs.map (·.nc)).foldl max 0,
      (es.zip bufs).map (fun q => (List.range (args.getD 4 0)).map fun i => actRow c f w args kc q.2.kv q.1 i),
      bufs.map (fun x => (List.range x.nc).map (bufCol x (wf x))),
      bufs.map (·.kv), bufs.map (·.nc), slot⟩
  | _, _ => none

/-- The effect of an MMUL on the tile of one target engine (03 R65, R80, R82, 04 R110). -/
def mmulOne (s : State) (b : Nat) (j : Job) (k e : Nat) : State :=
  let c := s.core b
  let slotNo := j.prog.getD k 4
  let slot := if mmSide j.word then some (((c.side[slotNo]?).map (·.words)).getD []) else none
  match mmulIn c j.word j.args e slot with
  | none => s
  | some x =>
    let r := mmulTile x (j.args.getD 4 0) (c.tile x.ti) c.acc
    let s := s.modCore b fun c => { c.setTile x.ti r.1 with acc := r.2.1 }
    let s := s.setReg (ME_EVENTS b e) (s.reg (ME_EVENTS b e) ||| BitVec.ofNat 64 r.2.2.1)
    s.bump (DR_PERR b) fDR_PERR_COUNT r.2.2.2

/-- An MMUL completes: its ladder inputs are pushed, its slots released, its side effects performed (03 R65, R73, R82, 05 R122). -/
def execMmulComplete (core ord : Nat) (s : State) : Res :=
  .next (match s.job core ord with
    | none => s
    | some j =>
      let ready := j.prog.all fun k => match (s.core core).side[k]? with
        | some x => x.done
        | none => true
      if j.kind = .mmul && (s.clocked && (s.core core).mayEnd j) && ready then
        let n := j.args.getD 4 0
        let s := (mmTargets j.word).zipIdx.foldl (fun s p => mmulOne s core j p.2 p.1) s
        let s := s.modCore core fun c => j.prog.foldl (fun c k => c.setSlot k fun _ => SideSlot.reset) c
        let bad := (mmRanges (s.core core) j.word j.args).foldl (fun m r => m + (s.core core).badIn r.1 r.2) 0
        let s := s.bump (DR_PERR core) fDR_PERR_COUNT bad
        let s := (engs j.word).foldl (fun s e =>
          let x := (s.core core).wb e (mmWb j.word)
          let s := s.bump (ME_MACS core e) fME_MACS_MACS (x.kv * x.nc * n)
          (s.bumpFree (ME_BUSY_CYC core e) fME_BUSY_CYC_BUSY_CYC).bumpFree (ME_STALL_CYC core e) fME_STALL_CYC_STALL_CYC) s
        (s.dropJob core ord).finish core j.iss
      else s)

end Sys2Proof.Machine
end

