-- ==== Sys2Proof/Machine/DrainUnit.lean ====
section
/-!
DEFINITION. Machine/DrainUnit.lean: ACCLD, DRAIN and the drain hook (04 R88, R89, R95-R108, 06 R98, R171), clip tallies
(05 R125-R127).
-/

namespace Sys2Proof.Machine

namespace State

/-- A delivery to a clip tally: window and step counters, saturating; nothing when EN is 0 (05 R125-R127). -/
def tally (s : State) (b n : Nat) (t : TallyCount) : State :=
  if !s.on (TL_CFG b n) fTL_CFG_EN then s
  else
    let s := (s.bump (TL_W_ELEM b n) fTL_W_ELEM_CLIP (t.lo + t.hi)).bump (TL_W_ELEM b n) fTL_W_ELEM_ELEMS t.elems
    let s := (s.bump (TL_W_BLK b n) fTL_W_BLK_NF t.nf).bump (TL_W_BLK b n) fTL_W_BLK_EXH t.exh
    let s := (s.bump (TL_W_BLK b n) fTL_W_BLK_SAT t.sat).bump (TL_W_BLK b n) fTL_W_BLK_ZERO t.zero
    let s := (s.bump (TL_S_ELEM b n) fTL_S_ELEM_ELEMS t.elems).bump (TL_S_CLIPLO b n) fTL_S_CLIPLO_CLIPLO t.lo
    let s := (s.bump (TL_S_CLIPHI b n) fTL_S_CLIPHI_CLIPHI t.hi).bump (TL_S_BLK b n) fTL_S_BLK_ZERO t.zero
    let s := (s.bump (TL_S_BLK b n) fTL_S_BLK_BLOCKS t.blocks).bump (TL_S_BLK2 b n) fTL_S_BLK2_SAT t.sat
    (s.bump (TL_S_BLK2 b n) fTL_S_BLK2_EXH t.exh).bump (TL_S_BLK2 b n) fTL_S_BLK2_NF t.nf

/-- A micro-program slot as it stands: its configuration word, then four constants, then its micro-ops (06 R156). -/
def slotWords (s : State) (b n : Nat) : List Nat :=
  (s.reg (VE_SLOT_CFG b n)).toNat :: (List.range 4).map (fun k => (s.reg (VE_SLOT_C b (4 * n + k))).toNat)
    ++ (List.range 32).map fun k => (s.reg (VE_UOP b (32 * n + k))).toNat

/-- A slot with LEN = 0 or BAD = 1 is empty (06 R156, R176). -/
def slotEmpty (s : State) (b n : Nat) : Bool :=
  s.rd (VE_SLOT_CFG b n) fVE_SLOT_CFG_LEN = 0 || s.on (VE_SLOT_CFG b n) fVE_SLOT_CFG_BAD

/-- The flag that narrow blocks of a stream carry: FLAG_E while it is in replay (05 R132). -/
def replayFlag (s : State) (b i : Nat) : Nat := if s.inReplay b i then flagE else 0

end State

/-- The tile of an ACCLD or DRAIN (04 R103, R104). A word written after the load checks may name a TILE above 1 on ME0 to ME2, a reserved
SFMT, SRC 3 or a count of columns above 64 (R106); the spec gives it no meaning, and the model takes TILE modulo 2, F32, SRC 2 and the count as it
stands (DESIGN CHOICE, log entry 12). -/
def drEng (w : Word) : Nat := bitsOf w 55 54
def drTile (w : Word) : Nat := tileIdx (drEng w) (bitsOf w 53 50)

/-- The rejection of the drain unit (04 R107, R112). -/
def drReject (s : State) (b i : Nat) (h : Head) (code : Nat) : State :=
  (((s.unitFault (DR_FAULT b) code i h.pc).wr (DR_FAULT b) fDR_FAULT_ENG (drEng h.word)).reject b i h.pc 2 code)

/-- Scalar operands of ACCLD: source and scale address, pitches, row count (04 R103). -/
def accldArgs (s : State) (b i : Nat) (w : Word) : List Nat :=
  let r := fun k => loc32 (s.sreg b i (k % 32))
  [r (bitsOf w 49 45), r (bitsOf w 49 45 + 1), r (bitsOf w 44 40), r (bitsOf w 44 40 + 1), r (bitsOf w 39 35)]

/-- The source format of an ACCLD: F32 words when RAW (04 R88), and for a reserved SFMT (DESIGN CHOICE, log entry 12). -/
def accldFmt (w : Word) : Fmt := if bitsOf w 17 17 = 1 then .f32 else (Fmt.ofCode (bitsOf w 23 20)).getD .f32

/-- The source ranges of an ACCLD (04 R88, R107). -/
def accldRanges (w : Word) (args : List Nat) : List (Nat × Nat) :=
  let t := accldFmt w
  let nc := bitsOf w 16 10
  if bitsOf w 25 24 = 0 ∨ nc = 0 then []
  else
    (List.range (if bitsOf w 25 24 = 1 then min 1 (args.getD 4 0) else args.getD 4 0)).flatMap fun i =>
      [(loc32 (args.getD 0 0 + i * args.getD 2 0), t.bytes nc), (loc32 (args.getD 1 0 + i * args.getD 3 0), t.scaleBytes nc)]

/-- ACCLD (04 R88, R89, R103, R107, R108). -/
def execAccld (core stream : Nat) (s : State) : Res :=
  .next (s.issue core stream (fun w => opc w = 0x42) fun s h =>
    let w := h.word
    let args := accldArgs s core stream w
    let t := (s.core core).tile (drTile w)
    let rs := accldRanges w args
    match firstCode [(t.owner ≠ 0 && t.owner ≠ stream, 0x06), (decide (capacity (bitsOf w 27 26) < bitsOf w 34 28 + args.getD 4 0), 0x11),
        (t.iCount ≠ 0, 0x12), (!s.on (DR_CTRL core) fDR_CTRL_EN, 0x15), (rs.any fun r => !rangeOk r.1 r.2, 0x16)] with
    | some c => drReject s core stream h c
    | none =>
      if args.getD 4 0 = 0 || bitsOf w 16 10 = 0 then s.complete core stream h id
      else
        let iss := s.issuedOf core stream h
        let s := s.accept core stream h
        let wt := winTiles rs
        s.addJob core ⟨0, .accld, iss, w, args, [], drTile w :: wt, drEng w :: portsOf wt, [], [], [], false, .none, none, 0⟩)

/-- An ACCLD completes: the accumulator words are written (04 R86, R88). -/
def execAccldComplete (core ord : Nat) (s : State) : Res :=
  .next (match s.job core ord with
    | none => s
    | some j =>
      if j.kind = .accld && (s.clocked && (s.core core).mayEnd j) then
        let w := j.word
        let c := s.core core
        let rows := (List.range (j.args.getD 4 0)).map fun i =>
          accldRow c (bitsOf w 25 24) (bitsOf w 17 17 = 1) (accldFmt w) (j.args.getD 0 0) (j.args.getD 1 0) (j.args.getD 2 0) (j.args.getD 3 0)
            (bitsOf w 16 10) i
        let am := rows.zipIdx.foldl (fun m (r : List (WithEv Nat) × Nat) => r.1.zipIdx.foldl (fun (m : AccMem) (e : WithEv Nat × Nat) =>
          m.write (accWordKey (drTile w) (bitsOf w 27 26) (bitsOf w 34 28 + r.2) e.2) e.1.val) m) c.acc
        let ev := rows.foldl (fun a r => r.foldl (fun a e => a ||| e.ev) a) 0
        let s := s.modCore core fun c => { c with acc := am }
        let s := s.setReg (DR_EVENTS core) (s.reg (DR_EVENTS core) ||| BitVec.ofNat 64 ev)
        let bad := (accldRanges w j.args).foldl (fun n r => n + c.badIn r.1 r.2) 0
        let s := (s.bump (DR_PERR core) fDR_PERR_COUNT bad).bumpFree (DR_STALL_CYC core) fDR_STALL_CYC_STALL_CYC
        (s.dropJob core ord).finish core j.iss
      else s)

/-- Scalar operands of DRAIN: element and scale address, pitches, bias address, row count, auxiliary quad (04 R99, R100, R104). -/
def drainArgs (s : State) (b i : Nat) (w : Word) : List Nat :=
  let r := fun k => s.sreg b i (k % 32)
  let x := bitsOf w 19 15
  [loc32 (r (bitsOf w 46 42)), loc32 (r (bitsOf w 46 42 + 1)), loc32 (r (bitsOf w 41 37)), loc32 (r (bitsOf w 41 37 + 1)),
    loc32 (r (bitsOf w 36 32)), loc32 (r (bitsOf w 31 27)), loc32 (r x), loc32 (r (x + 1)), loc32 (r (x + 2)), r (x + 2) / 2 ^ 32]

/-- Output rows and their length, by orientation (04 R99). -/
def drainShape (p : Profile) (n : Nat) : Nat × Nat := if p.bdir then (p.ncol, n) else (n, p.ncol)

/-- The ranges of a DRAIN: outputs, bias, auxiliary outputs (04 R107). -/
def drainRanges (p : Profile) (args : List Nat) : List (Nat × Nat) :=
  let n := args.getD 5 0
  if n = 0 ∨ p.ncol = 0 then []
  else
    let sh := drainShape p n
    let main := match Fmt.ofCode p.ofmt with
      | some t => outRanges t (args.getD 0 0) (args.getD 1 0) (args.getD 2 0) (args.getD 3 0) sh.1 sh.2
      | none => []
    let bias := match biasFmt p.biasf with
      | some t => [(args.getD 4 0, t.bytes p.ncol)]
      | none => []
    let aux := match p.auxen, Fmt.ofCode p.auxf with
      | true, some t => outRanges t (args.getD 6 0) (args.getD 7 0) (args.getD 8 0) (args.getD 9 0) sh.1 sh.2
      | _, _ => []
    main ++ bias ++ aux

/-- The issue rejections of DRAIN in the order of their codes (04 R107). -/
def drainCheck (s : State) (b : Nat) (w : Word) (p : Profile) (args : List Nat) : Option Nat :=
  let t := (s.core b).tile (drTile w)
  firstCode [
    (decide (capacity t.iDepth < bitsOf w 26 20 + args.getD 5 0), 0x11),
    (t.iCount ≠ 0, 0x12),
    ((profileCheck p).isSome || (p.auxen && bitsOf w 19 15 % 4 ≠ 0), 0x13),
    (p.act = 6 && s.slotEmpty b p.hook, 0x14),
    (!s.on (DR_CTRL b) fDR_CTRL_EN, 0x15),
    ((drainRanges p args).any fun r => !rangeOk r.1 r.2, 0x16)]

/-- DRAIN (04 R95, R102, R104, R105, R107, R108). The job keeps its profile and the order of the binding it found. -/
def execDrain (core stream : Nat) (s : State) : Res :=
  .next (s.issue core stream (fun w => opc w = 0x43) fun s h =>
    let w := h.word
    let p := s.profile core (bitsOf w 49 47)
    let args := drainArgs s core stream w
    match drainCheck s core w p args with
    | some c => drReject s core stream h c
    | none =>
      if args.getD 5 0 = 0 || p.ncol = 0 then s.complete core stream h id
      else
        let iss := s.issuedOf core stream h
        let bind := ((s.core core).tile (drTile w)).bindOrd
        let s := s.accept core stream h
        let wt := winTiles (drainRanges p args)
        s.addJob core ⟨0, .drain, iss, w, args ++ [bind], [p.a.toNat, p.b.toNat], drTile w :: wt, drEng w :: portsOf wt, [], [], [], false, .none, none, 0⟩)

/-- The profile that a DRAIN's job keeps. -/
def jobProfile (j : Job) : Profile := ⟨BitVec.ofNat 64 (j.prog.getD 0 0), BitVec.ofNat 64 (j.prog.getD 1 0)⟩

/-- The bias of a DRAIN, read once (04 R95): the words that the first row through the hook left in the job, else those in memory. -/
def jobBias (c : CoreSt) (j : Job) : List Nat :=
  if j.rows.isEmpty then biasRow c (jobProfile j) (j.args.getD 4 0) else j.prog.drop 2

/-- Bad words that reading the bias through the window meets (04 R110). -/
def biasBad (c : CoreSt) (j : Job) : Nat :=
  match biasFmt (jobProfile j).biasf with
  | none => 0
  | some t => c.badIn (j.args.getD 4 0) (t.bytes (jobProfile j).ncol)

/-- Row k of a DRAIN at stage 2, with its events (04 R95). -/
def drainStage2 (c : CoreSt) (j : Job) (k : Nat) : List (WithEv Nat) :=
  drainRow c (jobProfile j) (drTile j.word) (bitsOf j.word 26 20 + k) (jobBias c j)

/-- Words with bad parity that output rows of a DRAIN read (04 R110). -/
def drainBad (c : CoreSt) (j : Job) (k : Nat) : Nat :=
  let p := jobProfile j
  let t := c.tile (drTile j.word)
  ((List.range p.ncol).filter fun x => c.acc.bad.contains (accWordKey (drTile j.word) t.depth (bitsOf j.word 26 20 + k) x)).length

/-- The DRAIN whose row of an engine waits for the hook: the oldest one in progress there, with ACT = 6 and rows left (04 R98). -/
def hookJob (c : CoreSt) (e : Nat) : Option Job :=
  c.jobs.find? fun j => j.kind = .drain && drEng j.word = e && (jobProfile j).act = 6 && decide (j.rows.length < j.args.getD 5 0) && c.mayEnd j

/-- The engines of the round in progress, or of the one that begins now (04 R98). -/
def hookRoundNow (c : CoreSt) : List Nat :=
  if c.hookRound.isEmpty then [0, 1, 2, 3].filter fun e => (hookJob c e).isSome else c.hookRound

/-- A row through the hook: micro-ops in context H on the stage 2 values (06 R171). A NaN value, and a NaN that the program leaves,
is the canonical NaN and raises EV_NONFINITE (04 R95, R97). -/
def hookRow (slot : List Nat) (row : Nat) (x : List (WithEv Nat)) : List (WithEv Nat) :=
  let len := bitsOf (BitVec.ofNat 64 (slot.getD 0 0)) 30 25
  let prog := ((slot.drop 5).take len)
  x.zipIdx.map fun p =>
    let r := runProg ⟨(slot.drop 1).take 4, p.2, row⟩ prog (p.1.val :: List.replicate 15 0)
    if (f32v p.1.val).isNaN || (f32v (r.val.getD 0 0)).isNaN then ⟨qNaN, p.1.ev ||| r.ev ||| evNonfinite⟩
    else ⟨r.val.getD 0 0, p.1.ev ||| r.ev⟩

/-- HOOK_ROW: the next row of an engine's DRAIN is taken in its round and run (04 R98, 06 R171). A row is kept as its events
and its values; the first one keeps the bias too (04 R95). DESIGN CHOICE (log entry 12): a row copies the slot as it stands (06 R156), and
where it has become empty or BAD since the DRAIN issued, stage 2 values pass through unchanged, which the spec leaves open. -/
def execHookRow (core eng : Nat) (s : State) : Res :=
  .next (
    let c := s.core core
    match hookRoundNow c, hookJob c eng with
    | e :: rest, some j =>
      if e = eng && s.clocked && s.coreOn core then
        let k := j.rows.length
        let hook := (jobProfile j).hook
        let slot := if s.slotEmpty core hook then [] else s.slotWords core hook
        let r := hookRow slot (bitsOf j.word 26 20 + k) (drainStage2 c j k)
        let ev := r.foldl (fun a x => a ||| x.ev) 0
        let j' := { j with rows := j.rows ++ [ev :: r.map (·.val)], prog := j.prog.take 2 ++ jobBias c j }
        let s := s.modCore core fun c => { c with hookRound := rest, jobs := c.jobs.map fun x => if x.ord = j.ord then j' else x }
        let s := s.bump (DR_PERR core) fDR_PERR_COUNT (drainBad c j k + if k = 0 then biasBad c j else 0)
        let s := s.bump (VE_HOOK_ROWS core) fVE_HOOK_ROWS_ROWS 1
        if c.jobs.any fun x => x.kind = .ve then s.bumpFree (VE_STALL_CYC core) fVE_STALL_CYC_STALL_CYC else s
      else s
    | _, _ => s)

/-- Stage 2 and stage 3 values of every row, with events (04 R95, R97, R98). With the hook, the main output is what HOOK_ROW left. -/
def drainValues (c : CoreSt) (j : Job) : List (List Nat) × List (List Nat) × Nat :=
  let p := jobProfile j
  let n := j.args.getD 5 0
  let pre := (List.range n).map (drainStage2 c j)
  let ev0 := pre.foldl (fun a r => r.foldl (fun a e => a ||| e.ev) a) 0
  if p.act = 6 then
    (pre.map fun r => r.map (·.val), j.rows.map (·.drop 1), j.rows.foldl (fun a r => a ||| r.headD 0) ev0)
  else
    let post := pre.map fun r => r.map fun e => activation p.act p.lk e.val
    (pre.map fun r => r.map (·.val), post.map fun r => r.map (·.val), post.foldl (fun a r => r.foldl (fun a e => a ||| e.ev) a) ev0)

/-- The bits that a DRAIN ORs into its stream's drain record (05 R129, R130, R149). -/
def drecBits (tev ev : Nat) : Nat :=
  (if tev &&& tevRunOvf ≠ 0 then 1 else 0)
    + (if tev &&& (tevNonfinite ||| tevAccOvf) ≠ 0 || ev &&& (evNonfinite ||| 64) ≠ 0 then 2 else 0)
    + (if tev &&& tevI32Sat ≠ 0 then 4 else 0)

/-- The binding that a DRAIN with KEEP = 0 releases (03 R66, 04 R102). -/
def releaseOwner (c : CoreSt) (j : Job) : CoreSt :=
  let t := c.tile (drTile j.word)
  if bitsOf j.word 14 14 = 0 && t.bindOrd = j.args.getD 10 0 then c.setTile (drTile j.word) { t with owner := 0, bindOrd := 0 } else c

/-- What a DRAIN writes to its main and its auxiliary output, and the events of its rows (04 R99, R100). -/
def drainPlans (c : CoreSt) (j : Job) (keep : Nat) : OutPlan × OutPlan × Nat :=
  let p := jobProfile j
  let v := drainValues c j
  let shape := fun m => if p.bdir then turned p.ncol m else m
  let t := (Fmt.ofCode p.ofmt).getD .f32
  let a := fun k => j.args.getD k 0
  (outRows t (if p.sfix then some p.scode else none) (rndOf p.rnd) keep (a 0) (a 1) (a 2) (a 3) (shape v.2.1),
    if p.auxen then outRows ((Fmt.ofCode p.auxf).getD .f32) none .rne keep (a 6) (a 7) (a 8) (a 9) (shape v.1) else ⟨[], 0, TallyCount.none⟩, v.2.2)

/-- DRAIN_COMPLETE: outputs written, events and counts delivered, the binding released (04 R99-R102, 05 R130). DESIGN CHOICE (log entry
12): an output range in the accumulator window, which R107 lets pass, is stored there, although R102 says that a DRAIN never writes
accumulator memory. -/
def execDrainComplete (core ord : Nat) (s : State) : Res :=
  .next (match s.job core ord with
    | none => s
    | some j =>
      let p := jobProfile j
      let n := j.args.getD 5 0
      if j.kind = .drain && (s.clocked && (s.core core).mayEnd j) && (p.act ≠ 6 || j.rows.length = n) then
        let c := s.core core
        let i := j.iss.stream
        let o := drainPlans c j (s.replayFlag core i)
        let tev := (c.tile (drTile j.word)).tev
        let ev := o.2.2 ||| o.1.ev ||| o.2.1.ev
        let s := s.modCore core fun c => releaseOwner ((c.applyStores o.1.stores).applyStores o.2.1.stores) j
        let s := s.setReg (DR_EVENTS core) (s.reg (DR_EVENTS core) ||| BitVec.ofNat 64 (ev % 128 + tev % 32 * 256))
        let s := s.orF (QC_DREC core (i - 1)) (drecFld (drEng j.word)) (drecBits tev ev)
        let s := if bitsOf j.word 8 8 = 1 then s.tally core (bitsOf j.word 13 9) o.1.tally else s
        let bad := if p.act = 6 then 0 else (List.range n).foldl (fun m k => m + drainBad c j k) (biasBad c j)
        let s := (s.bump (DR_ROWS core) fDR_ROWS_ROWS n).bump (DR_PERR core) fDR_PERR_COUNT bad
        let s := s.bumpFree (DR_STALL_CYC core) fDR_STALL_CYC_STALL_CYC
        (s.dropJob core ord).finish core j.iss
      else s)

end Sys2Proof.Machine
end

