-- ==== Sys2Proof/Machine/DataMover.lean ====
section
/-!
DEFINITION. Machine/DataMover.lean: DMOV with its descriptor, checks, rows, completion and failure (07 R180-R197, R207-R209) and
run-ahead probes (07 R200-R206).
-/

namespace Sys2Proof.Machine

/-- A list's address range cut at every multiple of `z`: at most `n` pieces. -/
def cutAt (z : Nat) : Nat → Nat → Nat → List (Nat × Nat)
  | 0, _, _ => []
  | n + 1, a, len => if len = 0 then [] else
      let k := min len (z - a % z)
      (a, k) :: cutAt z n (a + k) (len - k)

/-- The requests of a range: WR pieces do not cross 256 bytes (13 R379). -/
def wrPieces (a len : Nat) : List (Nat × Nat) := cutAt 256 (len / 256 + 2) a len

/-- RD pieces cover the range with whole lines and do not cross 256 bytes (13 R379). -/
def rdPieces (a len : Nat) : List (Nat × Nat) :=
  if len = 0 then [] else wrPieces (a / 64 * 64) ((a + len + 63) / 64 * 64 - a / 64 * 64)

/-- A DMOV's operands: its descriptor (07 R182) with the offsets applied to the addresses, the values of its SL pair, and the
extraction list as read at issue (CNT, CSLOT, THRESH, channels; 05 R119). -/
structure Mv where
  d : List Nat
  src : Nat
  dst : Nat
  list : Nat
  sbase : Nat
  p0 : Nat
  spitch : Nat
  ext : List Nat
  deriving DecidableEq, Repr

namespace Mv

def w (m : Mv) (k : Nat) : Nat := m.d.getD k 0
def bits (m : Mv) (hi lo : Nat) : Nat := nbitsAt (m.w 0) hi lo
def flag (m : Mv) (i : Nat) : Bool := m.bits i i = 1
def kind (m : Mv) : Nat := m.bits 63 60
def sfmt (m : Mv) : Fmt := (Fmt.ofCode (m.bits 59 56)).getD .f32
def dfmt (m : Mv) : Fmt := (Fmt.ofCode (m.bits 55 52)).getD .f32
def rnd (m : Mv) : Nat := m.bits 51 50
def bsz (m : Mv) : Nat := m.bits 49 48
def trans (m : Mv) : Bool := m.flag 47
def rot (m : Mv) : Bool := m.flag 46
def rform (m : Mv) : Bool := m.flag 45
def rinv (m : Mv) : Bool := m.flag 44
def rk (m : Mv) : Nat := m.bits 43 40
def rseed (m : Mv) : Nat := m.bits 39 37
def side (m : Mv) : Bool := m.flag 36
def tallyEn (m : Mv) : Bool := m.flag 35
def tallyNo (m : Mv) : Nat := m.bits 34 30
def sfix (m : Mv) : Bool := m.flag 29
def scode (m : Mv) : Nat := m.bits 28 21
def ra (m : Mv) : Bool := m.flag 20
def shint (m : Mv) : Hint := ⟨m.bits 19 18, m.bits 15 12, false⟩
def dhint (m : Mv) : Hint := ⟨m.bits 17 16, m.bits 8 5, false⟩
def sspc (m : Mv) : Bool := m.flag 11
def dspc (m : Mv) : Bool := m.flag 10
def tdir (m : Mv) : Bool := m.flag 9
def ssoff (m : Mv) : Int := sextN 32 (nbitsAt (m.w 3) 31 0)
where sextN (n x : Nat) : Int := if x < 2 ^ (n - 1) then Int.ofNat x else Int.ofNat x - Int.ofNat (2 ^ n)
def dsoff (m : Mv) : Int := ssoff.sextN 32 (nbitsAt (m.w 3) 63 32)
def ext0 (m : Mv) : Nat := nbitsAt (m.w 4) 15 0
def ext1 (m : Mv) : Nat := nbitsAt (m.w 4) 31 16
def ext2 (m : Mv) : Nat := nbitsAt (m.w 4) 47 32
def ext3 (m : Mv) : Nat := nbitsAt (m.w 4) 63 48
def ss1 (m : Mv) : Nat := nbitsAt (m.w 5) 31 0
def ss2 (m : Mv) : Nat := nbitsAt (m.w 5) 63 32
def ss3 (m : Mv) : Nat := nbitsAt (m.w 6) 31 0
def ds1 (m : Mv) : Nat := nbitsAt (m.w 6) 63 32
def ds2 (m : Mv) : Nat := nbitsAt (m.w 7) 31 0
def ds3 (m : Mv) : Nat := nbitsAt (m.w 7) 63 32
def cnt (m : Mv) : Nat := m.ext.getD 0 0
def cslot (m : Mv) : Nat := m.ext.getD 1 0
def thresh (m : Mv) : Nat := m.ext.getD 2 0
def chans (m : Mv) : List Nat := (m.ext.drop 3).take m.cnt

/-- An address in its space: 32 bits core-local, 64 bits hall (07 R183). -/
def wrap (hall : Bool) (a : Int) : Nat := if hall then (a % Int.ofNat (2 ^ 64)).toNat else (a % Int.ofNat (2 ^ 32)).toNat

/-- No destination row, or empty ones (07 R209). -/
def empty (m : Mv) : Bool := m.ext0 = 0 || m.ext1 = 0 || m.ext2 = 0 || m.ext3 = 0

/-- A raw copy (07 R188). -/
def raw (m : Mv) : Bool := m.sfmt = m.dfmt && !m.trans && !m.rot && !m.side

/-- Destination rows in their order, as (i1, i2, i3) (07 R184). -/
def rows (m : Mv) : List (Nat × Nat × Nat) :=
  if m.ext0 = 0 then []
  else (List.range m.ext3).flatMap fun i3 => (List.range m.ext2).flatMap fun i2 => (List.range m.ext1).map fun i1 => (i1, i2, i3)

/-- Offset of a source row from SADDR; the first index is i0 with TRANS and i1 without (07 R184). -/
def sOff (m : Mv) (i : Nat × Nat × Nat) : Nat := i.1 * m.ss1 + i.2.1 * m.ss2 + i.2.2 * m.ss3

/-- Offset of a destination row from DADDR. -/
def dOff (m : Mv) (i : Nat × Nat × Nat) : Nat := i.1 * m.ds1 + i.2.1 * m.ds2 + i.2.2 * m.ds3

/-- Bytes per block of a narrow format (07 R185). -/
def blockBytes (t : Fmt) : Nat := if t.bits = 4 then 16 else 32

def sAddr (m : Mv) (off : Nat) : Nat := wrap m.sspc (Int.ofNat (m.src + off))
def dAddr (m : Mv) (off : Nat) : Nat := wrap m.dspc (Int.ofNat (m.dst + off))

/-- Where the scale words of a row begin (07 R185). -/
def sScale (m : Mv) (off : Nat) : Nat := wrap m.sspc (Int.ofNat m.src + m.ssoff + Int.ofNat (off / blockBytes m.sfmt * 2))
def dScale (m : Mv) (off : Nat) : Nat := wrap m.dspc (Int.ofNat m.dst + m.dsoff + Int.ofNat (off / blockBytes m.dfmt * 2))

/-- Source rows with the number of elements read of each, and the destination row that needs them first (07 R184). -/
def srcRows (m : Mv) : List ((Nat × Nat × Nat) × Nat × Nat) :=
  if m.kind ≠ 0 || m.empty then []
  else if m.trans then
    ((List.range m.ext3).flatMap fun i3 => (List.range m.ext2).flatMap fun i2 =>
      (List.range m.ext0).map fun i0 => ((i0, i2, i3), m.ext1, (i3 * m.ext2 + i2) * m.ext1))
  else m.rows.zipIdx.map fun r => (r.1, m.ext0, r.2)

/-- The ranges a source row is read from: elements, then scale words. -/
def srcRanges (m : Mv) (i : Nat × Nat × Nat) (n : Nat) : List (Nat × Nat) :=
  (m.sAddr (m.sOff i), m.sfmt.bytes n) :: (if m.sfmt.narrow then [(m.sScale (m.sOff i), m.sfmt.scaleBytes n)] else [])

def dstRanges (m : Mv) (i : Nat × Nat × Nat) : List (Nat × Nat) :=
  (m.dAddr (m.dOff i), if m.raw then m.dfmt.bytes m.ext0 else m.dfmt.outBytes m.ext0) :: (if m.dfmt.narrow then [(m.dScale (m.dOff i), m.dfmt.scaleBytes m.ext0)] else [])

/-- The side-value range of destination row r (07 R191). -/
def sideRange (m : Mv) (r : Nat) : Nat × Nat := (loc32 (m.sbase + r * m.spitch), 2 * m.cnt)

/-- Core-local ranges of a COPY or FILL (07 R186, R208). Of a TENSOR move, whose length the directory gives after issue, the first byte of its
core-local side (DEDUCED, log entry 12). -/
def localRanges (m : Mv) : List (Nat × Nat) :=
  if m.kind = 1 then (if m.tdir then (if m.sspc then [] else [(m.src, 1)]) else if m.dspc then [] else [(m.dst, 1)])
  else
    (if m.sspc then [] else m.srcRows.flatMap fun x => m.srcRanges x.1 x.2.1)
      ++ (if m.dspc || m.empty then [] else m.rows.flatMap m.dstRanges)
      ++ (if m.side then (List.range m.rows.length).map m.sideRange else [])

/-- Alignment unit of a side's elements (07 R186). -/
def unit (t : Fmt) : Nat := if t.narrow then blockBytes t else t.bits / 8

/-- The alignment rules of 07 R186. -/
def misaligned (m : Mv) : Bool :=
  let s := m.kind = 0 && ((m.src % unit m.sfmt ≠ 0 || m.ss1 % unit m.sfmt ≠ 0 || m.ss2 % unit m.sfmt ≠ 0 || m.ss3 % unit m.sfmt ≠ 0)
    || (m.trans && m.sfmt.narrow && m.ext1 % 32 ≠ 0) || (m.sfmt.narrow && m.sScale 0 % 2 ≠ 0))
  let d := m.kind ≠ 1 && ((m.dst % unit m.dfmt ≠ 0 || m.ds1 % unit m.dfmt ≠ 0 || m.ds2 % unit m.dfmt ≠ 0 || m.ds3 % unit m.dfmt ≠ 0)
    || (m.dfmt.narrow && m.dScale 0 % 2 ≠ 0))
  s || d

/-- Fields that the KIND does not allow (07 R190, R193, R194). -/
def kindBad (m : Mv) : Bool :=
  match m.kind with
  | 0 => m.side && (m.sfmt.narrow || !m.dfmt.narrow)
  | 1 => m.trans || m.rot || m.side || m.sfix || m.tallyEn
  | 2 => m.trans || m.rot || m.side
  | _ => true

/-- The extraction list breaks 05 R119. -/
def listBad (m : Mv) : Bool :=
  let ch := m.chans
  m.list % 64 ≠ 0 || decide (64 < m.cnt) || !((ch.zip (ch.drop 1)).all fun p => decide (p.1 < p.2))
    || (f32v m.thresh).isNaN || (f32v m.thresh).isNeg || (f32v m.thresh).isZero

def fmtResvd (m : Mv) : Bool :=
  (m.kind = 0 && (Fmt.ofCode (m.bits 59 56)).isNone) || (m.kind ≠ 1 && (Fmt.ofCode (m.bits 55 52)).isNone)

/-- A narrow format is in use (02 R39). -/
def narrowUsed (m : Mv) : Bool := (m.kind = 0 && m.sfmt.narrow) || (m.kind ≠ 1 && m.dfmt.narrow)

/-- The checks of 07 R208 in their order: descriptor address, SD pair fields of the word. -/
def check (m : Mv) (desc : Nat) (w : Word) (en : Bool) : Option Nat :=
  firstCode [(desc % 64 ≠ 0, 0x41), (m.misaligned, 0x42),
    (!rangeOk desc 64 || m.localRanges.any (fun r => !rangeOk r.1 r.2)
      || (m.kind = 0 && m.side && decide (coreMemSize < m.list + 320)), 0x43),
    (m.kindBad, 0x44), (!en, 0x45), (m.kind = 0 && m.side && m.listBad, 0x46),
    (m.kind = 0 && m.rot && (m.rk < 5 || 12 < m.rk), 0x47), (m.kind = 0 && m.rot && m.sfmt.narrow, 0x48),
    (m.kind = 0 && m.rot && (m.ext0 % 2 ^ m.rk ≠ 0 || m.p0 % 2 ^ m.rk ≠ 0), 0x49), (m.kind = 0 && m.rot && m.side, 0x4A),
    (m.fmtResvd || (m.narrowUsed && 2 ≤ m.bsz) || (m.kind ≠ 1 && m.rnd = 3), 0x4B), (m.narrowUsed && m.bsz = 0, 0x4C),
    (m.kind ≠ 1 && m.rnd = 2, 0x4D), (m.kind ≠ 1 && m.sfix && m.scode = 255, 0x4E),
    ((bitsOf w 40 40 = 1 && bitsOf w 45 41 % 2 = 1) || ((m.side || m.rot) && bitsOf w 50 46 % 2 = 1), 0x4F)]

/-- The operands as numbers, for the job that carries them. -/
def pack (m : Mv) : List Nat := (List.range 8).map m.w ++ [m.src, m.dst, m.list, m.sbase, m.p0, m.spitch] ++ m.ext

end Mv

/-- The operands of a job. -/
def mvOf (a : List Nat) : Mv :=
  ⟨a.take 8, a.getD 8 0, a.getD 9 0, a.getD 10 0, a.getD 11 0, a.getD 12 0, a.getD 13 0, a.drop 14⟩

/-- The core-local address of the descriptor a DMOV names (07 R181). -/
def descAddr (s : State) (b i : Nat) (w : Word) : Nat := loc32 (s.sreg b i (bitsOf w 55 51))

/-- A DMOV's operands as they stand (07 R181, R182, 05 R119). An odd SL names no pair: DM_REG_PAIR is then the one condition that SL can raise
(DEDUCED, log entry 12). -/
def readMv (s : State) (b i : Nat) (w : Word) : Mv :=
  let c := s.core b
  let a := descAddr s b i w
  let d := (List.range 8).map fun k => c.locNat (a + 8 * k) 8
  let k := nbitsAt (d.getD 0 0) 63 60
  let td := nbitsAt (d.getD 0 0) 9 9
  let offen := bitsOf w 40 40 = 1
  let so := bitsOf w 45 41
  let sl := bitsOf w 50 46
  let l0 := s.sreg b i sl
  let l1 := s.sreg b i ((sl + 1) % 32)
  let sAdd := if offen && k ≠ 2 && !(k = 1 && td = 0) then s.sreg b i so else 0
  let dAdd := if offen && !(k = 1 && td = 1) then s.sreg b i ((so + 1) % 32) else 0
  let used := (nbitsAt (d.getD 0 0) 46 46 = 1 || nbitsAt (d.getD 0 0) 36 36 = 1) && sl % 2 = 0
  let list := if used then l0 % 2 ^ 32 else 0
  let ext := if nbitsAt (d.getD 0 0) 36 36 = 1 && sl % 2 = 1 then [0, 0, 0x3F800000]
    else if nbitsAt (d.getD 0 0) 36 36 = 1 then
      let n := c.locByte list
      [n, c.locByte (list + 1) % 32, c.locNat (list + 4) 4] ++ (List.range (min n 64)).map fun j => c.locNat (list + 64 + 4 * j) 4
    else []
  ⟨d, (d.getD 1 0 + sAdd) % 2 ^ 64, (d.getD 2 0 + dAdd) % 2 ^ 64, list, if used then l0 / 2 ^ 32 else 0,
    if used then l1 % 2 ^ 32 else 0, if used then l1 / 2 ^ 32 else 0, ext⟩

/-- The KIND of the descriptor that a DMOV word names. -/
def kindOf (s : State) (b i : Nat) (w : Word) : Nat := bitsOf (s.descWord b i w 0) 63 60

/-- Rejection of a DMOV (07 R208, 09 R254). -/
def dmReject (s : State) (b i : Nat) (h : Head) (code : Nat) : State := (s.unitFault (DM_FAULT b) code i h.pc).reject b i h.pc 5 code

namespace State

/-- A request of a move to another package is sent: whether it could be (13 R377, R379, R396). -/
def moveReq (s : State) (b ord : Nat) (write : Bool) (h : Hint) (a len : Nat) (data : List Nat) : State :=
  let tag := (s.core b).nextTag
  let p := mkPacket s (if write then 0x03 else 0x01) 0 (hallNode a) b tag len a data
  match s.sendReq { p with hint := h.code, use := h.use } with
  | none => (s.bump FAB_DROP fFAB_DROP_NOROUTE 1).setJob b ord fun j => { j with fail := some 0x04 }
  | some s => (s.takeTag b).setJob b ord fun j => { j with reqs := j.reqs ++ [⟨tag, a, len, write, s.beat⟩] }

/-- Reads of ranges that lie in other packages are requested (07 R183, 13 R379). -/
def requestReads (s : State) (b ord : Nat) (h : Hint) (rs : List (Nat × Nat)) : State :=
  rs.foldl (fun s r => if s.isLocal r.1 then s
    else (rdPieces r.1 r.2).foldl (fun s p => s.moveReq b ord false h p.1 p.2 []) s) s

/-- A probe that its DMOV's issue supersedes (07 R203). -/
def supersede (s : State) (b i pc : Nat) : State :=
  if (s.core b).probes.any fun p => p.stream = i && p.pc = pc then
    (s.modCore b fun c => { c with probes := c.probes.filter fun p => !(p.stream = i && p.pc = pc) }).releaseLines b i pc false
  else s

/-- The hall side of a whole-tensor move that is not the tensor (07 R194). -/
def tensorOther (m : Mv) : Bool × Nat := if m.tdir then (m.sspc, m.src) else (m.dspc, m.dst)

/-- The accumulator tiles a move may touch (04 R91): a whole-tensor move's core-local side may reach to the window's end. -/
def moveTiles (m : Mv) : List Nat :=
  if m.kind = 1 then
    let o := tensorOther m
    if o.1 || loc32 o.2 < winBase then [] else rangeTiles o.2 (winBase + winSize - loc32 o.2)
  else winTiles m.localRanges

/-- A translated move asks for what it reads in other packages. -/
def startReads (s : State) (b : Nat) (j : Job) : State :=
  let m := mvOf j.args
  if m.kind = 1 then
    match j.trans with
    | .found _ _ _ addr len =>
      if m.tdir then (if m.sspc then s.requestReads b j.ord m.shint [(m.src, len)] else s)
      else s.requestReads b j.ord m.shint [(addr, len)]
    | _ => s
  else if m.sspc then s.requestReads b j.ord m.shint (m.srcRows.flatMap fun x => m.srcRanges x.1 x.2.1)
  else s

end State

/-- Issue of a DMOV (07 R180, R195, R203, R208, R209). -/
def dmIssue (s : State) (b i : Nat) (sel : Nat → Bool) : State :=
  s.issue b i (fun w => opc w = 0x60 && sel (kindOf s b i w)) fun s h =>
    let m := readMv s b i h.word
    match m.check (descAddr s b i h.word) h.word (s.on (DM_CTRL b) fDM_CTRL_EN) with
    | some c => dmReject s b i h c
    | none =>
      let s := s.supersede b i h.pc
      if m.kind ≠ 1 && m.empty then s.complete b i h id
      else
        let iss := s.issuedOf b i h
        let s := s.accept b i h
        let ord := (s.core b).nextOrd
        let t := State.moveTiles m
        let s := s.addJob b ⟨0, .dmov, iss, h.word, m.pack, [], t, portsOf t, [], [], [], false, .none, none, 0⟩
        let s := if m.kind = 1 then
            let r := s.translate (nbitsAt (if m.tdir then m.dst else m.src) 20 0) m.tdir
            r.1.setJob b ord fun j => { j with trans := r.2 }
          else s
        match s.job b ord with
        | some j => s.startReads b j
        | none => s

/-- DMOV with KIND COPY, or a reserved KIND, which the checks reject (07 R184, R187, R208). -/
def execDmovCopy (core stream : Nat) (s : State) : Res := .next (dmIssue s core stream fun k => k ≠ 1 && k ≠ 2)

/-- DMOV with KIND TENSOR (07 R194). -/
def execDmovTensor (core stream : Nat) (s : State) : Res := .next (dmIssue s core stream fun k => k = 1)

/-- DMOV with KIND FILL (07 R193). -/
def execDmovFill (core stream : Nat) (s : State) : Res := .next (dmIssue s core stream fun k => k = 2)

/-- What a move has done so far: the state, events, tally counts, crowding channels, writes to other packages, bytes read and
written, the row and status at which it failed, and the side values that it will have written once it completes. -/
structure MoveRun where
  s : State
  ev : Nat
  tally : TallyCount
  crowd : List Nat
  outs : List (Nat × List Nat)
  rd : Nat
  wr : Nat
  bad : Option (Nat × Nat)
  sides : List (Nat × List Nat)
  deriving DecidableEq, Repr

namespace MoveRun

def start (s : State) : MoveRun := ⟨s, 0, TallyCount.none, [], [], 0, 0, none, []⟩

/-- A source range read with its effects on the memory it lies in (11 R322, 04 R110); `row` is the row it serves. -/
def source (v : MoveRun) (b row : Nat) (hall : Bool) (h : Hint) (r : Nat × Nat) : MoveRun :=
  if v.bad.isSome || r.2 = 0 then v
  else if !hall then
    if !rangeOk r.1 r.2 then { v with bad := some (row, 0x01) }
    else { v with s := v.s.bump (DR_PERR b) fDR_PERR_COUNT ((v.s.core b).badIn r.1 r.2), rd := v.rd + r.2 }
  else if v.s.isLocal r.1 then
    let x := v.s.hallRead r.1 r.2 h
    if x.st = rsOk then { v with s := x.s, rd := v.rd + r.2 } else { v with s := x.s, bad := some (row, dmStatus x.st) }
  else { v with rd := v.rd + r.2 }

/-- A destination range written, or kept to be sent to the package it lies in. -/
def dest (v : MoveRun) (b row : Nat) (hall : Bool) (h : Hint) (a : Nat) (bytes : List Nat) : MoveRun :=
  if v.bad.isSome || bytes.isEmpty then v
  else if !hall then
    if !rangeOk a bytes.length then { v with bad := some (row, 0x01) }
    else { v with s := v.s.modCore b fun c => c.locStore a bytes, wr := v.wr + bytes.length }
  else if v.s.isLocal a then
    let x := v.s.hallWrite a bytes h
    if x.st = rsOk then { v with s := x.s, wr := v.wr + bytes.length } else { v with s := x.s, bad := some (row, dmStatus x.st) }
  else { v with outs := v.outs ++ [(a, bytes)], wr := v.wr + bytes.length }

end MoveRun

/-- The bytes of a source range as the move sees them: core-local, of this package, or received from another one. -/
def peek (s : State) (b : Nat) (j : Job) (hall : Bool) (a n : Nat) : List Nat :=
  if !hall then (s.core b).locBytes a n
  else if s.isLocal a then s.hallPeek a n
  else (List.range n).map fun i => (sget 0 (a + i) j.rx).toNat

/-- One row of a move as written: element bytes, scale bytes, side values, events, counts, crowding channels. -/
structure RowOf where
  elems : List Nat
  scales : List Nat
  side : List Nat
  ev : Nat
  tally : TallyCount
  crowd : List Nat
  deriving DecidableEq, Repr

/-- Elements of a destination row before processing: value, F32 pattern where the source is F32, and the flags that the source
block of each carries (07 R184, R187, R188). -/
def rowIn (s : State) (b : Nat) (j : Job) (m : Mv) (i : Nat × Nat × Nat) : List (Val × Nat × Nat) :=
  if m.kind = 2 then List.replicate m.ext0 (f32v (m.src % 2 ^ 32), m.src % 2 ^ 32, 0)
  else
    let t := m.sfmt
    let word := fun (a : Nat) => ofLeBytes (peek s b j m.sspc a 2)
    let one := fun (enc sw : Nat) => (if t.narrow then t.decodeBlockElem sw enc else t.decode enc, enc, if t.narrow then keepOE sw else 0)
    if !m.trans then
      let o := m.sOff i
      let els := t.unpack m.ext0 (peek s b j m.sspc (m.sAddr o) (t.bytes m.ext0))
      els.zipIdx.map fun p => one p.1 (if t.narrow then word (m.sScale o + 2 * (p.2 / 32)) else 0)
    else
      (List.range m.ext0).map fun i0 =>
        let o := m.sOff (i0, i.2.1, i.2.2)
        let enc := if t.bits = 4 then (peek s b j m.sspc (m.sAddr o + i.1 / 2) 1).getD 0 0 / 16 ^ (i.1 % 2) % 16
          else ofLeBytes (peek s b j m.sspc (m.sAddr o + i.1 * (t.bits / 8)) (t.bits / 8))
        one enc (if t.narrow then word (m.sScale o + 2 * (i.1 / 32)) else 0)

/-- |x| is at least the crowding threshold; an infinite threshold disables the check (05 R119, R121). -/
def crowds (thresh : Nat) (v : Val) : Bool :=
  match f32v thresh with
  | .inf _ => false
  | t => match v with
    | .nan => false
    | .inf _ => true
    | x => t.toDy.le x.toDy.abs

/-- Stages 2 to 5 on one destination row (07 R187-R193, 05 R120, R121). `keepE` is the replay flag. -/
def rowOut (s : State) (b : Nat) (m : Mv) (keepE : Nat) (x : List (Val × Nat × Nat)) : RowOf :=
  let listed := fun (k : Nat) => m.side && m.chans.contains (m.p0 + k)
  let sv := if m.side then m.chans.map fun ch =>
      if m.p0 ≤ ch && ch < m.p0 + m.ext0 then Fmt.b16.ofVal .rne 0 (x.getD (ch - m.p0) (.zero, 0, 0)).1 else pureE 0
    else []
  let crowd := if m.side then ((x.zipIdx.filter fun p => !listed p.2 && crowds m.thresh p.1.1).map fun p => m.p0 + p.2) else []
  let vals := x.zipIdx.map fun p => if listed p.2 then Val.zero else p.1.1
  let vals := if m.rot then
      (rotateRow m.rk m.rform (s.reg (QC_RSEED b m.rseed)).toNat m.p0 (!m.rinv)
        (x.map fun p => if m.sfmt = .f32 then p.2.1 else f32rne p.1)).map f32v
    else vals
  let keep := fun (k : Nat) =>
    let blk := (x.drop (32 * k)).take 32
    let fl := if m.sfmt.narrow || m.kind = 2 then blk.foldl (fun a e => Nat.lor a e.2.2) 0 else 0
    let o := if (List.range blk.length).any fun q => listed (32 * k + q) then flagO else 0
    Nat.lor (Nat.lor fl o) keepE
  let fixed := if m.sfix then some m.scode else none
  let e := encodeRow m.dfmt fixed (rndOf m.rnd) (fun _ => 0) keep vals
  let tl := if m.dfmt.narrow then
      ((blocks32 vals).zip e.blocks).zipIdx.foldl
        (fun a p => a.add (tallyBlock m.dfmt (fun q => listed (32 * p.2 + q)) p.1.1 p.1.2)) TallyCount.none
    else vals.foldl (fun a v => a.add (tallyWide v (m.dfmt.ofVal (rndOf m.rnd) 0 v).ev)) TallyCount.none
  ⟨e.elems, e.scales, sv.flatMap fun v => leBytes 2 v.val, sv.foldl (fun a v => a ||| v.ev) e.ev, tl, crowd⟩

/-- One destination row of a COPY or FILL (07 R184, R187, R188, R191). Its side values are kept until the move completes, since a move that
fails changes nothing outside its destination range (R197). -/
def moveRow (b : Nat) (j : Job) (m : Mv) (keepE : Nat) (v : MoveRun) (r : (Nat × Nat × Nat) × Nat) : MoveRun :=
  if v.bad.isSome then v
  else
    let o := m.dOff r.1
    if m.kind = 0 && m.raw then
      let so := m.sOff r.1
      let v1 := v.dest b r.2 m.dspc m.dhint (m.dAddr o) (peek v.s b j m.sspc (m.sAddr so) (m.sfmt.bytes m.ext0))
      if m.sfmt.narrow then
        v1.dest b r.2 m.dspc m.dhint (m.dScale o) (peek v1.s b j m.sspc (m.sScale so) (m.sfmt.scaleBytes m.ext0))
      else v1
    else
      let x := rowOut v.s b m keepE (rowIn v.s b j m r.1)
      let v1 := v.dest b r.2 m.dspc m.dhint (m.dAddr o) x.elems
      let v1 := if m.dfmt.narrow then v1.dest b r.2 m.dspc m.dhint (m.dScale o) x.scales else v1
      { v1 with
        ev := v1.ev ||| x.ev, tally := v1.tally.add x.tally, crowd := v1.crowd ++ x.crowd
        sides := if m.side then v1.sides ++ [((m.sideRange r.2).1, x.side)] else v1.sides
        wr := v1.wr + x.side.length }

/-- A COPY or FILL: its source reads, then its rows up to `lim` (07 R184, R193). -/
def runCopy (s : State) (b : Nat) (j : Job) (m : Mv) (lim : Option Nat) : MoveRun :=
  let keepE := s.replayFlag b j.iss.stream
  let v := m.srcRows.foldl (fun v x => (m.srcRanges x.1 x.2.1).foldl (fun v r => v.source b x.2.2 m.sspc m.shint r) v) (MoveRun.start s)
  let n := match v.bad, lim with
    | some f, some l => min f.1 l
    | some f, none => f.1
    | none, some l => l
    | none, none => m.rows.length
  let w := (m.rows.zipIdx.take n).foldl (moveRow b j m keepE) { v with bad := none }
  if w.bad.isSome then w else { w with bad := v.bad }

/-- A whole-tensor move, line by line up to `lim` (07 R194, 12 R351). -/
def runTensor (s : State) (b : Nat) (j : Job) (m : Mv) (addr len : Nat) (lim : Option Nat) : MoveRun :=
  let o := State.tensorOther m
  let src := if m.tdir then o else (true, addr)
  let dst := if m.tdir then (true, addr) else o
  let ps := (pieces src.2 len).zipIdx
  let v := ps.foldl (fun v p => v.source b p.2 src.1 m.shint p.1) (MoveRun.start s)
  let n := match v.bad, lim with
    | some f, some l => min f.1 l
    | some f, none => f.1
    | none, some l => l
    | none, none => ps.length
  let w := (ps.take n).foldl (fun v p =>
    v.dest b p.2 dst.1 m.dhint (Mv.wrap dst.1 (Int.ofNat (dst.2 + (p.1.1 - src.2)))) (peek v.s b j src.1 p.1.1 p.1.2)) { v with bad := none }
  if w.bad.isSome then w else { w with bad := v.bad }

/-- A move run from its sources to its destination, `lim` rows of it or all. -/
def runMove (s : State) (b : Nat) (j : Job) (lim : Option Nat) : MoveRun :=
  let m := mvOf j.args
  if m.kind = 1 then
    match j.trans with
    | .found _ _ _ addr len => runTensor s b j m addr len lim
    | _ => MoveRun.start s
  else runCopy s b j m lim

/-- Adjacent writes joined. -/
def joinOuts : List (Nat × List Nat) → List (Nat × List Nat)
  | [] => []
  | x :: t =>
    match joinOuts t with
    | y :: r => if x.1 + x.2.length = y.1 then (x.1, x.2 ++ y.2) :: r else x :: y :: r
    | [] => [x]

namespace State

/-- The writes of a move to other packages are sent; the move ends once they are acknowledged (07 R196). -/
def sendWrites (s : State) (b : Nat) (j : Job) (outs : List (Nat × List Nat)) : State :=
  (joinOuts outs).foldl (fun s x => (wrPieces x.1 x.2.length).foldl (fun s p =>
    s.moveReq b j.ord true (mvOf j.args).dhint p.1 p.2 ((x.2.drop (p.1 - x.1)).take p.2)) s) s

/-- A move ends with a failure status: no side effects (07 R197, 09 R255). Answers to what it still asks are discarded. -/
def moveFailed (s : State) (b : Nat) (j : Job) (status : Nat) : State :=
  let a := DM_CSTAT b
  let s := s.retire b j.reqs
  let s := (((s.wr a fDM_CSTAT_STATUS status).wr a fDM_CSTAT_STREAM j.iss.stream).bump a fDM_CSTAT_COUNT 1).wr a fDM_CSTAT_PC j.iss.pc
  (((s.endTrans j.trans).dropJob b j.ord).slipCheck b j.iss.tick).moveFail b j.iss.stream j.iss.pc status

/-- What a move's rows have counted, then its side values with their addresses, in the order the job keeps them. -/
def counts (v : MoveRun) : List (List Nat) :=
  ([v.ev, v.tally.elems, v.tally.lo, v.tally.hi, v.tally.blocks, v.tally.zero, v.tally.sat, v.tally.exh, v.tally.nf, v.rd, v.wr] ++ v.crowd)
    :: v.sides.map fun p => p.1 :: p.2

/-- A move completes with DM_OK: side values, events, tally, crowding, side record, side effects (07 R191, R192, R196, 05 R121). -/
def moveDone (s : State) (b : Nat) (j : Job) (rows : List (List Nat)) : State :=
  let m := mvOf j.args
  let n := rows.headD []
  let g := fun k => n.getD k 0
  let s := s.modCore b fun c => c.applyStores ((rows.drop 1).map fun l => (l.headD 0, l.drop 1))
  let s := s.setReg (DM_EVENTS b) (s.reg (DM_EVENTS b) ||| BitVec.ofNat 64 (g 0))
  let s := if m.kind ≠ 1 && m.tallyEn && !(m.kind = 0 && m.raw) then
      s.tally b m.tallyNo ⟨g 1, g 2, g 3, g 4, g 5, g 6, g 7, g 8⟩ else s
  let s := match (n.drop 11).head? with
    | some ch =>
      let s := (s.orF (QC_CROWD b) fQC_CROWD_SLOT (2 ^ m.cslot)).raise (QC_EVENTS b) fQC_EVENTS_CROWD
      if s.on (QC_CROWD_CH b) fQC_CROWD_CH_VALID then s
      else ((s.wr (QC_CROWD_CH b) fQC_CROWD_CH_VALID 1).wr (QC_CROWD_CH b) fQC_CROWD_CH_CSLOT m.cslot).wr
        (QC_CROWD_CH b) fQC_CROWD_CH_CHANNEL ch
    | none => s
  let s := if m.kind = 0 && m.side then
      (s.wr (DM_SIDE b (j.iss.stream - 1)) fDM_SIDE_VALID 1).wr (DM_SIDE b (j.iss.stream - 1)) fDM_SIDE_CNT m.cnt else s
  let s := (s.bump (DM_BYTES_RD b) fDM_BYTES_RD_BYTES (g 9)).bump (DM_BYTES_WR b) fDM_BYTES_WR_BYTES (g 10)
  let s := s.bumpFree (DM_STALL_CYC b) fDM_STALL_CYC_STALL_CYC
  ((s.endTrans j.trans).dropJob b j.ord).finish b j.iss

/-- A move stands ready to run: translated, nothing outstanding, nothing failed. -/
def Job.ready (j : Job) : Bool :=
  j.kind = .dmov && j.reqs.isEmpty && j.fail.isNone && match j.trans with
    | .none => true
    | .found _ _ _ _ _ => true
    | _ => false

end State

/-- A move goes to its end (07 R196). A move into another package first reads and sends its writes, and ends once every one of
them is acknowledged (log entry 23). -/
def execDmovComplete (core ord : Nat) (s : State) : Res :=
  .next (match s.job core ord with
    | none => s
    | some j =>
      if !State.Job.ready j || !(s.clocked && (s.core core).mayEnd j) then s
      else if j.sent then s.moveDone core j j.rows
      else
        let v := runMove s core j none
        if v.bad.isSome then s
        else if v.outs.isEmpty then v.s.moveDone core j (State.counts v)
        else
          (v.s.setJob core ord fun j => { j with sent := true, rows := State.counts v }).sendWrites core j v.outs)

/-- A move ends with a failure status, having written `row` rows at most (07 R197): the failure that a response, a reset or the
directory brought, else the first access that fails. -/
def execDmovFailed (core ord row : Nat) (s : State) : Res :=
  .next (match s.job core ord with
    | none => s
    | some j =>
      if j.kind ≠ .dmov then s
      else match j.fail, j.trans with
        | some st, _ => s.moveFailed core j st
        | none, .failed st => s.moveFailed core j st
        | none, _ =>
          if !State.Job.ready j || !(s.clocked && (s.core core).mayEnd j) || j.sent then s
          else match (runMove s core j none).bad with
            | none => s
            | some f => (runMove s core j (some row)).s.moveFailed core j f.2)

/-- A word in a stream's fetch buffer and the prefixes that stand before it (09 R244, R257). -/
def fetched (l : List (Nat × Word)) (pc : Nat) : Option (Option Word × Word) :=
  let before := (l.takeWhile fun p => p.1 ≠ pc).reverse
  match l.find? fun p => p.1 = pc with
  | none => none
  | some p => some (((before.takeWhile fun q => opc q.2 = 0x08 || opc q.2 = 0x09).find? fun q => opc q.2 = 0x08).map (·.2), p.2)

/-- The source ranges of a move that a probe may read ahead: none when they do not lie in a stack tier (07 R200). -/
def probeRanges (s : State) (m : Mv) : Option (List (Nat × Nat)) :=
  let inStack := fun (l : List (Nat × Nat)) => if l.isEmpty || l.any fun r => hallTierAt r.1 ≠ 0 then none else some l
  if m.kind = 0 then (if m.sspc then inStack (m.srcRows.flatMap fun x => m.srcRanges x.1 x.2.1) else none)
  else if m.kind = 1 then
    match s.dirEnt (nbitsAt (if m.tdir then m.dst else m.src) 20 0) with
    | none => none
    | some e =>
      if !s.dirReady || !entValid e.words || entState e.words = entLost || entLen e.words = 0 then none
      else if m.tdir then (if m.sspc then inStack [(m.src, entLen e.words)] else none)
      else inStack [(entAddr e.words, entLen e.words)]
  else none
where hallTierAt (a : Nat) : Nat := a / 2 ^ 50 % 4

/-- A probe's request to another package leaves with a tag of its own (13 R380, R383); one without a route is dropped and counted (R396). -/
def State.probeReq (s : State) (b i pc a len : Nat) : State :=
  let tag := (s.core b).nextTag
  match s.sendReq (mkPacket s 0x02 0 (State.hallNode a) b tag len a []) with
  | none => s.bump FAB_DROP fFAB_DROP_NOROUTE 1
  | some s => (s.takeTag b).modCore b fun c => { c with
      probes := c.probes.map fun x => if x.stream = i && x.pc = pc then { x with tags := x.tags ++ [tag] } else x }

/-- A probe starts for a DMOV that has been fetched and has not issued (07 R200-R202, R205). It reads no extraction list, so that none is checked. -/
def execProbeStart (core stream pc : Nat) (s : State) : Res :=
  .next (
    let c := s.core core
    match fetched (s.stream core stream).fbuf pc with
    | none => s
    | some gw =>
      let m := { readMv s core stream gw.2 with ext := [0, 0, 0x3F800000] }
      let lead := s.rd (DM_CTRL core) fDM_CTRL_RATICKS
      let tick := match gw.1 with
        | some g => if bitsOf g 55 55 = 1 then some (s.launchTick core stream g) else none
        | none => none
      let timely := match tick with
        | some t => decide (s.tickStart (t - lead) ≤ s.zbeat core)
        | none => true
      if opc gw.2 ≠ 0x60 || !m.ra || lead = 0 || !s.on TIME_STATUS fTIME_STATUS_ACQ || !timely || !s.coreOn core
          || s.stState core stream ≠ stRun || c.probes.any (fun p => p.stream = stream && p.pc = pc)
          || (m.check (descAddr s core stream gw.2) gw.2 (s.on (DM_CTRL core) fDM_CTRL_EN)).isSome || (m.kind = 0 && m.empty) then s
      else match probeRanges s m with
        | none => s
        | some rs =>
          let lines := (rs.flatMap fun r => (pieces r.1 r.2).map fun p => p.1 / 64 * 64).eraseDups
          let node := State.hallNode ((rs.head?.map (·.1)).getD 0)
          let s := s.modCore core fun c => { c with probes := c.probes ++ [⟨stream, pc, tick, 0, lines, node, []⟩] }
          let s := s.bump (DM_RA_PROBES core) fDM_RA_PROBES_COUNT 1
          let s := (lines.filter fun a => s.isLocal a).foldl (fun s a => s.probeLine (State.hallOff a) (core, stream, pc)) s
          (rs.filter fun r => !s.isLocal r.1).foldl (fun s r =>
            (rdPieces r.1 r.2).foldl (fun s p => s.probeReq core stream pc p.1 p.2) s) s)

/-- A probe whose DMOV has not issued by its tick limit is cancelled (07 R203). -/
def execProbeTickExpiry (core stream pc : Nat) (s : State) : Res :=
  .next (s.cancelProbes core fun p => p.stream = stream && p.pc = pc && match p.tick with
    | some t => decide (s.tickStart (t + 1) ≤ s.zbeat core)
    | none => decide (2 ≤ p.seen))

end Sys2Proof.Machine
end

