-- ==== Sys2Proof/Machine/Digest.lean ====
section
/-!
DEFINITION. Machine/Digest.lean: the checks of the boot image and the journal: SHA-256 (16 R492), SHA-384 (16 R471), CRC-32 (16 R468) and
ECDSA verification on P-384 (16 R471). Words are natural numbers below a power of two.
-/

namespace Sys2Proof.Machine

/-- The primes below 420, which are 81. -/
def smallPrimes : List Nat := (List.range 420).filter fun n => decide (2 ≤ n) && (List.range 21).all fun d => d < 2 || decide (n ≤ d) || n % d ≠ 0

/-- The greatest r with r ^ k at most n, sought bit by bit from bit `b - 1` down. -/
def rootOf (k n : Nat) : Nat → Nat → Nat
  | 0, r => r
  | b + 1, r => rootOf k n b (if (r + 2 ^ b) ^ k ≤ n then r + 2 ^ b else r)

/-- The first w fraction bits of the k-th root of p. The standard that 16 R471 and R492 name, FIPS 180-4, defines its constants by such roots. -/
def rootFraction (w k p : Nat) : Nat := rootOf k (p * 2 ^ (w * k)) (w + 5) 0 % 2 ^ w

/-- Round constants of SHA-256: cube roots of the first 64 primes. -/
def sha256K : List Nat := (smallPrimes.take 64).map (rootFraction 32 3)

/-- Round constants of SHA-384: cube roots of the first 80 primes. -/
def sha512K : List Nat := (smallPrimes.take 80).map (rootFraction 64 3)

/-- Initial hash value of SHA-256: square roots of the first eight primes. -/
def sha256H : List Nat := (smallPrimes.take 8).map (rootFraction 32 2)

/-- Initial hash value of SHA-384: square roots of the ninth to the sixteenth prime. -/
def sha384H : List Nat := ((smallPrimes.drop 8).take 8).map (rootFraction 64 2)

/-- Rotation right by n in words of w bits. -/
def rotr (w x n : Nat) : Nat := x / 2 ^ n + x % 2 ^ n * 2 ^ (w - n)

/-- What tells SHA-256 from SHA-384: word bits, rotations of the two sums and the two schedule functions. -/
structure ShaKind where
  w : Nat
  rounds : Nat
  s0 : Nat × Nat × Nat
  s1 : Nat × Nat × Nat
  g0 : Nat × Nat × Nat
  g1 : Nat × Nat × Nat
  k : List Nat
  deriving DecidableEq, Repr

def sha256Kind : ShaKind := ⟨32, 64, (2, 13, 22), (6, 11, 25), (7, 18, 3), (17, 19, 10), sha256K⟩
def sha384Kind : ShaKind := ⟨64, 80, (28, 34, 39), (14, 18, 41), (1, 8, 7), (19, 61, 6), sha512K⟩

def ShaKind.big (k : ShaKind) (r : Nat × Nat × Nat) (x : Nat) : Nat :=
  Nat.xor (Nat.xor (rotr k.w x r.1) (rotr k.w x r.2.1)) (rotr k.w x r.2.2)

def ShaKind.small (k : ShaKind) (r : Nat × Nat × Nat) (x : Nat) : Nat :=
  Nat.xor (Nat.xor (rotr k.w x r.1) (rotr k.w x r.2.1)) (x / 2 ^ r.2.2)

/-- The message schedule: the last 16 words are kept, newest first; every word is emitted in order. -/
def shaSchedule (k : ShaKind) : Nat → List Nat → List Nat
  | 0, _ => []
  | n + 1, win =>
    let x := (k.small k.g1 (win.getD 1 0) + win.getD 6 0 + k.small k.g0 (win.getD 14 0) + win.getD 15 0) % 2 ^ k.w
    x :: shaSchedule k n (x :: win.take 15)

/-- One block compressed into the hash value. -/
def shaBlock (k : ShaKind) (h blk : List Nat) : List Nat :=
  let ws := blk ++ shaSchedule k (k.rounds - 16) blk.reverse
  let out := (ws.zip k.k).foldl (fun (v : List Nat) (p : Nat × Nat) =>
    match v with
    | [a, b, c, d, e, f, g, hh] =>
      let ch := Nat.xor (Nat.land e f) (Nat.land (2 ^ k.w - 1 - e) g)
      let maj := Nat.xor (Nat.xor (Nat.land a b) (Nat.land a c)) (Nat.land b c)
      let t1 := hh + k.big k.s1 e + ch + p.2 + p.1
      [(t1 + k.big k.s0 a + maj) % 2 ^ k.w, a, b, c, (d + t1) % 2 ^ k.w, e, f, g]
    | _ => v) h
  (h.zip out).map fun p => (p.1 + p.2) % 2 ^ k.w

/-- Big-endian words of a byte list. -/
def beWords (n : Nat) (bytes : List Nat) : List Nat :=
  (List.range (bytes.length / n)).map fun i => ((bytes.drop (n * i)).take n).foldl (fun a b => a * 256 + b % 256) 0

def beBytes (n x : Nat) : List Nat := (List.range n).map fun i => x / 256 ^ (n - 1 - i) % 256

def shaBlocks (k : ShaKind) (h : List Nat) : Nat → List Nat → List Nat
  | 0, _ => h
  | n + 1, ws => shaBlocks k (shaBlock k h (ws.take 16)) n (ws.drop 16)

/-- The digest of a byte list, as words: padded with a one bit, zeros and the length in bits. -/
def shaWords (k : ShaKind) (h : List Nat) (msg : List Nat) : List Nat :=
  let bs := k.w * 2
  let len := k.w / 4
  let z := (bs - (msg.length + 1 + len) % bs) % bs
  let p := msg ++ 128 :: List.replicate z 0 ++ beBytes len (8 * msg.length)
  shaBlocks k h (p.length / bs) (beWords (k.w / 8) p)

/-- SHA-256 of a byte list. -/
def sha256 (msg : List Nat) : List Nat := (shaWords sha256Kind sha256H msg).flatMap (beBytes 4)

/-- SHA-384 of a byte list. -/
def sha384 (msg : List Nat) : List Nat := ((shaWords sha384Kind sha384H msg).take 6).flatMap (beBytes 8)

/-- A reflected CRC-32, initial value and final XOR all ones: `poly` is the polynomial with its bits reversed. -/
def crcBy (poly : Nat) (bytes : List Nat) : Nat :=
  let bit := fun (c : Nat) => Nat.xor (c / 2) (c % 2 * poly)
  let byte := fun (c b : Nat) => bit (bit (bit (bit (bit (bit (bit (bit (Nat.xor c (b % 256)))))))))
  Nat.xor (bytes.foldl byte 0xFFFFFFFF) 0xFFFFFFFF

/-- CRC-32 of IEEE 802.3 (16 R468). -/
def crc32 (bytes : List Nat) : Nat := crcBy 0xEDB88320 bytes

/-- The prime, the curve coefficient b and the order of P-384 (FIPS 186-5, SP 800-186). -/
def p384p : Nat := 2 ^ 384 - 2 ^ 128 - 2 ^ 96 + 2 ^ 32 - 1
def p384b : Nat := 0xb3312fa7e23ee7e4988e056be3f82d19181d9c6efe8141120314088f5013875ac656398d8a2ed19d2a85c8edd3ec2aef
def p384n : Nat := 0xffffffffffffffffffffffffffffffffffffffffffffffffc7634d81f4372ddf581a0db248b0a77aecec196accc52973
def p384gx : Nat := 0xaa87ca22be8b05378eb1c71ef320ad746e1d3b628ba79b9859f741e082542a385502f25dbf55296c3a545e3872760ab7
def p384gy : Nat := 0x3617de4a96262c6f5d9e98bf9292dc29f8f41dbd289a147ce9da3113b5f0b8c00a60b1ce1d7e819d7a431d7c90ea0e5f

/-- x ^ e modulo m, over the low n bits of e. -/
def modPow (m : Nat) : Nat → Nat → Nat → Nat
  | 0, _, _ => 1 % m
  | n + 1, x, e => let r := modPow m n (x * x % m) (e / 2); if e % 2 = 1 then r * x % m else r

/-- The inverse modulo a prime. -/
def modInv (m x : Nat) : Nat := modPow m 384 (x % m) (m - 2)

/-- A point of the curve in Jacobian coordinates; Z = 0 is the point at infinity. -/
abbrev EcPoint := Nat × Nat × Nat

def ecDouble (q : EcPoint) : EcPoint :=
  let p := p384p
  let x := q.1
  let y := q.2.1
  let z := q.2.2
  let d := z * z % p
  let g := y * y % p
  let b := x * g % p
  let a := 3 * ((x + p - d) % p) * (x + d) % p
  let x3 := (a * a + 8 * (p - b)) % p
  let z3 := 2 * y * z % p
  (x3, (a * ((4 * b + p - x3) % p) + 8 * (p - g * g % p)) % p, z3)

def ecAdd (q r : EcPoint) : EcPoint :=
  let p := p384p
  if q.2.2 = 0 then r else if r.2.2 = 0 then q
  else
    let z1 := q.2.2 * q.2.2 % p
    let z2 := r.2.2 * r.2.2 % p
    let u1 := q.1 * z2 % p
    let u2 := r.1 * z1 % p
    let s1 := q.2.1 * r.2.2 % p * z2 % p
    let s2 := r.2.1 * q.2.2 % p * z1 % p
    if u1 = u2 then (if s1 = s2 then ecDouble q else (1, 1, 0))
    else
      let h := (u2 + p - u1) % p
      let t := (s2 + p - s1) % p
      let h2 := h * h % p
      let h3 := h * h2 % p
      let v := u1 * h2 % p
      let x3 := (t * t + (p - h3) + 2 * (p - v)) % p
      (x3, (t * ((v + p - x3) % p) + s1 * (p - h3)) % p, h * q.2.2 % p * r.2.2 % p)

/-- A multiple of a point, over the low n bits of k. -/
def ecMul : Nat → Nat → EcPoint → EcPoint
  | 0, _, _ => (1, 1, 0)
  | n + 1, k, q => let r := ecMul n (k / 2) (ecDouble q); if k % 2 = 1 then ecAdd q r else r

/-- A public point lies on the curve. -/
def ecOn (x y : Nat) : Bool :=
  decide (x < p384p) && decide (y < p384p) && decide (y * y % p384p = (x * x * x + (p384p - 3) * x + p384b) % p384p)

/-- ECDSA with SHA-384 verifies a signature (r, s) of a message under a public point (FIPS 186-5). -/
def ecdsaVerify (x y r s : Nat) (msg : List Nat) : Bool :=
  if !ecOn x y || r = 0 || p384n ≤ r || s = 0 || p384n ≤ s then false
  else
    let e := (sha384 msg).foldl (fun a b => a * 256 + b) 0
    let w := modInv p384n s
    let q := ecAdd (ecMul 384 (e * w % p384n) (p384gx, p384gy, 1)) (ecMul 384 (r * w % p384n) (x, y, 1))
    if q.2.2 = 0 then false
    else
      let zi := modInv p384p q.2.2
      decide (q.1 * (zi * zi % p384p) % p384p % p384n = r)

end Sys2Proof.Machine
end

