-- ==== Sys2Proof/Machine/Journal.lean ====
section
/-!
DEFINITION. Machine/Journal.lean: the journal (16 R492-R495), the permission matrix (R485-R489), command intake (R486, R490), and how a
command completes (17 R515).
-/

namespace Sys2Proof.Machine

/-- Outcomes of a journal entry (16 R492). -/
def ocPending : Nat := 0
def ocDone : Nat := 1
def ocRefused : Nat := 2
def ocFailed : Nat := 3
def ocInterrupted : Nat := 4

/-- The generic statuses (16 R490). -/
def stPermDenied : Nat := 0xFF01
def stStarting : Nat := 0xFF02
def stQueueFull : Nat := 0xFF03
def stJnlFull : Nat := 0xFF04
def stBadArgs : Nat := 0xFF05

/-- Package states (16 R482). -/
def pkReset : Nat := 0
def pkStarting : Nat := 1
def pkLocal : Nat := 2
def pkReady : Nat := 3
def pkRecovery : Nat := 4
def pkHalted : Nat := 5

/-- The 64 bytes of a journal entry (16 R492). -/
def JEnt.bytes (e : JEnt) : List Nat :=
  leBytes 8 e.seq ++ leBytes 8 e.abeat ++ leBytes 8 e.cbeat ++ leBytes 4 e.start ++ leBytes 2 e.code ++ [e.port, e.outcome]
    ++ leBytes 2 e.status ++ leBytes 2 e.alen ++ leBytes 4 e.detail ++ (e.digest ++ List.replicate (16 - e.digest.length) 0)
    ++ leBytes 8 e.obj

namespace State

def modPkg (s : State) (f : PkgSt → PkgSt) : State := { s with pkg := f s.pkg }

/-- The state of PKG_STATE (16 R482). -/
def pkState (s : State) : Nat := s.rd PKG_STATE fPKG_STATE_STATE

/-- A journal slot (16 R492). -/
def jnlAt (s : State) (seq : Nat) : JEnt := sget JEnt.empty (seq % 8192) s.pkg.jnl

/-- The slot that the next entry takes holds no PENDING entry (16 R493). -/
def jnlRoom (s : State) : Bool :=
  let e := s.jnlAt (s.rd JNL_HEAD fJNL_HEAD_SEQ + 1)
  e.seq = 0 || e.outcome ≠ ocPending

/-- An entry spilled to host memory, while spill is set (16 R495, 17 R516). -/
def spill (s : State) (e : JEnt) : State :=
  if !s.on JNL_CTRL fJNL_CTRL_SPILL then s
  else if s.on HIF_STATUS fHIF_STATUS_BME then
    s.emit (.host (s.rd JNL_SPILL_BASE fJNL_SPILL_BASE_ADDR + e.seq % 2 ^ s.rd JNL_CTRL fJNL_CTRL_LOG2N * 64) e.bytes)
  else ((s.wr JNL_CTRL fJNL_CTRL_SPILL 0).bump JNL_SPILL_ERR fJNL_SPILL_ERR_COUNT 1).raise PKG_EVENTS fPKG_EVENTS_SPILL_ERR

/-- A journal entry written in its slot; JNL_INFO counts the PENDING ones (16 R492, R493). -/
def jnlPut (s : State) (e : JEnt) : State :=
  let s := s.modPkg fun p => { p with jnl := sput JEnt.empty (e.seq % 8192) e p.jnl }
  let s := s.wr JNL_INFO fJNL_INFO_PENDING ((s.pkg.jnl.filter fun x => x.2.seq ≠ 0 && x.2.outcome = ocPending).length)
  s.spill e

/-- A new entry with the next sequence number (16 R486, R493). -/
def jnlAdd (s : State) (code port outcome status alen detail : Nat) (digest : List Nat) (obj : Nat) : State × Nat :=
  let seq := s.rd JNL_HEAD fJNL_HEAD_SEQ + 1
  let s := s.wr JNL_HEAD fJNL_HEAD_SEQ seq
  (s.jnlPut ⟨seq, s.beat, if outcome = ocPending then 0 else s.beat, s.rd PKG_STARTS fPKG_STARTS_START, code, port, outcome, status,
    alen, detail, digest, obj⟩, seq)

/-- An entry that the device writes on its own (16 R494); no entry is written over a PENDING one (R493; log entry 32). -/
def jnlDevice (s : State) (code obj detail : Nat) : State :=
  if s.jnlRoom then (s.jnlAdd code 7 ocDone 0 0 (detail % 2 ^ 32) (sha256 [] |>.take 16) (obj % 2 ^ 64)).1 else s

/-- The journal record of an expert write (16 R489, R494): DONE, or REFUSED with PERM_DENIED. -/
def jnlRegWrite (s : State) (off v : Nat) (ok : Bool) : State :=
  if s.jnlRoom then
    (s.jnlAdd 0xF007 7 (if ok then ocDone else ocRefused) (if ok then 0 else stPermDenied) 0 (v % 2 ^ 32) (sha256 [] |>.take 16) off).1
  else s

end State

/-- The command class of a code, as a bit of the matrix (16 R487, R490); none where no table row has the code. -/
def cmdBit (code : Nat) : Option Nat :=
  let row := code % 256
  match code / 256 with
  | 0x05 => if row = 0 then some 0 else if row < 4 then some 3 else none
  | 0x09 => if row < 2 then some 1 else if row = 2 then some 0 else none
  | 0x0A => if row < 8 then some 3 else if row = 8 then some 0 else none
  | 0x0B => if row = 0 || row = 5 then some 0 else if row < 8 then some 4 else none
  | 0x0C => if row = 3 then some 0 else if row < 9 then some 4 else none
  | 0x0D => if row = 0 then some 0 else if row < 4 then some 5 else none
  | 0x0E => if row = 0 then some 0 else if row < 5 then some 6 else none
  | 0x0F => if row = 0 || row = 2 then some 0 else if row < 8 then some 7 else none
  | 0x10 => match row with
    | 0 => some 0
    | 1 => some 8
    | 2 => some 8
    | 3 => some 8
    | 4 => some 2
    | 5 => some 2
    | 6 => some 9
    | 7 => some 0
    | 8 => some 10
    | 9 => some 13
    | 10 => some 13
    | 11 => some 14
    | _ => none
  | _ => none

/-- The argument words that a command takes (17 R514, 09 R256). -/
def cmdWords (code : Nat) : Nat :=
  let l : List Nat := match code / 256 with
    | 0x05 => [1, 3, 2, 2]
    | 0x09 => [7, 5, 1]
    | 0x0A => [2, 2, 1, 4, 3, 3, 2, 4, 2]
    | 0x0B => [1, 2, 1, 1, 1, 1, 2, 1]
    | 0x0C => [5, 5, 1, 1, 1, 3, 1, 1, 0]
    | 0x0D => [0, 2, 0, 0]
    | 0x0E => [0, 3, 1, 2, 0]
    | 0x0F => [0, 1, 1, 1, 1, 0, 0, 0]
    | 0x10 => [0, 1, 0, 1, 1, 0, 2, 2, 2, 0, 0, 1]
    | _ => []
  l.getD (code % 256) 0

/-- The limits that R488 puts on the row of a port class. -/
def permLimit (cls mask : Nat) : Nat :=
  let m := mask % 2 ^ 32
  let drop := fun (m b : Nat) => if m / 2 ^ b % 2 = 1 then m - 2 ^ b else m
  match cls with
  | 0 => Nat.lor m (2 ^ 0 + 2 ^ 7)
  | 1 => Nat.lor m (2 ^ 0)
  | 2 => [8, 9, 10, 11, 12, 13, 14].foldl drop m
  | 3 => [8, 9, 10, 11, 12, 13, 14].foldl drop m
  | _ => m

namespace State

/-- A port class holds a command class or request type (16 R487, R488). Firmware holds all. -/
def holds (s : State) (cls bit : Nat) : Bool :=
  if cls = 7 then true
  else if 5 ≤ cls then false
  else if cls = 4 && s.on PKG_LOCK fPKG_LOCK_DBG_LOCKED then false
  else if 16 ≤ bit && (cls ≠ 2 && cls ≠ 3) then false
  else s.rd (PKG_PERM cls) fPKG_PERM_MASK / 2 ^ bit % 2 = 1

/-- A command of a class may be issued through a port class now: in RECOVERY only QUERY, RESET, FLASH and RETURN, and only from MGMT
and HOST (16 R477, R487). -/
def mayCommand (s : State) (cls bit : Nat) : Bool :=
  if s.pkState = pkRecovery && cls ≠ 7 then (cls = 0 || cls = 1) && (bit = 0 || bit = 8 || bit = 9 || bit = 14)
  else s.holds cls bit

/-- A completion handed to its port (17 R513, R515, R526, R527): HOST entries wait to be written, MGMT ones assert ALERT#, DBG ones
show in DBG_PEND. -/
def deliver (s : State) (c : Comp) : State :=
  if c.cls = 7 then s
  else
    let s := s.modPkg fun p => { p with comps := p.comps ++ [c] }
    if c.cls = 0 then s.wr HIF_SMB fHIF_SMB_ALERT 1
    else if c.cls = 4 then s.wr HIF_JTAG fHIF_JTAG_DBG_PEND 1
    else s

/-- A command refused when it arrives (16 R486, R487, R493): journaled when a slot is free, never queued. -/
def refuseNew (s : State) (cls port code tag : Nat) (args : List Nat) (status : Nat) : State :=
  let s := if status = stPermDenied then
      (s.bump PKG_PERM_DENY fPKG_PERM_DENY_COUNT 1).raise PKG_EVENTS fPKG_EVENTS_PERM_DENIED
    else if status = stJnlFull then s.raise PKG_EVENTS fPKG_EVENTS_JNL_FULL
    else s
  let r := if s.jnlRoom then
      s.jnlAdd code (cls + 8 * port) ocRefused status (8 * args.length) 0 ((sha256 (wordBytes args)).take 16) (args.headD 0)
    else (s, 0)
  r.1.deliver ⟨cls, tag, status, ocRefused, r.2, 0, 0, []⟩

/-- The matrix bit that a command needs: a Ringmaster command that another package forwarded is a FAB_CTRL request (16 R485). -/
def needBit (cls code bit : Nat) : Nat := if code / 256 = 0x0E && (cls = 2 || cls = 3) then 21 else bit

/-- Command intake (16 R486): a parsed frame of a port class is refused, or takes the next sequence number and waits. In HALTED the
reset controller takes only WARM and COLD, from MGMT and HOST (R484). -/
def takeCommand (s : State) (cls port code tag raddr rlen : Nat) (args : List Nat) : State × Option Cmd :=
  match cmdBit code with
  | none => (s, none)
  | some bit =>
    if s.pkState = pkReset then (s, none)
    else if s.pkState = pkHalted && !((code = 0x1001 || code = 0x1002) && (cls = 0 || cls = 1)) then (s, none)
    else if !s.jnlRoom then (s.refuseNew cls port code tag args stJnlFull, none)
    else if !s.mayCommand cls (needBit cls code bit) then (s.refuseNew cls port code tag args stPermDenied, none)
    else if s.pkState = pkStarting && bit ≠ 0 then (s.refuseNew cls port code tag args stStarting, none)
    else if 64 ≤ s.pkg.cmds.length then (s.refuseNew cls port code tag args stQueueFull, none)
    else
      let r := s.jnlAdd code (cls + 8 * port) ocPending 0 (8 * args.length) 0 ((sha256 (wordBytes args)).take 16) (args.headD 0)
      let c : Cmd := ⟨r.2, code, cls, port, tag, raddr, rlen, args, false⟩
      (r.1.modPkg fun p => { p with cmds := p.cmds ++ [c] }, some c)

end State

/-- What executing a command answers; `rejected` is a refusal with a DETAIL and a response (16 R491 LOAD_REJECTED). -/
inductive Ans where
  | done (detail : Nat) (resp : List Nat)
  | refused (status : Nat)
  | rejected (status detail : Nat) (resp : List Nat)
  | failed (status detail : Nat) (resp : List Nat)
  | waits
  deriving DecidableEq, Repr

namespace State

/-- A command completes (16 R493, 17 R515): its entry gets CBEAT, OUTCOME, STATUS and DETAIL, it leaves the queue, its completion goes
to its port. -/
def finishCmd (s : State) (c : Cmd) (outcome status detail : Nat) (resp : List Nat) : State :=
  let e := s.jnlAt c.seq
  let s := s.modPkg fun p => { p with cmds := p.cmds.filter fun x => x.seq ≠ c.seq }
  let s := if e.seq = c.seq then
      s.jnlPut { e with cbeat := s.beat, outcome := outcome, status := status, detail := detail % 2 ^ 32 }
    else s
  if c.quiet then s else s.deliver ⟨c.cls, c.tag, status, outcome, c.seq, detail % 2 ^ 32, c.raddr, wordBytes resp⟩

/-- An earlier accepted command names the same object: the same table and the same first argument (16 R486). -/
def heldBack (s : State) (c : Cmd) : Bool :=
  !c.args.isEmpty && s.pkg.cmds.any fun x =>
    decide (x.seq < c.seq) && x.code / 256 = c.code / 256 && x.args.head? = c.args.head?

/-- An accepted command executes (16 R486). A HOST response that does not fit ends it without effect (17 R515). -/
def runCmd (s : State) (c : Cmd) (body : List Nat → State → State × Ans) : State :=
  if s.heldBack c then s
  else
    let r := body c.args s
    let long := fun (resp : List Nat) => c.cls = 1 && decide (1 < resp.length) && decide (c.rlen < 8 * resp.length)
    match r.2 with
    | .waits => r.1
    | .refused st => r.1.finishCmd c ocRefused st 0 []
    | .rejected st d resp => r.1.finishCmd c ocRefused st d resp
    | .done d resp => if long resp then s.finishCmd c ocFailed stBadArgs 0 [] else r.1.finishCmd c ocDone 0 d resp
    | .failed st d resp => r.1.finishCmd c ocFailed st d resp

/-- Firmware runs, or the reset controller that takes its place in HALTED may execute the command (16 R484, 18 R540). -/
def mayRun (s : State) (code : Nat) : Bool :=
  s.pkState ≠ pkReset && (s.pkState ≠ pkHalted || code = 0x1001 || code = 0x1002)

/-- A command of a row: one that its sequence number names in the queue, or one that arrives and executes at once. -/
def command (s : State) (code : Nat) (via : Via) (body : List Nat → State → State × Ans) : State :=
  match via with
  | .taken seq =>
    match s.pkg.cmds.find? fun c => c.seq = seq && c.code = code with
    | some c => if s.mayRun code then s.runCmd c body else s
    | none => s
  | .arrives cls port args =>
    if args.length ≠ cmdWords code then s
    else match s.takeCommand cls port code 0 0 (2 ^ 32 - 1) args with
      | (s, some c) => s.runCmd c body
      | (s, none) => s

/-- Argument k of a command. -/
def refuse (s : State) (status : Nat) : State × Ans := (s, .refused status)
def answered (s : State) (resp : List Nat) : State × Ans := (s, .done 0 resp)

end State
end Sys2Proof.Machine
end

