-- ==== Sys2Proof/Machine/UpdateMath.lean ====
section
/-!
DEFINITION. Machine/UpdateMath.lean: the arithmetic of the update dies (chapter 10): binary64 operations, correctly rounded division
and square root, the basic rule (R288), norm sums (R290), block exponents (R292), random values (R294), expert programs
(R305-R307).
-/

namespace Sys2Proof.Machine

/-- A binary64 pattern read as a value. -/
def f64v (x : Nat) : Val :=
  let s := x / 2 ^ 63 % 2 = 1
  let ef := x / 2 ^ 52 % 2048
  let m := x % 2 ^ 52
  if ef = 2047 then (if m = 0 then .inf s else .nan)
  else if ef = 0 then .fin s m (-1074)
  else .fin s (2 ^ 52 + m) (Int.ofNat ef - 1075)

/-- rne to binary64; overflow gives an infinity, every NaN the canonical one (10 R288). -/
def f64rne (v : Val) : Nat :=
  let sg := fun (b : Bool) => if b then 2 ^ 63 else 0
  match v with
  | .nan => 0x7FF8000000000000
  | .inf s => sg s + 2047 * 2 ^ 52
  | .fin s mag e =>
    let r := roundMag (.flt 53 (-1074)) .rne 0 mag e
    if r.1 = 0 then sg s
    else
      let lg := r.2 + Int.ofNat (Nat.log2 r.1)
      if 1023 < lg then sg s + 2047 * 2 ^ 52
      else if lg < -1022 then sg s + r.1 * 2 ^ (r.2 + 1074).toNat
      else sg s + (lg + 1023).toNat * 2 ^ 52 + (r.1 * 2 ^ 52 / 2 ^ (Nat.log2 r.1) - 2 ^ 52)

/-- An F32 pattern widened exactly; a NaN becomes the canonical one. -/
def f64of32 (x : Nat) : Nat := f64rne (f32v x)

/-- rne_f32 of a binary64 pattern. -/
def f32of64 (x : Nat) : Nat := f32rne (f64v x)

def f64add (a b : Nat) : Nat := f64rne ((f64v a).add (f64v b))
def f64mul (a b : Nat) : Nat := f64rne ((f64v a).mul (f64v b))
def f64one : Nat := 1023 * 2 ^ 52
def f64neg (a : Nat) : Nat := if a / 2 ^ 63 % 2 = 1 then a - 2 ^ 63 else a + 2 ^ 63

/-- A quotient with enough bits and a sticky bit, so that rounding it once gives the correctly rounded quotient. -/
def Val.div : Val → Val → Val
  | .nan, _ => .nan
  | _, .nan => .nan
  | .inf _, .inf _ => .nan
  | .inf a, .fin b _ _ => .inf (a != b)
  | .fin a _ _, .inf b => .fin (a != b) 0 0
  | .fin a m e, .fin b n f =>
    if n = 0 then (if m = 0 then .nan else .inf (a != b))
    else if m = 0 then .fin (a != b) 0 0
    else
      let k := 130 + Nat.log2 n
      let x := m * 2 ^ k
      .fin (a != b) (2 * (x / n) + (if x % n = 0 then 0 else 1)) (e - f - Int.ofNat k - 1)

/-- The integer square root, bit by bit from bit n - 1. -/
def isqrtFrom (x : Nat) : Nat → Nat → Nat
  | 0, r => r
  | n + 1, r => if (r + 2 ^ n) * (r + 2 ^ n) ≤ x then isqrtFrom x n (r + 2 ^ n) else isqrtFrom x n r

def isqrt (x : Nat) : Nat := isqrtFrom x (Nat.log2 x / 2 + 1) 0

/-- A square root with enough bits and a sticky bit; IEEE signs and NaN. -/
def Val.sqrt : Val → Val
  | .nan => .nan
  | .inf s => if s then .nan else .inf false
  | .fin s m e =>
    if m = 0 then .fin s 0 0
    else if s then .nan
    else
      let m := if e % 2 = 0 then m else 2 * m
      let e := if e % 2 = 0 then e else e - 1
      let x := m * 2 ^ 140
      let r := isqrt x
      .fin false (2 * r + (if r * r = x then 0 else 1)) ((e - 140) / 2 - 1)

/-- IEEE division and square root on F32 patterns (10 R288, R307). -/
def fdiv (a b : Nat) : Nat := f32rne ((f32v a).div (f32v b))
def fsqrt (a : Nat) : Nat := f32rne (f32v a).sqrt

/-- beta^t in binary64 by repeated squaring (10 R288). -/
def powLoop : Nat → Nat → Nat → Nat → Nat
  | 0, _, p, _ => p
  | n + 1, b, p, t => if t = 0 then p else powLoop n (f64mul b b) (if t % 2 = 1 then f64mul p b else p) (t / 2)

/-- bias_corr of 10 R288. -/
def biasCorr (beta t : Nat) : Nat := f32of64 (f64add f64one (f64neg (powLoop 33 (f64of32 beta) f64one t)))

/-- cf of 10 R288: the clip factor from N0. -/
def clipFactor (clipen : Bool) (n0 clip : Nat) : Nat :=
  if !clipen then fOne
  else
    let n := f64rne (f64v n0).sqrt
    if (f64v (f64of32 clip)).lt (f64v n) then f32rne ((f64v (f64rne ((f64v (f64of32 clip)).div (f64v n))))) else fOne

/-- What an update computes once (10 R288, R306): hyperparameters P0-P7, t, c1, c2, e, de, lrs, lrwd, cf, norms, NSTATE. -/
structure UdCtx where
  p : List Nat
  t : Nat
  c1 : Nat
  c2 : Nat
  e : Int
  de : Int
  cf : Nat
  clipen : Bool
  norms : List Nat
  nstate : Nat
  deriving DecidableEq, Repr

def UdCtx.pj (c : UdCtx) (j : Nat) : Nat := c.p.getD j 0

def UdCtx.lrs (c : UdCtx) : Nat := fscale (c.pj 0) (-c.e)

/-- One element of the basic rule: new master, m and v (10 R288). -/
def basicElem (c : UdCtx) (gdec w mSt v : Nat) : List Nat :=
  let omb1 := fsub fOne (c.pj 1)
  let omb2 := fsub fOne (c.pj 2)
  let lrwd := fmul (c.pj 0) (c.pj 4)
  let g := if c.clipen then fmul gdec c.cf else gdec
  let gs := fscale g c.e
  let m := fscale mSt c.de
  let m := ffma omb1 gs (fmul (c.pj 1) m)
  let v := ffma omb2 (fmul g g) (fmul (c.pj 2) v)
  let mh := fdiv m c.c1
  let vh := fdiv v c.c2
  let d := fadd (fsqrt vh) (c.pj 3)
  let u := fdiv mh d
  let w := ffma (fneg lrwd) w w
  [ffma (fneg c.lrs) u w, m, v]

/-- Source of an expert micro-op (10 R307). -/
def udSrc (c : UdCtx) (u : List Nat) (k : Nat) : Nat :=
  if k < 32 then u.getD k 0
  else if k < 40 then c.pj (k - 32)
  else if k = 40 then c.lrs
  else if k = 41 then c.c1
  else if k = 42 then c.c2
  else if k = 43 then c.cf
  else if k < 48 then f32of64 (c.norms.getD (k - 44) 0)
  else if k = 48 then 0
  else if k = 49 then fOne
  else if k = 50 then 0x3F000000
  else if k = 51 then 0x40000000
  else if k = 52 then f32rne (.fin false c.t 0)
  else 0

/-- Operations that take NA, AA and NB (10 R307). -/
def udMods (op : Nat) : Bool := (1 ≤ op && op ≤ 0xC) || op = 0x11 || op = 0x12
def udKnown (op : Nat) : Bool := 1 ≤ op && op ≤ 0x12
def udUsesB (op : Nat) : Bool := (2 ≤ op && op ≤ 5) || op = 7 || op = 8 || (0xB ≤ op && op ≤ 0x10)
def udUsesC (op : Nat) : Bool := op = 4 || op = 0xD

/-- A micro-op is reserved or malformed (10 R305, R307). -/
def udBad (w : Nat) : Bool :=
  let op := nbits w 31 26
  !udKnown op || 53 ≤ nbits w 20 15 || (udUsesB op && 53 ≤ nbits w 14 9) || (udUsesC op && 53 ≤ nbits w 8 3)
    || (op = 0x11 && nbits w 25 23 ≠ 0) || (!udMods op && nbits w 2 0 ≠ 0)

/-- SGN of 10 R307. -/
def fsgn (a : Nat) : Nat :=
  if (f32v a).isNaN then qNaN
  else if (f32v a).isZero then a
  else if a / 2 ^ 31 % 2 = 1 then 0xBF800000 else fOne

/-- Result of an expert operation (10 R307). -/
def udResult (op a b c : Nat) : Nat :=
  match op with
  | 0x01 => a
  | 0x02 => fadd a b
  | 0x03 => fmul a b
  | 0x04 => ffma a b c
  | 0x05 => fdiv a b
  | 0x06 => fsqrt a
  | 0x07 => fmin a b
  | 0x08 => fmax a b
  | 0x09 => vexp a
  | 0x0A => vlog a
  | 0x0B => maskOf ((f32v a).lt (f32v b))
  | 0x0C => maskOf ((f32v a).le (f32v b))
  | 0x0D => if a ≠ 0 then b else c
  | 0x0E => Nat.land a b
  | 0x0F => Nat.lor a b
  | 0x10 => Nat.xor a b
  | 0x12 => fsgn a
  | _ => a

/-- A program on one element: its registers at the end, and what each NACC adds, in program order (10 R306, R307). -/
def udProg (c : UdCtx) (prog : List Nat) (u : List Nat) : List Nat × List (Nat × Nat) :=
  prog.foldl (fun st w =>
    let op := nbits w 31 26
    let m := udMods op
    let a0 := udSrc c st.1 (nbits w 20 15)
    let a1 := if m && nbits w 1 1 = 1 then fabs a0 else a0
    let a := if m && nbits w 2 2 = 1 then fneg a1 else a1
    let b0 := udSrc c st.1 (nbits w 14 9)
    let b := if m && nbits w 0 0 = 1 then fneg b0 else b0
    if op = 0x11 then (st.1, st.2 ++ [(nbits w 22 21, a)])
    else (st.1.set (nbits w 25 21) (udResult op a b (udSrc c st.1 (nbits w 8 3))), st.2)) (u, [])

/-- The sum of one block's 32 binary64 values, padded with +0 (10 R290, 03 R65). -/
def blockSum (l : List Nat) : Nat := ((treeSum f64add 5 (l ++ List.replicate (32 - l.length) 0)).head?).getD 0

/-- The block sums of a basic SCAN: the squares of a block's gradients (10 R290). -/
def squareSum (g : List Nat) : Nat := blockSum (g.map fun x => f64rne ((f32v x).mul (f32v x)))

/-- The sums that the NACCs of a program add for one block, in program order (10 R290, R307). -/
def naccSums (l : List (List (Nat × Nat))) : List (Nat × Nat) :=
  (List.range ((l.head?.map (·.length)).getD 0)).map fun j =>
    (((l.head?.bind fun x => x[j]?).map (·.1)).getD 0, blockSum (l.map fun x => f64of32 ((x.getD j (0, 0)).2)))

/-- floor(log2 M) of the largest magnitude of a block that is finite and not all zero (10 R292). -/
def blockExp (l : List Val) : Option Int :=
  if l.any fun v => !v.isFinite then none
  else
    let m := l.foldl (fun (a : Dy) v => a.max v.toDy.abs) Dy.zero
    if m.m = 0 then none else some (m.e + Int.ofNat (Nat.log2 m.m.natAbs))

/-- ud_rnd of 10 R294. -/
def udRnd (sseed tid t sid i : Nat) : Nat :=
  let key := mix64 (Nat.xor (sseed % 2 ^ 64) (mix64 (tid * 2 ^ 32 + t % 2 ^ 32)))
  let w := mix64 ((key + (i / 4 * 8 + sid + 1) * 0x9E3779B97F4A7C15) % 2 ^ 64)
  w / 2 ^ (16 * (i % 4)) % 2 ^ 16

/-- Bytes per state element (10 R281). -/
def stBytes (compact : Bool) : Nat := if compact then 2 else 4

/-- Where each array of a slot begins, and the slot's size (10 R281): master, then the states. -/
def slotArrays (n nstate : Nat) (compact : Bool) : List Nat × Nat :=
  (List.range (nstate + 1)).foldl (fun a k =>
    (a.1 ++ [a.2], a.2 + (n * (if k = 0 then 4 else stBytes compact) + 63) / 64 * 64)) ([], 0)

/-- A row of a working copy (10 R295): element bytes and scale bytes. -/
def copyRow (f : Fmt) (rm : Rnd) (rnd : Nat → Nat) (rot : Option (Nat × Bool × Nat)) (x : List Nat) : List Nat × List Nat :=
  let x := match rot with
    | some r => rotateRow r.1 r.2.1 r.2.2 0 true x
    | none => x
  if f = .f32 then (x.flatMap (leBytes 4), [])
  else
    let e := encodeRow f none rm rnd (fun _ => 0) (x.map f32v)
    (e.elems, e.scales)

/-- The layer exponent that firmware sets at a fence (10 R293): rne(SUM / COUNT) with ties to even, negated, clamped. -/
def layerTarget (sum : Int) (count emax : Nat) : Int :=
  let q := sum / Int.ofNat count
  let r := sum % Int.ofNat count
  let n := if 2 * r < Int.ofNat count then q else if Int.ofNat count < 2 * r then q + 1 else if q % 2 = 0 then q else q + 1
  max (-(Int.ofNat emax)) (min (Int.ofNat emax) (-n))

end Sys2Proof.Machine
end

