-- ==== Sys2Proof/Machine/UdState.lean ====
section
/-!
DEFINITION. Machine/UdState.lean: an update die's records, copy descriptors and list entries (10 R280-R284), its reads and writes, the
checks of R314, gradients (R284, R292), working copies (R295), trouble (R299-R304).
-/

namespace Sys2Proof.Machine

/-- Classes of trouble (10 R299). -/
def clNfGrad : Nat := 1
def clNfResult : Nat := 2
def clDegraded : Nat := 4
def clReadFail : Nat := 8
def clPeatEcc : Nat := 16
def clStepWrap : Nat := 32
def clTorn : Nat := 64
def clMarkOvf : Nat := 128

/-- Statuses of R314 and UD_DISABLED, which have no number in the spec (log entry 30). -/
def csUdDisabled : Nat := Config.statusCode 1
def csListKind : Nat := Config.statusCode 2
def csListDup : Nat := Config.statusCode 3
def csUlx : Nat := Config.statusCode 4
def csLayout : Nat := Config.statusCode 5
def csNstate : Nat := Config.statusCode 6
def csPolicy : Nat := Config.statusCode 7
def csRuleEmpty : Nat := Config.statusCode 8
def csGfmt : Nat := Config.statusCode 9
def csCopyFmt : Nat := Config.statusCode 10
def csRotSize : Nat := Config.statusCode 11
def csRotLength : Nat := Config.statusCode 12

/-- FMT_RESERVED and FMT_BLOCK_ZERO (02 R39, R40, 07 R208, 10 R313, R314). -/
def csUdReserved : Nat := 0x4B
def csUdBlockZero : Nat := 0x4C

/-- The fields of a record's words (10 R280). -/
def rcValid (r : List Nat) : Bool := nbitsAt (entWord r 0) 63 63 = 1
def rcTorn (r : List Nat) : Bool := nbitsAt (entWord r 0) 62 62 = 1
def rcInprog (r : List Nat) : Bool := nbitsAt (entWord r 0) 61 61 = 1
def rcEstored (r : List Nat) : Nat := nbitsAt (entWord r 0) 55 48
def rcSlot (r : List Nat) : Nat := nbitsAt (entWord r 0) 32 32
def rcStep (r : List Nat) : Nat := nbitsAt (entWord r 0) 31 0
def rcRows (r : List Nat) : Nat := nbitsAt (entWord r 1) 63 32
def rcK (r : List Nat) : Nat := nbitsAt (entWord r 1) 31 0
def rcBase (r : List Nat) : Nat := nbitsAt (entWord r 2) 39 0
def rcSlotsz (r : List Nat) : Nat := nbitsAt (entWord r 3) 39 0
def rcTag (r : List Nat) : Nat := nbitsAt (entWord r 4) 63 48
def rcLayer (r : List Nat) : Nat := nbitsAt (entWord r 4) 47 38
def rcRule (r : List Nat) : Nat := nbitsAt (entWord r 4) 37 35
def rcNstate (r : List Nat) : Nat := nbitsAt (entWord r 4) 34 33
def rcCompact (r : List Nat) : Bool := nbitsAt (entWord r 4) 32 32 = 1
def rcInplace (r : List Nat) : Bool := nbitsAt (entWord r 4) 31 31 = 1
def rcPolicy (r : List Nat) : Bool := nbitsAt (entWord r 4) 30 30 = 1
def rcClipen (r : List Nat) : Bool := nbitsAt (entWord r 4) 29 29 = 1
def rcPset (r : List Nat) : Nat := nbitsAt (entWord r 4) 28 23
def rcCrnd (r : List Nat) : Nat := nbitsAt (entWord r 4) 22 21
def rcCopy (r : List Nat) (k : Nat) : Nat := nbitsAt (entWord r 5) (16 * k + 15) (16 * k)
def rcTid (r : List Nat) : Nat := nbitsAt (entWord r 5) 52 32
def rcN (r : List Nat) : Nat := rcRows r * rcK r

/-- Where slot `sl` begins (10 R281); an in-place record has one slot (log entry 33). -/
def rcSlotBase (r : List Nat) (sl : Nat) : Nat := rcBase r + if rcInplace r then 0 else sl * rcSlotsz r

/-- The bytes up to the end of the record's slots (10 R281). -/
def rcTop (r : List Nat) : Nat :=
  rcBase r + (slotArrays (rcN r) (rcNstate r) (rcCompact r)).2 + if rcInplace r then 0 else rcSlotsz r

/-- The fields of a copy descriptor's words (10 R283). -/
def cdFmt (c : List Nat) : Nat := nbitsAt (entWord c 0) 63 60
def cdBsz (c : List Nat) : Nat := nbitsAt (entWord c 0) 59 58
def cdRnd (c : List Nat) : Nat := nbitsAt (entWord c 0) 57 56
def cdRot (c : List Nat) : Bool := nbitsAt (entWord c 0) 55 55 = 1
def cdForm (c : List Nat) : Bool := nbitsAt (entWord c 0) 54 54 = 1
def cdRk (c : List Nat) : Nat := nbitsAt (entWord c 0) 53 50
def cdSeed (c : List Nat) : Nat := entWord c 1
def cdBuf (c : List Nat) (b : Nat) : Nat := entWord c (2 + b)
def cdPitch (c : List Nat) : Nat := nbitsAt (entWord c 4) 31 0
def cdSoff (c : List Nat) : Int := Mv32 (nbitsAt (entWord c 4) 63 32)
where Mv32 (x : Nat) : Int := if x < 2 ^ 31 then Int.ofNat x else Int.ofNat x - Int.ofNat (2 ^ 32)
def cdTs (c : List Nat) (b : Nat) : Nat := nbitsAt (entWord c 5) (16 * b + 13) (16 * b)

/-- The fields of a list entry's words (10 R284). -/
def leKind (e : List Nat) : Nat := nbitsAt (entWord e 0) 63 60
def leGfmt (e : List Nat) : Nat := nbitsAt (entWord e 0) 59 56
def leGbsz (e : List Nat) : Nat := nbitsAt (entWord e 0) 55 54
def leGrp (e : List Nat) : Nat := nbitsAt (entWord e 0) 53 50
def leUlx (e : List Nat) : Nat := nbitsAt (entWord e 0) 49 34
def leGateEn (e : List Nat) : Bool := nbitsAt (entWord e 0) 33 33 = 1
def leGate (e : List Nat) : Nat := nbitsAt (entWord e 0) 32 19
def leDoneEn (e : List Nat) : Bool := nbitsAt (entWord e 0) 18 18 = 1
def leDone (e : List Nat) : Nat := nbitsAt (entWord e 0) 17 4
def leAddr (e : List Nat) : Nat := entWord e 1
def lePitch (e : List Nat) : Nat := nbitsAt (entWord e 2) 31 0
def leSoff (e : List Nat) : Int := cdSoff.Mv32 (nbitsAt (entWord e 2) 63 32)

/-- A 64-byte structure as its eight words. -/
def words8 (bytes : List Nat) : List Nat := (List.range 8).map fun k => ofLeBytes ((bytes.drop (8 * k)).take 8)

/-- Bits [hi:lo] of a number replaced. -/
def nput (w hi lo v : Nat) : Nat := w - nbitsAt w hi lo * 2 ^ lo + v % 2 ^ (hi + 1 - lo) * 2 ^ lo

/-- A hall address plus an offset. -/
def hallAdd (a : Nat) (off : Int) : Nat := ((Int.ofNat a + off) % Int.ofNat (2 ^ 64)).toNat

/-- Where the scale words of a row at an offset of an array lie (07 R185). -/
def scaleAt (t : Fmt) (a : Nat) (soff : Int) (off : Nat) : Nat := hallAdd a (soff + Int.ofNat (off / (if t.bits = 4 then 16 else 32) * 2))

/-- Elements before block `k` of a tensor, blocks cut along each row (02 R34, 10 R297). -/
def beforeBlock (kk k : Nat) : Nat :=
  let per := (kk + 31) / 32
  k / per * kk + k % per * 32

namespace State

def ud (s : State) (d : Nat) : UdSt := if d = 0 then s.ud0 else s.ud1

def setUd (s : State) (d : Nat) (u : UdSt) : State := if d = 0 then { s with ud0 := u } else { s with ud1 := u }

def modUd (s : State) (d : Nat) (f : UdSt → UdSt) : State := s.setUd d (f (s.ud d))

def udStep (s : State) (d : Nat) : Nat := s.rd (UD_STEP d) fUD_STEP_STEP

/-- A read of the die's own modules, counted (10 R315). -/
def udRead (s : State) (d a len : Nat) : Rsp :=
  let r := s.peatRead d a len
  if r.st = rsOk then ⟨r.s.bump (UD_PEAT_RD d) fUD_PEAT_RD_BYTES len, r.st, r.data⟩ else r

/-- A write of the die's own modules, counted. -/
def udWrite (s : State) (d a : Nat) (bytes : List Nat) : Rsp :=
  let r := s.peatWrite d a bytes
  if r.st = rsOk then ⟨r.s.bump (UD_PEAT_WR d) fUD_PEAT_WR_BYTES bytes.length, r.st, r.data⟩ else r

def recAddr (s : State) (d ulx : Nat) : Nat := s.rd (UD_RECBASE d) fUD_RECBASE_BASE + 64 * ulx

/-- A 64-byte structure read: none where the read fails. -/
def udWords (s : State) (d a : Nat) : State × Option (List Nat) :=
  let r := s.udRead d a 64
  (r.s, if r.st = rsOk then some (words8 r.data) else none)

def readRec (s : State) (d ulx : Nat) : State × Option (List Nat) := s.udWords d (s.recAddr d ulx)

def readCopy (s : State) (d k : Nat) : State × Option (List Nat) := s.udWords d (s.rd (UD_COPYBASE d) fUD_COPYBASE_BASE + 64 * k)

def readEntry (s : State) (d j : Nat) : State × Option (List Nat) := s.udWords d (s.rd (UD_LISTBASE d) fUD_LISTBASE_BASE + 64 * j)

/-- A commit word rewritten in one write (10 R282), and whether it was: one that cannot be read or written stays as it is. -/
def setCommit (s : State) (d ulx : Nat) (f : Nat → Nat) : State × Bool :=
  let r := s.udRead d (s.recAddr d ulx) 8
  if r.st ≠ rsOk then (r.s, false)
  else
    let w := r.s.udWrite d (s.recAddr d ulx) (leBytes 8 (f (ofLeBytes r.data)))
    (w.s, decide (w.st = rsOk))

/-- A failed access to a record's commit word, which the die handles as PEAT_ECC does (10 R301, 11 R320, R339): shown in UD_EVENTS. -/
def putCommit (s : State) (d ulx : Nat) (f : Nat → Nat) : State :=
  let p := s.setCommit d ulx f
  if p.2 then p.1 else p.1.raise (UD_EVENTS d) fUD_EVENTS_PEAT_ECC

/-- The commit word of a new version (10 R296, R297), and whether it was written. -/
def commitVersion (s : State) (d ulx slot t e : Nat) : State × Bool :=
  s.setCommit d ulx fun w => nput (nput (nput (nput w 61 61 0) 55 48 e) 32 32 slot) 31 0 t

/-- TORN is set and INPROG cleared (10 R298), which HEALTH TORN reports (14 R420). -/
def tear (s : State) (d ulx : Nat) : State :=
  ((s.putCommit d ulx fun w => nput (nput w 62 62 1) 61 61 0).raise (UD_EVENTS d) fUD_EVENTS_TORN).health 7 [d, ulx]

/-- An increment that the die sends, stamped with UD_EPOCH (10 R279). -/
def udInc (s : State) (d ts : Nat) : State := { s with incs := s.incs ++ [⟨ts, 1, s.rd (UD_EPOCH d) fUD_EPOCH_EPOCH, s.node⟩] }

/-- An expert rule is empty or bad by its slot's configuration (10 R305). -/
def ruleEmpty (cfg : Nat → Word) (rule : Nat) : Bool :=
  rule ≠ 0 && (decide (5 ≤ rule) || fget (cfg (rule - 1)) fUD_RULE_CFG_ULEN = 0 || fget (cfg (rule - 1)) fUD_RULE_CFG_BAD = 1)

/-- The rule slots as they stand, and as the walk copied them when it started (10 R305). -/
def ruleLive (s : State) (d n : Nat) : Word := s.reg (UD_RULE_CFG d n)
def ruleWalk (s : State) (d n : Nat) : Word := BitVec.ofNat 64 (((s.ud d).rules.getD n []).headD 0)

/-- The checks of a record against the rule slots `cfg` (10 R280, R281, R297, R305, R314). -/
def recCheckBy (s : State) (d : Nat) (cfg : Nat → Word) (r : List Nat) : Option Nat :=
  let n := s.rd (UD_COPYBASE d) fUD_COPYBASE_NCOPY
  let bad := fun k => rcCopy r k ≠ 0xFFFF && decide (n ≤ rcCopy r k)
  let size := (slotArrays (rcN r) (rcNstate r) (rcCompact r)).2
  if bad 0 || bad 1 then some csUlx
  else if rcBase r % 64 ≠ 0 || (!rcInplace r && (rcSlotsz r % 64 ≠ 0 || rcSlotsz r < size)) || s.dieRange d < rcTop r then some csLayout
  else if rcRule r = 0 && rcNstate r ≠ 2 then some csNstate
  else if rcInplace r && rcPolicy r then some csPolicy
  else if ruleEmpty cfg (rcRule r) then some csRuleEmpty
  else if rcCompact r && rcCrnd r = 3 then some csUdReserved
  else none

/-- The checks of a record that is written or loaded (10 R305, R314). -/
def recCheck (s : State) (d : Nat) (r : List Nat) : Option Nat := s.recCheckBy d (s.ruleLive d) r

/-- The checks of a copy descriptor for rows of K elements (10 R283, R295, R313, R314). -/
def copyCheck (c : List Nat) (k : Nat) : Option Nat :=
  match Fmt.ofCode (cdFmt c) with
  | none => some csCopyFmt
  | some t =>
    if t.isInt then some csCopyFmt
    else if t.narrow && cdBsz c = 0 then some csUdBlockZero
    else if (t.narrow && 2 ≤ cdBsz c) || cdRnd c = 3 then some csUdReserved
    else if cdRot c && (cdRk c < 5 || 12 < cdRk c) then some csRotSize
    else if cdRot c && k % 2 ^ cdRk c ≠ 0 then some csRotLength
    else none

/-- A gradient format (10 R284): F32, B16, H16, F8E4 or F8E5. -/
def gradFmt (code : Nat) : Option Fmt :=
  match Fmt.ofCode code with
  | some t => if t.isInt || t.bits = 4 then none else some t
  | none => none

/-- The checks of a list entry by itself (10 R284, R314). -/
def entryCheck (s : State) (d : Nat) (e : List Nat) : Option Nat :=
  if 4 ≤ leKind e then some csListKind
  else if leKind e < 2 then
    match gradFmt (leGfmt e) with
    | none => some csGfmt
    | some t =>
      if s.rd (UD_RECBASE d) fUD_RECBASE_NREC ≤ leUlx e then some csUlx
      else if t.narrow && leGbsz e = 0 then some csUdBlockZero
      else if t.narrow && 2 ≤ leGbsz e then some csUdReserved
      else none
  else none

/-- A walk stops on a check (10 R315 FAULT). -/
def walkFault (s : State) (d code idx : Nat) : State :=
  let a := UD_FAULT d
  let s := ((s.wr a fUD_FAULT_CODE code).wr a fUD_FAULT_ENTRY idx).wr a fUD_FAULT_STEP (s.udStep d)
  (s.modUd d fun u => { u with stop := true }).raise (UD_EVENTS d) fUD_EVENTS_FAULT

/-- Trouble counted and shown (10 R301, R303, R315). -/
def countTrouble (s : State) (d : Nat) (ulx tag cls : Nat) : State :=
  let a := UD_SKIP_LAST d
  let s := s.bump (UD_SKIPS d) fUD_SKIPS_COUNT 1
  let s := (((s.wr a fUD_SKIP_LAST_TAG tag).wr a fUD_SKIP_LAST_ULX ulx).wr a fUD_SKIP_LAST_CLASS cls).wr a fUD_SKIP_LAST_STEP (s.udStep d)
  if cls = 0 then s else (s.wr (UD_STATUS d) fUD_STATUS_TROUBLE_STEP 1).raise (UD_EVENTS d) fUD_EVENTS_TROUBLE

/-- A list of numbers, each of z bytes, read from the modules. -/
def udArray (s : State) (d a z n : Nat) : State × Option (List Nat) :=
  let r := s.udRead d a (z * n)
  (r.s, if r.st = rsOk then some ((List.range n).map fun i => ofLeBytes ((r.data.drop (z * i)).take z)) else none)

/-- An F32 pattern of a stored state element (10 R288: widened exactly). -/
def stWiden (compact : Bool) (x : Nat) : Nat := if compact then f32rne (Fmt.b16.decode x) else x

/-- Master and state arrays of a slot, as F32 patterns: none where a read fails (10 R281). -/
def readSlot (s : State) (d : Nat) (r : List Nat) (sl : Nat) (nst : Nat) : State × Option (List (List Nat)) :=
  let offs := (slotArrays (rcN r) (rcNstate r) (rcCompact r)).1
  (List.range (nst + 1)).foldl (fun (a : State × Option (List (List Nat))) k =>
    match a.2 with
    | none => a
    | some l =>
      let x := a.1.udArray d (rcSlotBase r sl + offs.getD k 0) (if k = 0 then 4 else stBytes (rcCompact r)) (rcN r)
      (x.1, x.2.map fun v => l ++ [if k = 0 then v else v.map (stWiden (rcCompact r))])) (s, some [])

/-- The first `m` elements of each array of a slot written, given as stored (10 R296, R297). -/
def writeSlot (s : State) (d : Nat) (r : List Nat) (sl : Nat) (arrs : List (List Nat)) (m : Nat) : State × Bool :=
  let offs := (slotArrays (rcN r) (rcNstate r) (rcCompact r)).1
  arrs.zipIdx.foldl (fun (a : State × Bool) p =>
    if !a.2 then a
    else
      let z := if p.2 = 0 then 4 else stBytes (rcCompact r)
      let x := a.1.udWrite d (rcSlotBase r sl + offs.getD p.2 0) ((p.1.take m).flatMap (leBytes z))
      (x.s, x.st = rsOk)) (s, true)

/-- The ranges of the gradient of an entry: elements, then scale words, row by row (10 R284, 07 R185). -/
def gradRanges (e r : List Nat) : List (Nat × Nat) :=
  match gradFmt (leGfmt e) with
  | none => []
  | some t => (List.range (rcRows r)).flatMap fun i =>
      (hallAdd (leAddr e) (Int.ofNat (i * lePitch e)), t.bytes (rcK r)) ::
        (if t.narrow then [(scaleAt t (leAddr e) (leSoff e) (i * lePitch e), t.scaleBytes (rcK r))] else [])

/-- A request of the die to another package (13 R377): one without a route is counted (R396). -/
def udSend (s : State) (d : Nat) (write : Bool) (a len : Nat) (data : List Nat) : State × Option MoveReq :=
  let tag := (s.ud d).nextTag
  let p := mkPacket s (if write then 0x03 else 0x01) 0 (hallNode a) (288 + d) tag len a data
  match s.sendReq p with
  | none => (s.bump FAB_DROP fFAB_DROP_NOROUTE 1, none)
  | some s => (s.modUd d fun u => { u with nextTag := (u.nextTag + 1) % 2 ^ 16 }, some ⟨tag, a, len, write, s.beat⟩)

/-- RD requests for the ranges that lie in other packages (13 R379): requests made, and whether one found no route. -/
def udRequest (s : State) (d : Nat) (rs : List (Nat × Nat)) : State × List MoveReq × Bool :=
  ((rs.filter fun r => !s.isLocal r.1).flatMap fun r => rdPieces r.1 r.2).foldl
    (fun (a : State × List MoveReq × Bool) p =>
      let x := a.1.udSend d false p.1 p.2 []
      match x.2 with
      | some q => (x.1, a.2.1 ++ [q], a.2.2)
      | none => (x.1, a.2.1, true)) (s, [], false)
where
  /-- RD pieces cover whole lines and do not cross 256 bytes (13 R379). -/
  rdPieces (a len : Nat) : List (Nat × Nat) :=
    if len = 0 then [] else cut (a / 64 * 64) ((a + len + 63) / 64 * 64 - a / 64 * 64) (len / 256 + 3)
  cut (a len : Nat) : Nat → List (Nat × Nat)
    | 0 => []
    | n + 1 => if len = 0 then [] else let k := min len (256 - a % 256); (a, k) :: cut (a + k) (len - k) n

/-- Ranges of this package read with their effects: the first failure's status. -/
def udTouch (s : State) (rs : List (Nat × Nat)) : State × Option Nat :=
  (rs.filter fun r => s.isLocal r.1).foldl (fun (a : State × Option Nat) r =>
    match a.2 with
    | some _ => a
    | none =>
      let x := a.1.hallRead r.1 r.2 Hint.none
      (x.s, if x.st = rsOk then none else some x.st)) (s, none)

/-- Bytes at a hall address as the die sees them: of this package, or received. -/
def udPeek (s : State) (rx : List (Nat × Byte)) (a n : Nat) : List Nat :=
  if s.isLocal a then s.hallPeek a n else (List.range n).map fun i => (sget 0 (a + i) rx).toNat

/-- The values of gradient row i (10 R284, 02 R37, R52). -/
def gradRow (s : State) (rx : List (Nat × Byte)) (e r : List Nat) (i : Nat) : List Val :=
  match gradFmt (leGfmt e) with
  | none => []
  | some t =>
    let els := t.unpack (rcK r) (s.udPeek rx (hallAdd (leAddr e) (Int.ofNat (i * lePitch e))) (t.bytes (rcK r)))
    let scs := if t.narrow then s.udPeek rx (scaleAt t (leAddr e) (leSoff e) (i * lePitch e)) (t.scaleBytes (rcK r)) else []
    els.zipIdx.map fun p =>
      if t.narrow then t.decodeBlockElem (ofLeBytes ((scs.drop (2 * (p.2 / 32))).take 2)) p.1 else t.decode p.1

def grads (s : State) (rx : List (Nat × Byte)) (e r : List Nat) : List (List Val) := (List.range (rcRows r)).map (s.gradRow rx e r)

/-- SUM and COUNT of a layer (10 R292). -/
def addExps (s : State) (d layer : Nat) (g : List (List Val)) : State :=
  let l := (g.flatMap blocks32).filterMap blockExp
  if l.isEmpty then s
  else
    let a := UD_LAYER d layer
    let raw := s.rd a fUD_LAYER_SUM
    let old : Int := if raw < 2 ^ 31 then Int.ofNat raw else Int.ofNat raw - Int.ofNat (2 ^ 32)
    let sum := l.foldl (fun x y => max (-(2 ^ 31)) (min (2 ^ 31 - 1) (x + y))) old
    (s.wr a fUD_LAYER_SUM ((sum % Int.ofNat (2 ^ 32)).toNat)).bump a fUD_LAYER_COUNT l.length

/-- WR pieces of a range: they do not cross 256 bytes (13 R379). -/
def udPieces (a : Nat) (data : List Nat) : List (Nat × List Nat) :=
  (udRequest.cut a data.length (data.length / 256 + 2)).map fun p => (p.1, (data.drop (p.1 - a)).take p.2)

/-- Bytes written to a hall address: at once in this package, as WR packets elsewhere (10 R279, R295). -/
def udPut (s : State) (d a : Nat) (data : List Nat) : State × List MoveReq × Bool :=
  if data.isEmpty then (s, [], false)
  else if s.isLocal a then
    let x := s.hallWrite a data Hint.none
    (x.s, [], x.st ≠ rsOk)
  else (udPieces a data).foldl (fun (v : State × List MoveReq × Bool) p =>
    let x := v.1.udSend d true p.1 p.2.length p.2
    match x.2 with
    | some q => (x.1, v.2.1 ++ [q], v.2.2)
    | none => (x.1, v.2.1, true)) (s, [], false)

/-- One working copy emitted (10 R295): descriptor c, stream sid k, version step t, master w, buffer b. -/
def emitCopy (s : State) (d : Nat) (r c : List Nat) (k t : Nat) (w : List Nat) (b : Nat) (ulx : Nat) (owner : Option Nat)
    (held : Bool) : State :=
  match Fmt.ofCode (cdFmt c) with
  | none => s
  | some f =>
    let kk := rcK r
    let seed := s.rd (UD_SSEED d) fUD_SSEED_SEED
    let rot := if cdRot c then some (cdRk c, cdForm c, cdSeed c) else none
    let x := (List.range (rcRows r)).foldl (fun (v : State × List MoveReq × Bool) i =>
      let y := copyRow f ((Rnd.ofCode (cdRnd c)).getD .rne) (fun j => udRnd seed (rcTid r) t k (i * kk + j)) rot ((w.drop (i * kk)).take kk)
      let p := v.1.udPut d (hallAdd (cdBuf c b) (Int.ofNat (i * cdPitch c))) y.1
      let q := p.1.udPut d (scaleAt f (cdBuf c b) (cdSoff c) (i * cdPitch c)) y.2
      (q.1, v.2.1 ++ p.2.1 ++ q.2.1, v.2.2 || p.2.2 || q.2.2)) (s, [], false)
    x.1.modUd d fun u => { u with
      emits := u.emits ++ [⟨u.nextEmit, owner, ulx, cdTs c b, x.2.1, x.2.2, held, s.tierOf (cdBuf c b), s.beat⟩]
      nextEmit := u.nextEmit + 1 }

/-- Every working copy of a record emitted from a master (10 R287, R295). A descriptor that cannot be read is a copy that fails
(R304). -/
def emitCopies (s : State) (d : Nat) (r : List Nat) (t : Nat) (w : List Nat) (b ulx : Nat) (owner : Option Nat) (held : Bool) : State :=
  [0, 1].foldl (fun s k =>
    if rcCopy r k = 0xFFFF then s
    else
      let c := s.readCopy d (rcCopy r k)
      match c.2 with
      | none => (c.1.raise (UD_EVENTS d) fUD_EVENTS_COPY_FAIL).modUd d fun u => { u with copyFail := true }
      | some cw => c.1.emitCopy d r cw k t w b ulx owner held) s

/-- The buffer that the copies of the walk go to (10 R287). -/
def udBuf (s : State) (d : Nat) : Nat := (s.udStep d + 1) % 2

/-- PEAT_ECC trouble (10 R301): the record is torn; no copy is emitted. -/
def peatTrouble (s : State) (d ulx tag : Nat) : State :=
  ((s.countTrouble d ulx tag clPeatEcc).tear d ulx).raise (UD_EVENTS d) fUD_EVENTS_PEAT_ECC

/-- Copies of the committed version emitted again, keyed by its STEP (10 R302). -/
def reemit (s : State) (d ulx : Nat) (r : List Nat) (b : Nat) (owner : Option Nat) : State :=
  let w := s.readSlot d r (rcSlot r) 0
  match w.2 with
  | none => w.1.peatTrouble d ulx (rcTag r)
  | some l => w.1.emitCopies d r (rcStep r) (l.headD []) b ulx owner false

/-- HELD of UD_STATUS (10 R303). -/
def showHeld (s : State) (d : Nat) : State := s.wr (UD_STATUS d) fUD_STATUS_HELD (s.ud d).held.length

/-- INFLIGHT of UD_STATUS. -/
def showFlight (s : State) (d : Nat) : State := s.wr (UD_STATUS d) fUD_STATUS_INFLIGHT (s.ud d).ents.length

def modEnt (s : State) (d idx : Nat) (f : UdEnt → UdEnt) : State :=
  s.modUd d fun u => { u with ents := u.ents.map fun e => if e.idx = idx then f e else e }

def ent (s : State) (d idx : Nat) : Option UdEnt := (s.ud d).ents.find? fun e => e.idx = idx

/-- The outcome of an entry is resolved (10 R286). -/
def resolveEnt (s : State) (d idx : Nat) : State := s.modEnt d idx fun e => { e with ran := true, resolved := true }

/-- A checkpoint of a record is reading (10 R285, R309). -/
def ckptReading (s : State) (d ulx : Nat) : Bool := (s.ud d).xfers.any fun x => !x.restore && !x.sent && x.ulx = ulx

/-- The record's update is in flight or held (10 R308, R309). -/
def updBusy (s : State) (d ulx : Nat) : Bool := (s.ud d).ents.any fun e => leKind e.words = 0 && leUlx e.words = ulx
def updHeld (s : State) (d ulx : Nat) : Bool := (s.ud d).held.any fun h => h.ulx = ulx

/-- The requests that a die has outstanding. -/
def udReqs (s : State) (d : Nat) : List MoveReq :=
  ((s.ud d).ents.flatMap (·.reqs)) ++ ((s.ud d).emits.flatMap (·.reqs)) ++ (s.ud d).xfers.flatMap (·.reqs)

/-- A die waits for the answer to a tag. -/
def udWaits (s : State) (d tag : Nat) : Bool := (s.udReqs d).any fun q => q.tag = tag

/-- A failure kept as a data-mover status rather than a response's, and the data-mover status of either (07 R197, 11 R320). -/
def udDmFail (st : Nat) : Nat := 256 + st
def udDmOf (f : Nat) : Nat := if 256 ≤ f then f - 256 else dmStatus f

/-- An answer to a die's request: read data kept, a failure noted (10 R299 READ_FAIL, R304). -/
def udReply (s : State) (d tag status : Nat) (data : List Nat) : State :=
  let hit := fun (l : List MoveReq) => l.any fun q => q.tag = tag
  let rest := fun (l : List MoveReq) => l.filter fun q => q.tag ≠ tag
  let bad := fun (f : Option Nat) => if status = rsOk then f else some status
  let got := fun (l : List MoveReq) (rx : List (Nat × Byte)) =>
    match l.find? fun q => q.tag = tag with
    | some q => if q.write || status ≠ rsOk then rx else memStore rx q.addr (data.take q.len)
    | none => rx
  s.modUd d fun u => { u with
    ents := u.ents.map fun x => if hit x.reqs then { x with reqs := rest x.reqs, rx := got x.reqs x.rx, fail := bad x.fail } else x
    emits := u.emits.map fun x => if hit x.reqs then { x with reqs := rest x.reqs, failed := x.failed || status ≠ rsOk } else x
    xfers := u.xfers.map fun x => if hit x.reqs then { x with reqs := rest x.reqs, rx := got x.reqs x.rx, fail := bad x.fail } else x }

/-- A die's request ends unanswered with a data-mover status (07 R197). -/
def udEnd (s : State) (d tag st : Nat) : State := s.udReply d tag (udDmFail st) []

end State
end Sys2Proof.Machine
end

