-- ==== Sys2Proof/Machine/Sedge.lean ====
section
/-!
DEFINITION. Machine/Sedge.lean: the walk of an update die and its entries (10 R285-R307), degraded marks (R300), what firmware does at a
step fence (05 R138, R139, 10 R293), resets of a Sedge link (R312).
-/

namespace Sys2Proof.Machine
namespace State

/-- The rule slots as a walk copies them: configuration, then the micro-ops of its programs (10 R305). -/
def ruleCopies (s : State) (d : Nat) : List (List Nat) :=
  (List.range 4).map fun n =>
    let c := s.reg (UD_RULE_CFG d n)
    c.toNat :: (List.range (fget c fUD_RULE_CFG_SLEN + fget c fUD_RULE_CFG_ULEN)).map fun k => (s.reg (UD_UOP d (n * 256 + k))).toNat

/-- The mark table cleared (10 R300). -/
def clearMarks (s : State) (d : Nat) : State :=
  ((List.range 64).foldl (fun s i => s.setReg (UD_MARK d i) 0) s).setReg (UD_MARKS d) 0

/-- A walk begins at entry 0 (10 R286, R300, R305). -/
def walkStart (s : State) (d : Nat) : State :=
  let s := s.clearMarks d
  let a := UD_STATUS d
  let s := ((s.wr a fUD_STATUS_WALKING 1).wr a fUD_STATUS_TROUBLE_STEP 0).wr a fUD_STATUS_ENTRY 0
  s.modUd d fun u => { u with ents := [], held := [], rules := s.ruleCopies d, auto := false, stop := false, copyFail := false }

/-- Entries may start (10 R285, R315): not in a clock stop (15 R448) nor in HALTED (16 R484). -/
def walkOpen (s : State) (d : Nat) : Bool :=
  s.on (UD_STATUS d) fUD_STATUS_WALKING && !(s.ud d).stop && s.on (UD_CTRL d) fUD_CTRL_EN && !s.on (UD_CTRL d) fUD_CTRL_PAUSE
    && s.on (UD_STATUS d) fUD_STATUS_LINK_UP && s.clocked

/-- The rules of 10 R285 that hold an entry back. -/
def heldEntry (s : State) (d : Nat) (e : List Nat) : Bool :=
  let es := (s.ud d).ents
  decide (4 ≤ es.length) || (leGateEn e && !s.met (leGate e)) || es.any (fun x => leKind x.words = 3)
    || (leKind e = 2 && es.any fun x => leKind x.words = 1 && leGrp x.words = leGrp e)
    || (leKind e = 3 && !es.isEmpty)
    || (leKind e = 0 && s.ckptReading d (leUlx e))

/-- The entry put in flight. -/
def launchEnt (s : State) (d : Nat) (x : UdEnt) : State :=
  ((s.modUd d fun u => { u with ents := u.ents ++ [x] }).wr (UD_STATUS d) fUD_STATUS_ENTRY (x.idx + 1)).showFlight d

/-- The next entry starts, if it has kind `kind` and nothing holds it back (10 R285). UPDATE and SCAN read their record and ask other
packages for the gradient, NORM_IN for its block. A record is checked against the walk's own copy of the rule slots (R305). -/
def startEntry (s : State) (d idx kind : Nat) : State :=
  if !s.walkOpen d || s.rd (UD_STATUS d) fUD_STATUS_ENTRY ≠ idx || s.rd (UD_LISTBASE d) fUD_LISTBASE_LEN ≤ idx then s
  else
    let r := s.readEntry d idx
    match r.2 with
    | none => r.1.walkFault d csListKind idx
    | some e =>
      if leKind e ≠ kind && leKind e < 4 then s
      else match r.1.entryCheck d e with
        | some c => r.1.walkFault d c idx
        | none =>
          if r.1.heldEntry d e then s
          else if 2 ≤ kind then
            let q := r.1.udRequest d (if kind = 3 then [(leAddr e, 32)] else [])
            q.1.launchEnt d ⟨idx, e, [], 0, 0, 0, q.2.1, [], if q.2.2 then some (udDmFail 0x04) else none, false, false, s.beat⟩
          else
            let rc := r.1.readRec d (leUlx e)
            match rc.2 with
            | none => (rc.1.peatTrouble d (leUlx e) 0).launchEnt d ⟨idx, e, [], 0, 0, 0, [], [], none, true, true, s.beat⟩
            | some w =>
              if !rcValid w then rc.1.walkFault d csUlx idx
              else match rc.1.recCheckBy d (rc.1.ruleWalk d) w with
                | some c => rc.1.walkFault d c idx
                | none =>
                  let s := rc.1
                  let torn := kind = 0 && rcTorn w
                  let cls := if kind = 1 then 0 else
                    (if torn then clTorn else 0) + (if rcStep w = 2 ^ 32 - 1 then clStepWrap else 0)
                      + (if s.on (UD_MARKS d) fUD_MARKS_OVF then clMarkOvf else 0)
                  let q := if torn then (s, [], false) else s.udRequest d (gradRanges e w)
                  q.1.launchEnt d ⟨idx, e, w, (rcStep w + 1) % 2 ^ 32, s.rd (UD_LAYER d (rcLayer w)) fUD_LAYER_E, cls, q.2.1, [],
                    if q.2.2 then some (udDmFail 0x04) else none, false, false, s.beat⟩

/-- The norm registers. -/
def nregs (s : State) (d : Nat) : List Nat := (List.range 4).map fun a => s.rd (UD_NREG d a) fUD_NREG_VALUE

/-- A signed 8-bit exponent. -/
def sext8 (x : Nat) : Int := if x < 128 then Int.ofNat x else Int.ofNat x - 256

/-- What the rule computes once (10 R288, R306). -/
def udCtx (s : State) (d : Nat) (x : UdEnt) : UdCtx :=
  let r := x.rcd
  let p := (List.range 8).map fun j => s.rd (UD_PSET d (rcPset r * 8 + j)) fUD_PSET_VALUE
  let e := sext8 x.e
  ⟨p, x.t, biasCorr (p.getD 1 0) x.t, biasCorr (p.getD 2 0) x.t, e, e - sext8 (rcEstored r),
    clipFactor (rcClipen r) (s.rd (UD_NREG d 0) fUD_NREG_VALUE) (p.getD 5 0), rcClipen r, s.nregs d, rcNstate r⟩

/-- A rule slot's copy, its scan program and its update program (10 R305). -/
def ruleOf (s : State) (d rule : Nat) : Nat × List Nat × List Nat :=
  let c := (s.ud d).rules.getD (rule - 1) []
  let cfg := BitVec.ofNat 64 (c.headD 0)
  (c.headD 0, (c.drop 1).take (fget cfg fUD_RULE_CFG_SLEN), (c.drop (1 + fget cfg fUD_RULE_CFG_SLEN)).take (fget cfg fUD_RULE_CFG_ULEN))

end State

/-- The registers of an expert program on one element (10 R306). -/
def expertRegs (c : UdCtx) (g w : Nat) (sts : List Nat) (i : Nat) : List Nat :=
  let st := fun k => if k < c.nstate then (if k = 0 then fscale (sts.getD 0 0) c.de else sts.getD k 0) else 0
  [g, w, st 0, st 1, st 2, i % 2 ^ 32] ++ List.replicate 26 0

/-- One element's new master and states as F32 patterns (10 R288, R306). -/
def elemNew (c : UdCtx) (prog : Option (List Nat)) (g w : Nat) (sts : List Nat) (i : Nat) : List Nat :=
  match prog with
  | none => basicElem c g w (sts.getD 0 0) (sts.getD 1 0)
  | some p => ((udProg c p (expertRegs c g w sts i)).1.drop 1).take (1 + c.nstate)

/-- A new master or state value as stored (10 R281, R288, R294). -/
def elemStored (r : List Nat) (seed t i k x : Nat) : Nat :=
  if k = 0 || !rcCompact r then x
  else (Fmt.b16.ofVal ((Rnd.ofCode (rcCrnd r)).getD .rne) (udRnd seed (rcTid r) t (1 + k) i) (f32v x)).val

def storedBad (r : List Nat) (k x : Nat) : Bool :=
  !((if k = 0 || !rcCompact r then Fmt.f32 else Fmt.b16).decode x).isFinite

namespace State

/-- A value added into an accumulator of a group, in block order (10 R290). -/
def nacc (s : State) (d grp a v : Nat) : State :=
  let r := UD_NACC d (grp * 4 + a)
  s.wr r fUD_NACC_VALUE (f64add (s.rd r fUD_NACC_VALUE) v)

/-- What the NACCs of a program add to a group over the first `n` blocks of a gradient (10 R290, R307). -/
def accBlocks (s : State) (d grp : Nat) (c : UdCtx) (prog : List Nat) (kk : Nat) (g : List (List Val)) (old : List (List Nat)) (n : Nat) : State :=
  let blks := g.zipIdx.flatMap fun row => (blocks32 row.1).zipIdx.map fun b => (row.2 * kk + b.2 * 32, b.1)
  (blks.take n).foldl (fun s b =>
    let sums := naccSums (b.2.zipIdx.map fun v =>
      let i := b.1 + v.2
      (udProg c prog (expertRegs c (f32rne v.1) ((old.headD []).getD i 0) ((old.drop 1).map fun a => a.getD i 0) i)).2)
    sums.foldl (fun s p => s.nacc d grp p.1 p.2) s) s

/-- What the NACCs of an update program add to its entry's group, up to the block in which trouble ends the update (10 R307; DESIGN CHOICE, log
entry 31: the spec does not say which blocks of an abandoned update count). -/
def accUpdate (s : State) (d : Nat) (x : UdEnt) (g : List (List Val)) (old : List (List Nat)) (bad : Option Nat) : State :=
  if rcRule x.rcd = 0 then s
  else s.accBlocks d (leGrp x.words) (s.udCtx d x) (s.ruleOf d (rcRule x.rcd)).2.2 (rcK x.rcd) g old
    (match bad with | some k => k + 1 | none => (g.flatMap blocks32).length)

/-- The update's results as stored, array by array, and the first block that holds a non-finite one (10 R288, R299, R306). -/
def newArrays (s : State) (d : Nat) (x : UdEnt) (g : List (List Val)) (old : List (List Nat)) : List (List Nat) × Option Nat :=
  let r := x.rcd
  let c := s.udCtx d x
  let prog := if rcRule r = 0 then none else some (s.ruleOf d (rcRule r)).2.2
  let seed := s.rd (UD_SSEED d) fUD_SSEED_SEED
  let gs := g.flatten.map f32rne
  let el := (List.range (rcN r)).map fun i =>
    (elemNew c prog (gs.getD i 0) ((old.headD []).getD i 0) ((old.drop 1).map fun a => a.getD i 0) i).zipIdx.map
      fun p => elemStored r seed x.t i p.2 p.1
  let arrs := (List.range (1 + rcNstate r)).map fun k => el.map fun e => e.getD k 0
  let per := (rcK r + 31) / 32
  let bad := (el.zipIdx.find? fun e => e.1.zipIdx.any fun p => storedBad r p.2 p.1).map fun e =>
    e.2 / rcK r * per + e.2 % rcK r / 32
  (arrs, bad)

/-- An abandoned update (10 R301-R303): skipped at once with its copies emitted again, or held and marked to be skipped. -/
def abandon (s : State) (d : Nat) (x : UdEnt) (cls : Nat) : State :=
  let r := x.rcd
  let ulx := leUlx x.words
  let s := s.countTrouble d ulx (rcTag r) cls
  if rcPolicy r then
    ((s.modUd d fun u => { u with held := u.held ++ [⟨x.idx, ulx, x.t, x.e, true⟩] }).showHeld d).resolveEnt d x.idx
  else ((s.reemit d ulx r (s.udBuf d) (some x.idx)).raise (UD_EVENTS d) fUD_EVENTS_SKIP).resolveEnt d x.idx

/-- Copies emitted from the new version, and the entry held or left to its commit word (10 R296, R303). -/
def publish (s : State) (d : Nat) (x : UdEnt) (w : List Nat) : State :=
  let r := x.rcd
  let ulx := leUlx x.words
  let s := s.emitCopies d r x.t w (s.udBuf d) ulx (some x.idx) (rcPolicy r)
  if rcPolicy r then
    ((s.modUd d fun u => { u with held := u.held ++ [⟨x.idx, ulx, x.t, x.e, false⟩] }).showHeld d).resolveEnt d x.idx
  else s.modEnt d x.idx fun e => { e with ran := true }

/-- A ping-pong update (10 R296). -/
def runPingPong (s : State) (d : Nat) (x : UdEnt) (g : List (List Val)) : State :=
  let r := x.rcd
  let ulx := leUlx x.words
  let o := s.readSlot d r (rcSlot r) (rcNstate r)
  match o.2 with
  | none => (o.1.peatTrouble d ulx (rcTag r)).resolveEnt d x.idx
  | some old =>
    let n := o.1.newArrays d x g old
    let s := o.1.accUpdate d x g old n.2
    match n.2 with
    | some _ => s.abandon d x clNfResult
    | none =>
      let w := s.writeSlot d r (1 - rcSlot r) n.1 (rcN r)
      if w.2 then w.1.publish d x (n.1.headD []) else (w.1.peatTrouble d ulx (rcTag r)).resolveEnt d x.idx

/-- An in-place update (10 R297, R298). -/
def runInplace (s : State) (d : Nat) (x : UdEnt) (g : List (List Val)) : State :=
  let r := x.rcd
  let ulx := leUlx x.words
  let obj := ulx + d * 2 ^ 16
  let p := s.setCommit d ulx fun w => nput w 61 61 1
  if !p.2 then (p.1.peatTrouble d ulx (rcTag r)).resolveEnt d x.idx
  else
    let s := p.1.jnlDevice 0xF002 obj x.t
    let o := s.readSlot d r (rcSlot r) (rcNstate r)
    match o.2 with
    | none => (o.1.peatTrouble d ulx (rcTag r)).resolveEnt d x.idx
    | some old =>
      let n := o.1.newArrays d x g old
      let s := o.1.accUpdate d x g old n.2
      match n.2 with
      | some 0 =>
        let q := s.setCommit d ulx fun w => nput w 61 61 0
        if q.2 then (q.1.jnlDevice 0xF003 obj (rcStep r)).abandon d x clNfResult else (q.1.peatTrouble d ulx (rcTag r)).resolveEnt d x.idx
      | some k =>
        let w := s.writeSlot d r (rcSlot r) n.1 (beforeBlock (rcK r) k)
        (((w.1.countTrouble d ulx (rcTag r) clNfResult).tear d ulx).resolveEnt d x.idx)
      | none =>
        let w := s.writeSlot d r (rcSlot r) n.1 (rcN r)
        if w.2 then w.1.publish d x (n.1.headD []) else (w.1.peatTrouble d ulx (rcTag r)).resolveEnt d x.idx

/-- A degraded mark of the current step names a tag (10 R299, R300). -/
def markedTag (s : State) (d tag : Nat) : Bool :=
  (List.range (s.rd (UD_MARKS d) fUD_MARKS_COUNT)).any fun i => s.rd (UD_MARK d i) fUD_MARK_TAG = tag

/-- An empty update commits at once, or once a checkpoint of its record has been read (10 R309, R313). -/
def runEmpty (s : State) (d : Nat) (x : UdEnt) : State :=
  let r := x.rcd
  let ulx := leUlx x.words
  if s.ckptReading d ulx then s
  else
    let p := s.commitVersion d ulx (if rcInplace r then rcSlot r else 1 - rcSlot r) x.t x.e
    if !p.2 then (p.1.peatTrouble d ulx (rcTag r)).resolveEnt d x.idx
    else
      let s := (p.1.bump (UD_UPDATES d) fUD_UPDATES_COUNT 1).emitCopies d r x.t [] (p.1.udBuf d) ulx (some x.idx) false
      s.resolveEnt d x.idx

/-- An UPDATE whose gradient is there runs (10 R288-R303). An in-place update that found no trouble in its gradient does not begin while the
journal has no slot for its opening (R297, 16 R493). -/
def runUpdate (s0 : State) (d : Nat) (x : UdEnt) : State :=
  let s := s0
  let r := x.rcd
  let ulx := leUlx x.words
  if Nat.land x.cls clTorn ≠ 0 then (s.countTrouble d ulx (rcTag r) x.cls).resolveEnt d x.idx
  else
    let mark := if s.markedTag d (rcTag r) then clDegraded else 0
    if rcN r = 0 then
      (if x.cls + mark ≠ 0 then s.abandon d x (x.cls + mark) else s.runEmpty d x)
    else
      let q := s.udTouch (gradRanges x.words r)
      let s := q.1
      if x.fail.isSome || q.2.isSome then s.abandon d x (x.cls + mark + clReadFail)
      else
        let g := s.grads x.rx x.words r
        let cls := x.cls + mark + (if g.any fun l => l.any fun v => !v.isFinite then clNfGrad else 0)
        if cls = 0 && rcInplace r && !s.jnlRoom then s0
        else
        let s := s.addExps d (rcLayer r) g
        if cls ≠ 0 then s.abandon d x cls
        else if rcInplace r then s.runInplace d x g
        else s.runPingPong d x g

/-- The entry's requests have all been answered and it has not run. -/
def entReady (x : UdEnt) : Bool := x.reqs.isEmpty && !x.ran

/-- An entry adds to its group's accumulators: a SCAN, or an UPDATE whose program has a NACC (10 R290, R307). -/
def accumulates (s : State) (d : Nat) (x : UdEnt) : Bool :=
  leKind x.words = 1 || (leKind x.words = 0 && rcRule x.rcd ≠ 0 && (s.ruleOf d (rcRule x.rcd)).2.2.any fun w => w / 2 ^ 26 % 64 = 0x11)

/-- An earlier entry still has to add to the group that this one adds to: the accumulations stay in list order (10 R285, R290). -/
def accWaits (s : State) (d : Nat) (x : UdEnt) : Bool :=
  s.accumulates d x && (s.ud d).ents.any fun y => decide (y.idx < x.idx) && !y.ran && leGrp y.words = leGrp x.words && s.accumulates d y

/-- An entry of a kind started if it is the next one, then run if it is ready and its turn in its group has come. -/
def advance (s : State) (d idx kind : Nat) (run : State → UdEnt → State) : State :=
  if 2 ≤ d then s
  else
    let s := match s.ent d idx with
      | some _ => s
      | none => s.startEntry d idx kind
    match s.ent d idx with
    | some x => if leKind x.words = kind && entReady x && !s.accWaits d x then run s x else s
    | none => s

/-- A SCAN whose gradient is there (10 R290, R306). A state read that fails tears the record (R301). Where the gradient or the state cannot be read, the spec gives the group no sum:
a free value (log entry 31). -/
def runScan (s : State) (d : Nat) (x : UdEnt) : State :=
  let r := x.rcd
  let grp := leGrp x.words
  let q := s.udTouch (gradRanges x.words r)
  let s := q.1
  let open_ := fun (s : State) =>
    ({ s with freeCtr := s.freeCtr + 1 }).wr (UD_NACC d (grp * 4)) fUD_NACC_VALUE (Config.norm s.freeCtr)
  if rcN r = 0 then s.resolveEnt d x.idx
  else if x.fail.isSome || q.2.isSome then (open_ s).resolveEnt d x.idx
  else
    let g := s.grads x.rx x.words r
    if rcRule r = 0 then
      ((g.flatMap blocks32).foldl (fun s blk => s.nacc d grp 0 (squareSum (blk.map f32rne))) s).resolveEnt d x.idx
    else
      let rule := s.ruleOf d (rcRule r)
      let c := s.udCtx d x
      let sread := nbitsAt rule.1 18 18 = 1
      let o := if sread then s.readSlot d r (rcSlot r) (rcNstate r) else (s, some [])
      match o.2 with
      | none => (open_ (o.1.peatTrouble d (leUlx x.words) (rcTag r))).resolveEnt d x.idx
      | some old => (o.1.accBlocks d grp c rule.2.1 (rcK r) g old (g.flatMap blocks32).length).resolveEnt d x.idx

/-- A NORM_OUT writes its group's accumulators and sets them to +0 (10 R290); the entry keeps the four values, for the report of its completion. -/
def runNormOut (s : State) (d : Nat) (x : UdEnt) : State :=
  let grp := leGrp x.words
  let v := (List.range 4).map fun a => s.rd (UD_NACC d (grp * 4 + a)) fUD_NACC_VALUE
  let w := s.udPut d (leAddr x.words) (v.flatMap (leBytes 8))
  let s := (List.range 4).foldl (fun s a => s.wr (UD_NACC d (grp * 4 + a)) fUD_NACC_VALUE 0) w.1
  s.modEnt d x.idx fun e => { e with ran := true, resolved := true, reqs := w.2.1, rcd := v }

/-- A NORM_IN reads four values into N0-N3 (10 R290); an unreadable block leaves them free (log entry 31). -/
def runNormIn (s : State) (d : Nat) (x : UdEnt) : State :=
  let a := leAddr x.words
  let q := s.udTouch [(a, 32)]
  let bad := x.fail.isSome || q.2.isSome
  let s := q.1
  let bytes := s.udPeek x.rx a 32
  let k := s.freeCtr
  let s := if bad then { s with freeCtr := k + 4 } else s
  let s := (List.range 4).foldl (fun s i =>
    s.wr (UD_NREG d i) fUD_NREG_VALUE (if bad then Config.norm (k + i) else ofLeBytes ((bytes.drop (8 * i)).take 8))) s
  s.resolveEnt d x.idx

/-- A walk that may start no more entries ends incomplete; records it holds never commit (10 R308, 14 R421). -/
def endStopped (s : State) (d : Nat) : State :=
  if s.on (UD_STATUS d) fUD_STATUS_WALKING && (s.ud d).stop && (s.ud d).ents.isEmpty then
    ((s.wr (UD_STATUS d) fUD_STATUS_WALKING 0).modUd d fun u =>
      { u with held := [], emits := u.emits.filter fun e => !e.held }).showHeld d
  else s

/-! ### The step fence -/

/-- The layer exponents set from SUM and COUNT (10 R293). -/
def fenceExps (s : State) (d : Nat) : State :=
  let emax := s.rd (UD_ECFG d) fUD_ECFG_EMAX
  let hyst := max 1 (s.rd (UD_ECFG d) fUD_ECFG_EHYST)
  (List.range 1024).foldl (fun s l =>
    let a := UD_LAYER d l
    let cnt := s.rd a fUD_LAYER_COUNT
    let raw := s.rd a fUD_LAYER_SUM
    let s' := (s.wr a fUD_LAYER_COUNT 0).wr a fUD_LAYER_SUM 0
    if s.on a fUD_LAYER_PIN || cnt = 0 then s'
    else
      let sum : Int := if raw < 2 ^ 31 then Int.ofNat raw else Int.ofNat raw - Int.ofNat (2 ^ 32)
      let tgt := layerTarget sum cnt emax
      let cur := sext8 (s.rd a fUD_LAYER_E)
      if hyst ≤ (tgt - cur).natAbs then s'.wr a fUD_LAYER_E ((tgt % 256).toNat) else s') s

/-- The rank of a gradient format (05 R137): 0 F8E4, 1 F8E5, 2 B16; and back. -/
def gfRank (code : Nat) : Nat := if code = 3 then 0 else if code = 4 then 1 else 2
def gfCode (rank : Nat) : Nat := if rank = 0 then 3 else if rank = 1 then 4 else 1

/-- The gradient format table's entry of a layer: its two words (05 R141). -/
def gfEntry (s : State) (l : Nat) : List Nat :=
  let b := s.hallPeek (s.sched.gbase + 16 * l) 16
  [ofLeBytes (b.take 8), ofLeBytes (b.drop 8)]

def gfPut (s : State) (l : Nat) (e : List Nat) : State :=
  (s.hallWrite (s.sched.gbase + 16 * l) ((e.take 2).flatMap (leBytes 8)) Hint.none).s

/-- Allowed formats of a layer and kind: bits by rank (05 R141). -/
def gfAllow (e : List Nat) (kind : Nat) : Nat := nbitsAt (entWord e 0) (19 + 4 * kind) (16 + 4 * kind)
def gfFmt (e : List Nat) (kind : Nat) : Nat := nbitsAt (entWord e 0) (11 + 4 * kind) (8 + 4 * kind)
def gfPin (e : List Nat) (kind : Nat) : Bool := nbitsAt (entWord e 0) (6 + kind) (6 + kind) = 1

/-- The nearest allowed rank above or below (05 R139). -/
def gfWider (allow rank : Nat) : Option Nat := [0, 1, 2].find? fun r => rank < r && allow / 2 ^ r % 2 = 1
def gfNarrower (allow rank : Nat) : Option Nat := [2, 1, 0].find? fun r => r < rank && allow / 2 ^ r % 2 = 1

/-- Sums of the step counters of the tallies bound to a layer and kind: elements, clipped, exhausted and non-finite blocks
(05 R126, R138). -/
def gfSums (s : State) (l kind : Nat) : List Nat :=
  let tags := (s.sched.gbinds.filter fun b => b.layer = l && b.kind = kind).flatMap fun b => b.tags
  ((s.cores.map (·.1)).filter s.coreOn).foldl (fun a b => (List.range 32).foldl (fun (a : List Nat) n =>
    if tags.contains (s.rd (TL_CFG b n) fTL_CFG_TAG) then
      [a.getD 0 0 + s.rd (TL_S_ELEM b n) fTL_S_ELEM_ELEMS,
        a.getD 1 0 + s.rd (TL_S_CLIPLO b n) fTL_S_CLIPLO_CLIPLO + s.rd (TL_S_CLIPHI b n) fTL_S_CLIPHI_CLIPHI,
        a.getD 2 0 + s.rd (TL_S_BLK2 b n) fTL_S_BLK2_EXH + s.rd (TL_S_BLK2 b n) fTL_S_BLK2_NF]
    else a) a) [0, 0, 0]

/-- A step counter of a clip tally: TL_S_ELEM to TL_S_BLK2 (05 R127, R149). -/
def stepCounter (a : Nat) : Bool :=
  match placeOf a with
  | some p => p.blk = .core && decide (0x2100 ≤ p.off) && decide (p.off < 0x2900) && decide (0x18 ≤ p.off % 0x40)
  | none => false

/-- The step counters of every tally, which firmware reads at a fence, are cleared (05 R127). -/
def gfClear (s : State) : State := ((s.regs.map (·.1)).filter stepCounter).foldl (fun s a => s.setReg a 0) s

/-- A decided format takes effect: the table and every field that the image binds (05 R137, R139). -/
def gfApply (s : State) (c : Nat × Nat × Nat) : State :=
  let l := c.1
  let kind := c.2.1
  let e := s.gfEntry l
  let s := s.gfPut l (nput (entWord e 0) (11 + 4 * kind) (8 + 4 * kind) c.2.2 :: e.drop 1)
  (s.sched.gbinds.filter fun b => b.layer = l && b.kind = kind).foldl (fun s b =>
    let s := b.profiles.foldl (fun s p =>
      if p.2.2 then s.wr (DR_PROF_A p.1 p.2.1) fDR_PROF_A_AUXF c.2.2 else s.wr (DR_PROF_A p.1 p.2.1) fDR_PROF_A_OFMT c.2.2) s
    b.descs.foldl (fun s p =>
      s.modCore p.1 fun k =>
        let w := k.locNat p.2.1 8
        k.locStore p.2.1 (leBytes 8 (if p.2.2 then nput w 55 52 c.2.2 else nput w 59 56 c.2.2))) s) s

/-- A layer and kind at a fence (05 R138, R139): history, cold run, and the change decided. DESIGN CHOICE (log entry 12): where 0 elements were
counted the clip share is 0/0, of which the spec says nothing, and the step is neither hot nor cold by it. -/
def gfKind (s : State) (l kind : Nat) (e : List Nat) (steps : Nat) : List Nat × Option Nat :=
  let v := s.gfSums l kind
  let clip := v.getD 1 0 * 65536
  let bad := v.getD 2 0 ≠ 0
  let hot := decide (s.sched.up * v.getD 0 0 < clip) || bad
  let cold := decide (clip < s.sched.down * v.getD 0 0) && !bad
  let hi := 47 + 16 * kind
  let hist := nbitsAt (entWord e 0) hi (hi - 15)
  let w0 := nput (entWord e 0) hi (hi - 15) (hist * 2 + (if hot then 1 else 0))
  let run := if cold then min 16 (nbitsAt (entWord e 1) (4 + 8 * kind) (8 * kind) + 1) else 0
  let rank := gfRank (gfFmt e kind)
  let free := !gfPin e kind && decide (16 ≤ steps)
  let up := if free && hot then gfWider (gfAllow e kind) rank else none
  let down := if free && run = 16 then gfNarrower (gfAllow e kind) rank else none
  let run := if down.isSome then 0 else run
  ([w0, nput (entWord e 1) (4 + 8 * kind) (8 * kind) run], (up.orElse fun _ => down).map gfCode)

/-- The gradient format table at a fence (05 R138-R140, R142): decided changes and new limits take effect, then the step counts. -/
def fenceFormats (s : State) : State :=
  let s := s.sched.pend.foldl gfApply s
  let s := { s with sched := { s.sched with
    pend := []
    up := (s.sched.limits.getD (s.sched.up, s.sched.down)).1
    down := (s.sched.limits.getD (s.sched.up, s.sched.down)).2
    limits := none } }
  let s := (List.range s.sched.glayers).foldl (fun s l =>
    let e := s.gfEntry l
    let steps := min 255 (nbitsAt (entWord e 0) 31 24 + 1)
    let e := nput (entWord e 0) 31 24 steps :: e.drop 1
    let a := s.gfKind l 0 e steps
    let w := s.gfKind l 1 a.1 steps
    let s := s.gfPut l w.1
    let add := (match a.2 with | some f => [(l, 0, f)] | none => []) ++ (match w.2 with | some f => [(l, 1, f)] | none => [])
    { s with sched := { s.sched with pend := s.sched.pend ++ add } }) s
  s.gfClear

/-- What firmware does when both dies have resolved a step (05 R138, 10 R293). -/
def stepFence (s : State) : State := ((s.fenceExps 0).fenceExps 1).fenceFormats

/-- A walk is done and resolved (10 R286, R303): STEP_DONE, the fence when the other die is done too, and the next walk with AUTO. -/
def stepDone (s : State) (d : Nat) : State :=
  let s := s.raise (UD_EVENTS d) fUD_EVENTS_STEP_DONE
  let n := s.udStep d
  let s := if (s.ud (1 - d)).resolved.contains n then
      (s.modUd (1 - d) fun u => { u with resolved := u.resolved.filter (· ≠ n) }).stepFence
    else s.modUd d fun u => { u with resolved := n :: u.resolved.filter (· ≠ n) }
  if s.on (UD_CTRL d) fUD_CTRL_AUTO && s.rd (UD_LISTBASE d) fUD_LISTBASE_LEN ≠ 0 then
    (s.wr (UD_STEP d) fUD_STEP_STEP ((n + 1) % 2 ^ 32)).modUd d fun u => { u with auto := true }
  else s

/-- The bits of STEP_REPORT that one die contributes (14 R420). -/
def reportBits (s : State) (d : Nat) : Nat :=
  (if s.on (UD_STATUS d) fUD_STATUS_TROUBLE_STEP then 1 else 0) + (if s.rd (UD_MARKS d) fUD_MARKS_COUNT ≠ 0 then 2 else 0)
    + (if (s.ud d).copyFail then 4 else 0)

/-- A walk has completed, holding or done: STEP_REPORT when both dies' have (14 R420). -/
def reportWalk (s : State) (d : Nat) : State :=
  let n := s.udStep d
  let bits := s.reportBits d
  match (s.ud (1 - d)).closed.find? fun x => x.1 = n with
  | some x => (s.modUd (1 - d) fun u => { u with closed := u.closed.filter fun y => y.1 ≠ n }).health 1 [n, Nat.lor bits x.2]
  | none => s.modUd d fun u => { u with closed := (n, bits) :: u.closed.filter fun y => y.1 ≠ n }

/-- A step that will run again: that one die has completed or resolved it counts no more towards a report or a fence (14 R421). -/
def dropClosed (s : State) (n : Nat) : State :=
  [0, 1].foldl (fun s d => s.modUd d fun u => { u with closed := u.closed.filter fun x => x.1 ≠ n, resolved := u.resolved.filter (· ≠ n) }) s

/-- A held record resolved (10 R303). -/
def resolveHeld (s : State) (d : Nat) (apply : Bool) (h : UdHeld) : State :=
  let own := fun (e : UdEmit) => e.held && e.owner = some h.idx
  let r := s.readRec d h.ulx
  if apply && !h.bad then
    match r.2 with
    | none => r.1.peatTrouble d h.ulx 0
    | some w =>
      let p := r.1.commitVersion d h.ulx (1 - rcSlot w) h.t h.e
      if !p.2 then (p.1.modUd d fun u => { u with emits := u.emits.filter fun e => !own e }).peatTrouble d h.ulx (rcTag w)
      else
      let s := (p.1.bump (UD_UPDATES d) fUD_UPDATES_COUNT 1).bump (UD_PARAMS d) fUD_PARAMS_COUNT (rcN w)
      s.modUd d fun u => { u with emits := u.emits.map fun e => if own e then { e with held := false, owner := none } else e }
  else
    let s := r.1.modUd d fun u => { u with emits := u.emits.filter fun e => !own e }
    match r.2 with
    | none => s.peatTrouble d h.ulx 0
    | some w =>
      let s := if h.bad then s else s.countTrouble d h.ulx (rcTag w) 0
      (s.raise (UD_EVENTS d) fUD_EVENTS_SKIP).reemit d h.ulx w (s.udBuf d) none

/-- The hold of a die is resolved (10 R303). -/
def resolveStep_ (s : State) (d : Nat) (apply : Bool) : State :=
  let s := (s.ud d).held.foldl (fun s h => s.resolveHeld d apply h) s
  let s := ((s.modUd d fun u => { u with held := [], due := false }).showHeld d).wr (UD_STATUS d) fUD_STATUS_HOLDING 0
  s.stepDone d

/-- A commit word that APPLY makes due waits while a checkpoint reads its record (10 R309). -/
def commitWaits (s : State) (d : Nat) : Bool := (s.ud d).held.any fun h => !h.bad && s.ckptReading d h.ulx

/-- UD_STEP_COMMIT on a die that is HOLDING (10 R303, R309). -/
def commitStep (s : State) (d : Nat) (apply : Bool) : State :=
  if apply && s.commitWaits d then s.modUd d fun u => { u with due := true } else s.resolveStep_ d apply

/-- The APPLY that waited for a checkpoint's reading (10 R309). -/
def commitDue (s : State) (d : Nat) : State := if (s.ud d).due && !s.commitWaits d then s.resolveStep_ d true else s

/-- Walk, entries, copies, held records and transfers of a die are lost (10 R311, R312): in-place updates leave torn records, which
the journal names where `journal` says (16 R494). -/
def udDrop (s : State) (d : Nat) (journal : Bool) : State :=
  let torn := ((s.ud d).ents.filter fun x => leKind x.words = 0 && rcInplace x.rcd && x.ran && !x.resolved).map fun x => leUlx x.words
  let s := torn.foldl (fun s u =>
    let s := s.tear d u
    if journal then s.jnlDevice 0xF004 (u + d * 2 ^ 16) (s.udStep d) else s) s
  let a := UD_STATUS d
  let s := (((s.wr a fUD_STATUS_WALKING 0).wr a fUD_STATUS_HOLDING 0).wr a fUD_STATUS_INFLIGHT 0).wr a fUD_STATUS_HELD 0
  s.modUd d fun u => { UdSt.reset with nextTag := u.nextTag, nextEmit := u.nextEmit }

end State

/-- WALK_START: the walk that AUTO has made due (10 R286). -/
def execWalkStart (die : Nat) (s : State) : Res :=
  .next (if die < 2 && (s.ud die).auto && s.on (UD_CTRL die) fUD_CTRL_EN && s.on (UD_STATUS die) fUD_STATUS_LINK_UP
      && !s.on (UD_STATUS die) fUD_STATUS_WALKING && !s.on (UD_STATUS die) fUD_STATUS_HOLDING then s.walkStart die else s)

/-- UPDATE: an entry starts, or runs once its gradient has come (10 R285, R288). -/
def execUpdate (die idx : Nat) (s : State) : Res := .next (s.advance die idx 0 fun s x => s.runUpdate die x)

/-- SCAN (10 R290). -/
def execScan (die idx : Nat) (s : State) : Res := .next (s.advance die idx 1 fun s x => s.runScan die x)

/-- NORM_OUT (10 R290, 14 R412). -/
def execNormOut (die idx : Nat) (s : State) : Res := .next (s.advance die idx 2 fun s x => s.runNormOut die x)

/-- NORM_IN (10 R290). -/
def execNormIn (die idx : Nat) (s : State) : Res := .next (s.advance die idx 3 fun s x => s.runNormIn die x)

/-- COMMIT_WORD: an update's state writes are acknowledged and no checkpoint reads its record (10 R296, R297, R309). A fence that catches the
word is PEAT_ECC (11 R339). -/
def execCommitWord (die idx : Nat) (s : State) : Res :=
  .next (match s.ent die idx with
    | none => s
    | some x =>
      let ulx := leUlx x.words
      let r := x.rcd
      if leKind x.words = 0 && x.ran && !x.resolved && !s.ckptReading die ulx && (!rcInplace r || s.jnlRoom) then
        let p := s.commitVersion die ulx (if rcInplace r then rcSlot r else 1 - rcSlot r) x.t x.e
        if !p.2 then (p.1.peatTrouble die ulx (rcTag r)).resolveEnt die idx
        else
          let s := (p.1.bump (UD_UPDATES die) fUD_UPDATES_COUNT 1).bump (UD_PARAMS die) fUD_PARAMS_COUNT (rcN r)
          let s := if rcInplace r then s.jnlDevice 0xF003 (ulx + die * 2 ^ 16) x.t else s
          s.resolveEnt die idx
      else s)

/-- COPY_EMISSION_COMPLETE: every write of a copy is answered (10 R295, R304). -/
def execCopyEmissionComplete (die id : Nat) (s : State) : Res :=
  .next (match (s.ud die).emits.find? fun e => e.id = id with
    | none => s
    | some e =>
      if e.reqs.isEmpty && !e.held then
        let s := s.modUd die fun u => { u with emits := u.emits.filter fun x => x.id ≠ id }
        if e.failed then (s.modUd die fun u => { u with copyFail := true }).raise (UD_EVENTS die) fUD_EVENTS_COPY_FAIL
        else s.udInc die e.ts
      else s)

/-- A NORM_OUT of a group that spans packages has completed: its four values go to the Ringmaster (14 R412). -/
def State.reportNorm (s : State) (die : Nat) (x : UdEnt) : State :=
  if leKind x.words ≠ 2 then s
  else (s.sched.norms.filter fun n => n.die = die && n.outAddr = leAddr x.words).foldl (fun s n => s.health 8 (n.group :: die :: x.rcd)) s

/-- An entry's outcome is resolved and every increment before it is sent (10 R286). -/
def State.entryComplete (s : State) (die idx : Nat) : State :=
  match s.ent die idx with
  | none => s
  | some x =>
    if x.resolved && x.reqs.isEmpty && !(s.ud die).emits.any (fun e => e.owner = some idx && !e.held) then
      let s := (s.modUd die fun u => { u with ents := u.ents.filter fun e => e.idx ≠ idx }).showFlight die
      let s := if leDoneEn x.words then s.udInc die (leDone x.words) else s
      let s := s.reportNorm die x
      let s := if (s.ud die).ents.isEmpty then s.bumpFree (UD_BUSY_CYC die) fUD_BUSY_CYC_COUNT else s
      s.endStopped die
    else s

/-- Every entry of a walk has completed (10 R286, R303). -/
def State.walkComplete (s : State) (die : Nat) : State :=
  if die < 2 && s.on (UD_STATUS die) fUD_STATUS_WALKING && (s.ud die).ents.isEmpty then
    if (s.ud die).stop then s.endStopped die
    else if s.rd (UD_LISTBASE die) fUD_LISTBASE_LEN ≤ s.rd (UD_STATUS die) fUD_STATUS_ENTRY then
      let s := (s.wr (UD_STATUS die) fUD_STATUS_WALKING 0).reportWalk die
      if (s.ud die).held.isEmpty then s.stepDone die
      else (s.wr (UD_STATUS die) fUD_STATUS_HOLDING 1).raise (UD_EVENTS die) fUD_EVENTS_HELD
    else s
  else s

/-- DEGRADED_MARK: the k-th mark on its way arrives and is recorded; the SNCHK that sent it completes once both dies have recorded
theirs (10 R300). -/
def execDegradedMark (k : Nat) (s : State) : Res :=
  .next (match s.marks[k]? with
    | none => s
    | some m =>
      let s := { s with marks := s.marks.eraseIdx k }
      let n := s.rd (UD_MARKS m.die) fUD_MARKS_COUNT
      let s := if n < 64 then
          let a := UD_MARK m.die n
          (((s.wr a fUD_MARK_VALID 1).wr a fUD_MARK_STEP (s.udStep m.die)).wr a fUD_MARK_TAG m.tag).wr (UD_MARKS m.die) fUD_MARKS_COUNT (n + 1)
        else (s.wr (UD_MARKS m.die) fUD_MARKS_OVF 1).raise (UD_EVENTS m.die) fUD_EVENTS_MARK_OVF
      if s.marks.any fun x => x.core = m.core && x.ord = m.ord then s
      else
        let js := (s.core m.core).jobs.filter fun j => j.kind = .mark && j.args.head? = some m.ord
        js.foldl (fun s j =>
          let s := s.dropJob m.core j.ord
          if j.args.getD 1 0 = 1 then s.finish m.core j.iss else s.sigIncs m.core j.iss) s)

end Sys2Proof.Machine
end

