-- ==== Sys2Proof/Machine/UdCommands.lean ====
section
/-!
DEFINITION. Machine/UdCommands.lean: the commands on the update dies (10 R308, R309), their checkpoints and restores, the gradient format
commands (05 R142), what starts do to the records (10 R311), compaction's end (11 R331, R339, 12 R362).
-/

namespace Sys2Proof.Machine

/-- Statuses of table R308 (16 R490). -/
def stUdBusy : Nat := 0x0A01
def stUdHeld : Nat := 0x0A02
def stUdNotHeld : Nat := 0x0A03
def stUdShape : Nat := 0x0A04
def stUdTorn : Nat := 0x0A05

/-- The status of GFMT_PIN's refusal (05 R142, 16 R490). -/
def stGfmtNotAllowed : Nat := 0x0501

/-- Status of a checkpoint or restore whose tensor cannot be moved; the data-mover status is its DETAIL (log entry 30). -/
def csUdMove : Nat := Config.statusCode 15

/-- The dies that a mask names. -/
def maskDies (m : Nat) : List Nat := [0, 1].filter fun d => m / 2 ^ d % 2 = 1

namespace State

/-- A refusal shown in UD_FAULT of the dies concerned (10 R315). -/
def udRefuse (s : State) (ds : List Nat) (st : Nat) : State × Ans :=
  (ds.foldl (fun s d =>
    let a := UD_FAULT d
    (((s.wr a fUD_FAULT_CODE st).wr a fUD_FAULT_ENTRY 0).wr a fUD_FAULT_STEP (s.udStep d)).raise (UD_EVENTS d) fUD_EVENTS_FAULT) s,
    .refused st)

/-- A die without a live channel refuses every command with UD_LAYOUT (11 R334). -/
def noMem (s : State) (d : Nat) : Bool := s.rd (PT_STATUS d) fPT_STATUS_STATE = 4

/-- A command on a mask of dies: refused with UD_DISABLED while one of them is disabled, or with a status of the command (10 R308). -/
def onDies (s : State) (mask : Nat) (refused : State → Nat → Option Nat) (f : State → Nat → State) : State × Ans :=
  let ds := maskDies mask
  if ds.any s.noMem then s.udRefuse ds csLayout
  else if ds.any fun d => !s.on (UD_CTRL d) fUD_CTRL_EN then s.udRefuse ds csUdDisabled
  else match ds.findSome? (refused s) with
    | some st => s.udRefuse ds st
    | none => (ds.foldl f s, .done 0 [])

/-- A command on one record: a die or record that does not exist is a bad argument (10 R308). -/
def onRec (s : State) (d ulx : Nat) (f : State → Option (List Nat) → State × Ans) : State × Ans :=
  if 2 ≤ d then (s, .failed stBadArgs 0 [])
  else if s.noMem d then s.udRefuse [d] csLayout
  else if !s.on (UD_CTRL d) fUD_CTRL_EN then s.udRefuse [d] csUdDisabled
  else if s.rd (UD_RECBASE d) fUD_RECBASE_NREC ≤ ulx then (s, .failed stBadArgs 0 [])
  else
    let r := s.readRec d ulx
    f r.1 r.2

def udStepBegin (a : List Nat) (s : State) : State × Ans :=
  s.onDies (a.getD 0 0) (fun s d =>
      if s.on (UD_STATUS d) fUD_STATUS_WALKING then some stUdBusy
      else if s.on (UD_STATUS d) fUD_STATUS_HOLDING then some stUdHeld else none)
    fun s d => (s.wr (UD_STEP d) fUD_STEP_STEP (a.getD 1 0)).walkStart d

def udStepCommit (a : List Nat) (s : State) : State × Ans :=
  s.onDies (a.getD 0 0) (fun s d => if s.on (UD_STATUS d) fUD_STATUS_HOLDING then none else some stUdNotHeld)
    fun s d => s.commitStep d (a.getD 1 0 = 1)

def udStop (a : List Nat) (s : State) : State × Ans :=
  s.onDies (a.getD 0 0) (fun _ _ => none)
    fun s d =>
      if s.on (UD_STATUS d) fUD_STATUS_WALKING then ((s.modUd d fun u => { u with stop := true }).endStopped d).dropClosed (s.udStep d)
      else s.modUd d fun u => { u with auto := false }

/-- A checkpoint or restore begins with the translation of its tensor (10 R309, 12 R353). -/
def startXfer (s : State) (seq d ulx id : Nat) (restore master : Bool) : State × Ans :=
  let t := s.translateUd (id % 2 ^ 21) restore
  (t.1.modUd d fun u => { u with xfers := u.xfers ++ [⟨seq, restore, master, ulx, id % 2 ^ 21, t.2, false, [], [], none, s.beat⟩] }, .waits)

def udRestore (seq : Nat) (a : List Nat) (s : State) : State × Ans :=
  let d := a.getD 0 0
  let ulx := a.getD 1 0
  s.onRec d ulx fun s r =>
    match r with
    | none => s.udRefuse [d] stUdTorn
    | some w =>
      if s.updBusy d ulx || s.updHeld d ulx || (s.ud d).xfers.any (fun x => x.ulx = ulx) then s.udRefuse [d] stUdBusy
      else if !rcValid w then s.udRefuse [d] stUdShape
      else match s.recCheck d w with
        | some c => s.udRefuse [d] c
        | none => s.startXfer seq d ulx (a.getD 2 0) true (a.getD 3 0 = 1)

def udCkpt (seq : Nat) (a : List Nat) (s : State) : State × Ans :=
  let d := a.getD 0 0
  let ulx := a.getD 1 0
  s.onRec d ulx fun s r =>
    match r with
    | none => s.udRefuse [d] stUdTorn
    | some w =>
      if rcTorn w then s.udRefuse [d] stUdTorn
      else if (rcInplace w && s.updBusy d ulx) || (s.ud d).xfers.any (fun x => x.ulx = ulx) then s.udRefuse [d] stUdBusy
      else s.startXfer seq d ulx (a.getD 2 0) false false

def udReemit (a : List Nat) (s : State) : State × Ans :=
  let d := a.getD 0 0
  let ulx := a.getD 1 0
  s.onRec d ulx fun s r =>
    match r with
    | none => s.udRefuse [d] stUdTorn
    | some w =>
      if rcTorn w then s.udRefuse [d] stUdTorn
      else if s.updBusy d ulx then s.udRefuse [d] stUdBusy
      else (s.reemit d ulx w (a.getD 2 0 % 2) none, .done 0 [])

def udAcceptTorn (a : List Nat) (s : State) : State × Ans :=
  let d := a.getD 0 0
  s.onRec d (a.getD 1 0) fun s _ => (s.putCommit d (a.getD 1 0) fun w => nput w 62 62 0, .done 0 [])

def udSetExp (a : List Nat) (s : State) : State × Ans :=
  s.onDies (a.getD 0 0) (fun _ _ => none) fun s d =>
    let r := UD_LAYER d (a.getD 1 0 % 1024)
    (s.wr r fUD_LAYER_E (a.getD 2 0)).wr r fUD_LAYER_PIN (a.getD 3 0)

def udQuery (a : List Nat) (s : State) : State × Ans :=
  let d := a.getD 0 0
  let ulx := a.getD 1 0
  s.onRec d ulx fun s r =>
    let busy := s.updBusy d ulx || (s.ud d).xfers.any fun x => x.ulx = ulx
    (s, .done 0 (r.getD (List.replicate 8 0) ++ [(if busy then 1 else 0) + if s.updHeld d ulx then 2 else 0]))

/-! ### Checkpoint and restore transfers -/

/-- The tensor's bytes that a transfer moves: the header and one slot (10 R309). -/
def xferLen (r : List Nat) : Nat := 64 + (slotArrays (rcN r) (rcNstate r) (rcCompact r)).2

/-- The sequence number of the k-th record that a closing epoch moves (14 R428): above those of commands (16 R486). -/
def migrSeq (k : Nat) : Nat := 2 ^ 64 + k

/-- A record's move has ended (14 R428): one that is done frees the record that its old owner gave, any other is tried again. -/
def migrEnd (s : State) (k : Nat) (ok : Bool) : State :=
  match s.pkg.migr[k]? with
  | none => s
  | some m =>
    let s := s.modPkg fun p => { p with migr := p.migr.set k (m.1, if ok then 2 else 0) }
    if ok && m.1.give then s.putCommit m.1.die m.1.ulx fun w => nput w 63 63 0 else s

/-- A transfer ends: the use of the directory entry, a commit that waited for it, the event, the command (10 R309, R315, 12 R355), or firmware's move
of a record (14 R428). -/
def endXfer (s : State) (d : Nat) (x : UdXfer) (outcome status detail : Nat) : State :=
  let s := ((s.modUd d fun u => { u with xfers := u.xfers.filter fun y => y.seq ≠ x.seq }).endTrans x.trans).commitDue d
  let s := if outcome = ocDone then s.raise (UD_EVENTS d) fUD_EVENTS_CKPT_DONE else (s.udRefuse [d] status).1
  match s.pkg.cmds.find? fun c => c.seq = x.seq with
  | some c => s.finishCmd c outcome status detail []
  | none => if 2 ^ 64 ≤ x.seq then s.migrEnd (x.seq - 2 ^ 64) (outcome = ocDone) else s

/-- A tensor in the peat tier lies on the die that moves it (12 R354). -/
def ownPeat (s : State) (d addr : Nat) : Bool := s.isLocal addr && hallTier addr = 1 && hallOff addr / 2 ^ 40 = d

/-- A tensor in the peat tier of another die or package's is REFUSED to this one: DM_UNMAPPED (12 R346, R354, 11 R320, R336). -/
def foreignPeat (s : State) (d addr : Nat) : Bool := s.isLocal addr && hallTier addr = 1 && !s.ownPeat d addr

/-- A transfer's bytes written to its tensor, in the die's own modules or elsewhere. -/
def xferPut (s : State) (d addr : Nat) (data : List Nat) : State × List MoveReq × Bool :=
  if s.ownPeat d addr then
    let w := s.udWrite d (hallOff addr % 2 ^ 40) data
    (w.s, [], w.st ≠ rsOk)
  else s.udPut d addr data

/-- A transfer's bytes read from its tensor: none where a read of this package fails. -/
def xferGet (s : State) (d addr n : Nat) (rx : List (Nat × Byte)) : State × Option (List Nat) :=
  if s.ownPeat d addr then
    let w := s.udRead d (hallOff addr % 2 ^ 40) n
    (w.s, if w.st = rsOk then some w.data else none)
  else
    let t := s.udTouch [(addr, n)]
    (t.1, if t.2.isSome then none else some (t.1.udPeek rx addr n))

/-- A checkpoint's data leave for the tensor (10 R309). An uncorrectable read of the state tears the record (R301). -/
def sendCkpt (s : State) (d : Nat) (x : UdXfer) (addr len : Nat) : State :=
  let r := s.readRec d x.ulx
  match r.2 with
  | none => r.1.endXfer d x ocFailed csUdMove 0x02
  | some w =>
    if len < xferLen w then r.1.endXfer d x ocRefused stUdShape 0
    else
      let size := (slotArrays (rcN w) (rcNstate w) (rcCompact w)).2
      let b := r.1.udRead d (rcSlotBase w (rcSlot w)) size
      if b.st ≠ rsOk then (b.s.peatTrouble d x.ulx (rcTag w)).endXfer d x ocFailed csUdMove 0x02
      else
        let p := b.s.xferPut d addr (w.flatMap (leBytes 8) ++ b.data)
        let s := p.1.setXfer d x.seq fun y => { y with sent := true, reqs := p.2.1, fail := if p.2.2 then some (udDmFail 0x04) else none }
        if p.2.1.isEmpty then
          (if p.2.2 then s.endXfer d x ocFailed csUdMove 0x04 else s.endXfer d x ocDone 0 0)
        else s

/-- A restore's data have come: shape checked, slot 0 written, then the commit word (10 R309). -/
def applyRestore (s : State) (d : Nat) (x : UdXfer) (addr len : Nat) : State :=
  let r := s.readRec d x.ulx
  match r.2 with
  | none => r.1.endXfer d x ocFailed csUdMove 0x02
  | some w =>
    let need := if x.masterOnly then 64 + 4 * rcN w else xferLen w
    let t := r.1.xferGet d addr (min need len) x.rx
    let s := t.1
    match x.fail, t.2 with
    | some f, _ => s.endXfer d x ocFailed csUdMove (udDmOf f)
    | none, none => s.endXfer d x ocFailed csUdMove 0x02
    | none, some bytes =>
      let h := words8 (bytes.take 64)
      let same := rcRows h = rcRows w && rcK h = rcK w && (x.masterOnly || (rcNstate h = rcNstate w && rcCompact h = rcCompact w))
      if len < need || !same then s.endXfer d x ocRefused stUdShape 0
      else
        let size := (slotArrays (rcN w) (rcNstate w) (rcCompact w)).2
        let body := bytes.drop 64
        let data := body.take size ++ List.replicate (size - body.length) 0
        let p := s.udWrite d (rcSlotBase w 0) data
        if p.st ≠ rsOk then p.s.endXfer d x ocFailed csUdMove 0x02
        else
          let step := if x.masterOnly then 0 else rcStep h
          let e := if x.masterOnly then 0 else rcEstored h
          let q := p.s.commitVersion d x.ulx 0 step e
          if !q.2 then (q.1.peatTrouble d x.ulx (rcTag w)).endXfer d x ocFailed csUdMove 0x02
          else ((q.1.putCommit d x.ulx fun c => nput c 62 62 0)).endXfer d x ocDone 0 0

/-- A transfer goes on as far as it can. A tensor that is not valid or LOST refuses the command with UD_SHAPE (12 R354). -/
def runXfer (s : State) (d : Nat) (x : UdXfer) : State :=
  match x.trans with
  | .failed st => if st = stUdShape then s.endXfer d x ocRefused stUdShape 0 else s.endXfer d x ocFailed csUdMove st
  | .found _ _ _ addr len =>
    if !x.reqs.isEmpty then s
    else if s.foreignPeat d addr then s.endXfer d x ocFailed csUdMove 0x01
    else if x.sent then
      (if x.restore then s.applyRestore d x addr len
        else match x.fail with
          | some f => s.endXfer d x ocFailed csUdMove (udDmOf f)
          | none => s.endXfer d x ocDone 0 0)
    else if !x.restore then s.sendCkpt d x addr len
    else if s.isLocal addr then s.applyRestore d x addr len
    else
      let q := s.udRequest d [(addr, len)]
      q.1.setXfer d x.seq fun y => { y with sent := true, reqs := q.2.1, fail := if q.2.2 then some (udDmFail 0x04) else none }
  | _ => s

/-- An end of a Sedge link resets (10 R312, 16 R497): every request outstanding ends PARTNER_RESET, and checkpoints and restores with them. -/
def linkReset (s : State) (die : Nat) : State :=
  let n := (s.udReqs die).length
  let s := (s.ud die).xfers.foldl (fun s x => s.endXfer die x ocFailed csUdMove 0x05) (s.retire (288 + die) (s.udReqs die))
  let s := (s.udDrop die true).raise (UD_EVENTS die) fUD_EVENTS_PARTNER_RESET
  let s := (s.bump PKG_PRESET fPKG_PRESET_COUNT n).raise PKG_EVENTS fPKG_EVENTS_PARTNER_RESET
  s.jnlDevice 0xF005 (4 + die) n

/-! ### Starts -/

/-- Records caught by a start in an in-place update become torn, which the journal names (10 R298, R311, 16 R494). -/
def tearOpen (s : State) (d : Nat) : State :=
  (List.range (s.rd (UD_RECBASE d) fUD_RECBASE_NREC)).foldl (fun s u =>
    let r := s.readRec d u
    match r.2 with
    | some w => if rcValid w && rcInprog w then (r.1.tear d u).jnlDevice 0xF004 (u + d * 2 ^ 16) (rcStep w) else r.1
    | none => r.1) s

/-- Records whose slots reach above the range become torn after a compaction (11 R339). -/
def tearAbove (s : State) (d : Nat) : State :=
  (List.range (s.rd (UD_RECBASE d) fUD_RECBASE_NREC)).foldl (fun s u =>
    let r := s.readRec d u
    match r.2 with
    | some w => if rcValid w && decide (r.1.dieRange d < rcTop w) then r.1.tear d u else r.1
    | none => r.1) s

/-! ### Gradient format commands -/

def gfmtQuery (a : List Nat) (s : State) : State × Ans :=
  if s.sched.glayers ≤ a.getD 0 0 then (s, .failed stBadArgs 0 []) else (s, .done 0 (s.gfEntry (a.getD 0 0)))

def gfmtPin (a : List Nat) (s : State) : State × Ans :=
  let l := a.getD 0 0
  let kind := a.getD 1 0
  if s.sched.glayers ≤ l || 2 ≤ kind then (s, .failed stBadArgs 0 [])
  else
    let e := s.gfEntry l
    let f := a.getD 2 0
    if !(f = 1 || f = 3 || f = 4) || gfAllow e kind / 2 ^ gfRank f % 2 = 0 then s.refuse stGfmtNotAllowed
    else
      let s := s.gfPut l (nput (entWord e 0) (6 + kind) (6 + kind) 1 :: e.drop 1)
      ({ s with sched := { s.sched with
          pend := (s.sched.pend.filter fun p => !(p.1 = l && p.2.1 = kind)) ++ [(l, kind, f)] } }, .done 0 [])

def gfmtRelease (a : List Nat) (s : State) : State × Ans :=
  let l := a.getD 0 0
  let kind := a.getD 1 0
  if s.sched.glayers ≤ l || 2 ≤ kind then (s, .failed stBadArgs 0 [])
  else
    let e := s.gfEntry l
    (s.gfPut l (nput (entWord e 0) (6 + kind) (6 + kind) 0 :: e.drop 1), .done 0 [])

def gfmtLimits (a : List Nat) (s : State) : State × Ans :=
  ({ s with sched := { s.sched with limits := some (a.getD 0 0 % 2 ^ 16, a.getD 1 0 % 2 ^ 16) } }, .done 0 [])

/-- The sequence number that a command row runs under. -/
def viaSeq (s : State) : Via → Nat
  | .taken q => q
  | .arrives _ _ _ => s.rd JNL_HEAD fJNL_HEAD_SEQ + 1

end State

/-- SEDGE_LINK_RESET (10 R312, 16 R497). -/
def execSedgeLinkReset (die : Nat) (s : State) : Res := .next (if die < 2 then s.linkReset die else s)

/-- UD_STEP_BEGIN (10 R308). -/
def execUdStepBegin (via : Via) (s : State) : Res := .next (s.command 0x0A00 via State.udStepBegin)

/-- UD_STEP_COMMIT (10 R303, R308). -/
def execUdStepCommit (via : Via) (s : State) : Res := .next (s.command 0x0A01 via State.udStepCommit)

/-- UD_STOP (10 R308). -/
def execUdStop (via : Via) (s : State) : Res := .next (s.command 0x0A02 via State.udStop)

/-- UD_RESTORE (10 R309): waits for CKPT_DONE. -/
def execUdRestore (via : Via) (s : State) : Res := .next (s.command 0x0A03 via (State.udRestore (s.viaSeq via)))

/-- UD_CKPT (10 R309): waits for CKPT_DONE. -/
def execUdCkpt (via : Via) (s : State) : Res := .next (s.command 0x0A04 via (State.udCkpt (s.viaSeq via)))

/-- UD_REEMIT (10 R308). -/
def execUdReemit (via : Via) (s : State) : Res := .next (s.command 0x0A05 via State.udReemit)

/-- UD_ACCEPT_TORN (10 R308). -/
def execUdAcceptTorn (via : Via) (s : State) : Res := .next (s.command 0x0A06 via State.udAcceptTorn)

/-- UD_SET_EXP (10 R308). -/
def execUdSetExp (via : Via) (s : State) : Res := .next (s.command 0x0A07 via State.udSetExp)

/-- UD_QUERY (10 R308). -/
def execUdQuery (via : Via) (s : State) : Res := .next (s.command 0x0A08 via State.udQuery)

/-- The oldest transfer of a die goes on, and completes once its data have moved (10 R309). -/
def State.ckptDone (s : State) (die : Nat) : State :=
  match (s.ud die).xfers with
  | [] => s
  | x :: _ => s.runXfer die x

/-- COMPACTION_COMPLETE of a unit: sites 0-9, dies 10 and 11 (11 R331, R339, 12 R362). -/
def execCompactionComplete (unit : Nat) (s : State) : Res :=
  .next (if unit < 10 then
      (if s.on (MEM_STATUS unit) fMEM_STATUS_COMPACTING then (s.compactDone unit).dirRebuild unit else s)
    else if unit < 12 then
      (if s.on (PT_STATUS (unit - 10)) fPT_STATUS_COMPACTING then (s.dieCompactDone (unit - 10)).tearAbove (unit - 10) else s)
    else s)

/-- GFMT_QUERY (05 R142). -/
def execGfmtQuery (via : Via) (s : State) : Res := .next (s.command 0x0500 via State.gfmtQuery)

/-- GFMT_PIN (05 R142). -/
def execGfmtPin (via : Via) (s : State) : Res := .next (s.command 0x0501 via State.gfmtPin)

/-- GFMT_RELEASE (05 R142). -/
def execGfmtRelease (via : Via) (s : State) : Res := .next (s.command 0x0502 via State.gfmtRelease)

/-- GFMT_LIMITS: in effect at the next fence (05 R142). -/
def execGfmtLimits (via : Via) (s : State) : Res := .next (s.command 0x0503 via State.gfmtLimits)

end Sys2Proof.Machine
end

