-- ==== Sys2Proof/Machine/MemRows.lean ====
section
/-!
DEFINITION. Machine/MemRows.lean: the rows of the memories and of the tensor directory (chapters 11 and 12): accesses that arrive at
a site, a die or a far-tier port, fills, faults, scrubs, walks, timeouts. An access carries a number of its sender's, which
the answer repeats.
-/

namespace Sys2Proof.Machine

/-- The answer to a memory request leaves. -/
def answer (id : Nat) (r : Rsp) : State := r.s.emit (.answer id r.st r.data)

namespace State

/-- An uncorrectable error of the cache's own storage: the resident line goes (11 R325). -/
def cacheError (s : State) (off : Nat) : State :=
  let site := off / 2 ^ 38
  let line := off % 2 ^ 38 / 64
  if (s.cached site line).isNone || !s.cen site then s
  else
    let s := (s.evict site line).bump (MEM_C_ERR site) fMEM_C_ERR_COUNT 1
    let s := (s.wr (MEM_ERR_LAST site) fMEM_ERR_LAST_KIND 4).wr (MEM_ERR_LAST site) fMEM_ERR_LAST_CH (chanOf (s.siteLive site) line)
    let s := (s.wr (MEM_ERR_LAST site) fMEM_ERR_LAST_PC (line % 2)).wr (MEM_ERR_LAST site) fMEM_ERR_LAST_SYMBOL 255
    (s.wr (MEM_ERR_ADDR site) fMEM_ERR_ADDR_OFFSET (line * 64)).raise (MEM_EVENTS site) fMEM_EVENTS_CACHE_ERR

end State

/-- A read arrives at a stack site (11 R320-R326): offset, length, hint, use count; symbols of its first line that have changed
since, and whether that line's cached copy has an error of its own (R325). -/
def execStackRead (id addr len hint use : Nat) (errs : List (Nat × Nat)) (cacheErr : Bool) (s : State) : Res :=
  .next (
    let s := s.disturb (addr / 2 ^ 38) (addr % 2 ^ 38 / 64) errs
    let s := if cacheErr then s.cacheError addr else s
    answer id (s.stackRead addr len ⟨hint % 4, use % 16, false⟩))

/-- A write arrives at a stack site and is written through (11 R321, R322). -/
def execStackWrite (id addr hint use : Nat) (data : List Nat) (s : State) : Res :=
  .next (answer id (s.stackWrite addr data ⟨hint % 4, use % 16, false⟩))

/-- The value an atomic stores (13 R381): operation, old value, operand, compare value, size in bits. -/
def atomicFn (aop old op cmp bits : Nat) : Nat :=
  match aop with
  | 0 => (old + op) % 2 ^ bits
  | 1 => op
  | 2 => if old = cmp then op else old
  | 3 => Nat.land old op
  | 4 => Nat.lor old op
  | 5 => Nat.xor old op
  | 6 => max old op
  | _ => min old op

/-- An atomic of `size` bytes at a stack-tier offset (11 R325, 13 R381): the response carries the old value. -/
def State.atomic (s : State) (off aop size op cmp : Nat) : Rsp :=
  if 8 ≤ aop || off % size ≠ 0 || s.inDirRange off then ⟨s.countUnmapped off, rsUnmapped, []⟩
  else
    let r := s.stackRead off size Hint.none
    if r.st ≠ rsOk then r
    else
      let bits := 8 * size
      let v := atomicFn aop (ofLeBytes r.data) (op % 2 ^ bits) (cmp % 2 ^ bits) bits
      let w := r.s.stackWrite off (leBytes size v) Hint.none
      ⟨w.s, w.st, if w.st = rsOk then r.data else []⟩

/-- An atomic arrives at a stack site (11 R325, 13 R381). -/
def execStackAtomic (id addr aop : Nat) (wide : Bool) (op cmp : Nat) (s : State) : Res :=
  .next (answer id (s.atomic addr aop (if wide then 8 else 4) op cmp))

/-- A fill on its way lands in the stack cache (11 R324). -/
def execCacheFill (k : Nat) (s : State) : Res :=
  .next (match s.mem.fills[k]? with
    | none => s
    | some l => s.landFill l)

/-- A stack reports a fault of a channel, or stops answering (11 R328, R332). -/
def execStackFault (site ch : Nat) (dead : Bool) (s : State) : Res :=
  .next (
    if 10 ≤ site || s.siteState site = 0 then s
    else if dead then (s.wr (MEM_STATUS site) fMEM_STATUS_STATE 4).dropLines fun l => l.site = site
    else if ch < 32 then s.fenceSite site ch 5 else s)

/-- One step of a unit's scrub (11 R327, R337): the next mapped line is read past the cache and rewritten when it was corrected;
symbols or devices of it may have changed. -/
def execScrubRead (unit : Nat) (errs : List (Nat × Nat)) (s : State) : Res :=
  .next (
    let line := sget 0 unit s.mem.scrubAt
    let site := unit < 10
    let range := if site then s.siteRange unit else s.dieRange (unit - 10)
    let period := if site then s.rd (MEM_SCRUB unit) fMEM_SCRUB_PERIOD else s.rd (PT_SCRUB (unit - 10)) fPT_SCRUB_PERIOD
    let gate := if site then s.stackGate (unit * 2 ^ 38 + line * 64) else s.peatGate (unit - 10) (line * 64)
    if 12 ≤ unit || range = 0 || period = 0 || (if site then s.on (MEM_STATUS unit) fMEM_STATUS_COMPACTING
        else s.on (PT_STATUS (unit - 10)) fPT_STATUS_COMPACTING) then s
    else
      let s := s.disturb unit line errs
      let r : Rsp := if gate ≠ rsOk then ⟨s, gate, []⟩
        else if site then s.dramRead unit line false else s.peatReadLine (unit - 10) (line * 64)
      let fix := decide (r.st = rsOk) && (if site then (match eccDecode (s.lineErrs unit line) with | .fixed _ _ => true | _ => false)
        else (s.lineErrs unit line).length = 1)
      let s := if !fix then r.s
        else if site then (r.s.lineClean unit line).modMem fun m => { m with stack := memStore m.stack (unit * 2 ^ 38 + line * 64) r.data }
        else r.s.lineClean unit line
      let done := decide (range ≤ (line + 1) * 64)
      let s := s.modMem fun m => { m with scrubAt := sput 0 unit (if done then 0 else line + 1) m.scrubAt }
      if !done then s
      else if site then s.raise (MEM_EVENTS unit) fMEM_EVENTS_SCRUB_PASS else s.raise (PT_EVENTS (unit - 10)) fPT_EVENTS_SCRUB_PASS)

/-- The stack's own corrected-error counts are read (11 R316). -/
def execStackCeReadout (site n : Nat) (s : State) : Res :=
  .next (if 10 ≤ site || s.siteState site = 0 then s else s.bump (MEM_DIE_CE site) fMEM_DIE_CE_COUNT n)

/-- An access to a peat-tier offset (11 R336): `who` is the requester's endpoint (288 UD0, 289 UD1, 291 firmware); devices of
its first line may have changed. -/
def execPeatAccess (id who addr : Nat) (write : Bool) (len : Nat) (data : List Nat) (errs : List (Nat × Nat)) (s : State) : Res :=
  .next (
    let d := addr / 2 ^ 40
    let s := s.disturb (10 + d) (addr % 2 ^ 40 / 64) errs
    if (who = 288 + d && d < 2) || who = 291 then
      answer id (if write then s.peatWrite d (addr % 2 ^ 40) data else s.peatRead d (addr % 2 ^ 40) len)
    else answer id (s.peatForeign addr))

/-- A module's temperature is read over its sideband (11 R338): at 85 C or more refresh runs at twice the rate. -/
def execModuleTemperatureRead (die ch temp : Nat) (s : State) : Res :=
  .next (
    if 2 ≤ die || 4 ≤ ch || s.rd (PT_CH_INFO die ch) fPT_CH_INFO_CAP = 0 then s
    else
      let u := 16 + die * 4 + ch
      let s := s.wr (PT_CH_INFO die ch) fPT_CH_INFO_TEMP (min 255 temp)
      if 85 ≤ temp then
        (s.modMem fun m => { m with hot := setIns u m.hot }).raise (PT_EVENTS die) fPT_EVENTS_TEMP_HIGH
      else s.modMem fun m => { m with hot := m.hot.filter (· ≠ u) })

/-- A module reports a fault of its channel (11 R328, R339, R345). -/
def execModuleReportedFault (die ch : Nat) (s : State) : Res :=
  .next (if 2 ≤ die || 4 ≤ ch then s else s.fenceDie die ch 5)

/-- A request reaches the CXL port of a far-tier offset (12 R347); `bad`: the device has lost the first line. -/
def execFarTierAccess (id addr : Nat) (write : Bool) (len : Nat) (data : List Nat) (bad : Bool) (s : State) : Res :=
  .next (
    let s := if bad then s.modMem fun m => { m with farBad := setIns (addr / 64) m.farBad } else s
    answer id (if write then s.farWrite addr data else s.farRead addr len))

/-- The tier of a move's MOVING wait (12 R354, R358). -/
def waitTier (s : State) (id : Nat) : Nat :=
  match s.dirEnt id with
  | some e => entTier e.words
  | none => 0

/-- The tiers of this package that a move reads or writes (12 R346). -/
def moveTiersOf (s : State) (j : Job) : List Nat :=
  let m := mvOf j.args
  let l := if m.kind = 1 then
      (match j.trans with
        | .found _ _ _ addr _ => addr :: (if (State.tensorOther m).1 then [(State.tensorOther m).2] else [])
        | _ => [])
    else (if m.sspc then (m.srcRows.flatMap fun x => m.srcRanges x.1 x.2.1).map (·.1) else [])
      ++ (if m.dspc then (m.rows.flatMap m.dstRanges).map (·.1) else [])
  (l.filter s.isLocal).map State.hallTier

/-- The tiers of this package that an update-list entry asks: its gradient's, or its norm block's (10 R284). -/
def entTiers (s : State) (x : UdEnt) : List Nat :=
  let l := if leKind x.words < 2 then (State.gradRanges x.words x.rcd).map (·.1) else [leAddr x.words]
  (l.filter s.isLocal).map State.hallTier

/-- A request of an update die has outrun its tier's timeout (12 R358, R359, 10 R299, R304): at the remote tier by its tag; at the stack or
far tier by `what` asked, an entry (0), a working copy (1), a transfer (2), numbered `ord`. -/
def dieTimeout (s : State) (d ord tier what : Nat) : State :=
  if tier = 3 then
    if s.udWaits d ord && (s.udReqs d).any (fun q => q.tag = ord && s.outran 3 q.at_) then
      ((s.countLate 3).retire (288 + d) ((s.udReqs d).filter fun q => q.tag = ord)).udEnd d ord 0x03
    else s
  else if tier ≠ 0 && tier ≠ 2 then s
  else if what = 0 then
    match s.ent d ord with
    | some x =>
      if !(entTiers s x).contains tier || !s.outran tier x.since || (x.ran && leKind x.words ≠ 2) then s
      else (s.countLate tier).modEnt d ord fun y => if y.ran then y else { y with fail := some (State.udDmFail 0x03) }
    | none => s
  else if what = 1 then
    match (s.ud d).emits.find? fun e => e.id = ord with
    | some e =>
      if e.tier ≠ tier || !s.outran tier e.since then s
      else (s.countLate tier).modUd d fun u => { u with emits := u.emits.map fun y => if y.id = ord then { y with failed := true } else y }
    | none => s
  else match (s.ud d).xfers.find? fun x => x.seq = ord with
    | some x => (match x.trans with
      | .moving id since =>
        if waitTier s id = tier && s.outran tier since then (s.countLate tier).setXfer d ord fun y => { y with trans := .failed 0x03 } else s
      | .found _ _ _ addr _ =>
        if s.isLocal addr && State.hallTier addr = tier && s.outran tier x.since && x.reqs.isEmpty then
          (s.countLate tier).endXfer d x ocFailed csUdMove 0x03
        else s
      | _ => s)
    | none => s

/-- A remote increment has outrun the remote tier's timeout (09 R264, 12 R358). -/
def incTimeout (s : State) (b : Nat) (j : Job) : State :=
  if j.reqs.any fun q => s.outran 3 q.at_ then
    ((((s.countLate 3).retire b j.reqs).dropJob b j.ord).slipCheck b j.iss.tick).moveFail b j.iss.stream j.iss.pc 0x03
  else s

/-- A request of a move, or its MOVING wait, has outrun its tier's timeout: the move ends DM_TIER_LATE, with `row` rows of its destination
written at most when the tier is this package's (07 R197, 12 R354, R358, R359). -/
def moveTimeout (s : State) (b : Nat) (j : Job) (tier row : Nat) : State :=
  match j.trans with
  | .moving id since => if waitTier s id = tier && s.outran tier since then (s.countLate tier).moveFailed b j 0x03 else s
  | _ =>
    if tier = 3 then (if j.reqs.any fun q => s.outran 3 q.at_ then (s.countLate 3).moveFailed b j 0x03 else s)
    else if (tier = 0 || tier = 2) && State.Job.ready j && !j.sent && (moveTiersOf s j).contains tier && s.outran tier j.since then
      let t := (runMove s b j (some row)).s
      (t.countLate tier).moveFailed b j 0x03
    else s

/-- A request to a hall address, or a MOVING wait, has outrun the timeout of its tier (12 R354, R358, R359, 09 R264). `core` and `w.ord` name a
move or a remote increment; a `core` of 288 or 289 is an update die. -/
def execTierTimeout (core : Nat) (w : TierWait) (s : State) : Res :=
  .next (if 288 ≤ core && core < 290 then dieTimeout s (core - 288) w.ord w.tier w.row else match s.job core w.ord with
    | none => s
    | some j => if j.kind = .remInc then incTimeout s core j else if j.kind = .dmov then moveTimeout s core j w.tier w.row else s)

/-- A response that arrives after its request's timeout is discarded and counted for its tier (12 R359). -/
def State.countLateReply (s : State) (tier : Nat) : State :=
  let f := match tier with
    | 0 => fDIR_LATE_REPLY_STACK
    | 2 => fDIR_LATE_REPLY_FAR
    | _ => fDIR_LATE_REPLY_REMOTE
  (s.bump DIR_LATE_REPLY f 1).raise DIR_EVENTS fDIR_EVENTS_LATE_REPLY

/-- A response arrives after its request has timed out (12 R359). -/
def execLateReply (tier : Nat) (s : State) : Res := .next (s.countLateReply tier)

namespace State

/-- Moves translated since they waited ask for what they read in other packages. -/
def afterTrans (s : State) (l : List (Nat × Job)) : State :=
  l.foldl (fun s x => match s.job x.1 x.2.ord with
    | some j => (match j.trans with
      | .found _ _ _ _ _ => s.startReads x.1 j
      | _ => s)
    | none => s) s

/-- Moves that wait on a MOVING entry translate again and go on (12 R354). -/
def wakeMoves (s : State) (id : Nat) : State :=
  let l := s.transJobs fun t => match t with | .moving k _ => k = id | _ => false
  (s.wake id).afterTrans l

/-- The moves that wait for a walk go on once it ends (12 R353). -/
def walkMoves (s : State) (id : Nat) (late : Bool) : State :=
  let l := s.transJobs fun t => t = .walking id
  (s.walkEnd id late).afterTrans l

/-- The moves that wait for a walk which a command on its entry ends go on (12 R356). -/
def walkMovesNow (s : State) (id : Nat) : State :=
  let l := s.transJobs fun t => t = .walking id
  (s.walkNow id).afterTrans l

end State

/-- A walk's read returns, or its timeout runs out (12 R353, R361). -/
def execDirectoryWalk (id : Nat) (late : Bool) (s : State) : Res := .next (s.walkMoves id late)

end Sys2Proof.Machine
end

