-- ==== Sys2Proof/Machine/Phy.lean ====
section
/-!
DEFINITION. Machine/Phy.lean: what stands on the lanes of a fabric port: symbols (13 R369), codewords and blocks (R370), the dealing of flits to
slots (R371), flits (R372), packet words (R377), link-control entries (R374).
-/

namespace Sys2Proof.Machine

/-! ### Symbols -/

/-- The PAM4 level of a pair of bits, the first the more significant bit of the Gray code: 00, 01, 11, 10 in ascending order (13 R369). -/
def pam4 : Nat → Nat → Int
  | 0, 0 => -3
  | 0, _ => -1
  | _, 0 => 3
  | _, _ => 1

/-- Bits on the wire: bytes ascending, each least significant bit first (13 R369). -/
def wireBits (bytes : List Nat) : List Nat := bytes.flatMap fun b => (List.range 8).map fun i => b / 2 ^ i % 2

/-- Symbols on the wire: one for each pair of successive bits (13 R369). -/
def wireSymbols (bytes : List Nat) : List Int :=
  bytes.flatMap fun b => (List.range 4).map fun i => pam4 (b / 2 ^ (2 * i) % 2) (b / 2 ^ (2 * i + 1) % 2)

/-! ### Codewords and blocks -/

/-- A product in GF(2^10) with the field polynomial x^10 + x^3 + 1 (13 R370). -/
def fecMul (a b : Nat) : Nat :=
  let step := fun (acc i : Nat) =>
    let d := 2 * acc
    let d := if d / 1024 % 2 = 1 then Nat.xor d 0x409 else d
    if b / 2 ^ (9 - i) % 2 = 1 then Nat.xor d a else d
  (List.range 10).foldl step 0

/-- The generator with the roots alpha^0 to alpha^31, its coefficients below the leading one, highest first (13 R370). -/
def rsGenerator : List Nat :=
  ((List.range 32).foldl (fun (a : List Nat × Nat) _ =>
    ((((a.1 ++ [0]).zip (0 :: a.1)).map fun (x : Nat × Nat) => Nat.xor x.1 (fecMul a.2 x.2)), fecMul a.2 2)) ([1], 1)).1.drop 1

/-- The 32 check symbols of a codeword: the remainder of its data, the first symbol the highest coefficient (13 R370; log entry 45). -/
def rsChecks (data : List Nat) : List Nat :=
  data.foldl (fun r x =>
    let f := Nat.xor x (r.getD 0 0)
    ((r.drop 1 ++ [0]).zip rsGenerator).map fun (y : Nat × Nat) => Nat.xor y.1 (fecMul f y.2)) (List.replicate 32 0)

/-- The value of a received word at alpha^i, the first symbol the highest coefficient: zero at all 32 roots for a codeword (13 R370). -/
def rsSyndrome (i : Nat) (word : List Nat) : Nat :=
  let root := (List.range i).foldl (fun a _ => fecMul a 2) 1
  word.foldl (fun a x => Nat.xor (fecMul a root) x) 0

/-- The data symbols of a codeword pair: ten bits each of its payload's bit stream, the first bit being bit 0 (13 R370). -/
def pairSymbols (payload : List Nat) : List Nat :=
  let n := ofLeBytes payload
  (List.range (payload.length * 8 / 10)).map fun j => n / 1024 ^ j % 1024

/-- Every other element, from the first or the second. -/
def alternate (odd : Bool) (l : List Nat) : List Nat := (l.zipIdx.filter fun p => (p.2 % 2 = 1) == odd).map (·.1)

/-- A codeword pair as it is sent: data symbols in order, those of even number in codeword A, then the check symbols, alternately A and B
(13 R370). -/
def codewordPair (payload : List Nat) : List Nat :=
  let d := pairSymbols payload
  d ++ ((rsChecks (alternate false d)).zip (rsChecks (alternate true d))).flatMap fun c => [c.1, c.2]

/-- The flits that a codeword pair carries: 1,360 payload bytes (13 R370). -/
def pairFlits : Nat := 10

/-- What a decoder corrects in a codeword (13 R370). -/
def correctable (errors : Nat) : Bool := decide (errors ≤ 16)

/-- The alignment marker of a block: its fixed pattern stands for itself, since the spec gives none of its bits; die, lane, 32-bit block count
(13 R370). -/
structure Marker where
  die : Nat
  lane : Nat
  count : Nat
  deriving DecidableEq, Repr

/-- A block of a lane: 32 codeword pairs, then the marker (13 R370). -/
structure Block where
  pairs : List (List Nat)
  marker : Marker
  deriving DecidableEq, Repr

/-- The payload of a lane, 32 pairs to a block, with the blocks counted modulo 2^32 (13 R370). -/
def blocksOf (die lane : Nat) : Nat → Nat → List Nat → List Block
  | 0, _, _ => []
  | n + 1, count, bytes =>
    ⟨(List.range 32).map fun k => codewordPair ((bytes.drop (1360 * k)).take 1360), ⟨die, lane, count % 2 ^ 32⟩⟩
      :: blocksOf die lane n (count + 1) (bytes.drop 43520)

/-- The bits of a block and of its payload (13 R370). -/
def blockBits : Nat := 32 * (1088 + 64) * 10 + 1280
def blockPayloadBits : Nat := 32 * 1360 * 8

/-- The flits of a port's stream that fall to a slot: the k-th flit to slot k modulo 4 (13 R371). -/
def dealt (slot : Nat) (flits : List (List Nat)) : List (List Nat) := (flits.zipIdx.filter fun p => p.2 % 4 = slot).map (·.1)

/-- The deskew offsets of four slots, in halves of a nanosecond, lie within the 100 ns that a port tolerates (13 R371, R404). -/
def skewOk (skew : Nat) : Bool := (List.range 4).all fun k => decide (skew / 256 ^ k % 256 ≤ 200)

/-! ### Flits -/

/-- CRC-32 with the polynomial 0x1EDC6F41 (13 R372); reflected, with the initial value and final XOR of 16 R468 (log entry 45). -/
def flitCrc (bytes : List Nat) : Nat := crcBy 0x82F63B78 bytes

/-- A flit: header, body of 128 bytes, CRC over both (13 R372). -/
def flitBytes (ft seq ack : Nat) (body : List Nat) : List Nat :=
  let head := leBytes 4 (ft % 4 * 2 ^ 30 + seq % 4096 * 2 ^ 18 + ack % 4096 * 2 ^ 6) ++ (body ++ List.replicate (128 - body.length) 0).take 128
  head ++ leBytes 4 (flitCrc head)

/-- The fields of a flit's header (13 R372). -/
def flitFt (bytes : List Nat) : Nat := nbitsAt (ofLeBytes (bytes.take 4)) 31 30
def flitSeq (bytes : List Nat) : Nat := nbitsAt (ofLeBytes (bytes.take 4)) 29 18
def flitAck (bytes : List Nat) : Nat := nbitsAt (ofLeBytes (bytes.take 4)) 17 6

/-- The sixteen words of a flit's body (13 R372, R374). -/
def flitBody (bytes : List Nat) : List Nat := (List.range 16).map fun k => ofLeBytes ((bytes.drop (4 + 8 * k)).take 8)

/-- A flit of 136 bytes whose CRC holds; a reserved FT counts as a CRC failure (13 R372). -/
def flitIntact (bytes : List Nat) : Bool :=
  bytes.length = 136 && flitFt bytes ≠ 3 && flitCrc (bytes.take 132) = ofLeBytes ((bytes.drop 132).take 4)

/-- The words of a packet: a header of three, then the payload padded with zero bytes (13 R377). -/
def packetWords (p : Packet) : List Nat :=
  let bit := fun (b : Bool) => if b then 1 else 0
  let n := (p.data.length + 7) / 8
  [p.typ % 64 * 2 ^ 58 + p.vc % 8 * 2 ^ 55 + p.cls % 2 * 2 ^ 54 + bit p.trust * 2 ^ 53 + bit p.dup * 2 ^ 52 + p.hops % 16 * 2 ^ 48 + p.sgen % 16 * 2 ^ 44
      + p.egen % 16 * 2 ^ 40 + p.src % 4096 * 2 ^ 28 + p.dst % 4096 * 2 ^ 16 + p.sep % 1024 * 2 ^ 6 + p.status % 64,
    p.tag % 2 ^ 16 * 2 ^ 48 + p.len % 512 * 2 ^ 39 + p.hint % 4 * 2 ^ 37 + p.use % 16 * 2 ^ 33 + p.aop % 16 * 2 ^ 29 + p.asz % 2 * 2 ^ 28
      + p.cseq % 2 ^ 16 * 2 ^ 12,
    p.addr % 2 ^ 64] ++ (List.range n).map fun k => ofLeBytes ((p.data.drop (8 * k)).take 8)

/-- The packet that words spell (13 R377). -/
def packetOf (ws : List Nat) : Packet :=
  let w0 := ws.getD 0 0
  let w1 := ws.getD 1 0
  let len := nbitsAt w1 47 39
  ⟨nbitsAt w0 63 58, nbitsAt w0 57 55, nbitsAt w0 54 54, nbitsAt w0 53 53 = 1, nbitsAt w0 52 52 = 1, nbitsAt w0 51 48, nbitsAt w0 47 44,
    nbitsAt w0 43 40, nbitsAt w0 39 28, nbitsAt w0 27 16, nbitsAt w0 15 6, nbitsAt w0 5 0, nbitsAt w1 63 48, len, nbitsAt w1 38 37,
    nbitsAt w1 36 33, nbitsAt w1 32 29, nbitsAt w1 28 28, nbitsAt w1 27 12, ws.getD 2 0, (wordBytes (ws.drop 3)).take len⟩

/-- The packets complete in a body stream, and the words that remain (13 R377): zero words before a header are padding. -/
def parseBody : Nat → List Nat → List Packet × List Nat
  | 0, ws => ([], ws)
  | n + 1, ws =>
    match ws with
    | [] => ([], [])
    | w :: t =>
      if w = 0 then parseBody n t
      else
        let k := 3 + (nbitsAt (ws.getD 1 0) 47 39 + 7) / 8
        if ws.length < 3 || decide (ws.length < k) then ([], ws)
        else let r := parseBody n (ws.drop k); (packetOf (ws.take k) :: r.1, r.2)

/-- The flits of FT 1 that carry words, sixteen to a body (13 R372). -/
def dataFlits (ack : Nat) : Nat → Nat → List Nat → List (List Nat)
  | 0, _, _ => []
  | n + 1, seq, ws => flitBytes 1 seq ack (wordBytes (ws.take 16)) :: dataFlits ack n (seq + 1) (ws.drop 16)

/-- The flits that an output of the package puts into its port's stream (13 R372, R374, R377, R388): flits of zero words before a packet, the
packet's own, or one that holds a link-control entry. -/
def Out.flitsOf : Out → List (List Nat)
  | .packet _ pad seq ack p => dataFlits ack (pad + State.flits p) seq (List.replicate (16 * pad) 0 ++ packetWords p)
  | .linkCtrl _ kind bits seq ack => [flitBytes 2 seq ack (leBytes 8 (kind * 2 ^ 60 + bits))]
  | _ => []

end Sys2Proof.Machine
end

