-- ==== Sys2Proof/Machine/TimeBeat.lean ====
section
/-!
DEFINITION. Machine/TimeBeat.lean: zones, crossings and frequency (08 R213-R225), the beat and its servo (R226-R231), ticks
(R232-R237), and the rows of chapter 08 that no packet carries.
-/

namespace Sys2Proof.Machine

/-- A 32-bit field as a signed number and back. -/
def toInt32 (n : Nat) : Int := if n < 2 ^ 31 then Int.ofNat n else Int.ofNat n - 2 ^ 32
def ofInt32 (x : Int) : Nat := (x % 2 ^ 32).toNat

/-- A number held within bounds. -/
def clampInt (x lo hi : Int) : Int := max lo (min hi x)

/-- The zone at a row and column of the grid (08 R213). -/
def zoneAt (r c : Nat) : Nat := 4 * (c / 2) + 2 * r + c % 2

/-- The two zones that a crossing joins (08 R213). -/
def crossingZones (x : Nat) : Nat × Nat :=
  if x < 10 then (zoneAt (x / 5) (x % 5), zoneAt (x / 5) (x % 5 + 1)) else (zoneAt 0 (x - 10), zoneAt 1 (x - 10))

/-- The crossings of a zone. -/
def crossingsOf (z : Nat) : List Nat := (List.range 16).filter fun x => (crossingZones x).1 = z || (crossingZones x).2 = z

/-- 1/r - 1/64 of a published ratio, as a fraction; 1 for a core that swallows nothing (08 R216, R217). -/
def ratioStretch (r : Nat) : Nat × Nat :=
  match r with
  | 0 => (1, 1)
  | 1 => (1009, 960)
  | 2 => (505, 448)
  | _ => (253, 192)

/-- Ten times a core's Fmax in MHz at a regulator code, between the voltage points (08 R216). -/
def fmax10 (pts : List Nat) (v : Nat) : Nat :=
  let i := v / 10
  if 5 ≤ i then 10 * pts.getD 5 0
  else (10 * Int.ofNat (pts.getD i 0) + (Int.ofNat (pts.getD (i + 1) 0) - Int.ofNat (pts.getD i 0)) * Int.ofNat (v % 10)).toNat

/-- The lowest VCODE that meets R216 at a frequency code, ratio and margin; 50 when none does. The package frequency is
CODE * 12.5 MHz * giga / 10^9, where giga is 10^9 + RATE (08 R214). -/
def vcodeFor (giga : Nat) (pts : List Nat) (code ratio margin : Nat) : Nat :=
  let q := ratioStretch ratio
  ((List.range 51).find? fun v => decide (250 * code * giga * q.2 * (256 + margin) ≤ fmax10 pts v * 2 * q.1 * 256 * 1000000000)).getD 50

/-- The largest ratio that a core meets at a code at 0.800 V, 3 when it meets none (08 R214, R217). -/
def ratioFor (giga f800 code : Nat) : Nat :=
  ((List.range 4).find? fun r => decide (25 * code * giga * (ratioStretch r).2 ≤ f800 * 2 * (ratioStretch r).1 * 1000000000)).getD 3

/-- The highest code that a core meets with its published ratio at 0.800 V (08 R214, R218). -/
def topCode (giga f800 ratio : Nat) : Nat := f800 * 2 * (ratioStretch ratio).1 * 1000000000 / (25 * giga * (ratioStretch ratio).2)

namespace State

def modTime (s : State) (f : TimeSt → TimeSt) : State := { s with time := f s.time }
def modPwr (s : State) (f : PwrSt → PwrSt) : State := { s with pwr := f s.pwr }

/-- Fmax of a core at the six voltages (09 R270, R271). -/
def fmaxPts (s : State) (c : Nat) : List Nat :=
  let lo := s.reg (CAP_FMAX_LO c)
  let hi := s.reg (CAP_FMAX_HI c)
  [fget lo fCAP_FMAX_LO_F0550, fget lo fCAP_FMAX_LO_F0600, fget lo fCAP_FMAX_LO_F0650, fget lo fCAP_FMAX_LO_F0700,
    fget hi fCAP_FMAX_HI_F0750, fget hi fCAP_FMAX_HI_F0800]

/-- A zone's droop margin: base and what hints add (15 R442, R444). -/
def margin (s : State) (z : Nat) : Nat := s.rd (PWR_ZMARGIN z) fPWR_ZMARGIN_BASE + s.rd (PWR_ZMARGIN z) fPWR_ZMARGIN_ADD

/-- 10^9 + RATE: the factor of the package frequency, in parts per billion (08 R214). It counts with its value at the moment a regulator,
a ratio or FCAP is set; a later change of RATE alone sets none of them again (DEDUCED, log entry 41). -/
def giga (s : State) : Nat := (1000000000 + toInt32 (s.rd TIME_SERVO fTIME_SERVO_RATE)).toNat

/-- The VCODE that a core needs at a frequency code (08 R216). -/
def vcodeAt (s : State) (code c : Nat) : Nat :=
  vcodeFor s.giga (s.fmaxPts c) code (s.rd (TIME_CORE c) fTIME_CORE_RATIO) (s.margin (zoneOf c))

/-- The VCODE in force: a regulator on its way moves 25 mV, five codes, a microsecond towards TIME_CORE.VCODE (08 R215). -/
def vcodeNow (s : State) (c : Nat) : Nat :=
  let v := s.rd (TIME_CORE c) fTIME_CORE_VCODE
  match s.time.ramps.find? fun r => r.1 = c with
  | none => v
  | some r =>
    let d := (s.beat - r.2.2) / 200
    if r.2.1 ≤ v then min v (r.2.1 + d) else max v (r.2.1 - d)

/-- A core's regulator sent to the voltage of a frequency code; it ramps there (08 R215, R216). -/
def setVcode (s : State) (code c : Nat) : State :=
  if s.coreOn c && s.vcodeAt code c ≠ s.rd (TIME_CORE c) fTIME_CORE_VCODE then
    let s := s.modTime fun t => { t with ramps := sput (0, 0) c (s.vcodeNow c, s.beat) t.ramps }
    s.wr (TIME_CORE c) fTIME_CORE_VCODE (s.vcodeAt code c)
  else s

/-- Every ramp has ended. -/
def endRamps (s : State) : State := s.modTime fun t => { t with ramps := [] }

/-- The package frequency in force in 1/1000 code. During a change it is where the present leg began, or on a glide 16 codes, 200 MHz, a
microsecond from there towards TARGET (08 R215); TIME_FREQ.CODE keeps the code the change began at until the glide ends (DESIGN
CHOICE, log entry 41). -/
def codeNow (s : State) : Nat :=
  if !s.on TIME_STATUS fTIME_STATUS_GLIDE then 1000 * s.rd TIME_FREQ fTIME_FREQ_CODE
  else if !s.time.gliding then s.time.legFrom
  else
    let t := 1000 * s.rd TIME_FREQ fTIME_FREQ_TARGET
    let d := 16 * (s.beat - s.time.legBeat)
    if s.time.legFrom ≤ t then min t (s.time.legFrom + d) else max t (s.time.legFrom - d)

/-- The code that the regulators must hold: the code in force, or the highest that a change under way has needed (08 R215, R216). -/
def voltCode (s : State) : Nat :=
  if s.on TIME_STATUS fTIME_STATUS_GLIDE then max s.time.rampTop (max (s.rd TIME_FREQ fTIME_FREQ_CODE) (s.rd TIME_FREQ fTIME_FREQ_TARGET))
  else s.rd TIME_FREQ fTIME_FREQ_CODE

/-- The regulators of a zone set anew, for its margin (08 R215, R216). -/
def setZoneV (s : State) (z : Nat) : State :=
  (List.range 24).foldl (fun s k => s.setVcode s.voltCode (24 * z + k)) s

/-- Every enabled core's regulator set for a code. -/
def setAllV (s : State) (code : Nat) : State := (List.range 288).foldl (fun s c => s.setVcode code c) s

/-- Published ratios recomputed for a code (08 R218). -/
def publishRatios (s : State) (code : Nat) : State :=
  (List.range 288).foldl (fun s c =>
    if s.coreOn c then s.wr (TIME_CORE c) fTIME_CORE_RATIO (ratioFor s.giga (s.rd (CAP_FMAX_HI c) fCAP_FMAX_HI_F0800) code) else s) s

/-- FCAP (08 R218). -/
def fcapOf (s : State) : Nat :=
  (List.range 288).foldl (fun m c =>
    if s.coreOn c then min m (topCode s.giga (s.rd (CAP_FMAX_HI c) fCAP_FMAX_HI_F0800) (s.rd (TIME_CORE c) fTIME_CORE_RATIO)) else m) 104

/-- ALIGNED: every crossing not STUCK is synchronous, or in a stretch episode (08 R240). -/
def realigned (s : State) : State :=
  s.wr TIME_STATUS fTIME_STATUS_ALIGNED (if (List.range 16).all fun x =>
    s.on (TIME_XING x) fTIME_XING_STUCK || s.on (TIME_XING x) fTIME_XING_SYNC
      || s.on (TIME_ZSTAT (crossingZones x).1) fTIME_ZSTAT_EPISODE || s.on (TIME_ZSTAT (crossingZones x).2) fTIME_ZSTAT_EPISODE then 1 else 0)

/-- A crossing's mode (08 R219). -/
def setXing (s : State) (x : Nat) (sync : Bool) : State :=
  let m := s.rd TIME_XMODE fTIME_XMODE_SYNC
  let bit := 2 ^ x
  let s := s.wr (TIME_XING x) fTIME_XING_SYNC (if sync then 1 else 0)
  (s.wr TIME_XMODE fTIME_XMODE_SYNC (if sync then Nat.lor m bit else m - Nat.land m bit)).realigned

/-- Every crossing enters mesochronous mode (08 R215). -/
def mesoAll (s : State) : State := (List.range 16).foldl (fun s x => s.setXing x false) s

/-- The generators are re-phased: lags and episodes end, crossings not STUCK become synchronous unless a
frequency change is in progress (08 R215, R219, R220, R224). -/
def rephase (s : State) : State :=
  let s := (List.range 12).foldl (fun s z => (s.wr (TIME_ZSTAT z) fTIME_ZSTAT_EPISODE 0).wr (TIME_ZSTAT z) fTIME_ZSTAT_LAG 0) s
  let s := s.modTime fun t => { t with lag := [] }
  (List.range 16).foldl (fun s x => if s.on (TIME_XING x) fTIME_XING_STUCK || s.on TIME_STATUS fTIME_STATUS_GLIDE then s else s.setXing x true) s

/-- A change of the frequency begins, or its target is replaced (08 R215): the present leg ends at the frequency reached, crossings are
mesochronous, and a code higher than the regulators hold voltage for makes them ramp first. -/
def approach (s : State) (c : Nat) : State :=
  let at_ := s.codeNow
  let top := s.voltCode
  let s := ((s.wr TIME_FREQ fTIME_FREQ_TARGET c).wr TIME_STATUS fTIME_STATUS_GLIDE 1).modTime fun t =>
    { t with legFrom := at_, legBeat := s.beat, rampTop := max top c, gliding := t.gliding && decide (c ≤ top) }
  (if top < c then s.setAllV c else s).mesoAll

/-- A request for a package frequency code, capped at FCAP (08 R215, R218, R239, 15 R438). -/
def requestCode (s : State) (c : Nat) : State :=
  let cap := s.rd TIME_FREQ fTIME_FREQ_FCAP
  let s := if cap < c then s.raise TIME_EVENTS fTIME_EVENTS_FCAP_LIMIT else s
  let c := min c cap
  if c = s.rd TIME_FREQ fTIME_FREQ_TARGET then s
  else if c = s.rd TIME_FREQ fTIME_FREQ_CODE && !s.on TIME_STATUS fTIME_STATUS_GLIDE then s
  else s.approach c

/-- FCAP recomputed; while a schedule runs the frequency follows it down (08 R218). -/
def refreshFcap (s : State) : State :=
  let s := s.wr TIME_FREQ fTIME_FREQ_FCAP s.fcapOf
  let cap := s.rd TIME_FREQ fTIME_FREQ_FCAP
  if s.on TIME_STATUS fTIME_STATUS_PLAN && decide (cap < s.rd TIME_FREQ fTIME_FREQ_TARGET) then s.requestCode (s.rd TIME_FREQ fTIME_FREQ_TARGET) else s

/-- The tick that contains a beat under the segments held; none before the plan's first tick (08 R232). -/
def rawTick (s : State) (beat : Nat) : Option Nat :=
  let pend := s.on TIME_PEND_TICK fTIME_PEND_TICK_VALID && decide (s.rd TIME_PEND_BEAT fTIME_PEND_BEAT_BEAT ≤ beat)
  let t := if pend then s.rd TIME_PEND_TICK fTIME_PEND_TICK_TICK else s.rd TIME_SEG_TICK fTIME_SEG_TICK_TICK
  let b := if pend then s.rd TIME_PEND_BEAT fTIME_PEND_BEAT_BEAT else s.rd TIME_SEG_BEAT fTIME_SEG_BEAT_BEAT
  let l := if pend then s.rd TIME_PEND_LEN fTIME_PEND_LEN_LEN else s.rd TIME_SEG_LEN fTIME_SEG_LEN_LEN
  if l = 0 || decide (beat < b) then none else some (t + (beat - b) / l)

/-- The start of a tick under the segment that governs it at a beat. -/
def startAt (s : State) (n : Nat) : Nat := s.tickStart n

/-- The reported tick follows the beat and never decreases within a plan: an earlier tick holds the one reported, with the start it began to
be reported at, until the tick of the beat exceeds it; a tick not held shows its start under the segment in force (08 R237). -/
def reportTick (s : State) : State :=
  if !s.on TIME_STATUS fTIME_STATUS_PLAN then s
  else match s.rawTick s.beat with
    | none => s
    | some n =>
      if s.time.reported && decide (n < s.rd TIME_TICK fTIME_TICK_TICK) then s.modTime fun t => { t with held := true }
      else if s.time.reported && s.time.held && decide (n = s.rd TIME_TICK fTIME_TICK_TICK) then s
      else ((s.wr TIME_TICK fTIME_TICK_TICK n).wr TIME_TICK_START fTIME_TICK_START_BEAT (s.startAt n)).modTime fun t =>
        { t with reported := true, held := false }

/-- The slips counted belong to the plan that ends (08 R236, R237). -/
def dropSlips (s : State) : State := s.cores.foldl (fun s c => s.modCore c.1 fun x => { x with slips := [] }) s

/-- Boundaries up to the tick of the current beat count as seen by every zone (08 R232). -/
def seeAll (s : State) : State :=
  s.modTime fun t => { t with zseen := (List.range 12).foldl (fun l z =>
    sput 0 z (match s.rawTick (s.rd (TIME_ZBEAT z) fTIME_ZBEAT_BEAT) with | some n => n + 1 | none => 0) l) [] }

/-- The launch gate: open while a tick plan is loaded and the beat is acquired (08 R232). When it opens, passed boundaries stay
passed, and the 1,000 ticks of 15 R444 begin if they have not. -/
def regate (s : State) : State :=
  let o := s.on TIME_STATUS fTIME_STATUS_PLAN && s.on TIME_STATUS fTIME_STATUS_ACQ
  if o = s.gateOpen then s
  else
    let s := s.wr TIME_STATUS fTIME_STATUS_GATE (if o then 0 else 1)
    if o then s.seeAll.modPwr fun p => { p with openTicks := some (p.openTicks.getD 0) } else s

/-- The pending segment takes effect once the beat has reached B_eff (08 R237). -/
def pendEffect (s : State) : State :=
  if s.on TIME_PEND_TICK fTIME_PEND_TICK_VALID && decide (s.rd TIME_PEND_BEAT fTIME_PEND_BEAT_BEAT ≤ s.beat) then
    let s := s.wr TIME_SEG_TICK fTIME_SEG_TICK_TICK (s.rd TIME_PEND_TICK fTIME_PEND_TICK_TICK)
    let s := s.wr TIME_SEG_BEAT fTIME_SEG_BEAT_BEAT (s.rd TIME_PEND_BEAT fTIME_PEND_BEAT_BEAT)
    let s := (s.wr TIME_SEG_LEN fTIME_SEG_LEN_LEN (s.rd TIME_PEND_LEN fTIME_PEND_LEN_LEN)).wr TIME_SEG_LEN fTIME_SEG_LEN_SEQ
      (s.rd TIME_PEND_LEN fTIME_PEND_LEN_SEQ)
    let s := ((s.wr TIME_SEG_LEN fTIME_SEG_LEN_SEQV 1).setReg TIME_PEND_TICK 0).setReg TIME_PEND_BEAT 0
    let s := (s.setReg TIME_PEND_LEN 0).wr TIME_STATUS fTIME_STATUS_PEND 0
    let s := s.modTime fun t => { t with zseen := t.zseen.map fun z =>
      (z.1, match s.rawTick (s.rd (TIME_ZBEAT z.1) fTIME_ZBEAT_BEAT) with | some n => min z.2 (n + 1) | none => z.2) }
    s.reportTick
  else s

end State

/-- A sequence number is higher than another, modulo 256 (08 R237). -/
def seqHigher (a b : Nat) : Bool := let d := (a + 256 - b % 256) % 256; decide (1 ≤ d) && decide (d ≤ 127)

/-- The status of a tick length (08 R233): 0 none, 1 TIME_TICK_ZERO, 2 TIME_TICK_RANGE, 3 TIME_TICK_SHORT. -/
def tickStatus (len planned : Nat) : Nat :=
  if len = 0 then 1 else if len < 2000 || decide (262143 < len) then 2 else if len < planned then 3 else 0

namespace State

/-- A tick-length change arrives (08 R233, R237). -/
def tickChange (s : State) (seq teff beff len : Nat) : State :=
  let old := (s.on TIME_SEG_LEN fTIME_SEG_LEN_SEQV && !seqHigher seq (s.rd TIME_SEG_LEN fTIME_SEG_LEN_SEQ))
    || (s.on TIME_PEND_TICK fTIME_PEND_TICK_VALID && !seqHigher seq (s.rd TIME_PEND_LEN fTIME_PEND_LEN_SEQ))
  if tickStatus len (s.rd TIME_SEG_LEN fTIME_SEG_LEN_PLANNED) ≠ 0 || old then s
  else
    let s := ((s.wr TIME_PEND_TICK fTIME_PEND_TICK_TICK teff).wr TIME_PEND_TICK fTIME_PEND_TICK_VALID 1).wr TIME_PEND_BEAT fTIME_PEND_BEAT_BEAT beff
    let s := ((s.wr TIME_PEND_LEN fTIME_PEND_LEN_SEQ seq).wr TIME_PEND_LEN fTIME_PEND_LEN_LEN len).wr TIME_STATUS fTIME_STATUS_PEND 1
    if beff ≤ s.beat then (s.pendEffect).raise TIME_EVENTS fTIME_EVENTS_LATE_CHANGE else s

/-- A tick plan loaded: its first segment carries no sequence number (08 R232). -/
def loadPlan (s : State) (planned tick beat : Nat) : State :=
  let s := ((s.wr TIME_SEG_TICK fTIME_SEG_TICK_TICK tick).wr TIME_SEG_BEAT fTIME_SEG_BEAT_BEAT beat).setReg TIME_SEG_LEN 0
  let s := (s.wr TIME_SEG_LEN fTIME_SEG_LEN_LEN planned).wr TIME_SEG_LEN fTIME_SEG_LEN_PLANNED planned
  let s := ((s.setReg TIME_PEND_TICK 0).setReg TIME_PEND_BEAT 0).setReg TIME_PEND_LEN 0
  let s := (s.wr TIME_STATUS fTIME_STATUS_PEND 0).wr TIME_STATUS fTIME_STATUS_PLAN 1
  let s := (s.dropSlips.modTime fun t => { t with reported := false, held := false }).reportTick
  (s.seeAll).regate

/-- The tick plan discarded (08 R237, R238, 16 R491). -/
def dropPlan (s : State) : State :=
  let s := ((s.setReg TIME_SEG_TICK 0).setReg TIME_SEG_BEAT 0).setReg TIME_SEG_LEN 0
  let s := ((s.setReg TIME_PEND_TICK 0).setReg TIME_PEND_BEAT 0).setReg TIME_PEND_LEN 0
  let s := ((s.setReg TIME_TICK 0).setReg TIME_TICK_START 0).wr TIME_STATUS fTIME_STATUS_PEND 0
  ((s.dropSlips.wr TIME_STATUS fTIME_STATUS_PLAN 0).modTime fun t => { t with reported := false, held := false, zseen := [] }).regate

/-- The beat counter and every zone replica (08 R226, R227). -/
def setBeat (s : State) (b : Nat) : State :=
  (List.range 12).foldl (fun s z => s.wr (TIME_ZBEAT z) fTIME_ZBEAT_BEAT b) (s.wr TIME_BEAT fTIME_BEAT_BEAT b)

/-- One cycle of the time clock: the accumulator grows by 2^32 * (1 + RATE * 10^-9), rounded down (08 R226; log entry 42). -/
def clockCycle (s : State) : State :=
  if !s.time.running then s
  else if 0 < s.time.frozen then s.modTime fun t => { t with frozen := t.frozen - 1 }
  else
    let a := s.time.frac + ((2 ^ 32 * (1000000000 + toInt32 (s.rd TIME_SERVO fTIME_SERVO_RATE))) / 1000000000).toNat
    let s := s.modTime fun t => { t with frac := a % 2 ^ 32 }
    ((s.setBeat (s.beat + a / 2 ^ 32)).pendEffect).reportTick

end State

/-- A zone sees a tick boundary: replay counts return to 0, the zone's cycle count is latched, probes count the boundary, margins
lowered take effect, droop stretches of the tick are shown (08 R232, 05 R134, 07 R203, 15 R443, R444). -/
def boundary (s : State) (z n : Nat) : State :=
  let s := s.modTime fun t => { t with zseen := sput 0 z (n + 1) t.zseen }
  let s := s.wr (TIME_ZCYC_TICK z) fTIME_ZCYC_TICK_CYCLES (s.rd (TIME_ZCYC z) fTIME_ZCYC_CYCLES)
  let s := (List.range 24).foldl (fun s k =>
    let c := 24 * z + k
    (s.wr (QC_STATUS c) fQC_STATUS_RCOUNT 0).modCore c fun x => { x with probes := x.probes.map fun p => { p with seen := p.seen + 1 } }) s
  let s := s.wr (PWR_ZDROOP z) fPWR_ZDROOP_LASTTICK (sget 0 z s.pwr.droops)
  let s := s.modPwr fun p => { p with droops := sput 0 z 0 p.droops, openTicks := if z = 0 then p.openTicks.map (· + 1) else p.openTicks }
  if s.pwr.lowered.contains z then (s.modPwr fun p => { p with lowered := p.lowered.filter (· ≠ z) }).setZoneV z else s

/-- A zone's replica has reached a tick start beat (08 R232). -/
def State.tickBoundary (s : State) (zone : Nat) : State :=
  if 12 ≤ zone || !s.gateOpen then s
  else match s.rawTick (s.rd (TIME_ZBEAT zone) fTIME_ZBEAT_BEAT) with
    | none => s
    | some n => if sget 0 zone s.time.zseen ≤ n then (boundary s zone n).reportTick else s

/-- The pending segment's B_eff is reached (08 R237). -/
def execPendingSegmentEffect (s : State) : Res := .next s.pendEffect

/-- The beat counter writes every replica (08 R227). -/
def execBeatReplicaWrite (s : State) : Res := .next (s.setBeat s.beat)

namespace State

/-- The package's state follows its enrolment: READY while Working (16 R482). One that is not Working is no standby (14 R413). -/
def setEnrol (s : State) (v : Nat) : State :=
  let was := s.enrolled
  let s := if v = 3 then s else { s with rm := { s.rm with synced := none } }
  let s := s.wr FAB_ENROL fFAB_ENROL_STATE v
  let s := if v = 3 && was ≠ 3 then s.raise FAB_EVENTS fFAB_EVENTS_WORKING else s
  let s := if v = 0 && was ≠ 0 then s.raise FAB_EVENTS fFAB_EVENTS_DETACHED else s
  if v = 3 && s.pkState = 2 then s.wr PKG_STATE fPKG_STATE_STATE 3
  else if v ≠ 3 && s.pkState = 3 then s.wr PKG_STATE fPKG_STATE_STATE 2 else s

/-- A control message to the Ringmaster, when one is known. -/
def toRm (s : State) (typ : Nat) (words : List Nat) : State :=
  if s.on FAB_ENROL fFAB_ENROL_RM_VALID then s.sendCtrl (s.rd FAB_ENROL fFAB_ENROL_RM) typ words else s

/-- The origin role is taken: RATE 0, acquired (08 R229, R231); a Ringmaster is Working from now on (14 R413). -/
def becomeOrigin (s : State) : State :=
  let was := s.on TIME_STATUS fTIME_STATUS_ACQ
  let s := ((s.wr TIME_STATUS fTIME_STATUS_ROOT 1).wr TIME_SERVO fTIME_SERVO_RATE 0).wr TIME_STATUS fTIME_STATUS_ACQ 1
  let s := (s.wr TIME_STATUS fTIME_STATUS_HOLDOVER 0).setReg TIME_PARENT 0
  let s := s.modTime fun t => { t with originWait := false, treqOut := [], stale := 0 }
  let s := if was then s else s.raise TIME_EVENTS fTIME_EVENTS_ACQUIRED
  (if s.rm.master then s.setEnrol 3 else s).regate

/-- The beat becomes acquired (08 R230): READY goes to the Ringmaster from an Enrolled package (13 R393); a Ringmaster that waited
serves as origin (08 R231). -/
def acquire (s : State) : State :=
  let s := (s.wr TIME_STATUS fTIME_STATUS_ACQ 1).raise TIME_EVENTS fTIME_EVENTS_ACQUIRED
  if s.time.originWait then s.becomeOrigin
  else (if s.enrolled = 2 then s.toRm 0x34 [s.node] else s).regate

/-- The beat is lost (08 R230): a Working package returns to Enrolled and sends UNREADY (13 R393). -/
def beatLost (s : State) : State :=
  if !s.on TIME_STATUS fTIME_STATUS_ACQ then s
  else
    let s := ((s.wr TIME_STATUS fTIME_STATUS_ACQ 0).wr TIME_STATUS fTIME_STATUS_HOLDOVER 0).raise TIME_EVENTS fTIME_EVENTS_BEAT_LOST
    let s := s.health 3 []
    (if s.enrolled = 3 then (s.toRm 0x35 [s.node]).setEnrol 2 else s).regate

def setRate (s : State) (x : Int) : State := s.wr TIME_SERVO fTIME_SERVO_RATE (ofInt32 (clampInt x (-200000) 200000))

/-- The procedure time_exchange (08 R229). Times are in 1/16 beat. A package that the exchange has made the origin keeps RATE 0 (08 R229, R231). -/
def timeExchange (s : State) (t1 t2 t3 t4 : Nat) : State :=
  let i := fun (n : Nat) => Int.ofNat n
  let delay := (i t4 - i t1) - (i t3 - i t2)
  if delay < 0 || decide (16 * i (s.rd TIME_SERVO_CFG fTIME_SERVO_CFG_DELAY_MAX) < delay) then s.bump TIME_DISCARD fTIME_DISCARD_COUNT 1
  else
    let asym := let a := s.rd TIME_ASYM fTIME_ASYM_ASYM; if a < 2 ^ 15 then i a else i a - 2 ^ 16
    let th := ((i t2 - i t1) - (i t4 - i t3)) / 2 + asym
    let s := s.wr TIME_SERVO fTIME_SERVO_THETA (ofInt32 (clampInt th (-2 ^ 31) (2 ^ 31 - 1)))
    let s := (s.modTime fun t => { t with stale := 0 }).wr TIME_STATUS fTIME_STATUS_HOLDOVER 0
    let slew := fun (s : State) => if s.on TIME_STATUS fTIME_STATUS_ROOT then s else
      let f := clampInt (s.time.freq + th) (-200000) 200000
      (s.modTime fun t => { t with freq := f }).setRate (f + 16 * th)
    if !s.on TIME_STATUS fTIME_STATUS_ACQ then
      if 160000 < th then ((s.setBeat (s.beat + (th / 16).toNat)).modTime fun t => { t with freq := 0, good := 0 }).reportTick
      else if th < -160000 then s.modTime fun t => { t with frozen := t.frozen + ((-th) / 16).toNat, freq := 0, good := 0 }
      else
        let good := if th.natAbs ≤ 16 * s.rd TIME_SERVO_CFG fTIME_SERVO_CFG_ACQ_THR then s.time.good + 1 else 0
        let s := s.modTime fun t => { t with good := good }
        slew (if 4 ≤ good then s.acquire else s)
    else
      let far := if 16000 < th.natAbs then s.time.far + 1 else 0
      let s := s.modTime fun t => { t with far := far }
      slew (if 2 ≤ far then s.beatLost else s)

/-- The local time in 1/16 beat (08 R229). -/
def now16 (s : State) : Nat := s.beat * 16 + s.time.frac / 2 ^ 28

/-- A TREQ leaves by a port (13 R388). -/
def sendTreq (s : State) (port no : Nat) : State :=
  let dst := s.rd (FP_STATUS (port / 4) (port % 4)) fFP_STATUS_PNODE
  let p : Packet := ⟨0x20, 4, 0, true, false, 0, s.gen, s.genOf dst, s.node, dst, 304, 0, no % 2 ^ 16, 0, 0, 0, 0, 0, 0, no, []⟩
  (s.transmit port p).modTime fun t => { t with treqOut := t.treqOut ++ [(port, s.now16)] }

/-- The ports of the parent link that are UP, lowest first (13 R388). -/
def parentPorts (s : State) : List Nat :=
  (List.range 16).filter fun p => s.portUp p && s.rd (FP_STATUS (p / 4) (p % 4)) fFP_STATUS_PNODE = s.rd TIME_PARENT fTIME_PARENT_NODE

end State

/-- Each millisecond a package that is not the root, Enrolled or Working (13 R393), sends TREQ to its parent (08 R229, 13 R388), or to the partner of each UP port
while it has won the origin role and does not serve yet (08 R231). -/
def execTimeExchange (s : State) : Res :=
  .next (
    if s.on TIME_STATUS fTIME_STATUS_ROOT || (s.enrolled ≠ 2 && s.enrolled ≠ 3) then s
    else
      let ports := if s.on TIME_PARENT fTIME_PARENT_VALID then s.parentPorts.take 1
        else if s.time.originWait then (List.range 16).filter s.portUp else []
      if ports.isEmpty then s
      else
        let no := (s.time.treqNo + 1) % 2 ^ 32
        ports.foldl (fun s p => s.sendTreq p no) (s.modTime fun t => { t with treqNo := no, treqOut := [] }))

/-- A millisecond without an accepted exchange (08 R229, R230). -/
def execExchangeMissed (s : State) : Res :=
  .next (
    if s.on TIME_STATUS fTIME_STATUS_ROOT then s
    else
      let s := s.modTime fun t => { t with stale := t.stale + 1 }
      let hold := s.on TIME_STATUS fTIME_STATUS_HOLDOVER
      let s := if 8 ≤ s.time.stale && !hold then
          let s := s.setRate s.time.freq
          if s.on TIME_STATUS fTIME_STATUS_ACQ then (s.wr TIME_STATUS fTIME_STATUS_HOLDOVER 1).raise TIME_EVENTS fTIME_EVENTS_HOLDOVER else s
        else s
      if s.on TIME_STATUS fTIME_STATUS_HOLDOVER && decide (s.rd TIME_SERVO_CFG fTIME_SERVO_CFG_HOLD_MAX ≤ s.time.stale) then s.beatLost else s)

/-- No partner has reported ACQ within 20 ms of winning the role (08 R231). -/
def execOriginTimeout (s : State) : Res :=
  .next (if s.time.originWait && !s.on TIME_PARENT fTIME_PARENT_VALID then s.becomeOrigin else s)

/-- Quarter periods added to a zone's lag; a whole lag ends the episode (08 R222); ALIGNED follows (R240). -/
def addLag (s : State) (z q : Nat) : State :=
  let l := sget 0 z s.time.lag + q
  let s := s.wr (TIME_ZSTAT z) fTIME_ZSTAT_LAG (l % 4)
  State.realigned <| if l % 4 = 0 then
    ((s.wr (TIME_ZSTAT z) fTIME_ZSTAT_EPISODE 0).bump (TIME_ZLOST z) fTIME_ZLOST_CYCLES (l / 4)).modTime fun t => { t with lag := sput 0 z 0 t.lag }
  else (s.wr (TIME_ZSTAT z) fTIME_ZSTAT_EPISODE 1).modTime fun t => { t with lag := sput 0 z l t.lag }

/-- A stretch of the zone needs no realignment now: a glide, the aligner running, or every crossing of the zone mesochronous for a
reason other than an episode (08 R224). -/
def noRealign (s : State) (z : Nat) : Bool :=
  s.on TIME_STATUS fTIME_STATUS_GLIDE || s.on TIME_CTRL fTIME_CTRL_ALIGN
    || (crossingsOf z).all fun x => !s.on (TIME_XING x) fTIME_XING_SYNC
      && !s.on (TIME_ZSTAT (crossingZones x).1) fTIME_ZSTAT_EPISODE && !s.on (TIME_ZSTAT (crossingZones x).2) fTIME_ZSTAT_EPISODE

/-- The droop of a zone's regulators deepens to a number of millivolts in one period: the detector stretches the next period once, by
the larger amount its thresholds call for (15 R443, 08 R221-R224). -/
def execDroopTrip (zone depth : Nat) (s : State) : Res :=
  .next (
    if 12 ≤ zone then s
    else
      let s := s.wr (PWR_ZDROOP zone) fPWR_ZDROOP_MAXDROOP (max (s.rd (PWR_ZDROOP zone) fPWR_ZDROOP_MAXDROOP) (min depth 65535))
      let q := if s.rd PWR_DROOP_CFG fPWR_DROOP_CFG_DTHR2 ≤ depth then 2
        else if s.rd PWR_DROOP_CFG fPWR_DROOP_CFG_DTHR1 ≤ depth then 1 else 0
      if q = 0 then s
      else
        let s := s.bump (TIME_ZSTR zone) (if q = 2 then fTIME_ZSTR_S50 else fTIME_ZSTR_S25) 1
        let s := s.modPwr fun p => { p with droops := sput 0 zone (sget 0 zone p.droops + 1) p.droops }
        if noRealign s zone then s else addLag s zone q)

/-- A realignment stretch of 25 %, eight cycles after the zone's previous stretch (08 R222). -/
def execRealignmentStretch (zone : Nat) (s : State) : Res :=
  .next (if zone < 12 && s.on (TIME_ZSTAT zone) fTIME_ZSTAT_EPISODE then addLag s zone 1 else s)

/-- A neighbour learns of an open episode; the crossing becomes mesochronous (08 R223). -/
def execNeighbourInformed (crossing : Nat) (s : State) : Res :=
  .next (
    let z := crossingZones crossing
    if crossing < 16 && s.on (TIME_XING crossing) fTIME_XING_SYNC
        && (s.on (TIME_ZSTAT z.1) fTIME_ZSTAT_EPISODE || s.on (TIME_ZSTAT z.2) fTIME_ZSTAT_EPISODE) then
      (s.bump (TIME_XING crossing) fTIME_XING_EPISODES 1).setXing crossing false
    else s)

/-- A crossing returns to synchronous mode once the lags of both its zones are whole (08 R223, R224). -/
def execCrossingSynchronous (crossing : Nat) (s : State) : Res :=
  .next (
    let z := crossingZones crossing
    if crossing < 16 && !s.on (TIME_XING crossing) fTIME_XING_SYNC && !s.on (TIME_XING crossing) fTIME_XING_STUCK
        && !s.on TIME_STATUS fTIME_STATUS_GLIDE && !s.on TIME_CTRL fTIME_CTRL_ALIGN
        && !s.on (TIME_ZSTAT z.1) fTIME_ZSTAT_EPISODE && !s.on (TIME_ZSTAT z.2) fTIME_ZSTAT_EPISODE then s.setXing crossing true
    else s)

/-- The voltage ramps have ended and the glide begins from the frequency reached (08 R215). -/
def execGlideStart (s : State) : Res :=
  .next (
    if !s.on TIME_STATUS fTIME_STATUS_GLIDE || s.time.gliding then s
    else
      let t := s.rd TIME_FREQ fTIME_FREQ_TARGET
      let s := (if s.codeNow < 1000 * t then s.setAllV s.voltCode else s).endRamps
      s.modTime fun x => { x with gliding := true, legBeat := s.beat })

/-- The glide reaches its target; the generators are re-phased, the crossings return, a lower voltage follows (08 R215, R220). -/
def execGlideEnd (s : State) : Res :=
  .next (
    if !s.time.gliding then s
    else
      let c := s.rd TIME_FREQ fTIME_FREQ_TARGET
      let s := if s.rd TIME_FREQ fTIME_FREQ_CODE < c then s.modPwr fun p => { p with roseAt := some s.beat } else s
      let s := (s.wr TIME_FREQ fTIME_FREQ_CODE c).wr TIME_STATUS fTIME_STATUS_GLIDE 0
      let s := (s.wr PWR_STATUS fPWR_STATUS_BOOST (if 80 < c then 1 else 0)).modTime fun x => { x with gliding := false, phaseCodes := setIns c x.phaseCodes }
      (s.rephase).setAllV c)

namespace State

/-- The aligner measures every crossing: residual skews in 1/64 period, signed, one a crossing; a crossing beyond 30 ps stays
mesochronous and is marked STUCK (08 R220). -/
def align (s : State) (skews : List Int) : State :=
  let code := s.rd TIME_FREQ fTIME_FREQ_CODE
  let s := (List.range 16).foldl (fun s x =>
    let k := clampInt (skews.getD x 0) (-64) 63
    let stuck := decide (30 * code < k.natAbs * 1250)
    let s := (s.wr (TIME_XING x) fTIME_XING_SKEW (k % 128).toNat).wr (TIME_XING x) fTIME_XING_STUCK (if stuck then 1 else 0)
    if stuck then (s.setXing x false).raise TIME_EVENTS fTIME_EVENTS_STUCK else s) s
  (s.rephase).modTime fun t => { t with phaseCodes := setIns code t.phaseCodes }

/-- The test-time Fmax of a core, as fused (09 R270). -/
def fusedFmax (s : State) (c : Nat) : List Nat :=
  match s.pkg.fuse.fmaxOf.find? fun p => p.1 = c with
  | some p => p.2
  | none => s.pkg.fuse.fmax

/-- The six Fmax fields of a core, packed (09 R276). -/
def setFmax (s : State) (c : Nat) (f : List Nat) : State :=
  let g := fun (i : Nat) => f.getD i 0
  let s := ((s.wr (CAP_FMAX_LO c) fCAP_FMAX_LO_F0550 (g 0)).wr (CAP_FMAX_LO c) fCAP_FMAX_LO_F0600 (g 1)).wr (CAP_FMAX_LO c) fCAP_FMAX_LO_F0650 (g 2)
  ((s.wr (CAP_FMAX_LO c) fCAP_FMAX_LO_F0700 (g 3)).wr (CAP_FMAX_HI c) fCAP_FMAX_HI_F0750 (g 4)).wr (CAP_FMAX_HI c) fCAP_FMAX_HI_F0800 (g 5)

end State

/-- The Fmax fields after an ageing loss: test-time values times 1 - loss / F_t, rounded down (09 R271; log entry 43). -/
def agedFmax (f : List Nat) (loss : Nat) : List Nat := f.map fun x => x * (f.getD 5 0 - loss) / f.getD 5 0

/-- The ageing monitors of a core are sampled (09 R271): a loss 5 MHz beyond AGE_LOSS rescales its Fmax fields, which never rise; the
flash keeps a loss grown by 10 MHz. FCAP and the regulator follow (08 R218, R216). -/
def execAgeingSample (core loss : Nat) (s : State) : Res :=
  .next (
    if !s.coreOn core || decide (loss < s.rd (CAP_STATE core) fCAP_STATE_AGE_LOSS + 5) then s
    else
      let l := min 255 loss
      let s := (s.wr (CAP_STATE core) fCAP_STATE_AGE_LOSS l).bump (CAP_STATE core) fCAP_STATE_REFRESHES 1
      let s := s.setFmax core ((agedFmax (s.fusedFmax core) l).zipWith min (s.fmaxPts core))
      let kept := sget 0 core s.pkg.flash.age
      let s := if kept + 10 ≤ l then s.modPkg fun p => { p with flash := { p.flash with age := sput 0 core l p.flash.age } } else s
      let s := s.refreshFcap
      s.setVcode s.voltCode core)

end Sys2Proof.Machine
end

