-- ==== Sys2Proof/Machine/Fabric.lean ====
section
/-!
DEFINITION. Machine/Fabric.lean: lanes, ports and the link layer (13 R367-R375, R391, R392, R398, R399), and forwarding (R396).
-/

namespace Sys2Proof.Machine

/-- Port states (13 R391). -/
def psDown : Nat := 0
def psTraining : Nat := 1
def psUp : Nat := 2
def psRecover : Nat := 3
def psIsolated : Nat := 4

/-- The packet types of 13 R378 and 14 R418. -/
def typeKnown (t : Nat) : Bool := (1 ≤ t && t ≤ 5) || (0x10 ≤ t && t ≤ 0x15) || t = 0x20 || t = 0x21 || (0x30 ≤ t && t ≤ 0x3E)

/-- Request types: RD, RDP, WR, AT, INC (13 R378). -/
def isRequest (t : Nat) : Bool := 1 ≤ t && t ≤ 5

namespace State

/-- Registers of a package port and of a lane of an I/O die (13 R404). -/
def fpStatus (p : Nat) : Nat := FP_STATUS (p / 4) (p % 4)
def fpCtrl (p : Nat) : Nat := FP_CTRL (p / 4) (p % 4)
def laneMap (p : Nat) : Nat := FP_LANEMAP (p / 4) (p % 4)

/-- The I/O die of a port is present (01 R1). -/
def portHere (s : State) (p : Nat) : Bool := p < 16 && s.rd PKG_CONFIG fPKG_CONFIG_IOMAP / 2 ^ (p / 4) % 2 = 1

/-- A port's state, with its bits of FAB_STATUS and its departures from UP (13 R391, R404). -/
def setPort (s : State) (p v : Nat) : State :=
  let was := s.portState p
  let s := s.wr (fpStatus p) fFP_STATUS_STATE v
  let flag := fun (m : Nat) (on : Bool) => if on then Nat.lor m (2 ^ p) else m - Nat.land m (2 ^ p)
  let s := s.wr FAB_STATUS fFAB_STATUS_UP (flag (s.rd FAB_STATUS fFAB_STATUS_UP) (v = psUp))
  let s := s.wr FAB_STATUS fFAB_STATUS_ISOLATED (flag (s.rd FAB_STATUS fFAB_STATUS_ISOLATED) (v = psIsolated))
  if was = psUp && v ≠ psUp then s.bump (FP_DOWNS (p / 4) (p % 4)) fFP_DOWNS_COUNT 1 else s

/-- The lane of a slot of a port (13 R367, R404). -/
def slotLane (s : State) (p slot : Nat) : Nat := s.rd (laneMap p) fFP_LANEMAP_SLOTS / 32 ^ slot % 32

/-- The slot of a port that a lane serves. -/
def laneSlot (s : State) (p lane : Nat) : Option Nat := (List.range 4).find? fun k => s.slotLane p k = lane

def lane (p l : Nat) : Nat := FL_STATUS (p / 4) l

/-- A lane marked as serving a port, or not (13 R404). -/
def laneUse (s : State) (p l : Nat) (on : Bool) : State :=
  (s.wr (lane p l) fFL_STATUS_IN_USE (if on then 1 else 0)).wr (lane p l) fFL_STATUS_PORT (if on then p % 4 else 0)

/-- The receive latency of a port in 1/16 beat, the deskew offset of slot 0 with it (13 R390, R404; log entry 45). -/
def rxLatency (s : State) (p : Nat) : Nat := Config.rxLat p + 8 * (s.rd (FP_SKEW (p / 4) (p % 4)) fFP_SKEW_SKEW % 256)

/-- The identity that DISC carries (13 R392); its order of words is the model's own (log entry 44). -/
def identity (s : State) (p gen : Nat) : List Nat :=
  [s.node, s.rd FAB_ID fFAB_ID_DOMAIN, s.rd PKG_ID fPKG_ID_DEVID, gen, p, s.rd (fpStatus p) fFP_STATUS_PAIRED,
    s.rd FAB_ID fFAB_ID_ELIGIBLE, Config.txLat p, s.rxLatency p, s.enrolled]

/-- A CTRL packet for the partner of an UP port (13 R394, 14 R413). -/
def sendLink (s : State) (port typ : Nat) (words : List Nat) : State := (s.transmit port (s.linkPacket port typ words)).linkNext port

/-- DISC leaves by a port that trains or is ISOLATED, which carries nothing else (13 R391, R392). -/
def sendDisc (s : State) (port : Nat) : State := (s.launch port (s.linkPacket port 0x30 (s.identity port s.gen))).linkNext port

/-- Packets of a failed port, sent again over the route table or kept until a new route (13 R399). -/
def resendAll (s : State) (l : List Packet) : State :=
  l.foldl (fun s p => match s.send p with
    | some s => s
    | none => s.modFab fun f => { f with orphans := f.orphans ++ [p] }) s

/-- What concerns the partner of a port alone: time exchanges, DISC, claims, and enrolment requests, which their sender repeats (13 R388, R392, R394); it
is not sent again by another way. -/
def linkOnly (p : Packet) : Bool := p.vc = 4 || p.typ = 0x30 || p.typ = 0x31 || p.typ = 0x3D

/-- A port fails (13 R399): DOWN, PORT_DOWN; its packets, those unacknowledged as resends, go by another port or wait; the Ringmaster is told
unless the other port of a PAIRED group is UP. -/
def portFail (s : State) (p : Nat) : State :=
  if s.portState p = psDown then s
  else
    let x := s.port p
    let other := p / 2 * 2 + (1 - p % 2)
    let s := (s.setPort p psDown).modPort p fun _ => { PortSt.reset with ident := x.ident }
    let s := (List.range 4).foldl (fun s k => s.laneUse p (s.slotLane p k) false) s
    let s := s.raise FAB_EVENTS fFAB_EVENTS_PORT_DOWN
    let lost := (x.replay.filterMap fun e => e.pkt).map fun q => { q with dup := true }
    let s := s.resendAll ((lost ++ x.queue).filter fun q => !linkOnly q)
    if s.on (fpStatus p) fFP_STATUS_PAIRED && s.portUp other then s else s.health 6 [p]

/-- The spare of a port's group that may take a slot of it: locked, free, not retired; a SINGLE group's serves one port (13 R368, R398). -/
def spareOf (s : State) (p : Nat) : Option Nat :=
  let l := 16 + p % 4 / 2
  let b := match s.pkg.image with
    | some i => (i.ports.getD (p / 4) (0, 0, 0)).1
    | none => 0
  let mine := s.on (fpStatus p) fFP_STATUS_PAIRED || decide (b / 2 ^ (2 + p % 4 / 2) % 2 = p % 2)
  if mine && s.on (lane p l) fFL_STATUS_LOCK && !s.on (lane p l) fFL_STATUS_IN_USE && !s.on (lane p l) fFL_STATUS_RETIRED then some l else none

/-- A lane of a port is failing (13 R398): RECOVER with PAUSE and SWITCH, or the port fails; the lane whose switch is under way goes on failing until
it has moved. -/
def laneFail (s : State) (p slot : Nat) : State :=
  match s.portState p, s.spareOf p with
  | 2, some l =>
    let s := (s.setPort p psRecover).modPort p fun x => { x with paused := true, switching := some slot }
    (s.sendCtl p 4 0).sendCtl p 3 (slot + 16 * (l - 16))
  | 2, none => s.portFail p
  | 3, _ => if (s.port p).switching = some slot then s else s.portFail p
  | _, _ => s

/-- A slot moves to the spare (13 R398). -/
def takeSpare (s : State) (p slot l : Nat) : State :=
  let old := s.slotLane p slot
  let m := s.rd (laneMap p) fFP_LANEMAP_SLOTS
  let s := s.wr (laneMap p) fFP_LANEMAP_SLOTS (m - old * 32 ^ slot + l * 32 ^ slot)
  let s := ((s.laneUse p old false).wr (lane p old) fFL_STATUS_RETIRED 1).laneUse p l true
  (s.wr (fpStatus p) fFP_STATUS_SPARE_USED 1).raise FAB_EVENTS fFAB_EVENTS_LANE_SWITCH

/-- Every flit not acknowledged is sent again (13 R373, R398). -/
def replayAll (s : State) (p : Nat) : State :=
  match (s.port p).replay.head? with
  | some e => s.emit (.resend p e.seq ((s.port p).replay.map (·.n)).sum)
  | none => s

/-- A SWITCH entry: a confirmation ends RECOVER with RESUME and the flits since the last acknowledged; a proposal is confirmed when the spare is free
(13 R398). Its spare lane is the partner's, that of the group of the partner's port: an entry that names the other has no effect (DEDUCED, log
entry 45). -/
def gotSwitch (s : State) (p slot spare : Nat) : State :=
  if spare ≠ s.rd (fpStatus p) fFP_STATUS_PPORT % 4 / 2 then s
  else match s.portState p, (s.port p).switching, s.spareOf p with
  | 3, some k, some l =>
    if k ≠ slot then s
    else
      let s := (s.takeSpare p slot l).setPort p psUp
      let from_ := match (s.port p).replay.head? with
        | some e => e.seq
        | none => (s.port p).txSeq
      let s := (s.replayAll p).modPort p fun x => { x with paused := false, switching := none }
      (s.sendCtl p 5 from_).drainPort p
  | 2, _, some l => (s.sendCtl p 3 (slot + 16 * (l - 16))).takeSpare p slot l
  | _, _, _ => s

/-- A NAK entry: flits from a sequence number on are sent again (13 R373). -/
def gotNak (s : State) (p seq : Nat) : State :=
  let l := (s.port p).replay.filter fun e => (e.seq + e.n - 1 + 4096 - seq) % 4096 < 2048
  let n := (l.map fun e => e.n - (if (seq + 4096 - e.seq) % 4096 < 2048 then (seq + 4096 - e.seq) % 4096 else 0)).sum
  let s := (s.emit (.resend p seq n)).bump (FP_RETRY (p / 4) (p % 4)) fFP_RETRY_COUNT 1
  s.modPort p fun x => { x with retries := x.retries + 1 }

/-- Flits up to a sequence number are acknowledged (13 R372, R373). -/
def gotAck (s : State) (p ack : Nat) : State :=
  s.modPort p fun x => { x with replay := x.replay.filter fun e => 2048 ≤ (ack + 4096 - (e.seq + e.n - 1) % 4096) % 4096 }

/-- Returned credits (13 R374). -/
def gotCredit (s : State) (p vc cls n : Nat) : State :=
  let k := 2 * vc + cls
  (s.modPort p fun x => { x with used := sput 0 k (sget 0 k x.used - n) x.used }).drainPort p

/-- PAUSE: the partner sends no packet data until RESUME (13 R374). -/
def gotPause (s : State) (p : Nat) : State := s.modPort p fun x => { x with peerPaused := true }

/-- A NAK leaves (13 R373). -/
def sendNak (s : State) (p : Nat) : State := (s.modPort p fun x => { x with nakOut := true }).sendCtl p 1 (s.port p).rxSeq

/-- RESUME: the partner goes on from a sequence number (13 R374, R398). Flits before the one expected are its replay and need no NAK; when it lies after
that one, flits are missing, and a NAK names them (R373). -/
def gotResume (s : State) (p seq : Nat) : State :=
  let ahead := (seq + 4096 - (s.port p).rxSeq) % 4096
  let s := s.modPort p fun x => { x with peerPaused := false, nakOut := decide (2048 ≤ ahead) }
  if 0 < ahead && decide (ahead < 2048) then s.sendNak p else s

/-- One entry of a link-control flit (13 R374). -/
def linkEntry (s : State) (p e : Nat) : State :=
  match nbitsAt e 63 60 with
  | 1 => s.gotNak p (nbitsAt e 11 0)
  | 2 => s.gotCredit p (nbitsAt e 10 8) (nbitsAt e 7 7) (nbitsAt e 6 0)
  | 3 => s.gotSwitch p (nbitsAt e 1 0) (nbitsAt e 4 4)
  | 4 => s.gotPause p
  | 5 => s.gotResume p (nbitsAt e 11 0)
  | _ => s

/-- Credits returned when 16 units have gathered on a VC or 64 flits have come (13 R374). -/
def returnCredits (s : State) (p : Nat) : State :=
  let x := s.port p
  let due := x.owed.filter fun o => 16 ≤ o.2 || 64 ≤ x.since
  if due.isEmpty then s
  else
    let s := s.modPort p fun x => { x with owed := x.owed.filter (fun o => !(16 ≤ o.2 || 64 ≤ x.since)), since := if 64 ≤ x.since then 0 else x.since }
    due.foldl (fun s o => s.sendCtl p 2 (o.1 / 2 * 256 + o.1 % 2 * 128 + min 127 o.2)) s

/-- A received packet leaves its buffer (13 R375). -/
def takeRx (s : State) (port : Nat) (p : Packet) : State :=
  if (s.port port).rx.contains p then
    (s.modPort port fun x => { x with rx := x.rx.erase p, owed := sput 0 (vcKey p) (sget 0 (vcKey p) x.owed + units p) x.owed }).returnCredits port
  else s

/-- The package that a request of a job goes to: that of its hall address, or of a remote increment's NODE (09 R264, 12 R346). -/
def reqNode (j : Job) (q : MoveReq) : Nat := if j.kind = .remInc then j.args.headD 0 else hallNode q.addr

/-- The moves, remote increments and update-die requests with a request that `hit` picks by node, SEP and TAG end PARTNER_RESET (16 R497, R498);
how many requests that were. -/
def endWhere (s : State) (hit : Nat → Nat → Nat → Bool) : State × Nat :=
  let hits := fun (b : Nat) (j : Job) => (j.reqs.filter fun q => hit (reqNode j q) b q.tag).length
  let jobs := s.cores.flatMap fun c => (c.2.jobs.filter fun j => (j.kind = .dmov || j.kind = .remInc) && decide (0 < hits c.1 j)).map fun j => (c.1, j)
  let uds := [0, 1].flatMap fun d => ((s.udReqs d).filter fun q => hit (hallNode q.addr) (288 + d) q.tag).map fun q => (d, q.tag)
  let count := (jobs.map fun j => hits j.1 j.2).sum + uds.length
  let s := jobs.foldl (fun s j =>
    if j.2.kind = .remInc then ((s.dropJob j.1 j.2.ord).slipCheck j.1 j.2.iss.tick).moveFail j.1 j.2.iss.stream j.2.iss.pc 0x05 else s.moveFailed j.1 j.2 0x05) s
  let s := uds.foldl (fun s q => s.udEnd q.1 q.2 0x05) s
  (if count = 0 then s else (s.bump PKG_PRESET fPKG_PRESET_COUNT count).raise PKG_EVENTS fPKG_EVENTS_PARTNER_RESET, count)

/-- The generation of a node as learned (13 R387, 16 R498): requests outstanding to it end PARTNER_RESET. -/
def endTo (s : State) (n : Nat) : State :=
  let s := (s.endWhere fun node _ _ => node = n).1
  s.cores.foldl (fun s c => s.cancelProbes c.1 fun p => p.node = n && p.node ≠ s.node) s

def learnGen (s : State) (n g : Nat) : State :=
  if s.genOf n = g then s
  else (s.modFab fun f => { f with gens := sput 0 n g f.gens, next := f.next.filter fun x => x.1 ≠ n, held := f.held.filter fun m => m.src ≠ n }).endTo n

/-- A response or refusal sent back to a requester (13 R377-R380): SEP and TAG are the request's, EGEN its SGEN. -/
def answerTo (s : State) (q : Packet) (typ status : Nat) (data : List Nat) : Packet :=
  ⟨typ, 1, 0, true, false, 0, s.gen, q.sgen, s.node, q.src, q.sep, status, q.tag, data.length, 0, 0, 0, 0, 0, 0, data⟩

/-- A response leaves; without a route it is dropped and counted (13 R396). -/
def reply (s : State) (p : Packet) : State :=
  match s.send p with
  | some s => s
  | none => s.bump FAB_DROP fFAB_DROP_NOROUTE 1

/-- A packet for another node is forwarded (13 R385, R396). -/
def forward (s : State) (port : Nat) (p : Packet) : State :=
  let trust := p.trust && s.on (fpStatus port) fFP_STATUS_TRUSTED
  if 15 ≤ p.hops + 1 then (s.bump FAB_DROP fFAB_DROP_LOOP 1).raise FAB_EVENTS fFAB_EVENTS_LOOP_DROP
  else if s.enrolled < 2 then s
  else match s.send { p with hops := p.hops + 1, trust := trust } with
    | some s => s
    | none =>
      let s := s.bump FAB_DROP fFAB_DROP_NOROUTE 1
      if isRequest p.typ && p.typ ≠ 2 then (match s.send (s.answerTo p 0x15 7 []) with
        | some s => s
        | none => s)
      else s

end State

/-- A port with EN set detects signal (13 R391). -/
def execSignalDetected (port : Nat) (s : State) : Res :=
  .next (
    if s.portHere port && s.on (State.fpCtrl port) fFP_CTRL_EN && s.on FAB_CTRL fFAB_CTRL_EN
        && (s.portState port = psDown || s.portState port = psIsolated) && 2 ≤ s.pkState && s.pkState ≠ pkRecovery then
      s.setPort port psTraining
    else s)

/-- A port's lanes lock and deskew, and it sends DISC; or its training fails, as it does beyond the skew tolerated (13 R371, R391, R392). -/
def execTrainingComplete (port skew : Nat) (ok : Bool) (s : State) : Res :=
  .next (
    if s.portState port ≠ psTraining || !s.portHere port then s
    else if !ok || !skewOk skew then s.setPort port psDown
    else
      let q := port % 4
      let s := s.modPort port fun x => { PortSt.reset with ident := x.ident }
      let s := s.setReg (State.laneMap port) (BitVec.ofNat 64 ((4 * q) + (4 * q + 1) * 32 + (4 * q + 2) * 1024 + (4 * q + 3) * 32768))
      let s := [4 * q, 4 * q + 1, 4 * q + 2, 4 * q + 3].foldl (fun s l =>
        ((s.wr (State.lane port l) fFL_STATUS_LOCK 1).wr (State.lane port l) fFL_STATUS_RETIRED 0).laneUse port l true) s
      let sp := 16 + q / 2
      let s := ((s.wr (State.lane port sp) fFL_STATUS_LOCK 1).wr (State.lane port sp) fFL_STATUS_RETIRED 0)
      let s := if s.rd (State.lane port sp) fFL_STATUS_PORT = q then s.laneUse port sp false else s
      let s := (s.wr (State.fpStatus port) fFP_STATUS_SPARE_USED 0).wr (FP_SKEW (port / 4) q) fFP_SKEW_SKEW skew
      s.sendDisc port)

/-- A DISC refuses the port (13 R392): domains differ, roles contradict, or a PAIRED group's ports reach different partners. -/
def discRefused (s : State) (port : Nat) (id : Ident) : Bool :=
  let other := port / 2 * 2 + (1 - port % 2)
  let paired := s.on (State.fpStatus port) fFP_STATUS_PAIRED
  id.domain ≠ s.rd FAB_ID fFAB_ID_DOMAIN || id.paired ≠ paired
    || (paired && s.portUp other && match (s.port other).ident with
      | some o => o.node ≠ id.node
      | none => false)

/-- A DISC is received (13 R391-R393, R387). -/
def execDisc (port : Nat) (id : Ident) (s : State) : Res :=
  .next (
    let st := s.portState port
    if st = psDown || !s.portHere port then s
    else
      let s := match (s.port port).rx.find? fun p => p.typ = 0x30 with
        | some p => s.takeRx port p
        | none => s
      let changed := (s.port port).ident.any fun o => o.gen ≠ id.gen
      let s := s.modPort port fun x => { x with ident := some id }
      let s := s.wr (State.fpStatus port) fFP_STATUS_PGEN id.gen
      let s := if changed then s.raise FAB_EVENTS fFAB_EVENTS_GEN_CHANGE else s
      let s := s.learnGen id.node id.gen
      if st ≠ psTraining then s
      else if discRefused s port id then (s.setPort port psIsolated).raise FAB_EVENTS fFAB_EVENTS_PORT_ISOLATED
      else
        let s := (s.wr (State.fpStatus port) fFP_STATUS_PNODE id.node).wr (State.fpStatus port) fFP_STATUS_PPORT id.port
        let s := s.setPort port psUp
        if s.on FAB_CTRL fFAB_CTRL_AUTO && s.enrolled = 0 then s.setEnrol 1 else s)

/-- Packets taken into the receive buffers (13 R375): none of an unknown type, which is counted (R378), and only DISC before a port is UP or while it is
ISOLATED (R391, R392). -/
def State.keepRx (s : State) (port : Nat) (l : List Packet) : State :=
  let known := l.filter fun p => typeKnown p.typ
  let up := s.portState port = psUp || s.portState port = psRecover
  let s := s.modPort port fun x => { x with rx := x.rx ++ known.filter fun p => up || p.typ = 0x30 }
  s.bump FAB_DROP fFAB_DROP_NOROUTE (l.length - known.length)

/-- A flit arrives (13 R370, R372, R373): its 136 bytes as the decoder leaves them, and the symbol errors of the two codewords of the pair that
carried it. A flit of an uncorrectable codeword or of a wrong CRC is discarded and a NAK sent; one out of order is discarded, with a NAK unless one is out. -/
def execFlitReceive (port : Nat) (head body crc : List Nat) (errA errB : Nat) (s : State) : Res :=
  .next (
    let bytes := head ++ body ++ crc
    if s.portState port = psDown then s
    else if !correctable errA || !correctable errB || !flitIntact bytes then s.sendNak port
    else
      let s := s.gotAck port (flitAck bytes)
      if flitFt bytes = 0 then s.drainPort port
      else if flitSeq bytes ≠ (s.port port).rxSeq then (if (s.port port).nakOut then s else s.sendNak port)
      else
        let s := s.modPort port fun x => { x with rxSeq := (x.rxSeq + 1) % 4096, nakOut := false, since := x.since + 1 }
        let s := s.bump (FP_RX_FLITS (port / 4) (port % 4)) fFP_RX_FLITS_COUNT 1
        let s := if flitFt bytes = 1 then
            let r := parseBody 1024 ((s.port port).part ++ flitBody bytes)
            (s.modPort port fun x => { x with part := r.2 }).keepRx port r.1
          else (flitBody bytes).foldl (fun s e => s.linkEntry port e) s
        (s.returnCredits port).drainPort port)

/-- A link-control NAK (13 R373). -/
def execLinkControlNak (port seq : Nat) (s : State) : Res :=
  .next (if s.portState port = psUp || s.portState port = psRecover then s.gotNak port (seq % 4096) else s)

/-- Credits return (13 R374). -/
def execCredit (port vc cls count : Nat) (s : State) : Res :=
  .next (if s.portState port = psUp || s.portState port = psRecover then s.gotCredit port (vc % 8) (cls % 2) (count % 128) else s)

/-- A spare-lane switch is proposed or confirmed (13 R398). -/
def execSwitch (port : Nat) (e : SwitchEntry) (s : State) : Res := .next (s.gotSwitch port (e.slot % 4) (e.spare % 2))

/-- The partner pauses (13 R374). -/
def execPause (port : Nat) (s : State) : Res :=
  .next (if s.portState port = psUp || s.portState port = psRecover then s.gotPause port else s)

/-- The partner resumes (13 R374). -/
def execResume (e : ResumeEntry) (s : State) : Res :=
  .next (if s.portState e.port = psUp || s.portState e.port = psRecover then s.gotResume e.port (e.seq % 4096) else s)

/-- The package port that a lane of a die serves, and its slot. -/
def servedBy (s : State) (die ln : Nat) : Option (Nat × Nat) :=
  (List.range 4).findSome? fun q => match s.laneSlot (4 * die + q) ln with
    | some k => if s.on (FL_STATUS die ln) fFL_STATUS_IN_USE then some (4 * die + q, k) else none
    | none => none

/-- A lane's 100 us window closes with corrected symbols and uncorrectable codewords (13 R398, R399, R404). -/
def execLaneErrorWindow (die ln ser unc : Nat) (s : State) : Res :=
  .next (
    if 4 ≤ die || 18 ≤ ln then s
    else
      let s := (s.wr (FL_STATUS die ln) fFL_STATUS_SER (min ser (2 ^ 32 - 1))).bump (FL_ERR die ln) fFL_ERR_COUNT ser
      match servedBy s die ln with
      | none => s
      | some (p, k) =>
        let s := (s.bump (FP_FEC_CORR die (p % 4)) fFP_FEC_CORR_COUNT ser).bump (FP_FEC_UNC die (p % 4)) fFP_FEC_UNC_COUNT unc
        let many := decide (s.rd FAB_THRESH fFAB_THRESH_RETRY_THR < (s.port p).retries)
        let s := if k = 0 then s.modPort p fun x => { x with retries := 0 } else s
        if k = 0 && many then s.portFail p
        else if decide (s.rd FAB_THRESH fFAB_THRESH_SER_THR < ser) || decide (s.rd FAB_THRESH fFAB_THRESH_UNC_THR < unc) then s.laneFail p k
        else s)

/-- A lane loses marker lock: it is failing; a port without lock on two lanes fails (13 R398, R399). -/
def execMarkerLockLoss (die ln : Nat) (s : State) : Res :=
  .next (
    if 4 ≤ die || 18 ≤ ln then s
    else
      let s := s.wr (FL_STATUS die ln) fFL_STATUS_LOCK 0
      match servedBy s die ln with
      | none => s
      | some (p, k) =>
        let lost := (List.range 4).filter fun j => !s.on (FL_STATUS die (s.slotLane p j)) fFL_STATUS_LOCK
        if 2 ≤ lost.length then s.portFail p else s.laneFail p k)

/-- No confirmation within 500 us (13 R398). -/
def execSwitchTimeout (port : Nat) (s : State) : Res := .next (if s.portState port = psRecover then s.portFail port else s)

/-- A port loses lock on two lanes or more, or its partner's markers (13 R399). -/
def execPortFailure (port : Nat) (s : State) : Res := .next (s.portFail port)

/-- A packet for another node is in transit (13 R396). -/
def execTransitForward (port : Nat) (p : Packet) (s : State) : Res :=
  .next (
    if s.portState port ≠ psUp && s.portState port ≠ psRecover then s
    else if p.dst = s.node then s
    else (s.takeRx port p).forward port p)

end Sys2Proof.Machine
end

