-- ==== Sys2Proof/Machine/FabPackets.lean ====
section
/-!
DEFINITION. Machine/FabPackets.lean: fabric packets at their destination: requests served, responses matched to requests, time exchanges
(13 R376-R390, 16 R499, 08 R229).
-/

namespace Sys2Proof.Machine

namespace State

/-- A packet of a type reaches this package by a port (13 R385, R387, R393, R396, 16 R499): forwarded when it is for another node,
discarded when the enrolment state or its generation does not admit it; its trust as the port leaves it. -/
def arrive (s : State) (port : Nat) (p : Packet) (typ : Nat) : State × Option Packet :=
  if p.typ ≠ typ || (s.portState port ≠ psUp && s.portState port ≠ psRecover) then (s, none)
  else
    let s := s.takeRx port p
    if p.dst ≠ s.node then (s.forward port p, none)
    else if s.enrolled < 2 then (s, none)
    else if p.egen ≠ s.gen then
      ((s.bump FAB_GEN_DISC fFAB_GEN_DISC_COUNT 1).raise PKG_EVENTS fPKG_EVENTS_GEN_DISC, none)
    else (s, some { p with trust := p.trust && s.on (fpStatus port) fFP_STATUS_TRUSTED })

/-- A request is permitted under the matrix row of its trust (13 R385): FAB_READ is bit 16, and so on in the order of R378. -/
def fabMay (s : State) (p : Packet) (bit : Nat) : Bool := s.holds (if p.trust then 2 else 3) bit

/-- A request arrives and is checked: refused ones are answered PERM (13 R385). -/
def request (s : State) (port : Nat) (p : Packet) (typ : Nat) (f : State → Packet → State) : State :=
  match s.arrive port p typ with
  | (s, none) => s
  | (s, some p) =>
    if s.fabMay p (15 + typ) then f s p
    else
      let s := s.bump FAB_PERM fFAB_PERM_COUNT 1
      if typ = 2 then s else s.reply (s.answerTo p 0x15 6 [])

/-- A request that breaks a rule of 13 R379 or R381 (13 R379). -/
def unmapped (s : State) (p : Packet) : State := s.reply (s.answerTo p 0x15 4 [])

/-- The rules of RD and RDP (13 R379). -/
def rdRuleOk (p : Packet) : Bool :=
  (p.len = 64 || p.len = 128 || p.len = 192 || p.len = 256) && p.addr % 64 = 0 && p.addr % 256 + p.len ≤ 256

/-- The rules of WR (13 R379). -/
def wrRuleOk (p : Packet) : Bool := p.len % 8 = 0 && p.addr % 8 = 0 && p.addr % 256 + p.len ≤ 256 && p.data.length = p.len

/-- RD served (13 R376, R379, R380). In HALTED only the stack tier is served (16 R484). DESIGN CHOICE (log entry 40): the spec does not say how
a HALTED package answers a far- or peat-tier RD or WR; the model answers NAK with status 5, REFUSED. -/
def serveRd (s : State) (p : Packet) : State :=
  if p.len = 0 then s.reply (s.answerTo p 0x10 0 [])
  else if !rdRuleOk p then s.unmapped p
  else if s.pkState = pkHalted && hallTier p.addr ≠ 0 then s.reply (s.answerTo p 0x15 5 [])
  else
    let r := s.hallRead p.addr p.len ⟨p.hint, p.use, false⟩
    if r.st = rsOk then r.s.reply (r.s.answerTo p 0x10 0 r.data) else r.s.reply (r.s.answerTo p 0x15 r.st [])

/-- WR served (13 R379, R380); in HALTED as RD is (log entry 40). -/
def serveWr (s : State) (p : Packet) : State :=
  if p.len = 0 then s.reply (s.answerTo p 0x11 0 [])
  else if !wrRuleOk p then s.unmapped p
  else if s.pkState = pkHalted && hallTier p.addr ≠ 0 then s.reply (s.answerTo p 0x15 5 [])
  else
    let r := s.hallWrite p.addr p.data ⟨p.hint, p.use, false⟩
    if r.st = rsOk then r.s.reply (r.s.answerTo p 0x11 0 []) else r.s.reply (r.s.answerTo p 0x15 r.st [])

/-- A received probe is served as a local one, or dropped (13 R383, 07 R205); an empty one is answered at once, one that breaks the rules of
length and alignment UNMAPPED (13 R379). -/
def serveRdp (s : State) (p : Packet) : State :=
  if p.len = 0 then s.reply (s.answerTo p 0x14 0 [])
  else if !rdRuleOk p then s.unmapped p
  else if hallTier p.addr ≠ 0 || s.rd (DM_CTRL 0) fDM_CTRL_RATICKS = 0 || s.stackGate (hallOff p.addr) ≠ rsOk then s
  else
    let s := s.bump (DM_RA_PROBES 0) fDM_RA_PROBES_COUNT 1
    let s := (List.range (p.len / 64)).foldl (fun s k => s.probeLine (hallOff p.addr + 64 * k) (0, 0, 0)) s
    s.reply (s.answerTo p 0x14 0 [])

/-- The record of a request already applied (13 R386). -/
def dupOf (s : State) (p : Packet) : Option DupRec :=
  s.fab.dups.find? fun d => d.src = p.src && d.sep = p.sep && d.tag = p.tag && d.sgen = p.sgen

/-- A record kept of a request applied, the oldest retired when the table is full (13 R386). -/
def keepDup (s : State) (p rsp : Packet) : State :=
  let full := decide (65536 ≤ s.fab.dups.length)
  let s := if full then s.raise FAB_EVENTS fFAB_EVENTS_DUPREC_OVF else s
  s.modFab fun f => { f with dups := (if full then f.dups.drop 1 else f.dups) ++ [⟨p.src, p.sep, p.tag, p.sgen, rsp, s.beat⟩] }

/-- A non-idempotent request: a resend whose record is held is answered from it; any other is recorded when it has been applied (13 R386). -/
def once (s : State) (p : Packet) (f : State → Packet → State × Packet) : State :=
  match if p.dup then s.dupOf p else none with
  | some d => (s.bump FAB_DUP fFAB_DUP_SUPPRESSED 1).reply d.rsp
  | none =>
    let r := f s p
    (if r.2.status = 0 then r.1.keepDup p r.2 else r.1).reply r.2

/-- AT applied at the stack site (13 R381). -/
def serveAt (s : State) (p : Packet) : State × Packet :=
  let n := if p.asz = 1 then 8 else 4
  if 8 ≤ p.aop || p.addr % n ≠ 0 || 2 ≤ hallTier p.addr then (s, s.answerTo p 0x15 4 [])
  else if hallTier p.addr = 1 then (s, s.answerTo p 0x15 5 [])
  else
    let r := s.atomic (hallOff p.addr) p.aop n (ofLeBytes (p.data.take n)) (ofLeBytes ((p.data.drop n).take n))
    (r.s, if r.st = rsOk then r.s.answerTo p 0x12 0 r.data else r.s.answerTo p 0x15 r.st [])

/-- INC applied under its epoch (13 R382, 09 R260, R264). -/
def serveInc (s : State) (p : Packet) : State × Packet :=
  let s := s.bump TS_RINC fTS_RINC_COUNT 1
  let s := s.applyInc ⟨nbitsAt p.addr 63 50, nbitsAt p.addr 41 18, nbitsAt p.addr 49 42, p.src⟩
  (s, s.answerTo p 0x13 0 [])

/-- A response answers a request of a core: a move's read or write (07 R196), or a remote increment (09 R264). -/
def coreReply (s : State) (b : Nat) (j : Job) (p : Packet) : State :=
  if j.kind = .remInc then
    let s := s.dropJob b j.ord
    if p.status ≠ 0 then (s.slipCheck b j.iss.tick).moveFail b j.iss.stream j.iss.pc (dmStatus p.status)
    else if j.word.toNat = 0 then s else s.finish b j.iss
  else
    s.setJob b j.ord fun x =>
      let q := x.reqs.find? fun q => q.tag = p.tag
      { x with
        reqs := x.reqs.filter fun q => q.tag ≠ p.tag
        rx := match q with
          | some q => if q.write || p.status ≠ 0 then x.rx else memStore x.rx q.addr (p.data.take q.len)
          | none => x.rx
        fail := if p.status = 0 then x.fail else some (dmStatus p.status) }

/-- A response of a type arrives: it answers the outstanding request that SEP and TAG name, or is discarded: as late when its
request has ended by then (12 R359), else as stray (13 R380). -/
def response (s : State) (port : Nat) (p : Packet) (typ : Nat) : State :=
  match s.arrive port p typ with
  | (s, none) => s
  | (s, some p) =>
    let stray := match s.fab.gone.find? fun q => q.1 = p.sep && q.2.1 = p.tag with
      | some q =>
        let t := s.modFab fun f => { f with gone := f.gone.erase q }
        if s.outran 3 q.2.2 then t.countLateReply 3 else t
      | none => s.bump FAB_DUP fFAB_DUP_STRAY 1
    if p.sep < 288 then
      match (s.core p.sep).jobs.find? fun j => j.reqs.any fun q => q.tag = p.tag with
      | some j => s.coreReply p.sep j p
      | none => stray
    else if p.sep < 290 then (if s.udWaits (p.sep - 288) p.tag then s.udReply (p.sep - 288) p.tag p.status p.data else stray)
    else stray

end State

/-- RD arrives (13 R379). -/
def execFabRd (port : Nat) (p : Packet) (s : State) : Res := .next (s.request port p 0x01 State.serveRd)

/-- RDP arrives (13 R383). -/
def execFabRdp (port : Nat) (p : Packet) (s : State) : Res := .next (s.request port p 0x02 State.serveRdp)

/-- WR arrives (13 R379). -/
def execFabWr (port : Nat) (p : Packet) (s : State) : Res := .next (s.request port p 0x03 State.serveWr)

/-- AT arrives (13 R381, R386). -/
def execFabAt (port : Nat) (p : Packet) (s : State) : Res :=
  .next (s.request port p 0x04 fun s p => s.once p State.serveAt)

/-- INC arrives (13 R382, R385, R386, 09 R264): a refusal is answered INCACK PERM and counted in TS_REFUSED. -/
def execFabInc (port : Nat) (p : Packet) (s : State) : Res :=
  .next (match s.arrive port p 0x05 with
    | (s, none) => s
    | (s, some p) =>
      if s.fabMay p 20 then s.once p State.serveInc
      else
        let s := (s.bump FAB_PERM fFAB_PERM_COUNT 1).bump TS_REFUSED fTS_REFUSED_COUNT 1
        s.reply (s.answerTo p 0x13 6 []))

/-- RDR returns (13 R380). -/
def execFabRdr (port : Nat) (p : Packet) (s : State) : Res := .next (s.response port p 0x10)

/-- WACK returns (13 R380). -/
def execFabWack (port : Nat) (p : Packet) (s : State) : Res := .next (s.response port p 0x11)

/-- ATR returns (13 R380, R381): no unit of this package keeps an atomic outstanding, so it is stray (log entry 46). -/
def execFabAtr (port : Nat) (p : Packet) (s : State) : Res := .next (s.response port p 0x12)

/-- INCACK returns (13 R382, 09 R264). -/
def execFabIncack (port : Nat) (p : Packet) (s : State) : Res := .next (s.response port p 0x13)

/-- PACK returns: the probe's fills are the other package's; its request is no longer outstanding, or it is stray (13 R380, R383). -/
def execFabPack (port : Nat) (p : Packet) (s : State) : Res :=
  .next (match s.arrive port p 0x14 with
    | (s, none) => s
    | (s, some p) =>
      if p.sep < 288 && (s.core p.sep).probes.any (fun x => x.tags.contains p.tag) then
        s.modCore p.sep fun c => { c with probes := c.probes.map fun x => { x with tags := x.tags.erase p.tag } }
      else s.bump FAB_DUP fFAB_DUP_STRAY 1)

/-- NAK returns (13 R380). -/
def execFabNak (port : Nat) (p : Packet) (s : State) : Res := .next (s.response port p 0x15)

/-- A parent stamps a TREQ and answers TRSP by the same port (13 R388, 08 R229); one that is not enrolled accepts none (R393). -/
def execTreq (port : Nat) (p : Packet) (s : State) : Res :=
  .next (
    if p.typ ≠ 0x20 || (s.portState port ≠ psUp && s.portState port ≠ psRecover) then s
    else
      let s := s.takeRx port p
      if p.hops ≠ 0 || s.enrolled < 2 then s
      else
      let t := leBytes 8 (s.now16 % 2 ^ 64)
      let q := s.answerTo p 0x21 0 (t ++ t ++ leBytes 8 (s.rd TIME_STATUS fTIME_STATUS_ACQ))
      s.transmit port { q with vc := 4, addr := p.addr })

/-- TRSP arrives: the exchange runs, or is discarded when its number is not the last TREQ's or its ACQ is 0 (13 R388, 08 R229). A
Ringmaster that waits takes the first partner that reports ACQ as its temporary parent (08 R231). -/
def execTrsp (port : Nat) (p : Packet) (s : State) : Res :=
  .next (
    if p.typ ≠ 0x21 || (s.portState port ≠ psUp && s.portState port ≠ psRecover) then s
    else
      let s := s.takeRx port p
      if p.hops ≠ 0 || s.enrolled < 2 then s
      else
      match s.time.treqOut.find? fun q => q.1 = port with
      | none => s.bump TIME_DISCARD fTIME_DISCARD_COUNT 1
      | some q =>
        if p.addr % 2 ^ 32 ≠ s.time.treqNo || ofLeBytes ((p.data.drop 16).take 8) % 2 = 0 then s.bump TIME_DISCARD fTIME_DISCARD_COUNT 1
        else
          let s := s.modTime fun t => { t with treqOut := t.treqOut.filter fun x => x.1 ≠ port }
          let s := if s.time.originWait && !s.on TIME_PARENT fTIME_PARENT_VALID then
              (((s.wr TIME_PARENT fTIME_PARENT_VALID 1).wr TIME_PARENT fTIME_PARENT_PORT port).wr TIME_PARENT fTIME_PARENT_NODE p.src).modTime
                fun t => { t with treqOut := [] }
            else s
          s.timeExchange q.2 (ofLeBytes (p.data.take 8)) (ofLeBytes ((p.data.drop 8).take 8)) s.now16)

/-- A record of an applied request is 4 ms old (13 R386). -/
def execDuplicateRecordExpiry (s : State) : Res :=
  .next (s.modFab fun f => { f with dups := f.dups.filter fun d => decide (s.beat < d.beat + 4000000) })

end Sys2Proof.Machine
end

