-- ==== Sys2Proof/Machine/QuantControl.lean ====
section
/-!
DEFINITION. Machine/QuantControl.lean: the Sideshow unit and the Safety net: SSMUL (05 R122-R124, R145, R148), SNCHK
(05 R129-R135, R146, R148).
-/

namespace Sys2Proof.Machine

/-- The rejection of quantisation control (05 R148). -/
def qcReject (s : State) (b i : Nat) (h : Head) (code : Nat) : State :=
  (s.unitFault (QC_FAULT b) code i h.pc).reject b i h.pc 3 code

/-- Fields and operands of SSMUL (05 R145). -/
def ssNc (w : Word) : Nat := bitsOf w 27 21
def ssCnt (w : Word) : Nat := bitsOf w 20 14
def ssRow0 (w : Word) : Nat := bitsOf w 34 28

def ssArgs (s : State) (b i : Nat) (w : Word) : List Nat :=
  let r := fun k => loc32 (s.sreg b i (k % 32))
  [r (bitsOf w 49 45), r (bitsOf w 49 45 + 1), r (bitsOf w 44 40), r (bitsOf w 44 40 + 1), r (bitsOf w 39 35)]

/-- Address of the weight side values of column j, and of the activation side values of row i (05 R122). -/
def ssWeightAt (args : List Nat) (j : Nat) : Nat := loc32 (args.getD 0 0 + j * args.getD 1 0)
def ssActAt (args : List Nat) (i : Nat) : Nat := loc32 (args.getD 2 0 + i * args.getD 3 0)

/-- The side-value ranges of an SSMUL (05 R122, R148). -/
def ssRanges (w : Word) (args : List Nat) : List (Nat × Nat) :=
  if ssCnt w = 0 ∨ ssNc w = 0 ∨ args.getD 4 0 = 0 then []
  else
    ((List.range (ssNc w)).map fun j => (ssWeightAt args j, 2 * ssCnt w))
      ++ (List.range (args.getD 4 0)).map fun i => (ssActAt args i, 2 * ssCnt w)

/-- The lowest free slot (05 R122). -/
def freeSlot (c : CoreSt) : Option Nat := c.side.findIdx? fun x => !x.used

/-- SSMUL: binds the lowest free slot to its stream, engine and tile (05 R122, R144, R148). The slot of an empty one names no job: order 0. -/
def execSsmul (core stream : Nat) (s : State) : Res :=
  .next (s.issue core stream (fun w => opc w = 0x44) fun s h =>
    let w := h.word
    let args := ssArgs s core stream w
    let c := s.core core
    match firstCode [((boundSlot c stream (drEng w) (bitsOf w 53 50)).isSome, 0x22),
        (decide (capacity (c.tile (drTile w)).iDepth < ssRow0 w + args.getD 4 0), 0x23),
        (ssCnt w ≠ s.rd (DM_SIDE core (stream - 1)) fDM_SIDE_CNT, 0x24),
        ((ssRanges w args).any fun r => !rangeOk r.1 r.2, 0x25)], freeSlot c with
    | some e, _ => qcReject s core stream h e
    | none, none => s
    | none, some k =>
      let iss := s.issuedOf core stream h
      let empty := ssCnt w = 0 || ssNc w = 0 || args.getD 4 0 = 0
      let s := s.accept core stream h
      let ord := (s.core core).nextOrd
      let s := s.modCore core fun c => c.setSlot k fun _ => ⟨true, true, stream, drEng w, bitsOf w 53 50, empty, if empty then 0 else ord, []⟩
      if empty then s.finish core iss
      else
        let wt := winTiles (ssRanges w args)
        s.addJob core ⟨0, .ssmul, iss, w, args, [], wt, portsOf wt, [], [], [], false, .none, none, 0⟩)

/-- The Sideshow word of element (r, j): a tree of B16 products in list order (03 R67, 05 R122). DESIGN CHOICE (log entry 12): the word carries no
events, so that a node of this tree that overflows raises no ACC_OVF in the tile's event byte; NONFINITE is raised at the addition. -/
def ssWord (c : CoreSt) (w : Word) (args : List Nat) (i j : Nat) : Nat :=
  let a := c.values .b16 (ssActAt args i) 0 (ssCnt w)
  let x := c.values .b16 (ssWeightAt args j) 0 (ssCnt w)
  let leaves := (List.range 64).map fun k => if k < ssCnt w then f32rne ((a.getD k Val.zero).mul (x.getD k Val.zero)) else 0
  (treeTop (treeNode .a32) ⟨0, 0⟩ (leaves.map pureE)).val

/-- SSMUL_COMPLETE: the slot's words are there (05 R122, R124). -/
def execSsmulComplete (core ord : Nat) (s : State) : Res :=
  .next (match s.job core ord with
    | none => s
    | some j =>
      if j.kind = .ssmul && (s.clocked && (s.core core).mayEnd j) then
        let c := s.core core
        let els := (List.range (j.args.getD 4 0)).flatMap fun i => (List.range (ssNc j.word)).map fun k =>
          ((ssRow0 j.word + i) * 64 + k, ssWord c j.word j.args i k)
        let ws := els.foldl (fun m (e : Nat × Nat) => sput 0 e.1 e.2 m) []
        let s := s.modCore core fun c =>
          { c with side := c.side.map fun x => if x.used && x.ord = ord then { x with done := true, words := ws } else x }
        let s := if els.any (fun e => !(f32v e.2).isFinite) then s.wr (SS_EVENTS core) fSS_EVENTS_NONFINITE 1 else s
        let bad := (ssRanges j.word j.args).foldl (fun n r => n + c.badIn r.1 r.2) 0
        let s := (s.bump (DR_PERR core) fDR_PERR_COUNT bad).bumpFree (SS_BUSY_CYC core) fSS_BUSY_CYC_BUSY_CYC
        (s.dropJob core ord).finish core j.iss
      else s)

/-- Trouble found in a tally window, as class bits (05 R128, R129). -/
def tallyTrouble (s : State) (b n : Nat) : Nat :=
  let el := s.rd (TL_W_ELEM b n) fTL_W_ELEM_ELEMS
  let cl := s.rd (TL_W_ELEM b n) fTL_W_ELEM_CLIP
  let thr := s.rd (TL_CFG b n) fTL_CFG_THR
  (if 0 < el ∧ s.rd (QC_THR b thr) fQC_THR_CLIP * el < cl * 65536 then 1 else 0)
    + (if s.rd (TL_W_BLK b n) fTL_W_BLK_EXH ≠ 0 && s.on (QC_THR b thr) fQC_THR_EXH_EN then 2 else 0)
    + (if s.rd (TL_W_BLK b n) fTL_W_BLK_NF ≠ 0 then 4 else 0)

/-- Trouble found in one engine's drain record, as class bits (05 R129, R149). -/
def drecTrouble (r : Nat) : Nat :=
  (if r / 2 % 2 = 1 then 4 else 0) + (if r % 2 = 1 || r / 4 % 2 = 1 then 8 else 0) + (if r / 8 % 2 = 1 then 16 else 0)

/-- The tallies that an SNCHK names (05 R146). -/
def snTallies (w : Word) : List Nat :=
  (if bitsOf w 45 45 = 1 then [bitsOf w 50 46] else []) ++ (if bitsOf w 39 39 = 1 then [bitsOf w 44 40] else [])

def snEngs (w : Word) : List Nat := [0, 1, 2, 3].filter fun e => bitsOf w 54 51 / 2 ^ e % 2 = 1

/-- The classes of trouble in the sources that an SNCHK names (05 R129, R130). -/
def trouble (s : State) (b i : Nat) (w : Word) : Nat :=
  let t := (snTallies w).foldl (fun a n => a ||| tallyTrouble s b n) 0
  let d := (snEngs w).foldl (fun a e => a ||| drecTrouble (s.rd (QC_DREC b (i - 1)) (drecFld e))) t
  if bitsOf w 33 33 = 1 && s.rd (QC_CROWD b) fQC_CROWD_SLOT / 2 ^ bitsOf w 38 34 % 2 = 1 then d ||| 16 else d

/-- The sources that an SNCHK evaluated are cleared, and QC_EVENTS shows the classes found, but for CROWD, which only a move's crowding element
raises (05 R121, R127, R130, R149). -/
def clearSources (s : State) (b i : Nat) (w : Word) (cls : Nat) : State :=
  let s := (snTallies w).foldl (fun s n => (s.setReg (TL_W_ELEM b n) 0).setReg (TL_W_BLK b n) 0) s
  let s := (snEngs w).foldl (fun s e => s.wr (QC_DREC b (i - 1)) (drecFld e) 0) s
  let s := if bitsOf w 33 33 = 1 then s.wr (QC_CROWD b) ⟨bitsOf w 38 34, bitsOf w 38 34⟩ 0 else s
  s.setReg (QC_EVENTS b) (s.reg (QC_EVENTS b) ||| BitVec.ofNat 64 (cls % 16))

/-- A degraded outcome (05 R135): counted, recorded, and marks sent to the update dies. The SNCHK `iss` completes when both dies have
recorded them (10 R300), and the increments of `held` follow it: each waits as a job whose arguments are the order number that the
marks carry and whether it is the SNCHK itself. -/
def degrade (s : State) (b i : Nat) (h : Head) (cls reason : Nat) (iss : Issued) (held : List Issued) : State :=
  let tag := s.sreg b i (bitsOf h.word 32 28) % 2 ^ 16
  let s := (s.bump (QC_DEGRADED b) fQC_DEGRADED_COUNT 1).wr (QC_EVENTS b) fQC_EVENTS_DEGRADED 1
  let a := QC_DEGR_LAST b
  let s := ((s.wr a fQC_DEGR_LAST_TAG tag).wr a fQC_DEGR_LAST_CLASS cls).wr a fQC_DEGR_LAST_REASON reason
  let s := (s.wr a fQC_DEGR_LAST_STREAM i).wr a fQC_DEGR_LAST_PC h.pc
  let ord := (s.core b).nextOrd
  let job := fun (x : Issued) (own : Nat) => (⟨0, .mark, x, h.word, [ord, own], [], [], [], [], [], [], false, .none, none, 0⟩ : Job)
  let s := held.foldl (fun s x => s.addJob b (job x 0)) (s.addJob b (job iss 1))
  { s with marks := s.marks ++ [⟨0, tag, b, ord⟩, ⟨1, tag, b, ord⟩] }

/-- The CHECK form after its evaluation found trouble (05 R130). -/
def checkTrouble (s : State) (b i : Nat) (h : Head) (iss : Issued) (cls : Nat) : State :=
  let off := bitsOf h.word 23 8
  if s.inReplay b i then degrade s b i h cls 1 iss []
  else if off = 0 then degrade s b i h cls 0 iss []
  else if !s.on (QC_CTRL b) fQC_CTRL_EN then degrade s b i h cls 3 iss []
  else if s.rd (QC_CTRL b) fQC_CTRL_RMAX ≤ s.rd (QC_STATUS b) fQC_STATUS_RCOUNT then
    (degrade s b i h cls 2 iss []).wr (QC_EVENTS b) fQC_EVENTS_RLIMIT 1
  else
    let s := (s.wr (QC_STATUS b) (replayFld i) 1).wr (QC_RET b (i - 1)) fQC_RET_PC (imod 32 (Int.ofNat h.pc + 8))
    let s := (s.wr (QC_EVENTS b) fQC_EVENTS_REPLAY 1).bump (QC_REPLAYS b) fQC_REPLAYS_COUNT 1
    let s := s.bump (QC_STATUS b) fQC_STATUS_RCOUNT 1
    let s := s.setStream b i { s.stream b i with heldSig := [iss] }
    (s.slipCheck b iss.tick).jump b i (imod 32 (Int.ofNat h.pc + 8 * sext 16 off))

/-- SNCHK, CHECK form (05 R130, R134, R135). -/
def execSnchkCheck (core stream : Nat) (s : State) : Res :=
  .next (s.issue core stream (fun w => opc w = 0x45 && bitsOf w 55 55 = 0) fun s h =>
    let iss := s.issuedOf core stream h
    let cls := trouble s core stream h.word
    let s := clearSources (s.accept core stream h) core stream h.word cls
    if cls = 0 then s.finish core iss else checkTrouble s core stream h iss cls)

/-- SNCHK, END form: closes the replay and returns (05 R131). -/
def execSnchkEnd (core stream : Nat) (s : State) : Res :=
  .next (s.issue core stream (fun w => opc w = 0x45 && bitsOf w 55 55 = 1) fun s h =>
    if !s.inReplay core stream then qcReject s core stream h 0x21
    else
      let iss := s.issuedOf core stream h
      let cls := trouble s core stream h.word
      let s := clearSources (s.accept core stream h) core stream h.word cls
      let s := s.wr (QC_STATUS core) (replayFld stream) 0
      let held := (s.stream core stream).heldSig
      let s := s.setStream core stream { s.stream core stream with heldSig := [] }
      let s := s.jump core stream (s.rd (QC_RET core (stream - 1)) fQC_RET_PC)
      if cls = 0 then held.foldl (fun s x => s.sigIncs core x) (s.finish core iss)
      else degrade s core stream h cls 1 iss held)

end Sys2Proof.Machine
end

