-- ==== Sys2Proof/Machine/SqCmds.lean ====
section
/-!
DEFINITION. Machine/SqCmds.lean: the commands on streams (09 R256).
-/

namespace Sys2Proof.Machine

/-- SQ_DISABLED (09 R275, R276): SQ_START of a core with SQ_CTRL.EN = 0 is refused, and no stream starts or faults. -/
def csSqDisabled : Nat := 0x54

/-- The cores and streams that the mask words name (09 R256). -/
def maskCores (a : List Nat) : List Nat := (List.range 288).filter fun c => a.getD (c / 64) 0 / 2 ^ (c % 64) % 2 = 1
def maskStreams (a : List Nat) : List Nat := [1, 2, 3].filter fun i => a.getD 4 0 / 2 ^ (31 + i) % 2 = 1

/-- The start PC of a stream in SQ_START's words 5 and 6 (09 R256). -/
def startPc (a : List Nat) (i : Nat) : Nat :=
  if i = 1 then a.getD 5 0 % 2 ^ 32 else if i = 2 then a.getD 5 0 / 2 ^ 32 % 2 ^ 32 else a.getD 6 0 % 2 ^ 32

namespace State

/-- A stream outside RUN takes a PC and enters RUN, fetching from there (09 R256, R257). -/
def startStream (s : State) (b i pc : Nat) : State :=
  if !s.coreOn b || s.stState b i = stRun then s
  else
    let s := ((s.setPc b i pc).setSt b i stRun).flush b i (some pc)
    let s := s.setStream b i { s.stream b i with stopPend := false }
    (s.setReg (SQS_WAIT b (i - 1)) 0).checkHead b i

/-- SQ_STOP on one stream: one that runs stops at its next issue boundary (09 R256). -/
def stopStream (s : State) (b i : Nat) : State :=
  if s.coreOn b && s.stState b i = stRun then s.setStream b i { s.stream b i with stopPend := true } else s

/-- Every stream of the package, by core and number. -/
def allStreams : List (Nat × Nat) := (List.range 288).flatMap fun b => [(b, 1), (b, 2), (b, 3)]

/-- SQ_STOP on every stream (16 R478, 14 R421). -/
def stopAll (s : State) : State := allStreams.foldl (fun s x => s.stopStream x.1 x.2) s

/-- Some stream is in RUN. -/
def anyRun (s : State) : Bool := allStreams.any fun x => s.coreOn x.1 && s.stState x.1 x.2 = stRun

def sqStart (a : List Nat) (s : State) : State × Ans :=
  let cores := (maskCores a).filter s.coreOn
  if cores.any fun b => !s.on (SQ_CTRL b) fSQ_CTRL_EN then s.refuse csSqDisabled
  else (cores.foldl (fun s b => (maskStreams a).foldl (fun s i => s.startStream b i (startPc a i)) s) s, .done 0 [])

def sqStop (a : List Nat) (s : State) : State × Ans :=
  ((maskCores a).foldl (fun s b => (maskStreams a).foldl (fun s i => s.stopStream b i) s) s, .done 0 [])

/-- The words of a stream block, SQS_PC to SQS_WAITCYC (09 R276). -/
def streamBlock (s : State) (b k : Nat) : List Nat :=
  [SQS_PC b k, SQS_PBASE b k, SQS_PLIMIT b k, SQS_TB b k, SQS_CFG b k, SQS_FAULT b k, SQS_MFAIL b k, SQS_WAIT b k, SQS_ISSUED b k,
    SQS_LOST b k, SQS_WAITCYC b k].map fun a => if a = SQS_WAIT b k then s.viewWait b (k + 1) else (s.reg a).toNat

/-- SQ_QUERY; a core that does not exist is a bad argument. -/
def sqQuery (a : List Nat) (s : State) : State × Ans :=
  let b := a.getD 0 0
  if 288 ≤ b then (s, .failed stBadArgs 0 [])
  else s.answered ((s.reg (SQ_STATUS b)).toNat :: [0, 1, 2].flatMap (s.streamBlock b))

end State

/-- SQ_START (09 R256). -/
def execSqStart (via : Via) (s : State) : Res := .next (s.command 0x0900 via State.sqStart)

/-- SQ_STOP (09 R256). -/
def execSqStop (via : Via) (s : State) : Res := .next (s.command 0x0901 via State.sqStop)

/-- SQ_QUERY (09 R256). -/
def execSqQuery (via : Via) (s : State) : Res := .next (s.command 0x0902 via State.sqQuery)

end Sys2Proof.Machine
end

