-- ==== Sys2Proof/Machine/VectorEngine.lean ====
section
/-!
DEFINITION. Machine/VectorEngine.lean: the vector engine's instructions: operand tables and their checks (06 R152-R155, R176,
R177), VMAP, VCVT, VRED and VKRN over groups and rows (06 R163-R170).
-/

namespace Sys2Proof.Machine

/-- The rejection of the vector engine (06 R176). -/
def veReject (s : State) (b i : Nat) (h : Head) (code : Nat) : State :=
  (s.unitFault (VE_FAULT b) code i h.pc).reject b i h.pc 4 code

/-- The operand table as read at issue (06 R152): VL, ROWS, ROW_BASE, COL_BASE, then EADDR, SADDR, EPITCH, SPITCH of E0 to E6. -/
def veTable (c : CoreSt) (vl ta : Nat) : List Nat :=
  vl :: c.locNat ta 4 :: c.locNat (ta + 4) 4 :: c.locNat (ta + 8) 4
    :: (List.range 28).map fun k => c.locNat (ta + 16 + 4 * k) 4

/-- Field j (0 EADDR, 1 SADDR, 2 EPITCH, 3 SPITCH) of entry k. -/
def ent (a : List Nat) (k j : Nat) : Nat := a.getD (4 + 4 * k + j) 0

/-- One use of an entry by an instruction: addresses, pitches, bytes a row, alignment, whether it has scale words, whether one
vector serves every row (06 R152, R153). -/
structure VUse where
  addr : Nat
  pitch : Nat
  saddr : Nat
  spitch : Nat
  rowBytes : Nat
  scaleBytes : Nat
  align : Nat
  narrow : Bool
  one : Bool
  deriving DecidableEq, Repr

/-- Alignment of a format's elements (06 R153). -/
def Fmt.align (t : Fmt) : Nat := if t.narrow then (if t.bits = 4 then 16 else 32) else t.bits / 8

def useTensor (a : List Nat) (k : Nat) (t : Fmt) (one : Bool) : VUse :=
  ⟨ent a k 0, ent a k 2, ent a k 1, ent a k 3, t.bytes (a.getD 0 0), t.scaleBytes (a.getD 0 0), t.align, t.narrow, one⟩

/-- A tensor that the quantiser writes: whole blocks a row in a narrow format (02 R34). -/
def useOut (a : List Nat) (k : Nat) (t : Fmt) : VUse := { useTensor a k t false with rowBytes := t.outBytes (a.getD 0 0) }

def useRecord (a : List Nat) (k n : Nat) : VUse := ⟨ent a k 0, ent a k 2, 0, 0, n, 0, 4, false, false⟩

def useVector (a : List Nat) (addr : Nat) : VUse := ⟨addr, 0, 0, 0, 4 * a.getD 0 0, 0, 4, false, true⟩

/-- A format code, F32 where it is reserved (the load checks refuse those). -/
def fmtOr (c : Nat) : Fmt := (Fmt.ofCode c).getD .f32

/-- Formats of a slot's inputs and outputs (06 R156, R179). -/
def slotIns (cfg : Word) : List Fmt :=
  ([bitsOf cfg 51 48, bitsOf cfg 55 52, bitsOf cfg 59 56, bitsOf cfg 63 60].take (bitsOf cfg 35 33)).map fmtOr

def slotOuts (cfg : Word) : List Fmt := ([bitsOf cfg 43 40, bitsOf cfg 47 44].take (bitsOf cfg 32 31)).map fmtOr

/-- The entries that an instruction uses (06 R152). -/
def veUses (w cfg : Word) (a : List Nat) : List VUse :=
  let ins := fun (l : List Fmt) => l.zipIdx.map fun p => useTensor a p.2 p.1 false
  match opc w with
  | 0x52 => ins (slotIns cfg) ++ (slotOuts cfg).zipIdx.map fun p => useOut a (4 + p.2) p.1
  | 0x53 => [useTensor a 0 (fmtOr (bitsOf w 50 47)) false,
      if bitsOf w 50 47 = bitsOf w 46 43 then useTensor a 4 (fmtOr (bitsOf w 46 43)) false else useOut a 4 (fmtOr (bitsOf w 46 43))]
  | 0x54 => (if bitsOf w 44 44 = 1 then ins (slotIns cfg) else [useTensor a 0 (fmtOr (bitsOf w 50 47)) false]) ++ [useRecord a 4 4]
  | 0x55 =>
    let k := bitsOf w 50 48
    let e01 := [useTensor a 0 (fmtOr (bitsOf w 30 27)) false, useTensor a 1 (fmtOr (bitsOf w 26 23)) false]
    let e2 := if k = 3 then [] else [useTensor a 2 (fmtOr (bitsOf w 22 19)) true]
    if k = 0 then e01 ++ e2 ++ [useRecord a 4 8]
    else
      e01 ++ e2 ++ [useRecord a 3 16, useOut a 4 (fmtOr (bitsOf w 47 44))]
        ++ (if bitsOf w 33 33 = 1 then [useTensor a 5 .b16 false] else [])
        ++ (if bitsOf w 32 32 = 1 && k ≠ 3 then useVector a (ent a 6 0) :: (if k = 2 then [useVector a (ent a 6 1)] else []) else [])
  | _ => []

/-- A misaligned use (06 R153). -/
def VUse.bad (u : VUse) : Bool :=
  u.addr % u.align ≠ 0 || (!u.one && u.pitch % u.align ≠ 0) || (u.narrow && (u.saddr % 2 ≠ 0 || (!u.one && u.spitch % 2 ≠ 0)))

/-- The row extents of a use (06 R153). -/
def VUse.ranges (u : VUse) (rows : Nat) : List (Nat × Nat) :=
  (List.range (if u.one then 1 else rows)).flatMap fun r =>
    [(loc32 (u.addr + r * u.pitch), u.rowBytes), (loc32 (u.saddr + r * u.spitch), u.scaleBytes)]

/-- The row extents of an instruction, which its checks cover however long its rows are (06 R153, R176, R177). -/
def veRanges (w cfg : Word) (a : List Nat) : List (Nat × Nat) := (veUses w cfg a).flatMap fun u => u.ranges (a.getD 1 0)

/-- The row extents that an instruction reads (06 R152). -/
def veReads (w cfg : Word) (a : List Nat) : List (Nat × Nat) :=
  let ins := fun (l : List Fmt) => l.zipIdx.map fun p => useTensor a p.2 p.1 false
  let k := bitsOf w 50 48
  let us := match opc w with
    | 0x52 => ins (slotIns cfg)
    | 0x53 => [useTensor a 0 (fmtOr (bitsOf w 50 47)) false]
    | 0x54 => if bitsOf w 44 44 = 1 then ins (slotIns cfg) else [useTensor a 0 (fmtOr (bitsOf w 50 47)) false]
    | _ => [useTensor a 0 (fmtOr (bitsOf w 30 27)) false, useTensor a 1 (fmtOr (bitsOf w 26 23)) false]
      ++ (if k = 3 then [] else [useTensor a 2 (fmtOr (bitsOf w 22 19)) true])
      ++ (if k = 0 then [] else [useRecord a 3 16])
      ++ (if bitsOf w 32 32 = 1 && k ≠ 0 && k ≠ 3 then useVector a (ent a 6 0) :: (if k = 2 then [useVector a (ent a 6 1)] else []) else [])
  us.flatMap fun u => u.ranges (a.getD 1 0)

/-- The slot that a VMAP or a VRED with PRE names (06 R174). -/
def veSlot (w : Word) : Option Nat :=
  if opc w = 0x52 then some (bitsOf w 50 46)
  else if opc w = 0x54 && bitsOf w 44 44 = 1 then some (bitsOf w 43 39)
  else none

/-- The slot copied at issue (06 R156); no words when none is named. -/
def veSlotCopy (s : State) (b : Nat) (w : Word) : List Nat :=
  match veSlot w with
  | some n => s.slotWords b n
  | none => []

/-- The issue rejections of VMAP, VCVT, VRED and VKRN in the order of their codes (06 R176). -/
def veCheck (s : State) (b : Nat) (w : Word) (ta : Nat) (a slot : List Nat) : Option Nat :=
  let cfg := BitVec.ofNat 64 (slot.getD 0 0)
  let empty := match veSlot w with
    | some n => s.slotEmpty b n
    | none => false
  firstCode [(empty, 0x31), (ta % 64 ≠ 0 || (veUses w cfg a).any VUse.bad, 0x33),
    (!rangeOk ta 128 || (veRanges w cfg a).any (fun r => !rangeOk r.1 r.2), 0x34), (!s.on (VE_CTRL b) fVE_CTRL_EN, 0x35)]

/-- Issue of VMAP, VCVT, VRED or VKRN (06 R152, R154, R172, R176, R177). -/
def veIssue (s : State) (b i : Nat) (op : Nat) : State :=
  s.issue b i (fun w => opc w = op) fun s h =>
    let w := h.word
    let ta := loc32 (s.sreg b i (bitsOf w 55 51))
    let a := veTable (s.core b) (s.rd (VE_VL b (i - 1)) fVE_VL_VL) ta
    let slot := veSlotCopy s b w
    match veCheck s b w ta a slot with
    | some c => veReject s b i h c
    | none =>
      if a.getD 0 0 = 0 || a.getD 1 0 = 0 then s.complete b i h id
      else
        let iss := s.issuedOf b i h
        let s := s.accept b i h
        let wt := winTiles (veRanges w (BitVec.ofNat 64 (slot.getD 0 0)) a)
        s.addJob b ⟨0, .ve, iss, w, a, slot, wt, portsOf wt, [], [], [], false, .none, none, 0⟩

/-- VMAP is issued (06 R163). -/
def execVmap (core stream : Nat) (s : State) : Res := .next (veIssue s core stream 0x52)

/-- VCVT is issued (06 R164). -/
def execVcvt (core stream : Nat) (s : State) : Res := .next (veIssue s core stream 0x53)

/-- VRED is issued (06 R166). -/
def execVred (core stream : Nat) (s : State) : Res := .next (veIssue s core stream 0x54)

/-- VKRN is issued (06 R168). -/
def execVkrn (core stream : Nat) (s : State) : Res := .next (veIssue s core stream 0x55)

/-- VSETL (06 R155, R174). -/
def execVsetl (core stream : Nat) (s : State) : Res :=
  .next (s.issue core stream (fun w => opc w = 0x50) fun s h =>
    let w := h.word
    let v := if bitsOf w 50 50 = 1 then bitsOf w 49 26 else s.sreg core stream (bitsOf w 55 51)
    match firstCode [(decide (2 ^ 24 ≤ v), 0x32), (!s.on (VE_CTRL core) fVE_CTRL_EN, 0x35)] with
    | some c => veReject s core stream h c
    | none => s.complete core stream h fun s => s.wr (VE_VL core (stream - 1)) fVE_VL_VL v)

/-- Key of a lane of a vector register: context 1 F, 2 B, 3 U (06 R151). -/
def vregKey (ctx r lane : Nat) : Nat := (ctx * 16 + r) * 64 + lane

def CoreSt.lane (c : CoreSt) (ctx lane : Nat) : List Nat := (List.range 16).map fun r => sget 0 (vregKey ctx r lane) c.vreg

def CoreSt.setLane (c : CoreSt) (ctx lane : Nat) (v : List Nat) : CoreSt :=
  { c with vreg := v.zipIdx.foldl (fun m (p : Nat × Nat) => sput 0 (vregKey ctx p.2 lane) p.1 m) c.vreg }

/-- VSETV: a scalar value in every lane (06 R174). -/
def execVsetv (core stream : Nat) (s : State) : Res :=
  .next (s.issue core stream (fun w => opc w = 0x51) fun s h =>
    if !s.on (VE_CTRL core) fVE_CTRL_EN then veReject s core stream h 0x35
    else s.complete core stream h fun s =>
      let v := s.sreg core stream (bitsOf h.word 55 51) % 2 ^ 32
      s.modCore core fun c =>
        { c with vreg := (List.range 64).foldl (fun m l => sput 0 (vregKey stream (bitsOf h.word 50 47) l) v m) c.vreg })

/-- The core in the course of a vector instruction: its state, events and tally counts gathered. -/
structure VRun where
  c : CoreSt
  ev : Nat
  tally : TallyCount
  deriving DecidableEq, Repr

/-- Elements [first, first + n) of row r of an entry as F32 patterns with events (06 R163). -/
def veLoad (c : CoreSt) (a : List Nat) (k : Nat) (t : Fmt) (r first n : Nat) (one : Bool) : List (WithEv Nat) :=
  let r := if one then 0 else r
  c.loadRow t (loc32 (ent a k 0 + r * ent a k 2 + t.bytes first)) (loc32 (ent a k 1 + r * ent a k 3 + 2 * (first / 32))) n

/-- Patterns stored as elements [first, ...) of row r of an entry; `main` delivers counts (06 R163). -/
def veStore (v : VRun) (a : List Nat) (k : Nat) (t : Fmt) (fixed : Option Nat) (rm : Rnd) (keep : Nat → Nat) (r first : Nat)
    (main : Bool) (x : List Nat) : VRun :=
  let o := writeRow t fixed rm (fun _ => 0) keep (fun _ => false) x
  let c := v.c.locStore (loc32 (ent a k 0 + r * ent a k 2 + t.bytes first)) o.elems
  let c := if t.narrow then c.locStore (loc32 (ent a k 1 + r * ent a k 3 + 2 * (first / 32))) o.scales else c
  ⟨c, v.ev ||| o.ev, if main then v.tally.add o.tally else v.tally⟩

/-- The groups of an instruction in order: row, first element, lanes (06 R154). -/
def veGroups (a : List Nat) : List (Nat × Nat × Nat) :=
  let vl := a.getD 0 0
  (List.range (a.getD 1 0)).flatMap fun r => (List.range ((vl + 63) / 64)).map fun g => (r, 64 * g, min 64 (vl - 64 * g))

/-- Loads and program of one group: the run after it and v0 of its lanes (06 R163). -/
def slotGroup (slot a : List Nat) (ctx : Nat) (v : VRun) (g : Nat × Nat × Nat) : VRun × List Nat :=
  let cfg := BitVec.ofNat 64 (slot.getD 0 0)
  let prog := (slot.drop 5).take (bitsOf cfg 30 25)
  let ins := (slotIns cfg).zipIdx.map fun p => veLoad v.c a p.2 p.1 g.1 g.2.1 g.2.2 false
  (List.range g.2.2).foldl (fun (q : VRun × List Nat) l =>
    let regs := ins.zipIdx.foldl (fun (x : List Nat) (p : List (WithEv Nat) × Nat) => x.set p.2 ((p.1[l]?).map (·.val) |>.getD 0)) (q.1.c.lane ctx l)
    let ev := ins.foldl (fun e p => e ||| ((p[l]?).map (·.ev) |>.getD 0)) q.1.ev
    let r := runProg ⟨(slot.drop 1).take 4, a.getD 3 0 + g.2.1 + l, a.getD 2 0 + g.1⟩ prog regs
    (⟨q.1.c.setLane ctx l r.val, ev ||| r.ev, q.1.tally⟩, q.2 ++ [r.val.getD 0 0])) (v, [])

/-- VMAP over its groups (06 R163). -/
def runVmap (slot a : List Nat) (ctx keep : Nat) (c : CoreSt) : VRun :=
  let cfg := BitVec.ofNat 64 (slot.getD 0 0)
  (veGroups a).foldl (fun v g =>
    let v := (slotGroup slot a ctx v g).1
    (slotOuts cfg).zipIdx.foldl (fun (v : VRun) (p : Fmt × Nat) =>
      let x := (List.range g.2.2).map fun l => sget 0 (vregKey ctx p.2 l) v.c.vreg
      veStore v a (4 + p.2) p.1 none (rndOf (bitsOf cfg 39 38)) (fun _ => keep) g.1 g.2.1 (p.2 = 0) x) v) ⟨c, 0, TallyCount.none⟩

/-- VCVT over its groups (06 R164): a raw copy, or a conversion of exact values; narrow-to-narrow keeps FLAG_O and FLAG_E. -/
def runVcvt (w : Word) (a : List Nat) (keep : Nat) (c : CoreSt) : VRun :=
  let sf := fmtOr (bitsOf w 50 47)
  let tf := fmtOr (bitsOf w 46 43)
  let fixed := if bitsOf w 32 32 = 1 then some (bitsOf w 31 24) else none
  (veGroups a).foldl (fun v g =>
    let ea := loc32 (ent a 0 0 + g.1 * ent a 0 2 + sf.bytes g.2.1)
    let sa := loc32 (ent a 0 1 + g.1 * ent a 0 3 + 2 * (g.2.1 / 32))
    let da := loc32 (ent a 4 0 + g.1 * ent a 4 2 + tf.bytes g.2.1)
    let dsa := loc32 (ent a 4 1 + g.1 * ent a 4 3 + 2 * (g.2.1 / 32))
    if sf = tf then
      let c := v.c.locStore da (v.c.locBytes ea (sf.bytes g.2.2))
      { v with c := if sf.narrow then c.locStore dsa (v.c.locBytes sa (sf.scaleBytes g.2.2)) else c }
    else
      let scs := v.c.scales sf sa g.2.2
      let kp := fun b => if sf.narrow && tf.narrow then Nat.lor (keepOE (scs.getD b 0)) keep else keep
      let x := v.c.values sf ea sa g.2.2
      let e := encodeRow tf fixed (rndOf (bitsOf w 42 41)) (fun _ => 0) kp x
      let tl := if tf.narrow then
          ((blocks32 x).zip e.blocks).foldl (fun t p => t.add (tallyBlock tf (fun _ => false) p.1 p.2)) TallyCount.none
        else x.foldl (fun t y => t.add (tallyWide y (tf.ofVal (rndOf (bitsOf w 42 41)) 0 y).ev)) TallyCount.none
      let c := v.c.locStore da e.elems
      ⟨if tf.narrow then c.locStore dsa e.scales else c, v.ev ||| e.ev, v.tally.add tl⟩) ⟨c, 0, TallyCount.none⟩

/-- VRED over its rows (06 R166). -/
def runVred (w : Word) (slot a : List Nat) (ctx : Nat) (c : CoreSt) : VRun :=
  let vl := a.getD 0 0
  (List.range (a.getD 1 0)).foldl (fun v r =>
    let p : VRun × List (WithEv Nat) :=
      if bitsOf w 44 44 = 1 then
        (List.range ((vl + 63) / 64)).foldl (fun (q : VRun × List (WithEv Nat)) g =>
          let y := slotGroup slot a ctx q.1 (r, 64 * g, min 64 (vl - 64 * g))
          (y.1, q.2 ++ y.2.map pureE)) (v, [])
      else (v, veLoad v.c a 0 (fmtOr (bitsOf w 50 47)) r 0 vl false)
    let x := vred (Rop.ofCode (bitsOf w 46 45)) p.2
    ⟨p.1.c.locStore (loc32 (ent a 4 0 + r * ent a 4 2)) (leBytes 4 x.val), p.1.ev ||| x.ev, p.1.tally⟩) ⟨c, 0, TallyCount.none⟩

/-- Word k of the row record at E3 (06 R168). -/
def recWord (c : CoreSt) (a : List Nat) (r k : Nat) : WithEv Nat := pureE (c.locNat (loc32 (ent a 3 0 + r * ent a 3 2 + 4 * k)) 4)

/-- One row of a kernel: outputs main and auxiliary, or the two partial sums of kernel 0, and the updates of dg and db
(06 R169, R170). -/
def krnRow (w : Word) (a : List Nat) (c : CoreSt) (r : Nat) : List (WithEv Nat) × List Nat × List (WithEv Nat) × List (WithEv Nat) :=
  let vl := a.getD 0 0
  let k := bitsOf w 50 48
  let x0 := veLoad c a 0 (fmtOr (bitsOf w 30 27)) r 0 vl false
  let x1 := veLoad c a 1 (fmtOr (bitsOf w 26 23)) r 0 vl false
  let g := if k = 3 then [] else veLoad c a 2 (fmtOr (bitsOf w 22 19)) r 0 vl true
  let at0 := fun (l : List (WithEv Nat)) i => l.getD i (pureE 0)
  let is := List.range vl
  match k with
  | 0 =>
    let u := is.map fun i => mulE (at0 g i) (at0 x0 i)
    let q := is.map fun i => mulE (at0 u i) (at0 x1 i)
    ([vred .sum q, vred .sum u], [], [], [])
  | 3 =>
    let p := is.map fun i =>
      smxElem (bitsOf w 31 31 = 1 && decide ((a.getD 2 0 + r) % 2 ^ 32 < (a.getD 3 0 + i) % 2 ^ 32)) (at0 x1 i) (at0 x0 i) (recWord c a r 0) (recWord c a r 1) (recWord c a r 2)
        (recWord c a r 3)
    (p.map (·.2), p.map (·.1.val), [], [])
  | _ =>
    let rstd := recWord c a r 0
    let ma := mulE (recWord c a r 1) (recWord c a r 3)
    let mb := if k = 2 then mulE (recWord c a r 2) (recWord c a r 3) else pureE 0
    let dx := is.map fun i => normElem k (at0 x0 i) (at0 x1 i) (at0 g i) rstd ma mb
    let dg := is.map fun i => addE (pureE (c.locNat (loc32 (ent a 6 0 + 4 * i)) 4)) (mulE (at0 x0 i) (at0 x1 i))
    let db := if k = 2 then is.map fun i => addE (pureE (c.locNat (loc32 (ent a 6 1 + 4 * i)) 4)) (at0 x0 i) else []
    (dx, dx.map (·.val), dg, db)

/-- VKRN over its rows (06 R168-R170). -/
def runVkrn (w : Word) (a : List Nat) (keep : Nat) (c : CoreSt) : VRun :=
  let k := bitsOf w 50 48
  (List.range (a.getD 1 0)).foldl (fun v r =>
    let y := krnRow w a v.c r
    let ev := y.1.foldl (fun e x => e ||| x.ev) v.ev
    let v := { v with ev := ev }
    if k = 0 then { v with c := v.c.locStore (loc32 (ent a 4 0 + r * ent a 4 2)) (y.1.flatMap fun x => leBytes 4 x.val) }
    else
      let v := veStore v a 4 (fmtOr (bitsOf w 47 44)) none (rndOf (bitsOf w 43 42)) (fun _ => keep) r 0 true (y.1.map (·.val))
      let v := if bitsOf w 33 33 = 1 then veStore v a 5 .b16 none .rne (fun _ => keep) r 0 false y.2.1 else v
      if bitsOf w 32 32 = 1 && k ≠ 3 then
        let ev := (y.2.2.1 ++ y.2.2.2).foldl (fun e x => e ||| x.ev) v.ev
        let c := v.c.locStore (loc32 (ent a 6 0)) (y.2.2.1.flatMap fun x => leBytes 4 x.val)
        { v with ev := ev, c := c.locStore (loc32 (ent a 6 1)) (y.2.2.2.flatMap fun x => leBytes 4 x.val) }
      else v) ⟨c, 0, TallyCount.none⟩

/-- The run of a vector instruction (06 R163-R170). -/
def veRun (j : Job) (keep : Nat) (c : CoreSt) : VRun :=
  match opc j.word with
  | 0x52 => runVmap j.prog j.args j.iss.stream keep c
  | 0x53 => runVcvt j.word j.args keep c
  | 0x54 => runVred j.word j.prog j.args j.iss.stream c
  | _ => runVkrn j.word j.args keep c

/-- Elements a cycle of a conversion (06 R165). -/
def cvtWidth (sf tf : Fmt) : Nat := min 256 (256 / max ((sf.bits + 7) / 8) ((tf.bits + 7) / 8))

/-- The tally that a vector instruction delivers to, if it does (06 R163, R164, R168, R174). -/
def veTally (w : Word) : Option Nat :=
  match opc w with
  | 0x52 => if bitsOf w 40 40 = 1 then some (bitsOf w 45 41) else none
  | 0x53 => if bitsOf w 33 33 = 1 && bitsOf w 50 47 ≠ bitsOf w 46 43 then some (bitsOf w 38 34) else none
  | 0x55 => if bitsOf w 34 34 = 1 && bitsOf w 50 48 ≠ 0 then some (bitsOf w 39 35) else none
  | _ => none

/-- A vector instruction completes (06 R163-R170, R173). -/
def execVeInstructionComplete (core ord : Nat) (s : State) : Res :=
  .next (match s.job core ord with
    | none => s
    | some j =>
      if j.kind = .ve && (s.clocked && (s.core core).mayEnd j) then
        let c := s.core core
        let v := veRun j (s.replayFlag core j.iss.stream) c
        let s := s.setCore core v.c
        let s := s.setReg (VE_EVENTS core) (s.reg (VE_EVENTS core) ||| BitVec.ofNat 64 v.ev)
        let s := match veTally j.word with
          | some n => s.tally core n v.tally
          | none => s
        let e := if opc j.word = 0x53 then cvtWidth (fmtOr (bitsOf j.word 50 47)) (fmtOr (bitsOf j.word 46 43)) else 64
        let s := s.bump (VE_GROUPS core) fVE_GROUPS_GROUPS (j.args.getD 1 0 * ((j.args.getD 0 0 + e - 1) / e))
        let bad := (veReads j.word (BitVec.ofNat 64 (j.prog.getD 0 0)) j.args).foldl (fun n r => n + c.badIn r.1 r.2) 0
        let s := (s.bump (DR_PERR core) fDR_PERR_COUNT bad).bumpFree (VE_STALL_CYC core) fVE_STALL_CYC_STALL_CYC
        (s.dropJob core ord).finish core j.iss
      else s)

end Sys2Proof.Machine
end

