-- ==== Sys2Proof/Machine/LoadCheck.lean ====
section
/-!
DEFINITION. Machine/LoadCheck.lean: the checks that a schedule image undergoes when it is loaded (03 R78, 04 R106, 05 R147, 06 R175,
07 R207, 08 R218, R233-R235, 09 R243, R244, R253, R261, 10 R314, 15 R456). A status that a unit's table numbers keeps that number; the others
have none (log entry 30).
-/

namespace Sys2Proof.Machine

def csFmtReserved : Nat := 0x4B
def csFmtBlockZero : Nat := 0x4C
def csFmtRound : Nat := 0x4D
def csDrProfile : Nat := 0x13
def csSqOpcode : Nat := 0x55
def csSqPrefix : Nat := 0x56
def csTickZero : Nat := Config.statusCode 17
def csAccMode : Nat := Config.statusCode 20
def csLadderZero : Nat := Config.statusCode 21
def csGangMask : Nat := Config.statusCode 22
def csTileRange : Nat := Config.statusCode 23
def csRegPair : Nat := Config.statusCode 24
def csKvRange : Nat := Config.statusCode 25
def csNcRange : Nat := Config.statusCode 26
def csCntRange : Nat := Config.statusCode 27
def csSnTarget : Nat := Config.statusCode 28
def csSameTally : Nat := Config.statusCode 29
def csVeScode : Nat := Config.statusCode 30
def csKrnReserved : Nat := Config.statusCode 31
def csSlotShape : Nat := Config.statusCode 32
def csUopReserved : Nat := Config.statusCode 33
def csUopMod : Nat := Config.statusCode 34
def csSqTarget : Nat := Config.statusCode 35
def csTsRange : Nat := Config.statusCode 36
def csTimeRatio : Nat := Config.statusCode 37
def csOffsetRange : Nat := Config.statusCode 38
def csHeadroom : Nat := Config.statusCode 39

/-- TIME_TICK_SHORT and TIME_TICK_RANGE (14 R429, 16 R490). -/
def stTickShort : Nat := 0x0E04
def stTickRange : Nat := 0x0E05

/-- PWR_TAG_RESERVED (15 R461, 16 R490). -/
def stTagReserved : Nat := 0x0F02

/-- The status of a tick length (08 R233). -/
def tickCode (len planned : Nat) : Option Nat :=
  match tickStatus len planned with
  | 0 => none
  | 1 => some csTickZero
  | 2 => some stTickRange
  | _ => some stTickShort

/-- A narrow format code. -/
def codeNarrow (c : Nat) : Bool := match Fmt.ofCode c with
  | some t => t.narrow
  | none => false

/-- Conditions on the format codes in use, their block size and a rounding mode: reserved codes, block size 0, RND 0b10 (02 R29, R39, R40). -/
def fmtChecks (fs : List Nat) (bsz : Nat) (rnd : Option Nat) : List (Bool × Nat) :=
  [(fs.any (fun f => (Fmt.ofCode f).isNone) || (fs.any codeNarrow && 2 ≤ bsz) || rnd = some 3, csFmtReserved),
    (fs.any codeNarrow && bsz = 0, csFmtBlockZero), (rnd = some 2, csFmtRound)]

/-- ACC allows a format (03 R58). -/
def accAllows (f acc : Nat) : Bool :=
  match Fmt.ofCode f, AccMode.ofCode acc with
  | some f, some m => modeAllows f m
  | _, _ => true

/-- A program range and the tick plan that its launch times are held to. -/
structure ProgRange where
  base : Nat
  limit : Nat
  planned : Nat
  deriving DecidableEq, Repr

/-- The load conditions of one instruction word at an address of a program (in the order of its chapter's table). -/
def wordChecks (s : State) (b : Nat) (r : ProgRange) (pc : Nat) (w : Word) : List (Bool × Nat) :=
  let out := fun (t : Nat) => t < r.base || r.limit ≤ t
  let odd := fun (hi lo : Nat) => bitsOf w hi lo % 2 = 1
  let prefixed := fun (t : Nat) => !out t && t ≠ r.base &&
    (let p := opc (BitVec.ofNat 64 ((s.core b).locNat (t - 8) 8)); p = 0x08 || p = 0x09)
  match opc w with
  | 0x08 => [(bitsOf w 55 55 = 1 && r.planned ≤ bitsOf w 47 30, csOffsetRange)]
  | 0x12 => [(13 ≤ bitsOf w 39 36, csSqOpcode)]
  | 0x18 => [(bitsOf w 45 43 = 7, csSqOpcode), (out (branchTarget pc w), csSqTarget), (prefixed (branchTarget pc w), csSqPrefix)]
  | 0x19 => [(out (branchTarget pc w), csSqTarget), (prefixed (branchTarget pc w), csSqPrefix)]
  | 0x22 =>
    let n := bitsOf w 41 31
    let t := bitsOf w 55 42
    [(1024 < n || (n ≠ 0 && t / 1024 ≠ (t + n - 1) / 1024), csTsRange)]
  | 0x2A => [(bitsOf w 50 49 = 3, csSqOpcode)]
  | 0x40 =>
    let acc := bitsOf w 30 29
    [(decide (acc = 3), csFmtReserved)] ++ fmtChecks [bitsOf w 36 33] (bitsOf w 32 31) none
      ++ [(!accAllows (bitsOf w 36 33) acc, csAccMode), (mmL w ≠ 0 && mmLdt w = 0, csLadderZero),
        (mmGang w && bitsOf w 55 52 ≠ 15, csGangMask), (1 < bitsOf w 27 24 && bitsOf w 54 52 ≠ 0 && !mmGang w, csTileRange),
        (odd 51 47 || odd 46 42, csRegPair)]
  | 0x41 =>
    let acc := bitsOf w 15 14
    let kc := chunkOfCodes (bitsOf w 41 38) acc
    [(decide (acc = 3), csFmtReserved)] ++ fmtChecks [bitsOf w 41 38] (bitsOf w 37 36) none
      ++ [(!accAllows (bitsOf w 41 38) acc, csAccMode), (odd 51 47 || odd 46 42, csRegPair),
        ((if bitsOf w 16 16 = 1 then 4 * kc else kc) < bitsOf w 34 24, csKvRange), (64 < bitsOf w 23 17, csNcRange)]
  | 0x42 =>
    let src := bitsOf w 25 24
    let used := bitsOf w 17 17 = 0 && (src = 1 || src = 2)
    [(decide (src = 3), csFmtReserved)] ++ (if used then fmtChecks [bitsOf w 23 20] (bitsOf w 19 18) none else [])
      ++ [(1 < bitsOf w 53 50 && bitsOf w 55 54 ≠ 3, csTileRange), (odd 49 45 || odd 44 40, csRegPair), (64 < bitsOf w 16 10, csNcRange)]
  | 0x43 => [(1 < bitsOf w 53 50 && bitsOf w 55 54 ≠ 3, csTileRange),
      (odd 46 42 || odd 41 37 || ((s.profile b (bitsOf w 49 47)).auxen && bitsOf w 19 15 % 4 ≠ 0), csRegPair)]
  | 0x44 => [(64 < ssCnt w, csCntRange), (odd 49 45 || odd 44 40, csRegPair), (1 < bitsOf w 53 50 && bitsOf w 55 54 ≠ 3, csTileRange),
      (64 < ssNc w, csNcRange)]
  | 0x45 =>
    let off := sext 16 (bitsOf w 23 8)
    let t := imod 32 (Int.ofNat pc + 8 * off)
    let jumps := bitsOf w 55 55 = 0 && off ≠ 0
    [(jumps && out t, csSnTarget), (jumps && prefixed t, csSqPrefix),
      (bitsOf w 45 45 = 1 && bitsOf w 39 39 = 1 && bitsOf w 50 46 = bitsOf w 44 40, csSameTally)]
  | 0x53 => fmtChecks [bitsOf w 50 47, bitsOf w 46 43] (bitsOf w 40 39) (some (bitsOf w 42 41))
      ++ [(bitsOf w 32 32 = 1 && bitsOf w 31 24 = 255, csVeScode)]
  | 0x54 => (bitsOf w 46 45 = 3, csFmtReserved) :: (if bitsOf w 44 44 = 1 then [] else fmtChecks [bitsOf w 50 47] (bitsOf w 38 37) none)
  | 0x55 =>
    let k := bitsOf w 50 48
    let fs := [bitsOf w 30 27, bitsOf w 26 23] ++ (if k = 3 then [] else [bitsOf w 22 19]) ++ (if k = 0 then [] else [bitsOf w 47 44])
    (4 ≤ k, csKrnReserved) :: fmtChecks fs (bitsOf w 41 40) (if k = 0 then none else some (bitsOf w 43 42))
  | o => [(!opcKnown o && o ≠ 0x09, csSqOpcode)]

/-- Prefix rules over a program's words in order (09 R244): `g` and `p` say that a GUARD or SIGP has come and governs nothing yet. -/
def prefixBad : Bool → Bool → List Word → Bool
  | g, p, [] => g || p
  | g, p, w :: t =>
    if opc w = 0x08 then g || p || prefixBad true false t
    else if opc w = 0x09 then p || prefixBad g true t
    else prefixBad false false t

/-- The words of a program range. -/
def progWords (s : State) (b base limit : Nat) : List (Nat × Word) :=
  (List.range ((limit - base) / 8)).map fun k => (base + 8 * k, BitVec.ofNat 64 ((s.core b).locNat (base + 8 * k) 8))

/-- The first load check that a program fails. -/
def progCheck (s : State) (b planned : Nat) (p : Nat × Nat × Nat) : Option Nat :=
  let ws := progWords s b p.2.1 p.2.2
  match ws.findSome? fun x => firstCode (wordChecks s b ⟨p.2.1, p.2.2, planned⟩ x.1 x.2) with
  | some c => some c
  | none => if prefixBad false false (ws.map (·.2)) then some csSqPrefix else none

/-- The status of a profile check (04 R106). -/
def profCode : ProfErr → Nat
  | .fmtReserved => csFmtReserved
  | .fmtBlockZero => csFmtBlockZero
  | .fmtRound => csFmtRound
  | .regPair => csRegPair
  | .ncRange => csNcRange
  | .drProfile => csDrProfile

/-- The status of a slot check (06 R175). -/
def slotCode : SlotErr → Nat
  | .fmtReserved => csFmtReserved
  | .fmtBlockZero => csFmtBlockZero
  | .fmtRound => csFmtRound
  | .slotShape => csSlotShape
  | .uopReserved => csUopReserved
  | .uopMod => csUopMod

/-- A descriptor under the conditions of 07 R208 (07 R207): its own addresses, without what registers or a list will add. -/
def descCheck (s : State) (b a : Nat) : Option Nat :=
  let c := s.core b
  let d := (List.range 8).map fun k => c.locNat (a + 8 * k) 8
  let m : Mv := ⟨d, d.getD 1 0, d.getD 2 0, 0, 0, 0, 0, [0, 0, 0x3F800000]⟩
  m.check a 0#64 (s.on (DM_CTRL b) fDM_CTRL_EN)

/-- The first failing check of a record with its copy descriptors (10 R314). -/
def recLoadCheck (s : State) (d : Nat) (r : List Nat) : Option Nat :=
  if !rcValid r then none
  else match s.recCheck d r with
    | some c => some c
    | none => [0, 1].findSome? fun k =>
        if rcCopy r k = 0xFFFF then none
        else match (s.readCopy d (rcCopy r k)).2 with
          | some c => State.copyCheck c (rcK r)
          | none => none

/-- The checks of an update die: records in order with the descriptors they name, every copy descriptor by itself, then the list (10 R314). A structure that cannot be read is left to the walk. -/
def udLoadCheck (s : State) (d : Nat) : Option Nat :=
  let recs := (List.range (s.rd (UD_RECBASE d) fUD_RECBASE_NREC)).findSome? fun u =>
    match (s.readRec d u).2 with
    | some r => recLoadCheck s d r
    | none => none
  let copies := (List.range (s.rd (UD_COPYBASE d) fUD_COPYBASE_NCOPY)).findSome? fun k =>
    match (s.readCopy d k).2 with
    | some c => State.copyCheck c 0
    | none => none
  match recs.or copies with
  | some c => some c
  | none =>
    let es := (List.range (s.rd (UD_LISTBASE d) fUD_LISTBASE_LEN)).filterMap fun j => (s.readEntry d j).2
    match es.findSome? (s.entryCheck d) with
    | some c => some c
    | none =>
      let ulx := (es.filter fun e => leKind e = 0).map leUlx
      if ulx.eraseDups.length < ulx.length then some csListDup else none

/-- Every check of an image in the order of its items, on the state with its memory and registers placed (log entry 13): the tick plan, its
classes, ratios and tags; each core's programs, profiles, slots (with words of 0 after the last micro-op given) and descriptors; the update dies. -/
def imageChecks (s : State) (m : SchedImage) : List (Option Nat) :=
  [tickCode m.planned 0, if m.classes.any (fun c => m.planned * 92 / 100 < c) then some csHeadroom else none]
    ++ (m.ratios.map fun p =>
      if s.coreOn p.1 && p.2 < ratioFor s.giga (s.rd (CAP_FMAX_HI p.1) fCAP_FMAX_HI_F0800) m.planCode then some csTimeRatio else none)
    ++ (m.tags.map fun p => if p.2 = 0 || p.2 = 0xFFFF then some stTagReserved else none)
    ++ (m.cores.flatMap fun c =>
      (c.streams.map (progCheck s c.core m.planned))
        ++ (c.profiles.map fun p => (profileCheck ⟨BitVec.ofNat 64 p.2.1, BitVec.ofNat 64 p.2.2⟩).map profCode)
        ++ (c.slots.map fun x => (slotCheck (BitVec.ofNat 64 x.cfg) (x.uops ++ List.replicate 32 0)).map slotCode)
        ++ (c.descriptors.map (descCheck s c.core)))
    ++ (m.uds.map fun u => udLoadCheck s u.die)

/-- The first failing item and its status (16 R491 LOAD_REJECTED). -/
def firstBad (l : List (Option Nat)) : Option (Nat × Nat) :=
  l.zipIdx.findSome? fun x => x.1.map fun c => (x.2, c)

end Sys2Proof.Machine
end

