-- ==== Sys2Proof/Machine/UdRegs.lean ====
section
/-!
DEFINITION. Machine/UdRegs.lean: what a write of an update-die register does beside storing its fields (10 R305, R311, R315).
-/

namespace Sys2Proof.Machine
namespace State

/-- Firmware clears the record range of a die (10 R311, 11 R340). -/
def clearRecords (s : State) (d : Nat) : State :=
  let base := s.rd (UD_RECBASE d) fUD_RECBASE_BASE
  let n := s.rd (UD_RECBASE d) fUD_RECBASE_NREC
  let lo := d * 2 ^ 40 + base
  let s := s.modMem fun m => { m with peat := m.peat.filter fun c => !(decide (lo ≤ c.1) && decide (c.1 < lo + 64 * n)) }
  (List.range n).foldl (fun s k => (s.lineClean (10 + d) (base / 64 + k)).modMem fun m =>
    { m with known := setIns (lineKey (10 + d) (base / 64 + k)) m.known }) s

/-- The first write of UD_RECBASE after a cold start (10 R311). -/
def firstRecbase (s : State) (d : Nat) : State :=
  if s.mem.recs.contains d then s else (s.modMem fun m => { m with recs := setIns d m.recs }).clearRecords d

/-- The check of an expert-rule slot (10 R305). -/
def checkRule (s : State) (d n : Nat) : State :=
  let c := s.reg (UD_RULE_CFG d n)
  let len := fget c fUD_RULE_CFG_SLEN + fget c fUD_RULE_CFG_ULEN
  let bad := decide (256 < len) || (List.range len).any fun k => udBad (s.reg (UD_UOP d (n * 256 + k))).toNat
  s.wr (UD_RULE_CFG d n) fUD_RULE_CFG_BAD (if bad then 1 else 0)

/-- After a register of a die has been written. -/
def udAfter (s : State) (a : Nat) : State :=
  [0, 1].foldl (fun s d =>
    if a = UD_RECBASE d then s.firstRecbase d
    else if a = UD_CTRL d then
      (if s.on a fUD_CTRL_EN then s
      else if s.on (UD_STATUS d) fUD_STATUS_WALKING then (s.modUd d fun u => { u with stop := true }).endStopped d else s)
    else match [0, 1, 2, 3].find? fun n => a = UD_RULE_CFG d n with
      | some n => s.checkRule d n
      | none => s) s

end State
end Sys2Proof.Machine
end

