-- ==== Sys2Proof/Machine/Image.lean ====
section
/-!
DEFINITION. Machine/Image.lean: what loading and unloading a schedule image does (16 R491, 09 R256, 04 R105, 05 R117, R137-R141, 06 R156,
08 R218, R232, 10 R314, 15 R456, 14 R423).
-/

namespace Sys2Proof.Machine

/-- Statuses of table R491 (16 R490). -/
def stPkgRecovery : Nat := 0x1001
def stDieCore : Nat := 0x1002
def stDieAbsent : Nat := 0x1003
def stStreamsRun : Nat := 0x1004
def stLoadRejected : Nat := 0x1005
def stFlashBusy : Nat := 0x1006
def stFlashCheck : Nat := 0x1007
def stSpillArg : Nat := 0x1008

/-- The value of a parameter record, clamped; the last one stands (16 R472). -/
def tuneParam (i : BootImage) (n lo hi dflt : Nat) : Nat :=
  match (i.tune.filter fun r => r.1 = 1 && r.2.1 = n).getLast? with
  | some r => max lo (min hi r.2.2.2)
  | none => dflt

/-- The boot frequency code (16 R472). -/
def bootCode (i : BootImage) : Nat := tuneParam i 1 24 104 80

/-- The bits of a register whose fields have one of some access codes (00 R11). -/
def accMask (a : Nat) (l : List Acc) : Nat :=
  match regAt a with
  | none => 0
  | some r => r.reg.fields.foldl (fun m f => if l.contains f.acc then Nat.lor m (f.f.at (2 ^ f.f.width - 1)) else m) 0

namespace State

/-- The fields of some access codes take a word's bits; the others keep theirs. -/
def putFields (s : State) (a : Nat) (l : List Acc) (w : Nat) : State :=
  let m := BitVec.ofNat 64 (accMask a l)
  s.setReg a ((s.reg a &&& ~~~m) ||| (BitVec.ofNat 64 w &&& m))

/-- Bytes of an image placed (log entry 13). -/
def placeMem (s : State) (x : ImageMem) : State :=
  match x.space with
  | 0 => if s.coreOn x.unit then s.modCore x.unit fun c => c.locStore x.addr x.bytes else s
  | 1 => (s.stackWrite x.addr x.bytes Hint.none).s
  | 2 => (s.peatWrite x.unit x.addr x.bytes).s
  | _ => (s.farWrite x.addr x.bytes).s

/-- A micro-program slot written (06 R156). -/
def placeSlot (s : State) (b : Nat) (x : ImageSlot) : State :=
  let n := x.slot % 32
  let s := (s.setReg (VE_SLOT_CFG b n) 0).putFields (VE_SLOT_CFG b n) [.xw] x.cfg
  let s := (List.range 4).foldl (fun s k => s.setReg (VE_SLOT_C b (4 * n + k)) (BitVec.ofNat 64 (x.consts.getD k 0 % 2 ^ 32))) s
  (List.range 32).foldl (fun s k => s.setReg (VE_UOP b (32 * n + k)) (BitVec.ofNat 64 (x.uops.getD k 0 % 2 ^ 32))) s

/-- Drain profiles of a core, which its DRAINs' checks read (04 R105). -/
def placeProfiles (s : State) (c : ImageCore) : State :=
  c.profiles.foldl (fun s p =>
    (s.setReg (DR_PROF_A c.core (p.1 % 8)) (BitVec.ofNat 64 p.2.1)).setReg (DR_PROF_B c.core (p.1 % 8)) (BitVec.ofNat 64 p.2.2)) s

/-- Registers of an update die (10 R314). -/
def placeUd (s : State) (u : ImageUd) : State :=
  u.regs.foldl (fun s r => (s.putFields (UD_CTRL (u.die % 2) + r.1) [.xw, .rw] r.2).udAfter (UD_CTRL (u.die % 2) + r.1)) s

/-- The image's update-die registers, memory and profiles placed: what the checks read. UD_RECBASE comes before the records, which its first write
would clear (10 R311, R314). -/
def placeImage (s : State) (m : SchedImage) : State :=
  let s := m.memory.foldl placeMem (m.uds.foldl placeUd s)
  m.cores.foldl (fun s c => if s.coreOn c.core then s.placeProfiles c else s) s

/-- A stream put in IDLE with its replay bit cleared (09 R256, 05 R130). -/
def idleStream (s : State) (b i : Nat) : State :=
  let s := (s.setSt b i stIdle).flush b i none
  let s := s.setStream b i { (s.stream b i).asideHalt (s.core b).nextOrd with stopPend := false, heldSig := [] }
  (s.setReg (SQS_WAIT b (i - 1)) 0).wr (QC_STATUS b) (replayFld i) 0

/-- Every stream of every core in IDLE; probes cancelled (09 R256, 16 R491). -/
def idleAll (s : State) : State :=
  (List.range 288).foldl (fun s b =>
    if s.coreOn b then (([1, 2, 3].foldl (fun s i => s.idleStream b i) s).cancelProbes b fun _ => true) else s) s

/-- A core's program ranges, slots, seeds, thresholds, tallies and RMAX (09 R256, 06 R156, 05 R117, R149). -/
def placeCore (s : State) (c : ImageCore) : State :=
  let b := c.core
  if !s.coreOn b then s
  else
    let s := c.streams.foldl (fun s p =>
      (s.wr (SQS_PBASE b (p.1 - 1)) fSQS_PBASE_PBASE p.2.1).wr (SQS_PLIMIT b (p.1 - 1)) fSQS_PLIMIT_PLIMIT p.2.2) s
    let s := c.slots.foldl (fun s x => s.placeSlot b x) s
    let s := c.seeds.foldl (fun s x => s.setReg (QC_RSEED b (x.1 % 8)) (BitVec.ofNat 64 x.2)) s
    let s := c.thr.foldl (fun s x => s.putFields (QC_THR b (x.1 % 4)) [.xw, .rw] x.2) s
    let s := c.tallies.foldl (fun s x => s.putFields (TL_CFG b (x.1 % 32)) [.xw, .rw] x.2) s
    match c.rmax with
    | some r => s.wr (QC_CTRL b) fQC_CTRL_RMAX r
    | none => s

/-- The default format of a layer and kind: the boot image's, or the narrowest allowed one (05 R140). -/
def gfDefault (s : State) (kind allow : Nat) : Nat :=
  let d := if kind = 0 then s.sched.agDef else s.sched.wgDef
  if allow / 2 ^ gfRank d % 2 = 1 then d else gfCode (([0, 1, 2].find? fun r => allow / 2 ^ r % 2 = 1).getD 0)

/-- A format that a new allowed set still holds, else the narrowest allowed one, as R140 has it for a default (05 R137; DEDUCED, log entry 13). -/
def gfKeep (allow code : Nat) : Nat :=
  if allow / 2 ^ gfRank code % 2 = 1 then code else gfCode (([0, 1, 2].find? fun r => allow / 2 ^ r % 2 = 1).getD 0)

/-- The gradient format table given an image's allowed sets (05 R137, R140, R141). The first `old` layers have entries made since the cold
start, which keep what the new sets allow; every other layer starts with its defaults. Changes decided to formats no longer allowed go. -/
def makeFormats (s : State) (old : Nat) (allow : List (Nat × Nat)) : State :=
  let s := allow.zipIdx.foldl (fun s x =>
    let ag := x.1.1 % 16
    let wg := x.1.2 % 16
    if x.2 < old then
      let e := s.gfEntry x.2
      let w := nput (nput (entWord e 0) 19 16 ag) 23 20 wg
      s.gfPut x.2 (nput (nput w 11 8 (gfKeep ag (gfFmt e 0))) 15 12 (gfKeep wg (gfFmt e 1)) :: e.drop 1)
    else s.gfPut x.2 [wg * 2 ^ 20 + ag * 2 ^ 16 + s.gfDefault 1 wg * 2 ^ 12 + s.gfDefault 0 ag * 2 ^ 8, 0]) s
  { s with sched := { s.sched with pend := s.sched.pend.filter fun p =>
      let a := allow.getD p.1 (0, 0)
      (if p.2.1 = 0 then a.1 else a.2) / 2 ^ gfRank p.2.2 % 2 = 1 } }

/-- The table's formats written into what the image binds to them (05 R137). -/
def bindFormats (s : State) (layers : Nat) : State :=
  (List.range layers).foldl (fun s l => [0, 1].foldl (fun s k => s.gfApply (l, k, gfFmt (s.gfEntry l) k)) s) s

/-- Job tags of cores and update dies; 0 where the image names none (15 R456). -/
def placeTags (s : State) (tags : List (Nat × Nat)) : State :=
  let s := (List.range 288).foldl (fun s b => if s.coreOn b then s.wr (PWR_CTAG b) fPWR_CTAG_TAG (sget 0 b tags) else s) s
  (s.wr PWR_UDTAG fPWR_UDTAG_UD0 (sget 0 288 tags)).wr PWR_UDTAG fPWR_UDTAG_UD1 (sget 0 289 tags)

/-- UD_EPOCH of both dies is the low eight bits of the layout epoch (14 R423). -/
def placeEpoch (s : State) (epoch : Nat) : State :=
  (s.wr (UD_EPOCH 0) fUD_EPOCH_EPOCH epoch).wr (UD_EPOCH 1) fUD_EPOCH_EPOCH epoch

/-- The image takes effect, its checks passed. -/
def takeImage (s : State) (m : SchedImage) : State :=
  let s := m.cores.foldl placeCore s.idleAll
  let n := m.gfmtAllow.length
  let old := if s.sched.made && s.sched.gbase = m.gfmtBase then s.sched.glayers else 0
  let s := { s with sched := { s.sched with
    planned := m.planned, classes := m.classes, gbase := m.gfmtBase, glayers := n, gbinds := m.gfmtBinds, norms := m.norms,
    planCode := m.planCode, boost := m.boost } }
  let s := s.makeFormats old m.gfmtAllow
  let s := { s with sched := { s.sched with made := s.sched.made || 0 < n } }
  let s := ((s.bindFormats n).placeTags m.tags).placeEpoch s.rm.epoch
  let s := s.publishRatios m.planCode
  let s := s.loadPlan m.planned m.tick0 m.beat0
  let s := s.refreshFcap
  s.setAllV s.voltCode

/-- A schedule image is loaded, or rejected with the first failing item (16 R491). -/
def loadImage (s : State) (m : SchedImage) : State × Option (Nat × Nat) :=
  let t := s.placeImage m
  match firstBad (imageChecks t m) with
  | some e => (s, some e)
  | none => (t.takeImage m, none)

/-- SCHED_LOAD (16 R491); an address at which no image lies is rejected at item 0 with PKG_BAD_ARGS. -/
def schedLoad (image : Option SchedImage) (_ : List Nat) (s : State) : State × Ans :=
  if s.anyRun then s.refuse stStreamsRun
  else match image with
    | none => (s, .rejected stLoadRejected 0 [stBadArgs])
    | some m => match s.loadImage m with
      | (s, some e) => (s, .rejected stLoadRejected e.1 [e.2])
      | (s, none) => (s, .done 0 [])

/-- The schedule goes: streams in IDLE, tick plan discarded, probes cancelled; the boot code plans again (16 R491, 08 R237, 15 R438). -/
def unloadImage (s : State) : State :=
  let s := (s.idleAll).dropPlan
  { s with sched := { s.sched with planned := 0, classes := [], planCode := (match s.pkg.image with | some i => bootCode i | none => 80), boost := false } }

/-- SCHED_UNLOAD (16 R491). -/
def schedUnload (_ : List Nat) (s : State) : State × Ans :=
  if s.anyRun then s.refuse stStreamsRun else (s.unloadImage, .done 0 [])

end State

/-- SCHED_LOAD (16 R491). -/
def execSchedLoad (via : Via) (image : Option SchedImage) (s : State) : Res := .next (s.command 0x1004 via (State.schedLoad image))

/-- SCHED_UNLOAD (16 R491). -/
def execSchedUnload (via : Via) (s : State) : Res := .next (s.command 0x1005 via State.schedUnload)

end Sys2Proof.Machine
end

