-- ==== Sys2Proof/Machine/Topology.lean ====
section
/-!
DEFINITION. Machine/Topology.lean: what the Ringmaster computes from its enrolment table: the time tree (13 R389, R397) and the routes (R396).
-/

namespace Sys2Proof.Machine

/-- The most hops a time-tree depth may have (13 R397). -/
def maxDepth : Nat := 5

/-- Nodes to which a member reports an UP port. -/
def Member.peers (m : Member) : List Nat := (m.links.map fun l => l.2.1).eraseDups

def memberOf (t : List Member) (n : Nat) : Option Member := t.find? fun m => m.node = n

/-- Member `a` has an UP port to node `b`. -/
def linked (t : List Member) (a b : Nat) : Bool :=
  match memberOf t a with
  | some m => m.peers.contains b && (memberOf t b).isSome
  | none => false

/-- A node placed in the time tree: node, parent, depth. -/
abbrev Placed := Nat × Nat × Nat

def depthIn (p : List Placed) (n : Nat) : Option Nat := (p.find? fun x => x.1 = n).map fun x => x.2.2

/-- The better of two places for a node: least depth, then lower node, then lower parent (13 R389). -/
def betterPlace (a b : Placed) : Placed :=
  if a.2.2 < b.2.2 then a else if b.2.2 < a.2.2 then b
  else if a.1 < b.1 then a else if b.1 < a.1 then b
  else if a.2.1 ≤ b.2.1 then a else b

/-- The best place among candidate nodes whose parents are placed outside their tray (13 R389). -/
def bestPlace (t : List Member) (placed : List Placed) (cands : List Nat) : Option Placed :=
  (cands.flatMap fun n => (placed.filter fun x => x.1 / 4 ≠ n / 4 && linked t n x.1).map fun x => (n, x.1, x.2.2 + 1)).foldl
    (fun (a : Option Placed) c => match a with
      | none => some c
      | some b => some (betterPlace b c)) none

/-- The other members of a tray whose head is placed: under the head, else under a tray mate that has the head as parent, else as heads of
their own (13 R389 steps 3, 4). -/
def placeTray (t : List Member) (placed : List Placed) (head : Nat) (mates : List Nat) : List Placed :=
  let d := (depthIn placed head).getD 0
  let direct := (mates.filter fun n => linked t n head).mergeSort
  let placed := placed ++ direct.map fun n => (n, head, d + 1)
  (mates.filter fun n => !linked t n head).foldl (fun placed n =>
    match direct.find? fun m => linked t n m with
    | some m => placed ++ [(n, m, d + 2)]
    | none => match bestPlace t placed [n] with
      | some p => placed ++ [p]
      | none => placed) placed

/-- Trays that touch placed ones, in ascending order, one round of the breadth-first order; a head's parent may be of any tray placed so far (13 R389
step 2). -/
def growTrays (t : List Member) (placed : List Placed) : List Placed :=
  let left := (t.map fun m => m.node).filter fun n => (depthIn placed n).isNone
  let trays := (left.map fun n => n / 4).eraseDups.mergeSort
  let near := trays.filter fun r => (bestPlace t placed (left.filter fun n => n / 4 = r)).isSome
  near.foldl (fun acc r =>
    let mem := left.filter fun n => n / 4 = r
    match bestPlace t acc mem with
    | none => acc
    | some p => placeTray t (acc ++ [p]) p.1 (mem.filter fun n => n ≠ p.1)) placed

def growAll (t : List Member) : Nat → List Placed → List Placed
  | 0, p => p
  | n + 1, p =>
    let q := growTrays t p
    if q.length = p.length then p else growAll t n q

/-- The time tree from an origin (13 R389); nodes deeper than 5, or not reached, are left out (R397). -/
def timeTree (t : List Member) (origin : Nat) : List Placed :=
  let mates := (t.map fun m => m.node).filter fun n => n / 4 = origin / 4 && n ≠ origin
  (growAll t t.length (placeTray t [(origin, origin, 0)] origin mates)).filter fun x => x.2.2 ≤ maxDepth

/-- The table with parents and depths of the tree; members without a place are dropped. -/
def treed (t : List Member) (origin : Nat) : List Member :=
  let p := timeTree t origin
  t.filterMap fun m => (p.find? fun x => x.1 = m.node).map fun x => { m with parent := x.2.1, depth := x.2.2 }

/-- A hop from `a` to `b` is up (13 R396). -/
def hopUp (t : List Member) (a b : Nat) : Bool :=
  let d := fun n => ((memberOf t n).map fun m => m.depth).getD 7
  d b < d a || (d b = d a && b < a)

/-- The phase of a route after a hop: 0 up run, 1 down run, 2 second up run, 3 second down run; none where no route goes on (13 R396). -/
def nextPhase (ph : Nat) (up : Bool) : Option Nat :=
  match ph, up with
  | 0, true => some 0
  | 0, false => some 1
  | 1, true => some 2
  | 1, false => some 1
  | 2, true => some 2
  | 2, false => some 3
  | 3, false => some 3
  | _, _ => none

/-- The latest phase in which a packet may reach a node and go on by a hop to one whose own latest phase is given: none where even a route that begins
here may not (13 R396). -/
def latestPhase (up : Bool) (next : Nat) : Option Nat := [3, 2, 1, 0].find? fun ph => (nextPhase ph up).any fun q => decide (q ≤ next)

/-- Routes towards a destination as (node, next hop, latest phase), those of one more hop in each round: the lowest next hop whose own route the hop may
precede (13 R396). DEDUCED (log entry 71): a packet follows the entry of each node it reaches, so that a route is a hop and then the next node's route. -/
def spread (t : List Member) : Nat → List (Nat × Nat × Nat) → List (Nat × Nat × Nat)
  | 0, k => k
  | n + 1, k =>
    let new := t.filterMap fun m =>
      if k.any fun x => x.1 = m.node then none
      else m.peers.mergeSort.findSome? fun b =>
        if linked t m.node b then
          (k.find? fun x => x.1 = b).bind fun y => (latestPhase (hopUp t m.node b) y.2.2).map fun ph => (m.node, b, ph)
        else none
    if new.isEmpty then k else spread t n (k ++ new)

/-- The next hop of every member towards a destination (13 R396). -/
def hopsTo (t : List Member) (dst : Nat) : List (Nat × Nat) :=
  ((spread t 15 [(dst, dst, 3)]).filter fun x => x.1 ≠ dst).map fun x => (x.1, x.2.1)

/-- A route entry's word: ports to the next hop, lowest first, SETC where a second run begins, UPHOP (13 R396, R404). -/
def routeWord (t : List Member) (hops : List (Nat × Nat)) (a b : Nat) : Nat :=
  let ps := (((memberOf t a).map fun m => (m.links.filter fun l => l.2.1 = b).map (·.1)).getD []).mergeSort
  let pa := ps.getD 0 0
  let pb := ps.getD 1 pa
  let up := hopUp t a b
  let setc := up && hops.any fun h => h.2 = a && !hopUp t h.1 a
  2 ^ 31 + (if setc then 2 ^ 30 else 0) + (if up then 2 ^ 29 else 0) + pb * 16 + pa

/-- All routes of a table: for each member, (destination, entry word). -/
def allRoutes (t : List Member) : List (Nat × List (Nat × Nat)) :=
  let per := t.map fun d => (d.node, hopsTo t d.node)
  t.map fun m => (m.node, per.filterMap fun d => (d.2.find? fun h => h.1 = m.node).map fun h => (d.1, routeWord t d.2 m.node h.2))

/-- The entries of a member that differ between two tables; a route withdrawn has word 0 (13 R395, R399). -/
def routeDiff (old new : List (Nat × Nat)) : List (Nat × Nat) :=
  (new.filter fun x => !old.contains x) ++ ((old.filter fun x => !(new.any fun y => y.1 = x.1)).map fun x => (x.1, 0))

end Sys2Proof.Machine
end

