-- ==== Sys2Proof/Machine/Control.lean ====
section
/-!
DEFINITION. Machine/Control.lean: control messages as a package that is not the Ringmaster handles them: enrolment (13 R393-R395), routes
(R396, R399), claims (14 R413, R414, R416). The order of words in the messages whose form the spec does not give is the model's own
(log entry 44).
-/

namespace Sys2Proof.Machine

/-- Milliseconds in beats (08 R226). -/
def ms : Nat := 1000000

/-- Argument k of an RM_MSG or HEALTH: words 2 onwards (14 R419). -/
def msgArg (ws : List Nat) (k : Nat) : Nat := ws.getD (k + 2) 0

/-- CODE, NODE and TERM of an RM_MSG or HEALTH (14 R419). -/
def msgCode (ws : List Nat) : Nat := ws.getD 0 0 / 2 ^ 56 % 256
def msgNode (ws : List Nat) : Nat := ws.getD 0 0 / 2 ^ 44 % 4096
def msgTerm (ws : List Nat) : Nat := ws.getD 1 0 / 2 ^ 32 % 2 ^ 32

/-- A claim is better: higher term, or the lower node at equal terms (14 R413). Claims are (term, node). -/
def betterClaim (a b : Nat × Nat) : Bool := decide (b.1 < a.1) || (a.1 = b.1 && decide (a.2 < b.2))

namespace State

def modRm (s : State) (f : RmSt → RmSt) : State := { s with rm := f s.rm }

/-- A message leaves by every UP port (14 R413). -/
def linkAll (s : State) (typ : Nat) (words : List Nat) : State :=
  ((List.range 16).filter s.portUp).foldl (fun s p => s.sendLink p typ words) s

def anyPortUp (s : State) : Bool := (List.range 16).any s.portUp

/-- This package has heard from its Ringmaster, whose term is that of its claim when the message names none (14 R413). -/
def hears (s : State) (src : Nat) : State :=
  let t := match s.rm.best with
    | some c => if c.2 = src then c.1 else s.rm.rmTerm
    | none => s.rm.rmTerm
  s.modRm fun r => { r with heardRm := some s.beat, rmTerm := if r.master then r.rmTerm else t }

/-- Beats since an event are at least n; none counts as long ago. -/
def longAgo (s : State) (at_ : Option Nat) (n : Nat) : Bool :=
  match at_ with
  | none => true
  | some b => decide (b + n ≤ s.beat)

/-- The package becomes Detached (13 R393): Ringmaster, standby and depth are no longer known, and it holds no Ringmaster role. -/
def detach (s : State) : State :=
  let s := ((s.setEnrol 0).wr FAB_ENROL fFAB_ENROL_DEPTH 7).wr FAB_ENROL fFAB_ENROL_RM_VALID 0
  let s := (s.wr FAB_ENROL fFAB_ENROL_SB_VALID 0).wr TIME_STATUS fTIME_STATUS_ROOT 0
  (s.modRm fun r => { r with master := false, suspended := false, claim := none, standby := none }).modTime fun t => { t with originWait := false }

/-- Route words as messages carry them: node and entry. -/
def routePairs (ws : List Nat) : List (Nat × Nat) := ws.map fun w => (w / 2 ^ 32 % 4096, w % 2 ^ 32)

/-- Entries of the route table written (13 R396, R404). -/
def installRoutes (s : State) (l : List (Nat × Nat)) : State :=
  l.foldl (fun s x => s.setReg (FAB_ROUTE x.1) (BitVec.ofNat 64 (x.2 / 2 ^ 29 % 8 * 2 ^ 29 + x.2 % 256))) s

/-- The parent and depth that the Ringmaster assigns (13 R389): the lowest UP port to it, and TIME_ASYM from the latencies of both ends, each receive
latency with its deskew offset of slot 0 (R390), divided towards zero (00 R15). -/
def takeParent (s : State) (parent depth : Nat) : State :=
  let s := s.wr FAB_ENROL fFAB_ENROL_DEPTH depth
  if parent = s.node then s
  else
    let port := (List.range 16).find? fun p => s.portUp p && s.rd (fpStatus p) fFP_STATUS_PNODE = parent
    let q := port.getD 0
    let asym : Int := match (s.port q).ident with
      | some i => ((Int.ofNat (Config.txLat q) + Int.ofNat i.rxLat) - (Int.ofNat i.txLat + Int.ofNat (s.rxLatency q))).tdiv 2
      | none => 0
    let s := (s.wr TIME_PARENT fTIME_PARENT_VALID 1).wr TIME_PARENT fTIME_PARENT_PORT q
    (s.wr TIME_PARENT fTIME_PARENT_NODE parent).wr TIME_ASYM fTIME_ASYM_ASYM (asym % 2 ^ 16).toNat

/-- Packets that waited for a new route go out (13 R399). -/
def sendOrphans (s : State) : State := (s.modFab fun f => { f with orphans := [] }).resendAll s.fab.orphans

/-- The links that this package reports: own port, partner node, partner port (13 R394). -/
def ownLinks (s : State) : List (Nat × Nat × Nat) :=
  ((List.range 16).filter s.portUp).map fun p => (p, s.rd (fpStatus p) fFP_STATUS_PNODE, s.rd (fpStatus p) fFP_STATUS_PPORT)

/-- ENROL_REQ by a port (13 R394): the DISC identity, ten words, and the neighbour list. -/
def enrolWords (s : State) (port : Nat) : List Nat :=
  s.identity port s.gen ++ s.ownLinks.map fun l => l.1 * 2 ^ 32 + l.2.1 * 2 ^ 8 + l.2.2

/-- ENROL_GRANT (13 R393, R394, R396, R389): parent, depth, Ringmaster, standby plus one or 0, routes. -/
def gotGrant (s : State) (m : CtrlMsg) : State :=
  if s.enrolled ≠ 1 then s
  else
    let w := fun k => m.words.getD k 0
    let s := (s.installRoutes (routePairs (m.words.drop 4))).takeParent (w 0) (w 1)
    let s := (s.wr FAB_ENROL fFAB_ENROL_RM (w 2)).wr FAB_ENROL fFAB_ENROL_RM_VALID 1
    let s := (s.wr FAB_ENROL fFAB_ENROL_SB (w 3 - 1)).wr FAB_ENROL fFAB_ENROL_SB_VALID (if w 3 = 0 then 0 else 1)
    let s := (s.setEnrol 2).raise FAB_EVENTS fFAB_EVENTS_ENROLLED
    let s := (s.hears m.src).sendOrphans
    if s.on TIME_STATUS fTIME_STATUS_ACQ then s.toRm 0x34 [s.node] else s

/-- ENROL_DENY (13 R393, R394): DUP_ID and DOMAIN end the attempt, the others leave it Probing. -/
def gotDeny (s : State) (m : CtrlMsg) : State :=
  if s.enrolled ≠ 1 then s
  else
    let code := m.words.getD 0 0
    let s := s.wr FAB_ENROL fFAB_ENROL_DENY code
    if code = 1 || code = 2 then s.detach.raise FAB_EVENTS fFAB_EVENTS_ENROL_DENIED else s

/-- WORK (13 R393, 14 R417): Working from Enrolled, once READY has been sent. -/
def gotWork (s : State) (m : CtrlMsg) : State :=
  if s.enrolled ≠ 2 && s.enrolled ≠ 3 then s
  else
    let s := s.modRm fun r => { r with epoch := m.words.getD 0 0 }
    if s.enrolled = 2 && s.on TIME_STATUS fTIME_STATUS_ACQ then s.setEnrol 3 else s

/-- LEAVE from the Ringmaster (13 R393): the package leaves and says so. -/
def gotLeave (s : State) (m : CtrlMsg) : State :=
  if s.enrolled = 2 || s.enrolled = 3 then (s.setEnrol 4).sendCtrl m.src 0x38 [] else s

/-- LEAVE_ACK at a package that leaves (13 R393). -/
def gotLeaveAck (s : State) : State := if s.enrolled = 4 then s.detach else s

/-- ROUTE_SET (13 R396, R399): parent plus one or 0, depth, entries. -/
def gotRouteSet (s : State) (m : CtrlMsg) : State :=
  if s.enrolled < 2 then s
  else
    let s := s.installRoutes (routePairs (m.words.drop 2))
    let p := m.words.getD 0 0
    let s := if p = 0 then s else s.takeParent (p - 1) (m.words.getD 1 0)
    ((s.raise FAB_EVENTS fFAB_EVENTS_REROUTE).hears m.src).sendOrphans

/-- Claiming and following end when this package follows another's claim. -/
def follow (s : State) (c : Nat × Nat) : State :=
  let s := s.modRm fun r => { r with claim := if c.2 = s.node then r.claim else none }
  (s.wr FAB_ENROL fFAB_ENROL_RM c.2).wr FAB_ENROL fFAB_ENROL_RM_VALID 1

/-- RM_CLAIM (14 R413, R414): node and term. While it hears from a Ringmaster, or is one, a package takes no claim of a term that is not higher than that
Ringmaster's. -/
def gotClaim (s : State) (m : CtrlMsg) : State :=
  let c : Nat × Nat := (m.words.getD 1 0, m.words.getD 0 0)
  let alive := s.rm.master || !s.longAgo s.rm.heardRm (50 * ms)
  let s := s.modRm fun r => { r with heardClaim := some s.beat }
  if alive && decide (c.1 ≤ s.rm.rmTerm) then s
  else if !(s.rm.best.all fun b => betterClaim c b) then s
  else
    let was := s.rm.master
    let s := s.modRm fun r => { r with best := some c, term := max r.term c.1 }
    let s := s.linkAll 0x3D [c.2, c.1]
    if was then (s.detach.setEnrol 1).follow c else s.follow c

/-- HB_ACK (14 R413, R416, R419). -/
def gotHbAck (s : State) : State := s.modRm fun r => { r with hbAck := some s.beat }

/-- NODE_GEN (16 R498): the new generation of NODE. -/
def gotNodeGen (s : State) (m : CtrlMsg) : State := s.learnGen (msgNode m.words) (msgArg m.words 0 % 16)

/-- NODE_REMOVED (13 R393, R395): a package that reads its own removal becomes Detached; routes are withdrawn by ROUTE_SET. -/
def gotRemoved (s : State) (m : CtrlMsg) : State := if msgNode m.words = s.node && 2 ≤ s.enrolled then s.detach else s

/-- TICK_CHANGE (08 R237): sequence number, T_eff, B_eff, length. -/
def gotTickChange (s : State) (m : CtrlMsg) : State :=
  s.tickChange (msgArg m.words 0 % 256) (msgArg m.words 1 % 2 ^ 48) (msgArg m.words 2 % 2 ^ 64) (msgArg m.words 3)

/-- Firmware runs: neither starting, in recovery nor halted (16 R477, R482, R484). -/
def firmware (s : State) : Bool := s.pkState = pkLocal || s.pkState = pkReady

/-- ENROL_REQ every 10 ms, or every 1 s after DEPTH (13 R394); the request goes by every UP port, and a neighbour that is neither Enrolled nor Working
lets it fall (log entry 47). -/
def enrolTimer (s : State) : State :=
  if s.firmware && s.enrolled = 1 then ((List.range 16).filter s.portUp).foldl (fun s p => s.sendLink p 0x31 (s.enrolWords p)) s else s

/-- LEAVE_TIMEOUT (13 R393). -/
def leaveTimeout (s : State) : State := if s.firmware && s.enrolled = 4 then s.detach else s

/-- NO_PORT_UP_TIMEOUT (13 R393). -/
def noPortTimeout (s : State) : State := if s.firmware && s.enrolled ≠ 0 && !s.anyPortUp then s.detach else s

/-- HEARTBEAT every 10 ms (13 R395); the Ringmaster counts itself as heard (14 R415). -/
def heartbeatTimer (s : State) : State :=
  if s.firmware && (s.enrolled = 2 || s.enrolled = 3) && !s.rm.master then s.toRm 0x39 [s.node] else s

/-- RM_CLAIM is flooded (14 R413): an eligible package with a port UP that has heard from no Ringmaster and received no claim for 200 ms. -/
def claimTimer (s : State) : State :=
  if s.firmware && s.on FAB_ID fFAB_ID_ELIGIBLE && 1 ≤ s.enrolled && s.enrolled ≤ 3 && s.anyPortUp && !s.rm.master && s.rm.claim.isNone
      && s.longAgo s.rm.heardRm (200 * ms) && s.longAgo s.rm.heardClaim (200 * ms) then
    let t := s.rm.term + 1
    let s := s.modRm fun r => { r with term := t, best := some (t, s.node), claim := some s.beat }
    s.linkAll 0x3D [s.node, t]
  else s

/-- 50 ms without HB_ACK (14 R416): the package runs on and follows the best claim heard. -/
def hbAckLoss (s : State) : State :=
  if s.firmware && (s.enrolled = 2 || s.enrolled = 3) && !s.rm.master && s.longAgo s.rm.hbAck (50 * ms) then
    match s.rm.best with
    | some c => s.follow c
    | none => s
  else s

end State
end Sys2Proof.Machine
end

