-- ==== Sys2Proof/Machine/Ringmaster.lean ====
section
/-!
DEFINITION. Machine/Ringmaster.lean: what the Ringmaster and its standby do (13 R389, R394-R397, 14 R412-R417, R420-R426, R429). Messages to
its own package leave as CTRL messages to the own node and come back as commands (log entry 48).
-/

namespace Sys2Proof.Machine

/-- What RM_SYNC mirrors (14 R414): a change of it is sent to the standby. Beats of heartbeats are left out. -/
structure RmView where
  term : Nat
  table : List Member
  tickSent : Option (List Nat)
  epoch : Nat
  layout : List Nat
  reshard : Option Reshard
  decisions : List (Nat × Nat)
  slipUp : Nat
  stepTmo : Nat
  deriving DecidableEq, Repr

def RmSt.view (r : RmSt) : RmView :=
  ⟨r.term, r.table.map (fun m => { m with heard := 0, direct := none }), r.tickSent, r.epoch, r.layout, r.reshard, r.decisions, r.slipUp, r.stepTmo⟩

namespace State

/-- The Ringmaster acts: not suspended, and the origin role is served (14 R415, 08 R231). -/
def rmActs (s : State) : Bool := s.rm.master && !s.rm.suspended && !s.time.originWait

/-- An RM_MSG to one package (14 R419). -/
def rmMsg (s : State) (dst code node : Nat) (args : List Nat) : State := s.sendCtrl dst 0x3B (s.msgHead code node ++ args)

def tableNodes (s : State) : List Nat := s.rm.table.map (·.node)

/-- An RM_MSG to every enrolled package. -/
def rmAll (s : State) (code node : Nat) (args : List Nat) : State := s.tableNodes.foldl (fun s n => s.rmMsg n code node args) s

/-- An RM_MSG to the packages of a layout. -/
def rmLayout (s : State) (l : List Nat) (code : Nat) (args : List Nat) : State := l.foldl (fun s n => s.rmMsg n code s.node args) s

/-- A member changed. -/
def modMember (s : State) (n : Nat) (f : Member → Member) : State :=
  s.modRm fun r => { r with table := r.table.map fun m => if m.node = n then f m else m }

/-- A member is Working: the own package by its own state. -/
def memWorking (s : State) (m : Member) : Bool := if m.node = s.node then s.enrolled = 3 else m.working

/-- RM_SYNC to the standby (14 R414). -/
def sync (s : State) : State :=
  match s.rm.master, s.rm.standby with
  | true, some n =>
    let k := s.rm.syncNo + 1
    let s := s.modRm fun r => { r with syncNo := k, unacked := r.unacked ++ [(k, r.table.map (·.node))] }
    (s.emit (.sync n (sget 0 n s.fab.cseq) s.rm)).sendCtrl n 0x3E [k]
  | _, _ => s

/-- The standby to appoint (14 R413): the eligible Working package with the lowest node ID, other than the Ringmaster. -/
def standbyFor (s : State) : Option Nat :=
  ((s.rm.table.filter fun m => m.eligible && s.memWorking m && m.node ≠ s.node).map (·.node)).min?

/-- A standby is appointed when there is none or the one there was has left (14 R413). -/
def appoint (s : State) : State :=
  if !s.rm.master then s
  else if s.rm.standby.any fun n => s.rm.table.any fun m => m.node = n && m.eligible && s.memWorking m then s
  else
    let n := s.standbyFor
    let s := s.modRm fun r => { r with standby := n, unacked := [] }
    (s.wr FAB_ENROL fFAB_ENROL_SB_VALID (if n.isSome then 1 else 0)).wr FAB_ENROL fFAB_ENROL_SB (n.getD 0)

/-- After each command on the Ringmaster's state: the standby appointed, and told of every change (14 R413, R414). -/
def rmSettle (s0 s : State) : State :=
  if !s.rm.master then s
  else
    let t := s.appoint
    if t.rm.standby = s0.rm.standby ∧ t.rm.view = s0.rm.view then t else t.sync

/-- This package's row of the enrolment table. -/
def selfMember (s : State) : Member := ⟨s.node, s.gen, true, true, true, s.node, 0, s.ownLinks, s.beat, some s.beat⟩

/-- ROUTE_SET to a package: parent plus one, depth, and as many entries as the payload of a packet holds; more go in further ones (13 R377, R396). -/
def routeSets (s : State) (n parent depth : Nat) (d : List (Nat × Nat)) : State :=
  (pieces30 d.length d).foldl (fun s c => s.sendCtrl n 0x3A ([parent + 1, depth] ++ c.map fun x => x.1 * 2 ^ 32 + x.2)) s
where
  /-- The entries in lists of at most thirty. -/
  pieces30 : Nat → List (Nat × Nat) → List (List (Nat × Nat))
    | 0, l => [l]
    | n + 1, l => if l.length ≤ 30 then [l] else l.take 30 :: pieces30 n (l.drop 30)

/-- Routes and parents computed anew from a table (13 R389, R395-R397, R399): ROUTE_SET goes to every other package whose entries change; then the
removal of the packages that have no place is announced. -/
def retree (s : State) (t : List Member) : State :=
  let old := s.rm.table
  let new := treed t s.node
  let ro := allRoutes old
  let rn := allRoutes new
  let of_ := fun (r : List (Nat × List (Nat × Nat))) n => ((r.find? fun x => x.1 = n).map (·.2)).getD []
  let s := s.modRm fun r => { r with table := new }
  let gone := (old.map (·.node)).filter fun n => (memberOf new n).isNone
  let s := new.foldl (fun s m =>
    let d := routeDiff (of_ ro m.node) (of_ rn m.node)
    match memberOf old m.node with
    | none => s
    | some o =>
      if m.node = s.node then (if d.isEmpty then s else ((s.installRoutes d).raise FAB_EVENTS fFAB_EVENTS_REROUTE).sendOrphans)
      else if d.isEmpty && o.parent = m.parent && o.depth = m.depth then s
      else s.routeSets m.node m.parent m.depth d) s
  gone.foldl (fun s n => s.rmAll 9 n []) s

/-- A package removed from the enrolment table, with every link to it (13 R395). -/
def removeNode (s : State) (n : Nat) : State :=
  if n = s.node || (memberOf s.rm.table n).isNone then s
  else s.retree ((s.rm.table.filter fun m => m.node ≠ n).map fun m => { m with links := m.links.filter fun l => l.2.1 ≠ n })

/-- WORK to a package that is ready and has coordinates in the layout in force or about to open (14 R417). -/
def considerWork (s : State) (n : Nat) : State :=
  let due := match s.rm.reshard with
    | some r => if r.closed && r.layout.contains n then some r.epoch else none
    | none => none
  let due := if s.rm.epoch ≠ 0 && s.rm.layout.contains n then some s.rm.epoch else due
  match due, memberOf s.rm.table n with
  | some e, some m =>
    if s.rmActs && m.ready && !m.working && n ≠ s.node then (s.sendCtrl n 0x36 [e]).modMember n fun m => { m with working := true } else s
  | _, _ => s

/-- A way back to a package whose request has come and to which no route is installed: the port it came by, or the route to the neighbour that relayed it
(13 R394; DESIGN CHOICE, log entry 47). -/
def backRoute (s : State) (m : CtrlMsg) (n : Nat) : State :=
  if s.on (FAB_ROUTE n) fFAB_ROUTE_VALID || n = s.node then s
  else if m.src = n then s.installRoutes [(n, 2 ^ 31 + m.port % 16 * 16 + m.port % 16)]
  else s.installRoutes [(n, (s.reg (FAB_ROUTE m.src)).toNat)]

/-- ENROL_REQ granted, or denied with DEPTH (13 R394, R397). A partner's own link to the new package counts as reported with it. -/
def enrolIn (s : State) (m : Member) : State :=
  let back := fun (x : Member) =>
    { x with links := (x.links.filter fun l => l.2.1 ≠ m.node) ++
        (m.links.filter fun l => l.2.1 = x.node).map fun l => (l.2.2, m.node, l.1) }
  let t := (s.rm.table.filter fun x => x.node ≠ m.node).map back ++ [m]
  let t := t.map fun x => if x.node = s.node then { x with links := s.ownLinks } else x
  if (memberOf (treed t s.node) m.node).isNone then s.sendCtrl m.node 0x33 [3]
  else
    let s := s.modRm fun r => { r with table := r.table.filter fun x => x.node ≠ m.node }
    let s := s.retree t
    let r := ((allRoutes s.rm.table).find? fun x => x.1 = m.node).map (·.2)
    match memberOf s.rm.table m.node with
    | none => s
    | some x =>
      let rs := r.getD []
      let s := s.sendCtrl m.node 0x32 ([x.parent, x.depth, s.node, (s.rm.standby.map (· + 1)).getD 0]
        ++ (rs.take 28).map fun y => y.1 * 2 ^ 32 + y.2)
      if rs.length ≤ 28 then s else s.routeSets m.node x.parent x.depth (rs.drop 28)

/-- ENROL_REQ at the Ringmaster (13 R394). -/
def judgeEnrol (s : State) (ws : List Nat) : State :=
  let w := fun k => ws.getD k 0
  let n := w 0 % 4096
  let links := (ws.drop 10).map fun x => (x / 2 ^ 32 % 16, x / 2 ^ 8 % 4096, x % 2 ^ 8 % 16)
  let m : Member := ⟨n, w 3 % 16, w 6 = 1, false, false, n, 7, links, s.beat, some s.beat⟩
  let deny := fun (s : State) (c : Nat) => s.sendCtrl n 0x33 [c]
  if !s.rmActs then deny s 4
  else if w 1 ≠ s.rd FAB_ID fFAB_ID_DOMAIN then deny s 2
  else match memberOf s.rm.table n with
    | none => s.enrolIn m
    | some o =>
      if n = s.node then deny s 1
      else if o.gen ≠ m.gen then (s.rmAll 8 n [m.gen]).enrolIn m
      else if o.links ≠ links && decide (s.beat < o.heard + 30 * ms) then deny s 1
      else s.enrolIn m

/-- ENROL_REQ (13 R394): judged by the Ringmaster; a neighbour that is Enrolled or Working fills in DST, forwards it under its own
CSEQ and installs a temporary route to the probing node. -/
def gotEnrolReq (s : State) (m : CtrlMsg) : State :=
  if s.rm.master then (s.backRoute m (m.words.getD 0 0 % 4096)).judgeEnrol m.words
  else if (s.enrolled = 2 || s.enrolled = 3) && s.on FAB_ENROL fFAB_ENROL_RM_VALID then
    let n := m.words.getD 0 0 % 4096
    (s.installRoutes [(n, 2 ^ 31 + m.port % 16 * 16 + m.port % 16)]).sendCtrl (s.rd FAB_ENROL fFAB_ENROL_RM) 0x31 m.words
  else s

/-- READY (13 R393, 14 R417). -/
def gotReady (s : State) (m : CtrlMsg) : State :=
  if s.rm.master then (s.modMember m.src fun x => { x with ready := true }).considerWork m.src else s

/-- UNREADY (13 R393). -/
def gotUnready (s : State) (m : CtrlMsg) : State :=
  if s.rm.master then s.modMember m.src fun x => { x with ready := false, working := false } else s

/-- LEAVE at the Ringmaster (13 R393, 16 R498): a restart announces the next generation; any other leave is acknowledged and ends the
enrolment. -/
def memberLeaves (s : State) (m : CtrlMsg) : State :=
  let w := m.words.getD 0 0
  if w / 16 % 2 = 1 then
    (s.rmAll 8 m.src [w % 16]).modMember m.src fun x => { x with gen := w % 16, ready := false, working := false }
  else (s.sendCtrl m.src 0x38 []).removeNode m.src

/-- LEAVE (13 R393). -/
def gotLeaveMsg (s : State) (m : CtrlMsg) : State := if s.rm.master then s.memberLeaves m else s.gotLeave m

/-- LEAVE_ACK (13 R393): a package that leaves becomes Detached; the Ringmaster that asked one to leave drops it. -/
def gotLeaveAckMsg (s : State) (m : CtrlMsg) : State :=
  if s.rm.master && m.src ≠ s.node then s.removeNode m.src else s.gotLeaveAck

/-- The Ringmaster hears from a package (14 R415). -/
def hearsFrom (s : State) (n : Nat) : State := if s.rm.master then s.modMember n fun x => { x with direct := some s.beat } else s

/-- HEARTBEAT (13 R395, 14 R413). -/
def gotHeartbeat (s : State) (m : CtrlMsg) : State :=
  if s.rm.master && (memberOf s.rm.table m.src).isSome then
    (s.modMember m.src fun x => { x with heard := s.beat }).rmMsg m.src 1 m.src []
  else s

/-- Three heartbeats in a row are missed (13 R395). -/
def heartbeatMiss (s : State) (n : Nat) : State :=
  match memberOf s.rm.table n with
  | some m => if s.rmActs && decide (m.heard + 30 * ms ≤ s.beat) then s.removeNode n else s
  | none => s

/-- PORT_DOWN at the Ringmaster (13 R399): the link is gone at both ends. -/
def linkLost (s : State) (n port : Nat) : State :=
  match memberOf s.rm.table n with
  | none => s
  | some m =>
    match m.links.find? fun l => l.1 = port with
    | none => s
    | some l =>
      s.retree (s.rm.table.map fun x =>
        if x.node = n then { x with links := x.links.filter fun y => y.1 ≠ port }
        else if x.node = l.2.1 then { x with links := x.links.filter fun y => !(y.1 = l.2.2 && y.2.1 = n) }
        else x)

/-- The quorum (14 R415): of the base, those that this Ringmaster has heard from in 30 ms are more than half. The base is the set enrolled at this moment
while there is no standby or none of its own syncs has been acknowledged. -/
def quorum (s : State) : Bool :=
  let base := match s.rm.standby, s.rm.base with
    | some _, some b => b
    | _, _ => s.tableNodes
  let heard := base.filter fun n => n = s.node || s.rm.table.any fun m => m.node = n && m.direct.any fun b => decide (s.beat < b + 30 * ms)
  decide (base.length < 2 * heard.length)

/-- An event for the runtime: RM_QUERY shows it (14 R421, R424, R426, 17 R532). -/
def rmReport (s : State) (bit : Nat) : State :=
  (s.modRm fun r => { r with events := Nat.lor r.events bit }).raise HIF_EVENTS fHIF_EVENTS_RM_REPORT

/-- The packages of the old and the new layout of a re-shard. -/
def reshardNodes (s : State) (r : Reshard) : List Nat := (s.rm.layout ++ r.layout).eraseDups

/-- The epoch closes with a decision for a step; the first step of the next (14 R424-R426). -/
def closeEpoch (s : State) (r : Reshard) (step dec first : Nat) : State :=
  let r := { r with closed := true, first := first }
  let args := [s.rm.epoch, step, dec]
  let s := s.modRm fun x => { x with reshard := some r, epochMsg := some (4, args) }
  s.rmLayout (s.reshardNodes r) 4 args

/-- The last STEP_REPORTs find a package that has not sent PREPARED: the fence moves, or the re-shard is abandoned (14 R424). -/
def fenceMove (s : State) (n : Nat) : State :=
  match s.rm.reshard with
  | none => s
  | some r =>
    if r.closed || n + 1 ≠ r.fence || r.layout.all (fun p => r.prepared.contains p) || !s.rmActs then s
    else if 8 ≤ r.moves then (s.modRm fun x => { x with reshard := none, epochMsg := none }).rmReport 2
    else
      let r := { r with fence := r.fence + 1, moves := r.moves + 1 }
      let args := [r.epoch, r.fence, r.table]
      (s.modRm fun x => { x with reshard := some r, epochMsg := some (3, args) }).rmLayout (s.reshardNodes r) 3 args

/-- The epoch opens: every package of the new layout has sent LOADED (14 R424, R417). -/
def openEpoch (s : State) (r : Reshard) : State :=
  let old := s.rm.layout
  let args := [r.epoch, r.first, s.rd TIME_TICK fTIME_TICK_TICK + 4]
  let s := s.modRm fun x => { x with
    epoch := r.epoch, layout := r.layout, reshard := none, step := r.first, again := 0, reports := [], firsts := [], norms := [], epochMsg := some (5, args) }
  let s := s.rmLayout r.layout 5 args
  let s := r.layout.foldl considerWork s
  (old.filter fun n => !r.layout.contains n && n ≠ s.node).foldl (fun s n => s.sendCtrl n 0x37 [0]) s

/-- A re-shard goes on as far as it can (14 R424). With every package PREPARED the epoch closes at once when none is in force, or when the job stands stopped
after two RECOMPUTE (log entry 49); a fence that its step's first report has reached moves; with every package LOADED the next epoch opens. -/
def reshardGo (s : State) : State :=
  match s.rm.reshard with
  | none => s
  | some r =>
    if !s.rmActs then s
    else if r.closed then (if r.layout.all (fun p => r.loaded.contains p) then s.openEpoch r else s)
    else if r.layout.all fun p => r.prepared.contains p then
      if s.rm.epoch = 0 then s.closeEpoch r ((r.fence + 2 ^ 32 - 1) % 2 ^ 32) 1 r.fence
      else if 1 ≤ s.rm.again then s.closeEpoch r s.rm.step 3 s.rm.step
      else s
    else if s.rm.firsts.any fun x => x.1 + 1 = r.fence then s.fenceMove (r.fence - 1)
    else s

/-- A step is decided (14 R421, R424): STEP_DECIDE, or EPOCH_CLOSE for the last step of a closing epoch. Norms of a step that runs again are none of its
rerun's (R412). -/
def decideStep (s : State) (n dec : Nat) : State :=
  if !s.rmActs then s
  else
    let twice := dec = 3 && s.rm.decisions.head? = some (n, 3)
    let s := s.modRm fun r => { r with
      decisions := ((n, dec) :: r.decisions).take 16, again := if twice then r.again + 1 else 0, step := if dec = 3 then n else n + 1
      norms := if dec = 3 then [] else r.norms
      reports := r.reports.filter fun x => x.1 ≠ n, firsts := r.firsts.filter fun x => x.1 ≠ n }
    let send := fun (s : State) => (s.modRm fun r => { r with lastDecide := some [n, dec] }).rmLayout s.rm.layout 6 [n, dec]
    let s := match s.rm.reshard with
      | some r => if !r.closed && n + 1 = r.fence && r.layout.all (fun p => r.prepared.contains p) then s.closeEpoch r n dec (if dec = 3 then n else n + 1)
          else send s
      | none => send s
    if twice then (s.rmReport 1).reshardGo else s

/-- Every package of the layout has reported a step. -/
def allReported (s : State) (n : Nat) : Bool :=
  !s.rm.layout.isEmpty && s.rm.layout.all fun p => s.rm.reports.any fun x => x.1 = n && x.2.1 = p

/-- Decides a step once every package of the layout has reported (14 R421): by when the reports arrived, not by when it can decide. -/
def tryDecide (s : State) (n : Nat) : State :=
  let rs := s.rm.reports.filter fun x => x.1 = n
  if !s.allReported n then s
  else
    let first := ((s.rm.firsts.find? fun x => x.1 = n).map (·.2)).getD s.beat
    let late := rs.any fun x => decide (first + s.rm.stepTmo * ms < x.2.2.2)
    s.decideStep n (if late then 3 else if rs.any fun x => x.2.2.1 % 4 ≠ 0 then 2 else 1)

/-- STEP_REPORT at the Ringmaster (14 R421): from a package that the layout assigns. -/
def stepReport (s : State) (src n bits : Nat) : State :=
  if !s.rm.layout.contains src then s
  else
    let first := !s.rm.firsts.any fun x => x.1 = n
    let s := s.modRm fun r => { r with
      reports := (r.reports.filter fun x => !(x.1 = n && x.2.1 = src)) ++ [(n, src, bits, s.beat)]
      firsts := if first then r.firsts ++ [(n, s.beat)] else r.firsts, step := max r.step n }
    (if first then s.fenceMove n else s).tryDecide n

/-- STEP_TMO runs out with a report missing (14 R421): every step whose first report is that old. -/
def stepTimeout (s : State) : State :=
  if !s.rmActs then s
  else (s.rm.firsts.filter fun x => decide (x.2 + s.rm.stepTmo * ms ≤ s.beat)).foldl (fun s x =>
    if s.allReported x.1 then s.tryDecide x.1 else s.decideStep x.1 3) s

/-- The last TICK_CHANGE, STEP_DECIDE and epoch message again, from a standby that has taken over, once it acts (14 R414, R415). -/
def resendLast (s : State) : State :=
  if !s.rm.resend || !s.rmActs then s
  else
    let s := s.modRm fun r => { r with resend := false }
    let s := match s.rm.tickSent with
      | some a => s.rmAll 2 s.node a
      | none => s
    let s := match s.rm.lastDecide with
      | some a => s.rmLayout s.rm.layout 6 a
      | none => s
    match s.rm.epochMsg with
    | some e => s.rmLayout (match s.rm.reshard with | some r => s.reshardNodes r | none => s.rm.layout) e.1 e.2
    | none => s

/-- Quorum lost or held (14 R415); with it comes what waited: messages due again, WORK, steps whose reports are all in, a re-shard. -/
def quorumCheck (s : State) : State :=
  if !s.rm.master then s
  else
    let q := s.quorum
    let was := s.rm.suspended
    let s := s.modRm fun r => { r with suspended := !q }
    if was && q then
      let s := s.tableNodes.foldl considerWork s.resendLast
      ((s.rm.firsts.map (·.1)).foldl tryDecide s).reshardGo
    else s

/-- PREPARED (14 R424). -/
def gotPrepared (s : State) (src epoch : Nat) : State :=
  match s.rm.reshard with
  | none => s
  | some r =>
    if r.closed || r.epoch ≠ epoch then s
    else (s.modRm fun x => { x with
      reshard := some { r with prepared := if r.prepared.contains src then r.prepared else r.prepared ++ [src] } }).reshardGo

/-- LOADED (14 R424). -/
def gotLoaded (s : State) (src epoch : Nat) : State :=
  match s.rm.reshard with
  | none => s
  | some r =>
    if !r.closed || r.epoch ≠ epoch then s
    else (s.modRm fun x => { x with
      reshard := some { r with loaded := if r.loaded.contains src then r.loaded else r.loaded ++ [src] } }).reshardGo

/-- A tick change is pending (14 R422). -/
def tickPending (s : State) : Bool :=
  s.on TIME_PEND_TICK fTIME_PEND_TICK_VALID || s.rm.tickSent.any fun a => decide (s.beat < a.getD 2 0)

/-- A TICK_CHANGE to a length (08 R237, 14 R422): T_eff is eight ticks on, B_eff its start under the segment in force. -/
def changeTick (s : State) (len : Nat) : State :=
  let now := s.rd TIME_TICK fTIME_TICK_TICK
  let teff := now + 8
  let last := match s.rm.tickSent with
    | some a => a.getD 0 0
    | none => s.rd TIME_SEG_LEN fTIME_SEG_LEN_SEQ
  let args := [(last + 1) % 256, teff, s.startAt teff, len]
  (s.modRm fun r => { r with tickSent := some args, slips := [], slipFrom := now }).rmAll 2 s.node args

/-- SLIP at the Ringmaster (14 R422): ticks with a slip among the last 64. -/
def slipReport (s : State) (tick : Nat) : State :=
  let now := s.rd TIME_TICK fTIME_TICK_TICK
  let l := (tick :: s.rm.slips.filter fun t => t ≠ tick).filter fun t => decide (now < t + 64)
  let s := s.modRm fun r => { r with slips := l, slipFrom := max r.slipFrom now }
  let len := s.rd TIME_SEG_LEN fTIME_SEG_LEN_LEN
  if s.rm.slipUp ≤ l.length && s.rmActs && s.sched.planned ≠ 0 && !s.tickPending then
    s.changeTick (min 262143 ((11 * len + 999) / 1000 * 100))
  else s

/-- TICK_SHRINK (14 R422): 4,096 ticks without a slip. -/
def tickShrink (s : State) : State :=
  let now := s.rd TIME_TICK fTIME_TICK_TICK
  if s.rmActs && s.sched.planned ≠ 0 && !s.tickPending && decide (s.rm.slipFrom + 4096 ≤ now) then
    s.changeTick (max s.sched.planned (95 * s.rd TIME_SEG_LEN fTIME_SEG_LEN_LEN / 10000 * 100))
  else s

/-- The dies whose norm a group waits for: those that the own image names for it, else both. -/
def normDies (s : State) (group : Nat) : List Nat :=
  let l := (s.sched.norms.filter fun b => b.group = group).map (·.die)
  if l.isEmpty then [0, 1] else l

/-- NORM (14 R412): the four values of a die; the totals leave when every die's are in. -/
def gotNorm (s : State) (src group die : Nat) (vs : List Nat) : State :=
  let s := s.modRm fun r => { r with
    norms := (r.norms.filter fun x => !(x.1 = group && x.2.1 = src && x.2.2.1 = die)) ++ [(group, src, die, vs)] }
  let keys := s.rm.layout.mergeSort.flatMap fun n => (s.normDies group).mergeSort.map fun d => (n, d)
  let find := fun (k : Nat × Nat) => s.rm.norms.find? fun x => x.1 = group && x.2.1 = k.1 && x.2.2.1 = k.2
  if keys.isEmpty || keys.any fun k => (find k).isNone then s
  else
    let sum := fun j => keys.foldl (fun a k => f64add a (((find k).map fun x => x.2.2.2.getD j 0).getD 0)) 0
    let s := s.modRm fun r => { r with norms := r.norms.filter fun x => x.1 ≠ group }
    s.rmLayout s.rm.layout 7 [group, sum 0, sum 1, sum 2, sum 3]

/-- LATE_CONTRIB (14 R426): STEP_SUSPECT when the step was decided APPLY. -/
def lateContrib (s : State) (step : Nat) : State :=
  match s.rm.decisions.find? fun x => x.1 = step with
  | some x => if x.2 = 1 then s.rmReport 4 else s
  | none => s

/-- SYNC_ACK (14 R414, R415): the base is the set enrolled at the sync acknowledged. -/
def syncAcked (s : State) (src n : Nat) : State :=
  if s.rm.standby ≠ some src then s
  else match s.rm.unacked.find? fun x => x.1 = n with
    | some x => s.modRm fun r => { r with base := some x.2, unacked := r.unacked.filter fun y => decide (n < y.1) }
    | none => s

/-- The last 256 reports of each kind are kept (14 R420). -/
def logHealth (s : State) (kind src : Nat) (args : List Nat) : State :=
  s.modRm fun r =>
    let same := r.log.filter fun x => x.1 = kind
    let drop := if 256 ≤ same.length then same.head? else none
    { r with log := (match drop with | some d => r.log.erase d | none => r.log) ++ [(kind, src, args)] }

/-- A HEALTH message at the Ringmaster (14 R420). -/
def gotHealth (s : State) (m : CtrlMsg) : State :=
  if !s.rm.master then s
  else
    let kind := msgCode m.words
    let a := msgArg m.words
    let s := s.logHealth kind m.src (m.words.drop 2)
    match kind with
    | 1 => s.stepReport m.src (a 0) (a 1)
    | 2 => s.slipReport (a 0)
    | 4 => s.lateContrib (a 0)
    | 6 => s.linkLost m.src (a 0)
    | 8 => s.gotNorm m.src (a 0) (a 1) (m.words.drop 4)
    | 9 => s.gotPrepared m.src (a 0)
    | 10 => s.gotLoaded m.src (a 0)
    | 11 => s.syncAcked m.src (a 0)
    | _ => s

/-- A claimer that has heard no better claim for 100 ms becomes Ringmaster (14 R413); its beat decides when it serves as origin (08 R231). -/
def claimSuccess (s : State) : State :=
  if s.rm.claim.isSome && s.longAgo s.rm.claim (100 * ms) && s.rm.best = some (s.rm.term, s.node) then
    let s := (s.setEnrol 2).follow (s.rm.term, s.node)
    let s := (s.wr FAB_ENROL fFAB_ENROL_SB_VALID 0).wr FAB_ENROL fFAB_ENROL_DEPTH 0
    let s := s.modRm fun r => { r with
      master := true, suspended := false, claim := none, table := [s.selfMember], standby := none, base := none, unacked := [], events := 0, rmTerm := r.term }
    if s.on TIME_STATUS fTIME_STATUS_ACQ then s.becomeOrigin
    else (s.setReg TIME_PARENT 0).modTime fun t => { t with originWait := true, treqOut := [] }
  else s

/-- The standby becomes Ringmaster from its mirrored state (14 R414): a claim one term higher, the origin role, the tree from here, and the last
TICK_CHANGE, STEP_DECIDE and epoch message again. It has heard from no package yet, and its base is the set enrolled now (R415); heartbeats count as
missed from now on (13 R395; DESIGN CHOICE, log entry 72). -/
def takeOver (s : State) : State :=
  let t := s.rm.term + 1
  let s := s.modRm fun r => { r with
    term := t, rmTerm := t, best := some (t, s.node), master := true, suspended := false, claim := none, standby := none, handover := false, synced := none
    unacked := [], base := none, resend := true
    table := r.table.map fun m => { m with heard := s.beat, direct := none, links := if m.node = s.node then s.ownLinks else m.links } }
  let s := (s.linkAll 0x3D [s.node, t]).follow (t, s.node)
  let s := (s.wr FAB_ENROL fFAB_ENROL_SB_VALID 0).wr FAB_ENROL fFAB_ENROL_DEPTH 0
  let s := s.becomeOrigin.retree s.rm.table
  (s.modRm fun r => { r with suspended := !s.quorum }).resendLast

/-- RM_SYNC at the standby (14 R414): the state is mirrored and acknowledged; a handover takes effect at once (R429). -/
def gotSync (s : State) (m : CtrlMsg) : State :=
  match m.st with
  | none => s
  | some x =>
    if s.rm.master || s.enrolled ≠ 3 || decide (x.term < s.rm.term) then s
    else
      let o := s.rm
      let s := (s.wr FAB_ENROL fFAB_ENROL_SB s.node).wr FAB_ENROL fFAB_ENROL_SB_VALID 1
      let s := s.modRm fun _ => { x with
        best := o.best, master := false, suspended := false, claim := none, heardRm := some s.beat, heardClaim := o.heardClaim, hbAck := o.hbAck,
        synced := some s.beat, rearm := o.rearm, applied := o.applied, openAt := o.openAt, events := 0, rmTerm := x.term }
      let s := s.health 11 [x.syncNo]
      if x.handover then s.takeOver else s

/-- 30 ms without RM_SYNC at a standby with a port UP (14 R414). -/
def standbyTakeover (s : State) : State :=
  if s.firmware && !s.rm.master && s.enrolled = 3 && s.rm.synced.isSome && s.longAgo s.rm.synced (30 * ms) && s.anyPortUp
      && s.on FAB_ENROL fFAB_ENROL_SB_VALID && s.rd FAB_ENROL fFAB_ENROL_SB = s.node then s.takeOver else s

end State
end Sys2Proof.Machine
end

