-- ==== Sys2Proof/Machine/Epoch.lean ====
section
/-!
DEFINITION. Machine/Epoch.lean: step decisions, norm totals, the change of layout epoch at each package (14 R412, R421, R424-R426), the
commands of the fabric and the Ringmaster (13 R401, 14 R429).
-/

namespace Sys2Proof.Machine

namespace State

/-- A decision or epoch message is applied once: a later Ringmaster that sends it again changes nothing (14 R414). -/
def applyOnce (s : State) (ws : List Nat) (f : State → State) : State :=
  let code := msgCode ws
  let args := ws.drop 2
  let t := msgTerm ws
  let again := match s.rm.applied.find? fun x => x.1 = code with
    | some x => x.2.1 = args && decide (x.2.2 < t)
    | none => false
  let s := s.modRm fun r => { r with applied := (code, args, t) :: r.applied.filter fun x => x.1 ≠ code }
  if again then s else f s

/-- A step's decision on the dies that hold it; RECOMPUTE also ends walks and stops streams (14 R421). -/
def resolveStep (s : State) (n dec : Nat) : State :=
  let s := [0, 1].foldl (fun s d =>
    if s.on (UD_STATUS d) fUD_STATUS_HOLDING && s.udStep d = n then s.commitStep d (dec = 1) else s) s
  if dec = 3 then
    (([0, 1].foldl (fun s d =>
      if s.on (UD_STATUS d) fUD_STATUS_WALKING then (s.modUd d fun u => { u with stop := true }).endStopped d
      else s.modUd d fun u => { u with auto := false }) s).dropClosed n).stopAll
  else s

/-- STEP_DECIDE (14 R421): step, decision. -/
def gotDecision (s : State) (m : CtrlMsg) : State :=
  s.applyOnce m.words fun s => s.resolveStep (msgArg m.words 0) (msgArg m.words 1)

/-- NORM_TOTAL (14 R412): the totals are written to the NORM_IN blocks of the group, and each gate turnstile is incremented under the
layout epoch's stamp. -/
def gotNormTotal (s : State) (m : CtrlMsg) : State :=
  let l := s.sched.norms.filter fun b => b.group = msgArg m.words 0
  l.foldl (fun s b =>
    let r := s.hallWrite b.inAddr (wordBytes [msgArg m.words 1, msgArg m.words 2, msgArg m.words 3, msgArg m.words 4]) ⟨0, 0, true⟩
    r.s.applyInc ⟨b.gate % 16384, 1, s.rm.epoch % 256, s.node⟩) s

/-- EPOCH_PREPARE (14 R424): new epoch, fence step, image-set table. The images that the table gives this package are an operand; they
are staged, and PREPARED is sent. -/
def gotPrepare (s : State) (m : CtrlMsg) : State :=
  match m.image with
  | none => s
  | some i => (s.modPkg fun p => { p with staged := some (msgArg m.words 0, i) }).health 9 [msgArg m.words 0]

/-- The lowest-numbered enabled core, whose stream U runs the re-arm program (14 R426). -/
def rearmCore (s : State) : Option Nat := (List.range 288).find? s.coreOn

/-- The re-arm program (14 R426, 09 R249): TEPOCH to the new turnstile epoch, sixteen TRESETs of 1,024 turnstiles with TGT 0, HALT. -/
def rearmWords (e : Nat) : List Nat :=
  [0x23 * 2 ^ 56 + e % 256] ++ (List.range 16).map (fun k => 0x22 * 2 ^ 56 + 1024 * k * 2 ^ 42 + 1024 * 2 ^ 31) ++ [2 ^ 56]

/-- Where firmware places that program: the last 192 bytes of core memory (DESIGN CHOICE, log entry 73). -/
def rearmAt : Nat := coreMemSize - 192

/-- The re-arm program is placed and started (14 R426). -/
def startRearm (s : State) (b e : Nat) : State :=
  let bytes := wordBytes (rearmWords e)
  let s := s.modCore b fun c => bytes.zipIdx.foldl (fun c x => c.locPut (rearmAt + x.2) x.1) c
  ((s.setReg (SQS_PBASE b 2) (BitVec.ofNat 64 rearmAt)).setReg (SQS_PLIMIT b 2) (BitVec.ofNat 64 (rearmAt + bytes.length))).startStream b 3 rearmAt

/-- A record's move begins when its command may (14 R428, 10 R309): UD_CKPT at the old owner, UD_RESTORE FULL at the new one. -/
def migrStart (s : State) (k : Nat) (m : Migration) : State :=
  let a := [m.die, m.ulx, m.tensor, 0]
  let r := if m.give then s.udCkpt (migrSeq k) a else s.udRestore (migrSeq k) a
  match r.2 with
  | .waits => r.1.modPkg fun p => { p with migr := p.migr.set k (m, 1) }
  | _ => r.1

/-- The records that this package gives, or takes, begin to move, and whether all have. -/
def migrate (s : State) (give : Bool) : State × Bool :=
  let l := s.pkg.migr.zipIdx.filter fun x => x.1.1.give == give
  (l.foldl (fun s x => if x.1.2 = 0 then s.migrStart x.2 x.1.1 else s) s, l.all fun x => x.1.2 = 2)

/-- How far the closing epoch is. -/
def rearmPhase (s : State) (e : Nat) (p : Option Nat) : State := s.modRm fun r => { r with rearm := p.map fun n => (e, n) }

/-- The last phase: the records that this package takes, then LOADED (14 R424, R428). -/
def settleTakes (s : State) (e : Nat) : State :=
  let r := s.migrate false
  if r.2 then ((r.1.rearmPhase e none).placeEpoch e).health 10 [e] else r.1

/-- The records that this package gives, then the staged images (14 R424, R428). The records that it takes are those of the new images, so that they move
after the load (DEDUCED, log entry 74). -/
def settleGives (s : State) (e : Nat) : State :=
  let r := s.migrate true
  if !r.2 then r.1
  else match r.1.pkg.staged with
    | none => r.1.rearmPhase e none
    | some x =>
      if x.1 ≠ e then r.1.rearmPhase e none
      else match (r.1.modPkg fun p => { p with staged := none }).loadImage x.2 with
        | (s, none) => (s.rearmPhase e (some 3)).settleTakes e
        | (s, some _) => s.rearmPhase e none

/-- The closing epoch goes on as far as it can (14 R424, R426, R428): once the dies have resolved the decision every stream stops; once none runs the
re-arm program does; once it has halted, records move and the staged images load. -/
def settleEpoch (s : State) : State :=
  match s.rm.rearm with
  | none => s
  | some (e, 0) =>
    if [0, 1].any fun d => s.on (UD_STATUS d) fUD_STATUS_WALKING || s.on (UD_STATUS d) fUD_STATUS_HOLDING then s
    else
      let s := s.stopAll
      if s.anyRun then s
      else
        let s := s.modPkg fun p => { p with migr := match p.staged with
          | some x => x.2.migrations.map fun m => (m, 0)
          | none => [] }
        match s.rearmCore with
        | some b => (s.startRearm b e).rearmPhase e (some 1)
        | none => (s.rearmPhase e (some 2)).settleGives e
  | some (e, 1) =>
    match s.rearmCore with
    | some b =>
      if s.stState b 3 = stRun then s
      else if s.stState b 3 = stHalted then (s.rearmPhase e (some 2)).settleGives e
      else s.startRearm b e
    | none => (s.rearmPhase e (some 2)).settleGives e
  | some (e, 2) => s.settleGives e
  | some (e, _) => s.settleTakes e

/-- EPOCH_CLOSE (14 R424, R426): closing epoch, step, decision. -/
def gotClose (s : State) (m : CtrlMsg) : State :=
  s.applyOnce m.words fun s =>
    let s := s.resolveStep (msgArg m.words 1) (msgArg m.words 2)
    let e := match s.pkg.staged with
      | some x => x.1
      | none => (msgArg m.words 0 + 1) % 2 ^ 32
    (s.rearmPhase e (some 0)).settleEpoch

/-- The loaded streams of a zone start at PBASE (14 R424; log entry 50). -/
def startZone (s : State) (z : Nat) : State :=
  (List.range 24).foldl (fun s k =>
    let c := 24 * z + k
    [1, 2, 3].foldl (fun s i =>
      let b := s.rd (SQS_PBASE c (i - 1)) fSQS_PBASE_PBASE
      if s.on (SQ_CTRL c) fSQ_CTRL_EN && decide (b < s.rd (SQS_PLIMIT c (i - 1)) fSQS_PLIMIT_PLIMIT) then s.startStream c i b else s) s) s

/-- The start tick has come for the zones that have seen its boundary (14 R424). -/
def openZones (s : State) : State :=
  match s.rm.openAt with
  | none => s
  | some x =>
    let due := x.2.filter fun z => decide (x.1 < sget 0 z s.time.zseen)
    let left := x.2.filter fun z => !due.contains z
    due.foldl startZone (s.modRm fun r => { r with openAt := if left.isEmpty then none else some (x.1, left) })

/-- EPOCH_OPEN (14 R424): epoch, first step, start tick. -/
def gotOpen (s : State) (m : CtrlMsg) : State :=
  s.applyOnce m.words fun s =>
    (s.modRm fun r => { r with epoch := msgArg m.words 0, openAt := some (msgArg m.words 2, List.range 12) }).openZones

/-- The step that late contributions of a closed epoch concern: the last step it closed with, else the last one decided. -/
def lastStep (s : State) : Nat :=
  match s.rm.applied.find? fun x => x.1 = 4, s.rm.applied.find? fun x => x.1 = 6 with
  | some x, _ => x.2.1.getD 1 0
  | none, some x => x.2.1.getD 0 0
  | none, none => 0

/-- Firmware reads TS_STALE and TS_STALE_LAST while they are not zero, and sends one report for each rejection it reads, with what TS_STALE_LAST says of
the last (14 R426); it also looks again at an epoch that closes. -/
def staleRead (s : State) : State :=
  if !s.firmware then s
  else
    let s := s.settleEpoch
    let n := s.rd TS_STALE fTS_STALE_COUNT
    if n = 0 then s
    else
      let a := TS_STALE_LAST
      let args := [s.lastStep, s.rd a fTS_STALE_LAST_NODE, s.rd a fTS_STALE_LAST_TS, s.rd a fTS_STALE_LAST_STAMP]
      (List.range n).foldl (fun s _ => s.health 4 args) ((s.setReg TS_STALE 0).setReg TS_STALE_LAST 0)

end State

/-- A stream that SQ_STOP named stops (09 R256); an epoch that closes may go on (14 R426). -/
def execStreamStopped (core stream : Nat) (s : State) : Res := .next (s.streamStopped core stream).settleEpoch

/-- A HALT takes effect once every earlier instruction of the stream has completed (09 R249); an epoch that closes may go on (14 R426). -/
def execStreamEntersHalted (core stream : Nat) (s : State) : Res := .next (s.entersHalted core stream).settleEpoch

/-- CKPT_DONE (10 R309); an epoch that closes may go on (14 R428). -/
def execCkptDone (die : Nat) (s : State) : Res := .next (s.ckptDone die).settleEpoch

/-- An entry completes (10 R286); an epoch that closes may go on. -/
def execEntryComplete (die idx : Nat) (s : State) : Res := .next (s.entryComplete die idx).settleEpoch

/-- A walk completes (10 R286, R303); an epoch that closes may go on. -/
def execWalkComplete (die : Nat) (s : State) : Res := .next (s.walkComplete die).settleEpoch

/-- A zone sees a tick boundary (08 R232); streams of an epoch that opens at that tick start (14 R424). -/
def execTickBoundary (zone : Nat) (s : State) : Res := .next (s.tickBoundary zone).openZones

/-- STALE_READ (14 R426). -/
def execStaleRead (s : State) : Res := .next s.staleRead

/-- Statuses of 13 R401 and 14 R429 (16 R490); those without a number of the table are Config's (log entry 30). -/
def stFabState : Nat := 0x0D01
def stRmBusy : Nat := 0x0E01
def stRmFenceEarly : Nat := 0x0E02
def stRmLayoutEmpty : Nat := 0x0E03
def stRmNoStandby : Nat := 0x0E06
def csRmNoQuorum : Nat := Config.statusCode 16
def csNotWorking : Nat := Config.statusCode 18

namespace State

def regWords (s : State) (l : List Nat) : List Nat := l.map fun a => (s.reg a).toNat

/-- FAB_QUERY (13 R401): FAB_STATUS, FAB_ENROL, the port blocks of the ports present. -/
def fabQuery (_ : List Nat) (s : State) : State × Ans :=
  s.answered (s.regWords ([FAB_STATUS, FAB_ENROL] ++ ((List.range 16).filter s.portHere).flatMap fun p =>
    let d := p / 4
    let q := p % 4
    [FP_CTRL d q, FP_STATUS d q, FP_LANEMAP d q, FP_RETRY d q, FP_FEC_CORR d q, FP_FEC_UNC d q, FP_TX_FLITS d q, FP_RX_FLITS d q,
      FP_DOWNS d q, FP_SKEW d q]))

/-- FAB_PORT_SET (13 R401, R399). -/
def fabPortSet (a : List Nat) (s : State) : State × Ans :=
  let on := a.getD 1 0 % 2
  (((List.range 16).filter fun p => s.portHere p && a.getD 0 0 / 2 ^ p % 2 = 1).foldl (fun s p =>
    let s := s.wr (fpCtrl p) fFP_CTRL_EN on
    if on = 0 then s.portFail p else s) s, .done 0 [])

def fabJoin (_ : List Nat) (s : State) : State × Ans :=
  if s.enrolled = 0 then (s.setEnrol 1, .done 0 []) else s.refuse stFabState

def fabLeave (_ : List Nat) (s : State) : State × Ans :=
  if s.enrolled = 2 || s.enrolled = 3 then ((s.toRm 0x37 [0]).setEnrol 4, .done 0 []) else s.refuse stFabState

/-- What the Ringmaster has answered a forwarded command: outcome, status, response (16 R492). -/
def rmReply (r : Nat × Nat × List Nat) : Ans :=
  if r.1 = ocDone then .done 0 r.2.2 else if r.1 = ocRefused then .refused r.2.1 else .failed r.2.1 0 r.2.2

/-- A Ringmaster command (14 R429): executed by the Ringmaster, refused while it is suspended, forwarded by any other Working package, where it waits until
the Ringmaster's answer, an operand, completes it (log entry 51). -/
def rmCommand (code : Nat) (seq : Nat) (reply : Option (Nat × Nat × List Nat)) (f : List Nat → State → State × Ans) (a : List Nat) (s : State) :
    State × Ans :=
  let home := fun (s : State) => s.modPkg fun p => { p with fwd := p.fwd.filter (· ≠ seq) }
  if s.rm.master then
    if s.rm.suspended then (home s).refuse csRmNoQuorum
    else
      let r := f a (home s)
      (s.rmSettle r.1, r.2)
  else if s.pkg.fwd.contains seq then
    match reply with
    | some r => (home s, rmReply r)
    | none => (s, .waits)
  else if s.enrolled = 3 && s.on FAB_ENROL fFAB_ENROL_RM_VALID then
    ((s.emit (.forward (s.rd FAB_ENROL fFAB_ENROL_RM) code a)).modPkg fun p => { p with fwd := p.fwd ++ [seq] }, .waits)
  else s.refuse csNotWorking

/-- RM_QUERY (14 R429); reading the events clears them (log entry 52). -/
def rmQuery (_ : List Nat) (s : State) : State × Ans :=
  let r := s.rm
  let shard := match r.reshard with
    | some x => [x.epoch, x.fence, x.moves, if x.closed then 1 else 0]
    | none => [0, 0, 0, 0]
  let dec := (List.range 16).map fun k => match r.decisions[k]? with
    | some d => d.1 * 4 + d.2
    | none => 0
  let log := r.log.flatMap fun x => [x.1 * 2 ^ 56 + x.2.1 * 2 ^ 44 + x.2.2.length] ++ x.2.2
  let head := [r.term, s.node, (r.standby.map (· + 1)).getD 0, r.epoch, r.events]
  (s.modRm fun r => { r with events := 0 }, .done 0 (head ++ shard ++ dec ++ s.regWords [TIME_SEG_TICK, TIME_SEG_BEAT, TIME_SEG_LEN] ++ log))

/-- RM_RESHARD (14 R424): new epoch, fence step, image-set table; the packages that the table assigns are an operand. -/
def rmReshard (layout : List Nat) (a : List Nat) (s : State) : State × Ans :=
  let f := a.getD 1 0
  if s.rm.reshard.isSome then s.refuse stRmBusy
  else if s.rm.epoch ≠ 0 && f < s.rm.step + 2 then s.refuse stRmFenceEarly
  else if layout.isEmpty then s.refuse stRmLayoutEmpty
  else
    let args := [a.getD 0 0, f, a.getD 2 0]
    let r : Reshard := ⟨a.getD 0 0, f, a.getD 2 0, layout.eraseDups, [], [], 0, false, f⟩
    ((s.modRm fun x => { x with reshard := some r, epochMsg := some (3, args) }).rmLayout (s.reshardNodes r) 3 args, .done 0 [])

/-- RM_TICK (14 R429, R422, 08 R233, R237): it waits while a change is pending, and until the package serves as origin (08 R231). -/
def rmTick (a : List Nat) (s : State) : State × Ans :=
  let len := a.getD 0 0
  match tickStatus len s.sched.planned with
  | 1 => s.refuse csTickZero
  | 2 => s.refuse stTickRange
  | 3 => s.refuse stTickShort
  | _ =>
    if s.sched.planned = 0 then (s, .done 0 [])
    else if s.tickPending || s.time.originWait then (s, .waits)
    else (s.changeTick len, .done 0 [])

/-- RM_POLICY (14 R429): 0 stores 1. -/
def rmPolicy (a : List Nat) (s : State) : State × Ans :=
  (s.modRm fun r => { r with slipUp := max 1 (a.getD 0 0), stepTmo := max 1 (a.getD 1 0) }, .done 0 [])

/-- RM_HANDOVER (14 R429): the standby is told in its next RM_SYNC. -/
def rmHandover (_ : List Nat) (s : State) : State × Ans :=
  if s.rm.standby.isNone then s.refuse stRmNoStandby
  else (((s.modRm fun r => { r with handover := true }).sync).modRm fun r => { r with handover := false }, .done 0 [])

end State

/-- FAB_QUERY (13 R401). -/
def execFabQuery (via : Via) (s : State) : Res := .next (s.command 0x0D00 via State.fabQuery)

/-- FAB_PORT_SET (13 R401). -/
def execFabPortSet (via : Via) (s : State) : Res := .next (s.command 0x0D01 via State.fabPortSet)

/-- FAB_JOIN (13 R401). -/
def execFabJoin (via : Via) (s : State) : Res := .next (s.command 0x0D02 via State.fabJoin)

/-- FAB_LEAVE (13 R401). -/
def execFabLeave (via : Via) (s : State) : Res := .next (s.command 0x0D03 via State.fabLeave)

/-- RM_QUERY (14 R429). -/
def execRmQuery (v : RmVia) (s : State) : Res :=
  .next (s.command 0x0E00 v.via (State.rmCommand 0x0E00 (s.viaSeq v.via) v.reply State.rmQuery))

/-- RM_RESHARD (14 R424, R429). -/
def execRmReshard (v : RmVia) (layout : List Nat) (s : State) : Res :=
  .next (s.command 0x0E01 v.via (State.rmCommand 0x0E01 (s.viaSeq v.via) v.reply (State.rmReshard layout)))

/-- RM_TICK (14 R429). -/
def execRmTick (v : RmVia) (s : State) : Res :=
  .next (s.command 0x0E02 v.via (State.rmCommand 0x0E02 (s.viaSeq v.via) v.reply State.rmTick))

/-- RM_POLICY (14 R429). -/
def execRmPolicy (v : RmVia) (s : State) : Res :=
  .next (s.command 0x0E03 v.via (State.rmCommand 0x0E03 (s.viaSeq v.via) v.reply State.rmPolicy))

/-- RM_HANDOVER (14 R429). -/
def execRmHandover (v : RmVia) (s : State) : Res :=
  .next (s.command 0x0E04 v.via (State.rmCommand 0x0E04 (s.viaSeq v.via) v.reply State.rmHandover))

end Sys2Proof.Machine
end

