-- ==== Sys2Proof/Machine/CtrlRows.lean ====
section
/-!
DEFINITION. Machine/CtrlRows.lean: how a control message is received and put in order (13 R384, R385, R393), one row for each message of 14
R418-R420, and the timers of 13 and 14.
-/

namespace Sys2Proof.Machine

namespace State

/-- A control message applied (14 R418-R420). -/
def applyCtrl (s : State) (m : CtrlMsg) : State :=
  let s := s.hearsFrom m.src
  match m.typ with
  | 0x31 => s.gotEnrolReq m
  | 0x32 => s.gotGrant m
  | 0x33 => s.gotDeny m
  | 0x34 => s.gotReady m
  | 0x35 => s.gotUnready m
  | 0x36 => s.gotWork m
  | 0x37 => s.gotLeaveMsg m
  | 0x38 => s.gotLeaveAckMsg m
  | 0x39 => s.gotHeartbeat m
  | 0x3A => s.gotRouteSet m
  | 0x3B =>
    if msgTerm m.words < s.rm.term then s.bump FAB_DROP fFAB_DROP_NOROUTE 1
    else if s.enrolled < 2 then s
    else
      let t := msgTerm m.words
      let s := (s.hears m.src).modRm fun r => { r with term := max r.term t, rmTerm := if r.master then r.rmTerm else t }
      match msgCode m.words with
      | 1 => s.gotHbAck
      | 2 => s.gotTickChange m
      | 3 => s.gotPrepare m
      | 4 => s.gotClose m
      | 5 => s.gotOpen m
      | 6 => s.gotDecision m
      | 7 => s.gotNormTotal m
      | 8 => s.gotNodeGen m
      | 9 => s.gotRemoved m
      | _ => s
  | 0x3C => s.gotHealth m
  | 0x3D => s.gotClaim m
  | 0x3E => s.gotSync m
  | _ => s

/-- Messages held back of a source that are next in order are applied (13 R384). -/
def drainHeld (s : State) (src : Nat) : Nat → State
  | 0 => s
  | n + 1 =>
    let k := sget 0 src s.fab.next
    match s.fab.held.find? fun m => m.src = src && m.cseq + 1 = k with
    | none => s
    | some m =>
      let s := s.modFab fun f => { f with held := f.held.erase m, next := sput 0 src ((m.cseq + 1) % 2 ^ 16 + 1) f.next }
      (s.applyCtrl m).drainHeld src n

/-- A message in order is applied, an early one held, one already applied discarded (13 R384). The expected number is stored plus one; of a
source not heard from yet any number is in order. ENROL_REQ and RM_CLAIM are flooded or relayed and carry no order (log entry 53). -/
def inOrder (s : State) (m : CtrlMsg) : State :=
  if m.typ = 0x31 || m.typ = 0x3D then s.applyCtrl m
  else
    let k := sget 0 m.src s.fab.next
    let ahead := (m.cseq + 2 ^ 16 + 1 - k) % 2 ^ 16
    if k = 0 || ahead = 0 then
      let s := s.modFab fun f => { f with next := sput 0 m.src ((m.cseq + 1) % 2 ^ 16 + 1) f.next }
      (s.applyCtrl m).drainHeld m.src s.fab.held.length
    else if ahead < 2 ^ 15 && !(s.fab.held.any fun x => x.src = m.src && x.cseq = m.cseq) then s.modFab fun f => { f with held := f.held ++ [m] }
    else s

/-- 13 R385: FAB_CTRL is granted to the class of the port, or the message is the package's own. -/
def ctrlMay (s : State) (m : CtrlMsg) : Bool :=
  m.src = s.node || s.holds (if m.trust && s.on (fpStatus m.port) fFP_STATUS_TRUSTED then 2 else 3) 21

/-- The packet of a control message in the receive buffer of its port (13 R375). -/
def ctrlRx (s : State) (m : CtrlMsg) : Option Packet :=
  (s.port m.port).rx.find? fun p => p.typ = m.typ && p.src = m.src && p.cseq = m.cseq

/-- The packet of a control message carries another generation of this package than its own (13 R387, 16 R499; log entry 53). -/
def ctrlOld (s : State) (m : CtrlMsg) : Bool := (s.ctrlRx m).any fun p => p.egen ≠ s.gen

/-- A control message reaches this package (13 R384, R385, R387, R393, R395, 16 R484); one of an old generation is
discarded and counted (16 R499). -/
def intake (s : State) (m : CtrlMsg) : State :=
  let here := m.src = s.node || s.portState m.port = psUp || s.portState m.port = psRecover
  if !here then s
  else
    let old := s.ctrlOld m
    let s := match s.ctrlRx m with
      | some p => s.takeRx m.port p
      | none => s
    if old then (s.bump FAB_GEN_DISC fFAB_GEN_DISC_COUNT 1).raise PKG_EVENTS fPKG_EVENTS_GEN_DISC
    else if !s.firmware || s.enrolled = 0 then s
    else if !s.ctrlMay m then s.bump FAB_PERM fFAB_PERM_COUNT 1
    else s.rmSettle (s.inOrder m)

/-- A message of a type, and of a code where the type has codes. -/
def ctrlRow (s : State) (typ : Nat) (code : Option Nat) (port src cseq : Nat) (trust : Bool) (words : List Nat) (st : Option RmSt := none)
    (image : Option SchedImage := none) : State :=
  if code.all fun c => msgCode words = c then s.intake ⟨port % 16, src % 4096, cseq % 2 ^ 16, trust, typ, words, st, image⟩ else s

/-- Messages held for 1 ms are applied in order, the gap passed over (13 R384). -/
def holdExpiry (s : State) (src : Nat) : State :=
  let l := s.fab.held.filter fun m => m.src = src
  match l with
  | [] => s
  | m :: t =>
    let k := sget 0 src s.fab.next
    let dist := fun (x : CtrlMsg) => (x.cseq + 2 ^ 16 + 1 - k) % 2 ^ 16
    let first := t.foldl (fun a x => if dist x < dist a then x else a) m
    let s0 := s
    let s := s.modFab fun f => { f with next := sput 0 src (first.cseq + 1) f.next }
    s0.rmSettle (s.drainHeld src l.length)

end State

/-- ENROL_REQ (13 R394). -/
def execEnrolReq (port src cseq : Nat) (trust : Bool) (words : List Nat) (s : State) : Res :=
  .next (s.ctrlRow 0x31 none port src cseq trust words)

/-- ENROL_GRANT (13 R394). -/
def execEnrolGrant (port src cseq : Nat) (trust : Bool) (words : List Nat) (s : State) : Res :=
  .next (s.ctrlRow 0x32 none port src cseq trust words)

/-- ENROL_DENY (13 R394). -/
def execEnrolDeny (port src cseq : Nat) (trust : Bool) (words : List Nat) (s : State) : Res :=
  .next (s.ctrlRow 0x33 none port src cseq trust words)

/-- READY (13 R393). -/
def execReady (port src cseq : Nat) (trust : Bool) (words : List Nat) (s : State) : Res :=
  .next (s.ctrlRow 0x34 none port src cseq trust words)

/-- UNREADY (13 R393). -/
def execUnready (port src cseq : Nat) (trust : Bool) (words : List Nat) (s : State) : Res :=
  .next (s.ctrlRow 0x35 none port src cseq trust words)

/-- WORK (14 R417). -/
def execWork (port src cseq : Nat) (trust : Bool) (words : List Nat) (s : State) : Res :=
  .next (s.ctrlRow 0x36 none port src cseq trust words)

/-- LEAVE (13 R393, 16 R498). -/
def execLeave (port src cseq : Nat) (trust : Bool) (words : List Nat) (s : State) : Res :=
  .next (s.ctrlRow 0x37 none port src cseq trust words)

/-- LEAVE_ACK (13 R393). -/
def execLeaveAck (port src cseq : Nat) (trust : Bool) (words : List Nat) (s : State) : Res :=
  .next (s.ctrlRow 0x38 none port src cseq trust words)

/-- HEARTBEAT (13 R395). -/
def execHeartbeat (port src cseq : Nat) (trust : Bool) (words : List Nat) (s : State) : Res :=
  .next (s.ctrlRow 0x39 none port src cseq trust words)

/-- ROUTE_SET (13 R396, R399). -/
def execRouteSet (port src cseq : Nat) (trust : Bool) (words : List Nat) (s : State) : Res :=
  .next (s.ctrlRow 0x3A none port src cseq trust words)

/-- RM_CLAIM (14 R413). -/
def execRmClaim (port src cseq : Nat) (trust : Bool) (words : List Nat) (s : State) : Res :=
  .next (s.ctrlRow 0x3D none port src cseq trust words)

/-- HB_ACK (14 R419). -/
def execHbAck (port src cseq : Nat) (trust : Bool) (words : List Nat) (s : State) : Res :=
  .next (s.ctrlRow 0x3B (some 1) port src cseq trust words)

/-- TICK_CHANGE (08 R237, 14 R422). -/
def execTickChange (port src cseq : Nat) (trust : Bool) (words : List Nat) (s : State) : Res :=
  .next (s.ctrlRow 0x3B (some 2) port src cseq trust words)

/-- EPOCH_CLOSE (14 R424, R426). -/
def execEpochClose (port src cseq : Nat) (trust : Bool) (words : List Nat) (s : State) : Res :=
  .next (s.ctrlRow 0x3B (some 4) port src cseq trust words)

/-- EPOCH_OPEN (14 R424). -/
def execEpochOpen (port src cseq : Nat) (trust : Bool) (words : List Nat) (s : State) : Res :=
  .next (s.ctrlRow 0x3B (some 5) port src cseq trust words)

/-- STEP_DECIDE (14 R421). -/
def execStepDecide (port src cseq : Nat) (trust : Bool) (words : List Nat) (s : State) : Res :=
  .next (s.ctrlRow 0x3B (some 6) port src cseq trust words)

/-- NORM_TOTAL (14 R412). -/
def execNormTotal (port src cseq : Nat) (trust : Bool) (words : List Nat) (s : State) : Res :=
  .next (s.ctrlRow 0x3B (some 7) port src cseq trust words)

/-- NODE_GEN (16 R498). -/
def execNodeGen (port src cseq : Nat) (trust : Bool) (words : List Nat) (s : State) : Res :=
  .next (s.ctrlRow 0x3B (some 8) port src cseq trust words)

/-- NODE_REMOVED (13 R395). -/
def execNodeRemoved (port src cseq : Nat) (trust : Bool) (words : List Nat) (s : State) : Res :=
  .next (s.ctrlRow 0x3B (some 9) port src cseq trust words)

/-- HEALTH_STEP_REPORT (14 R420). -/
def execHealthStepReport (port src cseq : Nat) (trust : Bool) (words : List Nat) (s : State) : Res :=
  .next (s.ctrlRow 0x3C (some 1) port src cseq trust words)

/-- HEALTH_SLIP (14 R420). -/
def execHealthSlip (port src cseq : Nat) (trust : Bool) (words : List Nat) (s : State) : Res :=
  .next (s.ctrlRow 0x3C (some 2) port src cseq trust words)

/-- HEALTH_BEAT_LOST (14 R420). -/
def execHealthBeatLost (port src cseq : Nat) (trust : Bool) (words : List Nat) (s : State) : Res :=
  .next (s.ctrlRow 0x3C (some 3) port src cseq trust words)

/-- HEALTH_LATE_CONTRIB (14 R420). -/
def execHealthLateContrib (port src cseq : Nat) (trust : Bool) (words : List Nat) (s : State) : Res :=
  .next (s.ctrlRow 0x3C (some 4) port src cseq trust words)

/-- HEALTH_MEM_FENCE (14 R420). -/
def execHealthMemFence (port src cseq : Nat) (trust : Bool) (words : List Nat) (s : State) : Res :=
  .next (s.ctrlRow 0x3C (some 5) port src cseq trust words)

/-- HEALTH_PORT_DOWN (14 R420). -/
def execHealthPortDown (port src cseq : Nat) (trust : Bool) (words : List Nat) (s : State) : Res :=
  .next (s.ctrlRow 0x3C (some 6) port src cseq trust words)

/-- HEALTH_TORN (14 R420). -/
def execHealthTorn (port src cseq : Nat) (trust : Bool) (words : List Nat) (s : State) : Res :=
  .next (s.ctrlRow 0x3C (some 7) port src cseq trust words)

/-- HEALTH_NORM (14 R420). -/
def execHealthNorm (port src cseq : Nat) (trust : Bool) (words : List Nat) (s : State) : Res :=
  .next (s.ctrlRow 0x3C (some 8) port src cseq trust words)

/-- HEALTH_PREPARED (14 R420). -/
def execHealthPrepared (port src cseq : Nat) (trust : Bool) (words : List Nat) (s : State) : Res :=
  .next (s.ctrlRow 0x3C (some 9) port src cseq trust words)

/-- HEALTH_LOADED (14 R420). -/
def execHealthLoaded (port src cseq : Nat) (trust : Bool) (words : List Nat) (s : State) : Res :=
  .next (s.ctrlRow 0x3C (some 10) port src cseq trust words)

/-- HEALTH_SYNC_ACK (14 R420). -/
def execHealthSyncAck (port src cseq : Nat) (trust : Bool) (words : List Nat) (s : State) : Res :=
  .next (s.ctrlRow 0x3C (some 11) port src cseq trust words)

/-- HEALTH_COOLING (14 R420). -/
def execHealthCooling (port src cseq : Nat) (trust : Bool) (words : List Nat) (s : State) : Res :=
  .next (s.ctrlRow 0x3C (some 12) port src cseq trust words)

/-- EPOCH_PREPARE (14 R424), with the images that the image-set table gives this package. -/
def execEpochPrepare (port src cseq : Nat) (trust : Bool) (words : List Nat) (image : Option SchedImage) (s : State) : Res :=
  .next (s.ctrlRow 0x3B (some 3) port src cseq trust words none image)

/-- RM_SYNC (14 R414), with the mirrored state. -/
def execRmSync (port src cseq : Nat) (trust : Bool) (words : List Nat) (st : RmSt) (s : State) : Res :=
  .next (s.ctrlRow 0x3E none port src cseq trust words (some st))

/-- CSEQ_HOLD_EXPIRY (13 R384). -/
def execCseqHoldExpiry (src : Nat) (s : State) : Res := .next (if s.firmware && 1 ≤ s.enrolled then s.holdExpiry src else s)

/-- ENROL_REQ_TIMER (13 R394). -/
def execEnrolReqTimer (s : State) : Res := .next s.enrolTimer

/-- LEAVE_TIMEOUT (13 R393). -/
def execLeaveTimeout (s : State) : Res := .next s.leaveTimeout

/-- NO_PORT_UP_TIMEOUT (13 R393). -/
def execNoPortUpTimeout (s : State) : Res := .next s.noPortTimeout

/-- HEARTBEAT_TIMER (13 R395). -/
def execHeartbeatTimer (s : State) : Res := .next s.heartbeatTimer

/-- HEARTBEAT_MISS (13 R395). -/
def execHeartbeatMiss (node : Nat) (s : State) : Res := .next (if s.firmware then s.rmSettle (s.heartbeatMiss node) else s)

/-- CLAIM_TIMER (14 R413). -/
def execClaimTimer (s : State) : Res := .next s.claimTimer

/-- CLAIM_SUCCESS (14 R413). -/
def execClaimSuccess (s : State) : Res := .next (if s.firmware then s.rmSettle s.claimSuccess else s)

/-- RM_SYNC_TIMER (14 R414): at least every 10 ms. -/
def execRmSyncTimer (s : State) : Res := .next (if s.firmware then s.appoint.sync else s)

/-- STANDBY_TAKEOVER (14 R414). -/
def execStandbyTakeover (s : State) : Res := .next (s.rmSettle s.standbyTakeover)

/-- QUORUM_CHECK (14 R415). -/
def execQuorumCheck (s : State) : Res := .next (if s.firmware then s.rmSettle s.quorumCheck else s)

/-- HB_ACK_LOSS (14 R416). -/
def execHbAckLoss (s : State) : Res := .next s.hbAckLoss

/-- STEP_TMO (14 R421). -/
def execStepTmo (s : State) : Res := .next (if s.firmware then s.rmSettle s.stepTimeout else s)

/-- TICK_SHRINK (14 R422). -/
def execTickShrink (s : State) : Res := .next (if s.firmware then s.rmSettle s.tickShrink else s)

end Sys2Proof.Machine
end

