-- ==== Sys2Proof/Machine/Power.lean ====
section
/-!
DEFINITION. Machine/Power.lean: the power controller (15 R431-R442), temperatures (R445-R449), coolant (R450-R453), warnings (R454, R455).
Powers are in mW, temperatures of hot spots in 1/2 degree, of the coolant in 1/16 degree.
-/

namespace Sys2Proof.Machine

/-- Two's complement of a field and back. -/
def toInt (w n : Nat) : Int := if n < 2 ^ (w - 1) then Int.ofNat n else Int.ofNat n - 2 ^ w
def ofInt (w : Nat) (x : Int) : Nat := (x % 2 ^ w).toNat

/-- The cap ceiling of a part in W (00 R1). -/
def partCeiling (part : Nat) : Nat := match part with | 0 => 1600 | 1 => 1550 | _ => 1450

/-- ceil(n * p / q). -/
def ceilPart (n p q : Nat) : Nat := (n * p + q - 1) / q

/-- The controller's target at a budget in W (15 R434). -/
def powerTarget (eff : Nat) : Nat := eff - ceilPart eff 2 100 - 2

/-- Warning numbers (15 R454). -/
def wnFlowLow : Nat := 1
def wnFlowCrit : Nat := 2
def wnAbrupt : Nat := 3
def wnTraySilent : Nat := 4
def wnInletHigh : Nat := 5
def wnInletLow : Nat := 6
def wnThrottle : Nat := 7
def wnTrip : Nat := 8
def wnCstop : Nat := 9
def wnDisagree : Nat := 10
def wnFail : Nat := 11
def wnPairFail : Nat := 12
def wnStackHot : Nat := 13
def wnWear : Nat := 14
def wnBudget : Nat := 15

/-- Bits of MINCAUSE (15 R465). -/
def mcTrip : Nat := 0
def mcAbrupt : Nat := 1
def mcFlowCrit : Nat := 2
def mcInletHigh : Nat := 3
def mcSensors : Nat := 4
def mcForced : Nat := 5

/-- A bit of a number set or cleared. -/
def putBit (n k : Nat) (on : Bool) : Nat := if on then Nat.lor n (2 ^ k) else n - Nat.land n (2 ^ k)

namespace State

def ceiling (s : State) : Nat := partCeiling s.pkg.fuse.part

/-- ALERT# asserted (17 R527). -/
def alert (s : State) : State := s.wr HIF_SMB fHIF_SMB_ALERT 1

/-- What status commands latch when a warning rises (17 R525): STATUS_TEMPERATURE and STATUS_MFR_SPECIFIC bits by warning number. -/
def warnStatus (k : Nat) : Nat × Nat :=
  match k with
  | 1 => (0, 1)
  | 2 => (0, 2)
  | 3 => (0, 4)
  | 4 => (0, 8)
  | 5 => (0, 16)
  | 6 => (32, 0)
  | 7 => (64, 0)
  | 8 => (128, 0)
  | 9 => (128, 0)
  | 13 => (64, 0)
  | 14 => (0, 64)
  | 15 => (0, 128)
  | _ => (0, 32)

/-- The record of HEALTH COOLING (15 R455). -/
def coolingRecord (s : State) (k : Nat) (cleared : Bool) : List Nat :=
  let tj := ofInt 16 (toInt 10 (s.rd PWR_TJ fPWR_TJ_TJ))
  [(if cleared then 2 ^ 63 else 0) + k * 2 ^ 56 + s.rd PWR_STATUS fPWR_STATUS_STATE * 2 ^ 53 + s.rd PWR_LIMITS fPWR_LIMITS_EFF * 2 ^ 32 + tj * 2 ^ 16,
    s.rd PWR_COOL fPWR_COOL_INLET * 2 ^ 48 + s.rd PWR_COOL fPWR_COOL_OUTLET * 2 ^ 32 + s.rd PWR_COOL fPWR_COOL_FLOW * 2 ^ 16
      + s.rd PWR_COOL fPWR_COOL_SEQ]

/-- A warning rises or clears (15 R454): ALERT#, an interrupt (17 R518), HEALTH COOLING. -/
def setWarn (s : State) (k : Nat) (on : Bool) : State :=
  let w := s.rd PWR_WARN fPWR_WARN_WARN
  if (w / 2 ^ (k - 1) % 2 = 1) = on then s
  else
    let s := s.wr PWR_WARN fPWR_WARN_WARN (putBit w (k - 1) on)
    let s := if on then
        let b := warnStatus k
        let s := { s with hif := { s.hif with
          stTemp := Nat.lor s.hif.stTemp b.1, stMfr := Nat.lor s.hif.stMfr b.2, stStop := s.hif.stStop || decide (k = wnCstop) } }
        s.wr PWR_EVENTS fPWR_EVENTS_WARN 1
      else s
    (s.alert.sendMsi 2).health 12 (s.coolingRecord k (!on))

/-- B_pm, B_step, P_cool and P_th as they enter B_eff (15 R431-R433). -/
def effBudget (s : State) : Nat :=
  let l := [s.pwr.bpm, s.rd PWR_BSTEP fPWR_BSTEP_LEVEL, s.rd PWR_LIMITS fPWR_LIMITS_COOL, s.rd PWR_LIMITS fPWR_LIMITS_THERM]
  max 350 (l.foldl min s.ceiling)

/-- B_eff follows its inputs (15 R431, R434, R437). -/
def setEff (s : State) : State :=
  let old := s.rd PWR_LIMITS fPWR_LIMITS_EFF
  let new := s.effBudget
  if new = old then s
  else
    let s := (s.wr PWR_LIMITS fPWR_LIMITS_EFF new).raise PWR_EVENTS fPWR_EVENTS_BUDGET_CHANGE
    s.modPwr fun p => { p with fellAt := if new < old then some s.beat else p.fellAt }

/-- The hottest hot-spot value, in 1/2 degree. -/
def hottest (s : State) : Int := toInt 10 (s.rd PWR_TJ fPWR_TJ_TJ)

/-- The sites whose stacks are present. -/
def stackSites (s : State) : List Nat := (List.range 10).filter fun x => s.siteState x ≠ 0

/-- The hottest stack reading and its site. -/
def hottestStack (s : State) : Nat × Nat :=
  s.stackSites.foldl (fun a x => let t := s.rd (MEM_TEMP x) fMEM_TEMP_TEMP; if a.1 < t then (t, x) else a) (0, 0)

/-- The planning code, or the top code under boost, before FCAP caps it (15 R438). -/
def wantCode (s : State) : Nat :=
  if s.sched.boost && s.on PWR_CTRL fPWR_CTRL_BOOST_EN && decide (s.hottest < 170) then 104 else s.sched.planCode

/-- The highest code the controller may request (15 R438). -/
def ceilCode (s : State) : Nat := min s.wantCode (s.rd TIME_FREQ fTIME_FREQ_FCAP)

/-- The voltage of a core in mV now (08 R215, R216). -/
def coreMv (s : State) (c : Nat) : Nat := 550 + 5 * s.vcodeNow c

/-- The voltage a core would have at a code. -/
def coreMvAt (s : State) (code c : Nat) : Nat := 550 + 5 * s.vcodeAt code c

def zoneCores (s : State) (z : Nat) : List Nat := ((List.range 24).map fun k => 24 * z + k).filter s.coreOn

/-- The hints of a core that count: the controller evaluates each from 10 us before its start (15 R442). -/
def hintsOf (s : State) (c : Nat) : List HintMsg := s.pwr.held.filter fun h => h.core = c && decide (h.start ≤ s.beat + 10000)

def hclsPower (s : State) (k : Nat) : Nat := s.rd (PWR_HCLS k) fPWR_HCLS_POWER
def hclsAdd (s : State) (k : Nat) : Nat := s.rd (PWR_HCLS k) fPWR_HCLS_ADD

/-- A core's active class: the class of highest POWER among hints (15 R442). -/
def activeClass (s : State) (hs : List HintMsg) : Option Nat :=
  hs.foldl (fun a h => match a with
    | none => some h.cls
    | some k => if s.hclsPower k < s.hclsPower h.cls then some h.cls else some k) none

/-- The announced power of a zone in mW at a frequency in 1/1000 code, with each core's voltage (15 R441, R442). -/
def announcedAt (s : State) (z mcode : Nat) (mv : Nat → Nat) : Nat :=
  ((s.zoneCores z).map fun c => match s.activeClass (s.hintsOf c) with
    | none => 0
    | some k => s.hclsPower k * mcode * mv c * mv c / (16 * 80 * 650 * 650)).sum

/-- The sum of squared voltages of a zone. -/
def sumV2 (s : State) (z : Nat) (mv : Nat → Nat) : Nat := ((s.zoneCores z).map fun c => mv c * mv c).sum

/-- Predicted package power in mW at a frequency in 1/1000 code, voltages and a duty (15 R437, R442): the other rails as measured, and of each
zone the larger of its announced power and its measured dynamic power scaled by f * V^2 from the frequency and voltages in force, by the
duty. -/
def predict (s : State) (code duty : Nat) (mv : Nat → Nat) : Nat :=
  let now := max 1 s.codeNow
  let dnow := max 1 (s.rd PWR_STATUS fPWR_STATUS_DUTY)
  s.pwr.fixed + ((List.range 12).map fun z =>
    let m := sget 0 z s.pwr.zones * 16 * code * s.sumV2 z mv / (dnow * now * max 1 (s.sumV2 z s.coreMv))
    max m (s.announcedAt z code mv) * duty / 16).sum

/-- The largest duty from 1 to 16 at which the frequency and voltages in force stay within a target in mW, 1 when none does (15 R435-R437). -/
def dutyFor (s : State) (target : Nat) : Nat :=
  (([16, 15, 14, 13, 12, 11, 10, 9, 8, 7, 6, 5, 4, 3, 2, 1] : List Nat).find? fun n =>
    decide (s.predict s.codeNow n s.coreMv ≤ target)).getD 1

/-- The highest code in a range whose power at its final voltages meets a target. -/
def codeFor (s : State) (lo hi target : Nat) : Option Nat :=
  ((List.range (hi + 1)).reverse.takeWhile fun c => lo ≤ c).find? fun c => decide (s.predict (1000 * c) 16 (s.coreMvAt c) ≤ target)

/-- The hold duty (15 R435); a HALTED package holds every core at duty 0 (16 R484). -/
def setDuty (s : State) (n : Nat) : State := s.wr PWR_STATUS fPWR_STATUS_DUTY (if s.pkState = pkHalted then 0 else n)

/-- STATE of PWR_STATUS: 0 normal, 1 throttled, 2 minimum power, 3 clock stop (15 R465). -/
def pwState (s : State) : Nat := s.rd PWR_STATUS fPWR_STATUS_STATE

/-- Normal or throttled: throttled while P_th is below the ceiling (15 R447, R454). -/
def openState (s : State) : State :=
  s.wr PWR_STATUS fPWR_STATUS_STATE (if s.rd PWR_LIMITS fPWR_LIMITS_THERM < s.ceiling then 1 else 0)

/-- The settings of the minimum-power state (15 R436, R439): code 24, the largest duty within 341 W. -/
def minSettings (s : State) : State :=
  let s := if s.rd TIME_FREQ fTIME_FREQ_TARGET = 24 then s else s.requestCode 24
  s.setDuty (s.dutyFor 341000)

/-- The minimum-power state begins, or goes on with one more cause (15 R436, R439, R448, R449, R453). -/
def enterMin (s : State) (causes : Nat) : State :=
  let s := s.orF PWR_STATUS fPWR_STATUS_MINCAUSE causes
  if 2 ≤ s.pwState then s
  else
    let s := ((s.wr PWR_STATUS fPWR_STATUS_STATE 2).bump PWR_COUNTS fPWR_COUNTS_MINPWR 1).raise PWR_EVENTS fPWR_EVENTS_MINPWR_ENTER
    s.minSettings

/-- The clock stop begins (15 R448). -/
def clockStop (s : State) : State :=
  if s.pwState = 3 then s
  else
    let s := ((s.wr PWR_STATUS fPWR_STATUS_STATE 3).setDuty 0).bump PWR_COUNTS fPWR_COUNTS_CSTOPS 1
    let s := s.modPwr fun p => { p with resume := false }
    (s.raise PWR_EVENTS fPWR_EVENTS_CSTOP).setWarn wnCstop true

def hasCause (s : State) (k : Nat) : Bool := s.rd PWR_STATUS fPWR_STATUS_MINCAUSE / 2 ^ k % 2 = 1

def dropCause (s : State) (k : Nat) : State :=
  s.wr PWR_STATUS fPWR_STATUS_MINCAUSE (putBit (s.rd PWR_STATUS fPWR_STATUS_MINCAUSE) k false)

/-- A sample at or above a limit (15 R448): a trip, and the clock stop when the minimum-power state was in force already. -/
def limitHit (s : State) : State :=
  let was := decide (2 ≤ s.pwState)
  let s := if s.hasCause mcTrip then s else s.bump PWR_COUNTS fPWR_COUNTS_TRIPS 1
  let s := (s.enterMin (2 ^ mcTrip)).setWarn wnTrip true
  if was then s.clockStop else s

/-- A condition that has held for a time (15 R448, R449, R452). -/
def heldFor (s : State) (since : Option Nat) (n : Nat) : Bool :=
  match since with
  | some b => decide (b + n ≤ s.beat)
  | none => false

/-- Since when a condition has held. -/
def since (s : State) (was : Option Nat) (ok : Bool) : Option Nat := if ok then some (was.getD s.beat) else none

/-- What the temperatures say of the clearing conditions of TRIP and of the clock stop (15 R448, R449). -/
def coolDown (s : State) : State :=
  let t := s.hottest
  let k := s.hottestStack.1
  s.modPwr fun p => { p with
    tripOk := s.since p.tripOk (decide (t < 170) && decide (k < 90)), stopOk := s.since p.stopOk (decide (t ≤ 170) && decide (k ≤ 90)) }

/-- Causes whose clearing conditions are met are dropped (15 R449); warnings follow. -/
def clearCauses (s : State) : State :=
  let s := if s.hasCause mcTrip && s.heldFor s.pwr.tripOk (10 * ms) then (s.dropCause mcTrip).setWarn wnTrip false else s
  let s := if s.hasCause mcAbrupt && s.heldFor s.pwr.flowOk (5000 * ms) && (!s.on PWR_CTRL fPWR_CTRL_ABRUPT_LATCH || s.pwr.coolClear) then
      ((s.dropCause mcAbrupt).modPwr fun p => { p with coolClear := false }).setWarn wnAbrupt false
    else s
  let s := if s.hasCause mcFlowCrit && s.heldFor s.pwr.flowOk (5000 * ms) then (s.dropCause mcFlowCrit).setWarn wnFlowCrit false else s
  let s := if s.hasCause mcInletHigh && s.heldFor s.pwr.inletOk (5000 * ms) then (s.dropCause mcInletHigh).setWarn wnInletHigh false else s
  if s.hasCause mcForced && !s.pwr.forced && !s.on PWR_CTRL fPWR_CTRL_FORCE_MIN then s.dropCause mcForced else s

/-- Cause FORCED follows the command and the bit (15 R449). -/
def checkForced (s : State) : State :=
  if s.pwr.forced || s.on PWR_CTRL fPWR_CTRL_FORCE_MIN then s.enterMin (2 ^ mcForced) else s.clearCauses

/-- The temperatures shown in PWR_TJ (15 R465). -/
def showStack (s : State) : State :=
  let k := s.hottestStack
  (s.wr PWR_TJ fPWR_TJ_STACKT k.1).wr PWR_TJ fPWR_TJ_SITE k.2

/-- The stack temperature of a site is read (11 R316, R317, 15 R448, R454). -/
def stackTemp (s : State) (site temp : Nat) : State :=
  let t := min 255 temp
  let s := (s.wr (MEM_TEMP site) fMEM_TEMP_TEMP t).wr (MEM_TEMP site) fMEM_TEMP_MAXT (max t (s.rd (MEM_TEMP site) fMEM_TEMP_MAXT))
  let s := if 85 ≤ t then (s.modMem fun m => { m with hot := setIns site m.hot }).raise (MEM_EVENTS site) fMEM_EVENTS_TEMP_HIGH
    else if t < 80 then s.modMem fun m => { m with hot := m.hot.filter (· ≠ site) } else s
  let s := (s.showStack).setWarn wnStackHot (s.stackSites.any fun x => 85 ≤ s.rd (MEM_TEMP x) fMEM_TEMP_TEMP)
  let s := if 100 ≤ t then s.limitHit else s
  s.coolDown.clearCauses

/-- The hot spots of the compute die (15 R445). -/
def computeSpots : List Nat := List.range 41 ++ [47]

def spotAbsent (s : State) (h : Nat) : Bool := s.on (PWR_HS h) fPWR_HS_ABSENT
def spotVal (s : State) (h : Nat) : Int := toInt 10 (s.rd (PWR_HS h) fPWR_HS_VAL)
def pairFailed (s : State) (h : Nat) : Bool := s.on (PWR_HS h) fPWR_HS_FAILA && s.on (PWR_HS h) fPWR_HS_FAILB

/-- A reading fails (15 R446): outside -20 to 150 degrees, or more than 10 degrees from the one before. -/
def readingFails (first : Bool) (old new : Int) : Bool := new < -40 || decide (300 < new) || (!first && decide (20 < (new - old).natAbs))

/-- The two readings of a hot spot are taken, and failures marked (15 R446). -/
def samplePair (s : State) (h : Nat) (a b : Int) : State :=
  if s.spotAbsent h then s
  else
    let r := PWR_HS h
    let first := !s.pwr.sampled
    let fa := s.on r fPWR_HS_FAILA || readingFails first (toInt 10 (s.rd r fPWR_HS_SA)) a
    let fb := s.on r fPWR_HS_FAILB || readingFails first (toInt 10 (s.rd r fPWR_HS_SB)) b
    let s := ((s.wr r fPWR_HS_SA (ofInt 10 (clampInt a (-512) 511))).wr r fPWR_HS_SB (ofInt 10 (clampInt b (-512) 511)))
    (s.wr r fPWR_HS_FAILA (if fa then 1 else 0)).wr r fPWR_HS_FAILB (if fb then 1 else 0)

/-- The value of a hot spot with at least one working sensor (15 R446, rules 2-4). -/
def spotValue (s : State) (h : Nat) : State :=
  if s.spotAbsent h || s.pairFailed h then s
  else
    let r := PWR_HS h
    let a := toInt 10 (s.rd r fPWR_HS_SA)
    let b := toInt 10 (s.rd r fPWR_HS_SB)
    let fa := s.on r fPWR_HS_FAILA
    let fb := s.on r fPWR_HS_FAILB
    let dis := !fa && !fb && decide (8 < (a - b).natAbs)
    let v := if fa then b + 6 else if fb then a + 6 else max a b
    ((s.wr r fPWR_HS_VAL (ofInt 10 v)).wr r fPWR_HS_DISAGREE (if dis then 1 else 0)).wr r fPWR_HS_PAIRFAIL 0

/-- A hot spot whose sensors have both failed takes the highest working value of its die, or of the compute die, plus 8 degrees (15 R446, rule 1). -/
def spotFailed (s : State) (h : Nat) : State :=
  if s.spotAbsent h || !s.pairFailed h then s
  else
    let s := (s.wr (PWR_HS h) fPWR_HS_PAIRFAIL 1).wr (PWR_HS h) fPWR_HS_DISAGREE 0
    match ((computeSpots.filter fun x => !s.pairFailed x).map s.spotVal).max? with
    | some v => s.wr (PWR_HS h) fPWR_HS_VAL (ofInt 10 (v + 16))
    | none => s

def spots : List Nat := List.range 48

/-- PWR_TJ from the hot-spot values (15 R465). -/
def showHottest (s : State) : State :=
  let live := spots.filter fun h => !s.spotAbsent h
  let best := live.foldl (fun (a : Option (Int × Nat)) h => match a with
    | none => some (s.spotVal h, h)
    | some x => if x.1 < s.spotVal h then some (s.spotVal h, h) else some x) none
  match best with
  | some x => (s.wr PWR_TJ fPWR_TJ_TJ (ofInt 10 x.1)).wr PWR_TJ fPWR_TJ_HS x.2
  | none => s

/-- A sample of the 96 sensors (15 R445-R448, R438). -/
def sensorSample (s : State) (readings : List Int) : State :=
  let s := spots.foldl (fun s h => s.samplePair h (readings.getD (2 * h) 0) (readings.getD (2 * h + 1) 0)) s
  let s := spots.foldl spotValue s
  let s := spots.foldl spotFailed s
  let s := (s.modPwr fun p => { p with sampled := true }).showHottest
  let live := spots.filter fun h => !s.spotAbsent h
  let s := s.setWarn wnDisagree (live.any fun h => s.on (PWR_HS h) fPWR_HS_DISAGREE)
  let s := s.setWarn wnFail (live.any fun h => s.on (PWR_HS h) fPWR_HS_FAILA || s.on (PWR_HS h) fPWR_HS_FAILB)
  let s := s.setWarn wnPairFail (live.any fun h => s.on (PWR_HS h) fPWR_HS_PAIRFAIL)
  let s := if computeSpots.all s.pairFailed then s.enterMin (2 ^ mcSensors) else s
  let s := if 190 ≤ s.hottest then s.limitHit else s
  s.coolDown.clearCauses

/-- P_th changes each millisecond (15 R447). -/
def thermalLimit (s : State) : State :=
  let c := s.ceiling
  let th := s.rd PWR_LIMITS fPWR_LIMITS_THERM
  let t := s.hottest
  let k := s.hottestStack.1
  let new := if 176 ≤ t || 90 ≤ k then max 350 (th - ceilPart c 2 100)
    else if t < 172 && k < 88 then min c (th + ceilPart c 5 1000) else th
  let s := (s.wr PWR_LIMITS fPWR_LIMITS_THERM new).setWarn wnThrottle (decide (new < c))
  (if s.pwState < 2 then s.openState else s).setEff

/-- The bin of a counted cycle by its range in 1/16 degree (15 R459). -/
def cycleBin (range : Nat) : Option Nat :=
  if range ≤ 320 then none else if range ≤ 480 then some 0 else if range ≤ 640 then some 1 else if range ≤ 960 then some 2 else some 3

/-- Rainflow on turning points, newest first: the points left and the ranges of the full cycles counted (15 R459). -/
def rainflow : Nat → List Int → List Int × List Nat
  | 0, l => (l, [])
  | n + 1, l =>
    match l with
    | d :: c :: b :: a :: t =>
      if (b - c).natAbs ≤ (a - b).natAbs ∧ (b - c).natAbs ≤ (c - d).natAbs then
        let r := rainflow n (d :: a :: t)
        (r.1, (b - c).natAbs :: r.2)
      else (l, [])
    | _ => (l, [])

/-- The wear index (15 R460) and its warning. -/
def showWear (s : State) : State :=
  let w : List Nat := [1, 3, 8, 20]
  let x := ((List.range 12).map fun k => s.rd (PWR_CYC k) fPWR_CYC_COUNT * w.getD (k % 4) 0).sum
  let s := s.wr PWR_WEAR fPWR_WEAR_INDEX (min (2 ^ 32 - 1) x)
  let warn := s.rd PWR_WEAR fPWR_WEAR_WARN
  s.setWarn wnWear (decide (warn ≠ 0) && decide (warn ≤ x))

def pointsOf (s : State) (k : Nat) : List Int := sget [] k s.pwr.points

/-- The newest value of a class has become a turning point (15 R459): cycles are counted, at most 32 points stay. -/
def turned (s : State) (k : Nat) : State :=
  let l := s.pointsOf k
  let r := rainflow l.length l
  let s := s.modPwr fun p => { p with points := sput [] k (r.1.take 32) p.points }
  (r.2.foldl (fun s x => match cycleBin x with
    | some b => s.bump (PWR_CYC (4 * k + b)) fPWR_CYC_COUNT 1
    | none => s) s).showWear

def pushPoint (s : State) (k : Nat) (v : Int) : State := s.modPwr fun p => { p with points := sput [] k ((v :: s.pointsOf k).take 32) p.points }

/-- A value of a class each second (15 R459). The head of the stack is the extreme reached since the last turning point; it turns when the
direction reverses by 2 degrees (log entry 54). -/
def thermalSample (s : State) (k : Nat) (v : Int) : State :=
  let move := fun (s : State) => s.modPwr fun p => { p with points := sput [] k (v :: (s.pointsOf k).drop 1) p.points }
  match s.pointsOf k with
  | [] => s.pushPoint k v
  | [c] => if 32 ≤ (v - c).natAbs then s.pushPoint k v else s
  | c :: b :: _ =>
    if c = b then move s
    else if b < c then (if c ≤ v then move s else if 32 ≤ c - v then (s.turned k).pushPoint k v else s)
    else (if v ≤ c then move s else if 32 ≤ v - c then (s.turned k).pushPoint k v else s)

/-- The inlet of the first report after a cold start enters a stack as a turning point (15 R459). -/
def coldPoint (s : State) (k : Nat) (v : Int) : State := (((s.turned k).pushPoint k v).turned k).pushPoint k v

/-- P_cool of a flow (15 R452). -/
def coolLimit (s : State) (flow : Nat) : Nat := s.ceiling * min 180 flow / 180

/-- A coolant report (15 R450-R453), inlet and outlet in 1/16 degree, flow in 1/100 L/min. -/
def coolReport (s : State) (inlet outlet flow seq : Nat) : State :=
  let none_ := s.pwr.reports.isEmpty
  if (!none_ && seq = s.rd PWR_COOL fPWR_COOL_SEQ) || 1440 < inlet || 1440 < outlet || 1000 < flow then
    (s.bump PWR_COOL_STAT fPWR_COOL_STAT_REJECTED 1).raise PWR_EVENTS fPWR_EVENTS_TRAY_BAD
  else
    let now := s.beat
    let diff := Int.ofNat outlet - Int.ofNat inlet
    let from_ := s.pwr.reportsFrom.getD now
    let past := s.pwr.reports
    let flows := (past.filter fun r => decide (now ≤ r.1 + 1000 * ms)).map fun r => r.2.2
    let diffs := (past.filter fun r => decide (now ≤ r.1 + 200 * ms)).map fun r => r.2.1
    let abruptFlow := decide (from_ + 1000 * ms ≤ now) && flows.max?.any fun m => decide (2 * flow < m)
    let abruptDiff := decide (from_ + 200 * ms ≤ now) && diffs.min?.any fun m => decide (m + 128 < diff)
    let cold := s.pwr.coldInlet
    let s := (s.bump PWR_COOL_STAT fPWR_COOL_STAT_ACCEPTED 1).wr PWR_STATUS fPWR_STATUS_ASSUMED 0
    let s := ((s.wr PWR_COOL fPWR_COOL_INLET inlet).wr PWR_COOL fPWR_COOL_OUTLET outlet).wr PWR_COOL fPWR_COOL_FLOW flow
    let s := (s.wr PWR_COOL fPWR_COOL_SEQ seq).wr PWR_LIMITS fPWR_LIMITS_COOL (s.coolLimit flow)
    let s := s.modPwr fun p => { p with
      reports := (now, diff, flow) :: (past.filter fun r => decide (now ≤ r.1 + 1000 * ms)), reportsFrom := some from_, coldInlet := false,
      flowOk := s.since p.flowOk (decide (120 ≤ flow)), inletOk := s.since p.inletOk (decide (inlet ≤ 704)),
      lowOk := s.since p.lowOk (decide (125 ≤ flow)) }
    let s := (s.setEff).setWarn wnTraySilent false
    let s := if flow < 120 then s.setWarn wnFlowLow true else if s.heldFor s.pwr.lowOk (5000 * ms) then s.setWarn wnFlowLow false else s
    let s := s.setWarn wnInletLow (decide (inlet < 240))
    let s := if flow < 100 then (s.enterMin (2 ^ mcFlowCrit)).setWarn wnFlowCrit true else s
    let s := if 720 < inlet then (s.enterMin (2 ^ mcInletHigh)).setWarn wnInletHigh true else s
    let s := if abruptFlow || abruptDiff then
        let s := if s.hasCause mcAbrupt then s else s.modPwr fun p => { p with coolClear := false }
        ((s.bump PWR_COUNTS fPWR_COUNTS_ABRUPTS 1).enterMin (2 ^ mcAbrupt)).setWarn wnAbrupt true
      else s
    let s := s.clearCauses
    if cold then [0, 1, 2].foldl (fun s k => s.coldPoint k (Int.ofNat inlet)) s else s

/-- More than 500 ms without an accepted report (15 R451): worst-case values are assumed. -/
def traySilence (s : State) : State :=
  let last := match s.pwr.reports.head? with
    | some r => r.1
    | none => s.pwr.startBeat
  if s.beat ≤ last + 500 * ms then s
  else
    let s := (s.wr PWR_STATUS fPWR_STATUS_ASSUMED 1).wr PWR_COOL fPWR_COOL_INLET 720
    let s := ((s.wr PWR_COOL fPWR_COOL_OUTLET 720).wr PWR_COOL fPWR_COOL_FLOW 120).wr PWR_LIMITS fPWR_LIMITS_COOL (s.coolLimit 120)
    let s := s.modPwr fun p => { p with reportsFrom := none, flowOk := none, inletOk := none, lowOk := none }
    s.setEff.setWarn wnTraySilent true

/-- The budget's level of a pin code, clamped (15 R433). -/
def stepLevel (s : State) (code : Nat) : Nat :=
  let w := if code < 4 then s.reg PWR_BSTEP_LVL_LO else s.reg PWR_BSTEP_LVL_HI
  min s.ceiling (max 350 (w.toNat / 2 ^ (16 * (code % 4)) % 2 ^ 16))

/-- A sample of the BUDGET_STEP pins (15 R433, 18 R542): two that agree are accepted. -/
def budgetStep (s : State) (pins : Nat) : State :=
  let c := pins % 8
  let was := s.pwr.pins
  let s := s.modPwr fun p => { p with pins := c }
  if was = c then ((s.wr PWR_BSTEP fPWR_BSTEP_CODE c).wr PWR_BSTEP fPWR_BSTEP_LEVEL (s.stepLevel c)).setEff else s

/-- B_pm is written (15 R432): by PMBus or PWR_SET_BUDGET. -/
def writeBudget (s : State) (w : Nat) : State :=
  let w := w % 2 ^ 16
  let s := (s.wr PWR_BUDGET fPWR_BUDGET_WATTS w).modPwr fun p => { p with bpmNext := some w }
  if w < 350 || s.ceiling < w then s.raise PWR_EVENTS fPWR_EVENTS_BUDGET_CLAMP else s

/-- A written B_pm takes effect, clamped (15 R432). -/
def budgetEffect (s : State) : State :=
  match s.pwr.bpmNext with
  | none => s
  | some w => (s.modPwr fun p => { p with bpm := min s.ceiling (max 350 w), bpmNext := none }).setEff

/-- The margin that hints add in a zone (15 R442): the largest ADD among its cores' active classes. -/
def hintAdd (s : State) (z : Nat) : Nat :=
  ((s.zoneCores z).map fun c => match s.activeClass (s.hintsOf c) with
    | none => 0
    | some k => s.hclsAdd k).foldl max 0

/-- A zone's held hints take effect on its margin and announced power (15 R442). -/
def zoneHints (s : State) (z : Nat) : State :=
  let add := s.hintAdd z
  let old := s.rd (PWR_ZMARGIN z) fPWR_ZMARGIN_ADD
  let s := (s.wr (PWR_ZHINT z) fPWR_ZHINT_HELD (s.pwr.held.filter fun h => h.zone = z).length).wr (PWR_ZHINT z) fPWR_ZHINT_ANNOUNCED
    (min 65535 (s.announcedAt z s.codeNow s.coreMv * 16 / 1000))
  if add = old then s else (s.wr (PWR_ZMARGIN z) fPWR_ZMARGIN_ADD add).setZoneV z

/-- Beats that raising a zone's voltages for a margin takes, at 1 us per 25 mV (15 R442). -/
def rampBeats (s : State) (z add : Nat) : Nat :=
  let t := s.wr (PWR_ZMARGIN z) fPWR_ZMARGIN_ADD (max add (s.rd (PWR_ZMARGIN z) fPWR_ZMARGIN_ADD))
  200 * (((s.zoneCores z).map fun c => (t.coreMvAt s.voltCode c - s.coreMv c) / 5).foldl max 0)

/-- The k-th hint on its way reaches its zone control core (15 R442, 09 R252). -/
def hintReceived (s : State) (k : Nat) : State :=
  match s.pwr.hintsIn[k]? with
  | none => s
  | some h =>
    let s := s.modPwr fun p => { p with hintsIn := p.hintsIn.eraseIdx k }
    if !s.on PWR_CTRL fPWR_CTRL_HINT_EN then s
    else if 8 ≤ (s.pwr.held.filter fun x => x.zone = h.zone).length then s.raise (SQ_EVENTS h.core) fSQ_EVENTS_HINT_DROP
    else
      let late := decide (h.start < s.beat + s.rampBeats h.zone (s.hclsAdd h.cls))
      let s := s.modPwr fun p => { p with held := p.held ++ [h] }
      (if late then s.raise PWR_EVENTS fPWR_EVENTS_HINT_LATE else s).zoneHints h.zone

/-- The phase of the k-th held hint ends (15 R442): at start + DUR, or at the start of the stream's next hint. -/
def hintEnd (s : State) (k : Nat) : State :=
  match s.pwr.held[k]? with
  | none => s
  | some h =>
    let next := (s.pwr.held.drop (k + 1)).find? fun x => x.core = h.core && x.stream = h.stream
    let ended := if h.dur ≠ 0 then decide (h.start + h.dur ≤ s.beat) else next.any fun x => decide (x.start ≤ s.beat)
    if ended then (s.modPwr fun p => { p with held := p.held.eraseIdx k }).zoneHints h.zone else s

/-- A run of the power controller (15 R434-R439): the 1-us average, the power of the other rails and of each zone. A course above target never
lies above the code being approached (R439); a rise asks for the code before FCAP caps it (R438). -/
def controllerRun (s : State) (avg fixed : Nat) (zones : List Nat) : State :=
  let w := avg / 1000
  let s := (s.wr PWR_POWER fPWR_POWER_P1US w).wr PWR_POWER fPWR_POWER_PEAK (max w (s.rd PWR_POWER fPWR_POWER_PEAK))
  let s := (List.range 12).foldl (fun s z => s.wr (PWR_ZPOWER z) fPWR_ZPOWER_P1US (zones.getD z 0 / 1000)) s
  let s := s.modPwr fun p => { p with fixed := fixed, zones := (List.range 12).foldl (fun l z => sput 0 z (zones.getD z 0) l) [] }
  let s := ((s.pwr.held.map (·.zone)).eraseDups).foldl zoneHints s
  let s := s.wr PWR_LIMITS fPWR_LIMITS_CEILCODE s.ceilCode
  if 2 ≤ s.pwState then
    let s := (s.modPwr fun p => { p with run := 0 }).setWarn wnBudget false
    if s.pwState = 3 then s else s.minSettings
  else
    let eff := s.rd PWR_LIMITS fPWR_LIMITS_EFF
    let exceeds := decide (eff * 1000 < avg)
    let run := if exceeds then s.pwr.run + 1 else 0
    let s := if exceeds && s.pwr.run = 0 then s.bump PWR_OVER fPWR_OVER_COUNT 1 else s
    let s := (s.modPwr fun p => { p with run := run }).wr PWR_OVER fPWR_OVER_LONGEST (max (s.rd PWR_OVER fPWR_OVER_LONGEST) (min run 65535))
    let s := s.setWarn wnBudget (decide (20 < run))
    let t := powerTarget eff * 1000
    let tgt := s.rd TIME_FREQ fTIME_FREQ_TARGET
    if t < avg || t < s.predict s.codeNow (s.rd PWR_STATUS fPWR_STATUS_DUTY) s.coreMv || s.ceilCode < tgt then
      match s.codeFor 24 (min s.ceilCode tgt) t with
      | none => s.enterMin 0
      | some c => (if c = tgt then s else s.requestCode c).setDuty (s.dutyFor t)
    else
      let s := if s.rd PWR_STATUS fPWR_STATUS_DUTY < 16 then s.setDuty (s.dutyFor t) else s
      if !s.on TIME_STATUS fTIME_STATUS_GLIDE && s.longAgo s.pwr.fellAt ms && s.longAgo s.pwr.roseAt 100000 then
        match s.codeFor (tgt + 1) (min s.wantCode (tgt + 8)) t with
        | some c => s.requestCode c
        | none => s
      else s

/-- The clock stop ends (15 R448). -/
def stopEnd (s : State) : State :=
  let coolant := s.hasCause mcAbrupt || s.hasCause mcFlowCrit || s.hasCause mcInletHigh
  if s.pwState = 3 && s.heldFor s.pwr.stopOk (100 * ms) && !coolant && (!s.on PWR_CTRL fPWR_CTRL_CSTOP_LATCH || s.pwr.resume) then
    let s := ((s.wr PWR_STATUS fPWR_STATUS_STATE 2).setDuty 1).modPwr fun p => { p with resume := false }
    (s.raise PWR_EVENTS fPWR_EVENTS_RESUME).setWarn wnCstop false
  else s

/-- The last cause has cleared and the package leaves the minimum-power state (15 R449). -/
def minExit (s : State) : State :=
  let s := s.clearCauses
  if s.pwState = 2 && s.rd PWR_STATUS fPWR_STATUS_MINCAUSE = 0 then
    let s := (s.wr PWR_LIMITS fPWR_LIMITS_THERM 350).openState
    ((s.setWarn wnThrottle true).setEff).raise PWR_EVENTS fPWR_EVENTS_MINPWR_EXIT
  else s

/-- A zone's base margin adapts after a tick (15 R444), from the first tick after the 1,000 of the start margin. -/
def adaptMargin (s : State) (z : Nat) : State :=
  if s.on PWR_STATUS fPWR_STATUS_START_MARGIN then
    if 1000 ≤ s.pwr.openTicks.getD 0 then s.wr PWR_STATUS fPWR_STATUS_START_MARGIN 0 else s
  else if s.pwr.openTicks.getD 0 ≤ 1000 || !s.on PWR_CTRL fPWR_CTRL_ADAPT || (s.zoneCores z).isEmpty then s
  else
    let n := s.rd (PWR_ZDROOP z) fPWR_ZDROOP_LASTTICK
    let b := sget 0 z s.pwr.blocks + 2
    let b := if b % 2 = 0 && decide (s.rd PWR_DROOP_CFG fPWR_DROOP_CFG_STR_LO < n) then b + 1 else b
    let m := s.rd (PWR_ZMARGIN z) fPWR_ZMARGIN_BASE
    let s := s.modPwr fun p => { p with blocks := sput 0 z (if 200 ≤ b then 0 else b) p.blocks }
    let s := if 200 ≤ b && b % 2 = 0 && decide (s.rd PWR_MARGIN_CFG fPWR_MARGIN_CFG_MMIN < m) then
        (s.wr (PWR_ZMARGIN z) fPWR_ZMARGIN_BASE (m - 1)).modPwr fun p => { p with lowered := setIns z p.lowered }
      else s
    if s.rd PWR_DROOP_CFG fPWR_DROOP_CFG_STR_HI < n then
      let m := s.rd (PWR_ZMARGIN z) fPWR_ZMARGIN_BASE
      (s.wr (PWR_ZMARGIN z) fPWR_ZMARGIN_BASE (max m (min (s.rd PWR_MARGIN_CFG fPWR_MARGIN_CFG_MMAX) (m + 2)))).setZoneV z
    else s

end State

/-- POWER_CONTROLLER_RUN (15 R437): measured powers in mW. -/
def execPowerControllerRun (avg fixed : Nat) (zones : List Nat) (s : State) : Res :=
  .next (if s.firmware then s.controllerRun avg fixed zones else s)

/-- BUDGET_STEP_SAMPLE (15 R433). -/
def execBudgetStepSample (pins : Nat) (s : State) : Res := .next (s.budgetStep pins)

/-- BUDGET_TAKES_EFFECT (15 R432). -/
def execBudgetTakesEffect (s : State) : Res := .next s.budgetEffect

/-- SENSOR_SAMPLE (15 R446), readings in 1/2 degree. -/
def execSensorSample (readings : List Int) (s : State) : Res := .next (s.sensorSample readings)

/-- THERMAL_LIMIT_UPDATE (15 R447). -/
def execThermalLimitUpdate (s : State) : Res := .next s.thermalLimit

/-- STACK_TEMPERATURE_READ (11 R316, R317). -/
def execStackTemperatureRead (site temp : Nat) (s : State) : Res :=
  .next (if site < 10 && s.siteState site ≠ 0 then s.stackTemp site temp else s)

/-- CLOCK_STOP_END (15 R448). -/
def execClockStopEnd (s : State) : Res := .next s.stopEnd

/-- MINIMUM_POWER_EXIT (15 R449). -/
def execMinimumPowerExit (s : State) : Res := .next s.minExit

/-- TRAY_SILENCE (15 R451). -/
def execTraySilence (s : State) : Res := .next s.traySilence

/-- HINT_RECEIVED (15 R442). -/
def execHintReceived (k : Nat) (s : State) : Res := .next (s.hintReceived k)

/-- HINT_PHASE_END (15 R442). -/
def execHintPhaseEnd (k : Nat) (s : State) : Res := .next (s.hintEnd k)

/-- DROOP_MARGIN_ADAPT (15 R444). -/
def execDroopMarginAdapt (zone : Nat) (s : State) : Res := .next (if zone < 12 then s.adaptMargin zone else s)

end Sys2Proof.Machine
end

