-- ==== Sys2Proof/Machine/Energy.lean ====
section
/-!
DEFINITION. Machine/Energy.lean: energy per job (15 R456-R458), thermal cycles each second and wear records (R459, R460), the power commands
(R461). Energies are in microjoules.
-/

namespace Sys2Proof.Machine

/-- A list of weights by key, equal keys added. -/
def addWeights (l : List (Nat × Nat)) : List (Nat × Nat) := l.foldl (fun a x => sput 0 x.1 (sget 0 x.1 a + x.2) a) []

/-- An energy divided in proportion to weights, rounded down; all of it to key 0 when no weight is positive (15 R457). -/
def share (e : Nat) (w : List (Nat × Nat)) : List (Nat × Nat) :=
  let t := (w.map (·.2)).sum
  if t = 0 then [(0, e)] else w.map fun x => (x.1, e * x.2 / t)

namespace State

/-- The tag of a requester in this interval: cores 0-287, UD0 288, UD1 289 (15 R456, R457). -/
def tagNow (s : State) (who : Nat) : Nat := sget 0 who s.pwr.tagsAt

/-- The tags as the registers now show them, which take effect at the next interval (15 R457). -/
def latchTags (s : State) : State :=
  let l := (List.range 288).foldl (fun l c => sput 0 c (s.rd (PWR_CTAG c) fPWR_CTAG_TAG) l) []
  s.modPwr fun p => { p with tagsAt := sput 0 288 (s.rd PWR_UDTAG fPWR_UDTAG_UD0) (sput 0 289 (s.rd PWR_UDTAG fPWR_UDTAG_UD1) l) }

/-- The accumulator of a tag (15 R458): 0 and 63 are fixed, 1-62 are allocated at a tag's first attribution; none free: 63. -/
def slotOf (s : State) (tag : Nat) : State × Nat :=
  if tag = 0 then (s, 0)
  else if tag = 0xFFFF then (s, 63)
  else
    let l := (List.range 62).map (· + 1)
    match l.find? fun n => s.on (PWR_ETAG_ID n) fPWR_ETAG_ID_VALID && s.rd (PWR_ETAG_ID n) fPWR_ETAG_ID_TAG = tag with
    | some n => (s, n)
    | none => match l.find? fun n => !s.on (PWR_ETAG_ID n) fPWR_ETAG_ID_VALID with
      | some n => ((s.wr (PWR_ETAG_ID n) fPWR_ETAG_ID_VALID 1).wr (PWR_ETAG_ID n) fPWR_ETAG_ID_TAG tag, n)
      | none => (s.raise PWR_EVENTS fPWR_EVENTS_ETAG_OVF, 63)

/-- Microjoules added to an accumulator, which reports millijoules: 0-63 tags, 64 the package, 65 + z zones (15 R458). -/
def addEnergy (s : State) (acc reg : Nat) (uj : Nat) : State :=
  let m := sget 0 acc s.pwr.micro + uj
  (s.bump reg ⟨63, 0⟩ (m / 1000)).modPwr fun p => { p with micro := sput 0 acc (m % 1000) p.micro }

def addTag (s : State) (tag uj : Nat) : State :=
  if uj = 0 then s else let r := s.slotOf tag; r.1.addEnergy r.2 (PWR_ETAG_MJ r.2) uj

/-- The energy of a 1 ms interval attributed (15 R457). Of each zone: its core-rail energy and the active cycles of its cores; of each Sedge
die; of each stack site: its energy and lines by requester (288 and 289 the dies, above them host and fabric); of the other rails. -/
def divideEnergy (s : State) (zones : List (Nat × List (Nat × Nat))) (uds : List Nat) (sites : List (Nat × List (Nat × Nat))) (other : Nat) :
    State :=
  let core := zones.flatMap fun z => share z.1 (addWeights (z.2.map fun x => (s.tagNow x.1, x.2)))
  let coreBy := addWeights core
  let ud := [(s.tagNow 288, uds.getD 0 0), (s.tagNow 289, uds.getD 1 0)]
  let site := sites.map fun x =>
    let lines := (x.2.map (·.2)).sum
    let own := addWeights ((x.2.filter fun y => y.1 < 290).map fun y => (s.tagNow y.1, y.2))
    let loose := ((x.2.filter fun y => 290 ≤ y.1).map (·.2)).sum
    if lines = 0 then ([], x.1) else (own.map fun y => (y.1, x.1 * y.2 / lines), x.1 * loose / lines)
  let pool := other + (site.map (·.2)).sum
  let all := addWeights (core ++ ud ++ site.flatMap (·.1) ++ share pool coreBy)
  let total := (zones.map (·.1)).sum + uds.sum + (sites.map (·.1)).sum + other
  let s := all.foldl (fun s x => s.addTag x.1 x.2) s
  let s := s.addEnergy 64 PWR_ENERGY total
  let s := (List.range 12).foldl (fun s z =>
    let e := (zones.getD z (0, [])).1
    (s.addEnergy (65 + z) (PWR_ZENERGY z) e).wr (PWR_ZPOWER z) fPWR_ZPOWER_P1MS (e / 1000)) s
  (s.wr PWR_POWER fPWR_POWER_P1MS (total / 1000)).latchTags

/-- A wear record goes to the flash (15 R460). -/
def saveWear (s : State) : State :=
  if !s.pkg.flash.answers then s
  else s.modPkg fun p => { p with flash := { p.flash with
    wearSeq := p.flash.wearSeq + 1, wear := (List.range 12).map fun k => s.rd (PWR_CYC k) fPWR_CYC_COUNT, residues := s.pwr.points } }

end State

/-- ENERGY_ATTRIBUTION (15 R457). -/
def execEnergyAttribution (zones : List (Nat × List (Nat × Nat))) (uds : List Nat) (sites : List (Nat × List (Nat × Nat))) (other : Nat)
    (s : State) : Res := .next (s.divideEnergy (zones.take 12) (uds.take 2) (sites.take 10) other)

/-- THERMAL_CYCLE_SAMPLE (15 R459): the means of the second, of the compute die, the I/O dies and the Sedge dies, in 1/16 degree. -/
def execThermalCycleSample (compute io sedge : Int) (s : State) : Res :=
  .next (if s.firmware then ((s.thermalSample 0 compute).thermalSample 1 io).thermalSample 2 sedge else s)

/-- WEAR_SAVE_TIMER (15 R460). -/
def execWearSaveTimer (s : State) : Res := .next (if s.firmware then s.saveWear else s)

/-- Refusals of 15 R461 (16 R490). -/
def stPwrNoTag : Nat := 0x0F01
def stPwrTagReserved : Nat := 0x0F02
def stPwrNotStopped : Nat := 0x0F03

namespace State

def pwrQuery (_ : List Nat) (s : State) : State × Ans :=
  s.answered (s.regWords [PWR_STATUS, PWR_WARN, PWR_LIMITS, PWR_POWER, PWR_TJ, PWR_COOL])

def pwrSetBudget (a : List Nat) (s : State) : State × Ans := (s.writeBudget (a.getD 0 0), .done 0 [])

/-- The accumulator that holds a tag. -/
def tagSlot (s : State) (tag : Nat) : Option Nat :=
  (List.range 64).find? fun n => s.on (PWR_ETAG_ID n) fPWR_ETAG_ID_VALID && s.rd (PWR_ETAG_ID n) fPWR_ETAG_ID_TAG = tag

def pwrEnergyQuery (a : List Nat) (s : State) : State × Ans :=
  match s.tagSlot (a.getD 0 0) with
  | none => s.refuse stPwrNoTag
  | some n => s.answered [s.rd (PWR_ETAG_MJ n) fPWR_ETAG_MJ_MJ]

def pwrEnergyRelease (a : List Nat) (s : State) : State × Ans :=
  let t := a.getD 0 0
  if t = 0 || t = 0xFFFF then s.refuse stPwrTagReserved
  else match s.tagSlot t with
    | none => s.refuse stPwrNoTag
    | some n =>
      let e := s.rd (PWR_ETAG_MJ n) fPWR_ETAG_MJ_MJ
      (((s.setReg (PWR_ETAG_ID n) 0).setReg (PWR_ETAG_MJ n) 0).modPwr fun p => { p with micro := sput 0 n 0 p.micro }, .done 0 [e])

def pwrForceMin (a : List Nat) (s : State) : State × Ans :=
  ((s.modPwr fun p => { p with forced := decide (a.getD 0 0 ≠ 0) }).checkForced, .done 0 [])

def pwrCoolClear (_ : List Nat) (s : State) : State × Ans :=
  ((s.modPwr fun p => { p with coolClear := true }).clearCauses, .done 0 [])

def pwrResume (_ : List Nat) (s : State) : State × Ans :=
  if s.pwState ≠ 3 then s.refuse stPwrNotStopped else (s.modPwr fun p => { p with resume := true }, .done 0 [])

def pwrWearSave (_ : List Nat) (s : State) : State × Ans := (s.saveWear, .done 0 [])

end State

/-- PWR_QUERY (15 R461). -/
def execPwrQuery (via : Via) (s : State) : Res := .next (s.command 0x0F00 via State.pwrQuery)

/-- PWR_SET_BUDGET (15 R461, R432). -/
def execPwrSetBudget (via : Via) (s : State) : Res := .next (s.command 0x0F01 via State.pwrSetBudget)

/-- PWR_ENERGY_QUERY (15 R461). -/
def execPwrEnergyQuery (via : Via) (s : State) : Res := .next (s.command 0x0F02 via State.pwrEnergyQuery)

/-- PWR_ENERGY_RELEASE (15 R458, R461). -/
def execPwrEnergyRelease (via : Via) (s : State) : Res := .next (s.command 0x0F03 via State.pwrEnergyRelease)

/-- PWR_FORCE_MIN (15 R449, R461). -/
def execPwrForceMin (via : Via) (s : State) : Res := .next (s.command 0x0F04 via State.pwrForceMin)

/-- PWR_COOL_CLEAR (15 R449, R461). -/
def execPwrCoolClear (via : Via) (s : State) : Res := .next (s.command 0x0F05 via State.pwrCoolClear)

/-- PWR_RESUME (15 R448, R461). -/
def execPwrResume (via : Via) (s : State) : Res := .next (s.command 0x0F06 via State.pwrResume)

/-- PWR_WEAR_SAVE (15 R460, R461). -/
def execPwrWearSave (via : Via) (s : State) : Res := .next (s.command 0x0F07 via State.pwrWearSave)

end Sys2Proof.Machine
end

