-- ==== Sys2Proof/Machine/Views.lean ====
section
/-!
DEFINITION. Machine/Views.lean: what a read of a register returns: stored fields, fields that show other state, and what a read clears or
latches (00 R5, R11-R13, 17 R507; 03 R82, 04 R112, 05 R149, 06 R179, 07 R211, 08 R239, 09 R277, 12 R366, 13 R404, 15 R464, 16 R503, 17 R532).
-/

namespace Sys2Proof.Machine

/-- Registers shared by the FAB windows are kept in the first one (13 R404). -/
def canonReg (a : Nat) : Nat :=
  if 0x600000 ≤ a ∧ a < 0x700000 ∧ (a % 0x40000 < 0x50 ∨ 0x10000 ≤ a % 0x40000) then 0x600000 + a % 0x40000 else a

namespace State

/-- An address lies in a window that reads as zero and ignores writes: of an absent stack site or I/O die (00 R5), or of a disabled core,
its capability entry apart (09 R272). -/
def absentReg (s : State) (a : Nat) : Bool :=
  match placeOf a with
  | none => false
  | some p => match p.blk with
    | .mem => s.rd PKG_CONFIG fPKG_CONFIG_STACKMAP / 2 ^ p.copy % 2 = 0
    | .fab => s.rd PKG_CONFIG fPKG_CONFIG_IOMAP / 2 ^ p.copy % 2 = 0
    | .core => !s.coreOn p.copy && !(decide (0x6000 ≤ p.off) && decide (p.off < 0x6018))
    | _ => false

/-- ME_STATUS (03 R82). DESIGN CHOICES (log entry 12): after a GANG MMUL, ME0 to ME2 show its TILE as LTILE, and the count, levels and owner of
their own tile TILE modulo 2; WBn_VALID shows 0 while another MWLD into the buffer waits or runs. -/
def viewMe (s : State) (b e : Nat) : Nat :=
  let c := s.core b
  let lt := c.lastTile.getD e 0
  let ti := tileIdx e lt
  let t := c.tile ti
  let occ := c.acc.occ.filter fun k => k / 32768 = ti
  let locc := (List.range 3).foldl (fun m k => if occ.any fun x => x % 4 = k then m + 2 ^ k else m) 0
  let loading := fun n => c.jobs.any fun j => j.kind = .mwld && (engs j.word).contains e && wbufOf j = n
  let bufs := [0, 1].foldl (fun m n =>
    let w := c.wb e n
    m + (if w.loaded then w.fmt % 16 * 2 ^ (16 + 4 * n) + w.acc % 4 * 2 ^ (12 + 2 * n) else 0)
      + (if loading n then 2 ^ (10 + n) else 0) + (if w.valid && !loading n then 2 ^ (8 + n) else 0)) 0
  let busy := c.jobs.any fun j => (j.kind = .mwld || j.kind = .mmul) && (engs j.word).contains e
  t.count % 2048 * 2 ^ 33 + locc * 2 ^ 30 + (if t.count = 0 then 0 else t.depth % 4) * 2 ^ 28 + lt % 16 * 2 ^ 24 + bufs
    + t.owner % 4 * 2 ^ 6 + (if busy then 1 else 0)

/-- ME_TEV_LO (half 0) and ME_TEV_HI (half 1): event bytes of tiles (03 R82); ME0 to ME2 have two tiles (03 R55, 04 R84). -/
def viewTev (s : State) (b e half : Nat) : Nat :=
  (List.range 8).foldl (fun m k =>
    let t := 8 * half + k
    if e = 3 || t < 2 then m + ((s.core b).tile (tileIdx e t)).tev % 256 * 2 ^ (8 * k) else m) 0

/-- DR_STATUS (04 R112): a side port is held by what no earlier operation keeps waiting (04 R91). -/
def viewDr (s : State) (b : Nat) : Nat :=
  let c := s.core b
  [0, 1, 2, 3].foldl (fun m e =>
    m + (if (hookJob c e).isSome then 2 ^ (8 + e) else 0)
      + (if c.jobs.any fun j => (winPorts j).contains e && c.mayEnd j then 2 ^ (4 + e) else 0)
      + (if c.jobs.any fun j => (j.kind = .drain || j.kind = .accld) && drEng j.word = e && c.mayEnd j then 2 ^ e else 0)) 0

/-- DM_STATUS (07 R211): a DMOV of a stream waits while eight moves execute (R195). -/
def viewDm (s : State) (b : Nat) : Nat :=
  let c := s.core b
  let waits := fun i => s.stState b i = stRun && match s.head b i with
    | .ok h => opc h.word = 0x60 && s.unitBusy b i h.word
    | _ => false
  min 255 c.probes.length * 2 ^ 16 + (c.jobs.filter fun j => j.kind = .dmov).length % 16 * 2 ^ 12
    + [1, 2, 3].foldl (fun m i => if waits i then m + 2 ^ (i - 1) else m) 0

/-- SS_STATUS: sixteen bits a slot (05 R149). -/
def viewSs (s : State) (b : Nat) : Nat :=
  (List.range 4).foldl (fun m k =>
    let x := (s.core b).side.getD k SideSlot.reset
    if x.used then
      m + ((if x.bound then 2 ^ 15 else 0) + x.stream % 4 * 2 ^ 13 + x.eng % 4 * 2 ^ 11 + x.tile % 16 * 2 ^ 7 + (if x.done then 2 ^ 6 else 0)) * 2 ^ (16 * k)
    else m) 0

/-- The oldest instruction in the vector engine waits for a window read that an earlier operation holds (04 R91, 06 R172). -/
def waitsInput (c : CoreSt) (j : Job) : Bool :=
  let rd := winTiles (veReads j.word (BitVec.ofNat 64 (j.prog.getD 0 0)) j.args)
  c.jobs.any fun e => decide (e.ord < j.ord) && (meet rd e.tiles || meet (portsOf rd) e.ports)

/-- VE_STATUS (06 R179): of the oldest instruction in the unit; its rows run at its completion, so that all of them are left before. A hook row
is taken and returned in one command, so that none is in flight between commands (log entry 3). -/
def viewVe (s : State) (b : Nat) : Nat :=
  let c := s.core b
  match c.jobs.find? fun j => j.kind = .ve with
  | none => 0
  | some j =>
    (veSlot j.word).getD 0 % 32 * 2 ^ 35 + (opc j.word - 0x51) % 8 * 2 ^ 32 + min 0xFFFFFF (j.args.getD 1 0) * 2 ^ 8
      + j.iss.stream % 4 * 2 ^ 6 + (if waitsInput c j then 2 ^ 4 else 0) + 1

/-- Bit i of HIF_CORE_FAULTk: core 64k + i has an event bit of 17 R517 set (17 R532). -/
def viewCoreFault (s : State) (k : Nat) : Nat :=
  (List.range 64).foldl (fun m i =>
    let b := 64 * k + i
    if b < 288 && ((s.reg (SQ_EVENTS b)) &&& 0x37#64) ≠ 0#64 then m + 2 ^ i else m) 0

/-- Milliseconds since the last accepted cooling report (15 R464). -/
def viewCoolAge (s : State) : Nat :=
  match s.pwr.reports.head? with
  | some r => min 0xFFFF ((s.beat - r.1) / ms)
  | none => 0xFFFF

/-- Eight bytes of the journal at an offset from 0x8_0000 of PKG (16 R492). -/
def viewJournal (s : State) (o : Nat) : Nat :=
  ofLeBytes (((s.jnlAt (o / 64)).bytes.drop (o % 64 / 8 * 8)).take 8)

/-- A register's word as a read of it shows it. -/
def view (s : State) (a : Nat) : Nat :=
  let w := (s.reg a).toNat
  match placeOf a with
  | none => 0
  | some p =>
    let o := p.off
    match p.blk with
    | .core =>
      let b := p.copy
      if 0x1000 ≤ o && o < 0x1400 then
        let e := (o - 0x1000) / 0x100
        match o % 0x100 with
        | 0x08 => s.viewMe b e
        | 0x18 => s.viewTev b e 0
        | 0x20 => s.viewTev b e 1
        | _ => w
      else if o = 0x1408 then s.viewDr b
      else if o = 0x1808 then s.viewDm b
      else if o = 0x2900 then s.viewSs b
      else if o = 0x4008 then s.viewVe b
      else if o = 0x130 || o = 0x230 || o = 0x330 then s.viewWait b (o / 0x100)
      else w
    | .sync =>
      if o < 0x40000 && o % 16 = 8 then (fset (s.reg a) fTS_STATE_MET (if s.met (o / 16) then 1 else 0)).toNat
      else if a = DIR_INFL then min 0xFFFF ((s.dir.cache.filter fun e => decide (0 < e.infl)).length) + min 0xFFF s.dir.ovf * 2 ^ 16
      else w
    | .hif => match (List.range 5).find? fun k => a = HIF_CORE_FAULT k with
      | some k => s.viewCoreFault k
      | none => w
    | .pwr => if a = PWR_COOL_STAT then (fset (s.reg a) fPWR_COOL_STAT_AGE s.viewCoolAge).toNat else w
    | .pkg => if 0x80000 ≤ o then s.viewJournal (o - 0x80000) else w
    | _ => w

/-- The fields of an access code that lie wholly within bits [hi:lo] of a register, as a mask (00 R11, R13). -/
def fieldsIn (a hi lo : Nat) (l : List Acc) : Nat :=
  match regAt a with
  | none => 0
  | some r => r.reg.fields.foldl (fun m f =>
      if l.contains f.acc && decide (lo ≤ f.f.lo) && decide (f.f.hi ≤ hi) then Nat.lor m (f.f.at (2 ^ f.f.width - 1)) else m) 0

/-- Bits of a register set to 0. -/
def clearBits (s : State) (a m : Nat) : State := s.setReg a (s.reg a &&& ~~~(BitVec.ofNat 64 m))

/-- Cycle counts that timing decides move on before a read (log entry 6). -/
def freshen (s : State) (a : Nat) : State :=
  match placeOf a with
  | some p =>
    if p.blk = .core && [0x148, 0x248, 0x348].contains p.off then s.bumpFree a fSQS_WAITCYC_COUNT
    else match (List.range 12).find? fun z => a = TIME_ZCYC z with
      | some _ => s.bumpFree a fTIME_ZCYC_CYCLES
      | none => s
  | none => s

/-- Bits [hi:lo] of one register read: their value, fields cleared by the read cleared (00 R11, R13). -/
def readPart (s : State) (a hi lo : Nat) : State × Nat :=
  let s := s.freshen a
  (s.clearBits a (fieldsIn a hi lo [.rc]), s.view a % 2 ^ (hi + 1) / 2 ^ lo)

/-- The 32 bits at a 4-aligned address: a 32-bit register, or half of a 64-bit one, 0 where no register lies (00 R13). A read of the low half
of TIME_BEAT latches its high half (08 R239). -/
def read32 (s : State) (addr : Nat) : State × Nat :=
  let a := canonReg addr
  if s.absentReg addr then (s, 0)
  else if 0x80000 ≤ a && a < 0x100000 then (s, s.viewJournal (a / 8 * 8 - 0x80000) / 2 ^ (32 * (a / 4 % 2)) % 2 ^ 32)
  else match regAt a with
    | some r =>
      let s := if a = TIME_BEAT then s.wr TIME_BEAT_HIL fTIME_BEAT_HIL_HI (s.beat / 2 ^ 32) else s
      if r.reg.size = 0 then (s, 0) else s.readPart a 31 0
    | none =>
      if a % 8 = 4 then
        match regAt (a - 4) with
        | some r => if r.reg.size = 64 then s.readPart (a - 4) 63 32 else (s, 0)
        | none => (s, 0)
      else (s, 0)

/-- A read of 4 or 8 naturally aligned bytes (00 R13, 17 R507). -/
def readReg (s : State) (addr size : Nat) : State × Nat :=
  let a := canonReg addr
  if size = 4 then s.read32 addr
  else if s.absentReg addr then (s, 0)
  else match regAt a with
    | some r =>
      if r.reg.size = 64 then s.readPart a 63 0
      else
        let l := s.readPart a 31 0
        let h := l.1.read32 (addr + 4)
        (h.1, l.2 + h.2 * 2 ^ 32)
    | none =>
      let l := s.read32 addr
      let h := l.1.read32 (addr + 4)
      (h.1, l.2 + h.2 * 2 ^ 32)

/-- A request of BAR0 that no register access answers (17 R507). -/
def frameErr (s : State) : State :=
  (s.bump HIF_FRAME_ERR fHIF_FRAME_ERR_COUNT 1).raise HIF_EVENTS fHIF_EVENTS_FRAME_ERR

/-- BAR0 accepts 4 or 8 bytes, naturally aligned (17 R507). -/
def barShape (addr size : Nat) : Bool := (size = 4 || size = 8) && addr % size = 0 && decide (addr < 2 ^ 26)

/-- The host port answers (16 R482, 18 R540). -/
def hostUp (s : State) : Bool := s.pkState ≠ pkReset

/-- A BAR0 read (17 R507). -/
def barRead (s : State) (addr size : Nat) : State :=
  if !s.hostUp then s
  else if barShape addr size then
    let r := s.readReg addr size
    r.1.emit (.value addr r.2)
  else (s.frameErr).emit (.pcie 1 [])

end State

/-- TIME_BEAT_READ (08 R239): a BAR0 read of 4 or 8 bytes of TIME_BEAT. -/
def execTimeBeatRead (size : Nat) (s : State) : Res := .next (s.barRead TIME_BEAT size)

/-- REGISTER_READ_CLEAR (00 R11, R13, 17 R507): a BAR0 read of a register; fields that a read clears are cleared. -/
def execRegisterReadClear (addr size : Nat) (s : State) : Res := .next (s.barRead addr size)

end Sys2Proof.Machine
end

