-- ==== Sys2Proof/Machine/RegWrite.lean ====
section
/-!
DEFINITION. Machine/RegWrite.lean: register writes: access codes, expert level and its journal (00 R6, R11, 16 R487-R489, 17 R507), limits that a
write stores, registers writable only in some states, and what a write does beside storing its fields.
-/

namespace Sys2Proof.Machine

/-- The turnstile whose TS_INC lies at an address (09 R277). -/
def tsIncAt (a : Nat) : Option Nat := if 0x700000 ≤ a ∧ a < 0x740000 ∧ a % 16 = 12 then some ((a - 0x700000) / 16) else none

/-- A field held at least at a limit, or at most. -/
def atLeast (w : Word) (f : Fld) (n : Nat) : Word := if fget w f < n then fset w f n else w
def atMost (w : Word) (f : Fld) (n : Nat) : Word := if n < fget w f then fset w f n else w

/-- What a written word is stored as (07 R211, 08 R240, 11 R343, 12 R366, 13 R404, 15 R464, 17 R532). -/
def limited (a : Nat) (w : Word) : Word :=
  match placeOf a with
  | none => w
  | some p => match p.blk with
    | .core => if p.off = 0x1800 then atMost w fDM_CTRL_RATICKS 2 else w
    | .time => if a = TIME_SERVO_CFG then atLeast w fTIME_SERVO_CFG_HOLD_MAX 8 else w
    | .mem => if p.off = 0x80 then atMost w fMEM_CACHE_CFG_PROTW 16 else w
    | .fab => if a = FAB_THRESH then atLeast (atLeast (atLeast w fFAB_THRESH_SER_THR 1) fFAB_THRESH_UNC_THR 1) fFAB_THRESH_RETRY_THR 1 else w
    | .pwr =>
      if a = PWR_DROOP_CFG then
        let w := if fget w fPWR_DROOP_CFG_DTHR1 = 0 then fset w fPWR_DROOP_CFG_DTHR1 5 else w
        if fget w fPWR_DROOP_CFG_DTHR2 = 0 then fset w fPWR_DROOP_CFG_DTHR2 5 else w
      else w
    | .sync =>
      if a = DIR_TMO then atLeast (atLeast (atLeast w fDIR_TMO_STACK 100) fDIR_TMO_FAR 100) fDIR_TMO_REMOTE 100 else w
    | .hif =>
      if a = HIF_BAR2 then atMost w fHIF_BAR2_BASE 2559
      else if a = HIF_TMO then atLeast (atLeast w fHIF_TMO_BAR2 100) fHIF_TMO_DMA 1
      else if a = HIF_SQ then atMost (atLeast w fHIF_SQ_LOG2 4) fHIF_SQ_LOG2 12
      else if a = HIF_CQ then atMost (atLeast w fHIF_CQ_LOG2 4) fHIF_CQ_LOG2 12
      else w
    | _ => w

/-- A field's bits in place. -/
def Fld.bits (f : Fld) : Nat := f.at (2 ^ f.width - 1)

namespace State

/-- Bits of a register that no write changes now (09 R276, 12 R366, 17 R513). -/
def heldBits (s : State) (a : Nat) : Nat :=
  match placeOf a with
  | none => 0
  | some p =>
    let o := p.off
    match p.blk with
    | .core =>
      if decide (0x100 ≤ o) && decide (o < 0x400) && [0x00, 0x08, 0x0C].contains (o % 0x100) then (if s.stState p.copy (o / 0x100) = stRun then 2 ^ 64 - 1 else 0)
      else if 0x400 ≤ o && o < 0x700 then
        (if s.stState p.copy ((o - 0x400) / 0x100 + 1) = stRun || o % 0x100 = 0 then 2 ^ 64 - 1 else 0)
      else 0
    | .sync => if a = DIR_BASE && s.on DIR_CTRL fDIR_CTRL_EN then 2 ^ 64 - 1 else 0
    | .hif =>
      if !s.on HIF_CTRL fHIF_CTRL_CQEN then 0
      else if a = HIF_SQ_BASE || a = HIF_CQ_BASE then 2 ^ 64 - 1
      else if a = HIF_SQ then fHIF_SQ_LOG2.bits
      else if a = HIF_CQ then fHIF_CQ_LOG2.bits
      else 0
    | _ => 0

/-- HIF_CTRL.CQEN has changed (17 R513). -/
def queuesChanged (s : State) : State :=
  if s.on HIF_CTRL fHIF_CTRL_CQEN then
    ((((s.wr HIF_SQ fHIF_SQ_HEAD 0).wr HIF_SQ fHIF_SQ_TAIL 0).wr HIF_CQ fHIF_CQ_HEAD 0).wr HIF_CQ fHIF_CQ_TAIL 0).wr HIF_CQ fHIF_CQ_PHASE 1
  else
    s.modPkg fun p => { p with
      comps := p.comps.filter fun c => c.cls ≠ 1
      cmds := p.cmds.map fun c => if c.cls = 1 then { c with quiet := true } else c }

/-- The directory range and what was cached of it cleared (12 R364). -/
def clearDir (s : State) : State :=
  let b := s.rd DIR_BASE fDIR_BASE_BASE * 2 ^ 26
  let site := b / 2 ^ 38
  let s := s.modMem fun m => { m with stack := m.stack.filter fun c => !(decide (b ≤ c.1) && decide (c.1 < b + 2 ^ 26)) }
  let s := s.dropLines fun l => decide (b ≤ l.site * 2 ^ 38 + l.line * 64) && decide (l.site * 2 ^ 38 + l.line * 64 < b + 2 ^ 26)
  let s := (List.range (2 ^ 20)).foldl (fun s k => s.lineClean site (b % 2 ^ 38 / 64 + k)) s
  s.modDir fun d => { d with cache := [], lostSeen := [] }

/-- DIR_CTRL.EN has been written (12 R349, R364). -/
def dirEnabled (s : State) (was : Bool) : State :=
  if was || !s.on DIR_CTRL fDIR_CTRL_EN then s
  else if s.rd DIR_STATUS fDIR_STATUS_STATE = 2 then s.clearDir.wr DIR_STATUS fDIR_STATUS_STATE 1
  else s.wr DIR_STATUS fDIR_STATUS_STATE (if s.dirMapped then 1 else 0)

/-- The check of a micro-program slot (06 R156). -/
def checkSlot (s : State) (b n : Nat) : State :=
  let us := (List.range 32).map fun k => (s.reg (VE_UOP b (32 * n + k))).toNat
  s.wr (VE_SLOT_CFG b n) fVE_SLOT_CFG_BAD (if (slotCheck (s.reg (VE_SLOT_CFG b n)) us).isSome then 1 else 0)

/-- The residual skews as last measured, which a rerun of the aligner measures again (08 R220; log entry 60). -/
def lastSkews (s : State) : List Int := (List.range 16).map fun x => toInt 7 (s.rd (TIME_XING x) fTIME_XING_SKEW)

/-- Every port of a list fails (13 R399). -/
def failPorts (s : State) (l : List Nat) : State := l.foldl (fun s p => s.portFail p) s

/-- A core register has been written (06 R156, 07 R203). -/
def coreAfter (s : State) (b o a : Nat) : State :=
  if o = 0x1800 then (if s.rd a fDM_CTRL_RATICKS = 0 then s.cancelProbes b fun _ => true else s)
  else if 0x4100 ≤ o && o < 0x4200 then s.checkSlot b ((o - 0x4100) / 8)
  else if 0x4200 ≤ o && o < 0x4400 then s.wr (VE_SLOT_CFG b ((o - 0x4200) / 16)) fVE_SLOT_CFG_BAD 1
  else if 0x4400 ≤ o && o < 0x5400 then s.wr (VE_SLOT_CFG b ((o - 0x4400) / 128)) fVE_SLOT_CFG_BAD 1
  else s

/-- A PWR register has been written (15 R432, R433, R444, R449, R460). -/
def pwrAfter (s : State) (a : Nat) : State :=
  if a = PWR_CTRL then s.checkForced
  else if a = PWR_BUDGET then s.writeBudget (s.rd PWR_BUDGET fPWR_BUDGET_WATTS)
  else if a = PWR_BSTEP_LVL_LO || a = PWR_BSTEP_LVL_HI then
    (s.wr PWR_BSTEP fPWR_BSTEP_LEVEL (s.stepLevel (s.rd PWR_BSTEP fPWR_BSTEP_CODE))).setEff
  else if a = PWR_MARGIN_CFG then
    (List.range 12).foldl (fun s z =>
      if s.on PWR_STATUS fPWR_STATUS_START_MARGIN || (s.zoneCores z).isEmpty then
        (s.wr (PWR_ZMARGIN z) fPWR_ZMARGIN_BASE (s.rd PWR_MARGIN_CFG fPWR_MARGIN_CFG_MSTART)).setZoneV z
      else s) s
  else if a = PWR_WEAR then s.showWear
  else s

/-- What a write of a register does beside storing its fields; `was` is its word before, `m` the bits that the write covered. -/
def afterWrite (s : State) (a : Nat) (was : Word) (m : Nat) (skews : List Int) : State :=
  match placeOf a with
  | none => s
  | some p => match p.blk with
    | .core => s.coreAfter p.copy p.off a
    | .time =>
      if a = TIME_CTRL && s.on a fTIME_CTRL_ALIGN then (s.wr a fTIME_CTRL_ALIGN 0).align (if skews.isEmpty then s.lastSkews else skews) else s
    | .pwr => s.pwrAfter a
    | .mem => if p.off = 0 && m % 2 = 1 then s.cenCleared p.copy else if p.off = 0x80 && m % 32 ≠ 0 then s.protWritten p.copy else s
    | .ud => s.udAfter a
    | .fab =>
      if a = FAB_CTRL then (if s.on a fFAB_CTRL_EN then s else s.failPorts (List.range 16))
      else if 0x600000 + 0x10000 ≤ a && a < 0x640000 then s.sendOrphans
      else match (List.range 16).find? fun q => a = fpCtrl q with
        | some q => if s.on a fFP_CTRL_EN then s else s.portFail q
        | none => s
    | .sync => if a = DIR_CTRL then s.dirEnabled (fget was fDIR_CTRL_EN = 1) else s
    | .hif => if a = HIF_CTRL && (s.reg a) ≠ was then s.queuesChanged else s
    | _ => s

/-- An increment that a host write names (09 R260, R277). -/
def hostInc (s : State) (ts v : Nat) : State :=
  { s with incs := s.incs ++ [⟨ts % 2 ^ 14, v % 2 ^ 24, v / 2 ^ 24 % 256, s.node⟩] }

/-- A write of TS_INC, or of a turnstile doorbell: it needs TSINC (16 R487, 17 R507, R512). -/
def writeInc (s : State) (cls ts v : Nat) : State :=
  if s.holds cls 12 then s.hostInc ts v else s.bump PKG_PERM_DENY fPKG_PERM_DENY_COUNT 1

/-- The write of an expert field journaled, and counted when refused (16 R489). -/
def expertRecord (s : State) (cls off v : Nat) (ok : Bool) : State :=
  let s := if cls = 7 then s else s.jnlRegWrite off v ok
  if ok then s else (s.bump PKG_XW_DENY fPKG_XW_DENY_COUNT 1).raise PKG_EVENTS fPKG_EVENTS_XW_DENIED

/-- A TAIL written beyond the queue is ignored and counted (17 R513). -/
def tailBad (a m : Nat) (new : Word) : Bool :=
  a = HIF_SQ && decide (m % 2 ^ 16 ≠ 0) && decide (2 ^ fget new fHIF_SQ_LOG2 ≤ fget new fHIF_SQ_TAIL)

/-- The bits `m` of one register take those of `v` as the access codes of its fields permit (00 R11). -/
def writePart (s : State) (cls addr a v m : Nat) (skews : List Int) : State :=
  let xw := Nat.land (accMask a [.xw]) m
  let ok := s.holds cls 11
  let s := if xw = 0 then s else s.expertRecord cls addr (v / (if addr = a then 1 else 2 ^ 32)) ok
  let rw := Nat.land (Nat.lor (accMask a [.rw]) (if ok then accMask a [.xw] else 0)) m
  let rw := rw - Nat.land rw (s.heldBits a)
  let w1c := Nat.land (Nat.land (accMask a [.w1c]) m) v
  let was := s.reg a
  let mw := BitVec.ofNat 64 rw
  let new := (was &&& ~~~mw) ||| (BitVec.ofNat 64 v &&& mw)
  let new := if rw = 0 then new else limited a new
  let bad := tailBad a rw new
  let new := if bad then fset new fHIF_SQ_TAIL (fget was fHIF_SQ_TAIL) else new
  let s := s.setReg a (new &&& ~~~(BitVec.ofNat 64 w1c))
  let s := if bad then s.frameErr else s
  let s := match vectorOf a with
    | some q => if Nat.land (accMask a [.w1c]) m ≠ 0 && s.summary q.1 then s.sendMsi q.1 else s
    | none => s
  if rw = 0 then s else s.afterWrite a was rw skews

/-- A write of the 32 bits at a 4-aligned address (00 R13). -/
def write32 (s : State) (cls addr v : Nat) (skews : List Int) : State :=
  let a := canonReg addr
  if s.absentReg addr then s
  else match tsIncAt a with
    | some ts => s.writeInc cls ts v
    | none => match regAt a with
      | some _ => s.writePart cls addr a v (2 ^ 32 - 1) skews
      | none =>
        if a % 8 = 4 then
          match regAt (a - 4) with
          | some r => if r.reg.size = 64 then s.writePart cls addr (a - 4) (v * 2 ^ 32) (2 ^ 64 - 2 ^ 32) skews else s
          | none => s
        else s

/-- A write of 4 or 8 naturally aligned bytes (00 R13, 17 R507). -/
def writeReg (s : State) (cls addr size v : Nat) (skews : List Int) : State :=
  let a := canonReg addr
  let two := (s.write32 cls addr (v % 2 ^ 32) skews).write32 cls (addr + 4) (v / 2 ^ 32 % 2 ^ 32) skews
  if size = 4 then s.write32 cls addr (v % 2 ^ 32) skews
  else if s.absentReg addr then s
  else match regAt a with
    | some r => if r.reg.size = 64 then s.writePart cls addr a v (2 ^ 64 - 1) skews else two
    | none => two

/-- A BAR0 write of a port class (17 R507). -/
def barWrite (s : State) (cls addr size v : Nat) (skews : List Int) : State :=
  if !s.hostUp then s
  else if barShape addr size then s.writeReg cls addr size v skews
  else s.frameErr

end State

/-- REGISTER_WRITE (00 R11, 17 R507): a BAR0 write of a register. -/
def execRegisterWrite (addr size value : Nat) (s : State) : Res := .next (s.barWrite 1 addr size value [])

/-- TS_INC (09 R277). -/
def execTsInc (ts value : Nat) (s : State) : Res := .next (s.barWrite 1 (TS_INC (ts % 2 ^ 14)) 4 value [])

/-- TS_COUNT_WRITE (09 R277). -/
def execTsCountWrite (ts value : Nat) (s : State) : Res := .next (s.barWrite 1 (TS_COUNT (ts % 2 ^ 14)) 4 value [])

/-- TS_TARGET_WRITE (09 R277). -/
def execTsTargetWrite (ts value : Nat) (s : State) : Res := .next (s.barWrite 1 (TS_TARGET (ts % 2 ^ 14)) 4 value [])

/-- VE_SLOT_CFG_WRITE (06 R156). -/
def execVeSlotCfgWrite (core slot value : Nat) (s : State) : Res := .next (s.barWrite 1 (VE_SLOT_CFG (core % 288) (slot % 32)) 8 value [])

/-- VE_SLOT_CONTENT_WRITE (06 R156): a constant (k from 0 to 3) or a micro-op (4 + k for micro-op k) of a slot. -/
def execVeSlotContentWrite (core slot k value : Nat) (s : State) : Res :=
  .next (s.barWrite 1 (if k < 4 then VE_SLOT_C (core % 288) (4 * (slot % 32) + k) else VE_UOP (core % 288) (32 * (slot % 32) + (k - 4) % 32)) 4 value [])

/-- UD_RULE_CFG_WRITE (10 R305). -/
def execUdRuleCfgWrite (die slot value : Nat) (s : State) : Res := .next (s.barWrite 1 (UD_RULE_CFG (die % 2) (slot % 4)) 8 value [])

/-- RATICKS_WRITE (07 R203): a write of DM_CTRL. -/
def execRaticksWrite (core value : Nat) (s : State) : Res := .next (s.barWrite 1 (DM_CTRL (core % 288)) 4 value [])

/-- DIR_CTRL_EN_WRITE (12 R364). -/
def execDirCtrlEnWrite (value : Nat) (s : State) : Res := .next (s.barWrite 1 DIR_CTRL 4 value [])

/-- MEM_CTRL_CEN_WRITE (11 R321). -/
def execMemCtrlCenWrite (site value : Nat) (s : State) : Res := .next (s.barWrite 1 (MEM_CTRL (site % 10)) 4 value [])

/-- TIME_CTRL_ALIGN_WRITE (08 R240): a write of TIME_CTRL, with the skews that the aligner measures when it runs. -/
def execTimeCtrlAlignWrite (value : Nat) (skews : List Int) (s : State) : Res := .next (s.barWrite 1 TIME_CTRL 4 value skews)

/-- UD_RECBASE_FIRST_WRITE (10 R311): a write of UD_RECBASE. -/
def execUdRecbaseFirstWrite (die value : Nat) (s : State) : Res := .next (s.barWrite 1 (UD_RECBASE (die % 2)) 8 value [])

/-- HIF_BAR2_WRITE (17 R509). -/
def execHifBar2Write (value : Nat) (s : State) : Res := .next (s.barWrite 1 HIF_BAR2 8 value [])

/-- SUBMISSION_DOORBELL (17 R512, R513): bits [15:0] go to HIF_SQ.TAIL. -/
def execSubmissionDoorbell (value : Nat) (s : State) : Res :=
  .next (if !s.hostUp then s else
    let t := value % 2 ^ 16
    if 2 ^ s.rd HIF_SQ fHIF_SQ_LOG2 ≤ t then s.frameErr else s.wr HIF_SQ fHIF_SQ_TAIL t)

/-- TURNSTILE_DOORBELL (17 R512): a 32-bit write at offset 4 * index of a page from 1 to 239. -/
def execTurnstileDoorbell (page index value : Nat) (s : State) : Res :=
  .next (
    let a := HIF_DBMAP (page - 1)
    if !s.hostUp || page = 0 || 239 < page || 63 < index then s
    else if !s.on a fHIF_DBMAP_EN then s.frameErr
    else s.writeInc 1 (s.rd a fHIF_DBMAP_BASE / 64 * 64 + index) value)

/-- CQ_HEAD_WRITE (17 R513): the host writes HIF_CQ.HEAD. -/
def execCqHeadWrite (value : Nat) (s : State) : Res := .next (s.barWrite 1 HIF_CQ 4 (value % 2 ^ 16) [])

/-- CQEN_WRITE (17 R513, R516): the host writes HIF_CTRL; Bus Master Enable is as the host has programmed it by then (log entry 61). -/
def execCqenWrite (value : Nat) (bme : Bool) (s : State) : Res :=
  .next (if !s.hostUp then s else (s.wr HIF_STATUS fHIF_STATUS_BME (if bme then 1 else 0)).barWrite 1 HIF_CTRL 4 value [])

/-- MSIX_UNMASK (17 R518): the host programs the mask bit of a vector and MSI-X Enable; unmasking sends what is pending. -/
def execMsixUnmask (vec : Nat) (enable mask : Bool) (s : State) : Res :=
  .next (if !s.hostUp then s else
    let m := if mask then setIns vec s.msix.masked else s.msix.masked.filter fun x => x ≠ vec
    let s := { s with msix := { s.msix with enabled := enable, masked := m } }
    let go := s.msix.pend.filter fun v => enable && !m.contains v
    go.foldl (fun s v => s.emit (.msix v)) { s with msix := { s.msix with pend := s.msix.pend.filter fun v => !go.contains v } })

end Sys2Proof.Machine
end

