-- ==== Sys2Proof/Machine/MemCmds.lean ====
section
/-!
DEFINITION. Machine/MemCmds.lean: the firmware commands on stack sites and update-die modules (11 R342) and on the tensor directory
(12 R352, R356).
-/

namespace Sys2Proof.Machine

/-- Refusal statuses of tables 0x0B and 0x0C (16 R490); DIR_DISABLED and DIR_FENCED have no number there (log entry 30). -/
def stMemNotLive : Nat := 0x0B01
def stMemBusy : Nat := 0x0B02
def stDirExists : Nat := 0x0C01
def stDirBadEntry : Nat := 0x0C02
def stDirNoEntry : Nat := 0x0C03
def stDirState : Nat := 0x0C04
def stDirPinned : Nat := 0x0C05
def stDirDisabled : Nat := Config.statusCode 40
def stDirFenced : Nat := Config.statusCode 41

namespace State

/-- A stack site is populated (00 R5). -/
def siteHere (s : State) (site : Nat) : Bool := decide (site < 10) && s.rd PKG_CONFIG fPKG_CONFIG_STACKMAP / 2 ^ site % 2 = 1

/-- The populated sites that a mask names (11 R342). -/
def maskSites (s : State) (m : Nat) : List Nat := (List.range 10).filter fun x => m / 2 ^ x % 2 = 1 && s.siteHere x

/-- MEM_QUERY: MEM_STATUS, MEM_RANGE and the three channel maps; an absent site reads as zero (11 R342, 00 R5). -/
def memQuery (a : List Nat) (s : State) : State × Ans :=
  let x := a.headD 0
  s.answered (if s.siteHere x then s.regWords [MEM_STATUS x, MEM_RANGE x, MEM_CH_LIVE x, MEM_CH_FENCED x, MEM_CH_OUT x] else [0, 0, 0, 0, 0])

/-- MEM_FENCE (11 R330, R342). -/
def memFence (a : List Nat) (s : State) : State × Ans :=
  let x := a.headD 0
  let c := a.getD 1 0
  if !s.siteHere x then (s, .done 0 [])
  else if 32 ≤ c || s.rd (MEM_CH_LIVE x) fMEM_CH_LIVE_MAP / 2 ^ c % 2 = 0 then s.refuse stMemNotLive
  else (s.fenceSite x c 4, .done 0 [])

/-- MEM_COMPACT (11 R331, R342): done once the compaction has begun. -/
def memCompact (a : List Nat) (s : State) : State × Ans :=
  let x := a.headD 0
  if !s.siteHere x then (s, .done 0 [])
  else if s.on (MEM_STATUS x) fMEM_STATUS_COMPACTING then s.refuse stMemBusy
  else (s.compactStart x, .done 0 [])

/-- MEM_CACHE_RELEASE (11 R342): kept and counted lines become unprotected. -/
def memRelease (a : List Nat) (s : State) : State × Ans :=
  let l := s.maskSites (a.headD 0)
  (s.modMem fun m => { m with cache := m.cache.map fun x => if l.contains x.site && x.kind.prot then { x with kind := .ordinary } else x }, .done 0 [])

/-- MEM_CACHE_FLUSH (11 R342). -/
def memFlush (a : List Nat) (s : State) : State × Ans :=
  let l := s.maskSites (a.headD 0)
  (s.dropLines fun x => l.contains x.site, .done 0 [])

/-- PT_QUERY: PT_STATUS, PT_RANGE and the registers of the four channels (11 R342). -/
def ptQuery (a : List Nat) (s : State) : State × Ans :=
  let d := a.headD 0
  s.answered (if d < 2 then s.regWords ([PT_STATUS d, PT_RANGE d] ++ (List.range 4).map fun c => PT_CH_INFO d c) else [0, 0, 0, 0, 0, 0])

/-- PT_FENCE (11 R330, R339, R342). -/
def ptFence (a : List Nat) (s : State) : State × Ans :=
  let d := a.headD 0
  let c := a.getD 1 0
  if 2 ≤ d then (s, .done 0 [])
  else if 4 ≤ c || s.rd (PT_CH_INFO d c) fPT_CH_INFO_STATE ≠ 0 || s.dieRange d = 0 then s.refuse stMemNotLive
  else (s.fenceDie d c 4, .done 0 [])

/-- PT_COMPACT (11 R339, R342). -/
def ptCompact (a : List Nat) (s : State) : State × Ans :=
  let d := a.headD 0
  if 2 ≤ d then (s, .done 0 [])
  else if s.on (PT_STATUS d) fPT_STATUS_COMPACTING || s.on (UD_STATUS d) fUD_STATUS_WALKING || s.on (UD_STATUS d) fUD_STATUS_HOLDING then
    s.refuse stMemBusy
  else (s.dieCompactStart d, .done 0 [])

/-- An entry as an argument list gives it, reserved bits 0 (12 R350). -/
def entArg (a : List Nat) : List Nat :=
  let w0 := a.getD 0 0
  [w0 - w0 / 2 ^ 48 % 4 * 2 ^ 48 - w0 % 2 ^ 24, a.getD 1 0, a.getD 2 0 % 2 ^ 48, a.getD 3 0]

/-- Word 0 with VALID, STATE and VER set (12 R350). -/
def entStamp (e : List Nat) (valid state ver : Nat) : List Nat := entSet (entSet (entSet e 63 63 valid) 62 61 state) 31 24 ver

/-- A directory command on an entry (12 R356): refused while the directory is off or the line fenced; a walk of the entry under way ends
first, with the entry as it stands. The body has the entry as the command finds it, none where it is neither cached nor readable. -/
def dirCommand (s : State) (id : Nat) (body : State → Option (List Nat) → State × Ans) : State × Ans :=
  if !s.on DIR_CTRL fDIR_CTRL_EN then s.refuse stDirDisabled
  else if 2 ^ 21 ≤ id then s.refuse stBadArgs
  else if s.dirFenced id then s.refuse stDirFenced
  else
    let s := s.walkMovesNow id
    let r := s.entryOf id
    body r.1 r.2

/-- The entry is valid, as far as it can be read. -/
def known (e : Option (List Nat)) : Bool := e.any entValid

/-- A command writes its entry and completes once the write is acknowledged; moves that wait on the entry go on where the command ends the
wait (12 R356). A write that fails leaves the entry as it was: the command fails with DIR_FENCED (DESIGN CHOICE, log entry 63: the spec
names no other status). -/
def entryWritten (s : State) (old : Option (List Nat)) (id : Nat) (e : List Nat) (wakes : Bool) : State × Ans :=
  let w := s.writeEntry id e old.isSome
  if w.2 ≠ rsOk then (w.1, .failed stDirFenced 0 []) else (if wakes then w.1.wakeMoves id else w.1, .done 0 [])

/-- DIR_CREATE (12 R356). -/
def dirCreate (a : List Nat) (s : State) : State × Ans :=
  s.dirCommand (a.headD 0) fun s e =>
    let n := entArg (a.drop 1)
    if known e then s.refuse stDirExists
    else if !s.entOk n then s.refuse stDirBadEntry
    else s.entryWritten (some (e.getD [])) (a.headD 0) (entStamp n 1 entIdle 0) false

/-- DIR_SET (12 R356): an entry that cannot be read becomes valid, IDLE, of version 0 (log entry 63). -/
def dirSet (a : List Nat) (s : State) : State × Ans :=
  s.dirCommand (a.headD 0) fun s e =>
    let n := entArg (a.drop 1)
    match e with
    | none => if !s.entOk n then s.refuse stDirBadEntry else s.entryWritten e (a.headD 0) (entStamp n 1 entIdle 0) false
    | some o =>
      if !entValid o then s.refuse stDirNoEntry
      else if entState o = entMoving then s.refuse stDirState
      else if !s.entOk n then s.refuse stDirBadEntry
      else s.entryWritten e (a.headD 0) (entStamp n 1 (entState o) (entVer o)) false

/-- The in-flight count of an entry (12 R355). -/
def inflOf (s : State) (id : Nat) : Nat := match s.dirEnt id with | some e => e.infl | none => 0

/-- No translation that used an entry is in flight (12 R355). -/
def noMoves (s : State) (id : Nat) : Bool := s.inflOf id = 0 && s.dir.ovf = 0

/-- DIR_DELETE (12 R355, R356). -/
def dirDelete (a : List Nat) (s : State) : State × Ans :=
  let id := a.headD 0
  s.dirCommand id fun s e =>
    if !known e then s.refuse stDirNoEntry
    else if entState (e.getD []) = entMoving then s.refuse stDirState
    else if !s.noMoves id then (s, .waits)
    else s.entryWritten e id (entSet (e.getD []) 63 63 0) false

/-- DIR_QUERY: the entry and its in-flight count (12 R356); an entry that cannot be read shows as zeros. -/
def dirQuery (a : List Nat) (s : State) : State × Ans :=
  let id := a.headD 0
  if !s.on DIR_CTRL fDIR_CTRL_EN then s.refuse stDirDisabled
  else if 2 ^ 21 ≤ id then s.refuse stBadArgs
  else
    let r := s.entryOf id
    let e := r.2.getD []
    r.1.answered ((List.range 4).map (entWord e) ++ [r.1.inflOf id])

/-- DIR_BEGIN_MOVE (12 R356). -/
def dirBeginMove (a : List Nat) (s : State) : State × Ans :=
  let id := a.headD 0
  s.dirCommand id fun s e =>
    let o := e.getD []
    if !known e then s.refuse stDirNoEntry
    else if entState o ≠ entIdle then s.refuse stDirState
    else if entPin o then s.refuse stDirPinned
    else s.entryWritten e id (entSet o 62 61 entMoving) false

/-- DIR_COMMIT_MOVE (12 R356, R357). -/
def dirCommitMove (a : List Nat) (s : State) : State × Ans :=
  let id := a.headD 0
  s.dirCommand id fun s e =>
    let o := e.getD []
    let n := entSet ([entWord o 0, a.getD 1 0, entWord o 2, entWord o 3]) 60 59 (a.getD 2 0 % 4)
    if !known e then s.refuse stDirNoEntry
    else if entState o ≠ entMoving then s.refuse stDirState
    else if 4 ≤ a.getD 2 0 || !s.entOk n then s.refuse stDirBadEntry
    else if !s.noMoves id then (s, .waits)
    else s.entryWritten e id (entStamp n 1 entIdle ((entVer o + 1) % 256)) true

/-- DIR_ABORT_MOVE (12 R356). -/
def dirAbortMove (a : List Nat) (s : State) : State × Ans :=
  let id := a.headD 0
  s.dirCommand id fun s e =>
    let o := e.getD []
    if !known e then s.refuse stDirNoEntry
    else if entState o ≠ entMoving then s.refuse stDirState
    else s.entryWritten e id (entSet o 62 61 entIdle) true

/-- DIR_MARK_LOST (12 R356): of an entry that cannot be read, only VALID and STATE are known afterwards (log entry 63). -/
def dirMarkLost (a : List Nat) (s : State) : State × Ans :=
  let id := a.headD 0
  s.dirCommand id fun s e =>
    let o := e.getD [2 ^ 63, 0, 0, 0]
    if !entValid o then s.refuse stDirNoEntry
    else s.entryWritten e id (entSet o 62 61 entLost) true

/-- DIR_FLUSH (12 R356). -/
def dirFlush (_ : List Nat) (s : State) : State × Ans :=
  if !s.on DIR_CTRL fDIR_CTRL_EN then s.refuse stDirDisabled
  else (s.modDir fun d => { d with cache := d.cache.filter fun e => decide (0 < e.infl) }, .done 0 [])

end State

/-- MEM_QUERY (11 R342). -/
def execMemQuery (via : Via) (s : State) : Res := .next (s.command 0x0B00 via State.memQuery)

/-- MEM_FENCE (11 R342). -/
def execMemFence (via : Via) (s : State) : Res := .next (s.command 0x0B01 via State.memFence)

/-- MEM_COMPACT (11 R342). -/
def execMemCompact (via : Via) (s : State) : Res := .next (s.command 0x0B02 via State.memCompact)

/-- MEM_CACHE_RELEASE (11 R342). -/
def execMemCacheRelease (via : Via) (s : State) : Res := .next (s.command 0x0B03 via State.memRelease)

/-- MEM_CACHE_FLUSH (11 R342). -/
def execMemCacheFlush (via : Via) (s : State) : Res := .next (s.command 0x0B04 via State.memFlush)

/-- PT_QUERY (11 R342). -/
def execPtQuery (via : Via) (s : State) : Res := .next (s.command 0x0B05 via State.ptQuery)

/-- PT_FENCE (11 R342). -/
def execPtFence (via : Via) (s : State) : Res := .next (s.command 0x0B06 via State.ptFence)

/-- PT_COMPACT (11 R342). -/
def execPtCompact (via : Via) (s : State) : Res := .next (s.command 0x0B07 via State.ptCompact)

/-- DIR_CREATE (12 R356). -/
def execDirCreate (via : Via) (s : State) : Res := .next (s.command 0x0C00 via State.dirCreate)

/-- DIR_SET (12 R356). -/
def execDirSet (via : Via) (s : State) : Res := .next (s.command 0x0C01 via State.dirSet)

/-- DIR_DELETE (12 R356). -/
def execDirDelete (via : Via) (s : State) : Res := .next (s.command 0x0C02 via State.dirDelete)

/-- DIR_QUERY (12 R356). -/
def execDirQuery (via : Via) (s : State) : Res := .next (s.command 0x0C03 via State.dirQuery)

/-- DIR_BEGIN_MOVE (12 R356). -/
def execDirBeginMove (via : Via) (s : State) : Res := .next (s.command 0x0C04 via State.dirBeginMove)

/-- DIR_COMMIT_MOVE (12 R356). -/
def execDirCommitMove (via : Via) (s : State) : Res := .next (s.command 0x0C05 via State.dirCommitMove)

/-- DIR_ABORT_MOVE (12 R356). -/
def execDirAbortMove (via : Via) (s : State) : Res := .next (s.command 0x0C06 via State.dirAbortMove)

/-- DIR_MARK_LOST (12 R356). -/
def execDirMarkLost (via : Via) (s : State) : Res := .next (s.command 0x0C07 via State.dirMarkLost)

/-- DIR_FLUSH (12 R356). -/
def execDirFlush (via : Via) (s : State) : Res := .next (s.command 0x0C08 via State.dirFlush)

end Sys2Proof.Machine
end

