-- ==== Sys2Proof/Machine/Boot.lean ====
section
/-!
DEFINITION. Machine/Boot.lean: the boot image: its header, sections, signature and contents (16 R468-R472), and the choice of a flash slot (R473).
-/

namespace Sys2Proof.Machine

/-- An n-byte little-endian number at an offset (16 R468). -/
def imgNum (l : List Nat) (o n : Nat) : Nat := ofLeBytes ((l.drop o).take n)

/-- Bytes of a slot at most (16 R467). -/
def slotSize : Nat := 28 * 2 ^ 20

/-- A section entry (16 R468): type, CRITICAL, offset, length, CRC. -/
structure Sect where
  typ : Nat
  crit : Bool
  off : Nat
  len : Nat
  crc : Nat
  deriving DecidableEq, Repr

def sectsOf (l : List Nat) : List Sect :=
  (List.range (imgNum l 6 2)).map fun i =>
    ⟨imgNum l (64 + 16 * i) 2, imgNum l (66 + 16 * i) 2 % 2 = 1, imgNum l (68 + 16 * i) 4, imgNum l (72 + 16 * i) 4, imgNum l (76 + 16 * i) 4⟩

/-- A slot's header fails: 1 none valid, 2 the part is not named; 0 a candidate (16 R468, R473). -/
def headerCode (l : List Nat) (part : Nat) : Nat :=
  let n := imgNum l 6 2
  if imgNum l 0 4 ≠ 0x4D494D42 || imgNum l 4 2 ≠ 1 || n = 0 || 32 < n || imgNum l 8 8 = 0 || slotSize < imgNum l 16 4
      || decide (l.length < 64 + 16 * n) || imgNum l 24 4 ≠ crc32 (l.take 24 ++ (l.drop 64).take (16 * n)) then 1
  else if imgNum l 20 4 / 2 ^ part % 2 = 0 then 2
  else 0

/-- The bytes of a section. -/
def sectBytes (l : List Nat) (x : Sect) : List Nat := (l.drop x.off).take x.len

/-- A section's CRC holds; one that does not lie in the slot has none (16 R468). -/
def sectCrc (l : List Nat) (x : Sect) : Bool :=
  decide (x.off + x.len ≤ imgNum l 16 4) && decide (x.off + x.len ≤ l.length) && crc32 (sectBytes l x) = x.crc

/-- Section types that are required, and the others that are listed (16 R469). -/
def sectRequired : List Nat := [1, 2, 3, 4, 0x10, 0x11, 0x12]
def sectKnown : List Nat := sectRequired ++ [0x13, 0x14, 0x15]

/-- The bytes of the section of a type; none present: empty. -/
def sectOf (l : List Nat) (typ : Nat) : Option (List Nat) := ((sectsOf l).find? fun x => x.typ = typ).map (sectBytes l)

/-- The message that the signature covers (16 R471). -/
def signedMessage (l : List Nat) : List Nat :=
  l.take 64 ++ (l.drop 64).take (16 * imgNum l 6 2)
    ++ ((sectsOf l).filter fun x => x.typ = 1 || x.typ = 2 || x.typ = 3).flatMap fun x => sha384 (sectBytes l x)

/-- The signature passes (16 R471). -/
def signatureOk (l key : List Nat) : Bool :=
  match sectOf l 4 with
  | none => false
  | some g =>
    let be := fun (o n : Nat) => ((g.drop o).take n).foldl (fun x b => x * 256 + b) 0
    decide (193 ≤ g.length) && sha384 (g.take 97) = key && g.headD 0 = 4
      && ecdsaVerify (be 1 48) (be 49 48) (be 97 48) (be 145 48) (signedMessage l)

/-- Contents are well formed (16 R469, R471, R472). -/
def sectForm (typ : Nat) (b : List Nat) : Bool :=
  match typ with
  | 4 => decide (193 ≤ b.length)
  | 0x10 => decide (9 ≤ b.length)
  | 0x11 => decide (15 ≤ b.length)
  | 0x12 => decide (20 ≤ b.length)
  | 0x13 => decide (2 ≤ b.length) && decide (2 + 2 * imgNum b 0 2 ≤ b.length)
  | 0x14 => decide (6 ≤ b.length) && [1, 3, 4].contains (imgNum b 0 1 % 16) && [1, 3, 4].contains (imgNum b 0 1 / 16)
  | 0x15 => b.length % 24 = 0
  | _ => true

/-- The contents of a slot as firmware keeps them (16 R469, R472). -/
def bootOf (l : List Nat) : BootImage :=
  let b := fun t => (sectOf l t).getD []
  { seq := imgNum l 8 8
    version := Config.fwVersion (b 1)
    node := imgNum (b 0x10) 0 2 % 2 ^ 12
    domain := imgNum (b 0x10) 4 4
    eligible := imgNum (b 0x10) 8 1 % 2 = 1
    ports := (List.range 4).map fun d => (imgNum (b 0x11) (4 * d) 1, imgNum (b 0x11) (4 * d + 1) 1, imgNum (b 0x11) (4 * d + 2) 1)
    perm := (List.range 5).map fun k => imgNum (b 0x12) (4 * k) 4
    ovl := (List.range (imgNum (b 0x13) 0 2)).map fun k => imgNum (b 0x13) (2 + 2 * k) 2
    gfmt := (sectOf l 0x14).map fun g => imgNum g 0 6
    tune := (List.range ((b 0x15).length / 24)).map fun k =>
      (imgNum (b 0x15) (24 * k) 1, imgNum (b 0x15) (24 * k + 4) 4, imgNum (b 0x15) (24 * k + 8) 8, imgNum (b 0x15) (24 * k + 16) 8) }

/-- A candidate's failure code, 0 when it is used: CRCs, required and critical sections, signature, contents (16 R473). -/
def contentCode (l key : List Nat) : Nat :=
  let ss := sectsOf l
  let ts := ss.map (·.typ)
  if ss.any fun x => !sectCrc l x then 4
  else if (sectRequired.any fun t => !ts.contains t) || ss.any (fun x => x.crit && !sectKnown.contains x.typ) then 3
  else if !signatureOk l key then 5
  else if ts.eraseDups.length ≠ ts.length || ss.any fun x => x.off % 64 ≠ 0 || !sectForm x.typ (sectBytes l x) then 6
  else 0

/-- The image that the part was delivered with: the permission matrix of 16 R487, ports enabled, not trusted, node and domain 0
(log entry 5). -/
def factoryImage : BootImage :=
  { seq := 1
    version := Config.fwVersion []
    node := 0
    domain := 0
    eligible := true
    ports := List.replicate 4 (0, 15, 0)
    perm := [0x43A1, 0x7FFF, 0x3F004B, 0x230001, 0x4FFF]
    ovl := []
    gfmt := none
    tune := [] }

/-- A slot's header code, its SEQ and its contents code (16 R473). -/
def slotState (x : FlashSlot) (part : Nat) (key : List Nat) : Nat × Nat × Nat :=
  match x with
  | .erased => (1, 0, 0)
  | .factory => (0, factoryImage.seq, 0)
  | .bytes l => let h := headerCode l part; (h, if h = 0 then imgNum l 8 8 else 0, if h = 0 then contentCode l key else 0)

def slotImage : FlashSlot → BootImage
  | .bytes l => bootOf l
  | _ => factoryImage

/-- The slot in use, with the failure codes of A and B (16 R473): candidates in descending SEQ, A first at equal SEQ. -/
def chooseSlot (f : FlashSt) (part : Nat) (key : List Nat) : Nat × Nat × Option Nat :=
  if !f.answers then (7, 7, none)
  else
    let a := slotState f.a part key
    let b := slotState f.b part key
    if a.1 ≠ 0 && b.1 ≠ 0 then (a.1, b.1, none)
    else if a.1 ≠ 0 then (a.1, b.2.2, if b.2.2 = 0 then some 1 else none)
    else if b.1 ≠ 0 then (a.2.2, b.1, if a.2.2 = 0 then some 0 else none)
    else if b.2.1 ≤ a.2.1 then
      (if a.2.2 = 0 then (0, 0, some 0) else (a.2.2, b.2.2, if b.2.2 = 0 then some 1 else none))
    else if b.2.2 = 0 then (0, 0, some 1)
    else (a.2.2, b.2.2, if a.2.2 = 0 then some 0 else none)

/-- The peat-rate limit in units of 100 MT/s (16 R472). -/
def peatLimit (i : BootImage) : Nat := tuneParam i 2 48 88 88

end Sys2Proof.Machine
end

