-- ==== Sys2Proof/Machine/Starts.lean ====
section
/-!
DEFINITION. Machine/Starts.lean: the cold start (16 R476), the warm start (R478), die resets (R480), the pins and rails that start or hold the package
(18 R539, R540), a lockstep mismatch (16 R484), and their commands (R491). A start runs all its steps in one command (log entry 65).
-/

namespace Sys2Proof.Machine

/-- The codes of DIE_RESET's argument: I/O dies 0 to 3, UD0 4, UD1 5, the compute die 6 (log entry 66). -/
def dieCompute : Nat := 6

/-- The rates accepted of a module type, in 100 MT/s, the highest first: MRDIMMs (type 2) and RDIMMs (11 R333). -/
def moduleRates (typ : Nat) : List Nat := if typ = 2 then [88, 80] else [64, 56, 48]

/-- The highest accepted module rate within a limit (11 R334); 0 when there is none (DESIGN CHOICE, log entry 5). -/
def peatRate (typ limit : Nat) : Nat := ((moduleRates typ).find? fun r => decide (r ≤ limit)).getD 0

/-- A module that the package accepts (11 R333); any other fails to train (DESIGN CHOICE, log entry 5: the spec does not say what comes of it). -/
def Module.accepted (m : Module) : Bool :=
  (m.typ = 1 || m.typ = 2) && (m.width = 0 || (m.typ = 1 && m.width = 1)) && [32, 48, 64, 96, 128, 256].contains m.cap
    && (moduleRates m.typ).contains m.rate

/-- The replacements of a pseudo-channel's failing lanes, as MEM_CH lays them out: the lowest two take the spares (11 R329, R344). -/
def laneRepair : List Nat → Nat
  | [] => 0
  | [a] => 2 ^ 6 + a
  | a :: b :: _ => 2 ^ 13 + b * 2 ^ 7 + 2 ^ 6 + a

/-- A start keeps of a register's word the fields that its chapter keeps through a warm start: the HIF block (17 R519), identity and the
core lists (17 R508), capability entries (09 R270), lane repairs and module facts (11 R329, 16 R479), the directory's state (12 R364),
and every field of the tables that says so. -/
def warmKeeps (a : Nat) : Nat :=
  match regAt a with
  | none => 0
  | some r =>
    let whole := match r.place.blk with
      | .hif => true
      | .pkg => decide (r.place.off < 0x100)
      | .core => decide (0x6000 ≤ r.place.off)
      | _ => false
    let also := match r.place.blk with
      | .mem => if 0x100 ≤ r.place.off then Nat.lor fMEM_CH_PC0_REP.bits fMEM_CH_PC1_REP.bits else 0
      | .pt => if 0x100 ≤ r.place.off ∧ r.place.off % 16 = 0 then 2 ^ 57 - 2 ^ 8 else 0
      | .sync => if a = DIR_STATUS then fDIR_STATUS_STATE.bits else 0
      | _ => 0
    if whole then 2 ^ 64 - 1
    else r.reg.fields.foldl (fun m f => if f.warm then Nat.lor m f.f.bits else m) also

/-- The registers as a warm start leaves them. -/
def warmRegs (l : RegFile) : RegFile :=
  l.foldl (fun m p =>
    let k := BitVec.ofNat 64 (warmKeeps p.1)
    sput (resetWord p.1) p.1 ((p.2 &&& k) ||| (resetWord p.1 &&& ~~~k)) m) []

namespace State

/-- The package reset: what survives is what lies outside it or does not lose its contents with it, the far tier, the flash and the fuses
(16 R476, 12 R364). -/
def coldReset (s : State) : State :=
  { State.reset with
    pending := s.pending
    out := s.out
    freeCtr := s.freeCtr
    mem := { MemSt.reset with far := s.mem.far, farBad := s.mem.farBad }
    pkg := { PkgSt.reset with pins := s.pkg.pins, fuse := s.pkg.fuse, flash := s.pkg.flash } }

/-- Every die held in reset (18 R540). -/
def holdReset (s : State) : State :=
  let s := (s.coldReset.wr PKG_STATE fPKG_STATE_STATE pkReset).modTime fun t => { t with running := false }
  s.wr PKG_STATE fPKG_STATE_STEP 0

/-- A start fails (16 R476, R477). -/
def recovery (s : State) (step : Nat) : State :=
  ((((s.wr PKG_STATE fPKG_STATE_STATE pkRecovery).wr PKG_STATE fPKG_STATE_STEPFAIL step).wr PKG_STATE fPKG_STATE_STEP 0).raise
    PKG_EVENTS fPKG_EVENTS_RECOVERY)

/-- The slot is chosen (16 R473): failure codes and BOOT_FALLBACK recorded. -/
def readFlash (s : State) : State × Option BootImage :=
  let f := s.pkg.flash
  let c := chooseSlot f s.pkg.fuse.part s.pkg.fuse.key
  let s := (s.wr PKG_BOOT fPKG_BOOT_FAIL_A c.1).wr PKG_BOOT fPKG_BOOT_FAIL_B c.2.1
  match c.2.2 with
  | none => (s.wr PKG_BOOT fPKG_BOOT_VALID 0, none)
  | some k =>
    let i := slotImage (if k = 0 then f.a else f.b)
    let s := ((s.wr PKG_BOOT fPKG_BOOT_SEQ i.seq).wr PKG_BOOT fPKG_BOOT_SLOT k).wr PKG_BOOT fPKG_BOOT_VALID 1
    let s := if k = 1 && c.1 ≠ 0 then s.raise PKG_EVENTS fPKG_EVENTS_BOOT_FALLBACK else s
    (s, some i)

/-- The start counter advances and is written to the ageing area; the endpoint's generation follows it (16 R476, R496). -/
def countStart (s : State) : State :=
  let n := (s.pkg.flash.starts + 1) % 2 ^ 32
  let s := s.modPkg fun p => { p with flash := { p.flash with starts := n } }
  ((s.wr PKG_STARTS fPKG_STARTS_START n).wr FAB_ID fFAB_ID_GEN n).wr PKG_GEN fPKG_GEN_FAB n

/-- Identity, port roles, trust marks, the matrix and the default formats of an image (16 R469, R488). -/
def installImage (s : State) (i : BootImage) : State :=
  let s := s.wr PKG_FW fPKG_FW_VERSION i.version
  let s := ((s.wr FAB_ID fFAB_ID_NODE i.node).wr FAB_ID fFAB_ID_DOMAIN i.domain).wr FAB_ID fFAB_ID_ELIGIBLE (if i.eligible then 1 else 0)
  let s := (List.range 16).foldl (fun s p =>
    if s.portHere p then
      let b := i.ports.getD (p / 4) (0, 0, 0)
      let s := (s.wr (fpStatus p) fFP_STATUS_PAIRED (b.1 / 2 ^ (p % 4 / 2) % 2)).wr (fpStatus p) fFP_STATUS_TRUSTED (b.2.2 / 2 ^ (p % 4) % 2)
      s.wr (fpCtrl p) fFP_CTRL_EN (b.2.1 / 2 ^ (p % 4) % 2)
    else s) s
  let s := (List.range 5).foldl (fun s c => s.wr (PKG_PERM c) fPKG_PERM_MASK (permLimit c (i.perm.getD c 0))) s
  let x := match i.gfmt with
    | some g => (g % 16, g / 16 % 16, g / 2 ^ 16 % 2 ^ 16, g / 2 ^ 32 % 2 ^ 16)
    | none => (4, 4, 0x40, 4)
  let s := { s with sched := { s.sched with agDef := x.1, wgDef := x.2.1, up := x.2.2.1, down := x.2.2.2, limits := none, planCode := bootCode i } }
  s.modPkg fun p => { p with image := some i }

/-- What fuses and straps give the registers (17 R508, R523, 00 R1, 15 R433). -/
def identify (s : State) : State :=
  let f := s.pkg.fuse
  let dies := if f.part = 2 then 2 else 4
  let s := s.wr PKG_ID fPKG_ID_DEVID (match f.part with | 0 => 0x72A4 | 1 => 0x7284 | _ => 0x7282)
  let s := (s.wr PKG_ID fPKG_ID_IODIES dies).wr PKG_ID fPKG_ID_STACKS (if f.part = 0 then 10 else 8)
  let s := (s.wr PKG_SERIAL fPKG_SERIAL_SERIAL f.serial).setReg PKG_REV (BitVec.ofNat 64 (f.revs % 2 ^ 32))
  let s := (s.wr PKG_CONFIG fPKG_CONFIG_IOMAP (2 ^ dies - 1)).wr PKG_CONFIG fPKG_CONFIG_STACKMAP (if f.part = 0 then 0x3FF else 0x1EF)
  let s := (s.wr HIF_SMB fHIF_SMB_ADDR (0x60 + f.strap % 8)).wr PKG_LOCK fPKG_LOCK_CAPTURED (if s.pkg.flash.captured then 1 else 0)
  (List.range 3).foldl (fun s k => s.wr (HIF_CXL k) fHIF_CXL_PRESENT (if k + 1 < dies then 1 else 0)) s

/-- Power-control registers that follow from the part's ceiling, from the flash and from the absent dies (15 R432, R433, R460, R463). -/
def powerUp (s : State) : State :=
  let c := s.ceiling
  let s := (s.wr PWR_BUDGET fPWR_BUDGET_WATTS c).setReg PWR_BSTEP_LVL_LO (BitVec.ofNat 64 (bstepWord c 0))
  let s := (s.setReg PWR_BSTEP_LVL_HI (BitVec.ofNat 64 (bstepWord c 4))).modPwr fun p => { p with bpm := c }
  (List.range 12).foldl (fun s k => s.wr (PWR_CYC k) fPWR_CYC_COUNT (s.pkg.flash.wear.getD k 0))
    (s.modPwr fun p => { p with points := s.pkg.flash.residues })

/-- What every start sets of power control: the accepted step code's level, assumed coolant, P_th at the ceiling, the budget in effect, absent hot
spots, the wear index (15 R433, R434, R451, R463, R446). -/
def powerReset (s : State) : State :=
  let s := (s.wr PWR_BSTEP fPWR_BSTEP_CODE s.pwr.pins).wr PWR_BSTEP fPWR_BSTEP_LEVEL (s.stepLevel s.pwr.pins)
  let s := (s.wr PWR_LIMITS fPWR_LIMITS_COOL (s.coolLimit 120)).wr PWR_LIMITS fPWR_LIMITS_THERM s.ceiling
  let s := s.wr PWR_LIMITS fPWR_LIMITS_EFF s.effBudget
  let s := if s.pkg.fuse.part = 2 then [41, 42, 43, 44].foldl (fun s h => s.wr (PWR_HS h) fPWR_HS_ABSENT 1) s else s
  let s := (List.range 12).foldl (fun s z => s.wr (PWR_ZMARGIN z) fPWR_ZMARGIN_BASE (s.rd PWR_MARGIN_CFG fPWR_MARGIN_CFG_MSTART)) s
  s.showWear

/-- A core disabled. -/
def disableCore (s : State) (c : Nat) : State := s.wr (CAP_STATE c) fCAP_STATE_EN 0

/-- Cores of a zone that are disabled. -/
def zoneOff (s : State) (z : Nat) : Nat := ((List.range 24).filter fun k => !s.coreOn (24 * z + k)).length

/-- One overlay entry (16 R474). -/
def overlay (s : State) (c : Nat) : State :=
  if 288 ≤ c || !s.coreOn c || 1 ≤ s.zoneOff (zoneOf c) then
    let s := if c < 288 then s.wr (CAP_STATE c) fCAP_STATE_OVERLAY 1 else s
    (s.bump PKG_OVL fPKG_OVL_IGNORED 1).raise PKG_EVENTS fPKG_EVENTS_OVL_IGNORED
  else
    (((s.disableCore c).wr (CAP_STATE c) fCAP_STATE_OVL_DIS 1).wr (CAP_STATE c) fCAP_STATE_OVERLAY 1).bump PKG_OVL fPKG_OVL_APPLIED 1

/-- The capability table of a cold start (09 R270, R271, 16 R474). -/
def capTable (s : State) (i : BootImage) : State :=
  let f := s.pkg.fuse
  let s := f.dead.foldl (fun s c => if c < 288 then (s.disableCore c).wr (CAP_STATE c) fCAP_STATE_FUSE_DIS 1 else s) s
  let s := (List.range 288).foldl (fun s c =>
    let loss := sget 0 c s.pkg.flash.age
    (s.wr (CAP_STATE c) fCAP_STATE_AGE_LOSS (min 255 loss)).setFmax c (agedFmax (s.fusedFmax c) loss)) s
  i.ovl.foldl overlay s

/-- PKG_CORES and PKG_CONFIG.NCORES follow the enabled cores (17 R508). -/
def showCores (s : State) : State :=
  let s := (List.range 5).foldl (fun s k =>
    s.wr (PKG_CORES k) fPKG_CORES_EN ((List.range 64).foldl (fun m i => if s.coreOn (64 * k + i) then m + 2 ^ i else m) 0)) s
  s.wr PKG_CONFIG fPKG_CONFIG_NCORES ((List.range 288).filter s.coreOn).length

/-- BIST of step 4: a core whose memories fail is disabled, even where others of its zone are (16 R476). -/
def bist (s : State) : State :=
  s.pkg.fuse.bistCores.foldl (fun s c =>
    if !s.coreOn c then s
    else
      let s := s.disableCore c
      let n := s.zoneOff (zoneOf c)
      if 2 ≤ n then (s.raise PKG_EVENTS fPKG_EVENTS_CORE_LIMIT).jnlDevice 0xF008 c n else s) s

/-- A start into the minimum-power state that FORCE_MIN or the command keeps in force (15 R449, R463). -/
def forcedStart (s : State) : State :=
  if s.pwr.forced || s.on PWR_CTRL fPWR_CTRL_FORCE_MIN then s.enterMin (2 ^ mcForced) else s

/-- The clocks, regulators and crossings of a start at a frequency code (16 R476, R478, 08 R216, R218, R220, R238). -/
def setClocks (s : State) (code : Nat) (skews : List Int) : State :=
  let s := (s.wr TIME_FREQ fTIME_FREQ_CODE code).wr TIME_FREQ fTIME_FREQ_TARGET code
  let s := (List.range 288).foldl (fun s c => s.wr (TIME_CORE c) fTIME_CORE_EN (if s.coreOn c then 1 else 0)) s
  let s := (s.publishRatios code).refreshFcap
  ((s.setAllV code).endRamps).align skews

/-- A site's state and maps follow its channels (11 R318, R332). -/
def showSite (s : State) (x : Nat) : State :=
  let st := fun (c : Nat) => s.rd (MEM_CH x c) fMEM_CH_STATE
  let map := fun (v : Nat) => ((List.range 32).filter fun c => st c = v).foldl (fun m c => m + 2 ^ c) 0
  let n := ((List.range 32).filter fun c => st c ≠ 2).length
  let s := ((s.wr (MEM_CH_LIVE x) fMEM_CH_LIVE_MAP (map 0)).wr (MEM_CH_FENCED x) fMEM_CH_FENCED_MAP (map 1)).wr (MEM_CH_OUT x) fMEM_CH_OUT_MAP (map 2)
  let s := (s.wr (MEM_STATUS x) fMEM_STATUS_NLIVE n).wr (MEM_RANGE x) fMEM_RANGE_BYTES (n * 2 ^ 32)
  s.wr (MEM_STATUS x) fMEM_STATUS_STATE (if n = 0 then 4 else if n = 32 && map 1 = 0 then 2 else 3)

/-- Lanes of a pseudo-channel that fail their test, in ascending order (11 R329). -/
def badLanes (e : StartEnv) (x c p : Nat) : List Nat := (List.range 34).filter fun n => e.lanes.contains (x, c, p, n)

/-- A stack channel that training maps out: it fails timing training, or a pseudo-channel of it has more failing lanes than spares (11 R329). -/
def lostChannel (e : StartEnv) (x c : Nat) : Bool :=
  e.bad.contains (x, c) || decide (2 < (badLanes e x c 0).length) || decide (2 < (badLanes e x c 1).length)

/-- A site trains in full (11 R329, R332, R340). -/
def trainSite (s : State) (e : StartEnv) (x : Nat) : State :=
  let s := (List.range 32).foldl (fun s c =>
    let s := (s.wr (MEM_CH x c) fMEM_CH_STATE (if lostChannel e x c then 2 else 0)).wr (MEM_CH x c) fMEM_CH_REASON (if lostChannel e x c then 1 else 0)
    (s.wr (MEM_CH x c) fMEM_CH_PC0_REP (laneRepair (badLanes e x c 0))).wr (MEM_CH x c) fMEM_CH_PC1_REP (laneRepair (badLanes e x c 1))) s
  let s := s.showSite x
  let s := if (List.range 32).any (lostChannel e x) then s.raise (MEM_EVENTS x) fMEM_EVENTS_MAPOUT else s
  if (List.range 32).any fun c => !(badLanes e x c 0).isEmpty || !(badLanes e x c 1).isEmpty then s.raise (MEM_EVENTS x) fMEM_EVENTS_LANE_REPAIR
  else s

/-- The module fitted to a channel of a die (11 R333, R334). -/
def moduleAt (s : State) (d c : Nat) : Option Module := (s.pkg.fuse.modules.find? fun m => m.1 = 4 * d + c).map (·.2)

/-- The update dies of a list train in full (11 R333, R334, R338, R345). The reference is the module of the lowest channel of the package that
trains; a module that differs from it in any respect is mapped out, and every channel runs at the rate that it and the image allow. -/
def trainDies (s : State) (e : StartEnv) (ds : List Nat) : State :=
  let trains := fun (d c : Nat) => (s.moduleAt d c).any Module.accepted && !e.bad.contains (10 + d, c)
  let works := fun (d c : Nat) => if ds.contains d then trains d c else (s.moduleAt d c).isSome && s.rd (PT_CH_INFO d c) fPT_CH_INFO_STATE ≠ 2
  let ref := ((List.range 8).find? fun k => works (k / 4) (k % 4)).bind fun k => s.moduleAt (k / 4) (k % 4)
  let limit := match s.pkg.image with
    | some i => peatLimit i
    | none => 88
  let rate := match ref with
    | some m => peatRate m.typ (min m.rate limit)
    | none => 0
  ds.foldl (fun s d =>
    let s := (List.range 4).foldl (fun s c =>
      let a := PT_CH_INFO d c
      let put := fun (s : State) (st why : Nat) => (s.wr a fPT_CH_INFO_STATE st).wr a fPT_CH_INFO_REASON why
      match s.moduleAt d c with
      | none => put (s.setReg a 0) 2 7
      | some m =>
        let s := ((s.wr a fPT_CH_INFO_CAP m.cap).wr a fPT_CH_INFO_TYPE m.typ).wr a fPT_CH_INFO_RANKS m.ranks
        let s := (s.wr a fPT_CH_INFO_WIDTH m.width).wr a fPT_CH_INFO_MAXRATE m.rate
        if !trains d c then (put s 2 1).raise (PT_EVENTS d) fPT_EVENTS_MAPOUT
        else if some m ≠ ref then
          ((put s 2 6).raise (PT_EVENTS d) fPT_EVENTS_MISMATCH).raise (PT_EVENTS d) fPT_EVENTS_MAPOUT
        else put s 0 0) s
    let n := (s.dieLive d).length
    let out := (List.range 4).any fun c => (s.moduleAt d c).isSome && s.rd (PT_CH_INFO d c) fPT_CH_INFO_STATE = 2
    let s := ((s.wr (PT_STATUS d) fPT_STATUS_NLIVE n).wr (PT_RANGE d) fPT_RANGE_BYTES (n * s.moduleBytes d)).wr (PT_STATUS d) fPT_STATUS_RATE rate
    s.wr (PT_STATUS d) fPT_STATUS_STATE (if n = 0 then 4 else if out then 3 else 2)) s

/-- The place of a KIND 0 record in the state, if it may be written: an XW field of the TIME, PWR, MEM, FAB or SYNC blocks, or of QC_THR or DM_CTRL of
core 0 (16 R472). -/
def tuneMay (key mask : Nat) : Bool :=
  let a := canonReg key
  let blk := match placeOf a with
    | none => false
    | some p => match p.blk with
      | .time => true
      | .pwr => true
      | .mem => true
      | .fab => true
      | .sync => true
      | .core => p.copy = 0 && (p.off = 0x1800 || (decide (0x2080 ≤ p.off) && decide (p.off < 0x20A0)))
      | _ => false
  blk && (regAt a).isSome && mask ≠ 0 && Nat.land mask (accMask a [.xw]) = mask

/-- One TUNE record (16 R472): kind, key, mask, value. The window of an absent die ignores the write (00 R5). -/
def tuneOne (s : State) (r : Nat × Nat × Nat × Nat) : State :=
  let key := r.2.1
  let mask := r.2.2.1
  let v := r.2.2.2
  let ignored := (s.bump PKG_BOOT fPKG_BOOT_TUNE_IGN 1).raise PKG_EVENTS fPKG_EVENTS_TUNE_IGNORED
  if r.1 = 0 then
    if !tuneMay key mask then ignored
    else if decide (key < 0x1000000) && s.absentReg key then s
    else
      let a := canonReg key
      if 0x1000000 ≤ a then
        (List.range 288).foldl (fun s b => if s.coreOn b then s.writePart 7 (a + b * 0x10000) (a + b * 0x10000) v mask [] else s) s
      else s.writePart 7 a a v mask []
  else if r.1 = 1 then
    (if key = 1 || key = 2 then s else if key = 3 then s.wr DIR_BASE fDIR_BASE_BASE (min v 40959) else ignored)
  else ignored

/-- The TUNE records apply in image order (16 R472). -/
def applyTune (s : State) (i : BootImage) : State := i.tune.foldl tuneOne s

/-- The host link as it trained; less than 16 lanes at 64 GT/s is degraded (17 R504). -/
def linkTrained (s : State) (width rate : Nat) (flit : Bool) : State :=
  let s := ((s.wr HIF_STATUS fHIF_STATUS_WIDTH width).wr HIF_STATUS fHIF_STATUS_RATE rate).wr HIF_STATUS fHIF_STATUS_FLIT (if flit then 1 else 0)
  if width = 16 && rate = 6 then s else s.raise HIF_EVENTS fHIF_EVENTS_LINK_DEGRADED

/-- A start completes (16 R482, R494, R503). -/
def startDone (s : State) (kind ms : Nat) : State :=
  let s := ((s.wr PKG_STATE fPKG_STATE_STATE pkLocal).wr PKG_STATE fPKG_STATE_STEP 0).wr PKG_STATE fPKG_STATE_STEPFAIL 0
  let s := (s.wr PKG_STATE fPKG_STATE_LAST kind).wr PKG_STATE fPKG_STATE_ELAPSED (min 0xFFFF ms)
  (s.raise PKG_EVENTS fPKG_EVENTS_START_DONE).jnlDevice 0xF001 kind ms

/-- A Sedge link has trained, or has not (01 R22, 10 R315). -/
def linkUp (s : State) (e : StartEnv) (d : Nat) : State := s.wr (UD_STATUS d) fUD_STATUS_LINK_UP (if e.noLink.contains d then 0 else 1)

/-- A cold start (16 R476). -/
def coldStart (s : State) (e : StartEnv) : State :=
  let s := (s.coldReset.identify).linkTrained e.width e.rate e.flit
  let r := s.readFlash
  match r.2 with
  | none => r.1.recovery 2
  | some i =>
    let s := ((r.1.countStart.installImage i).powerUp).capTable i
    let s := s.bist.showCores
    if s.pkg.fuse.bistFails then s.recovery 4
    else
      let s := ((s.powerReset).setClocks (bootCode i) e.skews).forcedStart
      let s := ((List.range 10).filter s.siteHere).foldl (fun s x => s.trainSite e x) s
      let s := s.trainDies e [0, 1]
      let s := [0, 1].foldl (fun s d => s.linkUp e d) s
      let s := s.applyTune i
      let s := s.wr DIR_STATUS fDIR_STATUS_STATE (if s.on DIR_CTRL fDIR_CTRL_EN && s.dirMapped then 1 else 0)
      s.startDone 1 e.ms

/-- Every command that waits or executes ends INTERRUPTED but the one that restarts the package (16 R478). -/
def interruptOthers (s : State) (seq : Nat) : State :=
  s.pkg.cmds.foldl (fun s c => if c.seq = seq then s else s.finishCmd c ocInterrupted 0 0 []) s

/-- The next generation of this package (16 R496). -/
def nextGen (s : State) : Nat := (s.pkg.flash.starts + 1) % 16

/-- The package announces its restart (16 R478, R498, 13 R392). -/
def announceRestart (s : State) : State :=
  let s := if 2 ≤ s.enrolled then s.toRm 0x37 [s.nextGen + 16] else s
  ((List.range 16).filter s.portUp).foldl (fun s p => s.sendLink p 0x30 (s.identity p s.nextGen)) s

/-- Compactions in progress finish (11 R340). -/
def endCompactions (s : State) : State :=
  let s := (List.range 10).foldl (fun s x => if s.on (MEM_STATUS x) fMEM_STATUS_COMPACTING then (s.compactDone x).dirRebuild x else s) s
  [0, 1].foldl (fun s d => if s.on (PT_STATUS d) fPT_STATUS_COMPACTING then (s.dieCompactDone d).tearAbove d else s) s

/-- Every die resets but the retained domains (16 R478, 08 R238, 11 R340, 15 R463, 14 R430). -/
def warmReset (s : State) : State :=
  { State.reset with
    pending := s.pending
    regs := warmRegs s.regs
    out := s.out
    freeCtr := s.freeCtr
    time := { TimeSt.reset with frac := s.time.frac, phaseCodes := s.time.phaseCodes }
    msix := s.msix
    mem := { s.mem with cache := [], fills := [], recent := [], hot := [], scrubAt := [] }
    pwr := { PwrSt.reset with
      bpm := s.pwr.bpm, bpmNext := s.pwr.bpmNext, pins := s.pwr.pins, forced := s.pwr.forced, startBeat := s.beat,
      micro := s.pwr.micro, points := s.pwr.points, coldInlet := s.pwr.coldInlet }
    sched := { s.sched with planned := 0, classes := [], pend := [], norms := [], boost := false }
    pkg := { s.pkg with staged := none, flashBy := none, migr := [], fwd := [] }
    hif := s.hif }

/-- Contents of a unit lost: site 0 to 9, die 10 or 11 (11 R340). -/
def loseContents (s : State) (u : Nat) : State :=
  let out := fun (lo n : Nat) (l : List Host.Cell) => l.filter fun c => !(decide (lo ≤ c.1) && decide (c.1 < lo + n))
  s.modMem fun m => { m with
    stack := if u < 10 then out (u * 2 ^ 38) (2 ^ 38) m.stack else m.stack
    peat := if u < 10 then m.peat else out ((u - 10) * 2 ^ 40) (2 ^ 40) m.peat
    flips := m.flips.filter fun p => p.1 / 256 / 2 ^ 40 ≠ u
    healed := m.healed.filter fun k => k / 2 ^ 40 ≠ u
    known := m.known.filter fun k => k / 2 ^ 40 ≠ u
    poison := m.poison.filter fun p => p.unit ≠ u }

/-- A stack site leaves self-refresh (11 R340, 16 R479, 12 R364). -/
def wakeSite (s : State) (e : StartEnv) (x : Nat) : State :=
  if e.refused.contains x then
    let s := ((s.loseContents x).trainSite e x).wr (MEM_STATUS x) fMEM_STATUS_CONTENTS_LOST 1
    let s := s.raise (MEM_EVENTS x) fMEM_EVENTS_CONTENTS_LOST
    if s.dirOff 0 / 2 ^ 38 = x then (s.wr DIR_STATUS fDIR_STATUS_STATE 2).raise DIR_EVENTS fDIR_EVENTS_DIR_LOST else s
  else s.showSite x

/-- The modules of an update die leave self-refresh (11 R340, 16 R479). -/
def wakeDie (s : State) (e : StartEnv) (d : Nat) : State :=
  if e.refused.contains (10 + d) then
    let s := ((s.loseContents (10 + d)).trainDies e [d]).wr (PT_STATUS d) fPT_STATUS_CONTENTS_LOST 1
    (s.raise (PT_EVENTS d) fPT_EVENTS_CONTENTS_LOST).clearRecords d
  else
    let n := (s.dieLive d).length
    let odd := (List.range 4).any fun c => (s.moduleAt d c).isSome && s.rd (PT_CH_INFO d c) fPT_CH_INFO_STATE ≠ 0
    s.wr (PT_STATUS d) fPT_STATUS_STATE (if n = 0 then 4 else if odd then 3 else 2)

/-- The generations of present dies advance (16 R496). -/
def dieGens (s : State) : State :=
  [(fPKG_GEN_CD, true), (fPKG_GEN_UD1, true), (fPKG_GEN_UD0, true), (fPKG_GEN_IO0, true), (fPKG_GEN_IO1, true),
    (fPKG_GEN_IO2, s.portHere 8), (fPKG_GEN_IO3, s.portHere 12)].foldl (fun s g => if g.2 then s.wr PKG_GEN g.1 (s.rd PKG_GEN g.1 + 1) else s) s

/-- Requests still outstanding across each die link when every die resets, by die: those of cores and update dies to other packages at the I/O die of
their route, those of an update die at its own link (01 R22, 16 R497). -/
def linkRequests (s : State) : List (Nat × Nat) :=
  let across := fun (node sep tag : Nat) => match s.route node sep tag with | some r => [r.1 / 4] | none => []
  let cores := s.cores.flatMap fun c => c.2.jobs.flatMap fun j => j.reqs.flatMap fun q => across (reqNode j q) c.1 q.tag
  let uds := [0, 1].flatMap fun d => (s.udReqs d).flatMap fun q => (4 + d) :: across (hallNode q.addr) (288 + d) q.tag
  let l := cores ++ uds
  ((List.range 6).map fun die => (die, (l.filter (· = die)).length)).filter fun x => 0 < x.2

/-- The requests that a warm start's die resets end PARTNER_RESET: counted, and each link that had some is journaled (16 R497; DEDUCED, log
entry 65: a link without any is not involved). -/
def endRequests (s : State) (l : List (Nat × Nat)) : State :=
  let s := l.foldl (fun s x => s.jnlDevice 0xF005 x.1 x.2) s
  if l.isEmpty then s
  else (s.bump PKG_PRESET fPKG_PRESET_COUNT (l.map (·.2)).sum).raise PKG_EVENTS fPKG_EVENTS_PARTNER_RESET

/-- Moves and remote increments outstanding at step 2 of a warm start end PARTNER_RESET (16 R478). -/
def endMoves (s : State) : State :=
  s.cores.foldl (fun s c => (c.2.jobs.filter fun j => j.kind = .dmov || j.kind = .remInc).foldl (fun s j =>
    if j.kind = .dmov then s.moveFailed c.1 j 0x05 else (s.dropJob c.1 j.ord).moveFail c.1 j.iss.stream j.iss.pc 0x05) s) s

/-- A warm start from its step 4 on (16 R478). `gens` are the die generations before it, `slot` the slot of the image that stays in use
(DEDUCED, log entry 65), `failed` the sites that stay FAILED until a cold start (11 R332). -/
def warmRest (s : State) (reload : Bool) (e : StartEnv) : State :=
  let s := s.endCompactions.saveWear
  let gens := s.reg PKG_GEN
  let slot := s.rd PKG_BOOT fPKG_BOOT_SLOT
  let links := s.linkRequests
  let failed := (List.range 10).filter fun x => s.siteState x = 4
  let code := min (s.rd TIME_FREQ fTIME_FREQ_CODE) s.fcapOf
  let skews := if e.skews.isEmpty then s.lastSkews else e.skews
  let s := ((s.warmReset.setReg PKG_GEN gens).setBeat s.beat).wr PKG_STATE fPKG_STATE_LAST 2
  let s := (s.endRequests links).wr PKG_LOCK fPKG_LOCK_CAPTURED (if s.pkg.flash.captured then 1 else 0)
  let again := reload || e.broken
  let r := if again then s.readFlash else ((s.wr PKG_BOOT fPKG_BOOT_VALID 1).wr PKG_BOOT fPKG_BOOT_SLOT slot, s.pkg.image)
  match r.2 with
  | none => r.1.recovery 6
  | some i =>
    let s := r.1.wr PKG_STATE fPKG_STATE_RELOADED (if again then 1 else 0)
    let s := (s.countStart.installImage i).dieGens
    let s := s.wr PKG_STARTS fPKG_STARTS_WARMS (min 0xFFFF (s.rd PKG_STARTS fPKG_STARTS_WARMS + 1))
    let s := ((s.powerReset).setClocks code skews).forcedStart
    let s := ((List.range 10).filter s.siteHere).foldl
      (fun s x => if failed.contains x then s.wr (MEM_STATUS x) fMEM_STATUS_STATE 4 else s.wakeSite e x) s
    let s := [0, 1].foldl (fun s d => (s.wakeDie e d).linkUp e d) s
    let s := if again then s.applyTune i else s
    let s := s.startDone 2 e.ms
    [0, 1].foldl (fun s d => s.tearOpen d) s

/-- WARM (16 R478): a warm start from HALTED begins at step 4. -/
def warm (seq : Nat) (e : StartEnv) (a : List Nat) (s : State) : State × Ans :=
  if s.pkState = pkRecovery then s.refuse stPkgRecovery
  else
    let s0 := s.interruptOthers seq
    let s0 := if s.pkState = pkHalted then s0 else s0.endMoves.announceRestart
    (s0.warmRest (decide (a.headD 0 ≠ 0)) e, .done 0 [])

/-- A CXL link goes down (12 R347, 17 R520, R522): port p of 1 to 3. -/
def cxlDown (s : State) (p : Nat) : State :=
  if !s.on (HIF_CXL (p - 1)) fHIF_CXL_UP && !s.on (TIER_FAR (p - 1)) fTIER_FAR_UP then s
  else ((s.wr (TIER_FAR (p - 1)) fTIER_FAR_UP 0).wr (HIF_CXL (p - 1)) fHIF_CXL_UP 0).raise HIF_EVENTS fHIF_EVENTS_CXL_EVENT

/-- DIE_RESET (16 R480, R491). The requests that an I/O die's link carries for other packages end PARTNER_RESET (16 R497). -/
def dieReset (e : StartEnv) (a : List Nat) (s : State) : State × Ans :=
  let die := a.headD 0
  if die = dieCompute || die = 0 then s.refuse stDieCore
  else if 6 < die || (die < 4 && !s.portHere (4 * die)) then s.refuse stDieAbsent
  else if die < 4 then
    let r := s.endWhere fun node sep tag => (s.route node sep tag).any fun x => x.1 / 4 = die
    let s := (r.1.failPorts ((List.range 4).map fun k => 4 * die + k)).cxlDown die
    let f := match die with | 1 => fPKG_GEN_IO1 | 2 => fPKG_GEN_IO2 | _ => fPKG_GEN_IO3
    ((s.wr PKG_GEN f (s.rd PKG_GEN f + 1)).jnlDevice 0xF005 die r.2, .done 0 [])
  else
    let d := die - 4
    let s := s.linkReset d
    let f := if d = 0 then fPKG_GEN_UD0 else fPKG_GEN_UD1
    (((s.wr PKG_GEN f (s.rd PKG_GEN f + 1)).wakeDie e d).linkUp e d, .done 0 [])

/-- The pins let a start begin (18 R540). -/
def mayStart (s : State) : Bool := s.pkg.pins.pwrgd && !s.pkg.pins.rstLow && s.pkg.pins.refclk && !s.pkg.pins.railBad

def modPins (s : State) (f : PinSt → PinSt) : State := s.modPkg fun p => { p with pins := f p.pins }

end State

/-- POWER_GOOD (18 R538, R540): PKG_PWRGD has risen, or was high when the run began; a cold start follows unless a pin holds the package. -/
def execPowerGood (env : StartEnv) (s : State) : Res :=
  .next (if s.pkg.pins.pwrgd && s.pkState ≠ pkStarting then s
    else
      let s := s.modPins fun p => { p with pwrgd := true }
      if s.mayStart then s.coldStart env else s.holdReset)

/-- PKG_PWRGD_LOW (18 R540): PKG_PWRGD has been low for a time in ns. -/
def execPkgPwrgdLow (ns : Nat) (s : State) : Res :=
  .next (if ns ≤ 2000 then s else (s.modPins fun p => { p with pwrgd := false, railBad := false }).holdReset)

/-- RAIL_OUT_OF_RANGE (18 R540): a rail has been outside its range for a time in ns. -/
def execRailOutOfRange (ns : Nat) (s : State) : Res :=
  .next (if ns ≤ 10000 || !s.pkg.pins.pwrgd then s else (s.modPins fun p => { p with railBad := true }).holdReset)

/-- REFCLK_LOSS (18 R540): REFCLK_PKG has shown no edge for a time in ns. -/
def execRefclkLoss (ns : Nat) (s : State) : Res :=
  .next (if ns < 1000 then s else (s.modPins fun p => { p with refclk := false }).holdReset)

/-- REFCLK_RETURN (18 R540): REFCLK_PKG has shown edges for a time in ns. -/
def execRefclkReturn (ns : Nat) (env : StartEnv) (s : State) : Res :=
  .next (if ns < 100000 || s.pkg.pins.refclk then s
    else
      let s := s.modPins fun p => { p with refclk := true }
      if s.mayStart then s.coldStart env else s)

/-- PKG_RST (18 R540): PKG_RST# has been low for a time in ns, or has risen. -/
def execPkgRst (low : Bool) (ns : Nat) (env : StartEnv) (s : State) : Res :=
  .next (if low then
      (if ns < 10000 then s
      else
        let s := s.modPins fun p => { p with rstLow := true }
        if s.pkg.pins.pwrgd then s.holdReset else s)
    else if !s.pkg.pins.rstLow then s
    else
      let s := s.modPins fun p => { p with rstLow := false }
      if s.mayStart then s.coldStart env else s)

/-- LOCKSTEP_MISMATCH (16 R484). -/
def execLockstepMismatch (s : State) : Res :=
  .next (if s.pkState = pkReset || s.pkState = pkHalted then s
    else
      let s := ((s.wr PKG_STATE fPKG_STATE_STATE pkHalted).setDuty 0).wr TIME_FREQ fTIME_FREQ_CODE 24
      let s := ((s.wr TIME_FREQ fTIME_FREQ_TARGET 24).wr TIME_STATUS fTIME_STATUS_GLIDE 0).modTime fun t => { t with gliding := false }
      let s := (s.wr (UD_CTRL 0) fUD_CTRL_PAUSE 1).wr (UD_CTRL 1) fUD_CTRL_PAUSE 1
      (s.raise PKG_EVENTS fPKG_EVENTS_LOCKSTEP).jnlDevice 0xF006 0 0)

/-- WARM (16 R478, R491). -/
def execWarm (via : Via) (env : StartEnv) (s : State) : Res := .next (s.command 0x1001 via (State.warm (s.viaSeq via) env))

/-- COLD (16 R476, R491): the journal is cleared, so that nothing is left to answer. -/
def execCold (via : Via) (env : StartEnv) (s : State) : Res :=
  .next (match via with
    | .taken seq => if (s.pkg.cmds.any fun c => c.seq = seq && c.code = 0x1002) && s.mayRun 0x1002 then s.coldStart env else s
    | .arrives cls port args =>
      if args.length ≠ 0 then s
      else match s.takeCommand cls port 0x1002 0 0 0 args with
        | (s, some _) => s.coldStart env
        | (s, none) => s)

/-- DIE_RESET (16 R480, R491). -/
def execDieReset (via : Via) (env : StartEnv) (s : State) : Res := .next (s.command 0x1003 via (State.dieReset env))

end Sys2Proof.Machine
end

