-- ==== Sys2Proof/Machine/PkgCmds.lean ====
section
/-!
DEFINITION. Machine/PkgCmds.lean: the package commands of 16 R491 beside the starts and the schedule image: queries, the flash (R475), the
journal (R492, R495), the debug lock (R488), the capture record (R501).
-/

namespace Sys2Proof.Machine

/-- The addresses of the registers of one copy of a block, from the copy's base (17 R506). -/
def blockAddrs (blk : Blk) (base : Nat) : List Nat :=
  blk.regs.flatMap fun r => (List.range (max 1 r.n)).map fun i => base + r.off + i * r.stride

/-- The registers of a capture record, in the order of the list of 16 R501. -/
def captureAddrs : List Nat :=
  blockAddrs .pkg 0
    ++ (List.range 288).flatMap (fun c => [CAP_STATE c, TIME_CORE c])
    ++ (List.range 10).flatMap (fun x => blockAddrs .mem (MEM_CTRL x))
    ++ [0, 1].flatMap (fun d => blockAddrs .pt (PT_STATUS d))
    ++ (blockAddrs .fab FAB_CTRL).filter (fun a => decide (a % 0x40000 < 0x10000))
    ++ [1, 2, 3].flatMap (fun d => (blockAddrs .fab (FAB_CTRL + d * 0x40000)).filter fun a =>
      decide (0x100 ≤ a % 0x40000) && decide (a % 0x40000 < 0x10000))
    ++ [PWR_STATUS, PWR_WARN, PWR_COUNTS] ++ (List.range 48).map PWR_HS ++ (List.range 12).map PWR_CYC ++ [PWR_WEAR]
    ++ [UD_FAULT 0, UD_FAULT 1, UD_SKIP_LAST 0, UD_SKIP_LAST 1, TIME_EVENTS]
    ++ (List.range 288).flatMap (fun c => [SQS_FAULT c 0, SQS_FAULT c 1, SQS_FAULT c 2, DM_CSTAT c])

/-- Bytes as words of 8 bytes. -/
def bytesWords (n : Nat) (l : List Nat) : List Nat := (List.range n).map fun i => ofLeBytes ((l.drop (8 * i)).take 8)

namespace State

/-- A response of registers, each as 8 bytes (17 R514); those of an absent window read as zero (00 R5). -/
def views (s : State) (l : List Nat) : List Nat := l.map fun a => if s.absentReg a then 0 else s.view a

/-- PKG_QUERY (16 R491). -/
def pkgQuery (_ : List Nat) (s : State) : State × Ans := s.answered (s.views [PKG_STATE, PKG_BOOT, PKG_STARTS, PKG_GEN, PKG_LOCK])

/-- The capture record (16 R501): image SEQ and slot, the beat, the registers, the journal. -/
def captureRecord (s : State) : List Nat :=
  [(s.pkg.image.map (·.seq)).getD 0, s.rd PKG_BOOT fPKG_BOOT_SLOT, s.beat] ++ s.views captureAddrs
    ++ (List.range 8192).flatMap (fun k => bytesWords 8 (s.jnlAt k).bytes)

/-- A command that names a host address fails without Bus Master Enable (17 R516). -/
def busMaster (s : State) : Bool := s.on HIF_STATUS fHIF_STATUS_BME

/-- RETURN_CAPTURE (16 R501); `part` leaves it executing. -/
def returnCapture (seq : Nat) (part : Bool) (a : List Nat) (s : State) : State × Ans :=
  let addr := a.getD 0 0
  if s.pkg.flashBy.any fun q => q ≠ seq then s.refuse stFlashBusy
  else if addr ≠ 0 && !s.busMaster then (s, .failed stBadArgs 0 [])
  else
    let s := s.modPkg fun p => { p with flash := { p.flash with captured := false, capture := [] } }
    if part then (s.modPkg fun p => { p with flashBy := some seq }, .waits)
    else
      let rec_ := s.captureRecord
      let s := s.modPkg fun p => { p with flashBy := none, flash := { p.flash with captured := true, capture := rec_ } }
      let s := if addr = 0 then s else s.emit (.host addr (wordBytes rec_))
      ((s.wr PKG_LOCK fPKG_LOCK_CAPTURED 1).raise PKG_EVENTS fPKG_EVENTS_CAPTURE_DONE, .done 0 [])

/-- The flash slot that is not in use, and a new content of it (16 R467, R475). -/
def putSlot (s : State) (x : FlashSlot) : State :=
  s.modPkg fun p => { p with flash := if s.on PKG_BOOT fPKG_BOOT_SLOT then { p.flash with a := x } else { p.flash with b := x } }

/-- FLASH_WRITE (16 R475): the header sector is erased first; the checks of R473 and the SEQ decide whether it is written. `part` leaves the
command executing after the erase; `image` is what the host's memory holds. -/
def flashWrite (seq : Nat) (image : List Nat) (part : Bool) (a : List Nat) (s : State) : State × Ans :=
  let l := image.take (a.getD 1 0)
  if s.pkg.flashBy.any fun q => q ≠ seq then s.refuse stFlashBusy
  else if !s.busMaster then (s, .failed stBadArgs 0 [])
  else
    let s := s.putSlot .erased
    if part then (s.modPkg fun p => { p with flashBy := some seq }, .waits)
    else
      let s := s.modPkg fun p => { p with flashBy := none }
      let newer := match s.pkg.image with
        | some i => decide (i.seq < imgNum l 8 8)
        | none => true
      if decide (l.length ≤ slotSize) && headerCode l s.pkg.fuse.part = 0 && contentCode l s.pkg.fuse.key = 0 && newer then
        (s.putSlot (.bytes l), .done 0 [])
      else s.refuse stFlashCheck

/-- JNL_QUERY (16 R491): the entries held, from a first sequence number on. -/
def jnlQuery (a : List Nat) (s : State) : State × Ans :=
  if 64 < a.getD 1 0 then s.refuse stBadArgs
  else
    let es := ((List.range (a.getD 1 0)).map fun k => s.jnlAt (a.getD 0 0 + k)).zip (List.range (a.getD 1 0))
    s.answered ((es.filter fun e => decide (e.1.seq ≠ 0) && decide (e.1.seq = a.getD 0 0 + e.2)).flatMap fun e => bytesWords 8 e.1.bytes)

/-- JNL_SPILL (16 R495). -/
def jnlSpill (a : List Nat) (s : State) : State × Ans :=
  let n := a.getD 1 0
  if n = 0 then (s.wr JNL_CTRL fJNL_CTRL_SPILL 0, .done 0 [])
  else if n < 10 || 20 < n then s.refuse stSpillArg
  else if !s.busMaster then (s, .failed stBadArgs 0 [])
  else (((s.wr JNL_SPILL_BASE fJNL_SPILL_BASE_ADDR (a.getD 0 0)).wr JNL_CTRL fJNL_CTRL_LOG2N n).wr JNL_CTRL fJNL_CTRL_SPILL 1, .done 0 [])

/-- The port class that a command row comes from (16 R485). -/
def viaClass (s : State) : Via → Nat
  | .taken q => ((s.pkg.cmds.find? fun c => c.seq = q).map (·.cls)).getD 7
  | .arrives cls _ _ => cls

/-- DBG_UNLOCK (16 R488): the lock opens only from HOST (17 R529). -/
def dbgUnlock (cls : Nat) (_ : List Nat) (s : State) : State × Ans :=
  if cls ≠ 1 then s.refuse stPermDenied else ((s.wr PKG_LOCK fPKG_LOCK_DBG_LOCKED 0).raise PKG_EVENTS fPKG_EVENTS_DBG_UNLOCKED, .done 0 [])

/-- DBG_LOCK (16 R488). -/
def dbgLock (_ : List Nat) (s : State) : State × Ans := (s.wr PKG_LOCK fPKG_LOCK_DBG_LOCKED 1, .done 0 [])

end State

/-- PKG_QUERY (16 R491). -/
def execPkgQuery (via : Via) (s : State) : Res := .next (s.command 0x1000 via State.pkgQuery)

/-- FLASH_WRITE (16 R475, R491). -/
def execFlashWrite (via : Via) (image : List Nat) (part : Bool) (s : State) : Res :=
  .next (s.command 0x1006 via (State.flashWrite (s.viaSeq via) image part))

/-- JNL_QUERY (16 R491). -/
def execJnlQuery (via : Via) (s : State) : Res := .next (s.command 0x1007 via State.jnlQuery)

/-- JNL_SPILL (16 R491, R495). -/
def execJnlSpill (via : Via) (s : State) : Res := .next (s.command 0x1008 via State.jnlSpill)

/-- DBG_UNLOCK (16 R488, R491). -/
def execDbgUnlock (via : Via) (s : State) : Res := .next (s.command 0x1009 via (State.dbgUnlock (s.viaClass via)))

/-- DBG_LOCK (16 R488, R491). -/
def execDbgLock (via : Via) (s : State) : Res := .next (s.command 0x100A via State.dbgLock)

/-- RETURN_CAPTURE (16 R491, R501). -/
def execReturnCapture (via : Via) (part : Bool) (s : State) : Res :=
  .next (s.command 0x100B via (State.returnCapture (s.viaSeq via) part))

end Sys2Proof.Machine
end

