-- ==== Sys2Proof/Machine/HostPort.lean ====
section
/-!
DEFINITION. Machine/HostPort.lean: the stack window (17 R509-R511), the command queues (R513-R516), the resets of the host port (R519), the
CXL ports (R520-R522).
-/

namespace Sys2Proof.Machine

/-- Bytes of the BAR2 window (17 R505). -/
def bar2Size : Nat := 2 ^ 36

/-- The PCIe outcome of a response (17 R510): 0 successful, 1 Unsupported Request, 2 Completer Abort. -/
def pcieOutcome (st : Nat) : Nat := if st = rsOk then 0 else if st = rsUnmapped then 1 else 2

/-- A frame of 64 bytes (17 R514) by its fields. -/
structure Frame where
  code : Nat
  alen : Nat
  tag : Nat
  raddr : Nat
  rlen : Nat
  reserved : Nat
  args : List Nat
  deriving DecidableEq, Repr

/-- The fields of a frame; `far` is what the host address of its arguments holds (17 R514). -/
def frameOf (b far : List Nat) : Frame :=
  let alen := imgNum b 2 2
  ⟨imgNum b 0 2, alen, imgNum b 4 4, imgNum b 8 8, imgNum b 16 4, imgNum b 20 4,
    bytesWords (alen / 8) (if alen ≤ 40 then b.drop 24 else far)⟩

/-- A frame parses on a port class (17 R514). -/
def Frame.parses (f : Frame) (cls : Nat) : Bool :=
  (cmdBit f.code).isSome && f.alen = 8 * cmdWords f.code && f.reserved = 0 && (cls = 1 || decide (f.alen ≤ 40))

/-- The 32 bytes of a completion entry (17 R515). -/
def entryBytes (c : Comp) (phase : Nat) : List Nat :=
  leBytes 4 c.tag ++ leBytes 2 c.status ++ [c.outcome % 8 + 128 * (phase % 2), 0] ++ leBytes 8 c.seq ++ leBytes 4 c.resp.length
    ++ leBytes 4 c.detail ++ (if c.resp.length ≤ 8 then c.resp ++ List.replicate (8 - c.resp.length) 0 else List.replicate 8 0)

namespace State

/-- The stack-tier offset of a BAR2 offset (17 R509). -/
def bar2Off (s : State) (a : Nat) : Nat := s.rd HIF_BAR2 fHIF_BAR2_BASE * 2 ^ 30 + a

/-- The hint and use count of BAR2 requests (17 R509). -/
def bar2Hint (s : State) : Hint := ⟨s.rd HIF_BAR2 fHIF_BAR2_HINT, s.rd HIF_BAR2 fHIF_BAR2_USE, false⟩

/-- A BAR2 request that did not end OK is recorded (17 R510). -/
def bar2Fail (s : State) (a st : Nat) (write : Bool) : State :=
  let s := (s.wr HIF_BAR2_ERR fHIF_BAR2_ERR_STATUS st).wr HIF_BAR2_ERR fHIF_BAR2_ERR_WRITE (if write then 1 else 0)
  ((s.bump HIF_BAR2_ERR fHIF_BAR2_ERR_COUNT 1).wr HIF_BAR2_EADDR fHIF_BAR2_EADDR_OFFSET a).raise HIF_EVENTS fHIF_EVENTS_BAR2_ERR

/-- A BAR2 read or AtomicOp is completed (17 R510). -/
def bar2Complete (r : Rsp) (a : Nat) : State :=
  if r.st = rsOk then r.s.emit (.pcie 0 r.data) else (r.s.bar2Fail a r.st false).emit (.pcie (pcieOutcome r.st) [])

/-- A BAR2 read (17 R509, R510, R531). -/
def bar2Read (s : State) (a len : Nat) : State :=
  if len = 0 then s.emit (.pcie 0 [0, 0, 0, 0]) else bar2Complete (s.stackRead (s.bar2Off a) len s.bar2Hint) a

/-- A BAR2 write (17 R509, R510). -/
def bar2Write (s : State) (a : Nat) (data : List Nat) : State :=
  let r := s.stackWrite (s.bar2Off a) data s.bar2Hint
  if r.st = rsOk then r.s else r.s.bar2Fail a r.st true

/-- An AtomicOp on BAR2 (17 R511): 0 FetchAdd, 1 Swap, 2 CAS. -/
def bar2Atomic (s : State) (a op size operand compare : Nat) : State :=
  if (size ≠ 4 && size ≠ 8) || a % size ≠ 0 || 2 < op then s.emit (.pcie 1 [])
  else bar2Complete (s.atomic (s.bar2Off a) op size operand compare) a

/-- Entries that the host has not consumed, and HOST commands whose entry is to come (17 R513). -/
def cqBusy (s : State) : Nat :=
  let n := 2 ^ s.rd HIF_CQ fHIF_CQ_LOG2
  (s.rd HIF_CQ fHIF_CQ_TAIL + n - s.rd HIF_CQ fHIF_CQ_HEAD % n) % n + (s.pkg.cmds.filter fun c => c.cls = 1 && !c.quiet).length
    + (s.pkg.comps.filter fun c => c.cls = 1).length

/-- Firmware may fetch the frame at HEAD (17 R513, R516). -/
def mayFetch (s : State) : Bool :=
  s.hostUp && s.on HIF_CTRL fHIF_CTRL_CQEN && s.busMaster && s.rd HIF_SQ fHIF_SQ_HEAD ≠ s.rd HIF_SQ fHIF_SQ_TAIL
    && decide (s.cqBusy < 2 ^ s.rd HIF_CQ fHIF_CQ_LOG2)

/-- HEAD moves past the frame accepted (17 R513). -/
def frameTaken (s : State) : State := s.wr HIF_SQ fHIF_SQ_HEAD ((s.rd HIF_SQ fHIF_SQ_HEAD + 1) % 2 ^ s.rd HIF_SQ fHIF_SQ_LOG2)

/-- A frame of a port class: taken as a command, or answered as one that does not parse (17 R514, R515). -/
def takeFrame (s : State) (cls : Nat) (f : Frame) : State :=
  if f.parses cls then (s.takeCommand cls 0 f.code f.tag f.raddr f.rlen f.args).1
  else (s.frameErr).deliver ⟨cls, f.tag, stBadArgs, ocRefused, 0, 0, f.raddr, []⟩

/-- The oldest completion of a port class leaves the queue. -/
def dropComp (s : State) (cls : Nat) : State :=
  s.modPkg fun p => { p with comps := p.comps.eraseP fun c => c.cls = cls }

/-- The oldest completion that a port class has to come. -/
def oldestComp (s : State) (cls : Nat) : Option Comp := s.pkg.comps.find? fun c => c.cls = cls

/-- The oldest HOST completion is written: its response, its entry, the message (17 R515-R518). -/
def entryOut (s : State) : State :=
  match s.oldestComp 1 with
  | none => s
  | some c =>
    if !s.hostUp || !s.on HIF_CTRL fHIF_CTRL_CQEN || !s.busMaster then s
    else
      let s := s.dropComp 1
      let t := s.rd HIF_CQ fHIF_CQ_TAIL
      let ph := s.rd HIF_CQ fHIF_CQ_PHASE
      let n := 2 ^ s.rd HIF_CQ fHIF_CQ_LOG2
      let s := if 8 < c.resp.length && c.raddr ≠ 0 then s.emit (.host c.raddr c.resp) else s
      let s := s.emit (.host (s.rd HIF_CQ_BASE fHIF_CQ_BASE_ADDR * 2 ^ 12 + 32 * t) (entryBytes c ph))
      let s := s.wr HIF_CQ fHIF_CQ_TAIL ((t + 1) % n)
      let s := if (t + 1) % n = 0 then s.wr HIF_CQ fHIF_CQ_PHASE (1 - ph) else s
      s.sendMsi 0

/-- A host read fails or exceeds HIF_TMO.DMA (17 R516): it read a frame's arguments, or the source of an accepted command. -/
def dmaFail (s : State) (seq : Nat) (frame : List Nat) : State :=
  let err := fun (s : State) => s.raise HIF_EVENTS fHIF_EVENTS_DMA_ERR
  match s.pkg.cmds.find? fun c => c.seq = seq with
  | some c => if c.code = 0x1006 then
      err ((if s.pkg.flashBy = some seq then s.modPkg fun p => { p with flashBy := none } else s).finishCmd c ocFailed stBadArgs 0 [])
    else s
  | none =>
    let f := frameOf frame []
    if !s.mayFetch then s
    else if f.alen ≤ 40 || frame.isEmpty then err s
    else err ((s.frameTaken).deliver ⟨1, f.tag, stBadArgs, ocFailed, 0, 0, f.raddr, []⟩)

/-- The HIF registers at their reset values; what the link, the CXL ports, SMBus and JTAG show of themselves stays (17 R519, R532). -/
def hifReset (s : State) : State :=
  let up := s.reg HIF_STATUS
  let jtag := s.rd HIF_JTAG fHIF_JTAG_DBG_PEND
  let smb := s.reg HIF_SMB
  let cxl := (List.range 3).map fun k => s.reg (HIF_CXL k)
  let s := { s with regs := s.regs.filter fun p => !(decide (HIF_CTRL ≤ p.1) && decide (p.1 < HIF_CTRL + 0x10000)) }
  let s := (s.setReg HIF_STATUS (fset (fset up fHIF_STATUS_BME 0) fHIF_STATUS_D3HOT 0)).wr HIF_JTAG fHIF_JTAG_DBG_PEND jtag
  let s := (s.wr HIF_SMB fHIF_SMB_ALERT (fget smb fHIF_SMB_ALERT)).wr HIF_SMB fHIF_SMB_ADDR (fget smb fHIF_SMB_ADDR)
  (List.range 3).foldl (fun s k => s.setReg (HIF_CXL k) (fset (cxl.getD k 0#64) fHIF_CXL_ERR 0)) s

/-- A reset of the host port (17 R519): configuration space and MSI-X, HIF registers, queues; accepted commands go on, their entries are
discarded. -/
def portReset (s : State) : State :=
  let s := s.hifReset.modPkg fun p => { p with
    comps := p.comps.filter fun c => c.cls ≠ 1
    cmds := p.cmds.map fun c => if c.cls = 1 then { c with quiet := true } else c }
  { s with msix := State.reset.msix }

/-- The link retrains and the host port resets (17 R519). -/
def linkAgain (s : State) (width rate : Nat) (flit : Bool) : State := s.portReset.linkTrained width rate flit

/-- A port of an I/O die that is present (17 R520). -/
def cxlHere (s : State) (p : Nat) : Bool := decide (1 ≤ p) && decide (p ≤ 3) && s.on (HIF_CXL (p - 1)) fHIF_CXL_PRESENT

/-- Bytes of a device's range (17 R521). -/
def cxlRange (cap : Nat) : Nat := cap / 2 ^ 28 * 2 ^ 28

/-- Enumeration ends: ranges, decoders, UP (17 R521, R522). Where the devices are not those of before, the port's bytes are not those of
before. -/
def cxlRanges (s : State) (p : Nat) (devs : List (Nat × Nat)) : State :=
  let was := sget [] p s.hif.cxl
  let s := if was.isEmpty || was = devs then s
    else (s.raise HIF_EVENTS fHIF_EVENTS_CXL_CHANGE).modMem fun m => { m with
      far := m.far.filter fun c => c.1 / 2 ^ 48 ≠ p - 1, farBad := m.farBad.filter fun l => l * 64 / 2 ^ 48 ≠ p - 1 }
  let s := { s with hif := { s.hif with cxl := sput [] p devs s.hif.cxl, cxlWait := s.hif.cxlWait.filter fun x => x.1 ≠ p } }
  let s := (s.wr (TIER_FAR (p - 1)) fTIER_FAR_RANGE ((devs.map fun d => cxlRange d.2).sum)).wr (TIER_FAR (p - 1)) fTIER_FAR_UP 1
  s.wr (HIF_CXL (p - 1)) fHIF_CXL_DEVS devs.length

/-- The order of enumeration (17 R521). -/
def cxlBefore (a b : CxlDev) : Bool := decide (a.bus < b.bus) || (a.bus = b.bus && decide (a.fn ≤ b.fn))

/-- Devices in that order, one inserted. -/
def cxlInsert (d : CxlDev) : List CxlDev → List CxlDev
  | [] => [d]
  | x :: t => if cxlBefore d x then d :: x :: t else x :: cxlInsert d t

/-- A CXL link comes up and firmware enumerates its devices (17 R520-R522); a device that does not report its memory active is waited for. -/
def cxlUp (s : State) (p width rate : Nat) (devs : List CxlDev) : State :=
  if !s.hostUp || !s.cxlHere p || s.on (HIF_CXL (p - 1)) fHIF_CXL_UP then s
  else
    let h := HIF_CXL (p - 1)
    let s := ((s.wr h fHIF_CXL_UP 1).wr h fHIF_CXL_WIDTH width).wr h fHIF_CXL_RATE rate
    let s := (s.wr h fHIF_CXL_DEGRADED (if width = 16 && rate = 6 then 0 else 1)).raise HIF_EVENTS fHIF_EVENTS_CXL_EVENT
    let l := ((devs.filter (·.type3)).foldr cxlInsert []).take 4
    let late := (l.filter fun d => !d.active).map (·.serial)
    let on := (l.filter (·.active)).map fun d => (d.serial, d.cap)
    if late.isEmpty then s.cxlRanges p on
    else { s with hif := { s.hif with cxlWait := (s.hif.cxlWait.filter fun x => x.1 ≠ p) ++ [(p, on, late)] } }

/-- A device is not active after 60 s and is excluded (17 R521). -/
def cxlExclude (s : State) (p serial : Nat) : State :=
  match s.hif.cxlWait.find? fun x => x.1 = p && x.2.2.contains serial with
  | none => s
  | some x =>
    let s := s.raise HIF_EVENTS fHIF_EVENTS_CXL_EVENT
    let late := x.2.2.erase serial
    if late.isEmpty then s.cxlRanges p x.2.1
    else { s with hif := { s.hif with cxlWait := s.hif.cxlWait.map fun y => if y.1 = p then (p, x.2.1, late) else y } }

/-- A CXL link is lost (17 R522). -/
def cxlLost (s : State) (p : Nat) : State :=
  if !s.cxlHere p then s
  else { s.cxlDown p with hif := { (s.cxlDown p).hif with cxlWait := s.hif.cxlWait.filter fun x => x.1 ≠ p } }

end State

/-- BAR2_READ (17 R509, R510, R531). -/
def execBar2Read (addr len : Nat) (s : State) : Res :=
  .next (if s.hostUp && decide (addr + len ≤ bar2Size) then s.bar2Read addr len else s)

/-- BAR2_WRITE (17 R509, R510). -/
def execBar2Write (addr : Nat) (data : List Nat) (s : State) : Res :=
  .next (if s.hostUp && decide (addr + data.length ≤ bar2Size) then s.bar2Write addr data else s)

/-- BAR2_ATOMICOP (17 R511). -/
def execBar2Atomicop (addr op size operand compare : Nat) (s : State) : Res :=
  .next (if s.hostUp && decide (addr + size ≤ bar2Size) then s.bar2Atomic addr op size operand compare else s)

/-- BAR2_TIMEOUT (17 R510): the request has had no effect and its response will be discarded. -/
def execBar2Timeout (addr : Nat) (write : Bool) (s : State) : Res :=
  .next (if !s.hostUp || bar2Size ≤ addr then s
    else if write then s.bar2Fail addr 8 true else (s.bar2Fail addr 8 false).emit (.pcie 2 []))

/-- FRAME_FETCH (17 R513-R515): the frame at HEAD, and what the host holds at its argument address. -/
def execFrameFetch (frame args : List Nat) (s : State) : Res :=
  .next (if s.mayFetch then (s.frameTaken).takeFrame 1 (frameOf frame args) else s)

/-- COMPLETION_ENTRY_WRITE (17 R515). -/
def execCompletionEntryWrite (s : State) : Res := .next s.entryOut

/-- DMA_TIMEOUT (17 R516): the command whose source was read, or the frame whose arguments were; none: the frame itself. -/
def execDmaTimeout (seq : Nat) (frame : List Nat) (s : State) : Res := .next (if s.hostUp then s.dmaFail seq frame else s)

/-- FLR (17 R519). -/
def execFlr (s : State) : Res := .next (if s.hostUp then s.portReset.raise HIF_EVENTS fHIF_EVENTS_FLR else s)

/-- HOT_RESET (17 R519), with the link as it trains again. -/
def execHotReset (width rate : Nat) (flit : Bool) (s : State) : Res :=
  .next (if s.hostUp then (s.linkAgain width rate flit).raise HIF_EVENTS fHIF_EVENTS_FLR else s)

/-- PERST (17 R519), with the link as it trains again. -/
def execPerst (width rate : Nat) (flit : Bool) (s : State) : Res := .next (if s.hostUp then s.linkAgain width rate flit else s)

/-- CXL_LINK_UP (17 R520-R522). -/
def execCxlLinkUp (port width rate : Nat) (devs : List CxlDev) (s : State) : Res :=
  .next (let s1 := s.cxlUp port width rate devs
    if devs.any (fun d => !d.type3) && s.hostUp && s.cxlHere port && !s.on (HIF_CXL (port - 1)) fHIF_CXL_UP then
      s1.raise HIF_EVENTS fHIF_EVENTS_CXL_EVENT
    else s1)

/-- CXL_DEVICE_NOT_ACTIVE (17 R521). -/
def execCxlDeviceNotActive (port serial : Nat) (s : State) : Res := .next (s.cxlExclude port serial)

/-- CXL_LINK_DOWN (17 R522). -/
def execCxlLinkDown (port : Nat) (s : State) : Res := .next (s.cxlLost port)

/-- CXL_IO_ERROR (17 R522): counted; a fatal one is a link loss. -/
def execCxlIoError (port : Nat) (fatal : Bool) (s : State) : Res :=
  .next (if !s.cxlHere port then s
    else
      let s := s.bump (HIF_CXL (port - 1)) fHIF_CXL_ERR 1
      if fatal then s.cxlLost port else s)

end Sys2Proof.Machine
end

