-- ==== Sys2Proof/Machine/Smbus.lean ====
section
/-!
DEFINITION. Machine/Smbus.lean: the management port: SMBus and PMBus (17 R523-R527). Every write takes whether it carries a correct PEC.
-/

namespace Sys2Proof.Machine

/-- Command codes of the table of 17 R523. -/
def smbusCodes : List Nat :=
  [0x03, 0x19, 0x78, 0x79, 0x7D, 0x7E, 0x80, 0x8D, 0x8E, 0x8F, 0x97, 0x98, 0x99, 0x9A, 0x9E, 0xD0, 0xD1, 0xD8, 0xD9]

/-- n divided by d, to the nearest, ties to even. -/
def nearestEven (n d : Nat) : Nat :=
  let q := n / d
  let r := n % d
  if 2 * r < d then q else if d < 2 * r then q + 1 else q + q % 2

/-- LINEAR11: exponent and mantissa in two's complement (17 R523). -/
def linear11 (n m : Int) : Nat := ofInt 5 n * 2 ^ 11 + ofInt 11 m

/-- A power in W with the smallest exponent from 0 on whose mantissa fits (17 R523). -/
def linearPower (w : Nat) : Nat :=
  match (List.range 16).find? fun n => decide (nearestEven w (2 ^ n) ≤ 1023) with
  | some n => linear11 (Int.ofNat n) (Int.ofNat (nearestEven w (2 ^ n)))
  | none => linear11 15 1023

/-- The part number (17 R523, 01 R1). -/
def partName (part : Nat) : List Nat :=
  let ascii := fun (x : String) => x.toList.map Char.toNat
  match part with
  | 0 => ascii "BM-7210-4"
  | 1 => ascii "BM-7208-4"
  | _ => ascii "BM-7208-2"

/-- A block as it is read: its count, its bytes. -/
def smbBlock (l : List Nat) : List Nat := l.length :: l

namespace State

def modHif (s : State) (f : HifSt → HifSt) : State := { s with hif := f s.hif }

/-- A bit of STATUS_CML set; ALERT# with it (17 R523, R527). -/
def cml (s : State) (bit : Nat) : State := (s.modHif fun h => { h with stCml := Nat.lor h.stCml (2 ^ bit) }).alert

/-- A transaction not acknowledged (17 R523, R526). -/
def nack (s : State) (bit : Nat) : State :=
  ((s.cml bit).bump HIF_SMB fHIF_SMB_NACK 1).emit (.smbus false [])

/-- The port answers with bytes. -/
def smbus (s : State) (l : List Nat) : State := s.emit (.smbus true l)

/-- A read (17 R523): nothing while the package is held in reset. -/
def smbRead (s : State) (l : List Nat) : State := if s.hostUp then s.smbus l else s

/-- A write that carries its PEC takes effect; any other is ignored and counted (17 R523). -/
def smbWrite (s : State) (pec : Bool) (f : State → State) : State :=
  if !s.hostUp then s
  else if pec then f s
  else (s.cml 5).bump HIF_SMB fHIF_SMB_PECERR 1

/-- The status bits of the warnings in force (17 R525): STATUS_TEMPERATURE, STATUS_MFR_SPECIFIC. -/
def inForce (s : State) : Nat × Nat :=
  ((List.range 15).filter fun k => s.rd PWR_WARN fPWR_WARN_WARN / 2 ^ k % 2 = 1).foldl (fun b k =>
    (Nat.lor b.1 (warnStatus (k + 1)).1, Nat.lor b.2 (warnStatus (k + 1)).2)) (0, 0)

/-- The clock stop is in force (15 R448). -/
def stopped (s : State) : Bool := s.rd PWR_STATUS fPWR_STATUS_STATE = 3

def statusTemperature (s : State) : Nat := Nat.lor s.hif.stTemp s.inForce.1

def statusMfr (s : State) : Nat := Nat.lor s.hif.stMfr s.inForce.2

/-- STATUS_WORD (17 R525). -/
def statusWord (s : State) : Nat :=
  (if s.statusMfr ≠ 0 then 2 ^ 12 else 0) + (if s.hif.stStop || s.stopped then 2 ^ 6 else 0)
    + (if s.statusTemperature ≠ 0 then 2 ^ 2 else 0) + (if s.hif.stCml ≠ 0 then 2 else 0)

/-- CLEAR_FAULTS (17 R523, R525, R527). -/
def clearFaults (s : State) : State :=
  (s.modHif fun h => { h with stTemp := s.inForce.1, stMfr := s.inForce.2, stCml := 0, stStop := s.stopped }).wr HIF_SMB fHIF_SMB_ALERT 0

/-- A coolant report of seven bytes (17 R524); the control cores of a HALTED package read none. -/
def coolantWrite (s : State) (data : List Nat) : State :=
  if data.length ≠ 7 then s.cml 6
  else if s.pkState = pkHalted then s
  else s.coolReport (imgNum data 0 2) (imgNum data 2 2) (imgNum data 4 2) (imgNum data 6 1)

/-- MFR_BUDGET is journaled as PWR_SET_BUDGET and leaves no completion to read (17 R523). -/
def budgetWrite (s : State) (w : Nat) : State :=
  let r := s.takeCommand 0 0 0x0F01 0 0 0 [w % 2 ^ 16]
  match r.2 with
  | none => (r.1.modPkg fun p => { p with comps := s.pkg.comps }).wr HIF_SMB fHIF_SMB_ALERT (s.rd HIF_SMB fHIF_SMB_ALERT)
  | some c =>
    (r.1.modPkg fun p => { p with cmds := p.cmds.map fun x => if x.seq = c.seq then { x with quiet := true } else x }).runCmd
      { c with quiet := true } pwrSetBudget

/-- A frame written to MFR_CMD (17 R526, R531): one of another length than 64 does not parse. -/
def frameWrite (s : State) (frame : List Nat) : State :=
  if 8 ≤ (s.pkg.comps.filter fun c => c.cls = 0).length then s.nack 1
  else
    let f := frameOf frame []
    let f := if frame.length = 64 then f else { f with code := 0 }
    let s := if f.parses 0 then s.bump HIF_SMB fHIF_SMB_FRAMES 1 else s
    s.takeFrame 0 f

/-- MFR_RSP (17 R526): the oldest MGMT completion, which the read releases. -/
def responseRead (s : State) : State :=
  match s.oldestComp 0 with
  | none => s.smbus [0]
  | some c => (s.dropComp 0).smbus (smbBlock (entryBytes c 0 ++ c.resp.take 192))

/-- A read of the Alert Response Address (17 R527). -/
def alertRead (s : State) (won : Bool) : State :=
  if won && s.on HIF_SMB fHIF_SMB_ALERT then (s.wr HIF_SMB fHIF_SMB_ALERT 0).smbus [s.rd HIF_SMB fHIF_SMB_ADDR] else s

end State

/-- CLEAR_FAULTS (17 R523, R525). -/
def execClearFaults (pec : Bool) (s : State) : Res := .next (s.smbWrite pec State.clearFaults)

/-- CAPABILITY (17 R523). -/
def execCapability (s : State) : Res := .next (s.smbRead [0xD0])

/-- STATUS_BYTE (17 R523, R525). -/
def execStatusByte (s : State) : Res := .next (s.smbRead [s.statusWord % 256])

/-- STATUS_WORD (17 R525). -/
def execStatusWord (s : State) : Res := .next (s.smbRead (leBytes 2 s.statusWord))

/-- STATUS_TEMPERATURE (17 R525). -/
def execStatusTemperature (s : State) : Res := .next (s.smbRead [s.statusTemperature])

/-- STATUS_CML (17 R523). -/
def execStatusCml (s : State) : Res := .next (s.smbRead [s.hif.stCml])

/-- STATUS_MFR_SPECIFIC (17 R525). -/
def execStatusMfrSpecific (s : State) : Res := .next (s.smbRead [s.statusMfr])

/-- READ_TEMPERATURE_1 (17 R523): half degrees. -/
def execReadTemperature1 (s : State) : Res := .next (s.smbRead (leBytes 2 (linear11 (-1) s.hottest)))

/-- READ_TEMPERATURE_2 (17 R523): degrees. -/
def execReadTemperature2 (s : State) : Res := .next (s.smbRead (leBytes 2 (linear11 0 (Int.ofNat (s.rd PWR_TJ fPWR_TJ_STACKT)))))

/-- READ_TEMPERATURE_3 (17 R523): eighths of a degree, to the nearest, ties to even (log entry 67). -/
def execReadTemperature3 (s : State) : Res :=
  .next (s.smbRead (leBytes 2 (linear11 (-3) (Int.ofNat (nearestEven (s.rd PWR_COOL fPWR_COOL_INLET) 2)))))

/-- READ_PIN (17 R523). -/
def execReadPin (s : State) : Res := .next (s.smbRead (leBytes 2 (linearPower (s.rd PWR_POWER fPWR_POWER_P1MS))))

/-- PMBUS_REVISION (17 R523). -/
def execPmbusRevision (s : State) : Res := .next (s.smbRead [0x44])

/-- MFR_ID (17 R523). -/
def execMfrId (s : State) : Res := .next (s.smbRead (smbBlock ("HOKUTRUM".toList.map Char.toNat)))

/-- MFR_MODEL (17 R523). -/
def execMfrModel (s : State) : Res := .next (s.smbRead (smbBlock (partName s.pkg.fuse.part)))

/-- MFR_SERIAL (17 R523). -/
def execMfrSerial (s : State) : Res := .next (s.smbRead (smbBlock (leBytes 8 (s.rd PKG_SERIAL fPKG_SERIAL_SERIAL))))

/-- MFR_COOLANT (17 R524, 15 R450). -/
def execMfrCoolant (data : List Nat) (pec : Bool) (s : State) : Res := .next (s.smbWrite pec fun s => s.coolantWrite data)

/-- MFR_BUDGET (17 R523, 15 R432): a write of a word in W, or a read. -/
def execMfrBudget (write : Bool) (watts : Nat) (pec : Bool) (s : State) : Res :=
  .next (if write then s.smbWrite pec fun s => s.budgetWrite watts else s.smbRead (leBytes 2 (s.rd PWR_BUDGET fPWR_BUDGET_WATTS)))

/-- MFR_CMD (17 R526). -/
def execMfrCmd (frame : List Nat) (pec : Bool) (s : State) : Res := .next (s.smbWrite pec fun s => s.frameWrite frame)

/-- MFR_RSP (17 R526). -/
def execMfrRsp (s : State) : Res := .next (if s.hostUp then s.responseRead else s)

/-- SMBUS_INVALID_COMMAND (17 R523): a code that the table does not list. -/
def execSmbusInvalidCommand (code : Nat) (s : State) : Res :=
  .next (if !s.hostUp || smbusCodes.contains code then s else s.nack 7)

/-- ALERT_RESPONSE (17 R527). -/
def execAlertResponse (won : Bool) (s : State) : Res := .next (if s.hostUp then s.alertRead won else s)

end Sys2Proof.Machine
end

