-- ==== Sys2Proof/Machine/Jtag.lean ====
section
/-!
DEFINITION. Machine/Jtag.lean: the test port (17 R528, R529). A row is one scan: what Capture-DR takes leaves, what Update-DR is given is the
operand.
-/

namespace Sys2Proof.Machine

namespace State

/-- Boundary-scan instructions that take the pins act now (17 R528). -/
def scanActs (s : State) : Bool := s.pkState = pkReset || s.pkState = pkRecovery

/-- BYPASS (17 R528): the pins are the package's, one bit 0 is captured. -/
def bypass (s : State) : State := (s.modHif fun h => { h with drive := 0 }).emit (.jtag 0)

/-- An instruction that takes the pins, or BYPASS with REFUSED (17 R528). -/
def takePins (s : State) (f : State → State) : State :=
  if s.scanActs then f s else s.bypass.wr HIF_JTAG fHIF_JTAG_REFUSED 1

/-- The device identity word (17 R528); the manufacturer's field has no stated value (log entry 68). -/
def idcode (s : State) : Nat :=
  s.rd PKG_REV fPKG_REV_CD % 16 * 2 ^ 28 + s.rd PKG_ID fPKG_ID_DEVID * 2 ^ 12 + Config.manufacturer 0 % 2 ^ 11 * 2 + 1

/-- The debug lock is closed (16 R488). -/
def locked (s : State) : Bool := s.on PKG_LOCK fPKG_LOCK_DBG_LOCKED

/-- The size of a DBGREG access (17 R529): the register's own (log entry 69). -/
def dbgSize (addr : Nat) : Nat :=
  match regAt (canonReg addr) with
  | some r => if r.reg.size = 64 && addr % 8 = 0 then 8 else 4
  | none => 4

/-- The access of a DBGREG scan (17 R529). -/
def dbgAccess (s : State) (write : Bool) (addr data : Nat) : State :=
  if s.locked || !s.hostUp then
    (if write then s else s.modHif fun h => { h with dbgData := 0 }).wr HIF_JTAG fHIF_JTAG_REFUSED 1
  else if addr % 4 ≠ 0 || 2 ^ 26 ≤ addr then
    if write then s.frameErr else s.frameErr.modHif fun h => { h with dbgData := 0 }
  else if write then s.writeReg 4 addr (dbgSize addr) data []
  else
    let r := s.readReg addr (dbgSize addr)
    r.1.modHif fun h => { h with dbgData := r.2 }

end State

/-- EXTEST (17 R528): the pins as captured, the bits that drive them. -/
def execExtest (pins bits : Nat) (s : State) : Res :=
  .next (s.takePins fun s => (s.modHif fun h => { h with scan := bits, drive := 1 }).emit (.jtag pins))

/-- SAMPLE_PRELOAD (17 R528): the pins as captured, the bits loaded. -/
def execSamplePreload (pins bits : Nat) (s : State) : Res :=
  .next ((s.modHif fun h => { h with scan := bits, drive := 0 }).emit (.jtag pins))

/-- CLAMP (17 R528). -/
def execClamp (s : State) : Res := .next (s.takePins fun s => (s.modHif fun h => { h with drive := 1 }).emit (.jtag 0))

/-- HIGHZ (17 R528). -/
def execHighz (s : State) : Res := .next (s.takePins fun s => (s.modHif fun h => { h with drive := 2 }).emit (.jtag 0))

/-- IDCODE (17 R528). -/
def execIdcode (s : State) : Res := .next ((s.modHif fun h => { h with drive := 0 }).emit (.jtag s.idcode))

/-- BYPASS (17 R528). -/
def execBypass (s : State) : Res := .next s.bypass

/-- DBGREG (17 R529): a scan of 96 bits; the data that the last read brought is captured. -/
def execDbgreg (word : Nat) (s : State) : Res :=
  .next (((s.modHif fun h => { h with drive := 0 }).emit (.jtag s.hif.dbgData)).dbgAccess (word / 2 ^ 95 % 2 = 1) (word / 2 ^ 64 % 2 ^ 28)
    (word % 2 ^ 64))

/-- DBGCMD (17 R529): a frame of 64 bytes; refused and journaled while the lock is closed. -/
def execDbgcmd (frame : List Nat) (s : State) : Res :=
  .next (
    let s := s.modHif fun h => { h with drive := 0 }
    let f := frameOf frame []
    if !s.hostUp then s
    else if s.locked then s.refuseNew 4 0 f.code f.tag f.args stPermDenied
    else s.takeFrame 4 f)

/-- DBGCMD_CAPTURE (17 R529): the oldest DBG completion and the first 32 bytes of its response leave, and it is released. -/
def execDbgcmdCapture (s : State) : Res :=
  .next (match s.oldestComp 4 with
    | none => s.emit (.jtag 0)
    | some c =>
      let s := (s.dropComp 4).emit (.jtag (ofLeBytes (entryBytes c 0 ++ c.resp.take 32)))
      s.wr HIF_JTAG fHIF_JTAG_DBG_PEND (if (s.oldestComp 4).isSome then 1 else 0))

end Sys2Proof.Machine
end

