-- ==== Sys2Proof/Machine/Dispatch.lean ====
section
/-!
DEFINITION. Machine/Dispatch.lean: which meaning a command has, one arm per constructor.
-/

namespace Sys2Proof.Machine

/-- The effect of a command on everything but the queue. -/
def exec (i : Instr) (s : State) : Host.Outcome State Fault Refusal :=
  match i with
  | .mwld core stream => Sys2Proof.Machine.execMwld core stream s
  | .mwldBufferValid core ord => Sys2Proof.Machine.execMwldBufferValid core ord s
  | .mmul core stream => Sys2Proof.Machine.execMmul core stream s
  | .mmulComplete core ord => Sys2Proof.Machine.execMmulComplete core ord s
  | .accld core stream => Sys2Proof.Machine.execAccld core stream s
  | .accldComplete core ord => Sys2Proof.Machine.execAccldComplete core ord s
  | .drain core stream => Sys2Proof.Machine.execDrain core stream s
  | .hookRow core eng => Sys2Proof.Machine.execHookRow core eng s
  | .drainComplete core ord => Sys2Proof.Machine.execDrainComplete core ord s
  | .ssmul core stream => Sys2Proof.Machine.execSsmul core stream s
  | .ssmulComplete core ord => Sys2Proof.Machine.execSsmulComplete core ord s
  | .snchkCheck core stream => Sys2Proof.Machine.execSnchkCheck core stream s
  | .snchkEnd core stream => Sys2Proof.Machine.execSnchkEnd core stream s
  | .vsetl core stream => Sys2Proof.Machine.execVsetl core stream s
  | .vsetv core stream => Sys2Proof.Machine.execVsetv core stream s
  | .vmap core stream => Sys2Proof.Machine.execVmap core stream s
  | .vcvt core stream => Sys2Proof.Machine.execVcvt core stream s
  | .vred core stream => Sys2Proof.Machine.execVred core stream s
  | .vkrn core stream => Sys2Proof.Machine.execVkrn core stream s
  | .veInstructionComplete core ord => Sys2Proof.Machine.execVeInstructionComplete core ord s
  | .dmovCopy core stream => Sys2Proof.Machine.execDmovCopy core stream s
  | .dmovTensor core stream => Sys2Proof.Machine.execDmovTensor core stream s
  | .dmovFill core stream => Sys2Proof.Machine.execDmovFill core stream s
  | .dmovComplete core ord => Sys2Proof.Machine.execDmovComplete core ord s
  | .dmovFailed core ord row => Sys2Proof.Machine.execDmovFailed core ord row s
  | .probeStart core stream pc => Sys2Proof.Machine.execProbeStart core stream pc s
  | .probeTickExpiry core stream pc => Sys2Proof.Machine.execProbeTickExpiry core stream pc s
  | .nop core stream => Sys2Proof.Machine.execNop core stream s
  | .halt core stream => Sys2Proof.Machine.execHalt core stream s
  | .streamEntersHalted core stream => Sys2Proof.Machine.execStreamEntersHalted core stream s
  | .smovi core stream => Sys2Proof.Machine.execSmovi core stream s
  | .salu core stream => Sys2Proof.Machine.execSalu core stream s
  | .sld core stream => Sys2Proof.Machine.execSld core stream s
  | .sldLoadComplete core stream reg => Sys2Proof.Machine.execSldLoadComplete core stream reg s
  | .sst core stream => Sys2Proof.Machine.execSst core stream s
  | .br core stream => Sys2Proof.Machine.execBr core stream s
  | .dbnz core stream => Sys2Proof.Machine.execDbnz core stream s
  | .tinc core stream => Sys2Proof.Machine.execTinc core stream s
  | .tadv core stream => Sys2Proof.Machine.execTadv core stream s
  | .treset core stream => Sys2Proof.Machine.execTreset core stream s
  | .tepoch core stream => Sys2Proof.Machine.execTepoch core stream s
  | .tickb core stream => Sys2Proof.Machine.execTickb core stream s
  | .hint core stream => Sys2Proof.Machine.execHint core stream s
  | .waitc core stream => Sys2Proof.Machine.execWaitc core stream s
  | .rdt core stream => Sys2Proof.Machine.execRdt core stream s
  | .instructionFetch core stream => Sys2Proof.Machine.execInstructionFetch core stream s
  | .guardWatchdog core stream => Sys2Proof.Machine.execGuardWatchdog core stream s
  | .tsIncrement k => Sys2Proof.Machine.execTsIncrement k s
  | .streamStopped core stream => Sys2Proof.Machine.execStreamStopped core stream s
  | .tickBoundary zone => Sys2Proof.Machine.execTickBoundary zone s
  | .pendingSegmentEffect => Sys2Proof.Machine.execPendingSegmentEffect s
  | .beatReplicaWrite => Sys2Proof.Machine.execBeatReplicaWrite s
  | .timeExchange => Sys2Proof.Machine.execTimeExchange s
  | .exchangeMissed => Sys2Proof.Machine.execExchangeMissed s
  | .originTimeout => Sys2Proof.Machine.execOriginTimeout s
  | .droopTrip zone depth => Sys2Proof.Machine.execDroopTrip zone depth s
  | .realignmentStretch zone => Sys2Proof.Machine.execRealignmentStretch zone s
  | .neighbourInformed crossing => Sys2Proof.Machine.execNeighbourInformed crossing s
  | .crossingSynchronous crossing => Sys2Proof.Machine.execCrossingSynchronous crossing s
  | .glideStart => Sys2Proof.Machine.execGlideStart s
  | .glideEnd => Sys2Proof.Machine.execGlideEnd s
  | .ageingSample core loss => Sys2Proof.Machine.execAgeingSample core loss s
  | .stackRead id addr len hint use errs cacheErr => Sys2Proof.Machine.execStackRead id addr len hint use errs cacheErr s
  | .stackWrite id addr hint use data => Sys2Proof.Machine.execStackWrite id addr hint use data s
  | .stackAtomic id addr aop wide op cmp => Sys2Proof.Machine.execStackAtomic id addr aop wide op cmp s
  | .cacheFill k => Sys2Proof.Machine.execCacheFill k s
  | .stackFault site ch dead => Sys2Proof.Machine.execStackFault site ch dead s
  | .scrubRead unit errs => Sys2Proof.Machine.execScrubRead unit errs s
  | .compactionComplete unit => Sys2Proof.Machine.execCompactionComplete unit s
  | .stackTemperatureRead site temp => Sys2Proof.Machine.execStackTemperatureRead site temp s
  | .stackCeReadout site n => Sys2Proof.Machine.execStackCeReadout site n s
  | .peatAccess id who addr write len data errs => Sys2Proof.Machine.execPeatAccess id who addr write len data errs s
  | .moduleTemperatureRead die ch temp => Sys2Proof.Machine.execModuleTemperatureRead die ch temp s
  | .directoryWalk id late => Sys2Proof.Machine.execDirectoryWalk id late s
  | .tierTimeout core w => Sys2Proof.Machine.execTierTimeout core w s
  | .lateReply tier => Sys2Proof.Machine.execLateReply tier s
  | .walkStart die => Sys2Proof.Machine.execWalkStart die s
  | .update die idx => Sys2Proof.Machine.execUpdate die idx s
  | .commitWord die idx => Sys2Proof.Machine.execCommitWord die idx s
  | .copyEmissionComplete die id => Sys2Proof.Machine.execCopyEmissionComplete die id s
  | .scan die idx => Sys2Proof.Machine.execScan die idx s
  | .normOut die idx => Sys2Proof.Machine.execNormOut die idx s
  | .normIn die idx => Sys2Proof.Machine.execNormIn die idx s
  | .entryComplete die idx => Sys2Proof.Machine.execEntryComplete die idx s
  | .walkComplete die => Sys2Proof.Machine.execWalkComplete die s
  | .degradedMark k => Sys2Proof.Machine.execDegradedMark k s
  | .sedgeLinkReset die => Sys2Proof.Machine.execSedgeLinkReset die s
  | .ckptDone die => Sys2Proof.Machine.execCkptDone die s
  | .signalDetected port => Sys2Proof.Machine.execSignalDetected port s
  | .trainingComplete port skew ok => Sys2Proof.Machine.execTrainingComplete port skew ok s
  | .disc port id => Sys2Proof.Machine.execDisc port id s
  | .flitReceive port head body crc errA errB => Sys2Proof.Machine.execFlitReceive port head body crc errA errB s
  | .linkControlNak port seq => Sys2Proof.Machine.execLinkControlNak port seq s
  | .credit port vc cls count => Sys2Proof.Machine.execCredit port vc cls count s
  | .switch port e => Sys2Proof.Machine.execSwitch port e s
  | .pause port => Sys2Proof.Machine.execPause port s
  | .resume e => Sys2Proof.Machine.execResume e s
  | .laneErrorWindow die ln ser unc => Sys2Proof.Machine.execLaneErrorWindow die ln ser unc s
  | .switchTimeout port => Sys2Proof.Machine.execSwitchTimeout port s
  | .portFailure port => Sys2Proof.Machine.execPortFailure port s
  | .transitForward port p => Sys2Proof.Machine.execTransitForward port p s
  | .fabRd port p => Sys2Proof.Machine.execFabRd port p s
  | .fabRdp port p => Sys2Proof.Machine.execFabRdp port p s
  | .fabWr port p => Sys2Proof.Machine.execFabWr port p s
  | .fabAt port p => Sys2Proof.Machine.execFabAt port p s
  | .fabInc port p => Sys2Proof.Machine.execFabInc port p s
  | .fabRdr port p => Sys2Proof.Machine.execFabRdr port p s
  | .fabWack port p => Sys2Proof.Machine.execFabWack port p s
  | .fabAtr port p => Sys2Proof.Machine.execFabAtr port p s
  | .fabIncack port p => Sys2Proof.Machine.execFabIncack port p s
  | .fabPack port p => Sys2Proof.Machine.execFabPack port p s
  | .fabNak port p => Sys2Proof.Machine.execFabNak port p s
  | .treq port p => Sys2Proof.Machine.execTreq port p s
  | .trsp port p => Sys2Proof.Machine.execTrsp port p s
  | .duplicateRecordExpiry => Sys2Proof.Machine.execDuplicateRecordExpiry s
  | .cseqHoldExpiry src => Sys2Proof.Machine.execCseqHoldExpiry src s
  | .enrolReq port src cseq trust words => Sys2Proof.Machine.execEnrolReq port src cseq trust words s
  | .enrolReqTimer => Sys2Proof.Machine.execEnrolReqTimer s
  | .enrolGrant port src cseq trust words => Sys2Proof.Machine.execEnrolGrant port src cseq trust words s
  | .enrolDeny port src cseq trust words => Sys2Proof.Machine.execEnrolDeny port src cseq trust words s
  | .ready port src cseq trust words => Sys2Proof.Machine.execReady port src cseq trust words s
  | .unready port src cseq trust words => Sys2Proof.Machine.execUnready port src cseq trust words s
  | .work port src cseq trust words => Sys2Proof.Machine.execWork port src cseq trust words s
  | .leave port src cseq trust words => Sys2Proof.Machine.execLeave port src cseq trust words s
  | .leaveAck port src cseq trust words => Sys2Proof.Machine.execLeaveAck port src cseq trust words s
  | .leaveTimeout => Sys2Proof.Machine.execLeaveTimeout s
  | .noPortUpTimeout => Sys2Proof.Machine.execNoPortUpTimeout s
  | .heartbeat port src cseq trust words => Sys2Proof.Machine.execHeartbeat port src cseq trust words s
  | .heartbeatTimer => Sys2Proof.Machine.execHeartbeatTimer s
  | .heartbeatMiss node => Sys2Proof.Machine.execHeartbeatMiss node s
  | .routeSet port src cseq trust words => Sys2Proof.Machine.execRouteSet port src cseq trust words s
  | .rmClaim port src cseq trust words => Sys2Proof.Machine.execRmClaim port src cseq trust words s
  | .claimTimer => Sys2Proof.Machine.execClaimTimer s
  | .claimSuccess => Sys2Proof.Machine.execClaimSuccess s
  | .rmSync port src cseq trust words st => Sys2Proof.Machine.execRmSync port src cseq trust words st s
  | .rmSyncTimer => Sys2Proof.Machine.execRmSyncTimer s
  | .standbyTakeover => Sys2Proof.Machine.execStandbyTakeover s
  | .quorumCheck => Sys2Proof.Machine.execQuorumCheck s
  | .hbAckLoss => Sys2Proof.Machine.execHbAckLoss s
  | .hbAck port src cseq trust words => Sys2Proof.Machine.execHbAck port src cseq trust words s
  | .tickChange port src cseq trust words => Sys2Proof.Machine.execTickChange port src cseq trust words s
  | .epochPrepare port src cseq trust words image => Sys2Proof.Machine.execEpochPrepare port src cseq trust words image s
  | .epochClose port src cseq trust words => Sys2Proof.Machine.execEpochClose port src cseq trust words s
  | .epochOpen port src cseq trust words => Sys2Proof.Machine.execEpochOpen port src cseq trust words s
  | .stepDecide port src cseq trust words => Sys2Proof.Machine.execStepDecide port src cseq trust words s
  | .normTotal port src cseq trust words => Sys2Proof.Machine.execNormTotal port src cseq trust words s
  | .nodeGen port src cseq trust words => Sys2Proof.Machine.execNodeGen port src cseq trust words s
  | .nodeRemoved port src cseq trust words => Sys2Proof.Machine.execNodeRemoved port src cseq trust words s
  | .healthStepReport port src cseq trust words => Sys2Proof.Machine.execHealthStepReport port src cseq trust words s
  | .stepTmo => Sys2Proof.Machine.execStepTmo s
  | .healthSlip port src cseq trust words => Sys2Proof.Machine.execHealthSlip port src cseq trust words s
  | .tickShrink => Sys2Proof.Machine.execTickShrink s
  | .healthBeatLost port src cseq trust words => Sys2Proof.Machine.execHealthBeatLost port src cseq trust words s
  | .healthLateContrib port src cseq trust words => Sys2Proof.Machine.execHealthLateContrib port src cseq trust words s
  | .healthMemFence port src cseq trust words => Sys2Proof.Machine.execHealthMemFence port src cseq trust words s
  | .healthPortDown port src cseq trust words => Sys2Proof.Machine.execHealthPortDown port src cseq trust words s
  | .healthTorn port src cseq trust words => Sys2Proof.Machine.execHealthTorn port src cseq trust words s
  | .healthNorm port src cseq trust words => Sys2Proof.Machine.execHealthNorm port src cseq trust words s
  | .healthPrepared port src cseq trust words => Sys2Proof.Machine.execHealthPrepared port src cseq trust words s
  | .healthLoaded port src cseq trust words => Sys2Proof.Machine.execHealthLoaded port src cseq trust words s
  | .healthSyncAck port src cseq trust words => Sys2Proof.Machine.execHealthSyncAck port src cseq trust words s
  | .healthCooling port src cseq trust words => Sys2Proof.Machine.execHealthCooling port src cseq trust words s
  | .staleRead => Sys2Proof.Machine.execStaleRead s
  | .powerControllerRun avg fixed zones => Sys2Proof.Machine.execPowerControllerRun avg fixed zones s
  | .budgetStepSample pins => Sys2Proof.Machine.execBudgetStepSample pins s
  | .budgetTakesEffect => Sys2Proof.Machine.execBudgetTakesEffect s
  | .sensorSample readings => Sys2Proof.Machine.execSensorSample readings s
  | .thermalLimitUpdate => Sys2Proof.Machine.execThermalLimitUpdate s
  | .clockStopEnd => Sys2Proof.Machine.execClockStopEnd s
  | .minimumPowerExit => Sys2Proof.Machine.execMinimumPowerExit s
  | .traySilence => Sys2Proof.Machine.execTraySilence s
  | .hintReceived k => Sys2Proof.Machine.execHintReceived k s
  | .hintPhaseEnd k => Sys2Proof.Machine.execHintPhaseEnd k s
  | .droopMarginAdapt zone => Sys2Proof.Machine.execDroopMarginAdapt zone s
  | .energyAttribution zones uds sites other => Sys2Proof.Machine.execEnergyAttribution zones uds sites other s
  | .thermalCycleSample compute io sedge => Sys2Proof.Machine.execThermalCycleSample compute io sedge s
  | .wearSaveTimer => Sys2Proof.Machine.execWearSaveTimer s
  | .powerGood env => Sys2Proof.Machine.execPowerGood env s
  | .pkgPwrgdLow ns => Sys2Proof.Machine.execPkgPwrgdLow ns s
  | .railOutOfRange ns => Sys2Proof.Machine.execRailOutOfRange ns s
  | .refclkLoss ns => Sys2Proof.Machine.execRefclkLoss ns s
  | .refclkReturn ns env => Sys2Proof.Machine.execRefclkReturn ns env s
  | .pkgRst low ns env => Sys2Proof.Machine.execPkgRst low ns env s
  | .lockstepMismatch => Sys2Proof.Machine.execLockstepMismatch s
  | .gfmtQuery via => Sys2Proof.Machine.execGfmtQuery via s
  | .gfmtPin via => Sys2Proof.Machine.execGfmtPin via s
  | .gfmtRelease via => Sys2Proof.Machine.execGfmtRelease via s
  | .gfmtLimits via => Sys2Proof.Machine.execGfmtLimits via s
  | .sqStart via => Sys2Proof.Machine.execSqStart via s
  | .sqStop via => Sys2Proof.Machine.execSqStop via s
  | .sqQuery via => Sys2Proof.Machine.execSqQuery via s
  | .udStepBegin via => Sys2Proof.Machine.execUdStepBegin via s
  | .udStepCommit via => Sys2Proof.Machine.execUdStepCommit via s
  | .udStop via => Sys2Proof.Machine.execUdStop via s
  | .udRestore via => Sys2Proof.Machine.execUdRestore via s
  | .udCkpt via => Sys2Proof.Machine.execUdCkpt via s
  | .udReemit via => Sys2Proof.Machine.execUdReemit via s
  | .udAcceptTorn via => Sys2Proof.Machine.execUdAcceptTorn via s
  | .udSetExp via => Sys2Proof.Machine.execUdSetExp via s
  | .udQuery via => Sys2Proof.Machine.execUdQuery via s
  | .memQuery via => Sys2Proof.Machine.execMemQuery via s
  | .memFence via => Sys2Proof.Machine.execMemFence via s
  | .memCompact via => Sys2Proof.Machine.execMemCompact via s
  | .memCacheRelease via => Sys2Proof.Machine.execMemCacheRelease via s
  | .memCacheFlush via => Sys2Proof.Machine.execMemCacheFlush via s
  | .ptQuery via => Sys2Proof.Machine.execPtQuery via s
  | .ptFence via => Sys2Proof.Machine.execPtFence via s
  | .ptCompact via => Sys2Proof.Machine.execPtCompact via s
  | .dirCreate via => Sys2Proof.Machine.execDirCreate via s
  | .dirSet via => Sys2Proof.Machine.execDirSet via s
  | .dirDelete via => Sys2Proof.Machine.execDirDelete via s
  | .dirQuery via => Sys2Proof.Machine.execDirQuery via s
  | .dirBeginMove via => Sys2Proof.Machine.execDirBeginMove via s
  | .dirCommitMove via => Sys2Proof.Machine.execDirCommitMove via s
  | .dirAbortMove via => Sys2Proof.Machine.execDirAbortMove via s
  | .dirMarkLost via => Sys2Proof.Machine.execDirMarkLost via s
  | .dirFlush via => Sys2Proof.Machine.execDirFlush via s
  | .fabQuery via => Sys2Proof.Machine.execFabQuery via s
  | .fabPortSet via => Sys2Proof.Machine.execFabPortSet via s
  | .fabJoin via => Sys2Proof.Machine.execFabJoin via s
  | .fabLeave via => Sys2Proof.Machine.execFabLeave via s
  | .rmQuery via => Sys2Proof.Machine.execRmQuery via s
  | .rmReshard via layout => Sys2Proof.Machine.execRmReshard via layout s
  | .rmTick via => Sys2Proof.Machine.execRmTick via s
  | .rmPolicy via => Sys2Proof.Machine.execRmPolicy via s
  | .rmHandover via => Sys2Proof.Machine.execRmHandover via s
  | .pwrQuery via => Sys2Proof.Machine.execPwrQuery via s
  | .pwrSetBudget via => Sys2Proof.Machine.execPwrSetBudget via s
  | .pwrEnergyQuery via => Sys2Proof.Machine.execPwrEnergyQuery via s
  | .pwrEnergyRelease via => Sys2Proof.Machine.execPwrEnergyRelease via s
  | .pwrForceMin via => Sys2Proof.Machine.execPwrForceMin via s
  | .pwrCoolClear via => Sys2Proof.Machine.execPwrCoolClear via s
  | .pwrResume via => Sys2Proof.Machine.execPwrResume via s
  | .pwrWearSave via => Sys2Proof.Machine.execPwrWearSave via s
  | .pkgQuery via => Sys2Proof.Machine.execPkgQuery via s
  | .warm via env => Sys2Proof.Machine.execWarm via env s
  | .cold via env => Sys2Proof.Machine.execCold via env s
  | .dieReset via env => Sys2Proof.Machine.execDieReset via env s
  | .schedLoad via image => Sys2Proof.Machine.execSchedLoad via image s
  | .schedUnload via => Sys2Proof.Machine.execSchedUnload via s
  | .flashWrite via image part => Sys2Proof.Machine.execFlashWrite via image part s
  | .jnlQuery via => Sys2Proof.Machine.execJnlQuery via s
  | .jnlSpill via => Sys2Proof.Machine.execJnlSpill via s
  | .dbgUnlock via => Sys2Proof.Machine.execDbgUnlock via s
  | .dbgLock via => Sys2Proof.Machine.execDbgLock via s
  | .returnCapture via part => Sys2Proof.Machine.execReturnCapture via part s
  | .tsInc ts value => Sys2Proof.Machine.execTsInc ts value s
  | .tsCountWrite ts value => Sys2Proof.Machine.execTsCountWrite ts value s
  | .tsTargetWrite ts value => Sys2Proof.Machine.execTsTargetWrite ts value s
  | .veSlotCfgWrite core slot value => Sys2Proof.Machine.execVeSlotCfgWrite core slot value s
  | .veSlotContentWrite core slot k value => Sys2Proof.Machine.execVeSlotContentWrite core slot k value s
  | .udRuleCfgWrite die slot value => Sys2Proof.Machine.execUdRuleCfgWrite die slot value s
  | .raticksWrite core value => Sys2Proof.Machine.execRaticksWrite core value s
  | .dirCtrlEnWrite value => Sys2Proof.Machine.execDirCtrlEnWrite value s
  | .memCtrlCenWrite site value => Sys2Proof.Machine.execMemCtrlCenWrite site value s
  | .timeCtrlAlignWrite value skews => Sys2Proof.Machine.execTimeCtrlAlignWrite value skews s
  | .udRecbaseFirstWrite die value => Sys2Proof.Machine.execUdRecbaseFirstWrite die value s
  | .timeBeatRead size => Sys2Proof.Machine.execTimeBeatRead size s
  | .registerReadClear addr size => Sys2Proof.Machine.execRegisterReadClear addr size s
  | .registerWrite addr size value => Sys2Proof.Machine.execRegisterWrite addr size value s
  | .bar2Read addr len => Sys2Proof.Machine.execBar2Read addr len s
  | .bar2Write addr data => Sys2Proof.Machine.execBar2Write addr data s
  | .bar2Atomicop addr op size operand compare => Sys2Proof.Machine.execBar2Atomicop addr op size operand compare s
  | .bar2Timeout addr write => Sys2Proof.Machine.execBar2Timeout addr write s
  | .hifBar2Write value => Sys2Proof.Machine.execHifBar2Write value s
  | .submissionDoorbell value => Sys2Proof.Machine.execSubmissionDoorbell value s
  | .frameFetch frame args => Sys2Proof.Machine.execFrameFetch frame args s
  | .turnstileDoorbell page index value => Sys2Proof.Machine.execTurnstileDoorbell page index value s
  | .completionEntryWrite => Sys2Proof.Machine.execCompletionEntryWrite s
  | .cqHeadWrite value => Sys2Proof.Machine.execCqHeadWrite value s
  | .cqenWrite value bme => Sys2Proof.Machine.execCqenWrite value bme s
  | .msixUnmask vec enable mask => Sys2Proof.Machine.execMsixUnmask vec enable mask s
  | .dmaTimeout seq frame => Sys2Proof.Machine.execDmaTimeout seq frame s
  | .flr => Sys2Proof.Machine.execFlr s
  | .hotReset width rate flit => Sys2Proof.Machine.execHotReset width rate flit s
  | .perst width rate flit => Sys2Proof.Machine.execPerst width rate flit s
  | .cxlLinkUp port width rate devs => Sys2Proof.Machine.execCxlLinkUp port width rate devs s
  | .cxlDeviceNotActive port serial => Sys2Proof.Machine.execCxlDeviceNotActive port serial s
  | .cxlLinkDown port => Sys2Proof.Machine.execCxlLinkDown port s
  | .clearFaults pec => Sys2Proof.Machine.execClearFaults pec s
  | .capability => Sys2Proof.Machine.execCapability s
  | .statusByte => Sys2Proof.Machine.execStatusByte s
  | .statusWord => Sys2Proof.Machine.execStatusWord s
  | .statusTemperature => Sys2Proof.Machine.execStatusTemperature s
  | .statusCml => Sys2Proof.Machine.execStatusCml s
  | .statusMfrSpecific => Sys2Proof.Machine.execStatusMfrSpecific s
  | .readTemperature1 => Sys2Proof.Machine.execReadTemperature1 s
  | .readTemperature2 => Sys2Proof.Machine.execReadTemperature2 s
  | .readTemperature3 => Sys2Proof.Machine.execReadTemperature3 s
  | .readPin => Sys2Proof.Machine.execReadPin s
  | .pmbusRevision => Sys2Proof.Machine.execPmbusRevision s
  | .mfrId => Sys2Proof.Machine.execMfrId s
  | .mfrModel => Sys2Proof.Machine.execMfrModel s
  | .mfrSerial => Sys2Proof.Machine.execMfrSerial s
  | .mfrCoolant data pec => Sys2Proof.Machine.execMfrCoolant data pec s
  | .mfrBudget write watts pec => Sys2Proof.Machine.execMfrBudget write watts pec s
  | .mfrCmd frame pec => Sys2Proof.Machine.execMfrCmd frame pec s
  | .mfrRsp => Sys2Proof.Machine.execMfrRsp s
  | .smbusInvalidCommand code => Sys2Proof.Machine.execSmbusInvalidCommand code s
  | .alertResponse won => Sys2Proof.Machine.execAlertResponse won s
  | .extest pins bits => Sys2Proof.Machine.execExtest pins bits s
  | .samplePreload pins bits => Sys2Proof.Machine.execSamplePreload pins bits s
  | .clamp => Sys2Proof.Machine.execClamp s
  | .highz => Sys2Proof.Machine.execHighz s
  | .idcode => Sys2Proof.Machine.execIdcode s
  | .bypass => Sys2Proof.Machine.execBypass s
  | .dbgreg word => Sys2Proof.Machine.execDbgreg word s
  | .dbgcmd frame => Sys2Proof.Machine.execDbgcmd frame s
  | .dbgcmdCapture => Sys2Proof.Machine.execDbgcmdCapture s
  | .markerLockLoss die ln => Sys2Proof.Machine.execMarkerLockLoss die ln s
  | .moduleReportedFault die ch => Sys2Proof.Machine.execModuleReportedFault die ch s
  | .farTierAccess id addr write len data bad => Sys2Proof.Machine.execFarTierAccess id addr write len data bad s
  | .cxlIoError port fatal => Sys2Proof.Machine.execCxlIoError port fatal s

end Sys2Proof.Machine
end

