-- ==== Sys2Proof/Safety.lean ====
section
/-!
DEFINITION. Safety.lean: the terms in which statements speak of the machine: the parts of the state, what a command leaves
unchanged (OnlyChanges), and the canonical form that every memory and the register file keep (Canonical).
-/

namespace Sys2Proof.Machine

/-- The parts of the state that a frame names: State's fields, with the memories and package control apart. -/
inductive Part where
  | regs | cores | incs | marks | out | counter | time | msix | fab
  | stack | peat | far | caches | dir | pwr | ud0 | ud1 | sched
  | journal | commands | completions | image | pins | fuses | flash | staged | rm | hif
  deriving DecidableEq, Repr

/-- A part of the state is the same in two states. `caches` is everything of the memory system but the bytes of its tiers. -/
def Part.same (p : Part) (s t : State) : Prop :=
  match p with
  | .regs => t.regs = s.regs
  | .cores => t.cores = s.cores
  | .incs => t.incs = s.incs
  | .marks => t.marks = s.marks
  | .out => t.out = s.out
  | .counter => t.freeCtr = s.freeCtr
  | .time => t.time = s.time
  | .msix => t.msix = s.msix
  | .fab => t.fab = s.fab
  | .stack => t.mem.stack = s.mem.stack
  | .peat => t.mem.peat = s.mem.peat
  | .far => t.mem.far = s.mem.far
  | .caches => { t.mem with stack := [], peat := [], far := [] } = { s.mem with stack := [], peat := [], far := [] }
  | .dir => t.dir = s.dir
  | .pwr => t.pwr = s.pwr
  | .ud0 => t.ud0 = s.ud0
  | .ud1 => t.ud1 = s.ud1
  | .sched => t.sched = s.sched
  | .journal => t.pkg.jnl = s.pkg.jnl
  | .commands => t.pkg.cmds = s.pkg.cmds
  | .completions => t.pkg.comps = s.pkg.comps
  | .image => t.pkg.image = s.pkg.image
  | .pins => t.pkg.pins = s.pkg.pins
  | .fuses => t.pkg.fuse = s.pkg.fuse
  | .flash => t.pkg.flash = s.pkg.flash
  | .staged => t.pkg.staged = s.pkg.staged ∧ t.pkg.flashBy = s.pkg.flashBy
    ∧ t.pkg.migr = s.pkg.migr ∧ t.pkg.fwd = s.pkg.fwd
  | .rm => t.rm = s.rm
  | .hif => t.hif = s.hif

/-- Between two states only the listed parts may differ. -/
def OnlyChanges (changed : List Part) (s t : State) : Prop := ∀ p, p ∉ changed → p.same s t

/-- The registers and every memory hold their one canonical form: keys strictly rising, nothing listed that an unlisted key reads
as. Then equal contents are equal data. -/
structure Canonical (s : State) : Prop where
  regs : swf resetWord s.regs = true
  cores : ∀ p ∈ s.cores, Memory.wf p.2.mem = true
  stack : Memory.wf s.mem.stack = true
  peat : Memory.wf s.mem.peat = true
  far : Memory.wf s.mem.far = true


namespace State

/-- The head `h` of stream `i` of core `b` issues in this cycle: the stream may issue, `h` is ready, and arbitration chooses the stream
(09 R247, R248). -/
structure Issues (s : State) (b i : Nat) (h : Head) : Prop where
  may : s.mayIssue b i = true
  head : s.head b i = .ok h
  ready : s.notReady b i h = none
  chosen : s.chosen b = some i

/-- The state after an instruction that completes at issue, its own effect being `eff` (09 R247, R267). -/
def doneAtIssue (s : State) (b i : Nat) (h : Head) (eff : State → State) : State := (s.complete b i h eff).checkHead b i

/-- A unit has taken the instruction at the head: it stands at the end of the core's list of instructions in progress (09 R241). -/
def Started (s t : State) (b i : Nat) (h : Head) (k : JobKind) : Prop :=
  ∃ j, (t.core b).jobs = (s.core b).jobs ++ [j] ∧ j.ord = (s.core b).nextOrd ∧ j.kind = k ∧ j.word = h.word ∧ j.iss = s.issuedOf b i h

/-- The instruction `ord` of core `b` may end now: it is in progress, of kind `k`, nothing that must end before it is left, and the
clock runs (09 R249, 15 R435). -/
structure MayEnd (s : State) (b ord : Nat) (k : JobKind) (j : Job) : Prop where
  found : s.job b ord = some j
  kind : j.kind = k
  clocked : s.clocked = true
  order : (s.core b).mayEnd j = true

/-- The instruction `ord` of core `b` is over, and every other one but increments on their way is as before (09 R246). -/
def Ended (s t : State) (b ord : Nat) : Prop :=
  ((t.core b).jobs.filter fun j => j.kind ≠ .remInc) = (s.core b).jobs.filter fun j => j.ord ≠ ord && j.kind ≠ .remInc

/-- An accepted command executes now: it waits under its number, its code may run, and nothing earlier holds it back (16 R484, R486). -/
structure Executes (s : State) (seq code : Nat) (c : Cmd) : Prop where
  found : (s.pkg.cmds.find? fun x => x.seq = seq && x.code = code) = some c
  runs : s.mayRun code = true
  first : s.heldBack c = false

/-- The response of a command fits the place that a HOST frame gave for it (17 R515). -/
def Fits (c : Cmd) (resp : List Nat) : Prop := c.cls = 1 → 1 < resp.length → 8 * resp.length ≤ c.rlen

/-- A command is done: its journal entry says so, it leaves the queue, its completion with the response goes to its port (16 R493,
17 R515). -/
def answer (s : State) (c : Cmd) (resp : List Nat) : State := s.finishCmd c ocDone 0 0 resp

/-- Every byte of a range of the stack tier lies in a mapped line that is not fenced (11 R318, R320). -/
def StackOpen (s : State) (off n : Nat) : Prop := ∀ k, k < n → s.stackGate (off + k) = rsOk

/-- No symbol of the range's lines has changed since it was written, and none is poisoned (11 R326, R331). -/
def LinesClean (s : State) (off n : Nat) : Prop := ∀ k, k < n → s.lineErrs ((off + k) / 2 ^ 38) ((off + k) % 2 ^ 38 / 64) = []

/-- No byte of the range belongs to the tensor directory (12 R349). -/
def OutsideDir (s : State) (off n : Nat) : Prop := ∀ k, k < n → s.inDirRange (off + k) = false

/-- A packet of a type for this package comes by a port that is UP, at an enrolled package, with the current generation (13 R385, R393,
16 R499). -/
structure Admits (s : State) (port : Nat) (p : Packet) (typ : Nat) : Prop where
  lt : port < 16
  up : s.portState port = psUp
  typ : p.typ = typ
  here : p.dst = s.node
  enrolled : 2 ≤ s.enrolled
  gen : p.egen = s.gen

/-- The packet with its trust as the port leaves it (13 R385). -/
def trusted (s : State) (port : Nat) (p : Packet) : Packet := { p with trust := p.trust && s.on (fpStatus port) fFP_STATUS_TRUSTED }

/-- The state once the packet that carried a control message has left its buffer (13 R375). -/
def unbuffered (s : State) (m : CtrlMsg) : State :=
  match s.ctrlRx m with
  | some p => s.takeRx m.port p
  | none => s

/-- The next CSEQ is expected of a message's source (13 R384). -/
def expects (s : State) (m : CtrlMsg) : State := s.modFab fun f => { f with next := sput 0 m.src ((m.cseq + 1) % 2 ^ 16 + 1) f.next }

/-- A control message comes by a port that is UP, from a package that may send it, at a package that takes part in the fabric, with its
current generation (13 R385, R393, 16 R484, R499). -/
structure Hears (s : State) (m : CtrlMsg) : Prop where
  lt : m.port < 16
  up : s.portState m.port = psUp
  runs : s.firmware = true
  part : s.enrolled ≠ 0
  may : s.ctrlMay m = true
  fresh : s.ctrlOld m = false

/-- The message is the next one of its source, and none is held back (13 R384). -/
structure InOrder (s : State) (m : CtrlMsg) : Prop where
  next : sget 0 m.src s.fab.next = 0 ∨ sget 0 m.src s.fab.next = m.cseq + 1
  none : s.fab.held = []

end State

/-- The parts of the state that a command may change, by its rules. -/
def footprint (c : Instr) : List Part :=
  match c with
  | .mwld .. | .mmul .. | .accld .. | .drain .. | .ssmul .. | .vsetl .. | .vsetv .. | .vmap .. | .vcvt .. | .vred .. | .vkrn .. |
    .nop .. | .smovi .. | .salu .. | .sst .. | .br .. | .dbnz .. | .tinc .. | .tadv .. | .treset .. | .tepoch .. | .tickb .. |
    .waitc .. => [.regs, .cores, .incs, .out, .msix, .fab, .caches]
  | .mwldBufferValid .. | .mmulComplete .. | .accldComplete .. | .drainComplete .. | .ssmulComplete .. | .veInstructionComplete .. =>
     [.regs, .cores, .incs, .out, .counter, .msix, .fab]
  | .hookRow .. => [.regs, .cores, .counter]
  | .snchkCheck .. | .snchkEnd .. => [.regs, .cores, .incs, .marks, .out, .msix, .fab, .caches]
  | .dmovCopy .. | .dmovTensor .. | .dmovFill .. => [.regs, .cores, .incs, .out, .msix, .fab, .caches, .dir]
  | .dmovComplete .. => [.regs, .cores, .incs, .out, .counter, .msix, .fab, .stack, .far, .caches, .dir]
  | .dmovFailed .. => [.regs, .cores, .out, .msix, .fab, .stack, .far, .caches, .dir]
  | .probeStart .. => [.regs, .cores, .out, .msix, .fab, .caches]
  | .probeTickExpiry .. | .halt .. | .sld .. | .instructionFetch .. => [.regs, .cores, .out, .msix, .caches]
  | .streamEntersHalted .. | .entryComplete .. =>
     [.regs, .cores, .incs, .out, .counter, .time, .msix, .fab, .stack, .peat, .far, .caches, .dir, .pwr, .ud0, .ud1, .sched, .staged,
      .rm]
  | .sldLoadComplete .. => [.regs, .cores, .incs, .out, .msix, .fab]
  | .hint .. => [.regs, .cores, .incs, .out, .msix, .fab, .caches, .pwr]
  | .rdt .. => [.regs, .cores, .incs, .out, .counter, .msix, .fab, .caches]
  | .guardWatchdog .. | .lateReply .. | .bar2Timeout .. | .submissionDoorbell .. => [.regs, .out, .msix]
  | .tsIncrement .. => [.regs, .incs]
  | .streamStopped .. | .walkComplete .. | .cseqHoldExpiry .. | .enrolReq .. | .enrolGrant .. | .enrolDeny .. | .ready .. |
    .unready .. | .work .. | .leave .. | .leaveAck .. | .heartbeat .. | .routeSet .. | .rmClaim .. | .rmSync .. | .hbAck .. |
    .tickChange .. | .epochPrepare .. | .epochClose .. | .epochOpen .. | .stepDecide .. | .normTotal .. | .nodeGen .. |
    .nodeRemoved .. | .healthStepReport .. | .healthSlip .. | .healthBeatLost .. | .healthLateContrib .. | .healthMemFence .. |
    .healthPortDown .. | .healthTorn .. | .healthNorm .. | .healthPrepared .. | .healthLoaded .. | .healthSyncAck .. |
    .healthCooling .. | .staleRead =>
     [.regs, .cores, .out, .counter, .time, .msix, .fab, .stack, .peat, .far, .caches, .dir, .pwr, .ud0, .ud1, .sched, .staged, .rm]
  | .tickBoundary .. => [.regs, .cores, .out, .time, .msix, .caches, .pwr, .rm]
  | .pendingSegmentEffect | .realignmentStretch .. | .glideStart => [.regs, .time]
  | .beatReplicaWrite | .neighbourInformed .. | .crossingSynchronous .. | .stackCeReadout .. | .signalDetected .. => [.regs]
  | .timeExchange => [.regs, .out, .time, .fab]
  | .exchangeMissed | .trsp .. | .claimSuccess | .standbyTakeover => [.regs, .out, .time, .msix, .fab, .pwr, .rm]
  | .originTimeout => [.regs, .out, .time, .msix, .pwr, .rm]
  | .droopTrip .. | .glideEnd | .hintPhaseEnd .. | .droopMarginAdapt .. => [.regs, .time, .pwr]
  | .ageingSample .. => [.regs, .out, .time, .msix, .flash]
  | .stackRead .. | .cacheFill .. | .stackFault .. | .fabRd .. | .fabRdp .. | .bar2Read .. => [.regs, .out, .msix, .fab, .caches]
  | .stackWrite .. | .bar2Write .. => [.regs, .out, .msix, .stack, .caches]
  | .stackAtomic .. | .fabAt .. | .bar2Atomicop .. => [.regs, .out, .msix, .fab, .stack, .caches]
  | .scrubRead .. => [.regs, .out, .counter, .msix, .fab, .stack, .caches]
  | .compactionComplete .. => [.regs, .out, .counter, .msix, .fab, .stack, .peat, .caches]
  | .stackTemperatureRead .. => [.regs, .out, .time, .msix, .fab, .caches, .pwr, .hif]
  | .peatAccess .. => [.regs, .out, .counter, .msix, .fab, .peat, .caches]
  | .moduleTemperatureRead .. => [.regs, .out, .msix, .caches]
  | .directoryWalk .. => [.regs, .cores, .out, .msix, .fab, .caches, .dir, .ud0, .ud1]
  | .tierTimeout .. | .sedgeLinkReset .. | .dieReset .. =>
     [.regs, .cores, .out, .counter, .msix, .fab, .stack, .peat, .far, .caches, .dir, .ud0, .ud1, .sched, .journal, .commands,
      .completions, .staged]
  | .walkStart .. => [.regs, .ud0, .ud1]
  | .update .. => [.regs, .out, .counter, .msix, .fab, .stack, .peat, .far, .caches, .ud0, .ud1, .journal]
  | .commitWord .. => [.regs, .out, .counter, .msix, .fab, .peat, .caches, .ud0, .ud1, .journal]
  | .copyEmissionComplete .. => [.regs, .incs, .out, .msix, .ud0, .ud1]
  | .scan .. | .normIn .. => [.regs, .out, .counter, .msix, .fab, .peat, .caches, .ud0, .ud1]
  | .normOut .. => [.regs, .out, .counter, .msix, .fab, .stack, .peat, .far, .caches, .ud0, .ud1]
  | .degradedMark .. => [.regs, .cores, .incs, .marks, .out, .msix, .fab]
  | .ckptDone .. =>
     [.regs, .cores, .out, .counter, .time, .msix, .fab, .stack, .peat, .far, .caches, .dir, .pwr, .ud0, .ud1, .sched, .journal,
      .commands, .completions, .staged, .rm]
  | .trainingComplete .. | .linkControlNak .. | .credit .. | .resume .. | .treq .. | .enrolReqTimer | .heartbeatTimer =>
     [.regs, .out, .fab]
  | .disc .. => [.regs, .cores, .out, .msix, .fab, .caches, .dir, .ud0, .ud1, .rm]
  | .flitReceive .. | .switch .. | .laneErrorWindow .. | .switchTimeout .. | .portFailure .. | .transitForward .. | .fabInc .. |
    .markerLockLoss .. | .moduleReportedFault .. => [.regs, .out, .msix, .fab]
  | .pause .. | .duplicateRecordExpiry => [.fab]
  | .fabWr .. => [.regs, .out, .msix, .fab, .stack, .far, .caches]
  | .fabRdr .. | .fabWack .. | .fabAtr .. | .fabIncack .. | .fabNak .. => [.regs, .cores, .incs, .out, .msix, .fab, .ud0, .ud1]
  | .fabPack .. => [.regs, .cores, .out, .msix, .fab]
  | .leaveTimeout | .noPortUpTimeout => [.regs, .out, .time, .msix, .rm]
  | .heartbeatMiss .. => [.regs, .out, .msix, .fab, .rm]
  | .claimTimer | .rmSyncTimer | .tickShrink => [.regs, .out, .fab, .rm]
  | .quorumCheck | .stepTmo => [.regs, .out, .msix, .fab, .caches, .rm]
  | .hbAckLoss => [.regs, .rm]
  | .powerControllerRun .. | .sensorSample .. | .mfrCoolant .. => [.regs, .out, .time, .msix, .fab, .pwr, .hif]
  | .budgetStepSample .. | .budgetTakesEffect | .energyAttribution .. => [.regs, .out, .msix, .pwr]
  | .thermalLimitUpdate | .clockStopEnd | .minimumPowerExit | .traySilence | .thermalCycleSample .. =>
     [.regs, .out, .msix, .fab, .pwr, .hif]
  | .hintReceived .. => [.regs, .out, .time, .msix, .pwr]
  | .wearSaveTimer => [.flash]
  | .powerGood .. | .refclkReturn .. | .pkgRst .. =>
     [.regs, .cores, .incs, .marks, .out, .time, .msix, .fab, .stack, .peat, .caches, .dir, .pwr, .ud0, .ud1, .sched, .journal,
      .commands, .completions, .image, .pins, .flash, .staged, .rm, .hif]
  | .pkgPwrgdLow .. | .railOutOfRange .. | .refclkLoss .. =>
     [.regs, .cores, .incs, .marks, .time, .msix, .fab, .stack, .peat, .caches, .dir, .pwr, .ud0, .ud1, .sched, .journal, .commands,
      .completions, .image, .pins, .staged, .rm, .hif]
  | .lockstepMismatch => [.regs, .out, .time, .msix, .journal]
  | .gfmtQuery .. | .sqQuery .. | .udSetExp .. | .memQuery .. | .ptQuery .. | .ptCompact .. | .fabQuery .. | .pwrQuery .. |
    .pwrEnergyQuery .. | .pkgQuery .. | .jnlQuery .. | .jnlSpill .. | .dbgUnlock .. | .dbgLock .. | .frameFetch .. =>
     [.regs, .out, .msix, .journal, .commands, .completions]
  | .gfmtPin .. => [.regs, .out, .msix, .stack, .far, .caches, .sched, .journal, .commands, .completions]
  | .gfmtRelease .. => [.regs, .out, .msix, .stack, .far, .caches, .journal, .commands, .completions]
  | .gfmtLimits .. => [.regs, .out, .msix, .sched, .journal, .commands, .completions]
  | .sqStart .. => [.regs, .cores, .out, .msix, .caches, .journal, .commands, .completions]
  | .sqStop .. => [.regs, .cores, .out, .msix, .journal, .commands, .completions]
  | .udStepBegin .. | .udStop .. => [.regs, .out, .msix, .ud0, .ud1, .journal, .commands, .completions]
  | .udStepCommit .. =>
     [.regs, .cores, .out, .counter, .msix, .fab, .stack, .peat, .far, .caches, .ud0, .ud1, .sched, .journal, .commands, .completions]
  | .udRestore .. | .udCkpt .. => [.regs, .out, .counter, .msix, .fab, .caches, .dir, .ud0, .ud1, .journal, .commands, .completions]
  | .udReemit .. => [.regs, .out, .counter, .msix, .fab, .stack, .peat, .far, .caches, .ud0, .ud1, .journal, .commands, .completions]
  | .udAcceptTorn .. => [.regs, .out, .counter, .msix, .fab, .peat, .caches, .journal, .commands, .completions]
  | .udQuery .. => [.regs, .out, .counter, .msix, .fab, .caches, .journal, .commands, .completions]
  | .memFence .. | .dirQuery .. => [.regs, .out, .msix, .fab, .caches, .journal, .commands, .completions]
  | .memCompact .. | .memCacheRelease .. | .memCacheFlush .. => [.regs, .out, .msix, .caches, .journal, .commands, .completions]
  | .ptFence .. | .fabPortSet .. => [.regs, .out, .msix, .fab, .journal, .commands, .completions]
  | .dirCreate .. | .dirSet .. | .dirDelete .. | .dirBeginMove .. | .dirCommitMove .. | .dirAbortMove .. | .dirMarkLost .. =>
     [.regs, .cores, .out, .msix, .fab, .stack, .caches, .dir, .ud0, .ud1, .journal, .commands, .completions]
  | .dirFlush .. => [.regs, .out, .msix, .dir, .journal, .commands, .completions]
  | .fabJoin .. => [.regs, .out, .msix, .journal, .commands, .completions, .rm]
  | .fabLeave .. => [.regs, .out, .msix, .fab, .journal, .commands, .completions, .rm]
  | .rmQuery .. | .rmReshard .. | .rmTick .. | .rmPolicy .. | .rmHandover .. =>
     [.regs, .out, .msix, .fab, .journal, .commands, .completions, .staged, .rm]
  | .pwrSetBudget .. | .pwrEnergyRelease .. | .pwrResume .. => [.regs, .out, .msix, .pwr, .journal, .commands, .completions]
  | .pwrForceMin .. => [.regs, .out, .time, .msix, .fab, .pwr, .journal, .commands, .completions, .hif]
  | .pwrCoolClear .. => [.regs, .out, .msix, .fab, .pwr, .journal, .commands, .completions, .hif]
  | .pwrWearSave .. => [.regs, .out, .msix, .journal, .commands, .completions, .flash]
  | .warm .. =>
     [.regs, .cores, .incs, .marks, .out, .counter, .time, .msix, .fab, .stack, .peat, .caches, .dir, .pwr, .ud0, .ud1, .sched,
      .journal, .commands, .completions, .image, .flash, .staged, .rm, .hif]
  | .cold .. =>
     [.regs, .cores, .incs, .marks, .out, .time, .msix, .fab, .stack, .peat, .caches, .dir, .pwr, .ud0, .ud1, .sched, .journal,
      .commands, .completions, .image, .flash, .staged, .rm, .hif]
  | .schedLoad .. =>
     [.regs, .cores, .out, .counter, .time, .msix, .stack, .peat, .far, .caches, .pwr, .ud0, .ud1, .sched, .journal, .commands,
      .completions]
  | .schedUnload .. => [.regs, .cores, .out, .time, .msix, .caches, .pwr, .sched, .journal, .commands, .completions]
  | .flashWrite .. | .returnCapture .. => [.regs, .out, .msix, .journal, .commands, .completions, .flash, .staged]
  | .tsInc .. | .tsCountWrite .. | .tsTargetWrite .. | .veSlotCfgWrite .. | .veSlotContentWrite .. | .udRuleCfgWrite .. |
    .raticksWrite .. | .dirCtrlEnWrite .. | .memCtrlCenWrite .. | .timeCtrlAlignWrite .. | .udRecbaseFirstWrite .. | .registerWrite .. |
    .hifBar2Write .. | .cqHeadWrite .. | .cqenWrite .. =>
     [.regs, .cores, .incs, .out, .time, .msix, .fab, .stack, .peat, .caches, .dir, .pwr, .ud0, .ud1, .journal, .commands,
      .completions, .rm, .hif]
  | .timeBeatRead .. | .registerReadClear .. => [.regs, .out, .counter, .msix]
  | .turnstileDoorbell .. => [.regs, .incs, .out, .msix]
  | .completionEntryWrite => [.regs, .out, .msix, .completions]
  | .msixUnmask .. => [.out, .msix]
  | .dmaTimeout .. => [.regs, .out, .msix, .journal, .commands, .completions, .staged]
  | .flr | .hotReset .. | .perst .. => [.regs, .out, .msix, .commands, .completions]
  | .cxlLinkUp .. | .cxlDeviceNotActive .. => [.regs, .out, .msix, .far, .caches, .hif]
  | .cxlLinkDown .. | .cxlIoError .. => [.regs, .out, .msix, .hif]
  | .clearFaults .. => [.regs, .hif]
  | .capability | .statusByte | .statusWord | .statusTemperature | .statusCml | .statusMfrSpecific | .readTemperature1 |
    .readTemperature2 | .readTemperature3 | .readPin | .pmbusRevision | .mfrId | .mfrModel | .mfrSerial => [.out]
  | .mfrBudget .. => [.regs, .out, .msix, .pwr, .journal, .commands, .completions, .hif]
  | .mfrCmd .. | .dbgcmd .. => [.regs, .out, .msix, .journal, .commands, .completions, .hif]
  | .mfrRsp => [.out, .completions]
  | .smbusInvalidCommand .. | .extest .. | .clamp | .highz => [.regs, .out, .hif]
  | .alertResponse .. => [.regs, .out]
  | .samplePreload .. | .idcode | .bypass => [.out, .hif]
  | .dbgreg .. =>
     [.regs, .cores, .incs, .out, .counter, .time, .msix, .fab, .stack, .peat, .caches, .dir, .pwr, .ud0, .ud1, .journal, .commands,
      .completions, .rm, .hif]
  | .dbgcmdCapture => [.regs, .out, .completions]
  | .farTierAccess .. => [.out, .far, .caches]

end Sys2Proof.Machine
end

