-- ==== Sys2Proof/Certificates/Slice0/Obligations.lean ====
section
/-!
DEFINITION. Certificates/Slice0/Obligations.lean: the statements about the package, family by family.
-/

open Sys2Proof Sys2Proof.Machine

/-- A step runs the command at the front of the queue on the state with the queue's rest. -/
def Obligations.StepRunsFrontCommand : Prop :=
  (∀ (c : Instr) (rest : List Instr) (s : State), step { s with pending := c :: rest } = exec c { s with pending := rest })
    ∧ ∀ s : State, s.pending = [] → step s = .next s.clockCycle

/-- Every command answers a next state that leaves the queue and every part of the state outside its footprint unchanged. -/
def Obligations.CommandsCompleteAndKeepTheRest : Prop :=
  ∀ (c : Instr) (s : State), ∃ t, exec c s = .next t ∧ t.pending = s.pending ∧ OnlyChanges (footprint c) s t

/-- Every step keeps the canonical form of the register file and of every memory. -/
def Obligations.StepKeepsCanonicalForms : Prop :=
  ∀ s t : State, Canonical s → step s = .next t → Canonical t

/-- The state after reset has the reset values that the spec's tables give, nothing in progress, and the canonical form of registers and
memories. -/
def Obligations.ResetValuesAndForms : Prop :=
  let s := State.reset
  Canonical s ∧ s.pending = [] ∧ s.cores = [] ∧ s.incs = [] ∧ s.marks = [] ∧ s.out = [] ∧ s.pkg.cmds = [] ∧ s.mem.stack = [] ∧ s.mem.peat = []
    ∧ s.rd (ME_CTRL 0 0) ⟨1, 0⟩ = 3 ∧ s.rd (DR_CTRL 287) ⟨0, 0⟩ = 1 ∧ s.rd PWR_STATUS fPWR_STATUS_DUTY = 16 ∧ s.rd PWR_STATUS fPWR_STATUS_ASSUMED = 1
    ∧ s.rd PWR_COOL fPWR_COOL_INLET = 720 ∧ s.rd PWR_COOL fPWR_COOL_OUTLET = 720 ∧ s.rd PWR_COOL fPWR_COOL_FLOW = 120
    ∧ s.rd PWR_BSTEP fPWR_BSTEP_CODE = 7 ∧ s.rd DIR_TMO fDIR_TMO_STACK = 500 ∧ s.rd DIR_TMO fDIR_TMO_FAR = 1000 ∧ s.rd DIR_TMO fDIR_TMO_REMOTE = 2000
    ∧ s.rd HIF_TMO fHIF_TMO_BAR2 = 1000 ∧ s.rd HIF_TMO fHIF_TMO_DMA = 50 ∧ s.rd HIF_CQ fHIF_CQ_PHASE = 1 ∧ s.rd PKG_LOCK fPKG_LOCK_DBG_LOCKED = 1
    ∧ s.rd PKG_STATE fPKG_STATE_STATE = 1 ∧ s.rd PKG_STATE fPKG_STATE_STEP = 1 ∧ s.enrolled = 0 ∧ s.rd JNL_HEAD fJNL_HEAD_SEQ = 0
    ∧ (∀ ts, ts < 16384 → s.reg (TS_COUNT ts) = 0 ∧ s.reg (TS_TARGET ts) = 0)
    ∧ ∀ b i, b < 288 → 1 ≤ i → i ≤ 3 → s.stState b i = 0

/-- What the sequencer's own instructions do when they issue. -/
def Obligations.SequencerInstructionsAtIssue : Prop :=
  ∀ (s : State) (b i : Nat) (h : Head), s.Issues b i h →
    let w := h.word
    let rd := bitsOf w 55 51
    let imm := bitsOf w 31 0
    (opc w = 0x00 → exec (.nop b i) s = .next (s.doneAtIssue b i h id))
    ∧ (opc w = 0x29 → exec (.waitc b i) s = .next (s.doneAtIssue b i h id))
    ∧ (opc w = 0x10 → bitsOf w 50 50 = 0 →
        exec (.smovi b i) s = .next (s.doneAtIssue b i h fun s => s.setSreg b i rd (imod 64 (sext 32 imm))))
    ∧ (opc w = 0x10 → bitsOf w 50 50 = 1 →
        exec (.smovi b i) s = .next (s.doneAtIssue b i h fun s => s.setSreg b i rd (imm * 2 ^ 32 + s.sreg b i rd % 2 ^ 32)))
    ∧ (∀ v, opc w = 0x12 → saluFn (bitsOf w 39 36) (s.sw b i (bitsOf w 50 46)) (saluB s b i w) = some v →
        exec (.salu b i) s = .next (s.doneAtIssue b i h fun s => s.setSreg b i rd v.toNat))
    ∧ (opc w = 0x15 → State.memCheck (s.memAddr b i w) = none →
        exec (.sst b i) s = .next (s.doneAtIssue b i h fun t => t.modCore b fun c => c.locStore (s.memAddr b i w) (leBytes 8 (t.sreg b i rd))))
    ∧ (opc w = 0x18 → brCond (bitsOf w 45 43) (s.sw b i rd) (s.sw b i (bitsOf w 50 46)) = some true →
        exec (.br b i) s = .next (s.doneAtIssue b i h fun s => s.jump b i (branchTarget h.pc w)))
    ∧ (opc w = 0x18 → brCond (bitsOf w 45 43) (s.sw b i rd) (s.sw b i (bitsOf w 50 46)) = some false →
        exec (.br b i) s = .next (s.doneAtIssue b i h id))
    ∧ (opc w = 0x19 → exec (.dbnz b i) s = .next (s.doneAtIssue b i h fun s =>
        let v := s.sreg b i rd
        let s := if v = 0 then s else s.setSreg b i rd (v - 1)
        if 2 ≤ v then s.setPc b i (branchTarget h.pc w) else s.jump b i (h.pc + 8)))
    ∧ (opc w = 0x21 → exec (.tadv b i) s = .next (s.doneAtIssue b i h fun s =>
        let d := if bitsOf w 41 41 = 1 then imm else s.sreg b i (bitsOf w 40 36) % 2 ^ 32
        s.wr (TS_TARGET (bitsOf w 55 42)) fTS_TARGET_TARGET ((s.rd (TS_TARGET (bitsOf w 55 42)) fTS_TARGET_TARGET + d) % 2 ^ 32)))
    ∧ (opc w = 0x22 → exec (.treset b i) s = .next (s.doneAtIssue b i h fun s =>
        (List.range (bitsOf w 41 31)).foldl
          (fun x k => x.resetTs ((bitsOf w 55 42 + k) % 16384) (imod 32 (sext 16 (bitsOf w 30 15))) (s.epoch b i)) s))
    ∧ (opc w = 0x23 → exec (.tepoch b i) s = .next (s.doneAtIssue b i h fun s => s.wr (SQS_CFG b (i - 1)) fSQS_CFG_EPOCH (bitsOf w 7 0)))
    ∧ (opc w = 0x28 → exec (.hint b i) s = .next (s.doneAtIssue b i h fun s => { s with pwr := { s.pwr with
        hintsIn := s.pwr.hintsIn ++ [⟨zoneOf b, b, i, bitsOf w 55 52, s.zbeat b + bitsOf w 51 34, bitsOf w 33 16⟩] } }))
    ∧ (opc w = 0x2A → bitsOf w 50 49 ≠ 3 → exec (.rdt b i) s = .next (s.doneAtIssue b i h fun s =>
        let s := if bitsOf w 50 49 = 2 then s.bumpFree (TIME_ZCYC (zoneOf b)) fTIME_ZCYC_CYCLES else s
        s.setSreg b i rd (if bitsOf w 50 49 = 0 then s.zbeat b else if bitsOf w 50 49 = 1 then s.rd TIME_TICK fTIME_TICK_TICK
          else s.rd (TIME_ZCYC (zoneOf b)) fTIME_ZCYC_CYCLES)))

/-- TICKB sets the tick base, and the launch tick of a GUARD is TB + DT at issue. -/
def Obligations.TickBaseAndLaunchTick : Prop :=
  (∀ (s : State) (b i : Nat) (h : Head), s.Issues b i h → opc h.word = 0x24 →
    exec (.tickb b i) s = .next (s.doneAtIssue b i h fun s => s.wr (SQS_TB b (i - 1)) fSQS_TB_TB
      ((if bitsOf h.word 55 55 = 1 then s.rd (SQS_TB b (i - 1)) fSQS_TB_TB + bitsOf h.word 15 0 else s.sreg b i (bitsOf h.word 54 50)) % 2 ^ 48)))
  ∧ ∀ (s : State) (b i : Nat) (h : Head) (g : Word), h.guard = some g → bitsOf g 55 55 = 1 →
    (s.issuedOf b i h).tick = some ((s.rd (SQS_TB b (i - 1)) fSQS_TB_TB + bitsOf g 54 48) % 2 ^ 48)

/-- HALT, SLD, TINC and what ends them, fetching, the watchdog, an increment's arrival and a stop. -/
def Obligations.SequencerInstructionsThatLast : Prop :=
  (∀ (s : State) (b i : Nat) (h : Head), s.Issues b i h →
    let t := s.accept b i h
    let iss := s.issuedOf b i h
    let w := h.word
    (opc w = 0x01 → exec (.halt b i) s = .next (((t.setPc b i h.pc).setStream b i
        { (t.setPc b i h.pc).stream b i with haltPend := some iss }).checkHead b i))
    ∧ (opc w = 0x14 → State.memCheck (s.memAddr b i w) = none → exec (.sld b i) s = .next ((t.setStream b i
        { t.stream b i with slds := (t.stream b i).slds ++ [(bitsOf w 55 51, (s.core b).locNat (s.memAddr b i w) 8, iss)] }).checkHead b i))
    ∧ (opc w = 0x20 → bitsOf w 55 55 = 1 ∨ bitsOf w 54 43 = s.node → exec (.tinc b i) s = .next (((t.sendInc b iss w true (bitsOf w 54 43)
        (bitsOf w 42 29) (if bitsOf w 28 28 = 1 then bitsOf w 22 0 else s.sreg b i (bitsOf w 27 23) % 2 ^ 24)).finish b iss).checkHead b i))
    ∧ (opc w = 0x20 → bitsOf w 55 55 = 0 → bitsOf w 54 43 ≠ s.node → exec (.tinc b i) s = .next ((t.sendInc b iss w false (bitsOf w 54 43)
        (bitsOf w 42 29) (if bitsOf w 28 28 = 1 then bitsOf w 22 0 else s.sreg b i (bitsOf w 27 23) % 2 ^ 24)).checkHead b i)))
  ∧ (∀ (s : State) (b i : Nat) (iss : Issued), (s.stream b i).halts = [] → (s.stream b i).haltPend = some iss → s.coreOn b = true →
      s.stState b i = stRun → s.allDone b i = true →
      let t := (s.setSt b i stHalted).flush b i none
      exec (.streamEntersHalted b i) s =
        .next ((t.setStream b i { t.stream b i with haltPend := none, stopPend := false }).finish b iss).settleEpoch)
  ∧ (∀ (s : State) (b i ord : Nat) (iss : Issued), 1 ≤ i → i ≤ 3 → (s.stream b i).halts = [(ord, iss)] → (s.stream b i).haltPend = none →
      (s.stream b i).slds = [] → (∀ j ∈ (s.core b).jobs, j.iss.stream = i → ord ≤ j.ord) →
      exec (.streamEntersHalted b i) s = .next ((s.setStream b i { s.stream b i with halts := [] }).finish b iss).settleEpoch)
  ∧ (∀ (s : State) (b i r v : Nat) (iss : Issued), (s.stream b i).slds.find? (fun l => l.1 = r) = some (r, v, iss) →
      exec (.sldLoadComplete b i r) s = .next (((s.setStream b i { s.stream b i with slds := (s.stream b i).slds.erase (r, v, iss) }).setSreg
        b i r v).finish b iss))
  ∧ (∀ (s : State) (b i a : Nat), s.mayIssue b i = true → (s.stream b i).fnext = some a →
      let r := fetchLine (s.core b) (s.rd (SQS_PBASE b (i - 1)) fSQS_PBASE_PBASE) (s.rd (SQS_PLIMIT b (i - 1)) fSQS_PLIMIT_PLIMIT) 8 a
        (s.stream b i).fbuf
      let x := s.setStream b i { s.stream b i with fbuf := r.1, fnext := r.2 }
      exec (.instructionFetch b i) s =
        .next ((if s.head b i = .absent then x.setStream b i { x.stream b i with since := s.zbeat b } else x).checkHead b i))
  ∧ (∀ (s : State) (b i ts : Nat) (h : Head) (g : Word), s.mayIssue b i = true → s.head b i = .ok h → h.guard = some g → s.unmet g = some ts →
      s.rd (SQ_WDOG b) fSQ_WDOG_LIMIT ≠ 0 → (s.stream b i).since + s.rd (SQ_WDOG b) fSQ_WDOG_LIMIT < s.zbeat b →
      exec (.guardWatchdog b i) s =
        .next ((s.wr (SQS_WAIT b (i - 1)) fSQS_WAIT_WDOG 1).raise (SQ_EVENTS b) fSQ_EVENTS_WDOG))
  ∧ (∀ (s : State) (k : Nat) (x : IncMsg), s.incs[k]? = some x →
      exec (.tsIncrement k) s = .next ({ s with incs := s.incs.eraseIdx k }.applyInc x))
  ∧ (∀ (s : State) (b i : Nat), s.coreOn b = true → (s.stream b i).stopPend = true → s.stState b i = stRun →
      let t := (s.setSt b i stStopped).flush b i none
      exec (.streamStopped b i) s = .next ((t.setStream b i { (t.stream b i).asideHalt (t.core b).nextOrd with stopPend := false }).setReg
        (SQS_WAIT b (i - 1)) 0).settleEpoch)

/-- A rejected SLD, SST, SALU, BR or RDT faults its stream and does nothing else to the core. -/
def Obligations.RejectedAtIssue : Prop :=
  ∀ (s : State) (b i : Nat) (h : Head), s.Issues b i h → h.pc < 2 ^ 32 →
    let w := h.word
    let rejects := fun (c : Instr) (code : Nat) => ∃ t, exec c s = .next t ∧ t.stState b i = stFault ∧ t.pc b i = h.pc
      ∧ t.rd (SQS_FAULT b (i - 1)) fSQS_FAULT_CODE = code ∧ t.rd (SQS_FAULT b (i - 1)) fSQS_FAULT_UNIT = 6
      ∧ t.rd (SQS_FAULT b (i - 1)) fSQS_FAULT_PC = h.pc ∧ t.on (SQ_EVENTS b) (faultFld i) = true
      ∧ (∀ k r, k ∈ [1, 2, 3] → r < 32 → t.sreg b k r = s.sreg b k r) ∧ (t.core b).mem = (s.core b).mem ∧ (t.core b).acc = (s.core b).acc
      ∧ (t.core b).jobs = (s.core b).jobs ∧ t.incs = s.incs
      ∧ ∀ k, k ∈ [1, 2, 3] → k ≠ i → t.stState b k = s.stState b k ∧ t.pc b k = s.pc b k
    let a := s.memAddr b i w
    (opc w = 0x14 → coreMemSize < a + 8 → rejects (.sld b i) 0x51)
    ∧ (opc w = 0x14 → a + 8 ≤ coreMemSize → a % 8 ≠ 0 → rejects (.sld b i) 0x52)
    ∧ (opc w = 0x15 → coreMemSize < a + 8 → rejects (.sst b i) 0x51)
    ∧ (opc w = 0x15 → a + 8 ≤ coreMemSize → a % 8 ≠ 0 → rejects (.sst b i) 0x52)
    ∧ (opc w = 0x12 → 13 ≤ bitsOf w 39 36 → rejects (.salu b i) 0x55)
    ∧ (opc w = 0x18 → bitsOf w 45 43 = 7 → rejects (.br b i) 0x55)
    ∧ (opc w = 0x2A → bitsOf w 50 49 = 3 → rejects (.rdt b i) 0x55)

/-- A scalar result stands after completion, and no other scalar register changes. -/
def Obligations.ScalarResultsStand : Prop :=
  ∀ (s : State) (b i : Nat) (h : Head), s.Issues b i h →
    let w := h.word
    let rd := bitsOf w 55 51
    let gives := fun (c : Instr) (v : Nat) => ∃ t, exec c s = .next t ∧ t.sreg b i rd = (if rd = 0 then 0 else v % 2 ^ 64)
      ∧ ∀ k r, k ∈ [1, 2, 3] → r < 32 → (k = i → r ≠ rd) → t.sreg b k r = s.sreg b k r
    (∀ v, opc w = 0x12 → saluFn (bitsOf w 39 36) (s.sw b i (bitsOf w 50 46)) (saluB s b i w) = some v → gives (.salu b i) v.toNat)
    ∧ (opc w = 0x10 → bitsOf w 50 50 = 0 → gives (.smovi b i) (imod 64 (sext 32 (bitsOf w 31 0))))
    ∧ (opc w = 0x10 → bitsOf w 50 50 = 1 → gives (.smovi b i) (bitsOf w 31 0 * 2 ^ 32 + s.sreg b i rd % 2 ^ 32))
    ∧ (opc w = 0x2A → bitsOf w 50 49 = 0 → gives (.rdt b i) (s.zbeat b))
    ∧ (opc w = 0x2A → bitsOf w 50 49 = 1 → gives (.rdt b i) (s.rd TIME_TICK fTIME_TICK_TICK))
    ∧ (opc w = 0x2A → bitsOf w 50 49 = 2 → ∃ t, exec (.rdt b i) s = .next t
        ∧ t.sreg b i rd = (if rd = 0 then 0 else t.rd (TIME_ZCYC (zoneOf b)) fTIME_ZCYC_CYCLES)
        ∧ ∀ k r, k ∈ [1, 2, 3] → r < 32 → (k = i → r ≠ rd) → t.sreg b k r = s.sreg b k r)

/-- An increment of the turnstile's epoch adds to COUNT; one of another epoch changes no turnstile and is counted as stale. -/
def Obligations.TurnstileIncrement : Prop :=
  ∀ (s : State) (k : Nat) (x : IncMsg), s.incs[k]? = some x → x.ts < 16384 →
    (s.rd (TS_STATE x.ts) fTS_STATE_EPOCH = x.stamp → ∃ t, exec (.tsIncrement k) s = .next t ∧ t.incs = s.incs.eraseIdx k
      ∧ t.rd (TS_COUNT x.ts) fTS_COUNT_COUNT = (s.rd (TS_COUNT x.ts) fTS_COUNT_COUNT + x.amount) % 2 ^ 32
      ∧ ∀ a, a ≠ TS_COUNT x.ts → t.reg a = s.reg a)
    ∧ (s.rd (TS_STATE x.ts) fTS_STATE_EPOCH ≠ x.stamp → x.stamp < 2 ^ 8 → x.node < 2 ^ 12 → ∃ t, exec (.tsIncrement k) s = .next t
      ∧ t.incs = s.incs.eraseIdx k ∧ t.rd TS_STALE fTS_STALE_COUNT = min (2 ^ 64 - 1) (s.rd TS_STALE fTS_STALE_COUNT + 1)
      ∧ t.rd TS_STALE_LAST fTS_STALE_LAST_NODE = x.node ∧ t.rd TS_STALE_LAST fTS_STALE_LAST_STAMP = x.stamp
      ∧ t.rd TS_STALE_LAST fTS_STALE_LAST_CUR = s.rd (TS_STATE x.ts) fTS_STATE_EPOCH ∧ t.rd TS_STALE_LAST fTS_STALE_LAST_TS = x.ts
      ∧ ∀ a, a ≠ TS_STALE → a ≠ TS_STALE_LAST → t.reg a = s.reg a)

/-- A unit instruction that passes its checks is taken by its unit. -/
def Obligations.UnitsTakeInstructions : Prop :=
  ∀ (s : State) (b i : Nat) (h : Head), s.Issues b i h →
    let w := h.word
    let starts := fun (c : Instr) (k : JobKind) => ∃ t, exec c s = .next t ∧ s.Started t b i h k
      ∧ (t.core b).mem = (s.core b).mem ∧ (t.core b).acc = (s.core b).acc
    let moves := fun (c : Instr) => ∃ t, exec c s = .next t ∧ (t.core b).mem = (s.core b).mem ∧ (t.core b).acc = (s.core b).acc
      ∧ ∃ j ∈ (t.core b).jobs, j.ord = (s.core b).nextOrd ∧ j.kind = .dmov ∧ j.word = w ∧ j.iss = s.issuedOf b i h
    let m := readMv s b i w
    (opc w = 0x41 → firstCode [(engDisabled s b w, 0x07), ((mwldRanges w (pairArgs s b i w)).any fun r => !rangeOk r.1 r.2, 0x08)] = none →
      engs w ≠ [] → starts (.mwld b i) .mwld)
    ∧ (opc w = 0x40 → mmulCheck s b i w (pairArgs s b i w ++ [s.sreg b i (bitsOf w 41 37) % 2 ^ 32]) = none →
      engs w ≠ [] → s.sreg b i (bitsOf w 41 37) % 2 ^ 32 ≠ 0 → starts (.mmul b i) .mmul)
    ∧ (opc w = 0x42 → firstCode [(((s.core b).tile (drTile w)).owner ≠ 0 && ((s.core b).tile (drTile w)).owner ≠ i, 0x06),
        (decide (capacity (bitsOf w 27 26) < bitsOf w 34 28 + (accldArgs s b i w).getD 4 0), 0x11), (((s.core b).tile (drTile w)).iCount ≠ 0, 0x12),
        (!s.on (DR_CTRL b) fDR_CTRL_EN, 0x15), ((accldRanges w (accldArgs s b i w)).any fun r => !rangeOk r.1 r.2, 0x16)] = none →
      (accldArgs s b i w).getD 4 0 ≠ 0 → bitsOf w 16 10 ≠ 0 → starts (.accld b i) .accld)
    ∧ (opc w = 0x43 → drainCheck s b w (s.profile b (bitsOf w 49 47)) (drainArgs s b i w) = none → (drainArgs s b i w).getD 5 0 ≠ 0 →
      (s.profile b (bitsOf w 49 47)).ncol ≠ 0 → starts (.drain b i) .drain)
    ∧ (opc w = 0x44 → firstCode [((boundSlot (s.core b) i (drEng w) (bitsOf w 53 50)).isSome, 0x22),
        (decide (capacity ((s.core b).tile (drTile w)).iDepth < ssRow0 w + (ssArgs s b i w).getD 4 0), 0x23),
        (ssCnt w ≠ s.rd (DM_SIDE b (i - 1)) fDM_SIDE_CNT, 0x24), ((ssRanges w (ssArgs s b i w)).any fun r => !rangeOk r.1 r.2, 0x25)] = none →
      freeSlot (s.core b) ≠ none → ssCnt w ≠ 0 → ssNc w ≠ 0 → (ssArgs s b i w).getD 4 0 ≠ 0 → starts (.ssmul b i) .ssmul)
    ∧ (∀ c : Instr, (opc w = 0x52 ∧ c = .vmap b i) ∨ (opc w = 0x53 ∧ c = .vcvt b i) ∨ (opc w = 0x54 ∧ c = .vred b i) ∨ (opc w = 0x55 ∧ c = .vkrn b i) →
      let ta := loc32 (s.sreg b i (bitsOf w 55 51))
      let a := veTable (s.core b) (s.rd (VE_VL b (i - 1)) fVE_VL_VL) ta
      veCheck s b w ta a (veSlotCopy s b w) = none → a.getD 0 0 ≠ 0 → a.getD 1 0 ≠ 0 → starts c .ve)
    ∧ (opc w = 0x60 → m.check (descAddr s b i w) w (s.on (DM_CTRL b) fDM_CTRL_EN) = none →
      (m.kind = 0 → m.empty = false → moves (.dmovCopy b i)) ∧ (m.kind = 1 → moves (.dmovTensor b i))
        ∧ (m.kind = 2 → m.empty = false → moves (.dmovFill b i)))

/-- Unit instructions with nothing to do, and VSETL, VSETV and SNCHK without trouble, complete at issue with their effect. -/
def Obligations.EmptyAndControlInstructionsOfUnits : Prop :=
  (∀ (s : State) (b i : Nat) (h : Head), s.Issues b i h →
      let w := h.word
      let done := fun (c : Instr) => exec c s = .next (s.doneAtIssue b i h id)
      (opc w = 0x41 → firstCode [(engDisabled s b w, 0x07), ((mwldRanges w (pairArgs s b i w)).any fun r => !rangeOk r.1 r.2, 0x08)] = none →
        engs w = [] → done (.mwld b i))
      ∧ (opc w = 0x40 → mmulCheck s b i w (pairArgs s b i w ++ [s.sreg b i (bitsOf w 41 37) % 2 ^ 32]) = none →
        engs w = [] ∨ s.sreg b i (bitsOf w 41 37) % 2 ^ 32 = 0 → done (.mmul b i))
      ∧ (opc w = 0x43 → drainCheck s b w (s.profile b (bitsOf w 49 47)) (drainArgs s b i w) = none →
        (drainArgs s b i w).getD 5 0 = 0 ∨ (s.profile b (bitsOf w 49 47)).ncol = 0 → done (.drain b i))
      ∧ (opc w = 0x42 → firstCode [(((s.core b).tile (drTile w)).owner ≠ 0 && ((s.core b).tile (drTile w)).owner ≠ i, 0x06),
          (decide (capacity (bitsOf w 27 26) < bitsOf w 34 28 + (accldArgs s b i w).getD 4 0), 0x11), (((s.core b).tile (drTile w)).iCount ≠ 0, 0x12),
          (!s.on (DR_CTRL b) fDR_CTRL_EN, 0x15), ((accldRanges w (accldArgs s b i w)).any fun r => !rangeOk r.1 r.2, 0x16)] = none →
        (accldArgs s b i w).getD 4 0 = 0 ∨ bitsOf w 16 10 = 0 → done (.accld b i))
      ∧ (∀ k, opc w = 0x44 → firstCode [((boundSlot (s.core b) i (drEng w) (bitsOf w 53 50)).isSome, 0x22),
          (decide (capacity ((s.core b).tile (drTile w)).iDepth < ssRow0 w + (ssArgs s b i w).getD 4 0), 0x23),
          (ssCnt w ≠ s.rd (DM_SIDE b (i - 1)) fDM_SIDE_CNT, 0x24), ((ssRanges w (ssArgs s b i w)).any fun r => !rangeOk r.1 r.2, 0x25)] = none →
        freeSlot (s.core b) = some k → ssCnt w = 0 ∨ ssNc w = 0 ∨ (ssArgs s b i w).getD 4 0 = 0 → exec (.ssmul b i) s =
          .next ((((s.accept b i h).modCore b fun c => c.setSlot k fun _ => ⟨true, true, i, drEng w, bitsOf w 53 50, true, 0, []⟩).finish b
            (s.issuedOf b i h)).checkHead b i))
      ∧ (∀ c : Instr, ((readMv s b i w).kind = 0 ∧ c = .dmovCopy b i) ∨ ((readMv s b i w).kind = 2 ∧ c = .dmovFill b i) → opc w = 0x60 →
        (readMv s b i w).check (descAddr s b i w) w (s.on (DM_CTRL b) fDM_CTRL_EN) = none → (readMv s b i w).empty = true →
        exec c s = .next ((s.supersede b i h.pc).doneAtIssue b i h id))
      ∧ (∀ c : Instr, (opc w = 0x52 ∧ c = .vmap b i) ∨ (opc w = 0x53 ∧ c = .vcvt b i) ∨ (opc w = 0x54 ∧ c = .vred b i) ∨ (opc w = 0x55 ∧ c = .vkrn b i) →
        let ta := loc32 (s.sreg b i (bitsOf w 55 51))
        let a := veTable (s.core b) (s.rd (VE_VL b (i - 1)) fVE_VL_VL) ta
        veCheck s b w ta a (veSlotCopy s b w) = none → a.getD 0 0 = 0 ∨ a.getD 1 0 = 0 → done c))
  ∧ (∀ (s : State) (b i : Nat) (h : Head), s.Issues b i h →
      let w := h.word
      let iss := s.issuedOf b i h
      let v := if bitsOf w 50 50 = 1 then bitsOf w 49 26 else s.sreg b i (bitsOf w 55 51)
      let cleared := clearSources (s.accept b i h) b i w 0
      let back := cleared.wr (QC_STATUS b) (replayFld i) 0
      (opc w = 0x50 → v < 2 ^ 24 → s.on (VE_CTRL b) fVE_CTRL_EN = true →
        exec (.vsetl b i) s = .next (s.doneAtIssue b i h fun s => s.wr (VE_VL b (i - 1)) fVE_VL_VL v))
      ∧ (opc w = 0x51 → s.on (VE_CTRL b) fVE_CTRL_EN = true → exec (.vsetv b i) s = .next (s.doneAtIssue b i h fun s => s.modCore b fun c =>
          { c with vreg := (List.range 64).foldl (fun m l => sput 0 (vregKey i (bitsOf w 50 47) l) (s.sreg b i (bitsOf w 55 51) % 2 ^ 32) m) c.vreg }))
      ∧ (opc w = 0x45 → bitsOf w 55 55 = 0 → trouble s b i w = 0 → exec (.snchkCheck b i) s = .next ((cleared.finish b iss).checkHead b i))
      ∧ (opc w = 0x45 → bitsOf w 55 55 = 1 → s.inReplay b i = true → trouble s b i w = 0 → exec (.snchkEnd b i) s =
          .next (((back.stream b i).heldSig.foldl (fun s x => s.sigIncs b x) (((back.setStream b i { back.stream b i with heldSig := [] }).jump b i
            ((back.setStream b i { back.stream b i with heldSig := [] }).rd (QC_RET b (i - 1)) fQC_RET_PC)).finish b iss)).checkHead b i)))

/-- An SNCHK CHECK that finds trouble starts a replay and performs no increments. -/
def Obligations.TroubleStartsReplay : Prop :=
  ∀ (s : State) (b i : Nat) (h : Head), s.Issues b i h → opc h.word = 0x45 → bitsOf h.word 55 55 = 0 → trouble s b i h.word ≠ 0 →
    s.inReplay b i = false → bitsOf h.word 23 8 ≠ 0 → s.on (QC_CTRL b) fQC_CTRL_EN = true →
    s.rd (QC_STATUS b) fQC_STATUS_RCOUNT < s.rd (QC_CTRL b) fQC_CTRL_RMAX →
    ∃ t, exec (.snchkCheck b i) s = .next t ∧ t.inReplay b i = true ∧ t.rd (QC_RET b (i - 1)) fQC_RET_PC = imod 32 (Int.ofNat h.pc + 8)
      ∧ t.rd (QC_STATUS b) fQC_STATUS_RCOUNT = s.rd (QC_STATUS b) fQC_STATUS_RCOUNT + 1 ∧ t.on (QC_EVENTS b) fQC_EVENTS_REPLAY = true
      ∧ t.rd (QC_REPLAYS b) fQC_REPLAYS_COUNT = min (2 ^ fQC_REPLAYS_COUNT.width - 1) (s.rd (QC_REPLAYS b) fQC_REPLAYS_COUNT + 1)
      ∧ t.incs = s.incs

/-- A unit instruction that ends delivers the result that its operands give, and leaves the list of instructions in progress. -/
def Obligations.UnitsFinishInstructions : Prop :=
  ∀ (s : State) (b ord : Nat) (j : Job),
    let c := s.core b
    let w := j.word
    let n : Nat → Nat := fun k => j.args.getD k 0
    let ends := fun (x : Instr) (p : State → Prop) => ∃ t, exec x s = .next t ∧ s.Ended t b ord ∧ p t
    let mem := fun (t : State) => (t.core b).mem = c.mem
    (s.MayEnd b ord .mwld j → ends (.mwldBufferValid b ord) fun t =>
        let kc := chunkOfCodes (bitsOf w 41 38) (bitsOf w 15 14)
        mem t ∧ (t.core b).acc = c.acc ∧ ∀ e ∈ engs w, ((t.core b).wb e (bitsOf w 35 35)).valid = true
          ∧ ∀ f, Fmt.ofCode (bitsOf w 41 38) = some f → (t.core b).wb e (bitsOf w 35 35) = { c.wb e (bitsOf w 35 35) with
              valid := true, xFmt := bitsOf w 41 38, kv := mwldKv w kc e, nc := bitsOf w 23 17
              cols := (List.range (bitsOf w 23 17)).map fun k => c.elems f (mwldCol w j.args f kc e k).1 (mwldKv w kc e)
              scs := (List.range (bitsOf w 23 17)).map fun k => c.scales f (mwldCol w j.args f kc e k).2 (mwldKv w kc e) })
    ∧ (s.MayEnd b ord .mmul j → (∀ k ∈ j.prog, ∀ x, c.side[k]? = some x → x.done = true) → ends (.mmulComplete b ord) fun t =>
        let x := (mmTargets w).zipIdx.foldl (fun s p => mmulOne s b j p.2 p.1) s
        mem t ∧ (t.core b).acc = (x.core b).acc ∧ (∀ k, (t.core b).tile k = (x.core b).tile k)
          ∧ (b < 288 → ∀ e ∈ engs w, t.rd (ME_MACS b e) fME_MACS_MACS = min (2 ^ fME_MACS_MACS.width - 1)
              (s.rd (ME_MACS b e) fME_MACS_MACS + (c.wb e (mmWb w)).kv * (c.wb e (mmWb w)).nc * n 4)))
    ∧ (s.MayEnd b ord .accld j → ends (.accldComplete b ord) fun t => mem t ∧ (t.core b).acc =
        ((List.range (n 4)).map fun k => accldRow c (bitsOf w 25 24) (bitsOf w 17 17 = 1) (accldFmt w) (n 0) (n 1) (n 2) (n 3) (bitsOf w 16 10)
            k).zipIdx.foldl
          (fun m r => r.1.zipIdx.foldl (fun m e => m.write (accWordKey (drTile w) (bitsOf w 27 26) (bitsOf w 34 28 + r.2) e.2) e.1.val) m) c.acc)
    ∧ (s.MayEnd b ord .drain j → (jobProfile j).act ≠ 6 ∨ j.rows.length = n 5 → b < 288 → 1 ≤ j.iss.stream ∧ j.iss.stream ≤ 3 →
      ends (.drainComplete b ord) fun t =>
        let o := drainPlans c j (s.replayFlag b j.iss.stream)
        (t.core b).mem = ((c.applyStores o.1.stores).applyStores o.2.1.stores).mem
          ∧ (t.core b).acc = ((c.applyStores o.1.stores).applyStores o.2.1.stores).acc
          ∧ t.rd (DR_ROWS b) fDR_ROWS_ROWS = min (2 ^ fDR_ROWS_ROWS.width - 1) (s.rd (DR_ROWS b) fDR_ROWS_ROWS + n 5))
    ∧ (s.MayEnd b ord .ssmul j → ends (.ssmulComplete b ord) fun t =>
        let words := ((List.range (n 4)).flatMap fun i => (List.range (ssNc w)).map fun k =>
          ((ssRow0 w + i) * 64 + k, ssWord c w j.args i k)).foldl (fun m e => sput 0 e.1 e.2 m) []
        mem t ∧ (t.core b).acc = c.acc
          ∧ (t.core b).side = c.side.map fun x => if x.used = true ∧ x.ord = ord then { x with done := true, words := words } else x)
    ∧ (s.MayEnd b ord .ve j → ends (.veInstructionComplete b ord) fun t =>
        let r := (veRun j (s.replayFlag b j.iss.stream) c).c
        (t.core b).mem = r.mem ∧ (t.core b).acc = r.acc ∧ (t.core b).vreg = r.vreg)
    ∧ (s.MayEnd b ord .dmov j → State.Job.ready j = true →
      let v := runMove s b j none
      (j.sent = false → v.bad = none → v.outs = [] → ends (.dmovComplete b ord) fun t =>
          (t.core b).mem = ((v.s.core b).applyStores v.sides).mem ∧ (t.core b).acc = ((v.s.core b).applyStores v.sides).acc ∧ t.mem = v.s.mem)
      ∧ (j.sent = true → ends (.dmovComplete b ord) fun t =>
          (t.core b).mem = (c.applyStores ((j.rows.drop 1).map fun l => (l.headD 0, l.drop 1))).mem ∧ t.mem = s.mem)
      ∧ (j.sent = false → v.bad = none → v.outs ≠ [] → ∃ t, exec (.dmovComplete b ord) s = .next t ∧ (t.core b).mem = (v.s.core b).mem
          ∧ t.mem = v.s.mem ∧ ∃ k ∈ (t.core b).jobs, k.ord = ord ∧ k.sent = true))

/-- HOOK_ROW runs the micro-program on a row, a failed move leaves with its status, probes start and are cancelled. -/
def Obligations.HookRowsMovesAndProbes : Prop :=
  (∀ (s : State) (b e : Nat) (rest : List Nat) (j : Job), b < 288 → hookRoundNow (s.core b) = e :: rest → hookJob (s.core b) e = some j →
    s.clocked = true → s.coreOn b = true →
    let slot := if s.slotEmpty b (jobProfile j).hook then [] else s.slotWords b (jobProfile j).hook
    let r := hookRow slot (bitsOf j.word 26 20 + j.rows.length) (drainStage2 (s.core b) j j.rows.length)
    ∃ t, exec (.hookRow b e) s = .next t ∧ (t.core b).hookRound = rest ∧ (t.core b).mem = (s.core b).mem ∧ (t.core b).acc = (s.core b).acc
      ∧ (t.core b).vreg = (s.core b).vreg ∧ (t.core b).jobs.map (·.ord) = (s.core b).jobs.map (·.ord)
      ∧ (∃ k ∈ (t.core b).jobs, k.ord = j.ord ∧ k.rows = j.rows ++ [r.foldl (fun a x => a ||| x.ev) 0 :: r.map (·.val)])
      ∧ t.rd (VE_HOOK_ROWS b) fVE_HOOK_ROWS_ROWS = min (2 ^ fVE_HOOK_ROWS_ROWS.width - 1) (s.rd (VE_HOOK_ROWS b) fVE_HOOK_ROWS_ROWS + 1))
  ∧ (∀ (s : State) (b ord row st : Nat) (j : Job), b < 288 → 1 ≤ j.iss.stream ∧ j.iss.stream ≤ 3 → s.job b ord = some j → j.kind = .dmov →
      st < 2 ^ 8 →
      let fails : State → State → Prop := fun x t => s.Ended t b j.ord ∧ t.rd (DM_CSTAT b) fDM_CSTAT_STATUS = st
        ∧ t.rd (DM_CSTAT b) fDM_CSTAT_STREAM = j.iss.stream ∧ t.rd (SQS_MFAIL b (j.iss.stream - 1)) fSQS_MFAIL_STATUS = st
        ∧ t.on (SQ_EVENTS b) fSQ_EVENTS_MOVEFAIL = true ∧ t.incs = s.incs ∧ (t.core b).mem = (x.core b).mem ∧ t.mem = x.mem
      (j.fail = some st ∨ j.fail = none ∧ j.trans = .failed st → ∃ t, exec (.dmovFailed b ord row) s = .next t ∧ fails s t)
      ∧ ∀ at_, j.fail = none → (∀ x, j.trans ≠ .failed x) → State.Job.ready j = true → s.clocked = true → (s.core b).mayEnd j = true →
          j.sent = false → (runMove s b j none).bad = some (at_, st) →
          ∃ t, exec (.dmovFailed b ord row) s = .next t ∧ fails (runMove s b j (some row)).s t)
  ∧ (∀ (s : State) (b i pc : Nat) (g : Option Word) (w : Word) (rs : List (Nat × Nat)), b < 288 → fetched (s.stream b i).fbuf pc = some (g, w) →
      let m := { readMv s b i w with ext := [0, 0, 0x3F800000] }
      let tick := g.bind fun x => if bitsOf x 55 55 = 1 then some (s.launchTick b i x) else none
      opc w = 0x60 → m.ra = true → s.rd (DM_CTRL b) fDM_CTRL_RATICKS ≠ 0 → s.on TIME_STATUS fTIME_STATUS_ACQ = true →
      (∀ x, tick = some x → s.tickStart (x - s.rd (DM_CTRL b) fDM_CTRL_RATICKS) ≤ s.zbeat b) →
      s.coreOn b = true → s.stState b i = stRun → (∀ p ∈ (s.core b).probes, p.stream = i → p.pc ≠ pc) →
      m.check (descAddr s b i w) w (s.on (DM_CTRL b) fDM_CTRL_EN) = none → (m.kind = 0 → m.empty = false) → probeRanges s m = some rs →
      ∃ t, exec (.probeStart b i pc) s = .next t
        ∧ t.rd (DM_RA_PROBES b) fDM_RA_PROBES_COUNT = min (2 ^ fDM_RA_PROBES_COUNT.width - 1) (s.rd (DM_RA_PROBES b) fDM_RA_PROBES_COUNT + 1)
        ∧ ∃ p ∈ (t.core b).probes, p.stream = i ∧ p.pc = pc ∧ p.tick = tick
          ∧ p.lines = (rs.flatMap fun r => (pieces r.1 r.2).map fun p => p.1 / 64 * 64).eraseDups)
  ∧ (∀ (s : State) (b i pc : Nat) (p : Probe), b < 288 → p ∈ (s.core b).probes → p.stream = i → p.pc = pc →
      (∀ x, p.tick = some x → s.tickStart (x + 1) ≤ s.zbeat b) → (p.tick = none → 2 ≤ p.seen) →
      ∃ t, exec (.probeTickExpiry b i pc) s = .next t ∧ p ∉ (t.core b).probes ∧ t.on (DM_EVENTS b) fDM_EVENTS_RA_CANCEL = true)

/-- The beat counter advances with its rate, and every replica and reader sees one beat. -/
def Obligations.TimeClockAndReplicas : Prop :=
  (∀ s : State, ∃ t, exec .beatReplicaWrite s = .next t ∧ t.beat = s.beat ∧ (∀ z, z < 12 → t.rd (TIME_ZBEAT z) fTIME_ZBEAT_BEAT = s.beat)
    ∧ ∀ a, a ≠ TIME_BEAT → (∀ z, z < 12 → a ≠ TIME_ZBEAT z) → t.reg a = s.reg a)
  ∧ (∀ s : State, s.pending = [] → s.time.running = true → s.time.frozen = 0 → s.time.frac < 2 ^ 32 → s.rd TIME_SERVO fTIME_SERVO_RATE = 0 →
      ∃ t, step s = .next t ∧ t.beat = (s.beat + 1) % 2 ^ 64 ∧ (∀ z, z < 12 → t.rd (TIME_ZBEAT z) fTIME_ZBEAT_BEAT = t.beat)
        ∧ t.time.frac = s.time.frac ∧ t.cores = s.cores ∧ t.mem = s.mem ∧ t.fab = s.fab)
  ∧ (∀ s : State, s.pending = [] → s.time.running = true → 0 < s.time.frozen →
      ∃ t, step s = .next t ∧ t.regs = s.regs ∧ t.time.frozen = s.time.frozen - 1)

/-- A zone that reaches a tick boundary clears its replay counts and latches its cycle count; the pending segment becomes current at
B_eff. -/
def Obligations.TicksAndSegments : Prop :=
  (∀ (s : State) (z n : Nat), z < 12 → s.rm.openAt = none → s.gateOpen = true → s.rawTick (s.rd (TIME_ZBEAT z) fTIME_ZBEAT_BEAT) = some n → sget 0 z s.time.zseen ≤ n →
      ∃ t, exec (.tickBoundary z) s = .next t ∧ sget 0 z t.time.zseen = n + 1
        ∧ (∀ k, k < 24 → t.rd (QC_STATUS (24 * z + k)) fQC_STATUS_RCOUNT = 0
            ∧ (t.core (24 * z + k)).probes = (s.core (24 * z + k)).probes.map fun p => { p with seen := p.seen + 1 })
        ∧ t.rd (TIME_ZCYC_TICK z) fTIME_ZCYC_TICK_CYCLES = s.rd (TIME_ZCYC z) fTIME_ZCYC_CYCLES
        ∧ t.rd (PWR_ZDROOP z) fPWR_ZDROOP_LASTTICK = sget 0 z s.pwr.droops % 2 ^ 32 ∧ sget 0 z t.pwr.droops = 0
        ∧ (∀ b, b / 24 ≠ z → t.core b = s.core b)
        ∧ ∀ b, (t.core b).mem = (s.core b).mem ∧ (t.core b).acc = (s.core b).acc ∧ (t.core b).vreg = (s.core b).vreg
          ∧ ∀ i r, 1 ≤ i → i ≤ 3 → r < 32 → t.sreg b i r = s.sreg b i r)
  ∧ ((∀ s : State, s.on TIME_PEND_TICK fTIME_PEND_TICK_VALID = true → s.rd TIME_PEND_BEAT fTIME_PEND_BEAT_BEAT ≤ s.beat →
      ∃ t, exec .pendingSegmentEffect s = .next t ∧ t.rd TIME_SEG_TICK fTIME_SEG_TICK_TICK = s.rd TIME_PEND_TICK fTIME_PEND_TICK_TICK
        ∧ t.rd TIME_SEG_BEAT fTIME_SEG_BEAT_BEAT = s.rd TIME_PEND_BEAT fTIME_PEND_BEAT_BEAT
        ∧ t.rd TIME_SEG_LEN fTIME_SEG_LEN_LEN = s.rd TIME_PEND_LEN fTIME_PEND_LEN_LEN
        ∧ t.rd TIME_SEG_LEN fTIME_SEG_LEN_SEQ = s.rd TIME_PEND_LEN fTIME_PEND_LEN_SEQ ∧ t.on TIME_SEG_LEN fTIME_SEG_LEN_SEQV = true
        ∧ t.rd TIME_SEG_LEN fTIME_SEG_LEN_PLANNED = s.rd TIME_SEG_LEN fTIME_SEG_LEN_PLANNED
        ∧ t.reg TIME_PEND_TICK = 0 ∧ t.reg TIME_PEND_BEAT = 0 ∧ t.reg TIME_PEND_LEN = 0 ∧ t.on TIME_STATUS fTIME_STATUS_PEND = false
        ∧ t.cores = s.cores ∧ t.beat = s.beat)
    ∧ ∀ s : State, (s.on TIME_PEND_TICK fTIME_PEND_TICK_VALID = false ∨ s.beat < s.rd TIME_PEND_BEAT fTIME_PEND_BEAT_BEAT) →
        exec .pendingSegmentEffect s = .next s)

/-- The messages of a time exchange, and what a TRSP does with its four timestamps. -/
def Obligations.TimeExchangeRows : Prop :=
  (∀ s : State, s.on TIME_STATUS fTIME_STATUS_ROOT = false → s.enrolled = 2 ∨ s.enrolled = 3 →
    let no := (s.time.treqNo + 1) % 2 ^ 32
    let x := s.modTime fun t => { t with treqNo := no, treqOut := [] }
    (∀ (p : Nat) (l : List Nat), s.on TIME_PARENT fTIME_PARENT_VALID = true → s.parentPorts = p :: l → exec .timeExchange s = .next (x.sendTreq p no))
    ∧ (s.on TIME_PARENT fTIME_PARENT_VALID = false → s.time.originWait = true → s.anyPortUp = true →
        exec .timeExchange s = .next (((List.range 16).filter s.portUp).foldl (fun y p => y.sendTreq p no) x)))
  ∧ (∀ (s : State) (port : Nat) (p : Packet), s.portState port = psUp ∨ s.portState port = psRecover → 2 ≤ s.enrolled → p.hops = 0 → p.typ = 0x20 →
    let x := s.takeRx port p
    let now := leBytes 8 (x.now16 % 2 ^ 64)
    exec (.treq port p) s = .next (x.transmit port { x.answerTo p 0x21 0 (now ++ now ++ leBytes 8 (x.rd TIME_STATUS fTIME_STATUS_ACQ)) with
      vc := 4, addr := p.addr }))
  ∧ (∀ (s : State) (port t1 : Nat) (p : Packet), s.portState port = psUp ∨ s.portState port = psRecover → 2 ≤ s.enrolled → p.hops = 0 → p.typ = 0x21 →
    let x := s.takeRx port p
    x.time.treqOut.find? (fun q => q.1 = port) = some (port, t1) → p.addr % 2 ^ 32 = x.time.treqNo → ofLeBytes ((p.data.drop 16).take 8) % 2 = 1 →
    let y := x.modTime fun t => { t with treqOut := t.treqOut.filter fun q => q.1 ≠ port }
    let z := (((y.wr TIME_PARENT fTIME_PARENT_VALID 1).wr TIME_PARENT fTIME_PARENT_PORT port).wr TIME_PARENT fTIME_PARENT_NODE p.src).modTime
      fun t => { t with treqOut := [] }
    let runs : State → State := fun u => u.timeExchange t1 (ofLeBytes (p.data.take 8)) (ofLeBytes ((p.data.drop 8).take 8)) u.now16
    (x.time.originWait = false ∨ x.on TIME_PARENT fTIME_PARENT_VALID = true → exec (.trsp port p) s = .next (runs y))
    ∧ (x.time.originWait = true → x.on TIME_PARENT fTIME_PARENT_VALID = false → exec (.trsp port p) s = .next (runs z)))
  ∧ ∀ (s : State) (port : Nat) (p : Packet), s.portState port = psUp ∨ s.portState port = psRecover → 2 ≤ s.enrolled → p.hops = 0 → p.typ = 0x21 →
    let x := s.takeRx port p
    (x.time.treqOut.find? fun q => q.1 = port) = none ∨ p.addr % 2 ^ 32 ≠ x.time.treqNo ∨ ofLeBytes ((p.data.drop 16).take 8) % 2 = 0 → exec (.trsp port p) s = .next (x.bump TIME_DISCARD fTIME_DISCARD_COUNT 1)

/-- Missed exchanges lead to holdover at the settled rate and then to a lost beat; a Ringmaster that waits in vain serves as origin. -/
def Obligations.HoldoverAndOrigin : Prop :=
  (∀ s : State, s.on TIME_STATUS fTIME_STATUS_ROOT = false → s.on TIME_STATUS fTIME_STATUS_HOLDOVER = false → s.time.stale + 1 < 8 →
      exec .exchangeMissed s = .next (s.modTime fun t => { t with stale := t.stale + 1 }))
  ∧ (∀ s : State, s.on TIME_STATUS fTIME_STATUS_ROOT = false → s.on TIME_STATUS fTIME_STATUS_ACQ = false → s.on TIME_STATUS fTIME_STATUS_HOLDOVER = false →
      8 ≤ s.time.stale + 1 → exec .exchangeMissed s = .next ((s.modTime fun t => { t with stale := t.stale + 1 }).setRate s.time.freq))
  ∧ (∀ s : State, s.on TIME_STATUS fTIME_STATUS_ROOT = false → s.on TIME_STATUS fTIME_STATUS_ACQ = true → s.on TIME_STATUS fTIME_STATUS_HOLDOVER = false →
      8 ≤ s.time.stale + 1 → s.time.stale + 1 < s.rd TIME_SERVO_CFG fTIME_SERVO_CFG_HOLD_MAX →
      ∃ t, exec .exchangeMissed s = .next t ∧ t.time.stale = s.time.stale + 1 ∧ t.on TIME_STATUS fTIME_STATUS_HOLDOVER = true
        ∧ t.on TIME_STATUS fTIME_STATUS_ACQ = true ∧ t.on TIME_EVENTS fTIME_EVENTS_HOLDOVER = true
        ∧ t.rd TIME_SERVO fTIME_SERVO_RATE = ofInt32 (clampInt s.time.freq (-200000) 200000) ∧ t.beat = s.beat)
  ∧ (∀ s : State, s.on TIME_STATUS fTIME_STATUS_ROOT = false → s.on TIME_STATUS fTIME_STATUS_ACQ = true → s.on TIME_STATUS fTIME_STATUS_HOLDOVER = true →
      s.rd TIME_SERVO_CFG fTIME_SERVO_CFG_HOLD_MAX ≤ s.time.stale + 1 →
      ∃ t, exec .exchangeMissed s = .next t ∧ t.on TIME_STATUS fTIME_STATUS_ACQ = false ∧ t.on TIME_STATUS fTIME_STATUS_HOLDOVER = false
        ∧ t.on TIME_EVENTS fTIME_EVENTS_BEAT_LOST = true ∧ t.gateOpen = false ∧ (s.enrolled = 3 → t.enrolled = 2) ∧ t.beat = s.beat)
  ∧ ∀ s : State, s.time.originWait = true → s.on TIME_PARENT fTIME_PARENT_VALID = false →
      ∃ t, exec .originTimeout s = .next t ∧ t.on TIME_STATUS fTIME_STATUS_ROOT = true ∧ t.on TIME_STATUS fTIME_STATUS_ACQ = true
        ∧ t.on TIME_STATUS fTIME_STATUS_HOLDOVER = false ∧ t.rd TIME_SERVO fTIME_SERVO_RATE = 0 ∧ t.time.originWait = false ∧ t.beat = s.beat

/-- Stretches, phase lags, episodes and the modes of crossings. -/
def Obligations.DroopsAndEpisodes : Prop :=
  (∀ (s : State) (z d : Nat), z < 12 → s.rd PWR_DROOP_CFG fPWR_DROOP_CFG_DTHR1 ≤ d ∨ s.rd PWR_DROOP_CFG fPWR_DROOP_CFG_DTHR2 ≤ d →
      let q := if s.rd PWR_DROOP_CFG fPWR_DROOP_CFG_DTHR2 ≤ d then 2 else 1
      let big := if q = 2 then fTIME_ZSTR_S50 else fTIME_ZSTR_S25
      let small := if q = 2 then fTIME_ZSTR_S25 else fTIME_ZSTR_S50
      ∃ t, exec (.droopTrip z d) s = .next t ∧ t.rd (TIME_ZSTR z) big = min (2 ^ big.width - 1) (s.rd (TIME_ZSTR z) big + 1)
        ∧ t.rd (TIME_ZSTR z) small = s.rd (TIME_ZSTR z) small ∧ t.rd (PWR_ZDROOP z) fPWR_ZDROOP_MAXDROOP = max (s.rd (PWR_ZDROOP z) fPWR_ZDROOP_MAXDROOP) (min d 65535)
        ∧ (noRealign s z = true → t.reg (TIME_ZSTAT z) = s.reg (TIME_ZSTAT z) ∧ t.time.lag = s.time.lag)
        ∧ (noRealign s z = false → t.rd (TIME_ZSTAT z) fTIME_ZSTAT_LAG = (sget 0 z s.time.lag + q) % 4
            ∧ (t.on (TIME_ZSTAT z) fTIME_ZSTAT_EPISODE = true ↔ (sget 0 z s.time.lag + q) % 4 ≠ 0)))
  ∧ (∀ (s : State) (z : Nat), z < 12 → s.on (TIME_ZSTAT z) fTIME_ZSTAT_EPISODE = true →
      let l := sget 0 z s.time.lag + 1
      ∃ t, exec (.realignmentStretch z) s = .next t ∧ t.rd (TIME_ZSTAT z) fTIME_ZSTAT_LAG = l % 4
        ∧ (t.on (TIME_ZSTAT z) fTIME_ZSTAT_EPISODE = true ↔ l % 4 ≠ 0)
        ∧ t.rd (TIME_ZLOST z) fTIME_ZLOST_CYCLES = (if l % 4 = 0 then min (2 ^ fTIME_ZLOST_CYCLES.width - 1) (s.rd (TIME_ZLOST z) fTIME_ZLOST_CYCLES + l / 4)
            else s.rd (TIME_ZLOST z) fTIME_ZLOST_CYCLES))
  ∧ (∀ (s : State) (x : Nat), x < 16 → s.on (TIME_XING x) fTIME_XING_SYNC = true →
      s.on (TIME_ZSTAT (crossingZones x).1) fTIME_ZSTAT_EPISODE = true ∨ s.on (TIME_ZSTAT (crossingZones x).2) fTIME_ZSTAT_EPISODE = true →
      ∃ t, exec (.neighbourInformed x) s = .next t ∧ t.on (TIME_XING x) fTIME_XING_SYNC = false ∧ (t.rd TIME_XMODE fTIME_XMODE_SYNC).testBit x = false
        ∧ t.rd (TIME_XING x) fTIME_XING_EPISODES = min (2 ^ fTIME_XING_EPISODES.width - 1) (s.rd (TIME_XING x) fTIME_XING_EPISODES + 1)
        ∧ ∀ y, y < 16 → y ≠ x → t.reg (TIME_XING y) = s.reg (TIME_XING y))
  ∧ ∀ (s : State) (x : Nat), x < 16 → s.on (TIME_XING x) fTIME_XING_SYNC = false → s.on (TIME_XING x) fTIME_XING_STUCK = false →
      s.on TIME_STATUS fTIME_STATUS_GLIDE = false → s.on TIME_CTRL fTIME_CTRL_ALIGN = false →
      s.on (TIME_ZSTAT (crossingZones x).1) fTIME_ZSTAT_EPISODE = false → s.on (TIME_ZSTAT (crossingZones x).2) fTIME_ZSTAT_EPISODE = false →
      ∃ t, exec (.crossingSynchronous x) s = .next t ∧ t.on (TIME_XING x) fTIME_XING_SYNC = true ∧ (t.rd TIME_XMODE fTIME_XMODE_SYNC).testBit x = true
        ∧ ∀ y, y < 16 → y ≠ x → t.reg (TIME_XING y) = s.reg (TIME_XING y)

/-- A rising glide has its voltage first; a glide's end re-phases the zones; ageing never raises an Fmax field. -/
def Obligations.GlidesAndAgeing : Prop :=
  (∀ s : State, s.on TIME_STATUS fTIME_STATUS_GLIDE = true → s.time.gliding = false → ∃ t, exec .glideStart s = .next t ∧ t.time.gliding = true
      ∧ t.time.legBeat = s.beat ∧ t.time.legFrom = s.time.legFrom ∧ t.time.ramps = []
      ∧ (1000 * s.rd TIME_FREQ fTIME_FREQ_TARGET ≤ s.codeNow → t.regs = s.regs)
      ∧ (s.codeNow < 1000 * s.rd TIME_FREQ fTIME_FREQ_TARGET → ∀ c, s.coreOn c = true → t.rd (TIME_CORE c) fTIME_CORE_VCODE = s.vcodeAt s.voltCode c))
  ∧ (∀ s : State, s.time.gliding = true → ∃ t, exec .glideEnd s = .next t ∧ t.time.gliding = false
      ∧ t.rd TIME_FREQ fTIME_FREQ_CODE = s.rd TIME_FREQ fTIME_FREQ_TARGET ∧ t.on TIME_STATUS fTIME_STATUS_GLIDE = false
      ∧ t.rd PWR_STATUS fPWR_STATUS_BOOST = (if 80 < s.rd TIME_FREQ fTIME_FREQ_TARGET then 1 else 0)
      ∧ (∀ c, s.coreOn c = true → t.rd (TIME_CORE c) fTIME_CORE_VCODE = s.vcodeAt (s.rd TIME_FREQ fTIME_FREQ_TARGET) c)
      ∧ (∀ z, z < 12 → t.rd (TIME_ZSTAT z) fTIME_ZSTAT_LAG = 0 ∧ t.on (TIME_ZSTAT z) fTIME_ZSTAT_EPISODE = false)
      ∧ (∀ x, x < 16 → s.on (TIME_XING x) fTIME_XING_STUCK = false → t.on (TIME_XING x) fTIME_XING_SYNC = true) ∧ t.beat = s.beat)
  ∧ (∀ (s : State) (c loss : Nat), s.coreOn c = true → s.rd (CAP_STATE c) fCAP_STATE_AGE_LOSS + 5 ≤ loss → ∃ t, exec (.ageingSample c loss) s = .next t
      ∧ t.rd (CAP_STATE c) fCAP_STATE_AGE_LOSS = min 255 loss
      ∧ t.rd (CAP_STATE c) fCAP_STATE_REFRESHES = min (2 ^ 16 - 1) (s.rd (CAP_STATE c) fCAP_STATE_REFRESHES + 1)
      ∧ t.rd TIME_FREQ fTIME_FREQ_FCAP = t.fcapOf ∧ t.rd (TIME_CORE c) fTIME_CORE_VCODE = t.vcodeAt t.voltCode c
      ∧ ∀ i, i < 6 → (t.fmaxPts c).getD i 0 = min ((agedFmax (s.fusedFmax c) (min 255 loss)).getD i 0) ((s.fmaxPts c).getD i 0))
  ∧ ∀ (s : State) (c loss : Nat), loss < s.rd (CAP_STATE c) fCAP_STATE_AGE_LOSS + 5 → exec (.ageingSample c loss) s = .next s

/-- A write of the stack tier stores its bytes, and no other byte of any memory changes. -/
def Obligations.StackWritesStoreTheirBytes : Prop :=
  let stores := fun (s t : State) (off : Nat) (data : List Nat) =>
    (∀ k, k < data.length → memByte t.mem.stack (off + k) = BitVec.ofNat 8 (data.getD k 0))
      ∧ (∀ a, a < off ∨ off + data.length ≤ a → memByte t.mem.stack a = memByte s.mem.stack a)
      ∧ t.mem.peat = s.mem.peat ∧ t.mem.far = s.mem.far ∧ t.cores = s.cores
  (∀ (s : State) (id addr hint use : Nat) (data : List Nat), s.StackOpen addr data.length → s.OutsideDir addr data.length →
    ∃ t, exec (.stackWrite id addr hint use data) s = .next t ∧ stores s t addr data ∧ t.out = s.out ++ [.answer id rsOk []])
  ∧ ∀ (s : State) (addr : Nat) (data : List Nat), s.hostUp = true → addr + data.length ≤ bar2Size → s.StackOpen (s.bar2Off addr) data.length →
      s.OutsideDir (s.bar2Off addr) data.length →
      ∃ t, exec (.bar2Write addr data) s = .next t ∧ stores s t (s.bar2Off addr) data ∧ t.out = s.out

/-- A read answers each line's resident copy or what the stack holds, one changed symbol corrected and counted, and changes no byte. -/
def Obligations.StackReadsAnswerAndCorrect : Prop :=
  ((∀ (s : State) (id addr len hint use : Nat), s.StackOpen addr len → s.LinesClean addr len →
      ∃ t, exec (.stackRead id addr len hint use [] false) s = .next t ∧ t.out = s.out ++ [.answer id rsOk (s.hallPeek addr len)]
        ∧ t.mem.stack = s.mem.stack ∧ t.mem.peat = s.mem.peat ∧ t.mem.far = s.mem.far ∧ t.cores = s.cores)
    ∧ ∀ (s : State) (addr len : Nat), s.hostUp = true → 0 < len → addr + len ≤ bar2Size → s.StackOpen (s.bar2Off addr) len → s.LinesClean (s.bar2Off addr) len →
        ∃ t, exec (.bar2Read addr len) s = .next t ∧ t.out = s.out ++ [.pcie 0 (s.hallPeek (s.bar2Off addr) len)]
          ∧ t.mem.stack = s.mem.stack ∧ t.mem.peat = s.mem.peat ∧ t.mem.far = s.mem.far ∧ t.cores = s.cores)
  ∧ (∀ (s : State) (addr len : Nat), s.StackOpen addr len → s.LinesClean addr len →
      (∀ l ∈ s.mem.cache, (∃ k, k < len ∧ l.isAt ((addr + k) / 2 ^ 38) ((addr + k) % 2 ^ 38 / 64) = true) →
        l.data = memBytes s.mem.stack (l.site * 2 ^ 38 + l.line * 64) 64) → s.hallPeek addr len = memBytes s.mem.stack addr len)
  ∧ ((∀ k v : Nat, k < 68 → 0 < v → v < 256 → eccDecode [(k, v)] = .fixed k v)
    ∧ ∀ (s : State) (id addr k v : Nat), k < 68 → 0 < v → v < 256 → addr % 64 = 0 → s.stackGate addr = rsOk → s.cen (addr / 2 ^ 38) = false →
        s.lineErrs (addr / 2 ^ 38) (addr % 2 ^ 38 / 64) = [(k, v)] →
        ∃ t, exec (.stackRead id addr 64 0 0 [] false) s = .next t ∧ (.answer id rsOk (memBytes s.mem.stack addr 64)) ∈ t.out
          ∧ t.mem.stack = s.mem.stack
          ∧ t.rd (MEM_CE (addr / 2 ^ 38)) fMEM_CE_COUNT = min (2 ^ 64 - 1) (s.rd (MEM_CE (addr / 2 ^ 38)) fMEM_CE_COUNT + 1))

/-- An atomic answers the old value, stores the value its operation gives, and changes no other byte. -/
def Obligations.AtomicsReturnTheOldValue : Prop :=
  let does := fun (s t : State) (off n aop op cmp : Nat) =>
    t.mem.stack = memStore s.mem.stack off (leBytes n (atomicFn aop (ofLeBytes (s.hallPeek off n)) (op % 2 ^ (8 * n)) (cmp % 2 ^ (8 * n)) (8 * n)))
      ∧ t.mem.peat = s.mem.peat ∧ t.mem.far = s.mem.far ∧ t.cores = s.cores
  (∀ (s : State) (id addr aop op cmp : Nat) (wide : Bool), aop < 8 →
    let n := if wide then 8 else 4
    addr % n = 0 → s.StackOpen addr n → s.LinesClean addr n → s.OutsideDir addr n →
    ∃ t, exec (.stackAtomic id addr aop wide op cmp) s = .next t ∧ does s t addr n aop op cmp
      ∧ t.out = s.out ++ [.answer id rsOk (s.hallPeek addr n)])
  ∧ ∀ (s : State) (addr aop n op cmp : Nat), s.hostUp = true → aop < 3 → n = 4 ∨ n = 8 → addr + n ≤ bar2Size → addr % n = 0 →
      s.StackOpen (s.bar2Off addr) n → s.LinesClean (s.bar2Off addr) n → s.OutsideDir (s.bar2Off addr) n →
      ∃ t, exec (.bar2Atomicop addr aop n op cmp) s = .next t ∧ does s t (s.bar2Off addr) n aop op cmp
        ∧ t.out = s.out ++ [.pcie 0 (s.hallPeek (s.bar2Off addr) n)]

/-- An access whose first line is unmapped, fenced or not the requester's changes no memory and answers no data. -/
def Obligations.FailedAccessesChangeNothing : Prop :=
  let replies := fun (s t : State) (id st : Nat) => .answer id st [] ∈ t.out ∧ t.mem = s.mem ∧ t.cores = s.cores
  (∀ (s : State) (id addr len hint use : Nat), 0 < len → s.stackGate addr ≠ rsOk →
    ∃ t, exec (.stackRead id addr len hint use [] false) s = .next t ∧ replies s t id (s.stackGate addr))
  ∧ (∀ (s : State) (id addr hint use : Nat) (data : List Nat), data ≠ [] → s.inDirRange addr = true ∨ s.stackGate addr ≠ rsOk →
      ∃ t, exec (.stackWrite id addr hint use data) s = .next t ∧ replies s t id (if s.inDirRange addr = true then rsUnmapped else s.stackGate addr))
  ∧ (∀ (s : State) (id addr aop op cmp : Nat) (wide : Bool), aop < 8 → addr % (if wide then 8 else 4) = 0 → s.inDirRange addr = true ∨ s.stackGate addr ≠ rsOk →
      ∃ t, exec (.stackAtomic id addr aop wide op cmp) s = .next t ∧ replies s t id (if s.inDirRange addr = true then rsUnmapped else s.stackGate addr))
  ∧ (∀ (s : State) (id who addr len : Nat) (write : Bool) (data : List Nat), addr / 2 ^ 40 < 2 → who ≠ 291 → who ≠ 288 + addr / 2 ^ 40 →
      ∃ t, exec (.peatAccess id who addr write len data []) s = .next t ∧ replies s t id rsRefused
        ∧ t.rd (PT_UNMAP (addr / 2 ^ 40)) fPT_UNMAP_COUNT = min (2 ^ 64 - 1) (s.rd (PT_UNMAP (addr / 2 ^ 40)) fPT_UNMAP_COUNT + 1))
  ∧ ∀ (s : State) (addr len : Nat), s.hostUp = true → 0 < len → addr + len ≤ bar2Size → s.stackGate (s.bar2Off addr) ≠ rsOk →
      ∃ t, exec (.bar2Read addr len) s = .next t ∧ .pcie (pcieOutcome (s.stackGate (s.bar2Off addr))) [] ∈ t.out ∧ t.mem = s.mem
        ∧ t.rd HIF_BAR2_ERR fHIF_BAR2_ERR_STATUS = s.stackGate (s.bar2Off addr) ∧ t.rd HIF_BAR2_EADDR fHIF_BAR2_EADDR_OFFSET = addr
        ∧ t.on HIF_EVENTS fHIF_EVENTS_BAR2_ERR = true

/-- The owning die and firmware read and write a die's modules; a far-tier port reads and writes its window. -/
def Obligations.PeatAndFarAccesses : Prop :=
  (∀ (s : State) (id who addr len : Nat) (data : List Nat), addr / 2 ^ 40 < 2 → who = 291 ∨ who = 288 + addr / 2 ^ 40 →
    let d := addr / 2 ^ 40
    let a := addr % 2 ^ 40
    ((∀ k, k < data.length → s.peatGate d (a + k) = rsOk) → ∃ t, exec (.peatAccess id who addr true len data []) s = .next t
      ∧ (∀ k, k < data.length → memByte t.mem.peat (addr + k) = BitVec.ofNat 8 (data.getD k 0))
      ∧ (∀ x, x < addr ∨ addr + data.length ≤ x → x / 64 < addr / 64 ∨ (addr + data.length - 1) / 64 < x / 64
          ∨ s.peatKnown d ((x - d * 2 ^ 40) / 64) = true → memByte t.mem.peat x = memByte s.mem.peat x)
      ∧ t.mem.stack = s.mem.stack ∧ t.mem.far = s.mem.far ∧ t.out = s.out ++ [.answer id rsOk []])
    ∧ ((∀ k, k < len → s.peatGate d (a + k) = rsOk) → (∀ k, k < len → s.mem.known.contains (lineKey (10 + d) ((a + k) / 64)) = true
          ∧ s.poisoned (10 + d) ((a + k) / 64) = false ∧ s.lineErrs (10 + d) ((a + k) / 64) = []) →
      ∃ t, exec (.peatAccess id who addr false len data []) s = .next t ∧ t.out = s.out ++ [.answer id rsOk (memBytes s.mem.peat addr len)]
        ∧ t.mem = s.mem))
  ∧ ∀ (s : State) (id addr len : Nat) (data : List Nat),
      ((∀ k, k < data.length → s.farGate (addr + k) = rsOk) → ∃ t, exec (.farTierAccess id addr true len data false) s = .next t
        ∧ (∀ k, k < data.length → memByte t.mem.far (addr + k) = BitVec.ofNat 8 (data.getD k 0))
        ∧ (∀ x, x < addr ∨ addr + data.length ≤ x → memByte t.mem.far x = memByte s.mem.far x)
        ∧ t.mem.stack = s.mem.stack ∧ t.mem.peat = s.mem.peat ∧ t.out = s.out ++ [.answer id rsOk []])
      ∧ ((∀ k, k < len → s.farGate (addr + k) = rsOk ∧ (addr + k) / 64 ∉ s.mem.farBad) →
        ∃ t, exec (.farTierAccess id addr false len data false) s = .next t ∧ t.out = s.out ++ [.answer id rsOk (memBytes s.mem.far addr len)] ∧ t.mem = s.mem)

/-- Reported faults fence or fail, temperatures double the refresh, counts are kept; contents do not change. -/
def Obligations.MemoryReports : Prop :=
  let kept := fun (s t : State) => t.mem.stack = s.mem.stack ∧ t.mem.peat = s.mem.peat ∧ t.mem.far = s.mem.far
  (∀ (s : State) (x c : Nat), x < 10 → c < 32 → s.siteState x ≠ 0 → s.siteState x ≠ 4 → s.siteRange x ≠ 0 → s.rd (MEM_CH x c) fMEM_CH_STATE = 0 →
    ∃ t, exec (.stackFault x c false) s = .next t ∧ kept s t ∧ t.rd (MEM_CH x c) fMEM_CH_STATE = 1 ∧ t.rd (MEM_CH x c) fMEM_CH_REASON = 5
      ∧ t.siteState x = 3 ∧ (t.rd (MEM_CH_FENCED x) fMEM_CH_FENCED_MAP).testBit c = true ∧ (t.rd (MEM_CH_LIVE x) fMEM_CH_LIVE_MAP).testBit c = false
      ∧ t.on (MEM_EVENTS x) fMEM_EVENTS_FENCE = true ∧ ∀ l ∈ t.mem.cache, l.site = x → chanOf (s.siteLive x) l.line ≠ c)
  ∧ (∀ (s : State) (x c : Nat), x < 10 → s.siteState x ≠ 0 → ∃ t, exec (.stackFault x c true) s = .next t ∧ kept s t ∧ t.siteState x = 4
      ∧ (∀ l ∈ t.mem.cache, l.site ≠ x) ∧ ∀ off, off / 2 ^ 38 = x → t.stackGate off = rsUnmapped)
  ∧ (∀ (s : State) (d c : Nat), d < 2 → c < 4 → s.dieRange d ≠ 0 → s.rd (PT_CH_INFO d c) fPT_CH_INFO_STATE = 0 →
      ∃ t, exec (.moduleReportedFault d c) s = .next t ∧ kept s t ∧ t.rd (PT_CH_INFO d c) fPT_CH_INFO_STATE = 1
        ∧ t.rd (PT_CH_INFO d c) fPT_CH_INFO_REASON = 5 ∧ t.rd (PT_STATUS d) fPT_STATUS_STATE = 3 ∧ t.on (PT_EVENTS d) fPT_EVENTS_FENCE = true)
  ∧ (∀ (s : State) (x c : Nat), x < 10 → s.siteState x ≠ 0 → c < 256 → ∃ t, exec (.stackTemperatureRead x c) s = .next t ∧ kept s t
      ∧ t.rd (MEM_TEMP x) fMEM_TEMP_TEMP = c ∧ t.rd (MEM_TEMP x) fMEM_TEMP_MAXT = max c (s.rd (MEM_TEMP x) fMEM_TEMP_MAXT)
      ∧ (85 ≤ c → x ∈ t.mem.hot ∧ t.on (MEM_EVENTS x) fMEM_EVENTS_TEMP_HIGH = true) ∧ (c < 80 → x ∉ t.mem.hot)
      ∧ (80 ≤ c → c < 85 → (x ∈ t.mem.hot ↔ x ∈ s.mem.hot)))
  ∧ (∀ (s : State) (d c v : Nat), d < 2 → c < 4 → s.rd (PT_CH_INFO d c) fPT_CH_INFO_CAP ≠ 0 → v < 256 →
      ∃ t, exec (.moduleTemperatureRead d c v) s = .next t ∧ kept s t ∧ t.rd (PT_CH_INFO d c) fPT_CH_INFO_TEMP = v
        ∧ ((16 + d * 4 + c) ∈ t.mem.hot ↔ 85 ≤ v))
  ∧ (∀ (s : State) (x n : Nat), x < 10 → s.siteState x ≠ 0 → ∃ t, exec (.stackCeReadout x n) s = .next t ∧ kept s t
      ∧ t.rd (MEM_DIE_CE x) fMEM_DIE_CE_COUNT = min (2 ^ 64 - 1) (s.rd (MEM_DIE_CE x) fMEM_DIE_CE_COUNT + n))
  ∧ ∀ (s : State) (tier : Nat), let f := if tier = 0 then fDIR_LATE_REPLY_STACK else if tier = 2 then fDIR_LATE_REPLY_FAR else fDIR_LATE_REPLY_REMOTE
      ∃ t, exec (.lateReply tier) s = .next t ∧ t.rd DIR_LATE_REPLY f = min (2 ^ 16 - 1) (s.rd DIR_LATE_REPLY f + 1)
        ∧ t.on DIR_EVENTS fDIR_EVENTS_LATE_REPLY = true ∧ t.mem = s.mem ∧ t.dir = s.dir

/-- A fill enters the cache, a scrub rewrites what it corrects, a compaction maps fenced channels out. -/
def Obligations.FillsScrubsCompactions : Prop :=
  (∀ (s : State) (k : Nat) (l : CacheLine), s.mem.fills[k]? = some l → l.site < 10 → l.probe = none → l.kind = .ordinary →
    (s.cached l.site l.line = none → (s.mem.cache.filter fun x => x.inSet l.site l.line).length < 16 →
      ∃ t, exec (.cacheFill k) s = .next t ∧ t.mem.cache = l :: s.mem.cache ∧ (∀ x ∈ t.mem.fills, x.isAt l.site l.line = false)
        ∧ t.rd (MEM_C_FILL l.site) fMEM_C_FILL_COUNT = min (2 ^ 64 - 1) (s.rd (MEM_C_FILL l.site) fMEM_C_FILL_COUNT + 1) ∧ t.mem.stack = s.mem.stack)
    ∧ (s.cached l.site l.line ≠ none → ∃ t, exec (.cacheFill k) s = .next t ∧ t.mem.cache = s.mem.cache ∧ (∀ x ∈ t.mem.fills, x.isAt l.site l.line = false)
        ∧ t.regs = s.regs))
  ∧ (∀ (s : State) (k : Nat) (l : CacheLine), s.mem.fills[k]? = some l → s.cached l.site l.line = none →
      let x := s.modMem fun m => { m with fills := m.fills.filter fun y => !y.isAt l.site l.line }
      (l.probe = none → exec (.cacheFill k) s =
        .next (let r := x.allocate l; if r.2 then r.1.bump (MEM_C_FILL l.site) fMEM_C_FILL_COUNT 1 else r.1))
      ∧ ∀ b i pc, l.probe = some (b, i, pc) → eccDecode (s.lineErrs l.site l.line) = .clean →
          exec (.cacheFill k) s = .next (
            let r := x.allocate { l with data := s.dramData l.site l.line, probe := if i = 0 then none else l.probe }
            if r.2 then (r.1.bump (MEM_C_PROBE l.site) fMEM_C_PROBE_COUNT 1).bump (DM_RA_LINES b) fDM_RA_LINES_COUNT 1
            else (r.1.bump (DM_RA_DROP b) fDM_RA_DROP_COUNT 1).raise (DM_EVENTS b) fDM_EVENTS_RA_DROP))
  ∧ (∀ (s : State) (x : Nat), x < 10 → s.siteRange x ≠ 0 → s.rd (MEM_SCRUB x) fMEM_SCRUB_PERIOD ≠ 0 → s.on (MEM_STATUS x) fMEM_STATUS_COMPACTING = false →
      let line := sget 0 x s.mem.scrubAt
      let last := decide (s.siteRange x ≤ (line + 1) * 64)
      s.stackGate (x * 2 ^ 38 + line * 64) = rsOk → (∃ k v, k < 68 ∧ 0 < v ∧ v < 256 ∧ s.lineErrs x line = [(k, v)]) →
      ∃ t, exec (.scrubRead x []) s = .next t ∧ t.lineErrs x line = [] ∧ (∀ a, memByte t.mem.stack a = memByte s.mem.stack a)
        ∧ t.rd (MEM_CE x) fMEM_CE_COUNT = min (2 ^ 64 - 1) (s.rd (MEM_CE x) fMEM_CE_COUNT + 1)
        ∧ sget 0 x t.mem.scrubAt = (if last = true then 0 else line + 1)
        ∧ (last = true → t.on (MEM_EVENTS x) fMEM_EVENTS_SCRUB_PASS = true))
  ∧ (∀ (s : State) (d : Nat), d < 2 → s.dieRange d ≠ 0 → s.rd (PT_SCRUB d) fPT_SCRUB_PERIOD ≠ 0 → s.on (PT_STATUS d) fPT_STATUS_COMPACTING = false →
      let line := sget 0 (10 + d) s.mem.scrubAt
      let last := decide (s.dieRange d ≤ (line + 1) * 64)
      s.peatGate d (line * 64) = rsOk → s.mem.known.contains (lineKey (10 + d) line) = true → s.poisoned (10 + d) line = false →
      (s.lineErrs (10 + d) line).length = 1 →
      ∃ t, exec (.scrubRead (10 + d) []) s = .next t ∧ t.lineErrs (10 + d) line = [] ∧ t.mem.peat = s.mem.peat
        ∧ t.rd (PT_CE d) fPT_CE_COUNT = min (2 ^ fPT_CE_COUNT.width - 1) (s.rd (PT_CE d) fPT_CE_COUNT + 1)
        ∧ sget 0 (10 + d) t.mem.scrubAt = (if last = true then 0 else line + 1)
        ∧ (last = true → t.on (PT_EVENTS d) fPT_EVENTS_SCRUB_PASS = true))
  ∧ ∀ (s : State) (x : Nat), x < 10 → s.on (MEM_STATUS x) fMEM_STATUS_COMPACTING = true → s.dirOff 0 / 2 ^ 38 ≠ x →
      let live := s.siteLive x
      let fenced := live.filter fun c => s.rd (MEM_CH x c) fMEM_CH_STATE = 1
      let range := (live.length - fenced.length) * 2 ^ 32
      ∃ t, exec (.compactionComplete x) s = .next t ∧ t.on (MEM_STATUS x) fMEM_STATUS_COMPACTING = false ∧ t.siteRange x = range
        ∧ (∀ c, c < 32 → t.rd (MEM_CH x c) fMEM_CH_STATE = (if c ∈ fenced then 2 else s.rd (MEM_CH x c) fMEM_CH_STATE))
        ∧ t.rd (MEM_CH_FENCED x) fMEM_CH_FENCED_MAP = 0 ∧ t.on (MEM_EVENTS x) fMEM_EVENTS_COMPACT_DONE = true
        ∧ t.mem.stack = State.moveLines live fenced (x * 2 ^ 38) (2 ^ 38) range s.mem.stack
        ∧ ∀ line, line * 64 < range → chanOf live line ∈ fenced → t.poisoned x line = true

/-- A walk's end gives every move that waits for it an outcome; a request or a wait that outruns its tier fails its move. -/
def Obligations.TranslationsAndTimeouts : Prop :=
  (∀ (s : State) (id : Nat) (late : Bool), id ∈ s.dir.walks → id ∉ s.dir.queue → (late = true → s.outran 0 (sget 0 id s.dir.walkAt) = true) →
    ∃ t, exec (.directoryWalk id late) s = .next t ∧ id ∉ t.dir.walks ∧ ∀ b, ∀ j ∈ (t.core b).jobs, j.trans ≠ .walking id)
  ∧ (∀ (s : State) (id : Nat), id ∈ s.dir.walks → s.dirEnt id = none → (s.dir.cache.filter fun x => x.id % 4096 = id % 4096).length < 8 →
      s.StackOpen (s.dirOff id) 64 → s.LinesClean (s.dirOff id) 64 → ∃ t, exec (.directoryWalk id false) s = .next t
        ∧ (∃ e ∈ t.dir.cache, e.id = id ∧ e.words = State.entOfLine (s.hallPeek (s.dirOff id) 64) id) ∧ t.mem.stack = s.mem.stack)
  ∧ (∀ (s : State) (id : Nat), id ∈ s.dir.walks → s.outran 0 (sget 0 id s.dir.walkAt) = true → ∃ t, exec (.directoryWalk id true) s = .next t
      ∧ t.rd DIR_WALK_ERR fDIR_WALK_ERR_COUNT = min (2 ^ 64 - 1) (s.rd DIR_WALK_ERR fDIR_WALK_ERR_COUNT + 1) ∧ t.rd DIR_ERR_LAST fDIR_ERR_LAST_KIND = 3
      ∧ t.rd DIR_ERR_LAST fDIR_ERR_LAST_ID = id % 2 ^ fDIR_ERR_LAST_ID.width
      ∧ t.rd DIR_TIER_LATE fDIR_TIER_LATE_STACK = min (2 ^ 16 - 1) (s.rd DIR_TIER_LATE fDIR_TIER_LATE_STACK + 1) ∧ t.mem = s.mem)
  ∧ (∀ (s : State) (b ord tier row : Nat) (j : Job), b < 288 → 1 ≤ j.iss.stream → j.iss.stream ≤ 3 → s.job b ord = some j →
      let f := if tier = 0 then fDIR_TIER_LATE_STACK else if tier = 2 then fDIR_TIER_LATE_FAR else fDIR_TIER_LATE_REMOTE
      let late : State → Prop := fun t => s.Ended t b j.ord ∧ t.rd (SQS_MFAIL b (j.iss.stream - 1)) fSQS_MFAIL_STATUS = 0x03
        ∧ t.on (SQ_EVENTS b) fSQ_EVENTS_MOVEFAIL = true ∧ t.incs = s.incs ∧ t.rd DIR_TIER_LATE f = min (2 ^ 16 - 1) (s.rd DIR_TIER_LATE f + 1)
      let dm : State → State → Prop := fun x t => late t ∧ t.rd (DM_CSTAT b) fDM_CSTAT_STATUS = 0x03 ∧ t.mem = x.mem
        ∧ (t.core b).mem = (x.core b).mem
      (j.kind = .remInc → (∃ q ∈ j.reqs, s.outran 3 q.at_ = true) → tier = 3 → ∃ t, exec (.tierTimeout b ⟨ord, tier, row⟩) s = .next t ∧ late t
        ∧ t.mem = s.mem ∧ ∀ k ∈ (t.core b).jobs, k.ord ≠ j.ord)
      ∧ (j.kind = .dmov → (∀ id w, j.trans = .moving id w → waitTier s id = tier → s.outran tier w = true →
            ∃ t, exec (.tierTimeout b ⟨ord, tier, row⟩) s = .next t ∧ dm s t)
          ∧ ((∀ id w, j.trans ≠ .moving id w) → (tier = 3 → (∃ q ∈ j.reqs, s.outran 3 q.at_ = true) →
              ∃ t, exec (.tierTimeout b ⟨ord, tier, row⟩) s = .next t ∧ dm s t)
            ∧ (tier = 0 ∨ tier = 2 → State.Job.ready j = true → j.sent = false → (moveTiersOf s j).contains tier = true → s.outran tier j.since = true →
              ∃ t, exec (.tierTimeout b ⟨ord, tier, row⟩) s = .next t ∧ dm (runMove s b j (some row)).s t))))
  ∧ ∀ (s : State) (d tag row : Nat), d < 2 → s.udWaits d tag = true → (∃ q ∈ s.udReqs d, q.tag = tag ∧ s.outran 3 q.at_ = true) →
      exec (.tierTimeout (288 + d) ⟨tag, 3, row⟩) s =
        .next (((s.countLate 3).retire (288 + d) ((s.udReqs d).filter fun q => q.tag = tag)).udEnd d tag 0x03)

/-- A walk starts at entry 0 with no marks, and ends done, holding or incomplete. -/
def Obligations.WalksOfUpdateDies : Prop :=
  (∀ (s : State) (d : Nat), d < 2 → (s.ud d).auto = true → s.on (UD_CTRL d) fUD_CTRL_EN = true → s.on (UD_STATUS d) fUD_STATUS_LINK_UP = true →
      s.on (UD_STATUS d) fUD_STATUS_WALKING = false → s.on (UD_STATUS d) fUD_STATUS_HOLDING = false →
      ∃ t, exec (.walkStart d) s = .next t ∧ t.on (UD_STATUS d) fUD_STATUS_WALKING = true ∧ t.rd (UD_STATUS d) fUD_STATUS_ENTRY = 0
        ∧ t.on (UD_STATUS d) fUD_STATUS_TROUBLE_STEP = false ∧ t.reg (UD_MARKS d) = 0 ∧ (∀ i, i < 64 → t.reg (UD_MARK d i) = 0)
        ∧ (t.ud d).ents = [] ∧ (t.ud d).rules = s.ruleCopies d ∧ (t.ud d).auto = false ∧ t.mem = s.mem)
  ∧ (∀ (s : State) (d : Nat), d < 2 → s.on (UD_STATUS d) fUD_STATUS_WALKING = true → (s.ud d).ents = [] → (s.ud d).stop = false → s.rm.rearm = none →
      s.rd (UD_LISTBASE d) fUD_LISTBASE_LEN ≤ s.rd (UD_STATUS d) fUD_STATUS_ENTRY →
      ∃ t, exec (.walkComplete d) s = .next t ∧ t.on (UD_STATUS d) fUD_STATUS_WALKING = false
        ∧ ((s.ud d).held = [] → s.sched.gbinds = [] ∨ (s.ud (1 - d)).resolved = [] → t.on (UD_EVENTS d) fUD_EVENTS_STEP_DONE = true)
        ∧ ((s.ud d).held ≠ [] → t.on (UD_STATUS d) fUD_STATUS_HOLDING = true ∧ t.on (UD_EVENTS d) fUD_EVENTS_HELD = true
          ∧ (t.ud d).held = (s.ud d).held ∧ t.mem = s.mem))
  ∧ (∀ (s : State) (d : Nat), d < 2 → s.on (UD_STATUS d) fUD_STATUS_WALKING = true → (s.ud d).ents = [] → (s.ud d).stop = true → s.rm.rearm = none →
      ∃ t, exec (.walkComplete d) s = .next t ∧ t.on (UD_STATUS d) fUD_STATUS_WALKING = false ∧ t.reg (UD_EVENTS d) = s.reg (UD_EVENTS d)
        ∧ (t.ud d).held = [])
  ∧ (∀ (s : State) (d idx : Nat) (x : UdEnt), d < 2 → s.ent d idx = some x → x.resolved = true → x.reqs = [] → s.rm.rearm = none →
      (∀ e ∈ (s.ud d).emits, e.owner = some idx → e.held = true) →
      ∃ t, exec (.entryComplete d idx) s = .next t ∧ t.ent d idx = none
        ∧ t.incs = s.incs ++ (if leDoneEn x.words = true then [⟨leDone x.words, 1, s.rd (UD_EPOCH d) fUD_EPOCH_EPOCH, s.node⟩] else []) ∧ t.mem = s.mem)
  ∧ ∀ (s : State) (d : Nat), d < 2 → ∃ t, exec (.sedgeLinkReset d) s = .next t ∧ t.on (UD_STATUS d) fUD_STATUS_WALKING = false
      ∧ t.on (UD_STATUS d) fUD_STATUS_HOLDING = false ∧ (t.ud d).ents = [] ∧ (t.ud d).held = [] ∧ (t.ud d).emits = [] ∧ (t.ud d).xfers = []
      ∧ t.on (UD_EVENTS d) fUD_EVENTS_PARTNER_RESET = true ∧ t.on PKG_EVENTS fPKG_EVENTS_PARTNER_RESET = true
      ∧ t.rd PKG_PRESET fPKG_PRESET_COUNT = min (2 ^ fPKG_PRESET_COUNT.width - 1) (s.rd PKG_PRESET fPKG_PRESET_COUNT
        + (s.udReqs d).length)

/-- An entry in flight runs once its requests are answered, and not before. -/
def Obligations.EntriesRunWhenTheirDataAreThere : Prop :=
  (∀ (s : State) (d idx : Nat) (x : UdEnt), d < 2 → s.ent d idx = some x → x.reqs = [] → x.ran = false → s.accWaits d x = false →
    (leKind x.words = 0 → exec (.update d idx) s = .next (s.runUpdate d x)) ∧ (leKind x.words = 1 → exec (.scan d idx) s = .next (s.runScan d x))
      ∧ (leKind x.words = 2 → exec (.normOut d idx) s = .next (s.runNormOut d x)) ∧ (leKind x.words = 3 → exec (.normIn d idx) s = .next (s.runNormIn d x)))
  ∧ (∀ (s : State) (d idx : Nat) (x : UdEnt) (c : Instr), d < 2 → s.ent d idx = some x → x.reqs ≠ [] ∨ x.ran = true ∨ s.accWaits d x = true →
    c = .update d idx ∨ c = .scan d idx ∨ c = .normOut d idx ∨ c = .normIn d idx → exec c s = .next s)
  ∧ (∀ (s : State) (d idx k : Nat) (c : Instr), d < 2 → s.ent d idx = none →
    (c, k) ∈ [(Instr.update d idx, 0), (Instr.scan d idx, 1), (Instr.normOut d idx, 2), (Instr.normIn d idx, 3)] →
    (∀ x, (s.startEntry d idx k).ent d idx = some x → leKind x.words ≠ k ∨ x.reqs ≠ [] ∨ x.ran = true ∨ (s.startEntry d idx k).accWaits d x = true) →
    exec c s = .next (s.startEntry d idx k))
  ∧ (∀ (s : State) (d idx k : Nat), s.walkOpen d = false ∨ s.rd (UD_STATUS d) fUD_STATUS_ENTRY ≠ idx ∨ s.rd (UD_LISTBASE d) fUD_LISTBASE_LEN ≤ idx →
    s.startEntry d idx k = s)
  ∧ (∀ (s : State) (d idx : Nat) (e : List Nat), s.walkOpen d = true → s.rd (UD_STATUS d) fUD_STATUS_ENTRY = idx →
    idx < s.rd (UD_LISTBASE d) fUD_LISTBASE_LEN → (s.readEntry d idx).2 = some e → leKind e = 2 → (s.readEntry d idx).1.heldEntry d e = false →
    s.startEntry d idx 2 = (s.readEntry d idx).1.launchEnt d ⟨idx, e, [], 0, 0, 0, [], [], none, false, false, s.beat⟩)
  ∧ (∀ (s : State) (d : Nat) (x : UdXfer) (l : List UdXfer), (s.ud d).xfers = x :: l → exec (.ckptDone d) s = .next (s.runXfer d x).settleEpoch)
  ∧ ∀ (s : State) (d : Nat), (s.ud d).xfers = [] → exec (.ckptDone d) s = .next s.settleEpoch

/-- The commit word makes the new version the tensor; norms are written, cleared and read; a torn record is refused. -/
def Obligations.EffectsOfEntries : Prop :=
  (∀ (s : State) (d idx : Nat) (x : UdEnt), d < 2 → s.ent d idx = some x → leKind x.words = 0 → x.ran = true → x.resolved = false →
    (rcInplace x.rcd = true → s.jnlRoom = true) → s.ckptReading d (leUlx x.words) = false →
    let a := s.recAddr d (leUlx x.words)
    let word := fun (s : State) => ofLeBytes (memBytes s.mem.peat (d * 2 ^ 40 + a) 8)
    (∀ k, k < 8 → s.peatGate d (a + k) = rsOk ∧ s.poisoned (10 + d) ((a + k) / 64) = false ∧ s.peatKnown d ((a + k) / 64) = true ∧ s.lineErrs (10 + d) ((a + k) / 64) = []) →
    ∃ t, exec (.commitWord d idx) s = .next t
      ∧ word t = nput (nput (nput (nput (word s) 61 61 0) 55 48 x.e) 32 32 (if rcInplace x.rcd = true then rcSlot x.rcd else 1 - rcSlot x.rcd)) 31 0 x.t % 2 ^ 64
      ∧ (∀ p, p < d * 2 ^ 40 + a ∨ d * 2 ^ 40 + a + 8 ≤ p → memByte t.mem.peat p = memByte s.mem.peat p)
      ∧ t.rd (UD_UPDATES d) fUD_UPDATES_COUNT = min (2 ^ fUD_UPDATES_COUNT.width - 1) (s.rd (UD_UPDATES d) fUD_UPDATES_COUNT + 1)
      ∧ t.rd (UD_PARAMS d) fUD_PARAMS_COUNT = min (2 ^ fUD_PARAMS_COUNT.width - 1) (s.rd (UD_PARAMS d) fUD_PARAMS_COUNT + rcN x.rcd)
      ∧ ∀ y, t.ent d idx = some y → y.resolved = true)
  ∧ (∀ (s : State) (d idx : Nat) (x : UdEnt), d < 2 → s.ent d idx = some x → leKind x.words = 2 → x.reqs = [] → x.ran = false → leGrp x.words < 64 →
      ∃ t, exec (.normOut d idx) s = .next t ∧ (∀ k, k < 4 → t.rd (UD_NACC d (leGrp x.words * 4 + k)) fUD_NACC_VALUE = 0)
        ∧ ∀ y, t.ent d idx = some y → y.resolved = true
          ∧ y.rcd = (List.range 4).map fun k => s.rd (UD_NACC d (leGrp x.words * 4 + k)) fUD_NACC_VALUE)
  ∧ (∀ (s : State) (d idx : Nat) (x : UdEnt), d < 2 → s.ent d idx = some x → leKind x.words = 3 → x.reqs = [] → x.ran = false → x.fail = none →
      (s.udTouch [(leAddr x.words, 32)]).2 = none →
      let bytes := (s.udTouch [(leAddr x.words, 32)]).1.udPeek x.rx (leAddr x.words) 32
      ∃ t, exec (.normIn d idx) s = .next t ∧ (∀ k, k < 4 → t.rd (UD_NREG d k) fUD_NREG_VALUE = ofLeBytes ((bytes.drop (8 * k)).take 8) % 2 ^ 64)
        ∧ t.mem = (s.udTouch [(leAddr x.words, 32)]).1.mem ∧ ∀ y, t.ent d idx = some y → y.resolved = true)
  ∧ (∀ (s : State) (d idx : Nat) (x : UdEnt), d < 2 → s.ent d idx = some x → leKind x.words = 0 → x.reqs = [] → x.ran = false → x.cls = clTorn → s.accWaits d x = false →
      ∃ t, exec (.update d idx) s = .next t ∧ t.mem = s.mem ∧ t.incs = s.incs ∧ t.rd (UD_SKIP_LAST d) fUD_SKIP_LAST_CLASS = clTorn
        ∧ t.rd (UD_SKIPS d) fUD_SKIPS_COUNT = min (2 ^ fUD_SKIPS_COUNT.width - 1) (s.rd (UD_SKIPS d) fUD_SKIPS_COUNT + 1)
        ∧ t.on (UD_EVENTS d) fUD_EVENTS_TROUBLE = true ∧ ∀ y, t.ent d idx = some y → y.resolved = true)
  ∧ ∀ (s : State) (d idx : Nat) (x : UdEnt), d < 2 → s.ent d idx = some x → leKind x.words = 1 → x.reqs = [] → x.ran = false → rcN x.rcd = 0 → s.accWaits d x = false →
      State.gradRanges x.words x.rcd = [] →
      ∃ t, exec (.scan d idx) s = .next t ∧ t.regs = s.regs ∧ t.mem = s.mem ∧ ∀ y, t.ent d idx = some y → y.resolved = true

/-- A degraded mark is recorded while the table has room; a copy that has left releases its turnstile. -/
def Obligations.MarksAndCopies : Prop :=
  (∀ (s : State) (k : Nat) (m : MarkMsg), s.marks[k]? = some m → m.die < 2 → (∃ x ∈ s.marks.eraseIdx k, x.core = m.core ∧ x.ord = m.ord) →
    let n := s.rd (UD_MARKS m.die) fUD_MARKS_COUNT
    ∃ t, exec (.degradedMark k) s = .next t ∧ t.marks = s.marks.eraseIdx k ∧ t.cores = s.cores
      ∧ (n < 64 → t.on (UD_MARK m.die n) fUD_MARK_VALID = true ∧ t.rd (UD_MARK m.die n) fUD_MARK_STEP = s.udStep m.die
        ∧ t.rd (UD_MARK m.die n) fUD_MARK_TAG = m.tag % 2 ^ fUD_MARK_TAG.width ∧ t.rd (UD_MARKS m.die) fUD_MARKS_COUNT = n + 1
        ∧ ∀ i, i < 64 → i ≠ n → t.reg (UD_MARK m.die i) = s.reg (UD_MARK m.die i))
      ∧ (64 ≤ n → t.on (UD_MARKS m.die) fUD_MARKS_OVF = true ∧ t.on (UD_EVENTS m.die) fUD_EVENTS_MARK_OVF = true
        ∧ t.rd (UD_MARKS m.die) fUD_MARKS_COUNT = n ∧ ∀ i, i < 64 → t.reg (UD_MARK m.die i) = s.reg (UD_MARK m.die i)))
  ∧ (∀ (s : State) (k : Nat) (m : MarkMsg) (j : Job), s.marks[k]? = some m → m.die < 2 →
    (∀ x ∈ s.marks.eraseIdx k, x.core ≠ m.core ∨ x.ord ≠ m.ord) →
    ((s.core m.core).jobs.filter fun j => j.kind = .mark && j.args.head? = some m.ord) = [j] → j.args.getD 1 0 ≠ 1 →
    (∀ g ∈ j.iss.sig, g.loc = true ∨ g.node = s.node) →
    ∃ t, exec (.degradedMark k) s = .next t ∧ t.marks = s.marks.eraseIdx k ∧ (t.core m.core).jobs = (s.core m.core).jobs.filter (fun x => x.ord ≠ j.ord)
      ∧ t.incs = s.incs ++ j.iss.sig.map (fun g => ⟨g.ts, 1, j.iss.epoch, s.node⟩))
  ∧ ∀ (s : State) (d id : Nat) (e : UdEmit), d < 2 → (s.ud d).emits.find? (fun e => e.id = id) = some e → e.reqs = [] → e.held = false →
      ∃ t, exec (.copyEmissionComplete d id) s = .next t ∧ (∀ x ∈ (t.ud d).emits, x.id ≠ id) ∧ t.mem = s.mem
        ∧ (e.failed = false → t.incs = s.incs ++ [⟨e.ts, 1, s.rd (UD_EPOCH d) fUD_EPOCH_EPOCH, s.node⟩] ∧ t.regs = s.regs)
        ∧ t.freeCtr = s.freeCtr ∧ t.cores = s.cores
        ∧ (e.failed = true → t.incs = s.incs ∧ t.on (UD_EVENTS d) fUD_EVENTS_COPY_FAIL = true ∧ (t.ud d).copyFail = true)

/-- How a port trains, comes UP, is isolated and fails. -/
def Obligations.PortsComeUpAndFail : Prop :=
  (∀ (s : State) (p : Nat), s.portHere p = true → s.on (State.fpCtrl p) fFP_CTRL_EN = true → s.on FAB_CTRL fFAB_CTRL_EN = true →
      s.portState p = psDown ∨ s.portState p = psIsolated → 2 ≤ s.pkState → s.pkState ≠ pkRecovery →
      ∃ t, exec (.signalDetected p) s = .next t ∧ t.portState p = psTraining ∧ t.portUp p = false ∧ t.fab = s.fab)
  ∧ (∀ (s : State) (p skew : Nat), s.portHere p = true → s.portState p = psTraining →
      (skewOk skew = true → ∃ t, exec (.trainingComplete p skew true) s = .next t ∧ t.portState p = psTraining ∧ (∀ k, k < 4 → t.slotLane p k = 4 * (p % 4) + k)
        ∧ (∀ k, k < 4 → t.on (State.lane p (4 * (p % 4) + k)) fFL_STATUS_LOCK = true ∧ t.on (State.lane p (4 * (p % 4) + k)) fFL_STATUS_IN_USE = true)
        ∧ (t.port p).rx = [] ∧ (t.port p).queue = [] ∧ (t.port p).rxSeq = 0 ∧ (t.port p).ident = (s.port p).ident
        ∧ t.rd (FP_SKEW (p / 4) (p % 4)) fFP_SKEW_SKEW = skew % 2 ^ 32
        ∧ t.out = s.out ++ [.packet p 0 0 4095 (s.linkPacket p 0x30 [s.node, s.rd FAB_ID fFAB_ID_DOMAIN, s.rd PKG_ID fPKG_ID_DEVID, s.gen, p,
            s.rd (State.fpStatus p) fFP_STATUS_PAIRED, s.rd FAB_ID fFAB_ID_ELIGIBLE, Config.txLat p, Config.rxLat p + 8 * (skew % 256), s.enrolled])])
      ∧ ∀ ok, ok = false ∨ skewOk skew = false →
        ∃ t, exec (.trainingComplete p skew ok) s = .next t ∧ t.portState p = psDown ∧ t.portUp p = false ∧ t.out = s.out)
  ∧ (∀ (s : State) (p : Nat) (id : Ident), s.portHere p = true → s.portState p = psTraining → s.genOf id.node = id.gen →
      (discRefused s p id = false → ∃ t, exec (.disc p id) s = .next t ∧ t.portState p = psUp ∧ t.portUp p = true
        ∧ t.rd (State.fpStatus p) fFP_STATUS_PNODE = id.node % 2 ^ 12 ∧ t.rd (State.fpStatus p) fFP_STATUS_PPORT = id.port % 2 ^ 4
        ∧ t.rd (State.fpStatus p) fFP_STATUS_PGEN = id.gen % 2 ^ 4
        ∧ (t.port p).ident = some id ∧ ((∃ o, (s.port p).ident = some o ∧ o.gen ≠ id.gen) → t.on FAB_EVENTS fFAB_EVENTS_GEN_CHANGE = true)
        ∧ (s.on FAB_CTRL fFAB_CTRL_AUTO = true → s.enrolled = 0 → t.enrolled = 1) ∧ (s.enrolled ≠ 0 → t.enrolled = s.enrolled))
      ∧ (discRefused s p id = true → ∃ t, exec (.disc p id) s = .next t ∧ t.portState p = psIsolated ∧ t.portUp p = false
        ∧ t.on FAB_EVENTS fFAB_EVENTS_PORT_ISOLATED = true ∧ t.enrolled = s.enrolled))
  ∧ ∀ (s : State) (p : Nat), p < 16 →
      let fails := fun (c : Instr) => ∃ t, exec c s = .next t ∧ t.portState p = psDown ∧ t.portUp p = false ∧ t.on FAB_EVENTS fFAB_EVENTS_PORT_DOWN = true
        ∧ t.port p = { PortSt.reset with ident := (s.port p).ident } ∧ t.cores = s.cores ∧ t.mem = s.mem
      (s.portState p ≠ psDown → fails (.portFailure p)) ∧ (s.portState p = psRecover → fails (.switchTimeout p))

/-- Flits are taken in order, a bad or missing one is asked for again, and credits, pauses and replays act on their port. -/
def Obligations.FlitsAndLinkControl : Prop :=
  (∀ (s : State) (p errA errB : Nat) (head body crc : List Nat), let bytes := head ++ body ++ crc; p < 16 → s.portState p ≠ psDown → (s.port p).ctl = [] →
      ((s.port p).replay.map (·.n)).sum + 1 ≤ 2048 →
      let bad := correctable errA = false ∨ correctable errB = false ∨ flitIntact bytes = false
      let outside := flitFt bytes ≠ 0 ∧ flitSeq bytes ≠ (s.port p).rxSeq
      bad ∨ (outside ∧ (s.port p).nakOut = false) →
      ∃ t, exec (.flitReceive p head body crc errA errB) s = .next t
        ∧ t.out = s.out ++ [.linkCtrl p 1 (s.port p).rxSeq (s.port p).txSeq (s.ackOf p)]
        ∧ (t.port p).rxSeq = (s.port p).rxSeq ∧ (t.port p).rx = (s.port p).rx ∧ (t.port p).nakOut = true ∧ t.cores = s.cores ∧ t.mem = s.mem)
  ∧ (∀ (s : State) (p errA errB : Nat) (head body crc : List Nat), let bytes := head ++ body ++ crc; p < 16 → s.portState p = psUp ∨ s.portState p = psRecover →
      correctable errA = true → correctable errB = true → flitIntact bytes = true → flitFt bytes = 1 → flitSeq bytes = (s.port p).rxSeq →
      ∃ t, exec (.flitReceive p head body crc errA errB) s = .next t ∧ (t.port p).rxSeq = ((s.port p).rxSeq + 1) % 4096 ∧ (t.port p).nakOut = false
        ∧ (t.port p).rx = (s.port p).rx ++ (parseBody 1024 ((s.port p).part ++ flitBody bytes)).1.filter (fun q => typeKnown q.typ)
        ∧ (t.port p).part = (parseBody 1024 ((s.port p).part ++ flitBody bytes)).2 ∧ t.cores = s.cores ∧ t.mem = s.mem
        ∧ t.rd (FP_RX_FLITS (p / 4) (p % 4)) fFP_RX_FLITS_COUNT = min (2 ^ 64 - 1) (s.rd (FP_RX_FLITS (p / 4) (p % 4)) fFP_RX_FLITS_COUNT + 1))
  ∧ (∀ (s : State) (p seq : Nat), p < 16 → s.portState p = psUp ∨ s.portState p = psRecover → ∃ t, exec (.linkControlNak p seq) s = .next t
      ∧ (∃ n, t.out = s.out ++ [.resend p (seq % 4096) n]) ∧ (t.port p).retries = (s.port p).retries + 1 ∧ (t.port p).replay = (s.port p).replay
      ∧ t.rd (FP_RETRY (p / 4) (p % 4)) fFP_RETRY_COUNT = min (2 ^ 64 - 1) (s.rd (FP_RETRY (p / 4) (p % 4)) fFP_RETRY_COUNT + 1))
  ∧ (∀ (s : State) (p vc cls n : Nat), s.portState p = psUp ∨ s.portState p = psRecover → vc < 8 → cls < 2 → n < 128 → (s.port p).queue = [] → (s.port p).ctl = [] →
      ∃ t, exec (.credit p vc cls n) s = .next t ∧ sget 0 (2 * vc + cls) (t.port p).used = sget 0 (2 * vc + cls) (s.port p).used - n ∧ t.out = s.out
        ∧ (∀ k, k ≠ 2 * vc + cls → sget 0 k (t.port p).used = sget 0 k (s.port p).used) ∧ t.regs = s.regs)
  ∧ ∀ (s : State) (p seq : Nat), s.portState p = psUp ∨ s.portState p = psRecover →
      (∃ t, exec (.pause p) s = .next t ∧ (t.port p).peerPaused = true ∧ t.regs = s.regs ∧ t.out = s.out)
      ∧ (let ahead := (seq % 4096 + 4096 - (s.port p).rxSeq) % 4096
        (ahead = 0 ∨ 2048 ≤ ahead → ∃ t, exec (.resume ⟨p, seq⟩) s = .next t ∧ (t.port p).peerPaused = false ∧ t.regs = s.regs ∧ t.out = s.out
          ∧ (t.port p).nakOut = decide (2048 ≤ ahead))
        ∧ (0 < ahead → ahead < 2048 → (s.port p).ctl = [] → ((s.port p).replay.map (·.n)).sum + 1 ≤ 2048 →
          ∃ t, exec (.resume ⟨p, seq⟩) s = .next t ∧ (t.port p).peerPaused = false ∧ (t.port p).nakOut = true
            ∧ t.out = s.out ++ [.linkCtrl p 1 (s.port p).rxSeq (s.port p).txSeq (s.ackOf p)]))

/-- A failing lane moves to a free spare in RECOVER, or fails the port. -/
def Obligations.LanesAreSpared : Prop :=
  (∀ (s : State) (die ln ser unc : Nat), die < 4 → ln < 18 → ser < 2 ^ 32 → servedBy s die ln = none → ∃ t, exec (.laneErrorWindow die ln ser unc) s = .next t
      ∧ t.rd (FL_STATUS die ln) fFL_STATUS_SER = ser ∧ t.fab = s.fab ∧ ∀ a, a ≠ FL_STATUS die ln → a ≠ FL_ERR die ln → t.reg a = s.reg a)
  ∧ (∀ (s : State) (die ln ser unc p k : Nat), die < 4 → ln < 18 → servedBy s die ln = some (p, k) → s.portState p = psUp →
      (s.port p).retries ≤ s.rd FAB_THRESH fFAB_THRESH_RETRY_THR → s.rd FAB_THRESH fFAB_THRESH_SER_THR < ser ∨ s.rd FAB_THRESH fFAB_THRESH_UNC_THR < unc →
      (s.spareOf p = none → ∃ t, exec (.laneErrorWindow die ln ser unc) s = .next t ∧ t.portState p = psDown ∧ t.on FAB_EVENTS fFAB_EVENTS_PORT_DOWN = true)
      ∧ ∀ l, s.spareOf p = some l → (s.port p).ctl = [] → ((s.port p).replay.map (·.n)).sum + 2 ≤ 2048 →
          ∃ t, exec (.laneErrorWindow die ln ser unc) s = .next t ∧ t.portState p = psRecover ∧ (t.port p).paused = true ∧ (t.port p).switching = some k
          ∧ t.out = s.out ++ [.linkCtrl p 4 0 (s.port p).txSeq (s.ackOf p), .linkCtrl p 3 (k + 16 * (l - 16)) (((s.port p).txSeq + 1) % 4096) (s.ackOf p)])
  ∧ (∀ (s : State) (die ln ser unc p k : Nat), die < 4 → ln < 18 → servedBy s die ln = some (p, k) → (s.port p).retries ≤ s.rd FAB_THRESH fFAB_THRESH_RETRY_THR →
      ser ≤ s.rd FAB_THRESH fFAB_THRESH_SER_THR → unc ≤ s.rd FAB_THRESH fFAB_THRESH_UNC_THR →
      ∃ t, exec (.laneErrorWindow die ln ser unc) s = .next t ∧ t.portState p = s.portState p ∧ t.out = s.out
        ∧ t.rd (FP_FEC_CORR die (p % 4)) fFP_FEC_CORR_COUNT = min (2 ^ fFP_FEC_CORR_COUNT.width - 1) (s.rd (FP_FEC_CORR die (p % 4)) fFP_FEC_CORR_COUNT + ser))
  ∧ (∀ (s : State) (die ln p k : Nat), die < 4 → ln < 16 → servedBy s die ln = some (p, k) → s.portState p = psUp →
      (∀ j, j < 4 → s.slotLane p j ≠ ln → s.on (FL_STATUS die (s.slotLane p j)) fFL_STATUS_LOCK = true) → (∀ j, j < 4 → j ≠ k → s.slotLane p j ≠ ln) →
      (s.spareOf p = none → ∃ t, exec (.markerLockLoss die ln) s = .next t ∧ t.portState p = psDown)
      ∧ ∀ l, s.spareOf p = some l → ∃ t, exec (.markerLockLoss die ln) s = .next t ∧ t.portState p = psRecover
          ∧ t.on (FL_STATUS die ln) fFL_STATUS_LOCK = false)
  ∧ (∀ (s : State) (p slot l spare : Nat), p < 16 → slot < 4 → s.portState p = psUp → s.spareOf p = some l → spare = s.rd (State.fpStatus p) fFP_STATUS_PPORT % 4 / 2 →
      s.slotLane p slot ≠ l → s.slotLane p slot < 18 → (s.port p).ctl = [] → ((s.port p).replay.map (·.n)).sum + 1 ≤ 2048 →
      ∃ t, exec (.switch p ⟨slot, spare⟩) s = .next t ∧ t.portState p = psUp ∧ t.slotLane p slot = l ∧ t.on FAB_EVENTS fFAB_EVENTS_LANE_SWITCH = true
        ∧ t.on (State.lane p (s.slotLane p slot)) fFL_STATUS_RETIRED = true
        ∧ .linkCtrl p 3 (slot + 16 * (l - 16)) (s.port p).txSeq (s.ackOf p) ∈ t.out)
  ∧ ∀ (s : State) (p slot l spare : Nat), p < 16 → slot < 4 → s.portState p = psRecover → (s.port p).switching = some slot → s.spareOf p = some l →
      s.slotLane p slot ≠ l → s.slotLane p slot < 18 → spare = s.rd (State.fpStatus p) fFP_STATUS_PPORT % 4 / 2 →
      ∃ t, exec (.switch p ⟨slot, spare⟩) s = .next t ∧ t.portState p = psUp ∧ t.portUp p = true ∧ t.slotLane p slot = l
        ∧ (∀ j, j < 4 → j ≠ slot → t.slotLane p j = s.slotLane p j) ∧ t.on (State.lane p (s.slotLane p slot)) fFL_STATUS_RETIRED = true
        ∧ t.on FAB_EVENTS fFAB_EVENTS_LANE_SWITCH = true ∧ (t.port p).paused = false ∧ (t.port p).switching = none

/-- A permitted request is served, a refused one answered PERM, and a packet for another node forwarded. -/
def Obligations.FabricRequestsServed : Prop :=
  (∀ (s : State) (port : Nat) (p : Packet),
    let x := s.takeRx port p
    let q := s.trusted port p
    let may := fun (bit : Nat) => s.holds (if q.trust then 2 else 3) bit
    let no := x.bump FAB_PERM fFAB_PERM_COUNT 1
    (s.Admits port p 1 → (may 16 = true → exec (.fabRd port p) s = .next (x.serveRd q)) ∧ (may 16 = false → exec (.fabRd port p) s = .next (no.reply (no.answerTo q 0x15 6 []))))
    ∧ (s.Admits port p 2 → (may 17 = true → exec (.fabRdp port p) s = .next (x.serveRdp q)) ∧ (may 17 = false → exec (.fabRdp port p) s = .next no))
    ∧ (s.Admits port p 3 → (may 18 = true → exec (.fabWr port p) s = .next (x.serveWr q)) ∧ (may 18 = false → exec (.fabWr port p) s = .next (no.reply (no.answerTo q 0x15 6 []))))
    ∧ (s.Admits port p 4 → (may 19 = true → exec (.fabAt port p) s = .next (x.once q State.serveAt))
      ∧ (may 19 = false → exec (.fabAt port p) s = .next (no.reply (no.answerTo q 0x15 6 []))))
    ∧ (s.Admits port p 5 → (may 20 = true → exec (.fabInc port p) s = .next (x.once q State.serveInc)) ∧ (may 20 = false → exec (.fabInc port p) s =
        .next ((no.bump TS_REFUSED fTS_REFUSED_COUNT 1).reply ((no.bump TS_REFUSED fTS_REFUSED_COUNT 1).answerTo q 0x13 6 [])))))
  ∧ (∀ (s : State) (port : Nat) (p : Packet), s.portState port = psUp → p.dst ≠ s.node → exec (.transitForward port p) s = .next ((s.takeRx port p).forward port p))
  ∧ ∀ s : State, exec .duplicateRecordExpiry s = .next { s with fab := { s.fab with dups := s.fab.dups.filter fun d => decide (s.beat < d.beat + 4000000) } }

/-- A write from the fabric stores its bytes, an increment counts once, and a request of length 0 changes no memory. -/
def Obligations.FabricRequestsDoTheirWork : Prop :=
  (∀ (s : State) (port : Nat) (p : Packet), s.Admits port p 3 → s.holds (if (s.trusted port p).trust then 2 else 3) 18 = true → State.wrRuleOk p = true → 0 < p.len →
      State.hallTier p.addr = 0 → s.pkState ≠ pkHalted → s.StackOpen (State.hallOff p.addr) p.len → s.OutsideDir (State.hallOff p.addr) p.len →
      ∃ t, exec (.fabWr port p) s = .next t ∧ (∀ k, k < p.len → memByte t.mem.stack (State.hallOff p.addr + k) = BitVec.ofNat 8 (p.data.getD k 0))
        ∧ (∀ a, a < State.hallOff p.addr ∨ State.hallOff p.addr + p.len ≤ a → memByte t.mem.stack a = memByte s.mem.stack a)
        ∧ t.mem.peat = s.mem.peat ∧ t.mem.far = s.mem.far ∧ t.cores = s.cores)
  ∧ (∀ (s : State) (port : Nat) (p : Packet), s.Admits port p 1 → s.holds (if (s.trusted port p).trust then 2 else 3) 16 = true →
      ∃ t, exec (.fabRd port p) s = .next t ∧ t.mem.stack = s.mem.stack ∧ t.mem.peat = s.mem.peat ∧ t.mem.far = s.mem.far ∧ t.cores = s.cores
        ∧ (p.len = 0 → t.mem = s.mem))
  ∧ (∀ (s : State) (port : Nat) (p : Packet), s.Admits port p 5 → s.holds (if (s.trusted port p).trust then 2 else 3) 20 = true → p.dup = false →
      let ts := nbitsAt p.addr 63 50
      s.rd (TS_STATE ts) fTS_STATE_EPOCH = nbitsAt p.addr 49 42 →
      ∃ t, exec (.fabInc port p) s = .next t
        ∧ t.rd (TS_COUNT ts) fTS_COUNT_COUNT = (s.rd (TS_COUNT ts) fTS_COUNT_COUNT + nbitsAt p.addr 41 18) % 2 ^ 32
        ∧ (∃ d ∈ t.fab.dups, d.src = p.src ∧ d.sep = p.sep ∧ d.tag = p.tag ∧ d.sgen = p.sgen) ∧ t.mem = s.mem)
  ∧ ∀ (s : State) (port : Nat) (p : Packet) (d : DupRec), s.Admits port p 5 → s.holds (if (s.trusted port p).trust then 2 else 3) 20 = true → p.dup = true →
      s.dupOf p = some d → ∃ t, exec (.fabInc port p) s = .next t ∧ (∀ i, i < 16384 → t.reg (TS_COUNT i) = s.reg (TS_COUNT i)) ∧ t.fab.dups = s.fab.dups
        ∧ t.rd FAB_DUP fFAB_DUP_SUPPRESSED = min (2 ^ fFAB_DUP_SUPPRESSED.width - 1) (s.rd FAB_DUP fFAB_DUP_SUPPRESSED + 1) ∧ t.mem = s.mem

/-- A response ends the request that its SEP and TAG name; any other is discarded as stray. -/
def Obligations.FabricResponses : Prop :=
  let rows := fun (port : Nat) (p : Packet) => [(Instr.fabRdr port p, 0x10), (.fabWack port p, 0x11), (.fabAtr port p, 0x12), (.fabIncack port p, 0x13), (.fabNak port p, 0x15)]
  (∀ (s : State) (port : Nat) (p : Packet) (c : Instr) (typ : Nat) (j : Job), (c, typ) ∈ rows port p → s.Admits port p typ → p.sep < 288 →
    (s.core p.sep).jobs.find? (fun j => j.reqs.any fun q => q.tag = p.tag) = some j → j.kind = .dmov →
    ∃ t, exec c s = .next t ∧ t.mem = s.mem ∧ t.incs = s.incs ∧ (t.core p.sep).mem = (s.core p.sep).mem
      ∧ (∃ x ∈ (t.core p.sep).jobs, x.ord = j.ord ∧ x.reqs = j.reqs.filter (fun q => q.tag ≠ p.tag)
        ∧ x.fail = (if p.status = 0 then j.fail else some (dmStatus p.status))
        ∧ ∀ q, j.reqs.find? (fun q => q.tag = p.tag) = some q →
          x.rx = if q.write = true ∨ p.status ≠ 0 then j.rx else memStore j.rx q.addr (p.data.take q.len))
      ∧ ((t.core p.sep).jobs.map (·.ord)) = (s.core p.sep).jobs.map (·.ord))
  ∧ (∀ (s : State) (port : Nat) (p : Packet) (c : Instr) (typ : Nat), (c, typ) ∈ rows port p → s.Admits port p typ →
    (p.sep < 288 → ∀ j ∈ (s.core p.sep).jobs, ∀ q ∈ j.reqs, q.tag ≠ p.tag) → (288 ≤ p.sep → p.sep < 290 → s.udWaits (p.sep - 288) p.tag = false) →
    (∀ q ∈ s.fab.gone, q.1 ≠ p.sep ∨ q.2.1 ≠ p.tag) →
    ∃ t, exec c s = .next t ∧ t.cores = s.cores ∧ t.ud0 = s.ud0 ∧ t.ud1 = s.ud1 ∧ t.mem = s.mem ∧ t.incs = s.incs
      ∧ t.rd FAB_DUP fFAB_DUP_STRAY = min (2 ^ fFAB_DUP_STRAY.width - 1) (s.rd FAB_DUP fFAB_DUP_STRAY + 1))
  ∧ (∀ (s : State) (port : Nat) (p : Packet) (c : Instr) (typ : Nat) (j : Job), (c, typ) ∈ rows port p → s.Admits port p typ → p.sep < 288 →
    (s.core p.sep).jobs.find? (fun j => j.reqs.any fun q => q.tag = p.tag) = some j → j.kind = .remInc → p.status = 0 → j.word.toNat = 0 →
    ∃ t, exec c s = .next t ∧ (t.core p.sep).jobs = (s.core p.sep).jobs.filter (fun x => x.ord ≠ j.ord) ∧ t.mem = s.mem ∧ t.incs = s.incs)
  ∧ (∀ (s : State) (port : Nat) (p : Packet) (c : Instr) (typ : Nat), (c, typ) ∈ rows port p → s.Admits port p typ → 288 ≤ p.sep → p.sep < 290 →
    s.udWaits (p.sep - 288) p.tag = true → exec c s = .next ((s.takeRx port p).udReply (p.sep - 288) p.tag p.status p.data))
  ∧ ∀ (s : State) (port : Nat) (p : Packet), s.Admits port p 0x14 →
    let mine := p.sep < 288 ∧ ∃ x ∈ (s.core p.sep).probes, p.tag ∈ x.tags
    (mine → ∃ t, exec (.fabPack port p) s = .next t ∧ t.mem = s.mem ∧ t.regs = (s.takeRx port p).regs
      ∧ (t.core p.sep).probes = (s.core p.sep).probes.map fun x => { x with tags := x.tags.erase p.tag })
    ∧ (¬mine → exec (.fabPack port p) s = .next ((s.takeRx port p).bump FAB_DUP fFAB_DUP_STRAY 1))

/-- A control message in order is applied by the rule of its type and code. -/
def Obligations.EachMessageDoesItsPart : Prop :=
  ∀ (s : State) (port src cseq : Nat) (trust : Bool) (ws : List Nat) (st : RmSt) (img : Option SchedImage), src < 4096 → cseq < 2 ^ 16 →
    let m : Nat → Option RmSt → Option SchedImage → CtrlMsg := fun typ a b => ⟨port, src, cseq, trust, typ, ws, a, b⟩
    let types : List (Instr × Nat × (State → CtrlMsg → State)) :=
      [(.enrolGrant port src cseq trust ws, 0x32, State.gotGrant), (.enrolDeny port src cseq trust ws, 0x33, State.gotDeny),
        (.ready port src cseq trust ws, 0x34, State.gotReady), (.unready port src cseq trust ws, 0x35, State.gotUnready),
        (.work port src cseq trust ws, 0x36, State.gotWork), (.leave port src cseq trust ws, 0x37, State.gotLeaveMsg),
        (.leaveAck port src cseq trust ws, 0x38, State.gotLeaveAckMsg), (.heartbeat port src cseq trust ws, 0x39, State.gotHeartbeat),
        (.routeSet port src cseq trust ws, 0x3A, State.gotRouteSet)]
    let codes : List (Instr × Nat × (State → CtrlMsg → State)) :=
      [(.hbAck port src cseq trust ws, 1, fun s _ => s.gotHbAck), (.tickChange port src cseq trust ws, 2, State.gotTickChange),
        (.epochClose port src cseq trust ws, 4, State.gotClose), (.epochOpen port src cseq trust ws, 5, State.gotOpen),
        (.stepDecide port src cseq trust ws, 6, State.gotDecision), (.normTotal port src cseq trust ws, 7, State.gotNormTotal),
        (.nodeGen port src cseq trust ws, 8, State.gotNodeGen), (.nodeRemoved port src cseq trust ws, 9, State.gotRemoved)]
    let kinds : List (Instr × Nat) :=
      [(.healthStepReport port src cseq trust ws, 1), (.healthSlip port src cseq trust ws, 2), (.healthBeatLost port src cseq trust ws, 3),
        (.healthLateContrib port src cseq trust ws, 4), (.healthMemFence port src cseq trust ws, 5), (.healthPortDown port src cseq trust ws, 6),
        (.healthTorn port src cseq trust ws, 7), (.healthNorm port src cseq trust ws, 8), (.healthPrepared port src cseq trust ws, 9),
        (.healthLoaded port src cseq trust ws, 10), (.healthSyncAck port src cseq trust ws, 11), (.healthCooling port src cseq trust ws, 12)]
    let does : Instr → CtrlMsg → (State → State) → Prop := fun c m f =>
      s.Hears m → s.InOrder m → exec c s = .next ((s.unbuffered m).rmSettle (f (((s.unbuffered m).expects m).hearsFrom src)))
    let noted : State → State := fun x => (x.hears src).modRm fun r => { r with term := max r.term (msgTerm ws), rmTerm := if r.master then r.rmTerm else msgTerm ws }
    (∀ r ∈ types, does r.1 (m r.2.1 none none) fun x => r.2.2 x (m r.2.1 none none))
    ∧ (∀ r ∈ codes, msgCode ws = r.2.1 → s.rm.term ≤ msgTerm ws → 2 ≤ s.enrolled → does r.1 (m 0x3B none none) fun x => r.2.2 (noted x) (m 0x3B none none))
    ∧ (∀ r ∈ kinds, msgCode ws = r.2 → does r.1 (m 0x3C none none) fun x => x.gotHealth (m 0x3C none none))
    ∧ (msgCode ws = 3 → s.rm.term ≤ msgTerm ws → 2 ≤ s.enrolled →
        does (.epochPrepare port src cseq trust ws img) (m 0x3B none img) fun x => (noted x).gotPrepare (m 0x3B none img))
    ∧ does (.rmSync port src cseq trust ws st) (m 0x3E (some st) none) (fun x => x.gotSync (m 0x3E (some st) none))
    ∧ (s.Hears (m 0x31 none none) → exec (.enrolReq port src cseq trust ws) s =
        .next ((s.unbuffered (m 0x31 none none)).rmSettle (((s.unbuffered (m 0x31 none none)).hearsFrom src).gotEnrolReq (m 0x31 none none))))
    ∧ (s.Hears (m 0x3D none none) → exec (.rmClaim port src cseq trust ws) s =
        .next ((s.unbuffered (m 0x3D none none)).rmSettle (((s.unbuffered (m 0x3D none none)).hearsFrom src).gotClaim (m 0x3D none none))))

/-- A message applied already changes nothing, an early one is held, a forbidden or old one is only counted. -/
def Obligations.MessagesOutOfOrderOrForbidden : Prop :=
  ∀ (s : State) (port src cseq : Nat) (trust : Bool) (ws : List Nat), src < 4096 → cseq < 2 ^ 16 → port < 16 → s.rm.master = false →
    let rows : List (Instr × Nat) :=
      [(.enrolGrant port src cseq trust ws, 0x32), (.enrolDeny port src cseq trust ws, 0x33), (.ready port src cseq trust ws, 0x34),
        (.unready port src cseq trust ws, 0x35), (.work port src cseq trust ws, 0x36), (.leave port src cseq trust ws, 0x37),
        (.leaveAck port src cseq trust ws, 0x38), (.heartbeat port src cseq trust ws, 0x39), (.routeSet port src cseq trust ws, 0x3A)]
    ∀ r ∈ rows,
      let m : CtrlMsg := ⟨port, src, cseq, trust, r.2, ws, none, none⟩
      let ahead := (cseq + 2 ^ 16 + 1 - sget 0 src s.fab.next) % 2 ^ 16
      (s.Hears m → sget 0 src s.fab.next ≠ 0 → 2 ^ 15 ≤ ahead → exec r.1 s = .next (s.unbuffered m))
      ∧ (s.Hears m → sget 0 src s.fab.next ≠ 0 → 0 < ahead → ahead < 2 ^ 15 → (∃ x ∈ s.fab.held, x.src = src ∧ x.cseq = cseq) →
          exec r.1 s = .next (s.unbuffered m))
      ∧ (s.Hears m → sget 0 src s.fab.next ≠ 0 → 0 < ahead → ahead < 2 ^ 15 → (∀ x ∈ s.fab.held, x.src ≠ src ∨ x.cseq ≠ cseq) →
          ∃ t, exec r.1 s = .next t ∧ t.fab.held = s.fab.held ++ [m] ∧ t.fab.next = s.fab.next ∧ t.rm = s.rm ∧ t.cores = s.cores ∧ t.enrolled = s.enrolled)
      ∧ (s.portState port = psUp → s.firmware = true → s.enrolled ≠ 0 → s.ctrlOld m = false → s.ctrlMay m = false →
          ∃ t, exec r.1 s = .next t ∧ t.rd FAB_PERM fFAB_PERM_COUNT = min (2 ^ fFAB_PERM_COUNT.width - 1) (s.rd FAB_PERM fFAB_PERM_COUNT + 1)
            ∧ t.fab.held = s.fab.held ∧ t.fab.next = s.fab.next ∧ t.rm = s.rm ∧ t.cores = s.cores ∧ t.enrolled = s.enrolled)
      ∧ (s.portState port = psUp → s.ctrlOld m = true →
          ∃ t, exec r.1 s = .next t ∧ t.rd FAB_GEN_DISC fFAB_GEN_DISC_COUNT = min (2 ^ 64 - 1) (s.rd FAB_GEN_DISC fFAB_GEN_DISC_COUNT + 1)
            ∧ t.on PKG_EVENTS fPKG_EVENTS_GEN_DISC = true ∧ t.fab.held = s.fab.held ∧ t.fab.next = s.fab.next ∧ t.rm = s.rm ∧ t.cores = s.cores
            ∧ t.enrolled = s.enrolled)

/-- What enrolment, work, leaving and tick changes do to a package that is not the Ringmaster. -/
def Obligations.EnrolmentFollowsMessages : Prop :=
  ∀ (s : State) (port src cseq : Nat) (trust : Bool) (ws : List Nat), src < 4096 → cseq < 2 ^ 16 → s.rm.master = false →
    let m : Nat → CtrlMsg := fun typ => ⟨port, src, cseq, trust, typ, ws, none, none⟩
    let gives : Instr → Nat → (State → Prop) → Prop := fun c typ p => s.Hears (m typ) → s.InOrder (m typ) → ∃ t, exec c s = .next t ∧ p t
    (s.enrolled = 1 → gives (.enrolGrant port src cseq trust ws) 0x32 fun t => t.enrolled = 2 ∧ t.on FAB_ENROL fFAB_ENROL_RM_VALID = true
      ∧ t.rd FAB_ENROL fFAB_ENROL_RM = ws.getD 2 0 % 4096 ∧ t.rd FAB_ENROL fFAB_ENROL_DEPTH = ws.getD 1 0 % 8 ∧ t.on FAB_EVENTS fFAB_EVENTS_ENROLLED = true)
    ∧ (s.enrolled = 1 → ws.getD 0 0 = 1 ∨ ws.getD 0 0 = 2 → gives (.enrolDeny port src cseq trust ws) 0x33 fun t =>
        t.enrolled = 0 ∧ t.rd FAB_ENROL fFAB_ENROL_DENY = ws.getD 0 0 ∧ t.on FAB_EVENTS fFAB_EVENTS_ENROL_DENIED = true)
    ∧ (s.enrolled = 1 → 3 ≤ ws.getD 0 0 → ws.getD 0 0 < 8 → gives (.enrolDeny port src cseq trust ws) 0x33 fun t =>
        t.enrolled = 1 ∧ t.rd FAB_ENROL fFAB_ENROL_DENY = ws.getD 0 0)
    ∧ (s.enrolled = 2 → s.on TIME_STATUS fTIME_STATUS_ACQ = true → gives (.work port src cseq trust ws) 0x36 fun t =>
        t.enrolled = 3 ∧ t.pkState = pkReady ∧ t.rm.epoch = ws.getD 0 0 ∧ t.on FAB_EVENTS fFAB_EVENTS_WORKING = true)
    ∧ (s.enrolled = 2 ∨ s.enrolled = 3 → gives (.leave port src cseq trust ws) 0x37 fun t => t.enrolled = 4)
    ∧ (s.enrolled = 4 → gives (.leaveAck port src cseq trust ws) 0x38 fun t => t.enrolled = 0 ∧ t.on FAB_ENROL fFAB_ENROL_RM_VALID = false)
    ∧ (2 ≤ s.enrolled → msgCode ws = 9 → msgNode ws = s.node → s.rm.term ≤ msgTerm ws → gives (.nodeRemoved port src cseq trust ws) 0x3B fun t => t.enrolled = 0)
    ∧ (2 ≤ s.enrolled → msgCode ws = 2 → s.rm.term ≤ msgTerm ws → s.on TIME_SEG_LEN fTIME_SEG_LEN_SEQV = false → s.on TIME_PEND_TICK fTIME_PEND_TICK_VALID = false →
        2000 ≤ msgArg ws 3 → msgArg ws 3 ≤ 262143 → s.rd TIME_SEG_LEN fTIME_SEG_LEN_PLANNED ≤ msgArg ws 3 → s.beat < msgArg ws 2 % 2 ^ 64 →
        gives (.tickChange port src cseq trust ws) 0x3B fun t => t.on TIME_PEND_TICK fTIME_PEND_TICK_VALID = true ∧ t.on TIME_STATUS fTIME_STATUS_PEND = true
          ∧ t.rd TIME_PEND_TICK fTIME_PEND_TICK_TICK = msgArg ws 1 % 2 ^ 48 ∧ t.rd TIME_PEND_BEAT fTIME_PEND_BEAT_BEAT = msgArg ws 2 % 2 ^ 64
          ∧ t.rd TIME_PEND_LEN fTIME_PEND_LEN_LEN = msgArg ws 3 ∧ t.rd TIME_PEND_LEN fTIME_PEND_LEN_SEQ = msgArg ws 0 % 256
          ∧ t.reg TIME_SEG_LEN = s.reg TIME_SEG_LEN)

/-- What the timers of enrolment, heartbeats, claims, held messages and stale counts do. -/
def Obligations.TimersOfAPackage : Prop :=
  let leaves : State → Nat → Packet → Prop := fun t p k => (∃ pad seq ack, .packet p pad seq ack k ∈ t.out) ∨ k ∈ (t.port p).queue
  (∀ s : State, s.firmware = true → s.enrolled = 1 → ∃ t, exec .enrolReqTimer s = .next t ∧ t.enrolled = 1 ∧ t.rm = s.rm ∧ t.cores = s.cores ∧ t.mem = s.mem
      ∧ ∀ p, s.portUp p = true → leaves t p (s.linkPacket p 0x31 (s.enrolWords p)))
  ∧ (∀ s : State, s.firmware = true → s.enrolled = 4 → ∃ t, exec .leaveTimeout s = .next t ∧ t.enrolled = 0 ∧ t.on FAB_EVENTS fFAB_EVENTS_DETACHED = true)
  ∧ (∀ s : State, s.firmware = true → s.enrolled ≠ 0 → s.anyPortUp = false → ∃ t, exec .noPortUpTimeout s = .next t ∧ t.enrolled = 0
      ∧ t.rm.master = false ∧ t.on FAB_EVENTS fFAB_EVENTS_DETACHED = true)
  ∧ (∀ s : State, s.firmware = true → s.enrolled = 2 ∨ s.enrolled = 3 → s.rm.master = false →
      exec .heartbeatTimer s = .next (s.toRm 0x39 [s.node])
      ∧ ∀ c, s.longAgo s.rm.hbAck (50 * ms) = true → s.rm.best = some c → ∃ t, exec .hbAckLoss s = .next t ∧ t.enrolled = s.enrolled
          ∧ t.on FAB_ENROL fFAB_ENROL_RM_VALID = true ∧ t.rd FAB_ENROL fFAB_ENROL_RM = c.2 % 4096 ∧ t.cores = s.cores)
  ∧ (∀ s : State, s.firmware = true → s.on FAB_ID fFAB_ID_ELIGIBLE = true → 1 ≤ s.enrolled → s.enrolled ≤ 3 → s.anyPortUp = true → s.rm.master = false →
      s.rm.claim = none → s.longAgo s.rm.heardRm (200 * ms) = true → s.longAgo s.rm.heardClaim (200 * ms) = true →
      ∃ t, exec .claimTimer s = .next t ∧ t.rm.term = s.rm.term + 1 ∧ t.rm.best = some (s.rm.term + 1, s.node) ∧ t.rm.claim = some s.beat ∧ t.rm.master = false
        ∧ t.enrolled = s.enrolled ∧ ∀ p, s.portUp p = true → leaves t p (s.linkPacket p 0x3D [s.node, s.rm.term + 1]))
  ∧ (∀ s : State, s.firmware = true → s.rm.claim ≠ none → s.longAgo s.rm.claim (100 * ms) = true → s.rm.best = some (s.rm.term, s.node) →
      ∃ t, exec .claimSuccess s = .next t ∧ t.rm.master = true ∧ t.rm.claim = none ∧ t.tableNodes = [s.node] ∧ t.rd FAB_ENROL fFAB_ENROL_RM = s.node
        ∧ (s.on TIME_STATUS fTIME_STATUS_ACQ = true → t.enrolled = 3 ∧ t.on TIME_STATUS fTIME_STATUS_ROOT = true ∧ t.rd TIME_SERVO fTIME_SERVO_RATE = 0)
        ∧ (s.on TIME_STATUS fTIME_STATUS_ACQ = false → t.enrolled = 2 ∧ t.time.originWait = true))
  ∧ (∀ (s : State) (m : CtrlMsg), s.firmware = true → 1 ≤ s.enrolled → s.fab.held = [m] →
      let x := s.modFab fun f => { f with held := [], next := sput 0 m.src ((m.cseq + 1) % 2 ^ 16 + 1) (sput 0 m.src (m.cseq + 1) f.next) }
      exec (.cseqHoldExpiry m.src) s = .next (s.rmSettle (x.applyCtrl m)))
  ∧ ∀ s : State, s.firmware = true → s.rm.rearm = none →
      (s.rd TS_STALE fTS_STALE_COUNT ≠ 0 → exec .staleRead s = .next ((List.range (s.rd TS_STALE fTS_STALE_COUNT)).foldl (fun x _ => x.health 4
        [s.lastStep, s.rd TS_STALE_LAST fTS_STALE_LAST_NODE, s.rd TS_STALE_LAST fTS_STALE_LAST_TS, s.rd TS_STALE_LAST fTS_STALE_LAST_STAMP])
        ((s.setReg TS_STALE 0).setReg TS_STALE_LAST 0)))
      ∧ (s.rd TS_STALE fTS_STALE_COUNT = 0 → exec .staleRead s = .next s)

/-- Quorum, takeover, step timeouts, tick shrinking, missed heartbeats and syncs of the Ringmaster. -/
def Obligations.RingmasterTimers : Prop :=
  (∀ s : State, s.firmware = true → s.rm.master = true → ∃ t, exec .quorumCheck s = .next t ∧ t.rm.suspended = !s.quorum ∧ t.rm.master = true ∧ t.cores = s.cores)
  ∧ (∀ s : State, s.firmware = true → s.rm.master = false → s.enrolled = 3 → s.rm.synced ≠ none → s.longAgo s.rm.synced (30 * ms) = true → s.anyPortUp = true →
      s.on FAB_ENROL fFAB_ENROL_SB_VALID = true → s.rd FAB_ENROL fFAB_ENROL_SB = s.node →
      ∃ t, exec .standbyTakeover s = .next t ∧ t.rm.master = true ∧ t.rm.term = s.rm.term + 1 ∧ t.on TIME_STATUS fTIME_STATUS_ROOT = true
        ∧ t.on TIME_STATUS fTIME_STATUS_ACQ = true ∧ t.rd FAB_ENROL fFAB_ENROL_RM = s.node ∧ t.beat = s.beat ∧ t.rm.base = none)
  ∧ (∀ (s : State) (n b : Nat), s.firmware = true → s.rmActs = true → s.rm.firsts = [(n, b)] → b + s.rm.stepTmo * ms ≤ s.beat → s.rm.reshard = none → s.allReported n = false →
      ∃ t, exec .stepTmo s = .next t ∧ t.rm.decisions = ((n, 3) :: s.rm.decisions).take 16 ∧ t.rm.firsts = [] ∧ t.rm.step = n ∧ t.cores = s.cores)
  ∧ (∀ (s : State) (n b : Nat), s.firmware = true → s.rmActs = true → s.rm.firsts = [(n, b)] → b + s.rm.stepTmo * ms ≤ s.beat → s.allReported n = true →
      exec .stepTmo s = .next (s.rmSettle (s.tryDecide n)))
  ∧ (∀ s : State, s.firmware = true → s.rmActs = true → s.sched.planned ≠ 0 → s.tickPending = false → s.rm.slipFrom + 4096 ≤ s.rd TIME_TICK fTIME_TICK_TICK →
      ∃ t, exec .tickShrink s = .next t ∧ ∃ k e b, t.rm.tickSent = some [k, e, b, max s.sched.planned (95 * s.rd TIME_SEG_LEN fTIME_SEG_LEN_LEN / 10000 * 100)]
        ∧ e = s.rd TIME_TICK fTIME_TICK_TICK + 8 ∧ b = s.tickStart e)
  ∧ (∀ (s : State) (m : Member), s.firmware = true → s.rmActs = true → memberOf s.rm.table m.node = some m → m.heard + 30 * ms ≤ s.beat → m.node ≠ s.node →
      ∃ t, exec (.heartbeatMiss m.node) s = .next t ∧ memberOf t.rm.table m.node = none ∧ t.rm.master = true)
  ∧ ∀ s : State, s.firmware = true → exec .rmSyncTimer s = .next s.appoint.sync

/-- What reports, heartbeats and readiness do at the Ringmaster. -/
def Obligations.RingmasterHears : Prop :=
  ∀ (s : State) (port src cseq : Nat) (trust : Bool) (ws : List Nat), src < 4096 → cseq < 2 ^ 16 → s.rmActs = true →
    let m : Nat → CtrlMsg := fun typ => ⟨port, src, cseq, trust, typ, ws, none, none⟩
    let gives : Instr → Nat → (State → Prop) → Prop := fun c typ p => s.Hears (m typ) → s.InOrder (m typ) → ∃ t, exec c s = .next t ∧ p t
    (∀ x, memberOf s.rm.table src = some x → gives (.heartbeat port src cseq trust ws) 0x39 fun t =>
        ∃ y, memberOf t.rm.table src = some y ∧ y.heard = s.beat ∧ y.ready = x.ready ∧ y.working = x.working)
    ∧ (msgCode ws = 1 → s.rm.layout = [src] → s.rm.reshard = none → s.rm.firsts = [] → s.rm.reports = [] → gives (.healthStepReport port src cseq trust ws) 0x3C fun t =>
        t.rm.decisions = ((msgArg ws 0, if msgArg ws 1 % 4 ≠ 0 then 2 else 1) :: s.rm.decisions).take 16)
    ∧ (∀ r, msgCode ws = 10 → s.rm.reshard = some r → r.closed = true → r.epoch = msgArg ws 0 → (∀ p ∈ r.layout, p = src ∨ p ∈ r.loaded) →
        gives (.healthLoaded port src cseq trust ws) 0x3C fun t => t.rm.epoch = r.epoch ∧ t.rm.layout = r.layout ∧ t.rm.reshard = none)
    ∧ (∀ r, msgCode ws = 9 → s.rm.reshard = some r → r.closed = false → r.epoch = msgArg ws 0 → src ∉ r.prepared → (∃ p ∈ r.layout, p ≠ src ∧ p ∉ r.prepared) →
        (∀ x ∈ s.rm.firsts, x.1 + 1 ≠ r.fence) →
        gives (.healthPrepared port src cseq trust ws) 0x3C fun t => t.rm.reshard = some { r with prepared := r.prepared ++ [src] } ∧ t.rm.epoch = s.rm.epoch)
    ∧ (msgCode ws = 4 → s.rm.decisions.find? (fun x => x.1 = msgArg ws 0) = some (msgArg ws 0, 1) → gives (.healthLateContrib port src cseq trust ws) 0x3C fun t =>
        t.on HIF_EVENTS fHIF_EVENTS_RM_REPORT = true ∧ t.rm.events = Nat.lor s.rm.events 4)
    ∧ (∀ b, msgCode ws = 11 → s.rm.standby = some src → s.rm.unacked.find? (fun x => x.1 = msgArg ws 0) = some b →
        gives (.healthSyncAck port src cseq trust ws) 0x3C fun t => t.rm.base = some b.2)
    ∧ (msgCode ws = 2 → s.rm.slips = [] → 1 < s.rm.slipUp → s.rd TIME_TICK fTIME_TICK_TICK < msgArg ws 0 + 64 →
        gives (.healthSlip port src cseq trust ws) 0x3C fun t => t.rm.slips = [msgArg ws 0] ∧ t.rm.tickSent = s.rm.tickSent)
    ∧ ∀ c, c = .healthBeatLost port src cseq trust ws ∧ msgCode ws = 3 ∨ c = .healthMemFence port src cseq trust ws ∧ msgCode ws = 5
        ∨ c = .healthTorn port src cseq trust ws ∧ msgCode ws = 7 ∨ c = .healthCooling port src cseq trust ws ∧ msgCode ws = 12 →
        gives c 0x3C fun t => t.rm.log.getLast? = some (msgCode ws, src, ws.drop 2)
          ∧ t.rm.table.map (fun x => { x with direct := none }) = s.rm.table.map (fun x => { x with direct := none }) ∧ t.cores = s.cores

/-- At 85 °C or more a stack refreshes at double rate and raises TEMP_HIGH; below 80 °C the normal rate is back. -/
def Obligations.StackAbove85RefreshesTwice : Prop :=
  ∀ (s : State) (site temp : Nat), site < 10 → s.siteState site ≠ 0 →
    ∃ t, exec (.stackTemperatureRead site temp) s = .next t
      ∧ (85 ≤ temp → site ∈ t.mem.hot ∧ t.rd (MEM_EVENTS site) fMEM_EVENTS_TEMP_HIGH = 1)
      ∧ (temp < 80 → site ∉ t.mem.hot)
      ∧ (80 ≤ temp → temp < 85 → t.mem.hot = s.mem.hot)
      ∧ ∀ x, x ≠ site → (x ∈ t.mem.hot ↔ x ∈ s.mem.hot)

/-- The budget in force is the least of its limits, at least 350 W; a run of the controller records what it measures. -/
def Obligations.BudgetsAndThePowerController : Prop :=
  (∀ (s : State) (w : Nat), s.pwr.bpmNext = some w →
    ∃ t, exec .budgetTakesEffect s = .next t ∧ t.pwr.bpm = min s.ceiling (max 350 w) ∧ t.pwr.bpmNext = none
      ∧ t.rd PWR_LIMITS fPWR_LIMITS_EFF = max 350 (min (min (min (min s.ceiling t.pwr.bpm) (s.rd PWR_BSTEP fPWR_BSTEP_LEVEL))
          (s.rd PWR_LIMITS fPWR_LIMITS_COOL)) (s.rd PWR_LIMITS fPWR_LIMITS_THERM))
      ∧ t.rd PWR_BSTEP fPWR_BSTEP_LEVEL = s.rd PWR_BSTEP fPWR_BSTEP_LEVEL)
  ∧ (∀ (s : State) (pins : Nat),
      let c := pins % 8
      let level := (s.reg (if c < 4 then PWR_BSTEP_LVL_LO else PWR_BSTEP_LVL_HI)).toNat / 2 ^ (16 * (c % 4)) % 2 ^ 16
      (s.pwr.pins = c → ∃ t, exec (.budgetStepSample pins) s = .next t ∧ t.rd PWR_BSTEP fPWR_BSTEP_CODE = c
        ∧ t.rd PWR_BSTEP fPWR_BSTEP_LEVEL = min s.ceiling (max 350 level) ∧ t.rd PWR_LIMITS fPWR_LIMITS_EFF = t.effBudget)
      ∧ (s.pwr.pins ≠ c → exec (.budgetStepSample pins) s = .next (s.modPwr fun p => { p with pins := c })))
  ∧ (∀ s : State,
      let th := s.rd PWR_LIMITS fPWR_LIMITS_THERM
      let stack := s.hottestStack.1
      ∃ t, exec .thermalLimitUpdate s = .next t
        ∧ (176 ≤ s.hottest ∨ 90 ≤ stack → t.rd PWR_LIMITS fPWR_LIMITS_THERM = max 350 (th - (s.ceiling * 2 + 99) / 100))
        ∧ (s.hottest < 172 → stack < 88 → t.rd PWR_LIMITS fPWR_LIMITS_THERM = min s.ceiling (th + (s.ceiling * 5 + 999) / 1000))
        ∧ (172 ≤ s.hottest ∨ 88 ≤ stack → s.hottest < 176 → stack < 90 → t.rd PWR_LIMITS fPWR_LIMITS_THERM = th)
        ∧ (t.rd PWR_WARN fPWR_WARN_WARN / 2 ^ 6 % 2 = 1 ↔ t.rd PWR_LIMITS fPWR_LIMITS_THERM < s.ceiling)
        ∧ t.rd PWR_LIMITS fPWR_LIMITS_EFF = t.effBudget)
  ∧ ∀ (s : State) (avg fixed : Nat) (zones : List Nat), s.firmware = true → avg < 65536000 → (∀ h ∈ s.pwr.held, h.zone < 12) →
      (∀ z ∈ zones, z < 65536000) →
      ∃ t, exec (.powerControllerRun avg fixed zones) s = .next t
        ∧ t.rd PWR_POWER fPWR_POWER_P1US = avg / 1000 ∧ t.rd PWR_POWER fPWR_POWER_PEAK = max (avg / 1000) (s.rd PWR_POWER fPWR_POWER_PEAK)
        ∧ (∀ z, z < 12 → t.rd (PWR_ZPOWER z) fPWR_ZPOWER_P1US = zones.getD z 0 / 1000)
        ∧ t.rd PWR_LIMITS fPWR_LIMITS_CEILCODE = s.ceilCode ∧ t.rd TIME_FREQ fTIME_FREQ_CODE = s.rd TIME_FREQ fTIME_FREQ_CODE
        ∧ (s.rd PWR_STATUS fPWR_STATUS_STATE = 3 → t.rd PWR_STATUS fPWR_STATUS_DUTY = s.rd PWR_STATUS fPWR_STATUS_DUTY)
        ∧ (s.rd PWR_STATUS fPWR_STATUS_STATE < 2 →
            t.pwr.run = (if s.rd PWR_LIMITS fPWR_LIMITS_EFF * 1000 < avg then s.pwr.run + 1 else 0)
            ∧ (t.rd PWR_WARN fPWR_WARN_WARN / 2 ^ 14 % 2 = 1 ↔ 20 < t.pwr.run))

/-- Hot spots, trips, the clock stop, the way out of minimum power, and what silence of the tray assumes. -/
def Obligations.TemperaturesCoolantAndMinimumPower : Prop :=
  (∀ (s : State) (readings : List Int) (h : Nat), h < 48 → s.on (PWR_HS h) fPWR_HS_ABSENT = false → s.on (PWR_HS h) fPWR_HS_FAILA = false →
    s.on (PWR_HS h) fPWR_HS_FAILB = false →
    let a := readings.getD (2 * h) 0
    let b := readings.getD (2 * h + 1) 0
    a ≤ 300 → b ≤ 300 → -40 ≤ a → -40 ≤ b →
    (s.pwr.sampled = true → (a - toInt 10 (s.rd (PWR_HS h) fPWR_HS_SA)).natAbs ≤ 20 ∧ (b - toInt 10 (s.rd (PWR_HS h) fPWR_HS_SB)).natAbs ≤ 20) →
    ∃ t, exec (.sensorSample readings) s = .next t ∧ toInt 10 (t.rd (PWR_HS h) fPWR_HS_VAL) = max a b
      ∧ (t.on (PWR_HS h) fPWR_HS_DISAGREE = true ↔ 8 < (a - b).natAbs) ∧ t.on (PWR_HS h) fPWR_HS_FAILA = false ∧ t.on (PWR_HS h) fPWR_HS_FAILB = false
      ∧ max a b ≤ t.hottest ∧ (190 ≤ max a b → t.hasCause mcTrip = true ∧ 2 ≤ t.rd PWR_STATUS fPWR_STATUS_STATE))
  ∧ (∀ (s : State) (readings : List Int), (∀ h ∈ State.computeSpots, s.pairFailed h = true) →
      ∃ t, exec (.sensorSample readings) s = .next t ∧ t.hasCause mcSensors = true ∧ 2 ≤ t.rd PWR_STATUS fPWR_STATUS_STATE)
  ∧ (∀ (s : State) (site temp : Nat), site < 10 → s.siteState site ≠ 0 → 100 ≤ temp →
      ∃ t, exec (.stackTemperatureRead site temp) s = .next t ∧ t.hasCause mcTrip = true ∧ 2 ≤ t.rd PWR_STATUS fPWR_STATUS_STATE
        ∧ t.rd (MEM_TEMP site) fMEM_TEMP_TEMP = min 255 temp)
  ∧ (∀ (s : State) (since : Nat), s.rd PWR_STATUS fPWR_STATUS_STATE = 3 → s.pwr.stopOk = some since → since + 100 * ms ≤ s.beat →
      (s.hasCause mcAbrupt = false → s.hasCause mcFlowCrit = false → s.hasCause mcInletHigh = false →
        s.on PWR_CTRL fPWR_CTRL_CSTOP_LATCH = false ∨ s.pwr.resume = true →
        ∃ t, exec .clockStopEnd s = .next t ∧ t.rd PWR_STATUS fPWR_STATUS_STATE = 2 ∧ t.rd PWR_STATUS fPWR_STATUS_DUTY = (if s.pkState = pkHalted then 0 else 1) ∧ t.pwr.resume = false
          ∧ t.rd PWR_EVENTS fPWR_EVENTS_RESUME = 1 ∧ t.rd PWR_WARN fPWR_WARN_WARN / 2 ^ 8 % 2 = 0)
      ∧ (s.hasCause mcAbrupt = true ∨ s.hasCause mcFlowCrit = true ∨ s.hasCause mcInletHigh = true
          ∨ s.on PWR_CTRL fPWR_CTRL_CSTOP_LATCH = true ∧ s.pwr.resume = false → exec .clockStopEnd s = .next s))
  ∧ (∀ s : State, s.rd PWR_STATUS fPWR_STATUS_STATE = 2 → s.rd PWR_STATUS fPWR_STATUS_MINCAUSE = 0 →
      ∃ t, exec .minimumPowerExit s = .next t ∧ t.rd PWR_STATUS fPWR_STATUS_STATE = 1 ∧ t.rd PWR_LIMITS fPWR_LIMITS_THERM = 350
        ∧ t.rd PWR_LIMITS fPWR_LIMITS_EFF = 350 ∧ t.rd PWR_EVENTS fPWR_EVENTS_MINPWR_EXIT = 1)
  ∧ (∀ s : State, s.hasCause mcForced = true → s.pwr.forced = true →
      ∃ t, exec .minimumPowerExit s = .next t ∧ t.rd PWR_STATUS fPWR_STATUS_STATE = s.rd PWR_STATUS fPWR_STATUS_STATE ∧ t.hasCause mcForced = true)
  ∧ ∀ (s : State) (r : Nat × Int × Nat) (l : List (Nat × Int × Nat)), s.pwr.reports = r :: l →
      (r.1 + 500 * ms < s.beat → ∃ t, exec .traySilence s = .next t ∧ t.rd PWR_STATUS fPWR_STATUS_ASSUMED = 1
        ∧ t.rd PWR_COOL fPWR_COOL_INLET = 720 ∧ t.rd PWR_COOL fPWR_COOL_OUTLET = 720 ∧ t.rd PWR_COOL fPWR_COOL_FLOW = 120
        ∧ t.rd PWR_LIMITS fPWR_LIMITS_COOL = s.ceiling * 120 / 180 ∧ t.rd PWR_WARN fPWR_WARN_WARN / 2 ^ 3 % 2 = 1)
      ∧ (s.beat ≤ r.1 + 500 * ms → exec .traySilence s = .next s)

/-- Hints are held up to eight a zone, margins follow droops, energy is attributed each millisecond, cycles are counted and saved. -/
def Obligations.HintsMarginsEnergyAndWear : Prop :=
  (∀ (s : State) (k : Nat) (h : HintMsg), s.pwr.hintsIn[k]? = some h → h.zone < 12 → h.core < 288 →
    let n := (s.pwr.held.filter fun x => x.zone = h.zone).length
    ∃ t, exec (.hintReceived k) s = .next t ∧ t.pwr.hintsIn = s.pwr.hintsIn.eraseIdx k
      ∧ (s.on PWR_CTRL fPWR_CTRL_HINT_EN = true → n < 8 →
          t.pwr.held = s.pwr.held ++ [h] ∧ t.rd (PWR_ZHINT h.zone) fPWR_ZHINT_HELD = n + 1)
      ∧ (s.on PWR_CTRL fPWR_CTRL_HINT_EN = true → 8 ≤ n → t.pwr.held = s.pwr.held ∧ t.rd (SQ_EVENTS h.core) fSQ_EVENTS_HINT_DROP = 1)
      ∧ (s.on PWR_CTRL fPWR_CTRL_HINT_EN = false → t.pwr.held = s.pwr.held ∧ t.regs = s.regs))
  ∧ (∀ (s : State) (k : Nat) (h : HintMsg), s.pwr.held[k]? = some h → h.dur ≠ 0 →
      (h.start + h.dur ≤ s.beat → ∃ t, exec (.hintPhaseEnd k) s = .next t ∧ t.pwr.held = s.pwr.held.eraseIdx k ∧ t.pwr.hintsIn = s.pwr.hintsIn)
      ∧ (s.beat < h.start + h.dur → exec (.hintPhaseEnd k) s = .next s))
  ∧ (∀ (s : State) (z : Nat), z < 12 →
      (s.on PWR_STATUS fPWR_STATUS_START_MARGIN = false → 1000 < s.pwr.openTicks.getD 0 → s.on PWR_CTRL fPWR_CTRL_ADAPT = true → s.zoneCores z ≠ [] →
        s.rd PWR_DROOP_CFG fPWR_DROOP_CFG_STR_LO ≤ s.rd PWR_DROOP_CFG fPWR_DROOP_CFG_STR_HI →
        s.rd PWR_DROOP_CFG fPWR_DROOP_CFG_STR_HI < s.rd (PWR_ZDROOP z) fPWR_ZDROOP_LASTTICK →
        let m := s.rd (PWR_ZMARGIN z) fPWR_ZMARGIN_BASE
        ∃ t, exec (.droopMarginAdapt z) s = .next t
          ∧ t.rd (PWR_ZMARGIN z) fPWR_ZMARGIN_BASE = max m (min (s.rd PWR_MARGIN_CFG fPWR_MARGIN_CFG_MMAX) (m + 2)))
      ∧ (∀ n, s.on PWR_STATUS fPWR_STATUS_START_MARGIN = true → s.pwr.openTicks = some n →
          (1000 ≤ n → ∃ t, exec (.droopMarginAdapt z) s = .next t ∧ t.on PWR_STATUS fPWR_STATUS_START_MARGIN = false
            ∧ t.rd (PWR_ZMARGIN z) fPWR_ZMARGIN_BASE = s.rd (PWR_ZMARGIN z) fPWR_ZMARGIN_BASE)
          ∧ (n < 1000 → exec (.droopMarginAdapt z) s = .next s)))
  ∧ (∀ (s : State) (zones : List (Nat × List (Nat × Nat))) (uds : List Nat) (sites : List (Nat × List (Nat × Nat))) (other : Nat),
      zones.length ≤ 12 → uds.length ≤ 2 → sites.length ≤ 10 →
      let total := (zones.map (·.1)).sum + uds.sum + (sites.map (·.1)).sum + other
      let count := fun acc reg e => min (2 ^ 64 - 1) (s.rd reg ⟨63, 0⟩ + (sget 0 acc s.pwr.micro + e) / 1000)
      total < 65536000 →
      ∃ t, exec (.energyAttribution zones uds sites other) s = .next t
        ∧ t.rd PWR_ENERGY ⟨63, 0⟩ = count 64 PWR_ENERGY total ∧ t.rd PWR_POWER fPWR_POWER_P1MS = total / 1000
        ∧ ∀ z, z < 12 → t.rd (PWR_ZENERGY z) ⟨63, 0⟩ = count (65 + z) (PWR_ZENERGY z) (zones.getD z (0, [])).1)
  ∧ (∀ (s : State) (v io sedge a b c d : Int), s.firmware = true →
      (s.pointsOf 0 = [d, c] → c < d → d ≤ v → ∃ t, exec (.thermalCycleSample v io sedge) s = .next t ∧ t.pointsOf 0 = [v, c])
      ∧ (∀ n, s.pointsOf 0 = [d, c, b, a] → c < d → v + 32 ≤ d → (b - c).natAbs ≤ (a - b).natAbs → (b - c).natAbs ≤ (c - d).natAbs →
          State.cycleBin (b - c).natAbs = some n →
          ∃ t, exec (.thermalCycleSample v io sedge) s = .next t ∧ t.pointsOf 0 = [v, d, a]
            ∧ t.rd (PWR_CYC n) fPWR_CYC_COUNT = min (2 ^ fPWR_CYC_COUNT.width - 1) (s.rd (PWR_CYC n) fPWR_CYC_COUNT + 1)))
  ∧ ∀ s : State, s.firmware = true → s.pkg.flash.answers = true →
      ∃ t, exec .wearSaveTimer s = .next t ∧ t.pkg.flash.wearSeq = s.pkg.flash.wearSeq + 1
        ∧ t.pkg.flash.wear = (List.range 12).map (fun k => s.rd (PWR_CYC k) fPWR_CYC_COUNT) ∧ t.pkg.flash.residues = s.pwr.points ∧ t.regs = s.regs

/-- What a cold and a warm start leave, when the pins hold the package in reset, and what a lockstep mismatch does. -/
def Obligations.StartsResetsAndLockstep : Prop :=
  let held : State → State → Prop := fun s t => t.rd PKG_STATE fPKG_STATE_STATE = pkReset ∧ t.time.running = false ∧ t.cores = [] ∧ t.mem.stack = []
    ∧ t.mem.peat = [] ∧ t.mem.far = s.mem.far ∧ t.pkg.flash = s.pkg.flash ∧ t.pkg.fuse = s.pkg.fuse ∧ t.pkg.cmds = []
  let free : State → Prop := fun s => s.pkg.pins.rstLow = false ∧ s.pkg.pins.refclk = true ∧ s.pkg.pins.railBad = false
  (∀ (s : State) (e : StartEnv) (a b k : Nat), chooseSlot s.pkg.flash s.pkg.fuse.part s.pkg.fuse.key = (a, b, some k) → s.pkg.fuse.bistFails = false →
    let t := s.coldStart e
    t.rd PKG_STATE fPKG_STATE_STATE = pkLocal ∧ t.rd PKG_STATE fPKG_STATE_STEP = 0 ∧ t.rd PKG_STATE fPKG_STATE_LAST = 1
      ∧ t.pkg.image = some (slotImage (if k = 0 then s.pkg.flash.a else s.pkg.flash.b))
      ∧ t.pkg.flash.starts = (s.pkg.flash.starts + 1) % 2 ^ 32 ∧ t.rd PKG_STARTS fPKG_STARTS_START = t.pkg.flash.starts
      ∧ t.rd PKG_BOOT fPKG_BOOT_FAIL_A = a % 8 ∧ t.rd PKG_BOOT fPKG_BOOT_FAIL_B = b % 8
      ∧ t.pkg.cmds = [] ∧ t.pkg.comps = [] ∧ t.mem.far = s.mem.far)
  ∧ (∀ (s : State) (e : StartEnv) (a b : Nat) (o : Option Nat), chooseSlot s.pkg.flash s.pkg.fuse.part s.pkg.fuse.key = (a, b, o) →
      let t := s.coldStart e
      (o = none → t.rd PKG_STATE fPKG_STATE_STATE = pkRecovery ∧ t.rd PKG_STATE fPKG_STATE_STEPFAIL = 2)
      ∧ (o ≠ none → s.pkg.fuse.bistFails = true → t.rd PKG_STATE fPKG_STATE_STATE = pkRecovery ∧ t.rd PKG_STATE fPKG_STATE_STEPFAIL = 4))
  ∧ (∀ (s : State) (e : StartEnv) (ns : Nat) (low : Bool),
      (s.pkg.pins.pwrgd = false → free s → exec (.powerGood e) s = .next ((s.modPins fun p => { p with pwrgd := true }).coldStart e))
      ∧ (s.pkg.pins.pwrgd = false → ¬ free s → ∃ t, exec (.powerGood e) s = .next t ∧ held s t)
      ∧ (s.pkg.pins.pwrgd = true → s.pkg.pins.rstLow = false → s.pkg.pins.railBad = false → s.pkg.pins.refclk = false → 100000 ≤ ns →
          exec (.refclkReturn ns e) s = .next ((s.modPins fun p => { p with refclk := true }).coldStart e))
      ∧ (s.pkg.pins.pwrgd = true → s.pkg.pins.rstLow = true → s.pkg.pins.railBad = false → s.pkg.pins.refclk = true →
          exec (.pkgRst false ns e) s = .next ((s.modPins fun p => { p with rstLow := false }).coldStart e))
      ∧ (if 2000 < ns then ∃ t, exec (.pkgPwrgdLow ns) s = .next t ∧ held s t ∧ t.pkg.pins.pwrgd = false else exec (.pkgPwrgdLow ns) s = .next s)
      ∧ (if 10000 < ns ∧ s.pkg.pins.pwrgd = true then ∃ t, exec (.railOutOfRange ns) s = .next t ∧ held s t else exec (.railOutOfRange ns) s = .next s)
      ∧ (if 1000 ≤ ns then ∃ t, exec (.refclkLoss ns) s = .next t ∧ held s t else exec (.refclkLoss ns) s = .next s)
      ∧ (s.pkg.pins.pwrgd = true → low = true →
          if 10000 ≤ ns then ∃ t, exec (.pkgRst low ns e) s = .next t ∧ held s t else exec (.pkgRst low ns e) s = .next s))
  ∧ (∀ (s : State) (seq : Nat) (c : Cmd) (e : StartEnv), s.Executes seq 0x1002 c → exec (.cold (.taken seq) e) s = .next (s.coldStart e))
  ∧ (∀ (s : State) (seq : Nat) (c : Cmd) (e : StartEnv) (i : BootImage), s.Executes seq 0x1001 c → c.args.headD 0 = 0 → e.broken = false → e.refused = [] →
      s.pkg.image = some i →
      (s.pkState = pkRecovery → exec (.warm (.taken seq) e) s = .next (s.finishCmd c ocRefused stPkgRecovery 0 []))
      ∧ (s.pkState ≠ pkRecovery → ∃ t, exec (.warm (.taken seq) e) s = .next t ∧ t.rd PKG_STATE fPKG_STATE_STATE = pkLocal
          ∧ t.rd PKG_STATE fPKG_STATE_LAST = 2 ∧ t.rd PKG_STATE fPKG_STATE_RELOADED = 0 ∧ t.pkg.image = some i ∧ t.cores = [] ∧ t.pkg.cmds = []
          ∧ t.pkg.flash.starts = (s.pkg.flash.starts + 1) % 2 ^ 32 ∧ t.rd PKG_STARTS fPKG_STARTS_START = t.pkg.flash.starts
          ∧ t.rd PKG_STARTS fPKG_STARTS_WARMS = min 0xFFFF (s.rd PKG_STARTS fPKG_STARTS_WARMS + 1) ∧ t.mem.far = s.mem.far
          ∧ ((∀ x, x < 10 → s.on (MEM_STATUS x) fMEM_STATUS_COMPACTING = false) → (∀ d, d < 2 → s.on (PT_STATUS d) fPT_STATUS_COMPACTING = false) →
              t.mem.stack = s.mem.stack)))
  ∧ (∀ (s : State) (seq die : Nat) (c : Cmd) (e : StartEnv), s.Executes seq 0x1003 c → c.args.headD 0 = die →
      (die = 0 ∨ die = 6 → exec (.dieReset (.taken seq) e) s = .next (s.finishCmd c ocRefused stDieCore 0 []))
      ∧ (1 ≤ die → die ≤ 3 → s.portHere (4 * die) = true → ∃ t, exec (.dieReset (.taken seq) e) s = .next t
          ∧ (∀ k, k < 4 → t.portState (4 * die + k) = psDown) ∧ t.on (TIER_FAR (die - 1)) fTIER_FAR_UP = false ∧ t.mem.far = s.mem.far
          ∧ fget (t.reg PKG_GEN) ⟨4 * die + 3, 4 * die⟩ = (fget (s.reg PKG_GEN) ⟨4 * die + 3, 4 * die⟩ + 1) % 16)
      ∧ (die = 4 ∨ die = 5 → ∃ t, exec (.dieReset (.taken seq) e) s = .next t ∧ ((s.ud (die - 4)).xfers = [] → t.mem.stack = s.mem.stack)
          ∧ fget (t.reg PKG_GEN) ⟨4 * die + 3, 4 * die⟩ = (fget (s.reg PKG_GEN) ⟨4 * die + 3, 4 * die⟩ + 1) % 16))
  ∧ ∀ s : State,
      (s.pkState ≠ pkReset → s.pkState ≠ pkHalted → ∃ t, exec .lockstepMismatch s = .next t ∧ t.rd PKG_STATE fPKG_STATE_STATE = pkHalted
        ∧ t.rd PWR_STATUS fPWR_STATUS_DUTY = 0 ∧ t.rd TIME_FREQ fTIME_FREQ_CODE = 24 ∧ t.rd TIME_FREQ fTIME_FREQ_TARGET = 24
        ∧ t.on (UD_CTRL 0) fUD_CTRL_PAUSE = true ∧ t.on (UD_CTRL 1) fUD_CTRL_PAUSE = true ∧ t.rd PKG_EVENTS fPKG_EVENTS_LOCKSTEP = 1
        ∧ t.cores = s.cores ∧ t.mem = s.mem)
      ∧ (s.pkState = pkReset ∨ s.pkState = pkHalted → exec .lockstepMismatch s = .next s)

/-- Each query answers the registers and entries that its row names, and changes nothing else. -/
def Obligations.QueriesAnswerWhatTheyName : Prop :=
  ∀ (s : State) (seq : Nat) (c : Cmd),
    let a := c.args.getD 0 0
    let d := c.args.headD 0
    let home := fun (s : State) => s.modPkg fun p => { p with fwd := p.fwd.filter (· ≠ seq) }
    let answers : Instr → Nat → List Nat → Prop := fun i code resp => s.Executes seq code c → State.Fits c resp → exec i s = .next (s.answer c resp)
    (a < 288 → answers (.sqQuery (.taken seq)) 0x0902 ((s.reg (SQ_STATUS a)).toNat :: [0, 1, 2].flatMap (s.streamBlock a)))
    ∧ (s.siteHere d = true →
        answers (.memQuery (.taken seq)) 0x0B00 (s.regWords [MEM_STATUS d, MEM_RANGE d, MEM_CH_LIVE d, MEM_CH_FENCED d, MEM_CH_OUT d]))
    ∧ (s.siteHere d = false → answers (.memQuery (.taken seq)) 0x0B00 [0, 0, 0, 0, 0])
    ∧ (d < 2 → answers (.ptQuery (.taken seq)) 0x0B05
        (s.regWords ([PT_STATUS d, PT_RANGE d] ++ (List.range 4).map fun k => PT_CH_INFO d k)))
    ∧ answers (.fabQuery (.taken seq)) 0x0D00 (s.regWords ([FAB_STATUS, FAB_ENROL] ++ ((List.range 16).filter s.portHere).flatMap fun p =>
        [State.fpCtrl p, State.fpStatus p, FP_LANEMAP (p / 4) (p % 4), FP_RETRY (p / 4) (p % 4), FP_FEC_CORR (p / 4) (p % 4), FP_FEC_UNC (p / 4) (p % 4),
          FP_TX_FLITS (p / 4) (p % 4), FP_RX_FLITS (p / 4) (p % 4), FP_DOWNS (p / 4) (p % 4), FP_SKEW (p / 4) (p % 4)]))
    ∧ answers (.pwrQuery (.taken seq)) 0x0F00 (s.regWords [PWR_STATUS, PWR_WARN, PWR_LIMITS, PWR_POWER, PWR_TJ, PWR_COOL])
    ∧ answers (.pkgQuery (.taken seq)) 0x1000 (s.views [PKG_STATE, PKG_BOOT, PKG_STARTS, PKG_GEN, PKG_LOCK])
    ∧ (∀ n, s.tagSlot a = some n → answers (.pwrEnergyQuery (.taken seq)) 0x0F02 [s.rd (PWR_ETAG_MJ n) fPWR_ETAG_MJ_MJ])
    ∧ (s.tagSlot a = none → s.Executes seq 0x0F02 c → exec (.pwrEnergyQuery (.taken seq)) s = .next (s.finishCmd c ocRefused stPwrNoTag 0 []))
    ∧ (a < s.sched.glayers → answers (.gfmtQuery (.taken seq)) 0x0500 (s.gfEntry a))
    ∧ (c.args.getD 1 0 = 0 → answers (.jnlQuery (.taken seq)) 0x1007 [])
    ∧ (c.args.getD 1 0 = 1 → a ≠ 0 → (s.jnlAt a).seq = a → answers (.jnlQuery (.taken seq)) 0x1007 (bytesWords 8 (s.jnlAt a).bytes))
    ∧ (c.args.getD 1 0 = 1 → (s.jnlAt a).seq ≠ a → answers (.jnlQuery (.taken seq)) 0x1007 [])
    ∧ (s.rm.master = true → s.rm.suspended = false → s.rm.reshard = none → s.Executes seq 0x0E00 c →
        let head := [s.rm.term, s.node, (s.rm.standby.map (· + 1)).getD 0, s.rm.epoch, s.rm.events]
        let decisions := (List.range 16).map fun k => match s.rm.decisions[k]? with
          | some d => d.1 * 4 + d.2
          | none => 0
        let log := s.rm.log.flatMap fun x => [x.1 * 2 ^ 56 + x.2.1 * 2 ^ 44 + x.2.2.length] ++ x.2.2
        let resp := head ++ [0, 0, 0, 0] ++ decisions ++ s.regWords [TIME_SEG_TICK, TIME_SEG_BEAT, TIME_SEG_LEN] ++ log
        State.Fits c resp → exec (.rmQuery ⟨.taken seq, none⟩) s = .next ((s.rmSettle ((home s).modRm fun r => { r with events := 0 })).answer c resp))
    ∧ (a < 2 → s.noMem a = false → s.on (UD_CTRL a) fUD_CTRL_EN = true → c.args.getD 1 0 < s.rd (UD_RECBASE a) fUD_RECBASE_NREC → s.Executes seq 0x0A08 c →
        let u := c.args.getD 1 0
        let r := s.readRec a u
        let busy := r.1.updBusy a u || (r.1.ud a).xfers.any fun x => x.ulx = u
        let resp := r.2.getD (List.replicate 8 0) ++ [(if busy then 1 else 0) + if r.1.updHeld a u then 2 else 0]
        State.Fits c resp → exec (.udQuery (.taken seq)) s = .next (r.1.answer c resp))
    ∧ (d < 2 ^ 21 → s.on DIR_CTRL fDIR_CTRL_EN = true → s.Executes seq 0x0C03 c →
        let r := s.entryOf d
        let resp := (List.range 4).map (entWord (r.2.getD [])) ++ [r.1.inflOf d]
        State.Fits c resp → exec (.dirQuery (.taken seq)) s = .next (r.1.answer c resp))

/-- Commands on streams, formats, sites, dies, ports, the Ringmaster, power and the package have their effect and complete DONE. -/
def Obligations.CommandsHaveTheirEffect : Prop :=
  ∀ (s : State) (seq : Nat) (c : Cmd),
    let a : Nat → Nat := fun k => c.args.getD k 0
    let site := c.args.headD 0
    let home := fun (s : State) => s.modPkg fun p => { p with fwd := p.fwd.filter (· ≠ seq) }
    let does : Instr → Nat → State → List Nat → Prop := fun i code t resp => s.Executes seq code c → exec i s = .next (t.answer c resp)
    let cores := (maskCores c.args).filter s.coreOn
    ((∀ b ∈ cores, s.on (SQ_CTRL b) fSQ_CTRL_EN = true) → does (.sqStart (.taken seq)) 0x0900
        (cores.foldl (fun s b => (maskStreams c.args).foldl (fun s i => s.startStream b i (startPc c.args i)) s) s) [])
    ∧ does (.sqStop (.taken seq)) 0x0901 ((maskCores c.args).foldl (fun s b => (maskStreams c.args).foldl (fun s i => s.stopStream b i) s) s) []
    ∧ (a 0 < s.sched.glayers → a 1 < 2 → a 2 = 1 ∨ a 2 = 3 ∨ a 2 = 4 → State.gfAllow (s.gfEntry (a 0)) (a 1) / 2 ^ State.gfRank (a 2) % 2 = 1 →
        let x := s.gfPut (a 0) (nput (entWord (s.gfEntry (a 0)) 0) (6 + a 1) (6 + a 1) 1 :: (s.gfEntry (a 0)).drop 1)
        does (.gfmtPin (.taken seq)) 0x0501 { x with sched := { x.sched with
          pend := (x.sched.pend.filter fun p => !(p.1 = a 0 && p.2.1 = a 1)) ++ [(a 0, a 1, a 2)] } } [])
    ∧ (a 0 < s.sched.glayers → a 1 < 2 → does (.gfmtRelease (.taken seq)) 0x0502
        (s.gfPut (a 0) (nput (entWord (s.gfEntry (a 0)) 0) (6 + a 1) (6 + a 1) 0 :: (s.gfEntry (a 0)).drop 1)) [])
    ∧ does (.gfmtLimits (.taken seq)) 0x0503 { s with sched := { s.sched with limits := some (a 0 % 2 ^ 16, a 1 % 2 ^ 16) } } []
    ∧ (s.siteHere site = true → a 1 < 32 → s.rd (MEM_CH_LIVE site) fMEM_CH_LIVE_MAP / 2 ^ a 1 % 2 = 1 →
        does (.memFence (.taken seq)) 0x0B01 (s.fenceSite site (a 1) 4) [])
    ∧ (s.siteHere site = true → s.on (MEM_STATUS site) fMEM_STATUS_COMPACTING = false → does (.memCompact (.taken seq)) 0x0B02 (s.compactStart site) [])
    ∧ does (.memCacheRelease (.taken seq)) 0x0B03 (s.modMem fun m => { m with
        cache := m.cache.map fun x => if (s.maskSites site).contains x.site && x.kind.prot then { x with kind := .ordinary } else x }) []
    ∧ does (.memCacheFlush (.taken seq)) 0x0B04 (s.dropLines fun x => (s.maskSites site).contains x.site) []
    ∧ (site < 2 → a 1 < 4 → s.rd (PT_CH_INFO site (a 1)) fPT_CH_INFO_STATE = 0 → s.dieRange site ≠ 0 →
        does (.ptFence (.taken seq)) 0x0B06 (s.fenceDie site (a 1) 4) [])
    ∧ (site < 2 → s.on (PT_STATUS site) fPT_STATUS_COMPACTING = false → s.on (UD_STATUS site) fUD_STATUS_WALKING = false →
        s.on (UD_STATUS site) fUD_STATUS_HOLDING = false → does (.ptCompact (.taken seq)) 0x0B07 (s.dieCompactStart site) [])
    ∧ does (.fabPortSet (.taken seq)) 0x0D01 (((List.range 16).filter fun p => s.portHere p && a 0 / 2 ^ p % 2 = 1).foldl (fun s p =>
        let s := s.wr (State.fpCtrl p) fFP_CTRL_EN (a 1 % 2)
        if a 1 % 2 = 0 then s.portFail p else s) s) []
    ∧ (s.enrolled = 0 → does (.fabJoin (.taken seq)) 0x0D02 (s.setEnrol 1) [])
    ∧ (s.enrolled = 2 ∨ s.enrolled = 3 → does (.fabLeave (.taken seq)) 0x0D03 ((s.toRm 0x37 [0]).setEnrol 4) [])
    ∧ (s.rm.master = true → s.rm.suspended = false → ∀ reply,
        does (.rmPolicy ⟨.taken seq, reply⟩) 0x0E03 (s.rmSettle ((home s).modRm fun r => { r with slipUp := max 1 (a 0), stepTmo := max 1 (a 1) })) []
        ∧ (tickStatus (a 0) s.sched.planned = 0 → s.sched.planned ≠ 0 → s.tickPending = false → s.time.originWait = false →
            does (.rmTick ⟨.taken seq, reply⟩) 0x0E02 (s.rmSettle ((home s).changeTick (a 0))) [])
        ∧ (tickStatus (a 0) s.sched.planned = 0 → s.sched.planned ≠ 0 → s.tickPending = true ∨ s.time.originWait = true → s.Executes seq 0x0E02 c →
            exec (.rmTick ⟨.taken seq, reply⟩) s = .next (s.rmSettle (home s)))
        ∧ (s.rm.standby ≠ none → does (.rmHandover ⟨.taken seq, reply⟩) 0x0E04
            (s.rmSettle ((((home s).modRm fun r => { r with handover := true }).sync).modRm fun r => { r with handover := false })) [])
        ∧ (∀ layout : List Nat, layout ≠ [] → s.rm.reshard = none → s.rm.epoch = 0 ∨ s.rm.step + 2 ≤ a 1 →
            let x : Reshard := ⟨a 0, a 1, a 2, layout.eraseDups, [], [], 0, false, a 1⟩
            does (.rmReshard ⟨.taken seq, reply⟩ layout) 0x0E01 (s.rmSettle (((home s).modRm fun r => { r with
              reshard := some x, epochMsg := some (3, [a 0, a 1, a 2]) }).rmLayout ((s.rm.layout ++ x.layout).eraseDups) 3 [a 0, a 1, a 2])) []))
    ∧ (s.rm.master = false → ∀ (layout : List Nat) (reply : Option (Nat × Nat × List Nat)),
        ∀ r ∈ ([(.rmQuery ⟨.taken seq, reply⟩, 0x0E00), (.rmReshard ⟨.taken seq, reply⟩ layout, 0x0E01), (.rmTick ⟨.taken seq, reply⟩, 0x0E02),
          (.rmPolicy ⟨.taken seq, reply⟩, 0x0E03), (.rmHandover ⟨.taken seq, reply⟩, 0x0E04)] : List (Instr × Nat)),
        (s.pkg.fwd.contains seq = false → s.enrolled = 3 → s.on FAB_ENROL fFAB_ENROL_RM_VALID = true → s.Executes seq r.2 c →
          exec r.1 s = .next ((s.emit (.forward (s.rd FAB_ENROL fFAB_ENROL_RM) r.2 c.args)).modPkg fun p => { p with fwd := p.fwd ++ [seq] }))
        ∧ (s.pkg.fwd.contains seq = true → (reply = none → s.Executes seq r.2 c → exec r.1 s = .next s)
          ∧ (∀ st, reply = some (ocRefused, st, []) → s.Executes seq r.2 c → exec r.1 s = .next ((home s).finishCmd c ocRefused st 0 []))
          ∧ (∀ st resp, reply = some (ocDone, st, resp) → State.Fits c resp → does r.1 r.2 (home s) resp)))
    ∧ does (.pwrSetBudget (.taken seq)) 0x0F01 (s.writeBudget (a 0)) []
    ∧ does (.pwrForceMin (.taken seq)) 0x0F04 ((s.modPwr fun p => { p with forced := decide (a 0 ≠ 0) }).checkForced) []
    ∧ does (.pwrCoolClear (.taken seq)) 0x0F05 ((s.modPwr fun p => { p with coolClear := true }).clearCauses) []
    ∧ (s.rd PWR_STATUS fPWR_STATUS_STATE = 3 → does (.pwrResume (.taken seq)) 0x0F06 (s.modPwr fun p => { p with resume := true }) [])
    ∧ does (.pwrWearSave (.taken seq)) 0x0F07 s.saveWear []
    ∧ (∀ n, a 0 ≠ 0 → a 0 ≠ 0xFFFF → s.tagSlot (a 0) = some n → does (.pwrEnergyRelease (.taken seq)) 0x0F03
        (((s.setReg (PWR_ETAG_ID n) 0).setReg (PWR_ETAG_MJ n) 0).modPwr fun p => { p with micro := sput 0 n 0 p.micro })
        [s.rd (PWR_ETAG_MJ n) fPWR_ETAG_MJ_MJ])
    ∧ (s.anyRun = false → does (.schedUnload (.taken seq)) 0x1005 s.unloadImage []
        ∧ ∀ m : SchedImage, firstBad (imageChecks (s.placeImage m) m) = none →
            does (.schedLoad (.taken seq) (some m)) 0x1004 ((s.placeImage m).takeImage m) [])
    ∧ (a 1 = 0 → does (.jnlSpill (.taken seq)) 0x1008 (s.wr JNL_CTRL fJNL_CTRL_SPILL 0) [])
    ∧ (10 ≤ a 1 → a 1 ≤ 20 → s.on HIF_STATUS fHIF_STATUS_BME = true → does (.jnlSpill (.taken seq)) 0x1008
        (((s.wr JNL_SPILL_BASE fJNL_SPILL_BASE_ADDR (a 0)).wr JNL_CTRL fJNL_CTRL_LOG2N (a 1)).wr JNL_CTRL fJNL_CTRL_SPILL 1) [])
    ∧ (s.viaClass (.taken seq) = 1 → does (.dbgUnlock (.taken seq)) 0x1009
        ((s.wr PKG_LOCK fPKG_LOCK_DBG_LOCKED 0).raise PKG_EVENTS fPKG_EVENTS_DBG_UNLOCKED) [])
    ∧ does (.dbgLock (.taken seq)) 0x100A (s.wr PKG_LOCK fPKG_LOCK_DBG_LOCKED 1) []
    ∧ (∀ (image : List Nat) (i : BootImage), s.pkg.flashBy = none → s.on HIF_STATUS fHIF_STATUS_BME = true → s.pkg.image = some i →
        let l := image.take (a 1)
        (l.length ≤ slotSize → headerCode l s.pkg.fuse.part = 0 → contentCode l s.pkg.fuse.key = 0 → i.seq < imgNum l 8 8 →
          does (.flashWrite (.taken seq) image false) 0x1006 (((s.putSlot .erased).modPkg fun p => { p with flashBy := none }).putSlot (.bytes l)) [])
        ∧ (s.Executes seq 0x1006 c → exec (.flashWrite (.taken seq) image true) s =
            .next ((s.putSlot .erased).modPkg fun p => { p with flashBy := some seq })))
    ∧ (s.pkg.flashBy = none → a 0 = 0 →
        (s.Executes seq 0x100B c → exec (.returnCapture (.taken seq) true) s = .next (s.modPkg fun p => { p with
          flashBy := some seq, flash := { p.flash with captured := false, capture := [] } }))
        ∧
        let rec_ := (s.modPkg fun p => { p with flash := { p.flash with captured := false, capture := [] } }).captureRecord
        does (.returnCapture (.taken seq) false) 0x100B
          (((s.modPkg fun p => { p with flashBy := none, flash := { p.flash with captured := true, capture := rec_ } }).wr
            PKG_LOCK fPKG_LOCK_CAPTURED 1).raise PKG_EVENTS fPKG_EVENTS_CAPTURE_DONE) [])

/-- Commands on the update dies: walks begin and are committed or stopped, records are restored, checkpointed, re-emitted and accepted. -/
def Obligations.UpdateCommandsHaveTheirEffect : Prop :=
  ∀ (s : State) (seq : Nat) (c : Cmd),
    let a : Nat → Nat := fun k => c.args.getD k 0
    let ds := maskDies (a 0)
    let does : Instr → Nat → State → Prop := fun i code t => s.Executes seq code c → exec i s = .next (t.answer c [])
    let enabled : Prop := ∀ d ∈ ds, s.on (UD_CTRL d) fUD_CTRL_EN = true ∧ s.noMem d = false
    let named : Prop := a 0 < 2 ∧ s.noMem (a 0) = false ∧ s.on (UD_CTRL (a 0)) fUD_CTRL_EN = true ∧ a 1 < s.rd (UD_RECBASE (a 0)) fUD_RECBASE_NREC
    (enabled → (∀ d ∈ ds, s.on (UD_STATUS d) fUD_STATUS_WALKING = false ∧ s.on (UD_STATUS d) fUD_STATUS_HOLDING = false) → s.Executes seq 0x0A00 c →
        ∃ t, exec (.udStepBegin (.taken seq)) s = .next t ∧ t.pkg.cmds = s.pkg.cmds.filter (fun x => x.seq ≠ c.seq)
          ∧ ∀ d ∈ ds, t.on (UD_STATUS d) fUD_STATUS_WALKING = true ∧ t.rd (UD_STEP d) fUD_STEP_STEP = a 1 % 2 ^ fUD_STEP_STEP.width
            ∧ (t.ud d).ents = [] ∧ (t.ud d).held = [] ∧ (t.ud d).stop = false)
    ∧ (enabled → (∀ d ∈ ds, s.on (UD_STATUS d) fUD_STATUS_HOLDING = true) →
        does (.udStepCommit (.taken seq)) 0x0A01 (ds.foldl (fun s d => s.commitStep d (a 1 = 1)) s))
    ∧ (enabled → (∃ d ∈ ds, s.on (UD_STATUS d) fUD_STATUS_HOLDING = false) → s.Executes seq 0x0A01 c →
        ∃ t, exec (.udStepCommit (.taken seq)) s = .next t ∧ t.ud0 = s.ud0 ∧ t.ud1 = s.ud1 ∧ t.mem = s.mem
          ∧ ∀ d ∈ ds, t.rd (UD_FAULT d) fUD_FAULT_CODE = stUdNotHeld % 256 ∧ t.rd (UD_EVENTS d) fUD_EVENTS_FAULT = 1)
    ∧ (enabled → does (.udStop (.taken seq)) 0x0A02 (ds.foldl (fun s d =>
        if s.on (UD_STATUS d) fUD_STATUS_WALKING then ((s.modUd d fun u => { u with stop := true }).endStopped d).dropClosed (s.udStep d)
        else s.modUd d fun u => { u with auto := false }) s))
    ∧ (enabled → s.Executes seq 0x0A07 c → ∃ t, exec (.udSetExp (.taken seq)) s = .next t ∧ ∀ d ∈ ds,
        t.rd (UD_LAYER d (a 1 % 1024)) fUD_LAYER_E = a 2 % 2 ^ fUD_LAYER_E.width ∧ t.rd (UD_LAYER d (a 1 % 1024)) fUD_LAYER_PIN = a 3 % 2)
    ∧ ((∃ d ∈ ds, s.on (UD_CTRL d) fUD_CTRL_EN = false) → s.Executes seq 0x0A00 c → ∃ t, exec (.udStepBegin (.taken seq)) s = .next t
        ∧ t.ud0 = s.ud0 ∧ t.ud1 = s.ud1 ∧ ∀ d ∈ ds, t.rd (UD_EVENTS d) fUD_EVENTS_FAULT = 1)
    ∧ (named → ∀ w : List Nat, (s.readRec (a 0) (a 1)).2 = some w →
        let x := (s.readRec (a 0) (a 1)).1
        let begun : Bool → Bool → State := fun restore master =>
          let t := x.translateUd (a 2 % 2 ^ 21) restore
          t.1.modUd (a 0) fun u => { u with xfers := u.xfers ++ [⟨seq, restore, master, a 1, a 2 % 2 ^ 21, t.2, false, [], [], none, x.beat⟩] }
        ((s.Executes seq 0x0A03 c → x.updBusy (a 0) (a 1) = false → x.updHeld (a 0) (a 1) = false → (∀ y ∈ (x.ud (a 0)).xfers, y.ulx ≠ a 1) →
            rcValid w = true → x.recCheck (a 0) w = none → exec (.udRestore (.taken seq)) s = .next (begun true (decide (a 3 = 1))))
          ∧ (s.Executes seq 0x0A04 c → rcTorn w = false → rcInplace w = false ∨ x.updBusy (a 0) (a 1) = false →
            (∀ y ∈ (x.ud (a 0)).xfers, y.ulx ≠ a 1) → exec (.udCkpt (.taken seq)) s = .next (begun false false))
          ∧ (rcTorn w = false → x.updBusy (a 0) (a 1) = false → does (.udReemit (.taken seq)) 0x0A05 (x.reemit (a 0) (a 1) w (a 2 % 2) none))))
    ∧ (named → does (.udAcceptTorn (.taken seq)) 0x0A06 ((s.readRec (a 0) (a 1)).1.putCommit (a 0) (a 1) fun w => nput w 62 62 0))

/-- Commands on directory entries: created, set, deleted, moved and marked, each under its condition, with line and cached copy written. -/
def Obligations.DirectoryCommandsHaveTheirEffect : Prop :=
  ∀ (s : State) (seq : Nat) (c : Cmd),
    let id := c.args.headD 0
    let turned : Instr → Nat → State → Nat → Prop := fun i code t st => s.Executes seq code c → exec i s = .next (t.finishCmd c ocRefused st 0 [])
    (s.on DIR_CTRL fDIR_CTRL_EN = true → id < 2 ^ 21 → s.dirFenced id = false → s.dir.walks.contains id = false → s.dir.queue.contains id = false →
      let x := (s.entryOf id).1
      let n := State.entArg (c.args.drop 1)
      let wrote : Bool → Instr → Nat → List Nat → (State → State) → Prop := fun keep i code e f => s.Executes seq code c →
        let w := x.writeEntry id e keep
        exec i s = .next (if w.2 = rsOk then (f w.1).answer c [] else w.1.finishCmd c ocFailed stDirFenced 0 [])
      ((s.entryOf id).2 = none → x.entOk n = true → wrote true (.dirCreate (.taken seq)) 0x0C00 (State.entStamp n 1 entIdle 0) (fun t => t)
        ∧ wrote false (.dirSet (.taken seq)) 0x0C01 (State.entStamp n 1 entIdle 0) fun t => t)
      ∧ ((s.entryOf id).2 = none → wrote false (.dirMarkLost (.taken seq)) 0x0C07 (entSet [2 ^ 63, 0, 0, 0] 62 61 entLost) fun t => t.wakeMoves id)
      ∧ ∀ o, (s.entryOf id).2 = some o →
        (entValid o = false → x.entOk n = true → wrote true (.dirCreate (.taken seq)) 0x0C00 (State.entStamp n 1 entIdle 0) fun t => t)
        ∧ (entValid o = true → turned (.dirCreate (.taken seq)) 0x0C00 x stDirExists)
        ∧ (entValid o = true → entState o ≠ entMoving → x.entOk n = true →
            wrote true (.dirSet (.taken seq)) 0x0C01 (State.entStamp n 1 (entState o) (entVer o)) fun t => t)
        ∧ (entValid o = true → entState o ≠ entMoving → x.noMoves id = true → wrote true (.dirDelete (.taken seq)) 0x0C02 (entSet o 63 63 0) fun t => t)
        ∧ (entValid o = true → entState o ≠ entMoving → x.noMoves id = false → s.Executes seq 0x0C02 c → exec (.dirDelete (.taken seq)) s = .next x)
        ∧ (entValid o = true → entState o = entMoving → turned (.dirDelete (.taken seq)) 0x0C02 x stDirState)
        ∧ (entValid o = true → entState o = entIdle → entPin o = false → wrote true (.dirBeginMove (.taken seq)) 0x0C04 (entSet o 62 61 entMoving) fun t => t)
        ∧ (entValid o = true → entState o = entIdle → entPin o = true → turned (.dirBeginMove (.taken seq)) 0x0C04 x stDirPinned)
        ∧ (let m := entSet [entWord o 0, c.args.getD 1 0, entWord o 2, entWord o 3] 60 59 (c.args.getD 2 0 % 4)
          entValid o = true → entState o = entMoving → c.args.getD 2 0 < 4 → x.entOk m = true →
            (x.noMoves id = true → wrote true (.dirCommitMove (.taken seq)) 0x0C05 (State.entStamp m 1 entIdle ((entVer o + 1) % 256)) fun t => t.wakeMoves id)
            ∧ (x.noMoves id = false → s.Executes seq 0x0C05 c → exec (.dirCommitMove (.taken seq)) s = .next x))
        ∧ (entValid o = true → entState o = entMoving → wrote true (.dirAbortMove (.taken seq)) 0x0C06 (entSet o 62 61 entIdle) fun t => t.wakeMoves id)
        ∧ (entValid o = true → wrote true (.dirMarkLost (.taken seq)) 0x0C07 (entSet o 62 61 entLost) fun t => t.wakeMoves id))
    ∧ (s.on DIR_CTRL fDIR_CTRL_EN = true → s.Executes seq 0x0C08 c → ∃ t, exec (.dirFlush (.taken seq)) s = .next t
        ∧ t.dir.cache = s.dir.cache.filter (fun e => decide (0 < e.infl)) ∧ t.dir.walks = s.dir.walks ∧ t.mem = s.mem)
    ∧ (s.on DIR_CTRL fDIR_CTRL_EN = false →
        ∀ r ∈ ([(.dirCreate (.taken seq), 0x0C00), (.dirSet (.taken seq), 0x0C01), (.dirDelete (.taken seq), 0x0C02), (.dirBeginMove (.taken seq), 0x0C04),
          (.dirCommitMove (.taken seq), 0x0C05), (.dirAbortMove (.taken seq), 0x0C06), (.dirMarkLost (.taken seq), 0x0C07),
          (.dirFlush (.taken seq), 0x0C08)] : List (Instr × Nat)), turned r.1 r.2 s stDirDisabled)

/-- A command that the matrix denies has no effect but its record; one that completes leaves the queue, with its entry and its completion
written. -/
def Obligations.CommandsDeniedAndCompleted : Prop :=
  (∀ (s : State) (cls port bit : Nat) (args : List Nat),
    let v : Via := .arrives cls port args
    let rows : List (Instr × Nat) := [(.gfmtPin v, 0x0501), (.sqStart v, 0x0900), (.sqQuery v, 0x0902), (.udStepBegin v, 0x0A00), (.udStop v, 0x0A02),
      (.memFence v, 0x0B01), (.ptCompact v, 0x0B07), (.dirCreate v, 0x0C00), (.dirFlush v, 0x0C08), (.fabPortSet v, 0x0D01), (.rmPolicy ⟨v, none⟩, 0x0E03),
      (.pwrSetBudget v, 0x0F01), (.pwrForceMin v, 0x0F04), (.pkgQuery v, 0x1000), (.schedUnload v, 0x1005), (.jnlSpill v, 0x1008), (.dbgLock v, 0x100A)]
    ∀ r ∈ rows, s.firmware = true → s.jnlRoom = true → cls ≤ 4 → cmdBit r.2 = some bit → args.length = cmdWords r.2 →
      s.mayCommand cls (State.needBit cls r.2 bit) = false → s.rd JNL_HEAD fJNL_HEAD_SEQ + 1 < 2 ^ 64 →
      let seq := s.rd JNL_HEAD fJNL_HEAD_SEQ + 1
      ∃ t, exec r.1 s = .next t ∧ t.pkg.cmds = s.pkg.cmds ∧ t.mem = s.mem ∧ t.cores = s.cores ∧ t.dir = s.dir ∧ t.pwr = s.pwr ∧ t.fab = s.fab
        ∧ t.ud0 = s.ud0 ∧ t.ud1 = s.ud1 ∧ t.rm = s.rm ∧ t.sched = s.sched
        ∧ t.rd PKG_PERM_DENY fPKG_PERM_DENY_COUNT = min (2 ^ fPKG_PERM_DENY_COUNT.width - 1) (s.rd PKG_PERM_DENY fPKG_PERM_DENY_COUNT + 1)
        ∧ t.rd PKG_EVENTS fPKG_EVENTS_PERM_DENIED = 1 ∧ t.rd JNL_HEAD fJNL_HEAD_SEQ = seq
        ∧ (t.jnlAt seq).seq = seq ∧ (t.jnlAt seq).outcome = ocRefused ∧ (t.jnlAt seq).status = stPermDenied ∧ (t.jnlAt seq).code = r.2
        ∧ t.pkg.comps = s.pkg.comps ++ [⟨cls, 0, stPermDenied, ocRefused, seq, 0, 0, []⟩])
  ∧ ∀ (s : State) (c : Cmd) (outcome status detail : Nat) (resp : List Nat),
      let t := s.finishCmd c outcome status detail resp
      t.pkg.cmds = s.pkg.cmds.filter (fun x => x.seq ≠ c.seq)
      ∧ ((s.jnlAt c.seq).seq = c.seq → t.jnlAt c.seq =
          { s.jnlAt c.seq with cbeat := s.beat, outcome := outcome, status := status, detail := detail % 2 ^ 32 })
      ∧ (∀ q, q % 8192 ≠ c.seq % 8192 → t.jnlAt q = s.jnlAt q)
      ∧ t.pkg.comps = (if c.quiet = true ∨ c.cls = 7 then s.pkg.comps
          else s.pkg.comps ++ [⟨c.cls, c.tag, status, outcome, c.seq, detail % 2 ^ 32, c.raddr, wordBytes resp⟩])
      ∧ (c.quiet = false → c.cls = 0 → t.rd HIF_SMB fHIF_SMB_ALERT = 1)
      ∧ t.mem = s.mem ∧ t.cores = s.cores ∧ t.dir = s.dir ∧ t.pwr = s.pwr ∧ t.fab = s.fab ∧ t.ud0 = s.ud0 ∧ t.ud1 = s.ud1 ∧ t.rm = s.rm

/-- Register reads and writes follow the access codes, limits and expert level of the fields, and do what a write of the register starts. -/
def Obligations.RegisterAccessesFollowTheirCodes : Prop :=
  ∀ s : State, s.hostUp = true →
    let low : Nat → Nat := fun v => v % 2 ^ 32
    let expert : Bool := s.holds 1 11
    let counted : State → Prop := fun t => t.rd PKG_XW_DENY fPKG_XW_DENY_COUNT =
        min (2 ^ fPKG_XW_DENY_COUNT.width - 1) (s.rd PKG_XW_DENY fPKG_XW_DENY_COUNT + 1) ∧ t.rd PKG_EVENTS fPKG_EVENTS_XW_DENIED = 1
    let site : Nat → Bool := fun x => decide (s.rd PKG_CONFIG fPKG_CONFIG_STACKMAP / 2 ^ x % 2 = 1)
    (∀ a v, a ∈ [TIME_EVENTS, PWR_EVENTS, PKG_EVENTS, HIF_EVENTS] → ∃ t, exec (.registerWrite a 4 v) s = .next t
        ∧ t.reg a = s.reg a &&& ~~~(BitVec.ofNat 64 (Nat.land (accMask a [.w1c]) (low v))) ∧ (∀ b, b ≠ a → t.reg b = s.reg b)
        ∧ t.mem = s.mem ∧ t.cores = s.cores)
    ∧ (∀ v, ∃ t, exec (.registerWrite HIF_TMO 4 v) s = .next t ∧ t.rd HIF_TMO fHIF_TMO_BAR2 = max 100 (low v % 2 ^ 16)
        ∧ t.rd HIF_TMO fHIF_TMO_DMA = max 1 (low v / 2 ^ 16))
    ∧ (∀ v, ∃ t, exec (.hifBar2Write v) s = .next t ∧ t.rd HIF_BAR2 fHIF_BAR2_BASE = min 2559 (v / 2 ^ 32 % 2 ^ 12)
        ∧ t.rd HIF_BAR2 fHIF_BAR2_HINT = v % 4 ∧ t.rd HIF_BAR2 fHIF_BAR2_USE = v / 4 % 16)
    ∧ (∀ addr size v, State.barShape addr size = false → (∃ t, exec (.registerWrite addr size v) s = .next t ∧ t.rd HIF_EVENTS fHIF_EVENTS_FRAME_ERR = 1
          ∧ ∀ b, b ≠ HIF_EVENTS → b ≠ HIF_FRAME_ERR → t.reg b = s.reg b)
        ∧ ∃ t, exec (.registerReadClear addr size) s = .next t ∧ t.rd HIF_EVENTS fHIF_EVENTS_FRAME_ERR = 1 ∧ (.pcie 1 []) ∈ t.out)
    ∧ (∀ ts v, (s.holds 1 12 = true → exec (.tsInc ts v) s = .next { s with
          incs := s.incs ++ [⟨ts % 2 ^ 14, v % 2 ^ 24, v / 2 ^ 24 % 256, s.node⟩] })
        ∧ (s.holds 1 12 = false → ∃ t, exec (.tsInc ts v) s = .next t ∧ t.incs = s.incs
          ∧ t.rd PKG_PERM_DENY fPKG_PERM_DENY_COUNT = min (2 ^ fPKG_PERM_DENY_COUNT.width - 1) (s.rd PKG_PERM_DENY fPKG_PERM_DENY_COUNT + 1)))
    ∧ (expert = true → ∀ ts v, (∃ t, exec (.tsCountWrite ts v) s = .next t ∧ t.rd (TS_COUNT (ts % 2 ^ 14)) fTS_COUNT_COUNT = low v ∧ t.incs = s.incs)
        ∧ ∃ t, exec (.tsTargetWrite ts v) s = .next t ∧ t.rd (TS_TARGET (ts % 2 ^ 14)) fTS_TARGET_TARGET = low v ∧ t.incs = s.incs)
    ∧ (expert = true → ∀ b n v, b < 288 → n < 32 → s.coreOn b = true →
        (∀ k, k < 36 → ∃ t, exec (.veSlotContentWrite b n k v) s = .next t
          ∧ (t.reg (if k < 4 then VE_SLOT_C b (4 * n + k) else VE_UOP b (32 * n + (k - 4)))).toNat % 2 ^ 32 = low v
          ∧ t.on (VE_SLOT_CFG b n) fVE_SLOT_CFG_BAD = true)
        ∧ (∃ t, exec (.veSlotCfgWrite b n v) s = .next t ∧ fget (t.reg (VE_SLOT_CFG b n)) ⟨63, 25⟩ = v / 2 ^ 25 % 2 ^ 39 ∧ t.cores = s.cores)
        ∧ ∃ t, exec (.raticksWrite b v) s = .next t ∧ t.rd (DM_CTRL b) fDM_CTRL_RATICKS = min 2 (v / 2 % 4)
          ∧ t.rd (DM_CTRL b) fDM_CTRL_EN = v % 2 ∧ (v / 2 % 4 = 0 → (t.core b).probes = []) ∧ (v / 2 % 4 ≠ 0 → t.cores = s.cores))
    ∧ (expert = true → ∀ d v, d < 2 →
        (∀ n, n < 4 → ∃ t, exec (.udRuleCfgWrite d n v) s = .next t ∧ fget (t.reg (UD_RULE_CFG d n)) ⟨18, 0⟩ = v % 2 ^ 19 ∧ t.mem = s.mem)
        ∧ ∃ t, exec (.udRecbaseFirstWrite d v) s = .next t ∧ t.rd (UD_RECBASE d) fUD_RECBASE_BASE = v % 2 ^ 40
          ∧ t.rd (UD_RECBASE d) fUD_RECBASE_NREC = v / 2 ^ 40 % 2 ^ 16
          ∧ (d ∉ s.mem.recs → ∀ k, k < 64 * (v / 2 ^ 40 % 2 ^ 16) → memBytes t.mem.peat (d * 2 ^ 40 + v % 2 ^ 40 + k) 1 = [0])
          ∧ (d ∈ s.mem.recs → t.mem.peat = s.mem.peat))
    ∧ (expert = true → ∀ x v, x < 10 → site x = true → ∃ t, exec (.memCtrlCenWrite x v) s = .next t ∧ t.rd (MEM_CTRL x) fMEM_CTRL_CEN = v % 2
        ∧ t.mem.cache = s.mem.cache.filter (fun l => l.site ≠ x) ∧ t.mem.stack = s.mem.stack)
    ∧ (expert = true → ∀ v skews, (∃ t, exec (.dirCtrlEnWrite v) s = .next t ∧ t.rd DIR_CTRL fDIR_CTRL_EN = v % 2
          ∧ (v % 2 = 1 → s.on DIR_CTRL fDIR_CTRL_EN = false → s.rd DIR_STATUS fDIR_STATUS_STATE ≠ 2 →
              t.rd DIR_STATUS fDIR_STATUS_STATE = (if s.dirMapped then 1 else 0) ∧ t.mem = s.mem)
          ∧ (v % 2 = 1 → s.on DIR_CTRL fDIR_CTRL_EN = false → s.rd DIR_STATUS fDIR_STATUS_STATE = 2 →
              t.rd DIR_STATUS fDIR_STATUS_STATE = 1 ∧ t.dir.cache = []))
        ∧ ∃ t, exec (.timeCtrlAlignWrite v skews) s = .next t ∧ t.on TIME_CTRL fTIME_CTRL_ALIGN = false ∧ t.rd TIME_CTRL fTIME_CTRL_GATE_OVR = v % 2)
    ∧ (expert = false → ∀ d v ts b n x skews, d < 2 → b < 288 → n < 32 → x < 10 → s.coreOn b = true → site x = true →
        ∀ r ∈ ([(.tsCountWrite ts v, TS_COUNT (ts % 2 ^ 14)), (.tsTargetWrite ts v, TS_TARGET (ts % 2 ^ 14)), (.veSlotCfgWrite b n v, VE_SLOT_CFG b n),
          (.veSlotContentWrite b n 0 v, VE_SLOT_C b (4 * n)), (.udRuleCfgWrite d 0 v, UD_RULE_CFG d 0), (.raticksWrite b v, DM_CTRL b),
          (.dirCtrlEnWrite v, DIR_CTRL), (.memCtrlCenWrite x v, MEM_CTRL x), (.timeCtrlAlignWrite v skews, TIME_CTRL),
          (.udRecbaseFirstWrite d v, UD_RECBASE d)] : List (Instr × Nat)),
        ∃ t, exec r.1 s = .next t ∧ t.reg r.2 = s.reg r.2 ∧ counted t ∧ t.mem = s.mem ∧ t.cores = s.cores ∧ t.dir = s.dir ∧ t.ud0 = s.ud0 ∧ t.ud1 = s.ud1)
    ∧ (∃ t, exec (.timeBeatRead 8) s = .next t ∧ t.out = s.out ++ [.value TIME_BEAT s.beat] ∧ ∀ b, t.reg b = s.reg b)
    ∧ (∃ t, exec (.timeBeatRead 4) s = .next t ∧ t.out = s.out ++ [.value TIME_BEAT (s.beat % 2 ^ 32)]
        ∧ t.rd TIME_BEAT_HIL fTIME_BEAT_HIL_HI = s.beat / 2 ^ 32)
    ∧ ∀ a ∈ [PKG_PERM_DENY, TS_STALE, TIME_LATE], ∃ t, exec (.registerReadClear a 8) s = .next t ∧ t.out = s.out ++ [.value a (s.reg a).toNat]
        ∧ t.reg a = 0 ∧ (∀ b, b ≠ a → t.reg b = s.reg b) ∧ t.mem = s.mem ∧ t.cores = s.cores

/-- Doorbells, frames, completion entries, MSI-X and host errors: what each does to the queues. -/
def Obligations.HostQueuesAndMessages : Prop :=
  ∀ s : State, s.hostUp = true →
    let head := s.rd HIF_SQ fHIF_SQ_HEAD
    let passed : State → Prop := fun t => t.rd HIF_SQ fHIF_SQ_HEAD = (head + 1) % 2 ^ s.rd HIF_SQ fHIF_SQ_LOG2 ∧ t.rd HIF_SQ fHIF_SQ_TAIL = s.rd HIF_SQ fHIF_SQ_TAIL
    let err : State → Prop := fun t => t.rd HIF_EVENTS fHIF_EVENTS_FRAME_ERR = 1
    (∀ v, (v % 2 ^ 16 < 2 ^ s.rd HIF_SQ fHIF_SQ_LOG2 → ∃ t, exec (.submissionDoorbell v) s = .next t ∧ t.rd HIF_SQ fHIF_SQ_TAIL = v % 2 ^ 16
          ∧ t.rd HIF_SQ fHIF_SQ_HEAD = head)
        ∧ (2 ^ s.rd HIF_SQ fHIF_SQ_LOG2 ≤ v % 2 ^ 16 → ∃ t, exec (.submissionDoorbell v) s = .next t ∧ err t ∧ t.reg HIF_SQ = s.reg HIF_SQ))
    ∧ (∀ page k v, 1 ≤ page → page ≤ 239 → k ≤ 63 →
        (s.on (HIF_DBMAP (page - 1)) fHIF_DBMAP_EN = true → s.holds 1 12 = true → exec (.turnstileDoorbell page k v) s = .next { s with
          incs := s.incs ++ [⟨s.rd (HIF_DBMAP (page - 1)) fHIF_DBMAP_BASE / 64 * 64 + k, v % 2 ^ 24, v / 2 ^ 24 % 256, s.node⟩] })
        ∧ (s.on (HIF_DBMAP (page - 1)) fHIF_DBMAP_EN = false → ∃ t, exec (.turnstileDoorbell page k v) s = .next t ∧ err t ∧ t.incs = s.incs))
    ∧ (∀ frame args bit, s.mayFetch = true →
        let f := frameOf frame args
        let seq := s.rd JNL_HEAD fJNL_HEAD_SEQ + 1
        (f.parses 1 = true → cmdBit f.code = some bit → s.firmware = true → s.jnlRoom = true → s.mayCommand 1 (State.needBit 1 f.code bit) = true →
          s.pkg.cmds.length < 64 → ∃ t, exec (.frameFetch frame args) s = .next t ∧ passed t
            ∧ t.pkg.cmds = s.pkg.cmds ++ [⟨seq, f.code, 1, 0, f.tag, f.raddr, f.rlen, f.args, false⟩]
            ∧ (t.jnlAt seq).seq = seq ∧ (t.jnlAt seq).outcome = ocPending ∧ (t.jnlAt seq).code = f.code ∧ (t.jnlAt seq).alen = 8 * f.args.length)
        ∧ (f.parses 1 = false → ∃ t, exec (.frameFetch frame args) s = .next t ∧ passed t ∧ err t ∧ t.pkg.cmds = s.pkg.cmds
            ∧ t.pkg.comps = s.pkg.comps ++ [⟨1, f.tag, stBadArgs, ocRefused, 0, 0, f.raddr, []⟩]))
    ∧ (∀ frame args, head = s.rd HIF_SQ fHIF_SQ_TAIL → exec (.frameFetch frame args) s = .next s)
    ∧ (∀ c, s.on HIF_CTRL fHIF_CTRL_CQEN = true → s.on HIF_STATUS fHIF_STATUS_BME = true → s.oldestComp 1 = some c →
        let t0 := s.rd HIF_CQ fHIF_CQ_TAIL
        let n := 2 ^ s.rd HIF_CQ fHIF_CQ_LOG2
        let ph := s.rd HIF_CQ fHIF_CQ_PHASE
        ∃ t, exec .completionEntryWrite s = .next t ∧ (.host (s.rd HIF_CQ_BASE fHIF_CQ_BASE_ADDR * 2 ^ 12 + 32 * t0) (entryBytes c ph)) ∈ t.out
          ∧ (8 < c.resp.length → c.raddr ≠ 0 → (.host c.raddr c.resp) ∈ t.out) ∧ t.pkg.comps = s.pkg.comps.eraseP (fun x => x.cls = 1)
          ∧ t.rd HIF_CQ fHIF_CQ_TAIL = (t0 + 1) % n ∧ t.rd HIF_CQ fHIF_CQ_PHASE = (if (t0 + 1) % n = 0 then 1 - ph else ph))
    ∧ (s.oldestComp 1 = none → exec .completionEntryWrite s = .next s)
    ∧ (∀ v, ∃ t, exec (.cqHeadWrite v) s = .next t ∧ t.rd HIF_CQ fHIF_CQ_HEAD = v % 2 ^ 16 ∧ t.rd HIF_CQ fHIF_CQ_TAIL = s.rd HIF_CQ fHIF_CQ_TAIL
        ∧ t.rd HIF_CQ fHIF_CQ_PHASE = s.rd HIF_CQ fHIF_CQ_PHASE)
    ∧ (∀ v bme, ∃ t, exec (.cqenWrite v bme) s = .next t ∧ t.rd HIF_CTRL fHIF_CTRL_CQEN = v % 2 ∧ t.on HIF_STATUS fHIF_STATUS_BME = bme
        ∧ (s.on HIF_CTRL fHIF_CTRL_CQEN = false → v % 2 = 1 → t.rd HIF_SQ fHIF_SQ_HEAD = 0 ∧ t.rd HIF_SQ fHIF_SQ_TAIL = 0
            ∧ t.rd HIF_CQ fHIF_CQ_HEAD = 0 ∧ t.rd HIF_CQ fHIF_CQ_TAIL = 0 ∧ t.rd HIF_CQ fHIF_CQ_PHASE = 1 ∧ t.pkg = s.pkg)
        ∧ (s.on HIF_CTRL fHIF_CTRL_CQEN = true → v % 2 = 0 → t.pkg.comps = s.pkg.comps.filter (fun c => c.cls ≠ 1)
            ∧ t.pkg.cmds = s.pkg.cmds.map fun c => if c.cls = 1 then { c with quiet := true } else c))
    ∧ (∀ vec, s.msix.pend = [vec] → ∃ t, exec (.msixUnmask vec true false) s = .next t ∧ t.out = s.out ++ [.msix vec] ∧ t.msix.pend = []
        ∧ vec ∉ t.msix.masked ∧ t.msix.enabled = true)
    ∧ (∀ vec enable, ∃ t, exec (.msixUnmask vec enable true) s = .next t ∧ vec ∈ t.msix.masked ∧ t.regs = s.regs)
    ∧ (∀ seq c, (s.pkg.cmds.find? fun x => x.seq = seq) = some c → c.code = 0x1006 → ∃ t, exec (.dmaTimeout seq []) s = .next t
        ∧ t.pkg.cmds = s.pkg.cmds.filter (fun x => x.seq ≠ seq) ∧ t.rd HIF_EVENTS fHIF_EVENTS_DMA_ERR = 1)
    ∧ (∀ seq frame, (s.pkg.cmds.find? fun x => x.seq = seq) = none → s.mayFetch = true → 40 < (frameOf frame []).alen → frame ≠ [] →
        ∃ t, exec (.dmaTimeout seq frame) s = .next t ∧ passed t ∧ t.rd HIF_EVENTS fHIF_EVENTS_DMA_ERR = 1 ∧ t.pkg.cmds = s.pkg.cmds
          ∧ t.pkg.comps = s.pkg.comps ++ [⟨1, (frameOf frame []).tag, stBadArgs, ocFailed, 0, 0, (frameOf frame []).raddr, []⟩])
    ∧ ∀ addr write, addr < bar2Size → ∃ t, exec (.bar2Timeout addr write) s = .next t ∧ t.rd HIF_BAR2_ERR fHIF_BAR2_ERR_STATUS = 8
        ∧ (t.on HIF_BAR2_ERR fHIF_BAR2_ERR_WRITE = true ↔ write = true) ∧ t.rd HIF_BAR2_EADDR fHIF_BAR2_EADDR_OFFSET = addr
        ∧ t.rd HIF_EVENTS fHIF_EVENTS_BAR2_ERR = 1 ∧ t.mem = s.mem ∧ (write = false → (.pcie 2 []) ∈ t.out)

/-- A reset of the host port empties its queues and leaves the rest of the package; CXL links come up, change, fail and go down. -/
def Obligations.HostResetsAndCxlLinks : Prop :=
  (∀ (s : State) (width rate : Nat) (flit : Bool), s.hostUp = true →
    let fresh : State → Prop := fun t => t.rd HIF_CTRL fHIF_CTRL_CQEN = 0 ∧ t.pkg.comps = s.pkg.comps.filter (fun c => c.cls ≠ 1)
      ∧ (t.pkg.cmds = s.pkg.cmds.map fun c => if c.cls = 1 then { c with quiet := true } else c) ∧ t.mem = s.mem ∧ t.cores = s.cores ∧ t.pwr = s.pwr
      ∧ t.msix.enabled = State.reset.msix.enabled ∧ t.msix.masked = State.reset.msix.masked
    (∃ t, exec .flr s = .next t ∧ fresh t ∧ t.rd HIF_EVENTS fHIF_EVENTS_FLR = 1)
    ∧ (∃ t, exec (.hotReset width rate flit) s = .next t ∧ fresh t ∧ t.rd HIF_EVENTS fHIF_EVENTS_FLR = 1
        ∧ t.rd HIF_STATUS fHIF_STATUS_WIDTH = width % 2 ^ fHIF_STATUS_WIDTH.width)
    ∧ ∃ t, exec (.perst width rate flit) s = .next t ∧ fresh t ∧ t.rd HIF_STATUS fHIF_STATUS_RATE = rate % 2 ^ fHIF_STATUS_RATE.width)
  ∧ (∀ (s : State) (p width rate : Nat) (devs : List CxlDev), s.hostUp = true → s.cxlHere p = true → s.on (HIF_CXL (p - 1)) fHIF_CXL_UP = false →
      devs.length ≤ 4 → (∀ d ∈ devs, d.type3 = true ∧ d.active = true) →
      ∃ t, exec (.cxlLinkUp p width rate devs) s = .next t ∧ t.on (HIF_CXL (p - 1)) fHIF_CXL_UP = true ∧ t.on (TIER_FAR (p - 1)) fTIER_FAR_UP = true
        ∧ t.rd (HIF_CXL (p - 1)) fHIF_CXL_DEVS = devs.length
        ∧ t.rd (TIER_FAR (p - 1)) fTIER_FAR_RANGE = (devs.map fun d => State.cxlRange d.cap).sum % 2 ^ fTIER_FAR_RANGE.width
        ∧ t.rd HIF_EVENTS fHIF_EVENTS_CXL_EVENT = 1 ∧ t.mem.stack = s.mem.stack
        ∧ (sget [] p s.hif.cxl = [] → t.mem.far = s.mem.far)
        ∧ (∀ d, devs = [d] → sget [] p s.hif.cxl = [(d.serial, d.cap)] → t.mem.far = s.mem.far)
        ∧ (sget [] p s.hif.cxl ≠ [] → (sget [] p s.hif.cxl).length ≠ devs.length → t.rd HIF_EVENTS fHIF_EVENTS_CXL_CHANGE = 1
            ∧ t.mem.far = s.mem.far.filter fun c => decide (c.1 / 2 ^ 48 ≠ p - 1)))
  ∧ (∀ (s : State) (p serial : Nat) (on : List (Nat × Nat)), 1 ≤ p → p ≤ 3 → s.hif.cxlWait = [(p, on, [serial])] →
      ∃ t, exec (.cxlDeviceNotActive p serial) s = .next t ∧ t.hif.cxlWait = [] ∧ t.on (TIER_FAR (p - 1)) fTIER_FAR_UP = true
        ∧ t.rd (HIF_CXL (p - 1)) fHIF_CXL_DEVS = on.length % 8 ∧ t.rd HIF_EVENTS fHIF_EVENTS_CXL_EVENT = 1)
  ∧ ∀ (s : State) (p : Nat), s.cxlHere p = true →
      (∃ t, exec (.cxlLinkDown p) s = .next t ∧ t.on (HIF_CXL (p - 1)) fHIF_CXL_UP = false ∧ t.on (TIER_FAR (p - 1)) fTIER_FAR_UP = false
        ∧ t.mem.far = s.mem.far)
      ∧ ∀ fatal, ∃ t, exec (.cxlIoError p fatal) s = .next t ∧ t.rd (HIF_CXL (p - 1)) fHIF_CXL_ERR = min (2 ^ 16 - 1) (s.rd (HIF_CXL (p - 1)) fHIF_CXL_ERR + 1)
          ∧ t.mem.far = s.mem.far
          ∧ (if fatal then t.on (HIF_CXL (p - 1)) fHIF_CXL_UP = false else t.on (HIF_CXL (p - 1)) fHIF_CXL_UP = s.on (HIF_CXL (p - 1)) fHIF_CXL_UP)

/-- SMBus reads answer what their commands name; writes take effect with a correct PEC and are only counted without. -/
def Obligations.ManagementPort : Prop :=
  ∀ s : State, s.hostUp = true →
    let answers : Instr → List Nat → Prop := fun i l => exec i s = .next (s.emit (.smbus true l))
    let temp := Nat.lor s.hif.stTemp s.inForce.1
    let mfr := Nat.lor s.hif.stMfr s.inForce.2
    let word := (if mfr ≠ 0 then 2 ^ 12 else 0) + (if s.hif.stStop = true ∨ s.rd PWR_STATUS fPWR_STATUS_STATE = 3 then 2 ^ 6 else 0)
      + (if temp ≠ 0 then 2 ^ 2 else 0) + (if s.hif.stCml ≠ 0 then 2 else 0)
    let refused : State → Nat → Prop := fun t bit => t.hif.stCml = Nat.lor s.hif.stCml (2 ^ bit) ∧ t.rd HIF_SMB fHIF_SMB_ALERT = 1
    (answers .capability [0xD0] ∧ answers .pmbusRevision [0x44] ∧ answers .mfrId (8 :: [0x48, 0x4F, 0x4B, 0x55, 0x54, 0x52, 0x55, 0x4D])
      ∧ answers .mfrModel (9 :: partName s.pkg.fuse.part) ∧ answers .mfrSerial (8 :: leBytes 8 (s.rd PKG_SERIAL fPKG_SERIAL_SERIAL))
      ∧ answers .statusByte [word % 256] ∧ answers .statusWord (leBytes 2 word) ∧ answers .statusTemperature [temp] ∧ answers .statusMfrSpecific [mfr]
      ∧ answers .statusCml [s.hif.stCml]
      ∧ answers .readTemperature1 (leBytes 2 (31 * 2 ^ 11 + ofInt 11 s.hottest)) ∧ answers .readTemperature2 (leBytes 2 (s.rd PWR_TJ fPWR_TJ_STACKT))
      ∧ answers .readTemperature3 (leBytes 2 (linear11 (-3) (Int.ofNat (nearestEven (s.rd PWR_COOL fPWR_COOL_INLET) 2))))
      ∧ (∀ n, n < 16 → nearestEven (s.rd PWR_POWER fPWR_POWER_P1MS) (2 ^ n) ≤ 1023 → (∀ k, k < n → 1023 < nearestEven (s.rd PWR_POWER fPWR_POWER_P1MS) (2 ^ k)) →
          answers .readPin (leBytes 2 (n * 2 ^ 11 + nearestEven (s.rd PWR_POWER fPWR_POWER_P1MS) (2 ^ n))))
      ∧ ∀ w pec, answers (.mfrBudget false w pec) (leBytes 2 (s.rd PWR_BUDGET fPWR_BUDGET_WATTS)))
    ∧ (∀ (data frame : List Nat) (w : Nat), ∀ i ∈ [.clearFaults false, .mfrCoolant data false, .mfrBudget true w false, .mfrCmd frame false],
        ∃ t, exec i s = .next t ∧ refused t 5 ∧ t.pkg = s.pkg ∧ t.pwr = s.pwr
          ∧ t.rd HIF_SMB fHIF_SMB_PECERR = min (2 ^ 16 - 1) (s.rd HIF_SMB fHIF_SMB_PECERR + 1))
    ∧ (∃ t, exec (.clearFaults true) s = .next t ∧ t.hif.stCml = 0 ∧ t.hif.stTemp = s.inForce.1 ∧ t.hif.stMfr = s.inForce.2
        ∧ t.rd HIF_SMB fHIF_SMB_ALERT = 0)
    ∧ (∀ data : List Nat, data.length ≠ 7 → ∃ t, exec (.mfrCoolant data true) s = .next t ∧ refused t 6 ∧ t.pwr = s.pwr)
    ∧ (∀ data : List Nat, data.length = 7 → (∀ b ∈ data, b < 256) → s.pkState ≠ pkHalted →
        let inlet := imgNum data 0 2
        let outlet := imgNum data 2 2
        let flow := imgNum data 4 2
        let seq := imgNum data 6 1
        inlet ≤ 1440 → outlet ≤ 1440 → flow ≤ 1000 → s.pwr.reports = [] ∨ seq ≠ s.rd PWR_COOL fPWR_COOL_SEQ →
        ∃ t, exec (.mfrCoolant data true) s = .next t ∧ t.rd PWR_COOL fPWR_COOL_INLET = inlet ∧ t.rd PWR_COOL fPWR_COOL_OUTLET = outlet
          ∧ t.rd PWR_COOL fPWR_COOL_FLOW = flow ∧ t.rd PWR_COOL fPWR_COOL_SEQ = seq ∧ t.rd PWR_STATUS fPWR_STATUS_ASSUMED = 0
          ∧ t.rd PWR_COOL_STAT fPWR_COOL_STAT_ACCEPTED = min (2 ^ 16 - 1) (s.rd PWR_COOL_STAT fPWR_COOL_STAT_ACCEPTED + 1)
          ∧ t.rd PWR_LIMITS fPWR_LIMITS_COOL = s.ceiling * min 180 flow / 180)
    ∧ (∀ w, s.firmware = true → s.jnlRoom = true → s.mayCommand 0 7 = true → s.pkg.cmds = [] →
        let seq := s.rd JNL_HEAD fJNL_HEAD_SEQ + 1
        ∃ t, exec (.mfrBudget true w true) s = .next t ∧ t.rd PWR_BUDGET fPWR_BUDGET_WATTS = w % 2 ^ 16 ∧ t.pwr.bpmNext = some (w % 2 ^ 16)
          ∧ (t.jnlAt seq).seq = seq ∧ (t.jnlAt seq).code = 0x0F01 ∧ (t.jnlAt seq).outcome = ocDone ∧ t.pkg.cmds = [] ∧ t.pkg.comps = s.pkg.comps)
    ∧ (∀ (frame : List Nat) (bit : Nat), frame.length = 64 → (s.pkg.comps.filter fun c => c.cls = 0).length < 8 →
        let f := frameOf frame []
        f.parses 0 = true → cmdBit f.code = some bit → s.firmware = true → s.jnlRoom = true → s.mayCommand 0 bit = true → s.pkg.cmds.length < 64 →
        ∃ t, exec (.mfrCmd frame true) s = .next t
          ∧ t.pkg.cmds = s.pkg.cmds ++ [⟨s.rd JNL_HEAD fJNL_HEAD_SEQ + 1, f.code, 0, 0, f.tag, f.raddr, f.rlen, f.args, false⟩]
          ∧ t.rd HIF_SMB fHIF_SMB_FRAMES = min (2 ^ 16 - 1) (s.rd HIF_SMB fHIF_SMB_FRAMES + 1))
    ∧ (∀ frame : List Nat, 8 ≤ (s.pkg.comps.filter fun c => c.cls = 0).length → ∃ t, exec (.mfrCmd frame true) s = .next t ∧ refused t 1 ∧ t.pkg = s.pkg
        ∧ (.smbus false []) ∈ t.out)
    ∧ (∀ c, s.oldestComp 0 = some c → ∃ t, exec .mfrRsp s = .next t ∧ t.pkg.comps = s.pkg.comps.eraseP (fun x => x.cls = 0)
        ∧ t.out = s.out ++ [.smbus true ((32 + min 192 c.resp.length) :: (entryBytes c 0 ++ c.resp.take 192))])
    ∧ (s.oldestComp 0 = none → answers .mfrRsp [0])
    ∧ (∀ code, code ∉ smbusCodes → ∃ t, exec (.smbusInvalidCommand code) s = .next t ∧ refused t 7 ∧ t.pkg = s.pkg ∧ (.smbus false []) ∈ t.out
        ∧ t.rd HIF_SMB fHIF_SMB_NACK = min (2 ^ 16 - 1) (s.rd HIF_SMB fHIF_SMB_NACK + 1))
    ∧ (s.on HIF_SMB fHIF_SMB_ALERT = true → ∃ t, exec (.alertResponse true) s = .next t ∧ t.rd HIF_SMB fHIF_SMB_ALERT = 0
        ∧ t.out = s.out ++ [.smbus true [s.rd HIF_SMB fHIF_SMB_ADDR]])
    ∧ exec (.alertResponse false) s = .next s

/-- Boundary scan takes the pins only in RESET and RECOVERY; debug accesses and commands work only with the lock open. -/
def Obligations.TestPortAndDebug : Prop :=
  ∀ s : State,
    let acts : Prop := s.pkState = pkReset ∨ s.pkState = pkRecovery
    let openLock : Prop := s.hostUp = true ∧ s.on PKG_LOCK fPKG_LOCK_DBG_LOCKED = false
    (∀ pins bits : Nat,
      (acts → ∃ t, exec (.extest pins bits) s = .next t ∧ t.hif.scan = bits ∧ t.hif.drive = 1 ∧ t.out = s.out ++ [.jtag pins] ∧ t.regs = s.regs)
      ∧ (acts → ∃ t, exec .clamp s = .next t ∧ t.hif.scan = s.hif.scan ∧ t.hif.drive = 1 ∧ t.out = s.out ++ [.jtag 0] ∧ t.regs = s.regs)
      ∧ (acts → ∃ t, exec .highz s = .next t ∧ t.hif.scan = s.hif.scan ∧ t.hif.drive = 2 ∧ t.out = s.out ++ [.jtag 0] ∧ t.regs = s.regs)
      ∧ (¬ acts → ∀ i ∈ [.extest pins bits, .clamp, .highz], ∃ t, exec i s = .next t ∧ t.hif.scan = s.hif.scan ∧ t.hif.drive = 0
          ∧ t.out = s.out ++ [.jtag 0] ∧ t.rd HIF_JTAG fHIF_JTAG_REFUSED = 1)
      ∧ (∃ t, exec (.samplePreload pins bits) s = .next t ∧ t.hif.scan = bits ∧ t.hif.drive = 0 ∧ t.out = s.out ++ [.jtag pins] ∧ t.regs = s.regs))
    ∧ (∃ t, exec .bypass s = .next t ∧ t.hif.drive = 0 ∧ t.hif.scan = s.hif.scan ∧ t.out = s.out ++ [.jtag 0] ∧ t.regs = s.regs)
    ∧ (∃ t w, exec .idcode s = .next t ∧ t.out = s.out ++ [.jtag w] ∧ w % 2 = 1 ∧ w / 2 ^ 12 % 2 ^ 16 = s.rd PKG_ID fPKG_ID_DEVID % 2 ^ 16
        ∧ w / 2 ^ 28 = s.rd PKG_REV fPKG_REV_CD % 16 ∧ t.regs = s.regs)
    ∧ (openLock → ∀ a ∈ [PKG_SERIAL, TIME_BEAT], ∀ data, data < 2 ^ 64 → ∃ t, exec (.dbgreg (a * 2 ^ 64 + data)) s = .next t
        ∧ t.out = s.out ++ [.jtag s.hif.dbgData] ∧ t.hif.dbgData = (s.reg a).toNat ∧ t.mem = s.mem ∧ t.cores = s.cores)
    ∧ (openLock → ∀ data, data < 2 ^ 32 → ∃ t, exec (.dbgreg (2 ^ 95 + HIF_TMO * 2 ^ 64 + data)) s = .next t
        ∧ t.rd HIF_TMO fHIF_TMO_BAR2 = max 100 (data % 2 ^ 16) ∧ t.rd HIF_TMO fHIF_TMO_DMA = max 1 (data / 2 ^ 16) ∧ t.hif.dbgData = s.hif.dbgData)
    ∧ (s.on PKG_LOCK fPKG_LOCK_DBG_LOCKED = true → ∀ word, ∃ t, exec (.dbgreg word) s = .next t ∧ t.rd HIF_JTAG fHIF_JTAG_REFUSED = 1
        ∧ t.mem = s.mem ∧ t.cores = s.cores ∧ (∀ b, b ≠ HIF_JTAG → t.reg b = s.reg b) ∧ (word / 2 ^ 95 % 2 = 0 → t.hif.dbgData = 0))
    ∧ (∀ (frame : List Nat) (bit : Nat),
        let f := frameOf frame []
        let seq := s.rd JNL_HEAD fJNL_HEAD_SEQ + 1
        (openLock → f.parses 4 = true → cmdBit f.code = some bit → s.firmware = true → s.jnlRoom = true → s.mayCommand 4 bit = true →
          s.pkg.cmds.length < 64 → ∃ t, exec (.dbgcmd frame) s = .next t
            ∧ t.pkg.cmds = s.pkg.cmds ++ [⟨seq, f.code, 4, 0, f.tag, f.raddr, f.rlen, f.args, false⟩])
        ∧ (s.hostUp = true → s.on PKG_LOCK fPKG_LOCK_DBG_LOCKED = true → s.jnlRoom = true → ∃ t, exec (.dbgcmd frame) s = .next t ∧ t.pkg.cmds = s.pkg.cmds
            ∧ (t.jnlAt seq).seq = seq ∧ (t.jnlAt seq).outcome = ocRefused ∧ (t.jnlAt seq).status = stPermDenied
            ∧ t.pkg.comps = s.pkg.comps ++ [⟨4, f.tag, stPermDenied, ocRefused, seq, 0, 0, []⟩] ∧ t.mem = s.mem ∧ t.cores = s.cores))
    ∧ (∀ c, s.oldestComp 4 = some c → ∃ t, exec .dbgcmdCapture s = .next t ∧ t.pkg.comps = s.pkg.comps.eraseP (fun x => x.cls = 4)
        ∧ t.out = s.out ++ [.jtag (ofLeBytes (entryBytes c 0 ++ c.resp.take 32))]
        ∧ (t.rd HIF_JTAG fHIF_JTAG_DBG_PEND = 1 ↔ t.oldestComp 4 ≠ none))
    ∧ (s.oldestComp 4 = none → exec .dbgcmdCapture s = .next (s.emit (.jtag 0)))
end

