-- ==== Sys2Proof/Laws/Sparse.lean ====
section
/-!
SUPPORT. Laws/Sparse.lean: sparse data: reading after writing, and that every operation keeps the canonical form.
-/

namespace Sys2Proof.Machine

variable {V : Type}

theorem sget_sdel_same (d : V) (k : Nat) (l : List (Nat × V)) : sget d k (sdel k l) = d := by
  induction l with
  | nil => rfl
  | cons p t ih => by_cases h : p.1 = k <;> simp [sdel, sget, h, ih]

theorem sget_sdel_other (d : V) {j k : Nat} (h : j ≠ k) (l : List (Nat × V)) : sget d j (sdel k l) = sget d j l := by
  induction l with
  | nil => rfl
  | cons p t ih =>
    by_cases hk : p.1 = k
    · have : ¬ p.1 = j := fun hj => h (hj.symm.trans hk)
      simp [sdel, sget, hk, ih, Ne.symm h]
    · by_cases hj : p.1 = j <;> simp_all [sdel, sget]

theorem sget_sins_same (d : V) (k : Nat) (v : V) (l : List (Nat × V)) (h : ∀ p ∈ l, p.1 ≠ k) : sget d k (sins k v l) = v := by
  induction l with
  | nil => simp [sins, sget]
  | cons p t ih =>
    have hp := h p (by simp)
    by_cases hk : k < p.1
    · simp [sins, sget, hk]
    · simp [sins, sget, hk, hp, ih fun q hq => h q (by simp [hq])]

theorem sget_sins_other (d : V) {j k : Nat} (h : j ≠ k) (v : V) (l : List (Nat × V)) : sget d j (sins k v l) = sget d j l := by
  induction l with
  | nil => simp [sins, sget, Ne.symm h]
  | cons p t ih =>
    by_cases hk : k < p.1
    · simp [sins, sget, hk, Ne.symm h]
    · by_cases hj : p.1 = j
      · rw [sins, if_neg hk, sget, sget, if_pos hj, if_pos hj]
      · rw [sins, if_neg hk, sget, sget, if_neg hj, if_neg hj, ih]

theorem mem_sdel {k : Nat} {p : Nat × V} (l : List (Nat × V)) : p ∈ sdel k l ↔ p ∈ l ∧ p.1 ≠ k := by
  induction l with
  | nil => simp [sdel]
  | cons q t ih =>
    by_cases h : q.1 = k
    · simp only [sdel, h, if_true, ih, List.mem_cons]
      constructor
      · exact fun ⟨a, b⟩ => ⟨.inr a, b⟩
      · rintro ⟨rfl | a, b⟩
        · exact absurd h b
        · exact ⟨a, b⟩
    · simp only [sdel, h, if_false, List.mem_cons, ih]
      constructor
      · rintro (rfl | ⟨a, b⟩)
        · exact ⟨.inl rfl, h⟩
        · exact ⟨.inr a, b⟩
      · rintro ⟨rfl | a, b⟩
        · exact .inl rfl
        · exact .inr ⟨a, b⟩

/-- Reading what was written. -/
@[simp] theorem sget_sput_same [DecidableEq V] (d : V) (k : Nat) (v : V) (l : List (Nat × V)) : sget d k (sput d k v l) = v := by
  unfold sput
  split
  · rename_i h; rw [sget_sdel_same, h]
  · exact sget_sins_same d k v _ fun p hp => ((mem_sdel l).1 hp).2

/-- A write leaves every other place alone. -/
theorem sget_sput_other [DecidableEq V] (d : V) {j k : Nat} (h : j ≠ k) (d' v : V) (l : List (Nat × V)) : sget d j (sput d' k v l) = sget d j l := by
  unfold sput
  split
  · exact sget_sdel_other d h l
  · rw [sget_sins_other d h, sget_sdel_other d h]

theorem keysFrom_mono {a b : Nat} (h : a ≤ b) (l : List (Nat × V)) : keysFrom b l = true → keysFrom a l = true := by
  cases l with
  | nil => simp [keysFrom]
  | cons p t => simp only [keysFrom, Bool.and_eq_true, decide_eq_true_eq]; exact fun x => ⟨Nat.le_trans h x.1, x.2⟩

theorem keysFrom_le {lo : Nat} {l : List (Nat × V)} (h : keysFrom lo l = true) : ∀ p ∈ l, lo ≤ p.1 := by
  induction l generalizing lo with
  | nil => simp
  | cons q t ih =>
    simp only [keysFrom, Bool.and_eq_true, decide_eq_true_eq] at h
    intro p hp
    rcases List.mem_cons.1 hp with rfl | hp
    · exact h.1
    · have := ih h.2 p hp; omega

theorem keysFrom_sdel (k : Nat) {lo : Nat} (l : List (Nat × V)) (h : keysFrom lo l = true) : keysFrom lo (sdel k l) = true := by
  induction l generalizing lo with
  | nil => rfl
  | cons p t ih =>
    simp only [keysFrom, Bool.and_eq_true, decide_eq_true_eq] at h
    by_cases hk : p.1 = k
    · simp only [sdel, hk, if_true]
      exact ih (keysFrom_mono (by omega) t h.2)
    · simp only [sdel, hk, if_false, keysFrom, Bool.and_eq_true, decide_eq_true_eq]
      exact ⟨h.1, ih h.2⟩

theorem keysFrom_sins {k : Nat} (v : V) {lo : Nat} (l : List (Nat × V)) (hlo : lo ≤ k) (hk : ∀ p ∈ l, p.1 ≠ k)
    (h : keysFrom lo l = true) : keysFrom lo (sins k v l) = true := by
  induction l generalizing lo with
  | nil => simp [sins, keysFrom, hlo]
  | cons p t ih =>
    simp only [keysFrom, Bool.and_eq_true, decide_eq_true_eq] at h
    by_cases hp : k < p.1
    · simp only [sins, hp, if_true, keysFrom, Bool.and_eq_true, decide_eq_true_eq]
      exact ⟨hlo, by omega, h.2⟩
    · have hne := hk p (by simp)
      simp only [sins, hp, if_false, keysFrom, Bool.and_eq_true, decide_eq_true_eq]
      exact ⟨h.1, ih (by omega) (fun q hq => hk q (by simp [hq])) h.2⟩

theorem mem_sins {k : Nat} {v : V} {p : Nat × V} (l : List (Nat × V)) : p ∈ sins k v l ↔ p = (k, v) ∨ p ∈ l := by
  induction l with
  | nil => simp [sins]
  | cons q t ih => by_cases h : k < q.1 <;> simp [sins, h, ih, or_left_comm]

/-- A write keeps the canonical form. -/
theorem swf_sput [DecidableEq V] (d : Nat → V) (k : Nat) (v : V) {l : List (Nat × V)} (h : swf d l = true) : swf d (sput (d k) k v l) = true := by
  simp only [swf, Bool.and_eq_true, List.all_eq_true, Bool.not_eq_true', decide_eq_false_iff_not] at h ⊢
  unfold sput
  split
  · exact ⟨keysFrom_sdel k l h.1, fun p hp => h.2 p ((mem_sdel l).1 hp).1⟩
  · rename_i hv
    refine ⟨keysFrom_sins v _ (Nat.zero_le k) (fun p hp => ((mem_sdel l).1 hp).2) (keysFrom_sdel k l h.1), ?_⟩
    intro p hp
    rcases (mem_sins _).1 hp with rfl | hp
    · exact hv
    · exact h.2 p ((mem_sdel l).1 hp).1

theorem keysFrom_filter {lo : Nat} (f : Nat × V → Bool) (l : List (Nat × V)) (h : keysFrom lo l = true) :
    keysFrom lo (l.filter f) = true := by
  induction l generalizing lo with
  | nil => rfl
  | cons p t ih =>
    simp only [keysFrom, Bool.and_eq_true, decide_eq_true_eq] at h
    by_cases hp : f p
    · simp only [List.filter_cons_of_pos hp, keysFrom, Bool.and_eq_true, decide_eq_true_eq]
      exact ⟨h.1, ih h.2⟩
    · rw [List.filter_cons_of_neg hp]
      exact ih (keysFrom_mono (by omega) t h.2)

/-- Leaving entries out keeps the canonical form. -/
theorem swf_filter [DecidableEq V] (d : Nat → V) (f : Nat × V → Bool) {l : List (Nat × V)} (h : swf d l = true) : swf d (l.filter f) = true := by
  simp only [swf, Bool.and_eq_true, List.all_eq_true] at h ⊢
  exact ⟨keysFrom_filter f l h.1, fun p hp => h.2 p (List.mem_filter.1 hp).1⟩

theorem mem_sput_cases [DecidableEq V] {d v : V} {k : Nat} {p : Nat × V} {l : List (Nat × V)} (h : p ∈ sput d k v l) :
    p = (k, v) ∨ p ∈ l := by
  unfold sput at h
  split at h
  · exact .inr ((mem_sdel l).1 h).1
  · exact ((mem_sins _).1 h).imp id fun h => ((mem_sdel l).1 h).1

theorem sget_mem_or (d : V) (k : Nat) (l : List (Nat × V)) : sget d k l = d ∨ (k, sget d k l) ∈ l := by
  induction l with
  | nil => exact .inl rfl
  | cons p t ih =>
    by_cases h : p.1 = k
    · right; simp [sget, h]; left; rw [← h]
    · simp only [sget, h, if_false]; exact ih.imp id (List.mem_cons_of_mem p)

/-! Memories of bytes. -/

theorem memPut_wf {m : List Host.Cell} (a : Nat) (b : Byte) (h : Memory.wf m = true) : Memory.wf (memPut m a b) = true :=
  swf_sput (fun _ => (0 : Byte)) a b h

theorem memStore_wf {m : List Host.Cell} (a : Nat) (bs : List Nat) (h : Memory.wf m = true) : Memory.wf (memStore m a bs) = true := by
  induction bs generalizing m a with
  | nil => exact h
  | cons b t ih => exact ih _ (memPut_wf a _ h)

theorem memFilter_wf {m : List Host.Cell} (f : Host.Cell → Bool) (h : Memory.wf m = true) : Memory.wf (m.filter f) = true :=
  swf_filter (fun _ => (0 : Byte)) f h

@[simp] theorem memByte_memPut_same (m : List Host.Cell) (a : Nat) (b : Byte) : memByte (memPut m a b) a = b :=
  sget_sput_same 0 a b m

theorem memByte_memPut_other (m : List Host.Cell) {a c : Nat} (h : c ≠ a) (b : Byte) : memByte (memPut m a b) c = memByte m c :=
  sget_sput_other 0 h 0 b m

/-- A store leaves every byte outside its range alone. -/
theorem memByte_memStore_outside (m : List Host.Cell) (a : Nat) (bs : List Nat) {c : Nat} (h : c < a ∨ a + bs.length ≤ c) :
    memByte (memStore m a bs) c = memByte m c := by
  induction bs generalizing m a with
  | nil => rfl
  | cons b t ih =>
    simp only [List.length_cons] at h
    rw [memStore, ih _ _ (by omega), memByte_memPut_other m (by omega)]

/-- A store is read back byte by byte. -/
theorem memByte_memStore_inside (m : List Host.Cell) (a : Nat) (bs : List Nat) {k : Nat} (h : k < bs.length) :
    memByte (memStore m a bs) (a + k) = BitVec.ofNat 8 (bs.getD k 0) := by
  induction bs generalizing m a k with
  | nil => simp at h
  | cons b t ih =>
    cases k with
    | zero => rw [memStore, memByte_memStore_outside _ _ _ (by omega), Nat.add_zero, memByte_memPut_same]; rfl
    | succ k =>
      simp only [List.length_cons] at h
      rw [memStore, show a + (k + 1) = a + 1 + k by omega, ih _ _ (by omega)]; rfl

/-! The core-local space keeps the canonical form of core memory. -/

theorem CoreSt.ite_wf {p : Prop} [Decidable p] {x y : CoreSt} (hx : Memory.wf x.mem = true) (hy : Memory.wf y.mem = true) :
    Memory.wf (if p then x else y).mem = true := by split <;> assumption

theorem CoreSt.locPut_wf {c : CoreSt} (a b : Nat) (h : Memory.wf c.mem = true) : Memory.wf (c.locPut a b).mem = true := by
  unfold CoreSt.locPut
  refine CoreSt.ite_wf (memPut_wf _ _ h) (CoreSt.ite_wf ?_ h)
  cases hw : winAt (loc32 a - winBase) <;> simp only [hw] <;> exact h

theorem CoreSt.locPuts_wf {c : CoreSt} (a : Nat) (bs : List Nat) (h : Memory.wf c.mem = true) : Memory.wf (c.locPuts a bs).mem = true := by
  induction bs generalizing c a with
  | nil => exact h
  | cons b t ih => exact ih _ (CoreSt.locPut_wf a b h)

theorem CoreSt.healed_wf {c : CoreSt} (a n : Nat) (h : Memory.wf c.mem = true) : Memory.wf (c.healed a n).mem = true := by
  unfold CoreSt.healed
  refine CoreSt.ite_wf ?_ h
  exact h

theorem CoreSt.locStore_wf {c : CoreSt} (a : Nat) (bs : List Nat) (h : Memory.wf c.mem = true) : Memory.wf (c.locStore a bs).mem = true :=
  CoreSt.healed_wf a _ (CoreSt.locPuts_wf a bs h)

end Sys2Proof.Machine
end

