-- ==== Sys2Proof/Laws/State.lean ====
section
/-!
SUPPORT. Laws/State.lean: each update of the state and the fields it leaves as they were, one lemma for each field and update.
-/

namespace Sys2Proof.Machine.State

@[simp] theorem setReg_pending (s : State) (a : Nat) (w : Word) : (s.setReg a w).pending = s.pending := rfl
@[simp] theorem setReg_cores (s : State) (a : Nat) (w : Word) : (s.setReg a w).cores = s.cores := rfl
@[simp] theorem setReg_incs (s : State) (a : Nat) (w : Word) : (s.setReg a w).incs = s.incs := rfl
@[simp] theorem setReg_marks (s : State) (a : Nat) (w : Word) : (s.setReg a w).marks = s.marks := rfl
@[simp] theorem setReg_out (s : State) (a : Nat) (w : Word) : (s.setReg a w).out = s.out := rfl
@[simp] theorem setReg_freeCtr (s : State) (a : Nat) (w : Word) : (s.setReg a w).freeCtr = s.freeCtr := rfl
@[simp] theorem setReg_time (s : State) (a : Nat) (w : Word) : (s.setReg a w).time = s.time := rfl
@[simp] theorem setReg_msix (s : State) (a : Nat) (w : Word) : (s.setReg a w).msix = s.msix := rfl
@[simp] theorem setReg_fab (s : State) (a : Nat) (w : Word) : (s.setReg a w).fab = s.fab := rfl
@[simp] theorem setReg_mem (s : State) (a : Nat) (w : Word) : (s.setReg a w).mem = s.mem := rfl
@[simp] theorem setReg_dir (s : State) (a : Nat) (w : Word) : (s.setReg a w).dir = s.dir := rfl
@[simp] theorem setReg_pwr (s : State) (a : Nat) (w : Word) : (s.setReg a w).pwr = s.pwr := rfl
@[simp] theorem setReg_ud0 (s : State) (a : Nat) (w : Word) : (s.setReg a w).ud0 = s.ud0 := rfl
@[simp] theorem setReg_ud1 (s : State) (a : Nat) (w : Word) : (s.setReg a w).ud1 = s.ud1 := rfl
@[simp] theorem setReg_sched (s : State) (a : Nat) (w : Word) : (s.setReg a w).sched = s.sched := rfl
@[simp] theorem setReg_pkg (s : State) (a : Nat) (w : Word) : (s.setReg a w).pkg = s.pkg := rfl
@[simp] theorem setReg_rm (s : State) (a : Nat) (w : Word) : (s.setReg a w).rm = s.rm := rfl
@[simp] theorem setReg_hif (s : State) (a : Nat) (w : Word) : (s.setReg a w).hif = s.hif := rfl

@[simp] theorem wr_pending (s : State) (a : Nat) (f : Fld) (v : Nat) : (s.wr a f v).pending = s.pending := rfl
@[simp] theorem wr_cores (s : State) (a : Nat) (f : Fld) (v : Nat) : (s.wr a f v).cores = s.cores := rfl
@[simp] theorem wr_incs (s : State) (a : Nat) (f : Fld) (v : Nat) : (s.wr a f v).incs = s.incs := rfl
@[simp] theorem wr_marks (s : State) (a : Nat) (f : Fld) (v : Nat) : (s.wr a f v).marks = s.marks := rfl
@[simp] theorem wr_out (s : State) (a : Nat) (f : Fld) (v : Nat) : (s.wr a f v).out = s.out := rfl
@[simp] theorem wr_freeCtr (s : State) (a : Nat) (f : Fld) (v : Nat) : (s.wr a f v).freeCtr = s.freeCtr := rfl
@[simp] theorem wr_time (s : State) (a : Nat) (f : Fld) (v : Nat) : (s.wr a f v).time = s.time := rfl
@[simp] theorem wr_msix (s : State) (a : Nat) (f : Fld) (v : Nat) : (s.wr a f v).msix = s.msix := rfl
@[simp] theorem wr_fab (s : State) (a : Nat) (f : Fld) (v : Nat) : (s.wr a f v).fab = s.fab := rfl
@[simp] theorem wr_mem (s : State) (a : Nat) (f : Fld) (v : Nat) : (s.wr a f v).mem = s.mem := rfl
@[simp] theorem wr_dir (s : State) (a : Nat) (f : Fld) (v : Nat) : (s.wr a f v).dir = s.dir := rfl
@[simp] theorem wr_pwr (s : State) (a : Nat) (f : Fld) (v : Nat) : (s.wr a f v).pwr = s.pwr := rfl
@[simp] theorem wr_ud0 (s : State) (a : Nat) (f : Fld) (v : Nat) : (s.wr a f v).ud0 = s.ud0 := rfl
@[simp] theorem wr_ud1 (s : State) (a : Nat) (f : Fld) (v : Nat) : (s.wr a f v).ud1 = s.ud1 := rfl
@[simp] theorem wr_sched (s : State) (a : Nat) (f : Fld) (v : Nat) : (s.wr a f v).sched = s.sched := rfl
@[simp] theorem wr_pkg (s : State) (a : Nat) (f : Fld) (v : Nat) : (s.wr a f v).pkg = s.pkg := rfl
@[simp] theorem wr_rm (s : State) (a : Nat) (f : Fld) (v : Nat) : (s.wr a f v).rm = s.rm := rfl
@[simp] theorem wr_hif (s : State) (a : Nat) (f : Fld) (v : Nat) : (s.wr a f v).hif = s.hif := rfl

@[simp] theorem orF_pending (s : State) (a : Nat) (f : Fld) (v : Nat) : (s.orF a f v).pending = s.pending := rfl
@[simp] theorem orF_cores (s : State) (a : Nat) (f : Fld) (v : Nat) : (s.orF a f v).cores = s.cores := rfl
@[simp] theorem orF_incs (s : State) (a : Nat) (f : Fld) (v : Nat) : (s.orF a f v).incs = s.incs := rfl
@[simp] theorem orF_marks (s : State) (a : Nat) (f : Fld) (v : Nat) : (s.orF a f v).marks = s.marks := rfl
@[simp] theorem orF_out (s : State) (a : Nat) (f : Fld) (v : Nat) : (s.orF a f v).out = s.out := rfl
@[simp] theorem orF_freeCtr (s : State) (a : Nat) (f : Fld) (v : Nat) : (s.orF a f v).freeCtr = s.freeCtr := rfl
@[simp] theorem orF_time (s : State) (a : Nat) (f : Fld) (v : Nat) : (s.orF a f v).time = s.time := rfl
@[simp] theorem orF_msix (s : State) (a : Nat) (f : Fld) (v : Nat) : (s.orF a f v).msix = s.msix := rfl
@[simp] theorem orF_fab (s : State) (a : Nat) (f : Fld) (v : Nat) : (s.orF a f v).fab = s.fab := rfl
@[simp] theorem orF_mem (s : State) (a : Nat) (f : Fld) (v : Nat) : (s.orF a f v).mem = s.mem := rfl
@[simp] theorem orF_dir (s : State) (a : Nat) (f : Fld) (v : Nat) : (s.orF a f v).dir = s.dir := rfl
@[simp] theorem orF_pwr (s : State) (a : Nat) (f : Fld) (v : Nat) : (s.orF a f v).pwr = s.pwr := rfl
@[simp] theorem orF_ud0 (s : State) (a : Nat) (f : Fld) (v : Nat) : (s.orF a f v).ud0 = s.ud0 := rfl
@[simp] theorem orF_ud1 (s : State) (a : Nat) (f : Fld) (v : Nat) : (s.orF a f v).ud1 = s.ud1 := rfl
@[simp] theorem orF_sched (s : State) (a : Nat) (f : Fld) (v : Nat) : (s.orF a f v).sched = s.sched := rfl
@[simp] theorem orF_pkg (s : State) (a : Nat) (f : Fld) (v : Nat) : (s.orF a f v).pkg = s.pkg := rfl
@[simp] theorem orF_rm (s : State) (a : Nat) (f : Fld) (v : Nat) : (s.orF a f v).rm = s.rm := rfl
@[simp] theorem orF_hif (s : State) (a : Nat) (f : Fld) (v : Nat) : (s.orF a f v).hif = s.hif := rfl

@[simp] theorem bump_pending (s : State) (a : Nat) (f : Fld) (n : Nat) : (s.bump a f n).pending = s.pending := rfl
@[simp] theorem bump_cores (s : State) (a : Nat) (f : Fld) (n : Nat) : (s.bump a f n).cores = s.cores := rfl
@[simp] theorem bump_incs (s : State) (a : Nat) (f : Fld) (n : Nat) : (s.bump a f n).incs = s.incs := rfl
@[simp] theorem bump_marks (s : State) (a : Nat) (f : Fld) (n : Nat) : (s.bump a f n).marks = s.marks := rfl
@[simp] theorem bump_out (s : State) (a : Nat) (f : Fld) (n : Nat) : (s.bump a f n).out = s.out := rfl
@[simp] theorem bump_freeCtr (s : State) (a : Nat) (f : Fld) (n : Nat) : (s.bump a f n).freeCtr = s.freeCtr := rfl
@[simp] theorem bump_time (s : State) (a : Nat) (f : Fld) (n : Nat) : (s.bump a f n).time = s.time := rfl
@[simp] theorem bump_msix (s : State) (a : Nat) (f : Fld) (n : Nat) : (s.bump a f n).msix = s.msix := rfl
@[simp] theorem bump_fab (s : State) (a : Nat) (f : Fld) (n : Nat) : (s.bump a f n).fab = s.fab := rfl
@[simp] theorem bump_mem (s : State) (a : Nat) (f : Fld) (n : Nat) : (s.bump a f n).mem = s.mem := rfl
@[simp] theorem bump_dir (s : State) (a : Nat) (f : Fld) (n : Nat) : (s.bump a f n).dir = s.dir := rfl
@[simp] theorem bump_pwr (s : State) (a : Nat) (f : Fld) (n : Nat) : (s.bump a f n).pwr = s.pwr := rfl
@[simp] theorem bump_ud0 (s : State) (a : Nat) (f : Fld) (n : Nat) : (s.bump a f n).ud0 = s.ud0 := rfl
@[simp] theorem bump_ud1 (s : State) (a : Nat) (f : Fld) (n : Nat) : (s.bump a f n).ud1 = s.ud1 := rfl
@[simp] theorem bump_sched (s : State) (a : Nat) (f : Fld) (n : Nat) : (s.bump a f n).sched = s.sched := rfl
@[simp] theorem bump_pkg (s : State) (a : Nat) (f : Fld) (n : Nat) : (s.bump a f n).pkg = s.pkg := rfl
@[simp] theorem bump_rm (s : State) (a : Nat) (f : Fld) (n : Nat) : (s.bump a f n).rm = s.rm := rfl
@[simp] theorem bump_hif (s : State) (a : Nat) (f : Fld) (n : Nat) : (s.bump a f n).hif = s.hif := rfl

@[simp] theorem bumpFree_pending (s : State) (a : Nat) (f : Fld) : (s.bumpFree a f).pending = s.pending := rfl
@[simp] theorem bumpFree_cores (s : State) (a : Nat) (f : Fld) : (s.bumpFree a f).cores = s.cores := rfl
@[simp] theorem bumpFree_incs (s : State) (a : Nat) (f : Fld) : (s.bumpFree a f).incs = s.incs := rfl
@[simp] theorem bumpFree_marks (s : State) (a : Nat) (f : Fld) : (s.bumpFree a f).marks = s.marks := rfl
@[simp] theorem bumpFree_out (s : State) (a : Nat) (f : Fld) : (s.bumpFree a f).out = s.out := rfl
@[simp] theorem bumpFree_time (s : State) (a : Nat) (f : Fld) : (s.bumpFree a f).time = s.time := rfl
@[simp] theorem bumpFree_msix (s : State) (a : Nat) (f : Fld) : (s.bumpFree a f).msix = s.msix := rfl
@[simp] theorem bumpFree_fab (s : State) (a : Nat) (f : Fld) : (s.bumpFree a f).fab = s.fab := rfl
@[simp] theorem bumpFree_mem (s : State) (a : Nat) (f : Fld) : (s.bumpFree a f).mem = s.mem := rfl
@[simp] theorem bumpFree_dir (s : State) (a : Nat) (f : Fld) : (s.bumpFree a f).dir = s.dir := rfl
@[simp] theorem bumpFree_pwr (s : State) (a : Nat) (f : Fld) : (s.bumpFree a f).pwr = s.pwr := rfl
@[simp] theorem bumpFree_ud0 (s : State) (a : Nat) (f : Fld) : (s.bumpFree a f).ud0 = s.ud0 := rfl
@[simp] theorem bumpFree_ud1 (s : State) (a : Nat) (f : Fld) : (s.bumpFree a f).ud1 = s.ud1 := rfl
@[simp] theorem bumpFree_sched (s : State) (a : Nat) (f : Fld) : (s.bumpFree a f).sched = s.sched := rfl
@[simp] theorem bumpFree_pkg (s : State) (a : Nat) (f : Fld) : (s.bumpFree a f).pkg = s.pkg := rfl
@[simp] theorem bumpFree_rm (s : State) (a : Nat) (f : Fld) : (s.bumpFree a f).rm = s.rm := rfl
@[simp] theorem bumpFree_hif (s : State) (a : Nat) (f : Fld) : (s.bumpFree a f).hif = s.hif := rfl

@[simp] theorem setCore_pending (s : State) (b : Nat) (c : CoreSt) : (s.setCore b c).pending = s.pending := rfl
@[simp] theorem setCore_regs (s : State) (b : Nat) (c : CoreSt) : (s.setCore b c).regs = s.regs := rfl
@[simp] theorem setCore_incs (s : State) (b : Nat) (c : CoreSt) : (s.setCore b c).incs = s.incs := rfl
@[simp] theorem setCore_marks (s : State) (b : Nat) (c : CoreSt) : (s.setCore b c).marks = s.marks := rfl
@[simp] theorem setCore_out (s : State) (b : Nat) (c : CoreSt) : (s.setCore b c).out = s.out := rfl
@[simp] theorem setCore_freeCtr (s : State) (b : Nat) (c : CoreSt) : (s.setCore b c).freeCtr = s.freeCtr := rfl
@[simp] theorem setCore_time (s : State) (b : Nat) (c : CoreSt) : (s.setCore b c).time = s.time := rfl
@[simp] theorem setCore_msix (s : State) (b : Nat) (c : CoreSt) : (s.setCore b c).msix = s.msix := rfl
@[simp] theorem setCore_fab (s : State) (b : Nat) (c : CoreSt) : (s.setCore b c).fab = s.fab := rfl
@[simp] theorem setCore_mem (s : State) (b : Nat) (c : CoreSt) : (s.setCore b c).mem = s.mem := rfl
@[simp] theorem setCore_dir (s : State) (b : Nat) (c : CoreSt) : (s.setCore b c).dir = s.dir := rfl
@[simp] theorem setCore_pwr (s : State) (b : Nat) (c : CoreSt) : (s.setCore b c).pwr = s.pwr := rfl
@[simp] theorem setCore_ud0 (s : State) (b : Nat) (c : CoreSt) : (s.setCore b c).ud0 = s.ud0 := rfl
@[simp] theorem setCore_ud1 (s : State) (b : Nat) (c : CoreSt) : (s.setCore b c).ud1 = s.ud1 := rfl
@[simp] theorem setCore_sched (s : State) (b : Nat) (c : CoreSt) : (s.setCore b c).sched = s.sched := rfl
@[simp] theorem setCore_pkg (s : State) (b : Nat) (c : CoreSt) : (s.setCore b c).pkg = s.pkg := rfl
@[simp] theorem setCore_rm (s : State) (b : Nat) (c : CoreSt) : (s.setCore b c).rm = s.rm := rfl
@[simp] theorem setCore_hif (s : State) (b : Nat) (c : CoreSt) : (s.setCore b c).hif = s.hif := rfl

@[simp] theorem modCore_pending (s : State) (b : Nat) (f : CoreSt → CoreSt) : (s.modCore b f).pending = s.pending := rfl
@[simp] theorem modCore_regs (s : State) (b : Nat) (f : CoreSt → CoreSt) : (s.modCore b f).regs = s.regs := rfl
@[simp] theorem modCore_incs (s : State) (b : Nat) (f : CoreSt → CoreSt) : (s.modCore b f).incs = s.incs := rfl
@[simp] theorem modCore_marks (s : State) (b : Nat) (f : CoreSt → CoreSt) : (s.modCore b f).marks = s.marks := rfl
@[simp] theorem modCore_out (s : State) (b : Nat) (f : CoreSt → CoreSt) : (s.modCore b f).out = s.out := rfl
@[simp] theorem modCore_freeCtr (s : State) (b : Nat) (f : CoreSt → CoreSt) : (s.modCore b f).freeCtr = s.freeCtr := rfl
@[simp] theorem modCore_time (s : State) (b : Nat) (f : CoreSt → CoreSt) : (s.modCore b f).time = s.time := rfl
@[simp] theorem modCore_msix (s : State) (b : Nat) (f : CoreSt → CoreSt) : (s.modCore b f).msix = s.msix := rfl
@[simp] theorem modCore_fab (s : State) (b : Nat) (f : CoreSt → CoreSt) : (s.modCore b f).fab = s.fab := rfl
@[simp] theorem modCore_mem (s : State) (b : Nat) (f : CoreSt → CoreSt) : (s.modCore b f).mem = s.mem := rfl
@[simp] theorem modCore_dir (s : State) (b : Nat) (f : CoreSt → CoreSt) : (s.modCore b f).dir = s.dir := rfl
@[simp] theorem modCore_pwr (s : State) (b : Nat) (f : CoreSt → CoreSt) : (s.modCore b f).pwr = s.pwr := rfl
@[simp] theorem modCore_ud0 (s : State) (b : Nat) (f : CoreSt → CoreSt) : (s.modCore b f).ud0 = s.ud0 := rfl
@[simp] theorem modCore_ud1 (s : State) (b : Nat) (f : CoreSt → CoreSt) : (s.modCore b f).ud1 = s.ud1 := rfl
@[simp] theorem modCore_sched (s : State) (b : Nat) (f : CoreSt → CoreSt) : (s.modCore b f).sched = s.sched := rfl
@[simp] theorem modCore_pkg (s : State) (b : Nat) (f : CoreSt → CoreSt) : (s.modCore b f).pkg = s.pkg := rfl
@[simp] theorem modCore_rm (s : State) (b : Nat) (f : CoreSt → CoreSt) : (s.modCore b f).rm = s.rm := rfl
@[simp] theorem modCore_hif (s : State) (b : Nat) (f : CoreSt → CoreSt) : (s.modCore b f).hif = s.hif := rfl

@[simp] theorem setStream_pending (s : State) (b i : Nat) (x : Stream) : (s.setStream b i x).pending = s.pending := rfl
@[simp] theorem setStream_regs (s : State) (b i : Nat) (x : Stream) : (s.setStream b i x).regs = s.regs := rfl
@[simp] theorem setStream_incs (s : State) (b i : Nat) (x : Stream) : (s.setStream b i x).incs = s.incs := rfl
@[simp] theorem setStream_marks (s : State) (b i : Nat) (x : Stream) : (s.setStream b i x).marks = s.marks := rfl
@[simp] theorem setStream_out (s : State) (b i : Nat) (x : Stream) : (s.setStream b i x).out = s.out := rfl
@[simp] theorem setStream_freeCtr (s : State) (b i : Nat) (x : Stream) : (s.setStream b i x).freeCtr = s.freeCtr := rfl
@[simp] theorem setStream_time (s : State) (b i : Nat) (x : Stream) : (s.setStream b i x).time = s.time := rfl
@[simp] theorem setStream_msix (s : State) (b i : Nat) (x : Stream) : (s.setStream b i x).msix = s.msix := rfl
@[simp] theorem setStream_fab (s : State) (b i : Nat) (x : Stream) : (s.setStream b i x).fab = s.fab := rfl
@[simp] theorem setStream_mem (s : State) (b i : Nat) (x : Stream) : (s.setStream b i x).mem = s.mem := rfl
@[simp] theorem setStream_dir (s : State) (b i : Nat) (x : Stream) : (s.setStream b i x).dir = s.dir := rfl
@[simp] theorem setStream_pwr (s : State) (b i : Nat) (x : Stream) : (s.setStream b i x).pwr = s.pwr := rfl
@[simp] theorem setStream_ud0 (s : State) (b i : Nat) (x : Stream) : (s.setStream b i x).ud0 = s.ud0 := rfl
@[simp] theorem setStream_ud1 (s : State) (b i : Nat) (x : Stream) : (s.setStream b i x).ud1 = s.ud1 := rfl
@[simp] theorem setStream_sched (s : State) (b i : Nat) (x : Stream) : (s.setStream b i x).sched = s.sched := rfl
@[simp] theorem setStream_pkg (s : State) (b i : Nat) (x : Stream) : (s.setStream b i x).pkg = s.pkg := rfl
@[simp] theorem setStream_rm (s : State) (b i : Nat) (x : Stream) : (s.setStream b i x).rm = s.rm := rfl
@[simp] theorem setStream_hif (s : State) (b i : Nat) (x : Stream) : (s.setStream b i x).hif = s.hif := rfl

@[simp] theorem emit_pending (s : State) (o : Out) : (s.emit o).pending = s.pending := rfl
@[simp] theorem emit_regs (s : State) (o : Out) : (s.emit o).regs = s.regs := rfl
@[simp] theorem emit_cores (s : State) (o : Out) : (s.emit o).cores = s.cores := rfl
@[simp] theorem emit_incs (s : State) (o : Out) : (s.emit o).incs = s.incs := rfl
@[simp] theorem emit_marks (s : State) (o : Out) : (s.emit o).marks = s.marks := rfl
@[simp] theorem emit_freeCtr (s : State) (o : Out) : (s.emit o).freeCtr = s.freeCtr := rfl
@[simp] theorem emit_time (s : State) (o : Out) : (s.emit o).time = s.time := rfl
@[simp] theorem emit_msix (s : State) (o : Out) : (s.emit o).msix = s.msix := rfl
@[simp] theorem emit_fab (s : State) (o : Out) : (s.emit o).fab = s.fab := rfl
@[simp] theorem emit_mem (s : State) (o : Out) : (s.emit o).mem = s.mem := rfl
@[simp] theorem emit_dir (s : State) (o : Out) : (s.emit o).dir = s.dir := rfl
@[simp] theorem emit_pwr (s : State) (o : Out) : (s.emit o).pwr = s.pwr := rfl
@[simp] theorem emit_ud0 (s : State) (o : Out) : (s.emit o).ud0 = s.ud0 := rfl
@[simp] theorem emit_ud1 (s : State) (o : Out) : (s.emit o).ud1 = s.ud1 := rfl
@[simp] theorem emit_sched (s : State) (o : Out) : (s.emit o).sched = s.sched := rfl
@[simp] theorem emit_pkg (s : State) (o : Out) : (s.emit o).pkg = s.pkg := rfl
@[simp] theorem emit_rm (s : State) (o : Out) : (s.emit o).rm = s.rm := rfl
@[simp] theorem emit_hif (s : State) (o : Out) : (s.emit o).hif = s.hif := rfl

@[simp] theorem modMem_pending (s : State) (f : MemSt → MemSt) : (s.modMem f).pending = s.pending := rfl
@[simp] theorem modMem_regs (s : State) (f : MemSt → MemSt) : (s.modMem f).regs = s.regs := rfl
@[simp] theorem modMem_cores (s : State) (f : MemSt → MemSt) : (s.modMem f).cores = s.cores := rfl
@[simp] theorem modMem_incs (s : State) (f : MemSt → MemSt) : (s.modMem f).incs = s.incs := rfl
@[simp] theorem modMem_marks (s : State) (f : MemSt → MemSt) : (s.modMem f).marks = s.marks := rfl
@[simp] theorem modMem_out (s : State) (f : MemSt → MemSt) : (s.modMem f).out = s.out := rfl
@[simp] theorem modMem_freeCtr (s : State) (f : MemSt → MemSt) : (s.modMem f).freeCtr = s.freeCtr := rfl
@[simp] theorem modMem_time (s : State) (f : MemSt → MemSt) : (s.modMem f).time = s.time := rfl
@[simp] theorem modMem_msix (s : State) (f : MemSt → MemSt) : (s.modMem f).msix = s.msix := rfl
@[simp] theorem modMem_fab (s : State) (f : MemSt → MemSt) : (s.modMem f).fab = s.fab := rfl
@[simp] theorem modMem_dir (s : State) (f : MemSt → MemSt) : (s.modMem f).dir = s.dir := rfl
@[simp] theorem modMem_pwr (s : State) (f : MemSt → MemSt) : (s.modMem f).pwr = s.pwr := rfl
@[simp] theorem modMem_ud0 (s : State) (f : MemSt → MemSt) : (s.modMem f).ud0 = s.ud0 := rfl
@[simp] theorem modMem_ud1 (s : State) (f : MemSt → MemSt) : (s.modMem f).ud1 = s.ud1 := rfl
@[simp] theorem modMem_sched (s : State) (f : MemSt → MemSt) : (s.modMem f).sched = s.sched := rfl
@[simp] theorem modMem_pkg (s : State) (f : MemSt → MemSt) : (s.modMem f).pkg = s.pkg := rfl
@[simp] theorem modMem_rm (s : State) (f : MemSt → MemSt) : (s.modMem f).rm = s.rm := rfl
@[simp] theorem modMem_hif (s : State) (f : MemSt → MemSt) : (s.modMem f).hif = s.hif := rfl

@[simp] theorem modFab_pending (s : State) (f : FabSt → FabSt) : (s.modFab f).pending = s.pending := rfl
@[simp] theorem modFab_regs (s : State) (f : FabSt → FabSt) : (s.modFab f).regs = s.regs := rfl
@[simp] theorem modFab_cores (s : State) (f : FabSt → FabSt) : (s.modFab f).cores = s.cores := rfl
@[simp] theorem modFab_incs (s : State) (f : FabSt → FabSt) : (s.modFab f).incs = s.incs := rfl
@[simp] theorem modFab_marks (s : State) (f : FabSt → FabSt) : (s.modFab f).marks = s.marks := rfl
@[simp] theorem modFab_out (s : State) (f : FabSt → FabSt) : (s.modFab f).out = s.out := rfl
@[simp] theorem modFab_freeCtr (s : State) (f : FabSt → FabSt) : (s.modFab f).freeCtr = s.freeCtr := rfl
@[simp] theorem modFab_time (s : State) (f : FabSt → FabSt) : (s.modFab f).time = s.time := rfl
@[simp] theorem modFab_msix (s : State) (f : FabSt → FabSt) : (s.modFab f).msix = s.msix := rfl
@[simp] theorem modFab_mem (s : State) (f : FabSt → FabSt) : (s.modFab f).mem = s.mem := rfl
@[simp] theorem modFab_dir (s : State) (f : FabSt → FabSt) : (s.modFab f).dir = s.dir := rfl
@[simp] theorem modFab_pwr (s : State) (f : FabSt → FabSt) : (s.modFab f).pwr = s.pwr := rfl
@[simp] theorem modFab_ud0 (s : State) (f : FabSt → FabSt) : (s.modFab f).ud0 = s.ud0 := rfl
@[simp] theorem modFab_ud1 (s : State) (f : FabSt → FabSt) : (s.modFab f).ud1 = s.ud1 := rfl
@[simp] theorem modFab_sched (s : State) (f : FabSt → FabSt) : (s.modFab f).sched = s.sched := rfl
@[simp] theorem modFab_pkg (s : State) (f : FabSt → FabSt) : (s.modFab f).pkg = s.pkg := rfl
@[simp] theorem modFab_rm (s : State) (f : FabSt → FabSt) : (s.modFab f).rm = s.rm := rfl
@[simp] theorem modFab_hif (s : State) (f : FabSt → FabSt) : (s.modFab f).hif = s.hif := rfl

@[simp] theorem modPort_pending (s : State) (p : Nat) (f : PortSt → PortSt) : (s.modPort p f).pending = s.pending := rfl
@[simp] theorem modPort_regs (s : State) (p : Nat) (f : PortSt → PortSt) : (s.modPort p f).regs = s.regs := rfl
@[simp] theorem modPort_cores (s : State) (p : Nat) (f : PortSt → PortSt) : (s.modPort p f).cores = s.cores := rfl
@[simp] theorem modPort_incs (s : State) (p : Nat) (f : PortSt → PortSt) : (s.modPort p f).incs = s.incs := rfl
@[simp] theorem modPort_marks (s : State) (p : Nat) (f : PortSt → PortSt) : (s.modPort p f).marks = s.marks := rfl
@[simp] theorem modPort_out (s : State) (p : Nat) (f : PortSt → PortSt) : (s.modPort p f).out = s.out := rfl
@[simp] theorem modPort_freeCtr (s : State) (p : Nat) (f : PortSt → PortSt) : (s.modPort p f).freeCtr = s.freeCtr := rfl
@[simp] theorem modPort_time (s : State) (p : Nat) (f : PortSt → PortSt) : (s.modPort p f).time = s.time := rfl
@[simp] theorem modPort_msix (s : State) (p : Nat) (f : PortSt → PortSt) : (s.modPort p f).msix = s.msix := rfl
@[simp] theorem modPort_mem (s : State) (p : Nat) (f : PortSt → PortSt) : (s.modPort p f).mem = s.mem := rfl
@[simp] theorem modPort_dir (s : State) (p : Nat) (f : PortSt → PortSt) : (s.modPort p f).dir = s.dir := rfl
@[simp] theorem modPort_pwr (s : State) (p : Nat) (f : PortSt → PortSt) : (s.modPort p f).pwr = s.pwr := rfl
@[simp] theorem modPort_ud0 (s : State) (p : Nat) (f : PortSt → PortSt) : (s.modPort p f).ud0 = s.ud0 := rfl
@[simp] theorem modPort_ud1 (s : State) (p : Nat) (f : PortSt → PortSt) : (s.modPort p f).ud1 = s.ud1 := rfl
@[simp] theorem modPort_sched (s : State) (p : Nat) (f : PortSt → PortSt) : (s.modPort p f).sched = s.sched := rfl
@[simp] theorem modPort_pkg (s : State) (p : Nat) (f : PortSt → PortSt) : (s.modPort p f).pkg = s.pkg := rfl
@[simp] theorem modPort_rm (s : State) (p : Nat) (f : PortSt → PortSt) : (s.modPort p f).rm = s.rm := rfl
@[simp] theorem modPort_hif (s : State) (p : Nat) (f : PortSt → PortSt) : (s.modPort p f).hif = s.hif := rfl

@[simp] theorem sendMsi_pending (s : State) (v : Nat) : (s.sendMsi v).pending = s.pending := by unfold State.sendMsi; split <;> rfl
@[simp] theorem sendMsi_regs (s : State) (v : Nat) : (s.sendMsi v).regs = s.regs := by unfold State.sendMsi; split <;> rfl
@[simp] theorem sendMsi_cores (s : State) (v : Nat) : (s.sendMsi v).cores = s.cores := by unfold State.sendMsi; split <;> rfl
@[simp] theorem sendMsi_incs (s : State) (v : Nat) : (s.sendMsi v).incs = s.incs := by unfold State.sendMsi; split <;> rfl
@[simp] theorem sendMsi_marks (s : State) (v : Nat) : (s.sendMsi v).marks = s.marks := by unfold State.sendMsi; split <;> rfl
@[simp] theorem sendMsi_freeCtr (s : State) (v : Nat) : (s.sendMsi v).freeCtr = s.freeCtr := by unfold State.sendMsi; split <;> rfl
@[simp] theorem sendMsi_time (s : State) (v : Nat) : (s.sendMsi v).time = s.time := by unfold State.sendMsi; split <;> rfl
@[simp] theorem sendMsi_fab (s : State) (v : Nat) : (s.sendMsi v).fab = s.fab := by unfold State.sendMsi; split <;> rfl
@[simp] theorem sendMsi_mem (s : State) (v : Nat) : (s.sendMsi v).mem = s.mem := by unfold State.sendMsi; split <;> rfl
@[simp] theorem sendMsi_dir (s : State) (v : Nat) : (s.sendMsi v).dir = s.dir := by unfold State.sendMsi; split <;> rfl
@[simp] theorem sendMsi_pwr (s : State) (v : Nat) : (s.sendMsi v).pwr = s.pwr := by unfold State.sendMsi; split <;> rfl
@[simp] theorem sendMsi_ud0 (s : State) (v : Nat) : (s.sendMsi v).ud0 = s.ud0 := by unfold State.sendMsi; split <;> rfl
@[simp] theorem sendMsi_ud1 (s : State) (v : Nat) : (s.sendMsi v).ud1 = s.ud1 := by unfold State.sendMsi; split <;> rfl
@[simp] theorem sendMsi_sched (s : State) (v : Nat) : (s.sendMsi v).sched = s.sched := by unfold State.sendMsi; split <;> rfl
@[simp] theorem sendMsi_pkg (s : State) (v : Nat) : (s.sendMsi v).pkg = s.pkg := by unfold State.sendMsi; split <;> rfl
@[simp] theorem sendMsi_rm (s : State) (v : Nat) : (s.sendMsi v).rm = s.rm := by unfold State.sendMsi; split <;> rfl
@[simp] theorem sendMsi_hif (s : State) (v : Nat) : (s.sendMsi v).hif = s.hif := by unfold State.sendMsi; split <;> rfl

@[simp] theorem notify_pending (s0 s : State) (a : Nat) : (notify s0 s a).pending = s.pending := by
  unfold State.notify; split <;> first | rfl | (split <;> simp)
@[simp] theorem notify_regs (s0 s : State) (a : Nat) : (notify s0 s a).regs = s.regs := by
  unfold State.notify; split <;> first | rfl | (split <;> simp)
@[simp] theorem notify_cores (s0 s : State) (a : Nat) : (notify s0 s a).cores = s.cores := by
  unfold State.notify; split <;> first | rfl | (split <;> simp)
@[simp] theorem notify_incs (s0 s : State) (a : Nat) : (notify s0 s a).incs = s.incs := by
  unfold State.notify; split <;> first | rfl | (split <;> simp)
@[simp] theorem notify_marks (s0 s : State) (a : Nat) : (notify s0 s a).marks = s.marks := by
  unfold State.notify; split <;> first | rfl | (split <;> simp)
@[simp] theorem notify_freeCtr (s0 s : State) (a : Nat) : (notify s0 s a).freeCtr = s.freeCtr := by
  unfold State.notify; split <;> first | rfl | (split <;> simp)
@[simp] theorem notify_time (s0 s : State) (a : Nat) : (notify s0 s a).time = s.time := by
  unfold State.notify; split <;> first | rfl | (split <;> simp)
@[simp] theorem notify_fab (s0 s : State) (a : Nat) : (notify s0 s a).fab = s.fab := by
  unfold State.notify; split <;> first | rfl | (split <;> simp)
@[simp] theorem notify_mem (s0 s : State) (a : Nat) : (notify s0 s a).mem = s.mem := by
  unfold State.notify; split <;> first | rfl | (split <;> simp)
@[simp] theorem notify_dir (s0 s : State) (a : Nat) : (notify s0 s a).dir = s.dir := by
  unfold State.notify; split <;> first | rfl | (split <;> simp)
@[simp] theorem notify_pwr (s0 s : State) (a : Nat) : (notify s0 s a).pwr = s.pwr := by
  unfold State.notify; split <;> first | rfl | (split <;> simp)
@[simp] theorem notify_ud0 (s0 s : State) (a : Nat) : (notify s0 s a).ud0 = s.ud0 := by
  unfold State.notify; split <;> first | rfl | (split <;> simp)
@[simp] theorem notify_ud1 (s0 s : State) (a : Nat) : (notify s0 s a).ud1 = s.ud1 := by
  unfold State.notify; split <;> first | rfl | (split <;> simp)
@[simp] theorem notify_sched (s0 s : State) (a : Nat) : (notify s0 s a).sched = s.sched := by
  unfold State.notify; split <;> first | rfl | (split <;> simp)
@[simp] theorem notify_pkg (s0 s : State) (a : Nat) : (notify s0 s a).pkg = s.pkg := by
  unfold State.notify; split <;> first | rfl | (split <;> simp)
@[simp] theorem notify_rm (s0 s : State) (a : Nat) : (notify s0 s a).rm = s.rm := by
  unfold State.notify; split <;> first | rfl | (split <;> simp)
@[simp] theorem notify_hif (s0 s : State) (a : Nat) : (notify s0 s a).hif = s.hif := by
  unfold State.notify; split <;> first | rfl | (split <;> simp)

@[simp] theorem raise_pending (s : State) (a : Nat) (f : Fld) : (s.raise a f).pending = s.pending := by simp [State.raise]
@[simp] theorem raise_cores (s : State) (a : Nat) (f : Fld) : (s.raise a f).cores = s.cores := by simp [State.raise]
@[simp] theorem raise_incs (s : State) (a : Nat) (f : Fld) : (s.raise a f).incs = s.incs := by simp [State.raise]
@[simp] theorem raise_marks (s : State) (a : Nat) (f : Fld) : (s.raise a f).marks = s.marks := by simp [State.raise]
@[simp] theorem raise_freeCtr (s : State) (a : Nat) (f : Fld) : (s.raise a f).freeCtr = s.freeCtr := by simp [State.raise]
@[simp] theorem raise_time (s : State) (a : Nat) (f : Fld) : (s.raise a f).time = s.time := by simp [State.raise]
@[simp] theorem raise_fab (s : State) (a : Nat) (f : Fld) : (s.raise a f).fab = s.fab := by simp [State.raise]
@[simp] theorem raise_mem (s : State) (a : Nat) (f : Fld) : (s.raise a f).mem = s.mem := by simp [State.raise]
@[simp] theorem raise_dir (s : State) (a : Nat) (f : Fld) : (s.raise a f).dir = s.dir := by simp [State.raise]
@[simp] theorem raise_pwr (s : State) (a : Nat) (f : Fld) : (s.raise a f).pwr = s.pwr := by simp [State.raise]
@[simp] theorem raise_ud0 (s : State) (a : Nat) (f : Fld) : (s.raise a f).ud0 = s.ud0 := by simp [State.raise]
@[simp] theorem raise_ud1 (s : State) (a : Nat) (f : Fld) : (s.raise a f).ud1 = s.ud1 := by simp [State.raise]
@[simp] theorem raise_sched (s : State) (a : Nat) (f : Fld) : (s.raise a f).sched = s.sched := by simp [State.raise]
@[simp] theorem raise_pkg (s : State) (a : Nat) (f : Fld) : (s.raise a f).pkg = s.pkg := by simp [State.raise]
@[simp] theorem raise_rm (s : State) (a : Nat) (f : Fld) : (s.raise a f).rm = s.rm := by simp [State.raise]
@[simp] theorem raise_hif (s : State) (a : Nat) (f : Fld) : (s.raise a f).hif = s.hif := by simp [State.raise]

@[simp] theorem raiseBits_pending (s : State) (a m : Nat) : (s.raiseBits a m).pending = s.pending := by simp [State.raiseBits]
@[simp] theorem raiseBits_cores (s : State) (a m : Nat) : (s.raiseBits a m).cores = s.cores := by simp [State.raiseBits]
@[simp] theorem raiseBits_incs (s : State) (a m : Nat) : (s.raiseBits a m).incs = s.incs := by simp [State.raiseBits]
@[simp] theorem raiseBits_marks (s : State) (a m : Nat) : (s.raiseBits a m).marks = s.marks := by simp [State.raiseBits]
@[simp] theorem raiseBits_freeCtr (s : State) (a m : Nat) : (s.raiseBits a m).freeCtr = s.freeCtr := by simp [State.raiseBits]
@[simp] theorem raiseBits_time (s : State) (a m : Nat) : (s.raiseBits a m).time = s.time := by simp [State.raiseBits]
@[simp] theorem raiseBits_fab (s : State) (a m : Nat) : (s.raiseBits a m).fab = s.fab := by simp [State.raiseBits]
@[simp] theorem raiseBits_mem (s : State) (a m : Nat) : (s.raiseBits a m).mem = s.mem := by simp [State.raiseBits]
@[simp] theorem raiseBits_dir (s : State) (a m : Nat) : (s.raiseBits a m).dir = s.dir := by simp [State.raiseBits]
@[simp] theorem raiseBits_pwr (s : State) (a m : Nat) : (s.raiseBits a m).pwr = s.pwr := by simp [State.raiseBits]
@[simp] theorem raiseBits_ud0 (s : State) (a m : Nat) : (s.raiseBits a m).ud0 = s.ud0 := by simp [State.raiseBits]
@[simp] theorem raiseBits_ud1 (s : State) (a m : Nat) : (s.raiseBits a m).ud1 = s.ud1 := by simp [State.raiseBits]
@[simp] theorem raiseBits_sched (s : State) (a m : Nat) : (s.raiseBits a m).sched = s.sched := by simp [State.raiseBits]
@[simp] theorem raiseBits_pkg (s : State) (a m : Nat) : (s.raiseBits a m).pkg = s.pkg := by simp [State.raiseBits]
@[simp] theorem raiseBits_rm (s : State) (a m : Nat) : (s.raiseBits a m).rm = s.rm := by simp [State.raiseBits]
@[simp] theorem raiseBits_hif (s : State) (a m : Nat) : (s.raiseBits a m).hif = s.hif := by simp [State.raiseBits]

end Sys2Proof.Machine.State
end

