-- ==== Sys2Proof/Laws/Regs.lean ====
section
/-!
SUPPORT. Laws/Regs.lean: reading a register or a field after one is written, for every operation that writes registers.
-/

namespace Sys2Proof.Machine

theorem fset_toNat {w : Word} {f : Fld} (v : Nat) (h : f.lo ≤ f.hi) (h64 : f.hi < 64) :
    (fset w f v).toNat = w.toNat % 2 ^ f.lo + (v % 2 ^ f.width + w.toNat / 2 ^ (f.lo + f.width) * 2 ^ f.width) * 2 ^ f.lo := by
  have e : f.lo + f.width = f.hi + 1 := by unfold Fld.width; omega
  have hx : w.toNat % 2 ^ f.lo + v % 2 ^ f.width * 2 ^ f.lo + w.toNat / 2 ^ (f.lo + f.width) * 2 ^ (f.lo + f.width)
      = w.toNat % 2 ^ f.lo + (v % 2 ^ f.width + w.toNat / 2 ^ (f.lo + f.width) * 2 ^ f.width) * 2 ^ f.lo := by
    rw [Nat.add_mul, Nat.mul_assoc (w.toNat / _), ← Nat.pow_add, Nat.add_comm f.width f.lo, Nat.add_assoc]
  unfold fset
  rw [hx, BitVec.toNat_ofNat, Nat.mod_eq_of_lt]
  have h1 : w.toNat % 2 ^ f.lo < 2 ^ f.lo := Nat.mod_lt _ (Nat.two_pow_pos _)
  have h2 : v % 2 ^ f.width < 2 ^ f.width := Nat.mod_lt _ (Nat.two_pow_pos _)
  have h3 : w.toNat / 2 ^ (f.lo + f.width) < 2 ^ (63 - f.hi) := by
    rw [Nat.div_lt_iff_lt_mul (Nat.two_pow_pos _), ← Nat.pow_add]
    have : 63 - f.hi + (f.lo + f.width) = 64 := by omega
    rw [this]; exact w.isLt
  have h4 : v % 2 ^ f.width + w.toNat / 2 ^ (f.lo + f.width) * 2 ^ f.width < 2 ^ (63 - f.hi) * 2 ^ f.width := by
    have := Nat.mul_le_mul_right (2 ^ f.width) (Nat.succ_le_of_lt h3)
    rw [Nat.succ_mul] at this; omega
  have h5 := Nat.mul_le_mul_right (2 ^ f.lo) (Nat.succ_le_of_lt h4)
  rw [Nat.succ_mul] at h5
  have h6 : 2 ^ (63 - f.hi) * 2 ^ f.width * 2 ^ f.lo = 2 ^ 64 := by
    rw [← Nat.pow_add, ← Nat.pow_add]; congr 1; omega
  omega

/-- A field reads as what was written into it, cut to its width. -/
theorem fget_fset_same (w : Word) {f : Fld} (v : Nat) (h : f.lo ≤ f.hi) (h64 : f.hi < 64) : fget (fset w f v) f = v % 2 ^ f.width := by
  unfold fget
  rw [fset_toNat v h h64, Nat.add_mul_div_right _ _ (Nat.two_pow_pos _), Nat.div_eq_of_lt (Nat.mod_lt _ (Nat.two_pow_pos _)), Nat.zero_add,
    Nat.add_mul_mod_self_right, Nat.mod_mod]

/-- A write into one field leaves every field below it. -/
theorem fget_fset_below (w : Word) {f g : Fld} (v : Nat) (h : f.lo ≤ f.hi) (h64 : f.hi < 64) (hg : g.lo ≤ g.hi) (hgf : g.hi < f.lo) :
    fget (fset w f v) g = fget w g := by
  have e : f.lo = g.lo + (g.width + (f.lo - g.lo - g.width)) := by unfold Fld.width; omega
  have key : ∀ x : Nat, x / 2 ^ g.lo % 2 ^ g.width = x % 2 ^ f.lo / 2 ^ g.lo % 2 ^ g.width := by
    intro x
    rw [e, Nat.pow_add, Nat.mod_mul_right_div_self, Nat.pow_add, Nat.mod_mul_right_mod]
  unfold fget
  rw [key (fset w f v).toNat, key w.toNat, fset_toNat v h h64, Nat.add_mul_mod_self_right, Nat.mod_mod]

/-- A write into one field leaves every field above it. -/
theorem fget_fset_above (w : Word) {f g : Fld} (v : Nat) (h : f.lo ≤ f.hi) (h64 : f.hi < 64) (hfg : f.hi < g.lo) :
    fget (fset w f v) g = fget w g := by
  have e : g.lo = f.lo + (f.width + (g.lo - f.lo - f.width)) := by unfold Fld.width; omega
  have key : ∀ x : Nat, x / 2 ^ g.lo = x / 2 ^ (f.lo + f.width) / 2 ^ (g.lo - f.lo - f.width) := by
    intro x
    rw [Nat.div_div_eq_div_mul, ← Nat.pow_add]; congr 2; unfold Fld.width; omega
  unfold fget
  rw [key (fset w f v).toNat, key w.toNat, fset_toNat v h h64]
  congr 2
  rw [Nat.pow_add, ← Nat.div_div_eq_div_mul, Nat.add_mul_div_right _ _ (Nat.two_pow_pos _),
    Nat.div_eq_of_lt (Nat.mod_lt _ (Nat.two_pow_pos _)), Nat.zero_add, Nat.add_mul_div_right _ _ (Nat.two_pow_pos _),
    Nat.div_eq_of_lt (Nat.mod_lt _ (Nat.two_pow_pos _)), Nat.zero_add, ← Nat.pow_add]

/-- A write into one field leaves a field that shares no bit with it. -/
theorem fget_fset_other (w : Word) {f g : Fld} (v : Nat) (h : f.lo ≤ f.hi) (h64 : f.hi < 64) (hg : g.lo ≤ g.hi)
    (hd : g.hi < f.lo ∨ f.hi < g.lo) : fget (fset w f v) g = fget w g :=
  hd.elim (fget_fset_below w v h h64 hg) (fget_fset_above w v h h64)

namespace State

@[simp] theorem reg_setReg_same (s : State) (a : Nat) (w : Word) : (s.setReg a w).reg a = w := by simp [reg, setReg]

theorem reg_setReg_other (s : State) {a c : Nat} (h : c ≠ a) (w : Word) : (s.setReg a w).reg c = s.reg c := sget_sput_other _ h _ _ _

theorem reg_setReg (s : State) (a c : Nat) (w : Word) : (s.setReg a w).reg c = if c = a then w else s.reg c := by
  split
  · rename_i h; subst h; simp
  · exact reg_setReg_other s ‹_› w

/-- Registers that are the same read the same. -/
theorem reg_congr {s t : State} (h : t.regs = s.regs) (a : Nat) : t.reg a = s.reg a := by rw [reg, reg, h]

@[simp] theorem reg_wr_same (s : State) (a : Nat) (f : Fld) (v : Nat) : (s.wr a f v).reg a = fset (s.reg a) f v := reg_setReg_same _ _ _

theorem reg_wr_other (s : State) {a c : Nat} (h : c ≠ a) (f : Fld) (v : Nat) : (s.wr a f v).reg c = s.reg c := reg_setReg_other _ h _

/-- The field written reads as the value, cut to its width. -/
theorem rd_wr_same (s : State) (a : Nat) {f : Fld} (v : Nat) (h : f.lo ≤ f.hi) (h64 : f.hi < 64) : (s.wr a f v).rd a f = v % 2 ^ f.width := by
  rw [rd, reg_wr_same, fget_fset_same _ _ h h64]

/-- Another field of the register keeps its value. -/
theorem rd_wr_field (s : State) (a : Nat) {f g : Fld} (v : Nat) (h : f.lo ≤ f.hi) (h64 : f.hi < 64) (hg : g.lo ≤ g.hi)
    (hd : g.hi < f.lo ∨ f.hi < g.lo) : (s.wr a f v).rd a g = s.rd a g := by
  rw [rd, reg_wr_same, fget_fset_other _ _ h h64 hg hd]; rfl

/-- A field of another register keeps its value. -/
theorem rd_wr_other (s : State) {a c : Nat} (h : c ≠ a) (f g : Fld) (v : Nat) : (s.wr a f v).rd c g = s.rd c g := by
  rw [rd, reg_wr_other s h]; rfl

@[simp] theorem reg_notify (s0 s : State) (a c : Nat) : (notify s0 s a).reg c = s.reg c := reg_congr (notify_regs _ _ _) c

@[simp] theorem reg_sendMsi (s : State) (v c : Nat) : (s.sendMsi v).reg c = s.reg c := reg_congr (sendMsi_regs _ _) c

@[simp] theorem reg_emit (s : State) (o : Out) (c : Nat) : (s.emit o).reg c = s.reg c := rfl

@[simp] theorem reg_raise_same (s : State) (a : Nat) (f : Fld) : (s.raise a f).reg a = fset (s.reg a) f 1 := by
  rw [raise, reg_notify, reg_wr_same]

theorem reg_raise_other (s : State) {a c : Nat} (h : c ≠ a) (f : Fld) : (s.raise a f).reg c = s.reg c := by
  rw [raise, reg_notify, reg_wr_other s h]

/-- A raised bit is set. -/
theorem on_raise (s : State) (a : Nat) {f : Fld} (h : f.hi = f.lo) (h64 : f.hi < 64) : (s.raise a f).on a f = true := by
  have hw : f.width = 1 := by unfold Fld.width; omega
  rw [on, rd, reg_raise_same, fget_fset_same _ _ (by omega) h64, hw]; rfl

theorem reg_bump_other (s : State) {a c : Nat} (h : c ≠ a) (f : Fld) (n : Nat) : (s.bump a f n).reg c = s.reg c := reg_wr_other s h f _

/-- A count goes up by the number given, and stops at its highest value. -/
theorem rd_bump_same (s : State) (a : Nat) {f : Fld} (n : Nat) (h : f.lo ≤ f.hi) (h64 : f.hi < 64) :
    (s.bump a f n).rd a f = min (2 ^ f.width - 1) (s.rd a f + n) := by
  rw [bump, rd_wr_same _ _ _ h h64, Nat.mod_eq_of_lt]
  have := Nat.two_pow_pos f.width; omega

@[simp] theorem core_setCore_same (s : State) (b : Nat) (c : CoreSt) : (s.setCore b c).core b = c := by simp [core, setCore]

theorem core_setCore_other (s : State) {b d : Nat} (h : d ≠ b) (c : CoreSt) : (s.setCore b c).core d = s.core d := sget_sput_other _ h _ _ _

@[simp] theorem core_modCore_same (s : State) (b : Nat) (f : CoreSt → CoreSt) : (s.modCore b f).core b = f (s.core b) := core_setCore_same _ _ _

theorem core_modCore_other (s : State) {b d : Nat} (h : d ≠ b) (f : CoreSt → CoreSt) : (s.modCore b f).core d = s.core d :=
  core_setCore_other _ h _

theorem core_congr {s t : State} (h : t.cores = s.cores) (b : Nat) : t.core b = s.core b := by rw [core, core, h]

end State

end Sys2Proof.Machine
end

