-- ==== Sys2Proof/Laws/Touches.lean ====
section
/-!
SUPPORT. Laws/Touches.lean: the relation that says once what an operation can do to the parts of the state, and the rules by which it
is composed: the queue stays, only listed parts change, the canonical forms are kept.
-/

namespace Sys2Proof.Machine

/-- Every part of the second list is in the first. -/
def covers (L A : List Part) : Bool := A.all fun p => L.contains p

theorem covers_iff {L A : List Part} : covers L A = true ↔ ∀ p ∈ A, p ∈ L := by simp [covers]

theorem covers_trans {L A B : List Part} (h : covers L A = true) (g : covers A B = true) : covers L B = true :=
  covers_iff.2 fun p hp => covers_iff.1 h p (covers_iff.1 g p hp)

theorem Part.same_refl (p : Part) (s : State) : p.same s s := by cases p <;> first | exact rfl | exact ⟨rfl, rfl, rfl, rfl⟩

theorem Part.same_trans {p : Part} {s x t : State} (h : p.same s x) (g : p.same x t) : p.same s t := by
  cases p <;> first | exact Eq.trans g h | exact ⟨g.1.trans h.1, g.2.1.trans h.2.1, g.2.2.1.trans h.2.2.1, g.2.2.2.trans h.2.2.2⟩

/-- Going from `s` to `t` the queue stays, only the listed parts change, and canonical forms are kept. -/
structure Touches (L : List Part) (s t : State) : Prop where
  pending : t.pending = s.pending
  only : OnlyChanges L s t
  canon : Canonical s → Canonical t

namespace Touches

variable {L A : List Part} {s x y t : State}

theorem iteRsp {c : Prop} [Decidable c] {x y : Rsp} (h : Touches L s x.s) (g : Touches L s y.s) : Touches L s (if c then x else y).s := by
  split <;> assumption

theorem refl : Touches L s s := ⟨rfl, fun p _ => p.same_refl s, id⟩

theorem trans (h : Touches L s x) (g : Touches L x t) : Touches L s t :=
  ⟨g.pending.trans h.pending, fun p hp => Part.same_trans (h.only p hp) (g.only p hp), fun c => g.canon (h.canon c)⟩

theorem widen (hL : covers L A = true) (h : Touches A s t) : Touches L s t :=
  ⟨h.pending, fun p hp => h.only p fun hA => hp (covers_iff.1 hL p hA), h.canon⟩

theorem andThen (h : Touches L s x) (g : Touches A x t) (hL : covers L A = true) : Touches L s t := h.trans (g.widen hL)

theorem ite {c : Prop} [Decidable c] (h : Touches L s x) (g : Touches L s y) : Touches L s (if c then x else y) := by
  split <;> assumption

theorem iteFst {α : Type} {c : Prop} [Decidable c] {x y : State × α} (h : Touches L s x.1) (g : Touches L s y.1) :
    Touches L s (if c then x else y).1 := by split <;> assumption

theorem cond {c : Bool} (h : Touches L s x) (g : Touches L s y) : Touches L s (bif c then x else y) := by
  cases c <;> assumption

theorem foldl {α : Type} {f : State → α → State} {l : List α} (hf : ∀ z a, Touches L s z → Touches L s (f z a))
    (h : Touches L s x) : Touches L s (l.foldl f x) := by
  induction l generalizing x with
  | nil => exact h
  | cons a l ih => exact ih (hf x a h)

theorem foldlFst {α β : Type} {f : State × β → α → State × β} {l : List α} {z : State × β}
    (hf : ∀ z a, Touches L s z.1 → Touches L s (f z a).1) (h : Touches L s z.1) : Touches L s (l.foldl f z).1 := by
  induction l generalizing z with
  | nil => exact h
  | cons a l ih => exact ih (hf z a h)

theorem ofFst {α : Type} {r : State × α} {a : α} (e : r = (t, a)) (h : Touches L s r.1) : Touches L s t := by
  rw [e] at h; exact h

end Touches

/-- The state that an answer carries, and that a response carries. -/
structure TouchesP {α : Type} (L : List Part) (s : State) (p : State × α) : Prop where
  out : Touches L s p.1

structure TouchesR (L : List Part) (s : State) (r : Rsp) : Prop where
  out : Touches L s r.s

theorem TouchesP.pair {α : Type} {L : List Part} {s x : State} {a : α} (h : Touches L s x) : TouchesP L s (x, a) := ⟨h⟩

theorem TouchesP.pairIte {α : Type} {L : List Part} {s x : State} {c : Prop} [Decidable c] {a b : α} (h : Touches L s x) :
    TouchesP L s (x, if c then a else b) := ⟨h⟩

theorem TouchesR.rsp {L : List Part} {s x : State} {n : Nat} {l : List Nat} (h : Touches L s x) : TouchesR L s ⟨x, n, l⟩ := ⟨h⟩

theorem TouchesP.ite {α : Type} {L : List Part} {s : State} {c : Prop} [Decidable c] {x y : State × α} (h : TouchesP L s x)
    (g : TouchesP L s y) : TouchesP L s (if c then x else y) := by split <;> assumption

theorem TouchesR.ite {L : List Part} {s : State} {c : Prop} [Decidable c] {x y : Rsp} (h : TouchesR L s x)
    (g : TouchesR L s y) : TouchesR L s (if c then x else y) := by split <;> assumption

/-- Every state that an option holds. -/
structure TouchesOpt (L : List Part) (s : State) (o : Option State) : Prop where
  out : ∀ t, o = some t → Touches L s t

theorem Touches.ofId {L : List Part} {s t : State} (h : Touches L s t) : Touches L s (id t) := h

theorem Touches.ofOpt {L : List Part} {s t : State} {o : Option State} (e : o = some t) (h : TouchesOpt L s o) : Touches L s t := h.out t e

/-! One field of the state replaced: its part may change, all others stay. -/

namespace Touches

variable {L A : List Part} {s x y t : State}

theorem set_incs {v} (h : Touches L s x) (hL : covers L [.incs] = true) : Touches L s { x with incs := v } :=
  h.andThen ⟨rfl, fun p hp => by cases p <;> first | exact absurd (by decide) hp | exact rfl | exact ⟨rfl, rfl, rfl, rfl⟩,
    fun c => ⟨c.regs, c.cores, c.stack, c.peat, c.far⟩⟩ hL

theorem set_marks {v} (h : Touches L s x) (hL : covers L [.marks] = true) : Touches L s { x with marks := v } :=
  h.andThen ⟨rfl, fun p hp => by cases p <;> first | exact absurd (by decide) hp | exact rfl | exact ⟨rfl, rfl, rfl, rfl⟩,
    fun c => ⟨c.regs, c.cores, c.stack, c.peat, c.far⟩⟩ hL

theorem set_out {v} (h : Touches L s x) (hL : covers L [.out] = true) : Touches L s { x with out := v } :=
  h.andThen ⟨rfl, fun p hp => by cases p <;> first | exact absurd (by decide) hp | exact rfl | exact ⟨rfl, rfl, rfl, rfl⟩,
    fun c => ⟨c.regs, c.cores, c.stack, c.peat, c.far⟩⟩ hL

theorem set_freeCtr {v} (h : Touches L s x) (hL : covers L [.counter] = true) : Touches L s { x with freeCtr := v } :=
  h.andThen ⟨rfl, fun p hp => by cases p <;> first | exact absurd (by decide) hp | exact rfl | exact ⟨rfl, rfl, rfl, rfl⟩,
    fun c => ⟨c.regs, c.cores, c.stack, c.peat, c.far⟩⟩ hL

theorem set_time {v} (h : Touches L s x) (hL : covers L [.time] = true) : Touches L s { x with time := v } :=
  h.andThen ⟨rfl, fun p hp => by cases p <;> first | exact absurd (by decide) hp | exact rfl | exact ⟨rfl, rfl, rfl, rfl⟩,
    fun c => ⟨c.regs, c.cores, c.stack, c.peat, c.far⟩⟩ hL

theorem set_msix {v} (h : Touches L s x) (hL : covers L [.msix] = true) : Touches L s { x with msix := v } :=
  h.andThen ⟨rfl, fun p hp => by cases p <;> first | exact absurd (by decide) hp | exact rfl | exact ⟨rfl, rfl, rfl, rfl⟩,
    fun c => ⟨c.regs, c.cores, c.stack, c.peat, c.far⟩⟩ hL

theorem set_fab {v} (h : Touches L s x) (hL : covers L [.fab] = true) : Touches L s { x with fab := v } :=
  h.andThen ⟨rfl, fun p hp => by cases p <;> first | exact absurd (by decide) hp | exact rfl | exact ⟨rfl, rfl, rfl, rfl⟩,
    fun c => ⟨c.regs, c.cores, c.stack, c.peat, c.far⟩⟩ hL

theorem set_dir {v} (h : Touches L s x) (hL : covers L [.dir] = true) : Touches L s { x with dir := v } :=
  h.andThen ⟨rfl, fun p hp => by cases p <;> first | exact absurd (by decide) hp | exact rfl | exact ⟨rfl, rfl, rfl, rfl⟩,
    fun c => ⟨c.regs, c.cores, c.stack, c.peat, c.far⟩⟩ hL

theorem set_pwr {v} (h : Touches L s x) (hL : covers L [.pwr] = true) : Touches L s { x with pwr := v } :=
  h.andThen ⟨rfl, fun p hp => by cases p <;> first | exact absurd (by decide) hp | exact rfl | exact ⟨rfl, rfl, rfl, rfl⟩,
    fun c => ⟨c.regs, c.cores, c.stack, c.peat, c.far⟩⟩ hL

theorem set_ud0 {v} (h : Touches L s x) (hL : covers L [.ud0] = true) : Touches L s { x with ud0 := v } :=
  h.andThen ⟨rfl, fun p hp => by cases p <;> first | exact absurd (by decide) hp | exact rfl | exact ⟨rfl, rfl, rfl, rfl⟩,
    fun c => ⟨c.regs, c.cores, c.stack, c.peat, c.far⟩⟩ hL

theorem set_ud1 {v} (h : Touches L s x) (hL : covers L [.ud1] = true) : Touches L s { x with ud1 := v } :=
  h.andThen ⟨rfl, fun p hp => by cases p <;> first | exact absurd (by decide) hp | exact rfl | exact ⟨rfl, rfl, rfl, rfl⟩,
    fun c => ⟨c.regs, c.cores, c.stack, c.peat, c.far⟩⟩ hL

theorem set_sched {v} (h : Touches L s x) (hL : covers L [.sched] = true) : Touches L s { x with sched := v } :=
  h.andThen ⟨rfl, fun p hp => by cases p <;> first | exact absurd (by decide) hp | exact rfl | exact ⟨rfl, rfl, rfl, rfl⟩,
    fun c => ⟨c.regs, c.cores, c.stack, c.peat, c.far⟩⟩ hL

theorem set_rm {v} (h : Touches L s x) (hL : covers L [.rm] = true) : Touches L s { x with rm := v } :=
  h.andThen ⟨rfl, fun p hp => by cases p <;> first | exact absurd (by decide) hp | exact rfl | exact ⟨rfl, rfl, rfl, rfl⟩,
    fun c => ⟨c.regs, c.cores, c.stack, c.peat, c.far⟩⟩ hL

theorem set_hif {v} (h : Touches L s x) (hL : covers L [.hif] = true) : Touches L s { x with hif := v } :=
  h.andThen ⟨rfl, fun p hp => by cases p <;> first | exact absurd (by decide) hp | exact rfl | exact ⟨rfl, rfl, rfl, rfl⟩,
    fun c => ⟨c.regs, c.cores, c.stack, c.peat, c.far⟩⟩ hL

end Touches

/-- What a change of package control keeps, part by part. -/
structure PkgKept (L : List Part) (p q : PkgSt) : Prop where
  journal : .journal ∈ L ∨ q.jnl = p.jnl
  commands : .commands ∈ L ∨ q.cmds = p.cmds
  completions : .completions ∈ L ∨ q.comps = p.comps
  image : .image ∈ L ∨ q.image = p.image
  pins : .pins ∈ L ∨ q.pins = p.pins
  fuses : .fuses ∈ L ∨ q.fuse = p.fuse
  flash : .flash ∈ L ∨ q.flash = p.flash
  staged : .staged ∈ L ∨ q.staged = p.staged
  flashBy : .staged ∈ L ∨ q.flashBy = p.flashBy
  migr : .staged ∈ L ∨ q.migr = p.migr
  fwd : .staged ∈ L ∨ q.fwd = p.fwd

/-- What a change of the memory system keeps, part by part, and the form of its tiers. -/
structure MemKept (L : List Part) (p q : MemSt) : Prop where
  stack : .stack ∈ L ∨ q.stack = p.stack
  peat : .peat ∈ L ∨ q.peat = p.peat
  far : .far ∈ L ∨ q.far = p.far
  caches : .caches ∈ L ∨ { q with stack := [], peat := [], far := [] } = { p with stack := [], peat := [], far := [] }
  stackForm : Memory.wf p.stack = true → Memory.wf q.stack = true
  peatForm : Memory.wf p.peat = true → Memory.wf q.peat = true
  farForm : Memory.wf p.far = true → Memory.wf q.far = true

namespace Touches

variable {L A : List Part} {s x y t : State}

theorem set_pkg {v : PkgSt} (h : Touches L s x) (hv : PkgKept L x.pkg v) : Touches L s { x with pkg := v } :=
  h.trans ⟨rfl, fun p hp => by
    cases p <;> first
      | exact rfl
      | exact hv.journal.resolve_left hp
      | exact hv.commands.resolve_left hp
      | exact hv.completions.resolve_left hp
      | exact hv.image.resolve_left hp
      | exact hv.pins.resolve_left hp
      | exact hv.fuses.resolve_left hp
      | exact hv.flash.resolve_left hp
      | exact ⟨hv.staged.resolve_left hp, hv.flashBy.resolve_left hp, hv.migr.resolve_left hp, hv.fwd.resolve_left hp⟩,
    fun c => ⟨c.regs, c.cores, c.stack, c.peat, c.far⟩⟩

theorem set_mem {v : MemSt} (h : Touches L s x) (hv : MemKept L x.mem v) : Touches L s { x with mem := v } :=
  h.trans ⟨rfl, fun p hp => by
    cases p <;> first
      | exact rfl
      | exact hv.stack.resolve_left hp
      | exact hv.peat.resolve_left hp
      | exact hv.far.resolve_left hp
      | exact hv.caches.resolve_left hp
      | exact ⟨rfl, rfl, rfl, rfl⟩,
    fun c => ⟨c.regs, c.cores, hv.stackForm c.stack, hv.peatForm c.peat, hv.farForm c.far⟩⟩

theorem modPkg {f : PkgSt → PkgSt} (h : Touches L s x) (hf : ∀ p, PkgKept L p (f p)) : Touches L s (x.modPkg f) := set_pkg h (hf _)

theorem modMem {f : MemSt → MemSt} (h : Touches L s x) (hf : ∀ m, MemKept L m (f m)) : Touches L s (x.modMem f) := set_mem h (hf _)

theorem modFab {f} (h : Touches L s x) (hL : covers L [.fab] = true) : Touches L s (x.modFab f) := set_fab h hL

theorem modRm {f} (h : Touches L s x) (hL : covers L [.rm] = true) : Touches L s (x.modRm f) := set_rm h hL

theorem modHif {f} (h : Touches L s x) (hL : covers L [.hif] = true) : Touches L s (x.modHif f) := set_hif h hL

theorem modTime {f} (h : Touches L s x) (hL : covers L [.time] = true) : Touches L s (x.modTime f) := set_time h hL

theorem modPwr {f} (h : Touches L s x) (hL : covers L [.pwr] = true) : Touches L s (x.modPwr f) := set_pwr h hL

theorem modDir {f} (h : Touches L s x) (hL : covers L [.dir] = true) : Touches L s (x.modDir f) := set_dir h hL

end Touches

/-! Registers and cores. -/

@[simp] theorem CoreSt.setStream_mem (c : CoreSt) (i : Nat) (x : Stream) : (c.setStream i x).mem = c.mem := by
  unfold CoreSt.setStream; split <;> rfl

@[simp] theorem CoreSt.setTile_mem (c : CoreSt) (i : Nat) (x : TileAttr) : (c.setTile i x).mem = c.mem := rfl

theorem foldl_keeps {α β : Type} {P : β → Prop} {f : β → α → β} {l : List α} {b : β} (h : P b) (hf : ∀ b a, P b → P (f b a)) :
    P (l.foldl f b) := by
  induction l generalizing b with
  | nil => exact h
  | cons a l ih => exact ih (hf b a h)

theorem CoreSt.foldl_wf {α : Type} {f : CoreSt → α → CoreSt} {l : List α} {c : CoreSt}
    (hf : ∀ c a, Memory.wf c.mem = true → Memory.wf (f c a).mem = true) (h : Memory.wf c.mem = true) :
    Memory.wf (l.foldl f c).mem = true := by
  induction l generalizing c with
  | nil => exact h
  | cons a l ih => exact ih (hf c a h)

theorem CoreSt.applyStores_wf {c : CoreSt} (l : List (Nat × List Nat)) (h : Memory.wf c.mem = true) :
    Memory.wf (c.applyStores l).mem = true :=
  CoreSt.foldl_wf (fun _ _ => CoreSt.locStore_wf _ _) h

@[simp] theorem CoreSt.setSlot_mem (c : CoreSt) (k : Nat) (f : SideSlot → SideSlot) : (c.setSlot k f).mem = c.mem := rfl

@[simp] theorem CoreSt.setLane_mem (c : CoreSt) (k l : Nat) (v : List Nat) : (c.setLane k l v).mem = c.mem := rfl

@[simp] theorem releaseOwner_mem (c : CoreSt) (j : Job) : (releaseOwner c j).mem = c.mem := by
  unfold releaseOwner; dsimp only; split <;> rfl

theorem releaseOwner_wf {c : CoreSt} (j : Job) (h : Memory.wf c.mem = true) : Memory.wf (releaseOwner c j).mem = true := by
  rw [releaseOwner_mem]; exact h

@[simp] theorem CoreSt.setWb_mem (c : CoreSt) (e w : Nat) (x : WBuf) : (c.setWb e w x).mem = c.mem := rfl

theorem State.setReg_touches {L : List Part} {s0 s : State} {a : Nat} {w : Word} (h : Touches L s0 s)
    (hL : covers L [.regs] = true) : Touches L s0 (s.setReg a w) :=
  h.andThen ⟨rfl, fun p hp => by cases p <;> first | exact rfl | exact ⟨rfl, rfl, rfl, rfl⟩ | exact absurd (by decide) hp,
    fun c => { c with regs := swf_sput resetWord a w c.regs }⟩ hL

theorem State.core_wf {s : State} (c : Canonical s) (b : Nat) : Memory.wf (s.core b).mem = true := by
  rcases sget_mem_or CoreSt.reset b s.cores with h | h
  · rw [State.core, h]; rfl
  · exact c.cores _ h

theorem State.setCore_touches {L : List Part} {s0 s : State} {b : Nat} {x : CoreSt} (h : Touches L s0 s)
    (hL : covers L [.cores] = true) (hx : Canonical s → Memory.wf x.mem = true) : Touches L s0 (s.setCore b x) :=
  h.andThen ⟨rfl, fun p hp => by cases p <;> first | exact rfl | exact ⟨rfl, rfl, rfl, rfl⟩ | exact absurd (by decide) hp,
    fun c => { c with cores := fun p hp => (mem_sput_cases hp).elim (fun e => e ▸ hx c) (c.cores p) }⟩ hL

theorem State.modCore_touches {L : List Part} {s0 s : State} {b : Nat} {f : CoreSt → CoreSt} (h : Touches L s0 s)
    (hL : covers L [.cores] = true) (hf : ∀ c, Memory.wf c.mem = true → Memory.wf (f c).mem = true) : Touches L s0 (s.modCore b f) :=
  State.setCore_touches h hL fun c => hf _ (State.core_wf c b)

end Sys2Proof.Machine
end

