-- ==== Sys2Proof/Laws/Touch/Ops.lean ====
section
/-!
SUPPORT. Laws/Touch/Ops.lean: for each operation of Machine/Ops.lean, what it can do: the queue stays, only the parts listed change, and the
registers and memories keep their canonical form.
-/

set_option linter.all false

namespace Sys2Proof.Machine

theorem State.wr_touches {L : List Part} {z0 : State} {s : State} {a : Nat} {f : Fld} {v : Nat} (hz : Touches L z0 s) (hL : covers L [.regs] = true) :
    Touches L z0 (State.wr s a f v) := by
  refine hz.andThen (A := [.regs]) ?_ hL
  unfold State.wr
  repeat' first
    | (with_reducible first | intro _ | assumption | exact Touches.refl | apply State.setReg_touches)
    | exact rfl | extract_lets -underBinder | split

theorem State.orF_touches {L : List Part} {z0 : State} {s : State} {a : Nat} {f : Fld} {v : Nat} (hz : Touches L z0 s)
    (hL : covers L [.regs] = true) :
    Touches L z0 (State.orF s a f v) := by
  refine hz.andThen (A := [.regs]) ?_ hL
  unfold State.orF
  repeat' first
    | (with_reducible first | intro _ | assumption | exact Touches.refl | apply State.wr_touches)
    | exact rfl | extract_lets -underBinder | split

theorem State.bump_touches {L : List Part} {z0 : State} {s : State} {a : Nat} {f : Fld} {n : Nat} (hz : Touches L z0 s)
    (hL : covers L [.regs] = true) :
    Touches L z0 (State.bump s a f n) := by
  refine hz.andThen (A := [.regs]) ?_ hL
  unfold State.bump
  repeat' first
    | (with_reducible first | intro _ | assumption | exact Touches.refl | apply State.wr_touches)
    | exact rfl | extract_lets -underBinder | split

theorem State.bumpFree_touches {L : List Part} {z0 : State} {s : State} {a : Nat} {f : Fld} (hz : Touches L z0 s)
    (hL : covers L [.regs, .counter] = true) :
    Touches L z0 (State.bumpFree s a f) := by
  refine hz.andThen (A := [.regs, .counter]) ?_ hL
  unfold State.bumpFree
  repeat' first
    | (with_reducible first | intro _ | assumption | exact Touches.refl | apply State.bump_touches)
    | exact rfl | extract_lets -underBinder | split
    | (with_reducible first | apply Touches.set_freeCtr)

theorem State.setStream_touches {L : List Part} {z0 : State} {s : State} {b : Nat} {i : Nat} {x : Stream} (hz : Touches L z0 s)
    (hL : covers L [.cores] = true) :
    Touches L z0 (State.setStream s b i x) := by
  refine hz.andThen (A := [.cores]) ?_ hL
  unfold State.setStream
  repeat' first
    | (with_reducible first | intro _ | assumption | exact Touches.refl | apply State.modCore_touches)
    | exact rfl | assumption | exact State.core_wf (by assumption) _ | (simp; assumption) | extract_lets -underBinder | split

theorem State.emit_touches {L : List Part} {z0 : State} {s : State} {o : Out} (hz : Touches L z0 s) (hL : covers L [.out] = true) :
    Touches L z0 (State.emit s o) := by
  refine hz.andThen (A := [.out]) ?_ hL
  unfold State.emit
  repeat' first
    | (with_reducible first | intro _ | assumption | exact Touches.refl)
    | exact rfl | extract_lets -underBinder | split
    | (with_reducible first | apply Touches.set_out)

theorem State.sendMsi_touches {L : List Part} {z0 : State} {s : State} {v : Nat} (hz : Touches L z0 s) (hL : covers L [.out, .msix] = true) :
    Touches L z0 (State.sendMsi s v) := by
  refine hz.andThen (A := [.out, .msix]) ?_ hL
  unfold State.sendMsi
  repeat' first
    | (with_reducible first | intro _ | assumption | exact Touches.refl | apply State.emit_touches | apply Touches.ite)
    | exact rfl | extract_lets -underBinder | split
    | (with_reducible first | apply Touches.set_msix)

theorem State.notify_touches {L : List Part} {z0 : State} {s0 : State} {s : State} {a : Nat} (hz : Touches L z0 s)
    (hL : covers L [.out, .msix] = true) :
    Touches L z0 (State.notify s0 s a) := by
  refine hz.andThen (A := [.out, .msix]) ?_ hL
  unfold State.notify
  repeat' first
    | (with_reducible first | intro _ | assumption | exact Touches.refl | apply State.sendMsi_touches | apply Touches.ite
                            | refine Touches.ofFst (by assumption) ?_)
    | exact rfl | extract_lets -underBinder | split

theorem State.raise_touches {L : List Part} {z0 : State} {s : State} {a : Nat} {f : Fld} (hz : Touches L z0 s)
    (hL : covers L [.regs, .out, .msix] = true) :
    Touches L z0 (State.raise s a f) := by
  refine hz.andThen (A := [.regs, .out, .msix]) ?_ hL
  unfold State.raise
  repeat' first
    | (with_reducible first | intro _ | assumption | exact Touches.refl | apply State.notify_touches | apply State.wr_touches)
    | exact rfl | extract_lets -underBinder | split

theorem State.raiseBits_touches {L : List Part} {z0 : State} {s : State} {a : Nat} {m : Nat} (hz : Touches L z0 s)
    (hL : covers L [.regs, .out, .msix] = true) :
    Touches L z0 (State.raiseBits s a m) := by
  refine hz.andThen (A := [.regs, .out, .msix]) ?_ hL
  unfold State.raiseBits
  repeat' first
    | (with_reducible first | intro _ | assumption | exact Touches.refl | apply State.notify_touches | apply State.setReg_touches)
    | exact rfl | extract_lets -underBinder | split

theorem State.modPort_touches {L : List Part} {z0 : State} {s : State} {p : Nat} {f : PortSt → PortSt} (hz : Touches L z0 s)
    (hL : covers L [.fab] = true) :
    Touches L z0 (State.modPort s p f) := by
  refine hz.andThen (A := [.fab]) ?_ hL
  unfold State.modPort
  repeat' first
    | (with_reducible first | intro _ | assumption | exact Touches.refl | apply Touches.modFab)
    | exact rfl | extract_lets -underBinder | split

theorem State.launch_touches {L : List Part} {z0 : State} {s : State} {port : Nat} {p : Packet} (hz : Touches L z0 s)
    (hL : covers L [.regs, .out, .fab] = true) :
    Touches L z0 (State.launch s port p) := by
  refine hz.andThen (A := [.regs, .out, .fab]) ?_ hL
  unfold State.launch
  repeat' first
    | (with_reducible first | intro _ | assumption | exact Touches.refl | apply State.bump_touches | apply State.emit_touches
                            | apply State.modPort_touches)
    | exact rfl | extract_lets -underBinder | split

theorem State.transmit_touches {L : List Part} {z0 : State} {s : State} {port : Nat} {p : Packet} (hz : Touches L z0 s)
    (hL : covers L [.regs, .out, .fab] = true) :
    Touches L z0 (State.transmit s port p) := by
  refine hz.andThen (A := [.regs, .out, .fab]) ?_ hL
  unfold State.transmit
  repeat' first
    | (with_reducible first | intro _ | assumption | exact Touches.refl | apply State.launch_touches | apply State.modPort_touches
                            | apply Touches.ite)
    | exact rfl | extract_lets -underBinder | split

theorem State.launchCtl_touches {L : List Part} {z0 : State} {s : State} {port : Nat} {kind : Nat} {bits : Nat} (hz : Touches L z0 s)
    (hL : covers L [.regs, .out, .fab] = true) :
    Touches L z0 (State.launchCtl s port kind bits) := by
  refine hz.andThen (A := [.regs, .out, .fab]) ?_ hL
  unfold State.launchCtl
  repeat' first
    | (with_reducible first | intro _ | assumption | exact Touches.refl | apply State.bump_touches | apply State.emit_touches
                            | apply State.modPort_touches)
    | exact rfl | extract_lets -underBinder | split

theorem State.sendCtl_touches {L : List Part} {z0 : State} {s : State} {port : Nat} {kind : Nat} {bits : Nat} (hz : Touches L z0 s)
    (hL : covers L [.regs, .out, .fab] = true) :
    Touches L z0 (State.sendCtl s port kind bits) := by
  refine hz.andThen (A := [.regs, .out, .fab]) ?_ hL
  unfold State.sendCtl
  repeat' first
    | (with_reducible first | intro _ | assumption | exact Touches.refl | apply State.launchCtl_touches | apply State.modPort_touches
                            | apply Touches.ite)
    | exact rfl | extract_lets -underBinder | split

theorem State.drainPort_touches {L : List Part} {z0 : State} {s : State} {port : Nat} (hz : Touches L z0 s)
    (hL : covers L [.regs, .out, .fab] = true) :
    Touches L z0 (State.drainPort s port) := by
  refine hz.andThen (A := [.regs, .out, .fab]) ?_ hL
  unfold State.drainPort
  repeat' first
    | (with_reducible first | intro _ | assumption | exact Touches.refl | apply State.modPort_touches | apply State.sendCtl_touches
                            | apply State.transmit_touches | apply Touches.foldl | apply Touches.foldlFst)
    | exact rfl | extract_lets -underBinder | split

theorem State.send_touches {L : List Part} {z s : State} {p : Packet} (h : Touches L z s) (hL : covers L [.regs, .out, .fab] = true) :
    TouchesOpt L z (s.send p) := by
  refine ⟨fun t ht => ?_⟩
  unfold State.send at ht
  split at ht
  · cases ht
  · cases ht
    exact State.transmit_touches h hL

theorem State.sendReq_touches {L : List Part} {z0 : State} {s : State} {p : Packet} (hz : Touches L z0 s)
    (hL : covers L [.regs, .out, .fab] = true) : TouchesOpt L z0 (State.sendReq s p) := by
  unfold State.sendReq
  split
  · exact State.send_touches hz hL
  · exact ⟨fun t h => absurd h (by simp)⟩

theorem State.sendCtrl_touches {L : List Part} {z0 : State} {s : State} {dst : Nat} {typ : Nat} {words : List Nat} (hz : Touches L z0 s)
    (hL : covers L [.regs, .out, .fab] = true) :
    Touches L z0 (State.sendCtrl s dst typ words) := by
  refine hz.andThen (A := [.regs, .out, .fab]) ?_ hL
  unfold State.sendCtrl
  repeat' first
    | (with_reducible first | intro _ | assumption | exact Touches.refl | apply State.bump_touches | apply State.emit_touches
                            | apply State.send_touches | apply Touches.ite | apply Touches.modFab | refine Touches.ofFst (by assumption) ?_
                            | refine Touches.ofOpt (by assumption) ?_)
    | exact rfl | extract_lets -underBinder | split
    | dsimp +zetaDelta only

theorem State.linkNext_touches {L : List Part} {z0 : State} {s : State} {port : Nat} (hz : Touches L z0 s) (hL : covers L [.fab] = true) :
    Touches L z0 (State.linkNext s port) := by
  refine hz.andThen (A := [.fab]) ?_ hL
  unfold State.linkNext
  repeat' first
    | (with_reducible first | intro _ | assumption | exact Touches.refl | apply Touches.modFab)
    | exact rfl | extract_lets -underBinder | split

theorem State.health_touches {L : List Part} {z0 : State} {s : State} {kind : Nat} {args : List Nat} (hz : Touches L z0 s)
    (hL : covers L [.regs, .out, .fab] = true) :
    Touches L z0 (State.health s kind args) := by
  refine hz.andThen (A := [.regs, .out, .fab]) ?_ hL
  unfold State.health
  repeat' first
    | (with_reducible first | intro _ | assumption | exact Touches.refl | apply State.sendCtrl_touches | apply Touches.ite)
    | exact rfl | extract_lets -underBinder | split

end Sys2Proof.Machine
end

