-- ==== Sys2Proof/Laws/Touch/CoreOps.lean ====
section
/-!
SUPPORT. Laws/Touch/CoreOps.lean: for each operation of Machine/CoreOps.lean, what it can do: the queue stays, only the parts listed change, and the
registers and memories keep their canonical form.
-/

set_option linter.all false

namespace Sys2Proof.Machine

theorem State.setSt_touches {L : List Part} {z0 : State} {s : State} {b : Nat} {i : Nat} {v : Nat} (hz : Touches L z0 s)
    (hL : covers L [.regs] = true) :
    Touches L z0 (State.setSt s b i v) := by
  refine hz.andThen (A := [.regs]) ?_ hL
  unfold State.setSt
  repeat' first
    | (with_reducible first | intro _ | assumption | exact Touches.refl | apply State.wr_touches)
    | exact rfl | extract_lets -underBinder | split

theorem State.setPc_touches {L : List Part} {z0 : State} {s : State} {b : Nat} {i : Nat} {v : Nat} (hz : Touches L z0 s)
    (hL : covers L [.regs] = true) :
    Touches L z0 (State.setPc s b i v) := by
  refine hz.andThen (A := [.regs]) ?_ hL
  unfold State.setPc
  repeat' first
    | (with_reducible first | intro _ | assumption | exact Touches.refl | apply State.wr_touches)
    | exact rfl | extract_lets -underBinder | split

theorem State.setSreg_touches {L : List Part} {z0 : State} {s : State} {b : Nat} {i : Nat} {r : Nat} {v : Nat} (hz : Touches L z0 s)
    (hL : covers L [.regs] = true) :
    Touches L z0 (State.setSreg s b i r v) := by
  refine hz.andThen (A := [.regs]) ?_ hL
  unfold State.setSreg
  repeat' first
    | (with_reducible first | intro _ | assumption | exact Touches.refl | apply State.setReg_touches | apply Touches.ite)
    | exact rfl | extract_lets -underBinder | split

theorem State.applyInc_touches {L : List Part} {z0 : State} {s : State} {x : IncMsg} (hz : Touches L z0 s) (hL : covers L [.regs] = true) :
    Touches L z0 (State.applyInc s x) := by
  refine hz.andThen (A := [.regs]) ?_ hL
  unfold State.applyInc
  repeat' first
    | (with_reducible first | intro _ | assumption | exact Touches.refl | apply State.bump_touches | apply State.wr_touches | apply Touches.ite)
    | exact rfl | extract_lets -underBinder | split

theorem State.resetTs_touches {L : List Part} {z0 : State} {s : State} {ts : Nat} {tgt : Nat} {ep : Nat} (hz : Touches L z0 s)
    (hL : covers L [.regs] = true) :
    Touches L z0 (State.resetTs s ts tgt ep) := by
  refine hz.andThen (A := [.regs]) ?_ hL
  unfold State.resetTs
  repeat' first
    | (with_reducible first | intro _ | assumption | exact Touches.refl | apply State.wr_touches)
    | exact rfl | extract_lets -underBinder | split

theorem State.slipCheck_touches {L : List Part} {z0 : State} {s : State} {b : Nat} {tick : Option Nat} (hz : Touches L z0 s)
    (hL : covers L [.regs, .cores, .out, .msix, .fab] = true) :
    Touches L z0 (State.slipCheck s b tick) := by
  refine hz.andThen (A := [.regs, .cores, .out, .msix, .fab]) ?_ hL
  unfold State.slipCheck
  repeat' first
    | (with_reducible first | intro _ | assumption | exact Touches.refl | apply State.bump_touches | apply State.health_touches
                            | apply State.modCore_touches | apply State.raise_touches | apply State.wr_touches | apply Touches.ite
                            | refine Touches.ofFst (by assumption) ?_)
    | exact rfl | assumption | exact State.core_wf (by assumption) _ | (simp; assumption) | with_reducible apply CoreSt.ite_wf
    | extract_lets -underBinder | split
    | dsimp +zetaDelta only

theorem State.addJob_touches {L : List Part} {z0 : State} {s : State} {b : Nat} {j : Job} (hz : Touches L z0 s) (hL : covers L [.cores] = true) :
    Touches L z0 (State.addJob s b j) := by
  refine hz.andThen (A := [.cores]) ?_ hL
  unfold State.addJob
  repeat' first
    | (with_reducible first | intro _ | assumption | exact Touches.refl | apply State.modCore_touches)
    | exact rfl | assumption | exact State.core_wf (by assumption) _ | (simp; assumption) | extract_lets -underBinder | split

theorem State.dropJob_touches {L : List Part} {z0 : State} {s : State} {b : Nat} {ord : Nat} (hz : Touches L z0 s) (hL : covers L [.cores] = true) :
    Touches L z0 (State.dropJob s b ord) := by
  refine hz.andThen (A := [.cores]) ?_ hL
  unfold State.dropJob
  repeat' first
    | (with_reducible first | intro _ | assumption | exact Touches.refl | apply State.modCore_touches)
    | exact rfl | assumption | exact State.core_wf (by assumption) _ | (simp; assumption) | extract_lets -underBinder | split

theorem State.retire_touches {L : List Part} {z0 : State} {s : State} {sep : Nat} {l : List MoveReq} (hz : Touches L z0 s)
    (hL : covers L [.fab] = true) :
    Touches L z0 (State.retire s sep l) := by
  refine hz.andThen (A := [.fab]) ?_ hL
  unfold State.retire
  repeat' first
    | (with_reducible first | intro _ | assumption | exact Touches.refl)
    | exact rfl | extract_lets -underBinder | split
    | (with_reducible first | apply Touches.set_fab)

theorem State.moveFail_touches {L : List Part} {z0 : State} {s : State} {b : Nat} {i : Nat} {pc : Nat} {status : Nat} (hz : Touches L z0 s)
    (hL : covers L [.regs, .out, .msix] = true) :
    Touches L z0 (State.moveFail s b i pc status) := by
  refine hz.andThen (A := [.regs, .out, .msix]) ?_ hL
  unfold State.moveFail
  repeat' first
    | (with_reducible first | intro _ | assumption | exact Touches.refl | apply State.bump_touches | apply State.raise_touches
                            | apply State.wr_touches)
    | exact rfl | extract_lets -underBinder | split

theorem State.takeTag_touches {L : List Part} {z0 : State} {s : State} {b : Nat} (hz : Touches L z0 s) (hL : covers L [.cores] = true) :
    Touches L z0 (State.takeTag s b) := by
  refine hz.andThen (A := [.cores]) ?_ hL
  unfold State.takeTag
  repeat' first
    | (with_reducible first | intro _ | assumption | exact Touches.refl | apply State.modCore_touches)
    | exact rfl | assumption | exact State.core_wf (by assumption) _ | (simp; assumption) | extract_lets -underBinder | split

theorem State.sendInc_touches {L : List Part} {z0 : State} {s : State} {b : Nat} {iss : Issued} {word : Word} {loc : Bool} {node : Nat} {ts : Nat}
    {amount : Nat} (hz : Touches L z0 s) (hL : covers L [.regs, .cores, .incs, .out, .msix, .fab] = true) :
    Touches L z0 (State.sendInc s b iss word loc node ts amount) := by
  refine hz.andThen (A := [.regs, .cores, .incs, .out, .msix, .fab]) ?_ hL
  unfold State.sendInc
  repeat' first
    | (with_reducible first | intro _ | assumption | exact Touches.refl | apply State.addJob_touches | apply State.bump_touches
                            | apply State.moveFail_touches | apply State.sendReq_touches | apply State.slipCheck_touches
                            | apply State.takeTag_touches | apply Touches.ite | refine Touches.ofFst (by assumption) ?_
                            | refine Touches.ofOpt (by assumption) ?_)
    | exact rfl | extract_lets -underBinder | split
    | (with_reducible first | apply Touches.set_incs)
    | dsimp +zetaDelta only

theorem State.sigIncs_touches {L : List Part} {z0 : State} {s : State} {b : Nat} {iss : Issued} (hz : Touches L z0 s)
    (hL : covers L [.regs, .cores, .incs, .out, .msix, .fab] = true) :
    Touches L z0 (State.sigIncs s b iss) := by
  refine hz.andThen (A := [.regs, .cores, .incs, .out, .msix, .fab]) ?_ hL
  unfold State.sigIncs
  repeat' first
    | (with_reducible first | intro _ | assumption | exact Touches.refl | apply State.sendInc_touches | apply Touches.foldl | apply Touches.foldlFst)
    | exact rfl | extract_lets -underBinder | split

theorem State.finish_touches {L : List Part} {z0 : State} {s : State} {b : Nat} {iss : Issued} (hz : Touches L z0 s)
    (hL : covers L [.regs, .cores, .incs, .out, .msix, .fab] = true) :
    Touches L z0 (State.finish s b iss) := by
  refine hz.andThen (A := [.regs, .cores, .incs, .out, .msix, .fab]) ?_ hL
  unfold State.finish
  repeat' first
    | (with_reducible first | intro _ | assumption | exact Touches.refl | apply State.sigIncs_touches | apply State.slipCheck_touches)
    | exact rfl | extract_lets -underBinder | split

theorem State.releaseLines_touches {L : List Part} {z0 : State} {s : State} {b : Nat} {i : Nat} {pc : Nat} {cancelled : Bool} (hz : Touches L z0 s)
    (hL : covers L [.caches] = true) :
    Touches L z0 (State.releaseLines s b i pc cancelled) := by
  refine hz.andThen (A := [.caches]) ?_ hL
  unfold State.releaseLines
  repeat' first
    | (with_reducible first | intro _ | assumption | exact Touches.refl | apply Touches.ite | apply Touches.modMem)
    | exact rfl | extract_lets -underBinder
    | (refine ⟨?_, ?_, ?_, ?_, ?_, ?_, ?_⟩ <;> first
      | exact .inl (by decide) | exact .inr rfl | exact fun h => h | exact memStore_wf _ _ | exact memFilter_wf _)
    | split

theorem State.cancelProbes_touches {L : List Part} {z0 : State} {s : State} {b : Nat} {f : Probe → Bool} (hz : Touches L z0 s)
    (hL : covers L [.regs, .cores, .out, .msix, .caches] = true) :
    Touches L z0 (State.cancelProbes s b f) := by
  refine hz.andThen (A := [.regs, .cores, .out, .msix, .caches]) ?_ hL
  unfold State.cancelProbes
  repeat' first
    | (with_reducible first | intro _ | assumption | exact Touches.refl | apply State.bump_touches | apply State.modCore_touches
                            | apply State.raise_touches | apply State.releaseLines_touches | apply Touches.ite | apply Touches.foldl
                            | apply Touches.foldlFst)
    | exact rfl | assumption | exact State.core_wf (by assumption) _ | with_reducible apply CoreSt.foldl_wf | (simp; assumption)
    | with_reducible apply CoreSt.ite_wf | extract_lets -underBinder | split

theorem State.flush_touches {L : List Part} {z0 : State} {s : State} {b : Nat} {i : Nat} {next : Option Nat} (hz : Touches L z0 s)
    (hL : covers L [.regs, .cores, .out, .msix, .caches] = true) :
    Touches L z0 (State.flush s b i next) := by
  refine hz.andThen (A := [.regs, .cores, .out, .msix, .caches]) ?_ hL
  unfold State.flush
  repeat' first
    | (with_reducible first | intro _ | assumption | exact Touches.refl | apply State.cancelProbes_touches | apply State.setStream_touches)
    | exact rfl | extract_lets -underBinder | split

theorem State.unitFault_touches {L : List Part} {z0 : State} {s : State} {a : Nat} {code : Nat} {i : Nat} {pc : Nat} (hz : Touches L z0 s)
    (hL : covers L [.regs] = true) :
    Touches L z0 (State.unitFault s a code i pc) := by
  refine hz.andThen (A := [.regs]) ?_ hL
  unfold State.unitFault
  repeat' first
    | (with_reducible first | intro _ | assumption | exact Touches.refl | apply State.bump_touches | apply State.wr_touches)
    | exact rfl | extract_lets -underBinder | split

theorem State.reject_touches {L : List Part} {z0 : State} {s : State} {b : Nat} {i : Nat} {pc : Nat} {unit : Nat} {code : Nat} (hz :
    Touches L z0 s) (hL : covers L [.regs, .cores, .out, .msix, .caches] = true) :
    Touches L z0 (State.reject s b i pc unit code) := by
  refine hz.andThen (A := [.regs, .cores, .out, .msix, .caches]) ?_ hL
  unfold State.reject
  repeat' first
    | (with_reducible first | intro _ | assumption | exact Touches.refl | apply State.flush_touches | apply State.raise_touches
                            | apply State.setPc_touches | apply State.setReg_touches | apply State.setSt_touches | apply State.wr_touches)
    | exact rfl | extract_lets -underBinder | split

end Sys2Proof.Machine
end

