-- ==== Sys2Proof/Laws/Touch/Operands.lean ====
section
/-!
SUPPORT. Laws/Touch/Operands.lean: for each operation of Machine/Operands.lean, what it can do: the queue stays, only the parts listed change, and the
registers and memories keep their canonical form.
-/

set_option linter.all false

namespace Sys2Proof.Machine

theorem State.countIssue_touches {L : List Part} {z0 : State} {s : State} {b : Nat} {i : Nat} (hz : Touches L z0 s)
    (hL : covers L [.regs, .cores] = true) :
    Touches L z0 (State.countIssue s b i) := by
  refine hz.andThen (A := [.regs, .cores]) ?_ hL
  unfold State.countIssue
  repeat' first
    | (with_reducible first | intro _ | assumption | exact Touches.refl | apply State.bump_touches | apply State.modCore_touches
                            | apply Touches.ite | apply Touches.foldl | apply Touches.foldlFst)
    | exact rfl | assumption | exact State.core_wf (by assumption) _ | with_reducible apply CoreSt.foldl_wf | (simp; assumption)
    | with_reducible apply CoreSt.ite_wf | extract_lets -underBinder | split

theorem State.accept_touches {L : List Part} {z0 : State} {s : State} {b : Nat} {i : Nat} {h : Head} (hz : Touches L z0 s)
    (hL : covers L [.regs, .cores] = true) :
    Touches L z0 (State.accept s b i h) := by
  refine hz.andThen (A := [.regs, .cores]) ?_ hL
  unfold State.accept
  repeat' first
    | (with_reducible first | intro _ | assumption | exact Touches.refl | apply State.bump_touches | apply State.countIssue_touches
                            | apply State.setPc_touches | apply State.setReg_touches | apply State.setStream_touches | apply Touches.ite)
    | exact rfl | extract_lets -underBinder | split

theorem State.jump_touches {L : List Part} {z0 : State} {s : State} {b : Nat} {i : Nat} {target : Nat} (hz : Touches L z0 s)
    (hL : covers L [.regs, .cores, .out, .msix, .caches] = true) :
    Touches L z0 (State.jump s b i target) := by
  refine hz.andThen (A := [.regs, .cores, .out, .msix, .caches]) ?_ hL
  unfold State.jump
  repeat' first
    | (with_reducible first | intro _ | assumption | exact Touches.refl | apply State.flush_touches | apply State.setPc_touches)
    | exact rfl | extract_lets -underBinder | split

theorem State.checkHead_touches {L : List Part} {z0 : State} {s : State} {b : Nat} {i : Nat} (hz : Touches L z0 s)
    (hL : covers L [.regs, .cores, .out, .msix, .caches] = true) :
    Touches L z0 (State.checkHead s b i) := by
  refine hz.andThen (A := [.regs, .cores, .out, .msix, .caches]) ?_ hL
  unfold State.checkHead
  repeat' first
    | (with_reducible first | intro _ | assumption | exact Touches.refl | apply State.reject_touches | apply Touches.ite
                            | refine Touches.ofFst (by assumption) ?_)
    | exact rfl | extract_lets -underBinder | split
    | dsimp +zetaDelta only

theorem State.issue_touches {L : List Part} {z0 : State} {s : State} {b : Nat} {i : Nat} {sel : Word → Bool} {act : State → Head → State}
    (hz : Touches L z0 s) (hL : covers L [.regs, .cores, .out, .msix, .caches] = true)
    (h_act : ∀ a0 a1, Touches L z0 a0 → Touches L z0 (act a0 a1)) :
    Touches L z0 (State.issue s b i sel act) := by
  unfold State.issue
  repeat' first
    | (with_reducible first | intro _ | assumption | exact Touches.refl | apply h_act | apply State.checkHead_touches | apply Touches.ite
                            | refine Touches.ofFst (by assumption) ?_)
    | exact covers_trans hL rfl | extract_lets -underBinder | split

theorem State.complete_touches {L : List Part} {z0 : State} {s : State} {b : Nat} {i : Nat} {h : Head} {eff : State → State} (hz : Touches L z0 s)
    (hL : covers L [.regs, .cores, .incs, .out, .msix, .fab] = true)
    (h_eff : ∀ a0, Touches L z0 a0 → Touches L z0 (eff a0)) :
    Touches L z0 (State.complete s b i h eff) := by
  unfold State.complete
  repeat' first
    | (with_reducible first | intro _ | assumption | exact Touches.refl | apply h_eff | apply State.accept_touches | apply State.finish_touches)
    | exact covers_trans hL rfl | extract_lets -underBinder | split

end Sys2Proof.Machine
end

