-- ==== Sys2Proof/Laws/Touch/Sequencer.lean ====
section
/-!
SUPPORT. Laws/Touch/Sequencer.lean: for each operation of Machine/Sequencer.lean, what it can do: the queue stays, only the parts listed change, and the
registers and memories keep their canonical form.
-/

set_option linter.all false

namespace Sys2Proof.Machine

theorem execNop_touches {core : Nat} {stream : Nat} {s : State} {t : State} (hx : execNop core stream s = .next t) :
    Touches [.regs, .cores, .incs, .out, .msix, .fab, .caches] s t := by
  obtain rfl := Host.Outcome.next.inj hx
  repeat' first
    | (with_reducible first | intro _ | assumption | exact Touches.refl | apply State.complete_touches | apply State.issue_touches
                            | exact Touches.ofId (by assumption))
    | exact rfl | extract_lets -underBinder | split

theorem execHalt_touches {core : Nat} {stream : Nat} {s : State} {t : State} (hx : execHalt core stream s = .next t) :
    Touches [.regs, .cores, .out, .msix, .caches] s t := by
  obtain rfl := Host.Outcome.next.inj hx
  repeat' first
    | (with_reducible first | intro _ | assumption | exact Touches.refl | apply State.accept_touches | apply State.issue_touches
                            | apply State.setPc_touches | apply State.setStream_touches)
    | exact rfl | extract_lets -underBinder | split

theorem State.endHalts_touches {L : List Part} {z0 : State} {s : State} {core : Nat} {stream : Nat} (hz : Touches L z0 s)
    (hL : covers L [.regs, .cores, .incs, .out, .msix, .fab] = true) :
    Touches L z0 (State.endHalts s core stream) := by
  refine hz.andThen (A := [.regs, .cores, .incs, .out, .msix, .fab]) ?_ hL
  unfold State.endHalts
  repeat' first
    | (with_reducible first | intro _ | assumption | exact Touches.refl | apply State.finish_touches | apply State.setStream_touches
                            | apply Touches.ite | apply Touches.foldl | apply Touches.foldlFst)
    | exact rfl | extract_lets -underBinder | split

theorem State.entersHalted_touches {L : List Part} {z0 : State} {s : State} {core : Nat} {stream : Nat} (hz : Touches L z0 s)
    (hL : covers L [.regs, .cores, .incs, .out, .msix, .fab, .caches] = true) :
    Touches L z0 (State.entersHalted s core stream) := by
  refine hz.andThen (A := [.regs, .cores, .incs, .out, .msix, .fab, .caches]) ?_ hL
  unfold State.entersHalted
  repeat' first
    | (with_reducible first | intro _ | assumption | exact Touches.refl | apply State.endHalts_touches | apply State.finish_touches
                            | apply State.flush_touches | apply State.setSt_touches | apply State.setStream_touches | apply Touches.ite
                            | refine Touches.ofFst (by assumption) ?_)
    | exact rfl | extract_lets -underBinder | split
    | dsimp +zetaDelta only

theorem execSmovi_touches {core : Nat} {stream : Nat} {s : State} {t : State} (hx : execSmovi core stream s = .next t) :
    Touches [.regs, .cores, .incs, .out, .msix, .fab, .caches] s t := by
  obtain rfl := Host.Outcome.next.inj hx
  repeat' first
    | (with_reducible first | intro _ | assumption | exact Touches.refl | apply State.complete_touches | apply State.issue_touches
                            | apply State.setSreg_touches | apply Touches.ite)
    | exact rfl | extract_lets -underBinder | split

theorem execSalu_touches {core : Nat} {stream : Nat} {s : State} {t : State} (hx : execSalu core stream s = .next t) :
    Touches [.regs, .cores, .incs, .out, .msix, .fab, .caches] s t := by
  obtain rfl := Host.Outcome.next.inj hx
  repeat' first
    | (with_reducible first | intro _ | assumption | exact Touches.refl | apply State.complete_touches | apply State.issue_touches
                            | apply State.reject_touches | apply State.setSreg_touches | refine Touches.ofFst (by assumption) ?_)
    | exact rfl | extract_lets -underBinder | split

theorem execSld_touches {core : Nat} {stream : Nat} {s : State} {t : State} (hx : execSld core stream s = .next t) :
    Touches [.regs, .cores, .out, .msix, .caches] s t := by
  obtain rfl := Host.Outcome.next.inj hx
  repeat' first
    | (with_reducible first | intro _ | assumption | exact Touches.refl | apply State.accept_touches | apply State.issue_touches
                            | apply State.reject_touches | apply State.setStream_touches | refine Touches.ofFst (by assumption) ?_)
    | exact rfl | extract_lets -underBinder | split
    | dsimp +zetaDelta only

theorem execSldLoadComplete_touches {core : Nat} {stream : Nat} {reg : Nat} {s : State} {t : State}
    (hx : execSldLoadComplete core stream reg s = .next t) : Touches [.regs, .cores, .incs, .out, .msix, .fab] s t := by
  obtain rfl := Host.Outcome.next.inj hx
  repeat' first
    | (with_reducible first | intro _ | assumption | exact Touches.refl | apply State.finish_touches | apply State.setSreg_touches
                            | apply State.setStream_touches | refine Touches.ofFst (by assumption) ?_)
    | exact rfl | extract_lets -underBinder | split
    | dsimp +zetaDelta only

theorem execSst_touches {core : Nat} {stream : Nat} {s : State} {t : State} (hx : execSst core stream s = .next t) :
    Touches [.regs, .cores, .incs, .out, .msix, .fab, .caches] s t := by
  obtain rfl := Host.Outcome.next.inj hx
  repeat' first
    | (with_reducible first | intro _ | assumption | exact Touches.refl | apply State.complete_touches | apply State.issue_touches
                            | apply State.modCore_touches | apply State.reject_touches | refine Touches.ofFst (by assumption) ?_)
    | exact rfl | assumption | exact State.core_wf (by assumption) _ | (simp; assumption) | with_reducible apply CoreSt.locStore_wf
    | extract_lets -underBinder | split
    | dsimp +zetaDelta only

theorem execBr_touches {core : Nat} {stream : Nat} {s : State} {t : State} (hx : execBr core stream s = .next t) :
    Touches [.regs, .cores, .incs, .out, .msix, .fab, .caches] s t := by
  obtain rfl := Host.Outcome.next.inj hx
  repeat' first
    | (with_reducible first | intro _ | assumption | exact Touches.refl | apply State.complete_touches | apply State.issue_touches
                            | apply State.jump_touches | apply State.reject_touches | apply Touches.ite | refine Touches.ofFst (by assumption) ?_)
    | exact rfl | extract_lets -underBinder | split

theorem execDbnz_touches {core : Nat} {stream : Nat} {s : State} {t : State} (hx : execDbnz core stream s = .next t) :
    Touches [.regs, .cores, .incs, .out, .msix, .fab, .caches] s t := by
  obtain rfl := Host.Outcome.next.inj hx
  repeat' first
    | (with_reducible first | intro _ | assumption | exact Touches.refl | apply State.complete_touches | apply State.issue_touches
                            | apply State.jump_touches | apply State.setPc_touches | apply State.setSreg_touches | apply Touches.ite)
    | exact rfl | extract_lets -underBinder | split

theorem execTinc_touches {core : Nat} {stream : Nat} {s : State} {t : State} (hx : execTinc core stream s = .next t) :
    Touches [.regs, .cores, .incs, .out, .msix, .fab, .caches] s t := by
  obtain rfl := Host.Outcome.next.inj hx
  repeat' first
    | (with_reducible first | intro _ | assumption | exact Touches.refl | apply State.accept_touches | apply State.finish_touches
                            | apply State.issue_touches | apply State.sendInc_touches | apply Touches.ite)
    | exact rfl | extract_lets -underBinder | split

theorem execTadv_touches {core : Nat} {stream : Nat} {s : State} {t : State} (hx : execTadv core stream s = .next t) :
    Touches [.regs, .cores, .incs, .out, .msix, .fab, .caches] s t := by
  obtain rfl := Host.Outcome.next.inj hx
  repeat' first
    | (with_reducible first | intro _ | assumption | exact Touches.refl | apply State.complete_touches | apply State.issue_touches
                            | apply State.wr_touches | apply Touches.ite)
    | exact rfl | extract_lets -underBinder | split

theorem execTreset_touches {core : Nat} {stream : Nat} {s : State} {t : State} (hx : execTreset core stream s = .next t) :
    Touches [.regs, .cores, .incs, .out, .msix, .fab, .caches] s t := by
  obtain rfl := Host.Outcome.next.inj hx
  repeat' first
    | (with_reducible first | intro _ | assumption | exact Touches.refl | apply State.complete_touches | apply State.issue_touches
                            | apply State.resetTs_touches | apply Touches.foldl | apply Touches.foldlFst)
    | exact rfl | extract_lets -underBinder | split

theorem execTepoch_touches {core : Nat} {stream : Nat} {s : State} {t : State} (hx : execTepoch core stream s = .next t) :
    Touches [.regs, .cores, .incs, .out, .msix, .fab, .caches] s t := by
  obtain rfl := Host.Outcome.next.inj hx
  repeat' first
    | (with_reducible first | intro _ | assumption | exact Touches.refl | apply State.complete_touches | apply State.issue_touches
                            | apply State.wr_touches)
    | exact rfl | extract_lets -underBinder | split

theorem execTickb_touches {core : Nat} {stream : Nat} {s : State} {t : State} (hx : execTickb core stream s = .next t) :
    Touches [.regs, .cores, .incs, .out, .msix, .fab, .caches] s t := by
  obtain rfl := Host.Outcome.next.inj hx
  repeat' first
    | (with_reducible first | intro _ | assumption | exact Touches.refl | apply State.complete_touches | apply State.issue_touches
                            | apply State.wr_touches | apply Touches.ite)
    | exact rfl | extract_lets -underBinder | split

theorem execHint_touches {core : Nat} {stream : Nat} {s : State} {t : State} (hx : execHint core stream s = .next t) :
    Touches [.regs, .cores, .incs, .out, .msix, .fab, .caches, .pwr] s t := by
  obtain rfl := Host.Outcome.next.inj hx
  repeat' first
    | (with_reducible first | intro _ | assumption | exact Touches.refl | apply State.complete_touches | apply State.issue_touches)
    | exact rfl | extract_lets -underBinder | split
    | (with_reducible first | apply Touches.set_pwr)

theorem execWaitc_touches {core : Nat} {stream : Nat} {s : State} {t : State} (hx : execWaitc core stream s = .next t) :
    Touches [.regs, .cores, .incs, .out, .msix, .fab, .caches] s t := by
  obtain rfl := Host.Outcome.next.inj hx
  repeat' first
    | (with_reducible first | intro _ | assumption | exact Touches.refl | apply State.complete_touches | apply State.issue_touches
                            | exact Touches.ofId (by assumption))
    | exact rfl | extract_lets -underBinder | split

theorem execRdt_touches {core : Nat} {stream : Nat} {s : State} {t : State} (hx : execRdt core stream s = .next t) :
    Touches [.regs, .cores, .incs, .out, .counter, .msix, .fab, .caches] s t := by
  obtain rfl := Host.Outcome.next.inj hx
  repeat' first
    | (with_reducible first | intro _ | assumption | exact Touches.refl | apply State.bumpFree_touches | apply State.complete_touches
                            | apply State.issue_touches | apply State.reject_touches | apply State.setSreg_touches | apply Touches.ite)
    | exact rfl | extract_lets -underBinder | split

theorem execInstructionFetch_touches {core : Nat} {stream : Nat} {s : State} {t : State} (hx : execInstructionFetch core stream s = .next t) :
    Touches [.regs, .cores, .out, .msix, .caches] s t := by
  obtain rfl := Host.Outcome.next.inj hx
  repeat' first
    | (with_reducible first | intro _ | assumption | exact Touches.refl | apply State.checkHead_touches | apply State.setStream_touches
                            | apply Touches.ite | refine Touches.ofFst (by assumption) ?_)
    | exact rfl | extract_lets -underBinder | split
    | dsimp +zetaDelta only

theorem execGuardWatchdog_touches {core : Nat} {stream : Nat} {s : State} {t : State} (hx : execGuardWatchdog core stream s = .next t) :
    Touches [.regs, .out, .msix] s t := by
  obtain rfl := Host.Outcome.next.inj hx
  repeat' first
    | (with_reducible first | intro _ | assumption | exact Touches.refl | apply State.raise_touches | apply State.wr_touches | apply Touches.ite
                            | refine Touches.ofFst (by assumption) ?_)
    | exact rfl | extract_lets -underBinder | split
    | dsimp +zetaDelta only

theorem execTsIncrement_touches {k : Nat} {s : State} {t : State} (hx : execTsIncrement k s = .next t) : Touches [.regs, .incs] s t := by
  obtain rfl := Host.Outcome.next.inj hx
  repeat' first
    | (with_reducible first | intro _ | assumption | exact Touches.refl | apply State.applyInc_touches | refine Touches.ofFst (by assumption) ?_)
    | exact rfl | extract_lets -underBinder | split
    | (with_reducible first | apply Touches.set_incs)

theorem State.streamStopped_touches {L : List Part} {z0 : State} {s : State} {core : Nat} {stream : Nat} (hz : Touches L z0 s)
    (hL : covers L [.regs, .cores, .out, .msix, .caches] = true) :
    Touches L z0 (State.streamStopped s core stream) := by
  refine hz.andThen (A := [.regs, .cores, .out, .msix, .caches]) ?_ hL
  unfold State.streamStopped
  repeat' first
    | (with_reducible first | intro _ | assumption | exact Touches.refl | apply State.flush_touches | apply State.setReg_touches
                            | apply State.setSt_touches | apply State.setStream_touches | apply Touches.ite)
    | exact rfl | extract_lets -underBinder | split

end Sys2Proof.Machine
end

