-- ==== Sys2Proof/Laws/Touch/Engines.lean ====
section
/-!
SUPPORT. Laws/Touch/Engines.lean: for each operation of Machine/Engines.lean, what it can do: the queue stays, only the parts listed change, and the
registers and memories keep their canonical form.
-/

set_option linter.all false

namespace Sys2Proof.Machine

theorem engReject_touches {L : List Part} {z0 : State} {s : State} {b : Nat} {i : Nat} {h : Head} {code : Nat} (hz : Touches L z0 s)
    (hL : covers L [.regs, .cores, .out, .msix, .caches] = true) :
    Touches L z0 (engReject s b i h code) := by
  refine hz.andThen (A := [.regs, .cores, .out, .msix, .caches]) ?_ hL
  unfold engReject
  repeat' first
    | (with_reducible first | intro _ | assumption | exact Touches.refl | apply State.reject_touches | apply State.unitFault_touches
                            | apply Touches.foldl | apply Touches.foldlFst)
    | exact rfl | extract_lets -underBinder | split

theorem execMwld_touches {core : Nat} {stream : Nat} {s : State} {t : State} (hx : execMwld core stream s = .next t) :
    Touches [.regs, .cores, .incs, .out, .msix, .fab, .caches] s t := by
  obtain rfl := Host.Outcome.next.inj hx
  repeat' first
    | (with_reducible first | intro _ | assumption | exact Touches.refl | apply State.accept_touches | apply State.addJob_touches
                            | apply State.complete_touches | apply State.issue_touches | apply State.modCore_touches | apply engReject_touches
                            | apply Touches.ite | exact Touches.ofId (by assumption) | apply Touches.foldl | apply Touches.foldlFst
                            | refine Touches.ofFst (by assumption) ?_)
    | exact rfl | assumption | exact State.core_wf (by assumption) _ | with_reducible apply CoreSt.foldl_wf | (simp; assumption)
    | with_reducible apply CoreSt.ite_wf | extract_lets -underBinder | split
    | dsimp +zetaDelta only

theorem execMwldBufferValid_touches {core : Nat} {ord : Nat} {s : State} {t : State} (hx : execMwldBufferValid core ord s = .next t) :
    Touches [.regs, .cores, .incs, .out, .counter, .msix, .fab] s t := by
  obtain rfl := Host.Outcome.next.inj hx
  repeat' first
    | (with_reducible first | intro _ | assumption | exact Touches.refl | apply State.bump_touches | apply State.bumpFree_touches
                            | apply State.dropJob_touches | apply State.finish_touches | apply State.modCore_touches | apply Touches.ite
                            | apply Touches.foldl | apply Touches.foldlFst | refine Touches.ofFst (by assumption) ?_)
    | exact rfl | assumption | exact State.core_wf (by assumption) _ | with_reducible apply CoreSt.foldl_wf | (simp; assumption)
    | with_reducible apply CoreSt.ite_wf | extract_lets -underBinder | split
    | dsimp +zetaDelta only

theorem takeSlots_touches {L : List Part} {z0 : State} {s : State} {b : Nat} {i : Nat} {w : Word} (hz : Touches L z0 s)
    (hL : covers L [.regs, .cores] = true) :
    Touches L z0 ((takeSlots s b i w).1) := by
  refine hz.andThen (A := [.regs, .cores]) ?_ hL
  unfold takeSlots
  refine TouchesP.out ?_
  repeat' first
    | (with_reducible first | intro _ | assumption | exact Touches.refl | apply State.modCore_touches | apply State.orF_touches
                            | apply State.wr_touches | apply Touches.ite | apply TouchesP.ite | apply TouchesP.pairIte | apply Touches.foldl
                            | apply Touches.foldlFst | refine Touches.ofFst (by assumption) ?_)
    | exact rfl | assumption | exact State.core_wf (by assumption) _ | with_reducible apply CoreSt.foldl_wf | (simp; assumption)
    | with_reducible apply CoreSt.ite_wf | extract_lets -underBinder | split
    | (with_reducible first | apply TouchesP.pair)
    | (show Touches _ _ (Prod.fst _); dsimp only)

theorem execMmul_touches {core : Nat} {stream : Nat} {s : State} {t : State} (hx : execMmul core stream s = .next t) :
    Touches [.regs, .cores, .incs, .out, .msix, .fab, .caches] s t := by
  obtain rfl := Host.Outcome.next.inj hx
  repeat' first
    | (with_reducible first | intro _ | assumption | exact Touches.refl | apply State.accept_touches | apply State.addJob_touches
                            | apply State.complete_touches | apply State.issue_touches | apply State.modCore_touches | apply engReject_touches
                            | apply takeSlots_touches | apply Touches.ite | exact Touches.ofId (by assumption) | apply Touches.foldl
                            | apply Touches.foldlFst | refine Touches.ofFst (by assumption) ?_)
    | exact rfl | assumption | exact State.core_wf (by assumption) _ | with_reducible apply CoreSt.foldl_wf | (simp; assumption)
    | with_reducible apply CoreSt.ite_wf | extract_lets -underBinder | split
    | (show Touches _ _ (Prod.fst _); dsimp only)
    | dsimp +zetaDelta only

theorem mmulOne_touches {L : List Part} {z0 : State} {s : State} {b : Nat} {j : Job} {k : Nat} {e : Nat} (hz : Touches L z0 s)
    (hL : covers L [.regs, .cores] = true) :
    Touches L z0 (mmulOne s b j k e) := by
  refine hz.andThen (A := [.regs, .cores]) ?_ hL
  unfold mmulOne
  repeat' first
    | (with_reducible first | intro _ | assumption | exact Touches.refl | apply State.bump_touches | apply State.modCore_touches
                            | apply State.setReg_touches | apply Touches.ite | refine Touches.ofFst (by assumption) ?_)
    | exact rfl | assumption | exact State.core_wf (by assumption) _ | (simp; assumption) | with_reducible apply CoreSt.ite_wf
    | extract_lets -underBinder | split
    | dsimp +zetaDelta only

theorem execMmulComplete_touches {core : Nat} {ord : Nat} {s : State} {t : State} (hx : execMmulComplete core ord s = .next t) :
    Touches [.regs, .cores, .incs, .out, .counter, .msix, .fab] s t := by
  obtain rfl := Host.Outcome.next.inj hx
  repeat' first
    | (with_reducible first | intro _ | assumption | exact Touches.refl | apply State.bump_touches | apply State.bumpFree_touches
                            | apply State.dropJob_touches | apply State.finish_touches | apply State.modCore_touches | apply mmulOne_touches
                            | apply Touches.ite | apply Touches.foldl | apply Touches.foldlFst | refine Touches.ofFst (by assumption) ?_)
    | exact rfl | assumption | exact State.core_wf (by assumption) _ | with_reducible apply CoreSt.foldl_wf | (simp; assumption)
    | with_reducible apply CoreSt.ite_wf | extract_lets -underBinder | split
    | dsimp +zetaDelta only

end Sys2Proof.Machine
end

