-- ==== Sys2Proof/Laws/Touch/DrainUnit.lean ====
section
/-!
SUPPORT. Laws/Touch/DrainUnit.lean: for each operation of Machine/DrainUnit.lean, what it can do: the queue stays, only the parts listed change, and the
registers and memories keep their canonical form.
-/

set_option linter.all false

namespace Sys2Proof.Machine

theorem State.tally_touches {L : List Part} {z0 : State} {s : State} {b : Nat} {n : Nat} {t : TallyCount} (hz : Touches L z0 s)
    (hL : covers L [.regs] = true) :
    Touches L z0 (State.tally s b n t) := by
  refine hz.andThen (A := [.regs]) ?_ hL
  unfold State.tally
  repeat' first
    | (with_reducible first | intro _ | assumption | exact Touches.refl | apply State.bump_touches | apply Touches.ite)
    | exact rfl | extract_lets -underBinder | split

theorem drReject_touches {L : List Part} {z0 : State} {s : State} {b : Nat} {i : Nat} {h : Head} {code : Nat} (hz : Touches L z0 s)
    (hL : covers L [.regs, .cores, .out, .msix, .caches] = true) :
    Touches L z0 (drReject s b i h code) := by
  refine hz.andThen (A := [.regs, .cores, .out, .msix, .caches]) ?_ hL
  unfold drReject
  repeat' first
    | (with_reducible first | intro _ | assumption | exact Touches.refl | apply State.reject_touches | apply State.unitFault_touches
                            | apply State.wr_touches)
    | exact rfl | extract_lets -underBinder | split

theorem execAccld_touches {core : Nat} {stream : Nat} {s : State} {t : State} (hx : execAccld core stream s = .next t) :
    Touches [.regs, .cores, .incs, .out, .msix, .fab, .caches] s t := by
  obtain rfl := Host.Outcome.next.inj hx
  repeat' first
    | (with_reducible first | intro _ | assumption | exact Touches.refl | apply State.accept_touches | apply State.addJob_touches
                            | apply State.complete_touches | apply State.issue_touches | apply drReject_touches | apply Touches.ite
                            | exact Touches.ofId (by assumption) | refine Touches.ofFst (by assumption) ?_)
    | exact rfl | extract_lets -underBinder | split
    | dsimp +zetaDelta only

theorem execAccldComplete_touches {core : Nat} {ord : Nat} {s : State} {t : State} (hx : execAccldComplete core ord s = .next t) :
    Touches [.regs, .cores, .incs, .out, .counter, .msix, .fab] s t := by
  obtain rfl := Host.Outcome.next.inj hx
  repeat' first
    | (with_reducible first | intro _ | assumption | exact Touches.refl | apply State.bump_touches | apply State.bumpFree_touches
                            | apply State.dropJob_touches | apply State.finish_touches | apply State.modCore_touches | apply State.setReg_touches
                            | apply Touches.ite | apply Touches.foldl | apply Touches.foldlFst | refine Touches.ofFst (by assumption) ?_)
    | exact rfl | assumption | exact State.core_wf (by assumption) _ | with_reducible apply CoreSt.foldl_wf | (simp; assumption)
    | with_reducible apply CoreSt.ite_wf | extract_lets -underBinder | split
    | dsimp +zetaDelta only

theorem execDrain_touches {core : Nat} {stream : Nat} {s : State} {t : State} (hx : execDrain core stream s = .next t) :
    Touches [.regs, .cores, .incs, .out, .msix, .fab, .caches] s t := by
  obtain rfl := Host.Outcome.next.inj hx
  repeat' first
    | (with_reducible first | intro _ | assumption | exact Touches.refl | apply State.accept_touches | apply State.addJob_touches
                            | apply State.complete_touches | apply State.issue_touches | apply drReject_touches | apply Touches.ite
                            | exact Touches.ofId (by assumption) | refine Touches.ofFst (by assumption) ?_)
    | exact rfl | extract_lets -underBinder | split
    | dsimp +zetaDelta only

theorem execHookRow_touches {core : Nat} {eng : Nat} {s : State} {t : State} (hx : execHookRow core eng s = .next t) :
    Touches [.regs, .cores, .counter] s t := by
  obtain rfl := Host.Outcome.next.inj hx
  repeat' first
    | (with_reducible first | intro _ | assumption | exact Touches.refl | apply State.bump_touches | apply State.bumpFree_touches
                            | apply State.modCore_touches | apply Touches.ite | apply Touches.foldl | apply Touches.foldlFst
                            | refine Touches.ofFst (by assumption) ?_)
    | exact rfl | assumption | exact State.core_wf (by assumption) _ | with_reducible apply CoreSt.foldl_wf | (simp; assumption)
    | with_reducible apply CoreSt.ite_wf | extract_lets -underBinder | split
    | dsimp +zetaDelta only

theorem execDrainComplete_touches {core : Nat} {ord : Nat} {s : State} {t : State} (hx : execDrainComplete core ord s = .next t) :
    Touches [.regs, .cores, .incs, .out, .counter, .msix, .fab] s t := by
  obtain rfl := Host.Outcome.next.inj hx
  repeat' first
    | (with_reducible first | intro _ | assumption | exact Touches.refl | apply State.bump_touches | apply State.bumpFree_touches
                            | apply State.dropJob_touches | apply State.finish_touches | apply State.modCore_touches | apply State.orF_touches
                            | apply State.setReg_touches | apply State.tally_touches | apply Touches.ite | apply Touches.foldl
                            | apply Touches.foldlFst | refine Touches.ofFst (by assumption) ?_)
    | exact rfl | assumption | exact State.core_wf (by assumption) _ | with_reducible apply CoreSt.foldl_wf | (simp; assumption)
    | with_reducible apply CoreSt.applyStores_wf | with_reducible apply releaseOwner_wf | with_reducible apply CoreSt.ite_wf
    | extract_lets -underBinder | split
    | dsimp +zetaDelta only

end Sys2Proof.Machine
end

