-- ==== Sys2Proof/Laws/Touch/QuantControl.lean ====
section
/-!
SUPPORT. Laws/Touch/QuantControl.lean: for each operation of Machine/QuantControl.lean, what it can do: the queue stays, only the parts listed change, and the
registers and memories keep their canonical form.
-/

set_option linter.all false

namespace Sys2Proof.Machine

theorem qcReject_touches {L : List Part} {z0 : State} {s : State} {b : Nat} {i : Nat} {h : Head} {code : Nat} (hz : Touches L z0 s)
    (hL : covers L [.regs, .cores, .out, .msix, .caches] = true) :
    Touches L z0 (qcReject s b i h code) := by
  refine hz.andThen (A := [.regs, .cores, .out, .msix, .caches]) ?_ hL
  unfold qcReject
  repeat' first
    | (with_reducible first | intro _ | assumption | exact Touches.refl | apply State.reject_touches | apply State.unitFault_touches)
    | exact rfl | extract_lets -underBinder | split

theorem execSsmul_touches {core : Nat} {stream : Nat} {s : State} {t : State} (hx : execSsmul core stream s = .next t) :
    Touches [.regs, .cores, .incs, .out, .msix, .fab, .caches] s t := by
  obtain rfl := Host.Outcome.next.inj hx
  repeat' first
    | (with_reducible first | intro _ | assumption | exact Touches.refl | apply State.accept_touches | apply State.addJob_touches
                            | apply State.finish_touches | apply State.issue_touches | apply State.modCore_touches | apply qcReject_touches
                            | apply Touches.ite | refine Touches.ofFst (by assumption) ?_)
    | exact rfl | assumption | exact State.core_wf (by assumption) _ | (simp; assumption) | with_reducible apply CoreSt.ite_wf
    | extract_lets -underBinder | split
    | dsimp +zetaDelta only

theorem execSsmulComplete_touches {core : Nat} {ord : Nat} {s : State} {t : State} (hx : execSsmulComplete core ord s = .next t) :
    Touches [.regs, .cores, .incs, .out, .counter, .msix, .fab] s t := by
  obtain rfl := Host.Outcome.next.inj hx
  repeat' first
    | (with_reducible first | intro _ | assumption | exact Touches.refl | apply State.bump_touches | apply State.bumpFree_touches
                            | apply State.dropJob_touches | apply State.finish_touches | apply State.modCore_touches | apply State.wr_touches
                            | apply Touches.ite | apply Touches.foldl | apply Touches.foldlFst | refine Touches.ofFst (by assumption) ?_)
    | exact rfl | assumption | exact State.core_wf (by assumption) _ | with_reducible apply CoreSt.foldl_wf | (simp; assumption)
    | with_reducible apply CoreSt.ite_wf | extract_lets -underBinder | split
    | dsimp +zetaDelta only

theorem clearSources_touches {L : List Part} {z0 : State} {s : State} {b : Nat} {i : Nat} {w : Word} {cls : Nat} (hz : Touches L z0 s)
    (hL : covers L [.regs] = true) :
    Touches L z0 (clearSources s b i w cls) := by
  refine hz.andThen (A := [.regs]) ?_ hL
  unfold clearSources
  repeat' first
    | (with_reducible first | intro _ | assumption | exact Touches.refl | apply State.setReg_touches | apply State.wr_touches | apply Touches.ite
                            | apply Touches.foldl | apply Touches.foldlFst)
    | exact rfl | extract_lets -underBinder | split

theorem degrade_touches {L : List Part} {z0 : State} {s : State} {b : Nat} {i : Nat} {h : Head} {cls : Nat} {reason : Nat} {iss : Issued}
    {held : List Issued} (hz : Touches L z0 s) (hL : covers L [.regs, .cores, .marks] = true) :
    Touches L z0 (degrade s b i h cls reason iss held) := by
  refine hz.andThen (A := [.regs, .cores, .marks]) ?_ hL
  unfold degrade
  repeat' first
    | (with_reducible first | intro _ | assumption | exact Touches.refl | apply State.addJob_touches | apply State.bump_touches
                            | apply State.wr_touches | apply Touches.foldl | apply Touches.foldlFst)
    | exact rfl | extract_lets -underBinder | split
    | (with_reducible first | apply Touches.set_marks)

theorem checkTrouble_touches {L : List Part} {z0 : State} {s : State} {b : Nat} {i : Nat} {h : Head} {iss : Issued} {cls : Nat} (hz :
    Touches L z0 s) (hL : covers L [.regs, .cores, .marks, .out, .msix, .fab, .caches] = true) :
    Touches L z0 (checkTrouble s b i h iss cls) := by
  refine hz.andThen (A := [.regs, .cores, .marks, .out, .msix, .fab, .caches]) ?_ hL
  unfold checkTrouble
  repeat' first
    | (with_reducible first | intro _ | assumption | exact Touches.refl | apply State.bump_touches | apply State.jump_touches
                            | apply State.setStream_touches | apply State.slipCheck_touches | apply State.wr_touches | apply degrade_touches
                            | apply Touches.ite)
    | exact rfl | extract_lets -underBinder | split

theorem execSnchkCheck_touches {core : Nat} {stream : Nat} {s : State} {t : State} (hx : execSnchkCheck core stream s = .next t) :
    Touches [.regs, .cores, .incs, .marks, .out, .msix, .fab, .caches] s t := by
  obtain rfl := Host.Outcome.next.inj hx
  repeat' first
    | (with_reducible first | intro _ | assumption | exact Touches.refl | apply State.accept_touches | apply State.finish_touches
                            | apply State.issue_touches | apply checkTrouble_touches | apply clearSources_touches | apply Touches.ite)
    | exact rfl | extract_lets -underBinder | split

theorem execSnchkEnd_touches {core : Nat} {stream : Nat} {s : State} {t : State} (hx : execSnchkEnd core stream s = .next t) :
    Touches [.regs, .cores, .incs, .marks, .out, .msix, .fab, .caches] s t := by
  obtain rfl := Host.Outcome.next.inj hx
  repeat' first
    | (with_reducible first | intro _ | assumption | exact Touches.refl | apply State.accept_touches | apply State.finish_touches
                            | apply State.issue_touches | apply State.jump_touches | apply State.setStream_touches | apply State.sigIncs_touches
                            | apply State.wr_touches | apply clearSources_touches | apply degrade_touches | apply qcReject_touches
                            | apply Touches.ite | apply Touches.foldl | apply Touches.foldlFst)
    | exact rfl | extract_lets -underBinder | split

end Sys2Proof.Machine
end

