-- ==== Sys2Proof/Laws/Touch/VectorEngine.lean ====
section
/-!
SUPPORT. Laws/Touch/VectorEngine.lean: for each operation of Machine/VectorEngine.lean, what it can do: the queue stays, only the parts listed change, and the
registers and memories keep their canonical form.
-/

set_option linter.all false

namespace Sys2Proof.Machine

/-! A vector instruction stores by locStore alone, so core memory keeps its form. -/

theorem veStore_wf {v : VRun} {a : List Nat} {k : Nat} {t : Fmt} {fixed : Option Nat} {rm : Rnd} {keep : Nat → Nat} {r first : Nat}
    {main : Bool} {x : List Nat} (h : Memory.wf v.c.mem = true) :
    Memory.wf (veStore v a k t fixed rm keep r first main x).c.mem = true :=
  CoreSt.ite_wf (CoreSt.locStore_wf _ _ (CoreSt.locStore_wf _ _ h)) (CoreSt.locStore_wf _ _ h)

theorem slotGroup_wf {slot a : List Nat} {ctx : Nat} {v : VRun} {g : Nat × Nat × Nat} (h : Memory.wf v.c.mem = true) :
    Memory.wf (slotGroup slot a ctx v g).1.c.mem = true :=
  foldl_keeps (P := fun q : VRun × List Nat => Memory.wf q.1.c.mem = true) h fun _ _ hq => hq

theorem runVmap_wf {slot a : List Nat} {ctx keep : Nat} {c : CoreSt} (h : Memory.wf c.mem = true) :
    Memory.wf (runVmap slot a ctx keep c).c.mem = true :=
  foldl_keeps (P := fun v : VRun => Memory.wf v.c.mem = true) h fun _ _ hv =>
    foldl_keeps (P := fun v : VRun => Memory.wf v.c.mem = true) (slotGroup_wf hv) fun _ _ hw => veStore_wf hw

theorem runVcvt_wf {w : Word} {a : List Nat} {keep : Nat} {c : CoreSt} (h : Memory.wf c.mem = true) :
    Memory.wf (runVcvt w a keep c).c.mem = true := by
  refine foldl_keeps (P := fun v : VRun => Memory.wf v.c.mem = true) h fun v g hv => ?_
  dsimp only
  split
  · exact CoreSt.ite_wf (CoreSt.locStore_wf _ _ (CoreSt.locStore_wf _ _ hv)) (CoreSt.locStore_wf _ _ hv)
  · exact CoreSt.ite_wf (CoreSt.locStore_wf _ _ (CoreSt.locStore_wf _ _ hv)) (CoreSt.locStore_wf _ _ hv)

theorem runVred_wf {w : Word} {slot a : List Nat} {ctx : Nat} {c : CoreSt} (h : Memory.wf c.mem = true) :
    Memory.wf (runVred w slot a ctx c).c.mem = true := by
  refine foldl_keeps (P := fun v : VRun => Memory.wf v.c.mem = true) h fun v r hv => ?_
  refine CoreSt.locStore_wf _ _ ?_
  split
  · exact foldl_keeps (P := fun q : VRun × List (WithEv Nat) => Memory.wf q.1.c.mem = true) hv fun _ _ hq => slotGroup_wf hq
  · exact hv

theorem runVkrn_wf {w : Word} {a : List Nat} {keep : Nat} {c : CoreSt} (h : Memory.wf c.mem = true) :
    Memory.wf (runVkrn w a keep c).c.mem = true := by
  refine foldl_keeps (P := fun v : VRun => Memory.wf v.c.mem = true) h fun v r hv => ?_
  dsimp only
  split
  · exact CoreSt.locStore_wf _ _ hv
  · have h1 : ∀ (k : Nat) t fx rm x m y, Memory.wf (veStore ⟨v.c, x, v.tally⟩ a k t fx rm (fun _ => keep) r 0 m y).c.mem = true :=
      fun k t fx rm x m y => veStore_wf hv
    split
    · refine CoreSt.locStore_wf _ _ (CoreSt.locStore_wf _ _ ?_)
      split
      · exact veStore_wf (h1 _ _ _ _ _ _ _)
      · exact h1 _ _ _ _ _ _ _
    · split
      · exact veStore_wf (h1 _ _ _ _ _ _ _)
      · exact h1 _ _ _ _ _ _ _

theorem veRun_wf {j : Job} {keep : Nat} {c : CoreSt} (h : Memory.wf c.mem = true) : Memory.wf (veRun j keep c).c.mem = true := by
  unfold veRun
  split
  · exact runVmap_wf h
  · exact runVcvt_wf h
  · exact runVred_wf h
  · exact runVkrn_wf h

theorem veReject_touches {L : List Part} {z0 : State} {s : State} {b : Nat} {i : Nat} {h : Head} {code : Nat} (hz : Touches L z0 s)
    (hL : covers L [.regs, .cores, .out, .msix, .caches] = true) :
    Touches L z0 (veReject s b i h code) := by
  refine hz.andThen (A := [.regs, .cores, .out, .msix, .caches]) ?_ hL
  unfold veReject
  repeat' first
    | (with_reducible first | intro _ | assumption | exact Touches.refl | apply State.reject_touches | apply State.unitFault_touches)
    | exact rfl | extract_lets -underBinder | split

theorem veIssue_touches {L : List Part} {z0 : State} {s : State} {b : Nat} {i : Nat} {op : Nat} (hz : Touches L z0 s)
    (hL : covers L [.regs, .cores, .incs, .out, .msix, .fab, .caches] = true) :
    Touches L z0 (veIssue s b i op) := by
  refine hz.andThen (A := [.regs, .cores, .incs, .out, .msix, .fab, .caches]) ?_ hL
  unfold veIssue
  repeat' first
    | (with_reducible first | intro _ | assumption | exact Touches.refl | apply State.accept_touches | apply State.addJob_touches
                            | apply State.complete_touches | apply State.issue_touches | apply veReject_touches | apply Touches.ite
                            | exact Touches.ofId (by assumption) | refine Touches.ofFst (by assumption) ?_)
    | exact rfl | extract_lets -underBinder | split
    | dsimp +zetaDelta only

theorem execVmap_touches {core : Nat} {stream : Nat} {s : State} {t : State} (hx : execVmap core stream s = .next t) :
    Touches [.regs, .cores, .incs, .out, .msix, .fab, .caches] s t := by
  obtain rfl := Host.Outcome.next.inj hx
  repeat' first
    | (with_reducible first | intro _ | assumption | exact Touches.refl | apply veIssue_touches)
    | exact rfl | extract_lets -underBinder | split

theorem execVcvt_touches {core : Nat} {stream : Nat} {s : State} {t : State} (hx : execVcvt core stream s = .next t) :
    Touches [.regs, .cores, .incs, .out, .msix, .fab, .caches] s t := by
  obtain rfl := Host.Outcome.next.inj hx
  repeat' first
    | (with_reducible first | intro _ | assumption | exact Touches.refl | apply veIssue_touches)
    | exact rfl | extract_lets -underBinder | split

theorem execVred_touches {core : Nat} {stream : Nat} {s : State} {t : State} (hx : execVred core stream s = .next t) :
    Touches [.regs, .cores, .incs, .out, .msix, .fab, .caches] s t := by
  obtain rfl := Host.Outcome.next.inj hx
  repeat' first
    | (with_reducible first | intro _ | assumption | exact Touches.refl | apply veIssue_touches)
    | exact rfl | extract_lets -underBinder | split

theorem execVkrn_touches {core : Nat} {stream : Nat} {s : State} {t : State} (hx : execVkrn core stream s = .next t) :
    Touches [.regs, .cores, .incs, .out, .msix, .fab, .caches] s t := by
  obtain rfl := Host.Outcome.next.inj hx
  repeat' first
    | (with_reducible first | intro _ | assumption | exact Touches.refl | apply veIssue_touches)
    | exact rfl | extract_lets -underBinder | split

theorem execVsetl_touches {core : Nat} {stream : Nat} {s : State} {t : State} (hx : execVsetl core stream s = .next t) :
    Touches [.regs, .cores, .incs, .out, .msix, .fab, .caches] s t := by
  obtain rfl := Host.Outcome.next.inj hx
  repeat' first
    | (with_reducible first | intro _ | assumption | exact Touches.refl | apply State.complete_touches | apply State.issue_touches
                            | apply State.wr_touches | apply veReject_touches | apply Touches.ite | refine Touches.ofFst (by assumption) ?_)
    | exact rfl | extract_lets -underBinder | split
    | dsimp +zetaDelta only

theorem execVsetv_touches {core : Nat} {stream : Nat} {s : State} {t : State} (hx : execVsetv core stream s = .next t) :
    Touches [.regs, .cores, .incs, .out, .msix, .fab, .caches] s t := by
  obtain rfl := Host.Outcome.next.inj hx
  repeat' first
    | (with_reducible first | intro _ | assumption | exact Touches.refl | apply State.complete_touches | apply State.issue_touches
                            | apply State.modCore_touches | apply veReject_touches | apply Touches.ite | apply Touches.foldl | apply Touches.foldlFst)
    | exact rfl | assumption | exact State.core_wf (by assumption) _ | with_reducible apply CoreSt.foldl_wf | (simp; assumption)
    | with_reducible apply CoreSt.ite_wf | extract_lets -underBinder | split

theorem execVeInstructionComplete_touches {core : Nat} {ord : Nat} {s : State} {t : State}
    (hx : execVeInstructionComplete core ord s = .next t) : Touches [.regs, .cores, .incs, .out, .counter, .msix, .fab] s t := by
  obtain rfl := Host.Outcome.next.inj hx
  repeat' first
    | (with_reducible first | intro _ | assumption | exact Touches.refl | apply State.bump_touches | apply State.bumpFree_touches
                            | apply State.dropJob_touches | apply State.finish_touches | apply State.setCore_touches | apply State.setReg_touches
                            | apply State.tally_touches | apply Touches.ite | apply Touches.foldl | apply Touches.foldlFst
                            | refine Touches.ofFst (by assumption) ?_)
    | exact rfl | assumption | exact State.core_wf (by assumption) _ | with_reducible apply CoreSt.foldl_wf | (simp; assumption)
    | exact veRun_wf (State.core_wf (by assumption) _) | with_reducible apply CoreSt.ite_wf | extract_lets -underBinder | split
    | dsimp +zetaDelta only

end Sys2Proof.Machine
end

