-- ==== Sys2Proof/Laws/Touch/StackMem.lean ====
section
/-!
SUPPORT. Laws/Touch/StackMem.lean: for each operation of Machine/StackMem.lean, what it can do: the queue stays, only the parts listed change, and the
registers and memories keep their canonical form.
-/

set_option linter.all false

namespace Sys2Proof.Machine

theorem State.disturb_touches {L : List Part} {z0 : State} {s : State} {unit : Nat} {line : Nat} {errs : List (Nat × Nat)} (hz : Touches L z0 s)
    (hL : covers L [.caches] = true) :
    Touches L z0 (State.disturb s unit line errs) := by
  refine hz.andThen (A := [.caches]) ?_ hL
  unfold State.disturb
  repeat' first
    | (with_reducible first | intro _ | assumption | exact Touches.refl | apply Touches.foldl | apply Touches.foldlFst | apply Touches.modMem)
    | exact rfl | extract_lets -underBinder
    | (refine ⟨?_, ?_, ?_, ?_, ?_, ?_, ?_⟩ <;> first
      | exact .inl (by decide) | exact .inr rfl | exact fun h => h | exact memStore_wf _ _ | exact memFilter_wf _)
    | split

theorem State.lineClean_touches {L : List Part} {z0 : State} {s : State} {unit : Nat} {line : Nat} (hz : Touches L z0 s)
    (hL : covers L [.caches] = true) :
    Touches L z0 (State.lineClean s unit line) := by
  refine hz.andThen (A := [.caches]) ?_ hL
  unfold State.lineClean
  repeat' first
    | (with_reducible first | intro _ | assumption | exact Touches.refl | apply Touches.ite | apply Touches.modMem)
    | exact rfl | extract_lets -underBinder
    | (refine ⟨?_, ?_, ?_, ?_, ?_, ?_, ?_⟩ <;> first
      | exact .inl (by decide) | exact .inr rfl | exact fun h => h | exact memStore_wf _ _ | exact memFilter_wf _)
    | split

theorem State.dropLines_touches {L : List Part} {z0 : State} {s : State} {f : CacheLine → Bool} (hz : Touches L z0 s)
    (hL : covers L [.caches] = true) :
    Touches L z0 (State.dropLines s f) := by
  refine hz.andThen (A := [.caches]) ?_ hL
  unfold State.dropLines
  repeat' first
    | (with_reducible first | intro _ | assumption | exact Touches.refl | apply Touches.modMem)
    | exact rfl | extract_lets -underBinder
    | (refine ⟨?_, ?_, ?_, ?_, ?_, ?_, ?_⟩ <;> first
      | exact .inl (by decide) | exact .inr rfl | exact fun h => h | exact memStore_wf _ _ | exact memFilter_wf _)
    | split

theorem State.showDegraded_touches {L : List Part} {z0 : State} {s : State} {site : Nat} (hz : Touches L z0 s) (hL : covers L [.regs] = true) :
    Touches L z0 (State.showDegraded s site) := by
  refine hz.andThen (A := [.regs]) ?_ hL
  unfold State.showDegraded
  repeat' first
    | (with_reducible first | intro _ | assumption | exact Touches.refl | apply State.wr_touches | apply Touches.ite)
    | exact rfl | extract_lets -underBinder | split

theorem State.fenceSite_touches {L : List Part} {z0 : State} {s : State} {site : Nat} {ch : Nat} {reason : Nat} (hz : Touches L z0 s)
    (hL : covers L [.regs, .out, .msix, .fab, .caches] = true) :
    Touches L z0 (State.fenceSite s site ch reason) := by
  refine hz.andThen (A := [.regs, .out, .msix, .fab, .caches]) ?_ hL
  unfold State.fenceSite
  repeat' first
    | (with_reducible first | intro _ | assumption | exact Touches.refl | apply State.dropLines_touches | apply State.health_touches
                            | apply State.orF_touches | apply State.raise_touches | apply State.showDegraded_touches | apply State.wr_touches
                            | apply Touches.ite)
    | exact rfl | extract_lets -underBinder | split

theorem State.remember_touches {L : List Part} {z0 : State} {s : State} {r : ErrRec} (hz : Touches L z0 s) (hL : covers L [.caches] = true) :
    Touches L z0 (State.remember s r) := by
  refine hz.andThen (A := [.caches]) ?_ hL
  unfold State.remember
  repeat' first
    | (with_reducible first | intro _ | assumption | exact Touches.refl | apply Touches.modMem)
    | exact rfl | extract_lets -underBinder
    | (refine ⟨?_, ?_, ?_, ?_, ?_, ?_, ?_⟩ <;> first
      | exact .inl (by decide) | exact .inr rfl | exact fun h => h | exact memStore_wf _ _ | exact memFilter_wf _)
    | split

theorem State.siteThresholds_touches {L : List Part} {z0 : State} {s : State} {site : Nat} {ch : Nat} (hz : Touches L z0 s)
    (hL : covers L [.regs, .out, .msix, .fab, .caches] = true) :
    Touches L z0 (State.siteThresholds s site ch) := by
  refine hz.andThen (A := [.regs, .out, .msix, .fab, .caches]) ?_ hL
  unfold State.siteThresholds
  repeat' first
    | (with_reducible first | intro _ | assumption | exact Touches.refl | apply State.fenceSite_touches | apply Touches.ite)
    | exact rfl | extract_lets -underBinder | split

theorem State.siteError_touches {L : List Part} {z0 : State} {s : State} {site : Nat} {line : Nat} {kind : Nat} {sym : Nat} {probe : Bool}
    (hz : Touches L z0 s) (hL : covers L [.regs, .out, .msix, .fab, .caches] = true) :
    Touches L z0 (State.siteError s site line kind sym probe) := by
  refine hz.andThen (A := [.regs, .out, .msix, .fab, .caches]) ?_ hL
  unfold State.siteError
  repeat' first
    | (with_reducible first | intro _ | assumption | exact Touches.refl | apply State.bump_touches | apply State.raise_touches
                            | apply State.remember_touches | apply State.siteThresholds_touches | apply State.wr_touches | apply Touches.ite
                            | refine Touches.ofFst (by assumption) ?_)
    | exact rfl | extract_lets -underBinder | split
    | dsimp +zetaDelta only

theorem State.dramRead_touches {L : List Part} {z0 : State} {s : State} {site : Nat} {line : Nat} {probe : Bool} (hz : Touches L z0 s)
    (hL : covers L [.regs, .out, .msix, .fab, .caches] = true) :
    Touches L z0 ((State.dramRead s site line probe).s) := by
  refine hz.andThen (A := [.regs, .out, .msix, .fab, .caches]) ?_ hL
  unfold State.dramRead
  refine TouchesR.out ?_
  repeat' first
    | (with_reducible first | intro _ | assumption | exact Touches.refl | apply State.siteError_touches | refine Touches.ofFst (by assumption) ?_)
    | exact rfl | extract_lets -underBinder | split
    | (with_reducible first | apply TouchesR.rsp)
    | dsimp +zetaDelta only

theorem State.countUnmapped_touches {L : List Part} {z0 : State} {s : State} {off : Nat} (hz : Touches L z0 s)
    (hL : covers L [.regs, .out, .msix] = true) :
    Touches L z0 (State.countUnmapped s off) := by
  refine hz.andThen (A := [.regs, .out, .msix]) ?_ hL
  unfold State.countUnmapped
  repeat' first
    | (with_reducible first | intro _ | assumption | exact Touches.refl | apply State.bump_touches | apply State.raise_touches | apply Touches.ite)
    | exact rfl | extract_lets -underBinder | split

theorem State.demote_touches {L : List Part} {z0 : State} {s : State} {site : Nat} {line : Nat} (hz : Touches L z0 s)
    (hL : covers L [.regs, .caches] = true) :
    Touches L z0 (State.demote s site line) := by
  refine hz.andThen (A := [.regs, .caches]) ?_ hL
  unfold State.demote
  repeat' first
    | (with_reducible first | intro _ | assumption | exact Touches.refl | apply State.bump_touches | apply Touches.ite | apply Touches.modMem
                            | refine Touches.ofFst (by assumption) ?_)
    | exact rfl | extract_lets -underBinder
    | (refine ⟨?_, ?_, ?_, ?_, ?_, ?_, ?_⟩ <;> first
      | exact .inl (by decide) | exact .inr rfl | exact fun h => h | exact memStore_wf _ _ | exact memFilter_wf _)
    | split
    | dsimp +zetaDelta only

theorem State.touch_touches {L : List Part} {z0 : State} {s : State} {site : Nat} {line : Nat} {k : LineKind} (hz : Touches L z0 s)
    (hL : covers L [.regs, .caches] = true) :
    Touches L z0 (State.touch s site line k) := by
  refine hz.andThen (A := [.regs, .caches]) ?_ hL
  unfold State.touch
  repeat' first
    | (with_reducible first | intro _ | assumption | exact Touches.refl | apply State.demote_touches | apply Touches.ite | apply Touches.modMem)
    | exact rfl | extract_lets -underBinder
    | (refine ⟨?_, ?_, ?_, ?_, ?_, ?_, ?_⟩ <;> first
      | exact .inl (by decide) | exact .inr rfl | exact fun h => h | exact memStore_wf _ _ | exact memFilter_wf _)
    | split

theorem State.reclass_touches {L : List Part} {z0 : State} {s : State} {site : Nat} {line : Nat} {k : LineKind} (hz : Touches L z0 s)
    (hL : covers L [.caches] = true) :
    Touches L z0 (State.reclass s site line k) := by
  refine hz.andThen (A := [.caches]) ?_ hL
  unfold State.reclass
  repeat' first
    | (with_reducible first | intro _ | assumption | exact Touches.refl | apply Touches.ite | apply Touches.modMem)
    | exact rfl | extract_lets -underBinder
    | (refine ⟨?_, ?_, ?_, ?_, ?_, ?_, ?_⟩ <;> first
      | exact .inl (by decide) | exact .inr rfl | exact fun h => h | exact memStore_wf _ _ | exact memFilter_wf _)
    | split

theorem State.evict_touches {L : List Part} {z0 : State} {s : State} {site : Nat} {line : Nat} (hz : Touches L z0 s)
    (hL : covers L [.caches] = true) :
    Touches L z0 (State.evict s site line) := by
  refine hz.andThen (A := [.caches]) ?_ hL
  unfold State.evict
  repeat' first
    | (with_reducible first | intro _ | assumption | exact Touches.refl | apply Touches.modMem)
    | exact rfl | extract_lets -underBinder
    | (refine ⟨?_, ?_, ?_, ?_, ?_, ?_, ?_⟩ <;> first
      | exact .inl (by decide) | exact .inr rfl | exact fun h => h | exact memStore_wf _ _ | exact memFilter_wf _)
    | split

theorem State.allocate_touches {L : List Part} {z0 : State} {s : State} {l : CacheLine} (hz : Touches L z0 s)
    (hL : covers L [.regs, .caches] = true) :
    Touches L z0 ((State.allocate s l).1) := by
  refine hz.andThen (A := [.regs, .caches]) ?_ hL
  unfold State.allocate
  refine TouchesP.out ?_
  repeat' first
    | (with_reducible first | intro _ | assumption | exact Touches.refl | apply State.bump_touches | apply State.evict_touches | apply Touches.ite
                            | apply TouchesP.ite | apply TouchesP.pairIte | apply Touches.modMem | refine Touches.ofFst (by assumption) ?_)
    | exact rfl | extract_lets -underBinder
    | (refine ⟨?_, ?_, ?_, ?_, ?_, ?_, ?_⟩ <;> first
      | exact .inl (by decide) | exact .inr rfl | exact fun h => h | exact memStore_wf _ _ | exact memFilter_wf _)
    | split
    | (with_reducible first | apply TouchesP.pair)
    | (show Touches _ _ (Prod.fst _); dsimp only)
    | dsimp +zetaDelta only

theorem State.startFill_touches {L : List Part} {z0 : State} {s : State} {l : CacheLine} (hz : Touches L z0 s) (hL : covers L [.caches] = true) :
    Touches L z0 (State.startFill s l) := by
  refine hz.andThen (A := [.caches]) ?_ hL
  unfold State.startFill
  repeat' first
    | (with_reducible first | intro _ | assumption | exact Touches.refl | apply Touches.ite | apply Touches.modMem)
    | exact rfl | extract_lets -underBinder
    | (refine ⟨?_, ?_, ?_, ?_, ?_, ?_, ?_⟩ <;> first
      | exact .inl (by decide) | exact .inr rfl | exact fun h => h | exact memStore_wf _ _ | exact memFilter_wf _)
    | split

theorem State.readHit_touches {L : List Part} {z0 : State} {s : State} {site : Nat} {line : Nat} {h : Hint} {k : LineKind} (hz : Touches L z0 s)
    (hL : covers L [.regs, .caches] = true) :
    Touches L z0 (State.readHit s site line h k) := by
  refine hz.andThen (A := [.regs, .caches]) ?_ hL
  unfold State.readHit
  repeat' first
    | (with_reducible first | intro _ | assumption | exact Touches.refl | apply State.evict_touches | apply State.reclass_touches
                            | apply State.touch_touches | apply Touches.ite | refine Touches.ofFst (by assumption) ?_)
    | exact rfl | extract_lets -underBinder | split

theorem State.readMissFill_touches {L : List Part} {z0 : State} {s : State} {site : Nat} {line : Nat} {h : Hint} {data : List Nat} (hz :
    Touches L z0 s) (hL : covers L [.caches] = true) :
    Touches L z0 (State.readMissFill s site line h data) := by
  refine hz.andThen (A := [.caches]) ?_ hL
  unfold State.readMissFill
  repeat' first
    | (with_reducible first | intro _ | assumption | exact Touches.refl | apply State.startFill_touches | apply Touches.ite
                            | refine Touches.ofFst (by assumption) ?_)
    | exact rfl | extract_lets -underBinder | split

theorem State.stackReadLine_touches {L : List Part} {z0 : State} {s : State} {off : Nat} (hz : Touches L z0 s)
    (hL : covers L [.regs, .out, .msix, .fab, .caches] = true) :
    Touches L z0 ((State.stackReadLine s off).s) := by
  refine hz.andThen (A := [.regs, .out, .msix, .fab, .caches]) ?_ hL
  unfold State.stackReadLine
  refine TouchesR.out ?_
  repeat' first
    | (with_reducible first | intro _ | assumption | exact Touches.refl | apply State.bump_touches | apply State.countUnmapped_touches
                            | apply State.dramRead_touches | apply Touches.ite | apply TouchesR.ite | refine Touches.ofFst (by assumption) ?_)
    | exact rfl | extract_lets -underBinder | split
    | (with_reducible first | apply TouchesR.rsp)
    | dsimp +zetaDelta only

theorem State.readUse_touches {L : List Part} {z0 : State} {s : State} {off : Nat} {h : Hint} {data : List Nat} (hz : Touches L z0 s)
    (hL : covers L [.regs, .caches] = true) :
    Touches L z0 (State.readUse s off h data) := by
  refine hz.andThen (A := [.regs, .caches]) ?_ hL
  unfold State.readUse
  repeat' first
    | (with_reducible first | intro _ | assumption | exact Touches.refl | apply State.readHit_touches | apply State.readMissFill_touches
                            | apply Touches.ite | refine Touches.ofFst (by assumption) ?_)
    | exact rfl | extract_lets -underBinder | split
    | dsimp +zetaDelta only

theorem State.stackReadLines_touches {L : List Part} {z s : State} {l : List (Nat × Nat)} (hz : Touches L z s)
    (hL : covers L [.regs, .out, .msix, .fab, .caches] = true) : Touches L z (State.stackReadLines l s).1 := by
  induction l generalizing s with
  | nil => exact hz
  | cons p t ih =>
    have hr : Touches L z (s.stackReadLine p.1).s := State.stackReadLine_touches hz hL
    unfold State.stackReadLines
    exact Touches.iteFst (ih hr) hr

theorem State.stackRead_touches {L : List Part} {z0 : State} {s : State} {off : Nat} {len : Nat} {h : Hint} (hz : Touches L z0 s)
    (hL : covers L [.regs, .out, .msix, .fab, .caches] = true) :
    Touches L z0 ((State.stackRead s off len h).s) := by
  refine hz.andThen (A := [.regs, .out, .msix, .fab, .caches]) ?_ hL
  unfold State.stackRead
  refine TouchesR.out ?_
  repeat' first
    | (with_reducible first | intro _ | assumption | exact Touches.refl | apply State.readUse_touches | apply State.stackReadLines_touches
                            | apply Touches.ite | apply TouchesR.ite | apply Touches.foldl | apply Touches.foldlFst)
    | exact rfl | extract_lets -underBinder | split
    | (with_reducible first | apply TouchesR.rsp)

theorem State.writeCache_touches {L : List Part} {z0 : State} {s : State} {site : Nat} {line : Nat} {bytes : List Nat} {h : Hint} (hz :
    Touches L z0 s) (hL : covers L [.regs, .caches] = true) :
    Touches L z0 (State.writeCache s site line bytes h) := by
  refine hz.andThen (A := [.regs, .caches]) ?_ hL
  unfold State.writeCache
  repeat' first
    | (with_reducible first | intro _ | assumption | exact Touches.refl | apply State.allocate_touches | apply State.evict_touches
                            | apply State.touch_touches | apply Touches.ite | apply Touches.modMem | refine Touches.ofFst (by assumption) ?_)
    | exact rfl | extract_lets -underBinder
    | (refine ⟨?_, ?_, ?_, ?_, ?_, ?_, ?_⟩ <;> first
      | exact .inl (by decide) | exact .inr rfl | exact fun h => h | exact memStore_wf _ _ | exact memFilter_wf _)
    | split
    | (show Touches _ _ (Prod.fst _); dsimp only)
    | dsimp +zetaDelta only

theorem State.stackWriteLine_touches {L : List Part} {z0 : State} {s : State} {off : Nat} {bytes : List Nat} {h : Hint} (hz : Touches L z0 s)
    (hL : covers L [.regs, .stack, .caches] = true) :
    Touches L z0 (State.stackWriteLine s off bytes h) := by
  refine hz.andThen (A := [.regs, .stack, .caches]) ?_ hL
  unfold State.stackWriteLine
  repeat' first
    | (with_reducible first | intro _ | assumption | exact Touches.refl | apply State.lineClean_touches | apply State.writeCache_touches
                            | apply Touches.ite | apply Touches.modMem)
    | exact rfl | extract_lets -underBinder
    | (refine ⟨?_, ?_, ?_, ?_, ?_, ?_, ?_⟩ <;> first
      | exact .inl (by decide) | exact .inr rfl | exact fun h => h | exact memStore_wf _ _ | exact memFilter_wf _)
    | split

theorem State.stackWriteLines_touches {L : List Part} {z s : State} {h : Hint} {l : List (Nat × Nat)} {bs : List Nat} (hz : Touches L z s)
    (hL : covers L [.regs, .stack, .caches] = true) : Touches L z (State.stackWriteLines h l bs s) := by
  induction l generalizing s bs with
  | nil => exact hz
  | cons p t ih => exact ih (State.stackWriteLine_touches hz hL)

theorem State.stackWrite_touches {L : List Part} {z0 : State} {s : State} {off : Nat} {bytes : List Nat} {h : Hint} (hz : Touches L z0 s)
    (hL : covers L [.regs, .out, .msix, .stack, .caches] = true) :
    Touches L z0 ((State.stackWrite s off bytes h).s) := by
  refine hz.andThen (A := [.regs, .out, .msix, .stack, .caches]) ?_ hL
  unfold State.stackWrite
  refine TouchesR.out ?_
  repeat' first
    | (with_reducible first | intro _ | assumption | exact Touches.refl | apply State.countUnmapped_touches | apply State.stackWriteLines_touches
                            | apply Touches.ite | apply TouchesR.ite | refine Touches.ofFst (by assumption) ?_)
    | exact rfl | extract_lets -underBinder | split
    | (with_reducible first | apply TouchesR.rsp)
    | dsimp +zetaDelta only

theorem State.probeLine_touches {L : List Part} {z0 : State} {s : State} {off : Nat} {owner : Nat × Nat × Nat} (hz : Touches L z0 s)
    (hL : covers L [.regs, .out, .msix, .caches] = true) :
    Touches L z0 (State.probeLine s off owner) := by
  refine hz.andThen (A := [.regs, .out, .msix, .caches]) ?_ hL
  unfold State.probeLine
  repeat' first
    | (with_reducible first | intro _ | assumption | exact Touches.refl | apply State.bump_touches | apply State.raise_touches
                            | apply State.startFill_touches | apply Touches.ite)
    | exact rfl | extract_lets -underBinder | split

theorem State.protWritten_touches {L : List Part} {z0 : State} {s : State} {site : Nat} (hz : Touches L z0 s)
    (hL : covers L [.regs, .caches] = true) :
    Touches L z0 (State.protWritten s site) := by
  refine hz.andThen (A := [.regs, .caches]) ?_ hL
  unfold State.protWritten
  repeat' first
    | (with_reducible first | intro _ | assumption | exact Touches.refl | apply State.bump_touches | apply Touches.modMem)
    | exact rfl | extract_lets -underBinder
    | (refine ⟨?_, ?_, ?_, ?_, ?_, ?_, ?_⟩ <;> first
      | exact .inl (by decide) | exact .inr rfl | exact fun h => h | exact memStore_wf _ _ | exact memFilter_wf _)
    | split

theorem State.cenCleared_touches {L : List Part} {z0 : State} {s : State} {site : Nat} (hz : Touches L z0 s)
    (hL : covers L [.regs, .out, .msix, .caches] = true) :
    Touches L z0 (State.cenCleared s site) := by
  refine hz.andThen (A := [.regs, .out, .msix, .caches]) ?_ hL
  unfold State.cenCleared
  repeat' first
    | (with_reducible first | intro _ | assumption | exact Touches.refl | apply State.bump_touches | apply State.dropLines_touches
                            | apply State.raise_touches | apply Touches.ite | apply Touches.foldl | apply Touches.foldlFst)
    | exact rfl | extract_lets -underBinder | split

theorem State.landFill_touches {L : List Part} {z0 : State} {s : State} {l : CacheLine} (hz : Touches L z0 s)
    (hL : covers L [.regs, .out, .msix, .fab, .caches] = true) :
    Touches L z0 (State.landFill s l) := by
  refine hz.andThen (A := [.regs, .out, .msix, .fab, .caches]) ?_ hL
  unfold State.landFill
  repeat' first
    | (with_reducible first | intro _ | assumption | exact Touches.refl | apply State.allocate_touches | apply State.bump_touches
                            | apply State.dramRead_touches | apply State.raise_touches | apply Touches.ite | apply Touches.modMem
                            | refine Touches.ofFst (by assumption) ?_)
    | exact rfl | extract_lets -underBinder
    | (refine ⟨?_, ?_, ?_, ?_, ?_, ?_, ?_⟩ <;> first
      | exact .inl (by decide) | exact .inr rfl | exact fun h => h | exact memStore_wf _ _ | exact memFilter_wf _)
    | split
    | (show Touches _ _ (Prod.fst _); dsimp only)
    | dsimp +zetaDelta only

theorem State.compactStart_touches {L : List Part} {z0 : State} {s : State} {site : Nat} (hz : Touches L z0 s)
    (hL : covers L [.regs, .caches] = true) :
    Touches L z0 (State.compactStart s site) := by
  refine hz.andThen (A := [.regs, .caches]) ?_ hL
  unfold State.compactStart
  repeat' first
    | (with_reducible first | intro _ | assumption | exact Touches.refl | apply State.dropLines_touches | apply State.wr_touches | apply Touches.ite)
    | exact rfl | extract_lets -underBinder | split

theorem State.compactDone_touches {L : List Part} {z0 : State} {s : State} {site : Nat} (hz : Touches L z0 s)
    (hL : covers L [.regs, .out, .msix, .stack, .caches] = true) :
    Touches L z0 (State.compactDone s site) := by
  refine hz.andThen (A := [.regs, .out, .msix, .stack, .caches]) ?_ hL
  unfold State.compactDone
  repeat' first
    | (with_reducible first | intro _ | assumption | exact Touches.refl | apply State.orF_touches | apply State.raise_touches
                            | apply State.showDegraded_touches | apply State.wr_touches | apply Touches.foldl | apply Touches.foldlFst
                            | apply Touches.modMem)
    | exact rfl | extract_lets -underBinder
    | (refine ⟨?_, ?_, ?_, ?_, ?_, ?_, ?_⟩ <;> first
      | exact .inl (by decide) | exact .inr rfl | exact fun h => h | exact memStore_wf _ _ | exact memFilter_wf _)
    | split

end Sys2Proof.Machine
end

