-- ==== Sys2Proof/Laws/Touch/PeatMem.lean ====
section
/-!
SUPPORT. Laws/Touch/PeatMem.lean: for each operation of Machine/PeatMem.lean, what it can do: the queue stays, only the parts listed change, and the
registers and memories keep their canonical form.
-/

set_option linter.all false

namespace Sys2Proof.Machine

theorem State.fenceDie_touches {L : List Part} {z0 : State} {s : State} {d : Nat} {ch : Nat} {reason : Nat} (hz : Touches L z0 s)
    (hL : covers L [.regs, .out, .msix, .fab] = true) :
    Touches L z0 (State.fenceDie s d ch reason) := by
  refine hz.andThen (A := [.regs, .out, .msix, .fab]) ?_ hL
  unfold State.fenceDie
  repeat' first
    | (with_reducible first | intro _ | assumption | exact Touches.refl | apply State.health_touches | apply State.raise_touches
                            | apply State.wr_touches | apply Touches.ite)
    | exact rfl | extract_lets -underBinder | split

theorem State.dieThresholds_touches {L : List Part} {z0 : State} {s : State} {d : Nat} {ch : Nat} (hz : Touches L z0 s)
    (hL : covers L [.regs, .out, .msix, .fab] = true) :
    Touches L z0 (State.dieThresholds s d ch) := by
  refine hz.andThen (A := [.regs, .out, .msix, .fab]) ?_ hL
  unfold State.dieThresholds
  repeat' first
    | (with_reducible first | intro _ | assumption | exact Touches.refl | apply State.fenceDie_touches | apply Touches.ite)
    | exact rfl | extract_lets -underBinder | split

theorem State.dieError_touches {L : List Part} {z0 : State} {s : State} {d : Nat} {line : Nat} {kind : Nat} {dev : Nat} (hz : Touches L z0 s)
    (hL : covers L [.regs, .out, .msix, .fab, .caches] = true) :
    Touches L z0 (State.dieError s d line kind dev) := by
  refine hz.andThen (A := [.regs, .out, .msix, .fab, .caches]) ?_ hL
  unfold State.dieError
  repeat' first
    | (with_reducible first | intro _ | assumption | exact Touches.refl | apply State.bump_touches | apply State.dieThresholds_touches
                            | apply State.raise_touches | apply State.remember_touches | apply State.wr_touches | apply Touches.ite
                            | refine Touches.ofFst (by assumption) ?_)
    | exact rfl | extract_lets -underBinder | split
    | dsimp +zetaDelta only

theorem State.countPtUnmapped_touches {L : List Part} {z0 : State} {s : State} {d : Nat} (hz : Touches L z0 s)
    (hL : covers L [.regs, .out, .msix] = true) :
    Touches L z0 (State.countPtUnmapped s d) := by
  refine hz.andThen (A := [.regs, .out, .msix]) ?_ hL
  unfold State.countPtUnmapped
  repeat' first
    | (with_reducible first | intro _ | assumption | exact Touches.refl | apply State.bump_touches | apply State.raise_touches | apply Touches.ite)
    | exact rfl | extract_lets -underBinder | split

theorem State.peatOpen_touches {L : List Part} {z0 : State} {s : State} {d : Nat} {line : Nat} (hz : Touches L z0 s)
    (hL : covers L [.regs, .out, .counter, .msix, .fab, .caches] = true) :
    Touches L z0 ((State.peatOpen s d line).s) := by
  refine hz.andThen (A := [.regs, .out, .counter, .msix, .fab, .caches]) ?_ hL
  unfold State.peatOpen
  refine TouchesR.out ?_
  repeat' first
    | (with_reducible first | intro _ | assumption | exact Touches.refl | apply State.dieError_touches | apply Touches.ite | apply TouchesR.ite)
    | exact rfl | extract_lets -underBinder | split
    | (with_reducible first | apply TouchesR.rsp | apply Touches.set_freeCtr)

theorem State.peatReadLine_touches {L : List Part} {z0 : State} {s : State} {d : Nat} {a : Nat} (hz : Touches L z0 s)
    (hL : covers L [.regs, .out, .counter, .msix, .fab, .caches] = true) :
    Touches L z0 ((State.peatReadLine s d a).s) := by
  refine hz.andThen (A := [.regs, .out, .counter, .msix, .fab, .caches]) ?_ hL
  unfold State.peatReadLine
  refine TouchesR.out ?_
  repeat' first
    | (with_reducible first | intro _ | assumption | exact Touches.refl | apply State.countPtUnmapped_touches | apply State.dieError_touches
                            | apply State.peatOpen_touches | apply Touches.ite | apply TouchesR.ite | refine Touches.ofFst (by assumption) ?_)
    | exact rfl | extract_lets -underBinder | split
    | (with_reducible first | apply TouchesR.rsp)
    | dsimp +zetaDelta only

theorem State.peatReadPieces_touches {L : List Part} {z s : State} {d : Nat} {l : List (Nat × Nat)} (hz : Touches L z s)
    (hL : covers L [.regs, .out, .counter, .msix, .fab, .caches] = true) : Touches L z (State.peatReadPieces d l s).s := by
  induction l generalizing s with
  | nil => exact hz
  | cons p t ih =>
    have hr : Touches L z (s.peatReadLine d p.1).s := State.peatReadLine_touches hz hL
    unfold State.peatReadPieces
    exact Touches.iteRsp (Touches.iteRsp (ih hr) (ih hr)) hr

theorem State.peatRead_touches {L : List Part} {z0 : State} {s : State} {d : Nat} {a : Nat} {len : Nat} (hz : Touches L z0 s)
    (hL : covers L [.regs, .out, .counter, .msix, .fab, .caches] = true) :
    Touches L z0 ((State.peatRead s d a len).s) := by
  refine hz.andThen (A := [.regs, .out, .counter, .msix, .fab, .caches]) ?_ hL
  unfold State.peatRead
  refine TouchesR.out ?_
  repeat' first
    | (with_reducible first | intro _ | assumption | exact Touches.refl | apply State.peatReadPieces_touches)
    | exact rfl | extract_lets -underBinder | split
    | (with_reducible first | apply TouchesR.rsp)

theorem State.peatWriteLine_touches {L : List Part} {z0 : State} {s : State} {d : Nat} {a : Nat} {bytes : List Nat} (hz : Touches L z0 s)
    (hL : covers L [.counter, .peat, .caches] = true) :
    Touches L z0 (State.peatWriteLine s d a bytes) := by
  refine hz.andThen (A := [.counter, .peat, .caches]) ?_ hL
  unfold State.peatWriteLine
  repeat' first
    | (with_reducible first | intro _ | assumption | exact Touches.refl | apply State.lineClean_touches | apply Touches.ite | apply Touches.modMem)
    | exact rfl | extract_lets -underBinder
    | (refine ⟨?_, ?_, ?_, ?_, ?_, ?_, ?_⟩ <;> first
      | exact .inl (by decide) | exact .inr rfl | exact fun h => h | exact memStore_wf _ _ | exact memFilter_wf _)
    | split
    | (with_reducible first | apply Touches.set_freeCtr)

theorem State.peatWriteLines_touches {L : List Part} {z s : State} {d : Nat} {l : List (Nat × Nat)} {bs : List Nat} (hz : Touches L z s)
    (hL : covers L [.counter, .peat, .caches] = true) : Touches L z (State.peatWriteLines d l bs s) := by
  induction l generalizing s bs with
  | nil => exact hz
  | cons p t ih => exact ih (State.peatWriteLine_touches hz hL)

theorem State.peatWrite_touches {L : List Part} {z0 : State} {s : State} {d : Nat} {a : Nat} {bytes : List Nat} (hz : Touches L z0 s)
    (hL : covers L [.regs, .out, .counter, .msix, .peat, .caches] = true) :
    Touches L z0 ((State.peatWrite s d a bytes).s) := by
  refine hz.andThen (A := [.regs, .out, .counter, .msix, .peat, .caches]) ?_ hL
  unfold State.peatWrite
  refine TouchesR.out ?_
  repeat' first
    | (with_reducible first | intro _ | assumption | exact Touches.refl | apply State.countPtUnmapped_touches | apply State.peatWriteLines_touches
                            | apply Touches.ite | apply TouchesR.ite | refine Touches.ofFst (by assumption) ?_)
    | exact rfl | extract_lets -underBinder | split
    | (with_reducible first | apply TouchesR.rsp)
    | dsimp +zetaDelta only

theorem State.peatForeign_touches {L : List Part} {z0 : State} {s : State} {off : Nat} (hz : Touches L z0 s)
    (hL : covers L [.regs, .out, .msix] = true) :
    Touches L z0 ((State.peatForeign s off).s) := by
  refine hz.andThen (A := [.regs, .out, .msix]) ?_ hL
  unfold State.peatForeign
  refine TouchesR.out ?_
  repeat' first
    | (with_reducible first | intro _ | assumption | exact Touches.refl | apply State.bump_touches | apply State.raise_touches | apply Touches.ite
                            | apply TouchesR.ite)
    | exact rfl | extract_lets -underBinder | split
    | (with_reducible first | apply TouchesR.rsp)

theorem State.dieCompactStart_touches {L : List Part} {z0 : State} {s : State} {d : Nat} (hz : Touches L z0 s) (hL : covers L [.regs] = true) :
    Touches L z0 (State.dieCompactStart s d) := by
  refine hz.andThen (A := [.regs]) ?_ hL
  unfold State.dieCompactStart
  repeat' first
    | (with_reducible first | intro _ | assumption | exact Touches.refl | apply State.wr_touches | apply Touches.ite)
    | exact rfl | extract_lets -underBinder | split

theorem State.dieCompactDone_touches {L : List Part} {z0 : State} {s : State} {d : Nat} (hz : Touches L z0 s)
    (hL : covers L [.regs, .out, .msix, .peat, .caches] = true) :
    Touches L z0 (State.dieCompactDone s d) := by
  refine hz.andThen (A := [.regs, .out, .msix, .peat, .caches]) ?_ hL
  unfold State.dieCompactDone
  repeat' first
    | (with_reducible first | intro _ | assumption | exact Touches.refl | apply State.raise_touches | apply State.wr_touches | apply Touches.ite
                            | apply Touches.foldl | apply Touches.foldlFst | apply Touches.modMem)
    | exact rfl | extract_lets -underBinder
    | (refine ⟨?_, ?_, ?_, ?_, ?_, ?_, ?_⟩ <;> first
      | exact .inl (by decide) | exact .inr rfl | exact fun h => h | exact memStore_wf _ _ | exact memFilter_wf _)
    | split

theorem State.farReadPieces_touches {L : List Part} {z s : State} {l : List (Nat × Nat)} (hz : Touches L z s)
    (_ : covers L [] = true) : Touches L z (State.farReadPieces l s).s := by
  induction l with
  | nil => exact hz
  | cons p t ih =>
    unfold State.farReadPieces
    exact Touches.iteRsp hz (Touches.iteRsp hz (Touches.iteRsp ih ih))

theorem State.farRead_touches {L : List Part} {z0 : State} {s : State} {off : Nat} {len : Nat} (hz : Touches L z0 s) (hL : covers L [] = true) :
    Touches L z0 ((State.farRead s off len).s) := by
  refine hz.andThen (A := []) ?_ hL
  unfold State.farRead
  refine TouchesR.out ?_
  repeat' first
    | (with_reducible first | intro _ | assumption | exact Touches.refl | apply State.farReadPieces_touches)
    | exact rfl | extract_lets -underBinder | split
    | (with_reducible first | apply TouchesR.rsp)

theorem State.farWriteLines_touches {L : List Part} {z s : State} {l : List (Nat × Nat)} {bs : List Nat} (hz : Touches L z s)
    (hL : covers L [.far, .caches] = true) : Touches L z (State.farWriteLines l bs s) := by
  induction l generalizing s bs with
  | nil => exact hz
  | cons p t ih =>
    refine ih (hz.andThen (A := [.far, .caches]) ?_ hL)
    refine Touches.modMem Touches.refl fun m => ?_
    refine ⟨?_, ?_, ?_, ?_, ?_, ?_, ?_⟩ <;> first | exact .inl (by decide) | exact .inr rfl | exact id | exact memStore_wf _ _

theorem State.farWrite_touches {L : List Part} {z0 : State} {s : State} {off : Nat} {bytes : List Nat} (hz : Touches L z0 s)
    (hL : covers L [.far, .caches] = true) :
    Touches L z0 ((State.farWrite s off bytes).s) := by
  refine hz.andThen (A := [.far, .caches]) ?_ hL
  unfold State.farWrite
  refine TouchesR.out ?_
  repeat' first
    | (with_reducible first | intro _ | assumption | exact Touches.refl | apply State.farWriteLines_touches | refine Touches.ofFst (by assumption) ?_)
    | exact rfl | extract_lets -underBinder | split
    | (with_reducible first | apply TouchesR.rsp)
    | dsimp +zetaDelta only

theorem State.hallRead_touches {L : List Part} {z0 : State} {s : State} {a : Nat} {len : Nat} {h : Hint} (hz : Touches L z0 s)
    (hL : covers L [.regs, .out, .msix, .fab, .caches] = true) :
    Touches L z0 ((State.hallRead s a len h).s) := by
  refine hz.andThen (A := [.regs, .out, .msix, .fab, .caches]) ?_ hL
  unfold State.hallRead
  refine TouchesR.out ?_
  repeat' first
    | (with_reducible first | intro _ | assumption | exact Touches.refl | apply State.farRead_touches | apply State.peatForeign_touches
                            | apply State.stackRead_touches | apply Touches.ite | apply TouchesR.ite | refine Touches.ofFst (by assumption) ?_)
    | exact rfl | extract_lets -underBinder | split
    | (with_reducible first | apply TouchesR.rsp)

theorem State.hallWrite_touches {L : List Part} {z0 : State} {s : State} {a : Nat} {bytes : List Nat} {h : Hint} (hz : Touches L z0 s)
    (hL : covers L [.regs, .out, .msix, .stack, .far, .caches] = true) :
    Touches L z0 ((State.hallWrite s a bytes h).s) := by
  refine hz.andThen (A := [.regs, .out, .msix, .stack, .far, .caches]) ?_ hL
  unfold State.hallWrite
  refine TouchesR.out ?_
  repeat' first
    | (with_reducible first | intro _ | assumption | exact Touches.refl | apply State.farWrite_touches | apply State.peatForeign_touches
                            | apply State.stackWrite_touches | apply Touches.ite | apply TouchesR.ite | refine Touches.ofFst (by assumption) ?_)
    | exact rfl | extract_lets -underBinder | split
    | (with_reducible first | apply TouchesR.rsp)

end Sys2Proof.Machine
end

