-- ==== Sys2Proof/Laws/Touch/Directory.lean ====
section
/-!
SUPPORT. Laws/Touch/Directory.lean: for each operation of Machine/Directory.lean, what it can do: the queue stays, only the parts listed change, and the
registers and memories keep their canonical form.
-/

set_option linter.all false

namespace Sys2Proof.Machine

theorem State.inflBump_touches {L : List Part} {z0 : State} {s : State} {id : Nat} {up : Bool} (hz : Touches L z0 s) (hL : covers L [.dir] = true) :
    Touches L z0 (State.inflBump s id up) := by
  refine hz.andThen (A := [.dir]) ?_ hL
  unfold State.inflBump
  repeat' first
    | (with_reducible first | intro _ | assumption | exact Touches.refl | apply Touches.ite | apply Touches.modDir)
    | exact rfl | extract_lets -underBinder | split

theorem State.dirOutcome_touches {L : List Part} {z0 : State} {s : State} {id : Nat} {e : List Nat} {inCache : Bool} {dest : Bool} (hz :
    Touches L z0 s) (hL : covers L [.dir] = true) :
    Touches L z0 ((State.dirOutcome s id e inCache dest).1) := by
  refine hz.andThen (A := [.dir]) ?_ hL
  unfold State.dirOutcome
  refine TouchesP.out ?_
  repeat' first
    | (with_reducible first | intro _ | assumption | exact Touches.refl | apply State.inflBump_touches | apply Touches.ite | apply TouchesP.ite
                            | apply TouchesP.pairIte | apply Touches.modDir)
    | exact rfl | extract_lets -underBinder | split
    | (with_reducible first | apply TouchesP.pair)
    | (show Touches _ _ (Prod.fst _); dsimp only)

theorem State.showWalks_touches {L : List Part} {z0 : State} {s : State} (hz : Touches L z0 s) (hL : covers L [.regs] = true) :
    Touches L z0 (State.showWalks s) := by
  refine hz.andThen (A := [.regs]) ?_ hL
  unfold State.showWalks
  repeat' first
    | (with_reducible first | intro _ | assumption | exact Touches.refl | apply State.wr_touches)
    | exact rfl | extract_lets -underBinder | split

theorem State.startWalk_touches {L : List Part} {z0 : State} {s : State} {id : Nat} (hz : Touches L z0 s) (hL : covers L [.regs, .dir] = true) :
    Touches L z0 (State.startWalk s id) := by
  refine hz.andThen (A := [.regs, .dir]) ?_ hL
  unfold State.startWalk
  repeat' first
    | (with_reducible first | intro _ | assumption | exact Touches.refl | apply State.showWalks_touches | apply Touches.ite | apply Touches.modDir)
    | exact rfl | extract_lets -underBinder | split

theorem State.translate_touches {L : List Part} {z0 : State} {s : State} {id : Nat} {dest : Bool} (hz : Touches L z0 s)
    (hL : covers L [.regs, .dir] = true) :
    Touches L z0 ((State.translate s id dest).1) := by
  refine hz.andThen (A := [.regs, .dir]) ?_ hL
  unfold State.translate
  refine TouchesP.out ?_
  repeat' first
    | (with_reducible first | intro _ | assumption | exact Touches.refl | apply State.bump_touches | apply State.dirOutcome_touches
                            | apply State.startWalk_touches | apply Touches.ite | apply TouchesP.ite | apply TouchesP.pairIte
                            | apply Touches.modDir | refine Touches.ofFst (by assumption) ?_)
    | exact rfl | extract_lets -underBinder | split
    | (with_reducible first | apply TouchesP.pair)
    | (show Touches _ _ (Prod.fst _); dsimp only)
    | dsimp +zetaDelta only

theorem State.endTrans_touches {L : List Part} {z0 : State} {s : State} {t : Trans} (hz : Touches L z0 s) (hL : covers L [.dir] = true) :
    Touches L z0 (State.endTrans s t) := by
  refine hz.andThen (A := [.dir]) ?_ hL
  unfold State.endTrans
  repeat' first
    | (with_reducible first | intro _ | assumption | exact Touches.refl | apply State.inflBump_touches | apply Touches.modDir
                            | refine Touches.ofFst (by assumption) ?_)
    | exact rfl | extract_lets -underBinder | split

theorem State.dirFill_touches {L : List Part} {z0 : State} {s : State} {id : Nat} {e : List Nat} (hz : Touches L z0 s) (hL : covers L [.dir] = true) :
    Touches L z0 ((State.dirFill s id e).1) := by
  refine hz.andThen (A := [.dir]) ?_ hL
  unfold State.dirFill
  refine TouchesP.out ?_
  repeat' first
    | (with_reducible first | intro _ | assumption | exact Touches.refl | apply Touches.ite | apply TouchesP.ite | apply TouchesP.pairIte
                            | apply Touches.modDir | refine Touches.ofFst (by assumption) ?_)
    | exact rfl | extract_lets -underBinder | split
    | (with_reducible first | apply TouchesP.pair)
    | (show Touches _ _ (Prod.fst _); dsimp only)
    | dsimp +zetaDelta only

theorem State.setJob_touches {L : List Part} {z0 : State} {s : State} {b : Nat} {ord : Nat} {f : Job → Job} (hz : Touches L z0 s)
    (hL : covers L [.cores] = true) :
    Touches L z0 (State.setJob s b ord f) := by
  refine hz.andThen (A := [.cores]) ?_ hL
  unfold State.setJob
  repeat' first
    | (with_reducible first | intro _ | assumption | exact Touches.refl | apply State.modCore_touches | apply Touches.ite)
    | exact rfl | assumption | exact State.core_wf (by assumption) _ | (simp; assumption) | with_reducible apply CoreSt.ite_wf
    | extract_lets -underBinder | split

theorem State.setXfer_touches {L : List Part} {z0 : State} {s : State} {d : Nat} {seq : Nat} {f : UdXfer → UdXfer} (hz : Touches L z0 s)
    (hL : covers L [.ud0, .ud1] = true) :
    Touches L z0 (State.setXfer s d seq f) := by
  refine hz.andThen (A := [.ud0, .ud1]) ?_ hL
  unfold State.setXfer
  repeat' first
    | (with_reducible first | intro _ | assumption | exact Touches.refl | apply Touches.ite)
    | exact rfl | extract_lets -underBinder | split
    | (with_reducible first | apply Touches.set_ud0 | apply Touches.set_ud1)

theorem State.translateUd_touches {L : List Part} {z0 : State} {s : State} {id : Nat} {restore : Bool} (hz : Touches L z0 s)
    (hL : covers L [.regs, .dir] = true) :
    Touches L z0 ((State.translateUd s id restore).1) := by
  refine hz.andThen (A := [.regs, .dir]) ?_ hL
  unfold State.translateUd
  refine TouchesP.out ?_
  repeat' first
    | (with_reducible first | intro _ | assumption | exact Touches.refl | apply State.translate_touches | apply Touches.ite | apply TouchesP.ite
                            | apply TouchesP.pairIte)
    | exact rfl | extract_lets -underBinder | split
    | (with_reducible first | apply TouchesP.pair)
    | (show Touches _ _ (Prod.fst _); dsimp only)

theorem State.settle_touches {L : List Part} {z0 : State} {s : State} {id : Nat} {e : List Nat} {inCache : Bool} (hz : Touches L z0 s)
    (hL : covers L [.cores, .dir, .ud0, .ud1] = true) :
    Touches L z0 (State.settle s id e inCache) := by
  refine hz.andThen (A := [.cores, .dir, .ud0, .ud1]) ?_ hL
  unfold State.settle
  repeat' first
    | (with_reducible first | intro _ | assumption | exact Touches.refl | apply State.dirOutcome_touches | apply State.setJob_touches
                            | apply State.setXfer_touches | apply Touches.foldl | apply Touches.foldlFst)
    | exact rfl | extract_lets -underBinder | split
    | (show Touches _ _ (Prod.fst _); dsimp only)

theorem State.settleFail_touches {L : List Part} {z0 : State} {s : State} {id : Nat} {status : Nat} (hz : Touches L z0 s)
    (hL : covers L [.cores, .ud0, .ud1] = true) :
    Touches L z0 (State.settleFail s id status) := by
  refine hz.andThen (A := [.cores, .ud0, .ud1]) ?_ hL
  unfold State.settleFail
  repeat' first
    | (with_reducible first | intro _ | assumption | exact Touches.refl | apply State.setJob_touches | apply State.setXfer_touches
                            | apply Touches.foldl | apply Touches.foldlFst)
    | exact rfl | extract_lets -underBinder | split

theorem State.wake_touches {L : List Part} {z0 : State} {s : State} {id : Nat} (hz : Touches L z0 s)
    (hL : covers L [.regs, .cores, .dir, .ud0, .ud1] = true) :
    Touches L z0 (State.wake s id) := by
  refine hz.andThen (A := [.regs, .cores, .dir, .ud0, .ud1]) ?_ hL
  unfold State.wake
  repeat' first
    | (with_reducible first | intro _ | assumption | exact Touches.refl | apply State.setJob_touches | apply State.setXfer_touches
                            | apply State.translate_touches | apply State.translateUd_touches | apply Touches.foldl | apply Touches.foldlFst
                            | refine Touches.ofFst (by assumption) ?_)
    | exact rfl | extract_lets -underBinder | split
    | (show Touches _ _ (Prod.fst _); dsimp only)
    | dsimp +zetaDelta only

theorem State.dirErr_touches {L : List Part} {z0 : State} {s : State} {kind : Nat} {id : Nat} (hz : Touches L z0 s) (hL : covers L [.regs] = true) :
    Touches L z0 (State.dirErr s kind id) := by
  refine hz.andThen (A := [.regs]) ?_ hL
  unfold State.dirErr
  repeat' first
    | (with_reducible first | intro _ | assumption | exact Touches.refl | apply State.wr_touches)
    | exact rfl | extract_lets -underBinder | split

theorem State.countLate_touches {L : List Part} {z0 : State} {s : State} {tier : Nat} (hz : Touches L z0 s)
    (hL : covers L [.regs, .out, .msix] = true) :
    Touches L z0 (State.countLate s tier) := by
  refine hz.andThen (A := [.regs, .out, .msix]) ?_ hL
  unfold State.countLate
  repeat' first
    | (with_reducible first | intro _ | assumption | exact Touches.refl | apply State.bump_touches | apply State.raise_touches
                            | refine Touches.ofFst (by assumption) ?_)
    | exact rfl | extract_lets -underBinder | split
    | dsimp +zetaDelta only

theorem State.walkFail_touches {L : List Part} {z0 : State} {s : State} {id : Nat} {st : Nat} (hz : Touches L z0 s)
    (hL : covers L [.regs, .cores, .out, .msix, .dir, .ud0, .ud1] = true) :
    Touches L z0 (State.walkFail s id st) := by
  refine hz.andThen (A := [.regs, .cores, .out, .msix, .dir, .ud0, .ud1]) ?_ hL
  unfold State.walkFail
  repeat' first
    | (with_reducible first | intro _ | assumption | exact Touches.refl | apply State.bump_touches | apply State.dirErr_touches
                            | apply State.raise_touches | apply State.settleFail_touches | apply Touches.ite | apply Touches.modDir)
    | exact rfl | extract_lets -underBinder | split

theorem State.walkRead_touches {L : List Part} {z0 : State} {s : State} {id : Nat} {late : Bool} (hz : Touches L z0 s)
    (hL : covers L [.regs, .cores, .out, .msix, .fab, .caches, .dir, .ud0, .ud1] = true) :
    Touches L z0 (State.walkRead s id late) := by
  refine hz.andThen (A := [.regs, .cores, .out, .msix, .fab, .caches, .dir, .ud0, .ud1]) ?_ hL
  unfold State.walkRead
  repeat' first
    | (with_reducible first | intro _ | assumption | exact Touches.refl | apply State.bump_touches | apply State.countLate_touches
                            | apply State.dirErr_touches | apply State.dirFill_touches | apply State.raise_touches | apply State.settle_touches
                            | apply State.settleFail_touches | apply State.stackRead_touches | apply State.walkFail_touches | apply Touches.ite)
    | exact rfl | extract_lets -underBinder | split
    | (show Touches _ _ (Prod.fst _); dsimp only)

theorem State.walkEnd_touches {L : List Part} {z0 : State} {s : State} {id : Nat} {late : Bool} (hz : Touches L z0 s)
    (hL : covers L [.regs, .cores, .out, .msix, .fab, .caches, .dir, .ud0, .ud1] = true) :
    Touches L z0 (State.walkEnd s id late) := by
  refine hz.andThen (A := [.regs, .cores, .out, .msix, .fab, .caches, .dir, .ud0, .ud1]) ?_ hL
  unfold State.walkEnd
  repeat' first
    | (with_reducible first | intro _ | assumption | exact Touches.refl | apply State.showWalks_touches | apply State.walkRead_touches
                            | apply Touches.ite | apply Touches.modDir)
    | exact rfl | extract_lets -underBinder | split

theorem State.walkNow_touches {L : List Part} {z0 : State} {s : State} {id : Nat} (hz : Touches L z0 s)
    (hL : covers L [.regs, .cores, .out, .msix, .fab, .caches, .dir, .ud0, .ud1] = true) :
    Touches L z0 (State.walkNow s id) := by
  refine hz.andThen (A := [.regs, .cores, .out, .msix, .fab, .caches, .dir, .ud0, .ud1]) ?_ hL
  unfold State.walkNow
  repeat' first
    | (with_reducible first | intro _ | assumption | exact Touches.refl | apply State.walkEnd_touches | apply State.walkRead_touches
                            | apply Touches.ite | apply Touches.modDir)
    | exact rfl | extract_lets -underBinder | split

theorem State.entryOf_touches {L : List Part} {z0 : State} {s : State} {id : Nat} (hz : Touches L z0 s)
    (hL : covers L [.regs, .out, .msix, .fab, .caches] = true) :
    Touches L z0 ((State.entryOf s id).1) := by
  refine hz.andThen (A := [.regs, .out, .msix, .fab, .caches]) ?_ hL
  unfold State.entryOf
  refine TouchesP.out ?_
  repeat' first
    | (with_reducible first | intro _ | assumption | exact Touches.refl | apply State.stackRead_touches | apply Touches.ite | apply TouchesP.ite
                            | apply TouchesP.pairIte | refine Touches.ofFst (by assumption) ?_)
    | exact rfl | extract_lets -underBinder | split
    | (with_reducible first | apply TouchesP.pair)
    | (show Touches _ _ (Prod.fst _); dsimp only)
    | dsimp +zetaDelta only

theorem State.lostPair_touches {L : List Part} {z0 : State} {s : State} {id : Nat} (hz : Touches L z0 s) (hL : covers L [.regs, .out, .msix] = true) :
    Touches L z0 (State.lostPair s id) := by
  refine hz.andThen (A := [.regs, .out, .msix]) ?_ hL
  unfold State.lostPair
  repeat' first
    | (with_reducible first | intro _ | assumption | exact Touches.refl | apply State.dirErr_touches | apply State.raise_touches)
    | exact rfl | extract_lets -underBinder | split

theorem State.writeEntry_touches {L : List Part} {z0 : State} {s : State} {id : Nat} {e : List Nat} {keep : Bool} (hz : Touches L z0 s)
    (hL : covers L [.regs, .out, .msix, .fab, .stack, .caches, .dir] = true) :
    Touches L z0 ((State.writeEntry s id e keep).1) := by
  refine hz.andThen (A := [.regs, .out, .msix, .fab, .stack, .caches, .dir]) ?_ hL
  unfold State.writeEntry
  refine TouchesP.out ?_
  repeat' first
    | (with_reducible first | intro _ | assumption | exact Touches.refl | apply State.entryOf_touches | apply State.lostPair_touches
                            | apply State.stackWrite_touches | apply Touches.ite | apply TouchesP.ite | apply TouchesP.pairIte | apply Touches.modDir)
    | exact rfl | extract_lets -underBinder | split
    | (with_reducible first | apply TouchesP.pair)
    | (show Touches _ _ (Prod.fst _); dsimp only)

theorem State.dirRebuild_touches {L : List Part} {z : State} {s : State} {site : Nat} (hz : Touches L z s)
    (hL : covers L [.regs, .out, .msix, .fab, .stack, .caches] = true) : Touches L z (State.dirRebuild s site) := by
  unfold State.dirRebuild
  refine Touches.ite hz (Touches.foldl (fun x k hx => ?_) hz)
  extract_lets one a b
  have hone : ∀ y i, Touches L z y → Touches L z (one y i).1 := by
    intro y i hy
    show Touches L z (match y.dirEnt i with
      | some e => (y, e.words)
      | none => _).1
    split
    · exact hy
    · extract_lets r
      have hr : Touches L z r.1 := State.entryOf_touches hy (covers_trans hL rfl)
      split
      · exact hr
      · dsimp only; exact State.raise_touches hr (covers_trans hL rfl)
  exact State.bump_touches (State.stackWrite_touches (hone _ _ (hone _ _ hx)) (covers_trans hL rfl)) (covers_trans hL rfl)

end Sys2Proof.Machine
end

