-- ==== Sys2Proof/Laws/Touch/DataMover.lean ====
section
/-!
SUPPORT. Laws/Touch/DataMover.lean: for each operation of Machine/DataMover.lean, what it can do: the queue stays, only the parts listed change, and the
registers and memories keep their canonical form.
-/

set_option linter.all false

namespace Sys2Proof.Machine

theorem dmReject_touches {L : List Part} {z0 : State} {s : State} {b : Nat} {i : Nat} {h : Head} {code : Nat} (hz : Touches L z0 s)
    (hL : covers L [.regs, .cores, .out, .msix, .caches] = true) :
    Touches L z0 (dmReject s b i h code) := by
  refine hz.andThen (A := [.regs, .cores, .out, .msix, .caches]) ?_ hL
  unfold dmReject
  repeat' first
    | (with_reducible first | intro _ | assumption | exact Touches.refl | apply State.reject_touches | apply State.unitFault_touches)
    | exact rfl | extract_lets -underBinder | split

theorem State.moveReq_touches {L : List Part} {z0 : State} {s : State} {b : Nat} {ord : Nat} {write : Bool} {h : Hint} {a : Nat} {len : Nat}
    {data : List Nat} (hz : Touches L z0 s) (hL : covers L [.regs, .cores, .out, .fab] = true) :
    Touches L z0 (State.moveReq s b ord write h a len data) := by
  refine hz.andThen (A := [.regs, .cores, .out, .fab]) ?_ hL
  unfold State.moveReq
  repeat' first
    | (with_reducible first | intro _ | assumption | exact Touches.refl | apply State.bump_touches | apply State.sendReq_touches
                            | apply State.setJob_touches | apply State.takeTag_touches | apply Touches.ite
                            | refine Touches.ofFst (by assumption) ?_ | refine Touches.ofOpt (by assumption) ?_)
    | exact rfl | extract_lets -underBinder | split
    | dsimp +zetaDelta only

theorem State.requestReads_touches {L : List Part} {z0 : State} {s : State} {b : Nat} {ord : Nat} {h : Hint} {rs : List (Nat × Nat)} (hz :
    Touches L z0 s) (hL : covers L [.regs, .cores, .out, .fab] = true) :
    Touches L z0 (State.requestReads s b ord h rs) := by
  refine hz.andThen (A := [.regs, .cores, .out, .fab]) ?_ hL
  unfold State.requestReads
  repeat' first
    | (with_reducible first | intro _ | assumption | exact Touches.refl | apply State.moveReq_touches | apply Touches.ite | apply Touches.foldl
                            | apply Touches.foldlFst)
    | exact rfl | extract_lets -underBinder | split

theorem State.supersede_touches {L : List Part} {z0 : State} {s : State} {b : Nat} {i : Nat} {pc : Nat} (hz : Touches L z0 s)
    (hL : covers L [.cores, .caches] = true) :
    Touches L z0 (State.supersede s b i pc) := by
  refine hz.andThen (A := [.cores, .caches]) ?_ hL
  unfold State.supersede
  repeat' first
    | (with_reducible first | intro _ | assumption | exact Touches.refl | apply State.modCore_touches | apply State.releaseLines_touches
                            | apply Touches.ite)
    | exact rfl | assumption | exact State.core_wf (by assumption) _ | (simp; assumption) | with_reducible apply CoreSt.ite_wf
    | extract_lets -underBinder | split

theorem State.startReads_touches {L : List Part} {z0 : State} {s : State} {b : Nat} {j : Job} (hz : Touches L z0 s)
    (hL : covers L [.regs, .cores, .out, .fab] = true) :
    Touches L z0 (State.startReads s b j) := by
  refine hz.andThen (A := [.regs, .cores, .out, .fab]) ?_ hL
  unfold State.startReads
  repeat' first
    | (with_reducible first | intro _ | assumption | exact Touches.refl | apply State.requestReads_touches | apply Touches.ite
                            | refine Touches.ofFst (by assumption) ?_)
    | exact rfl | extract_lets -underBinder | split
    | dsimp +zetaDelta only

theorem dmIssue_touches {L : List Part} {z0 : State} {s : State} {b : Nat} {i : Nat} {sel : Nat → Bool} (hz : Touches L z0 s)
    (hL : covers L [.regs, .cores, .incs, .out, .msix, .fab, .caches, .dir] = true) :
    Touches L z0 (dmIssue s b i sel) := by
  refine hz.andThen (A := [.regs, .cores, .incs, .out, .msix, .fab, .caches, .dir]) ?_ hL
  unfold dmIssue
  repeat' first
    | (with_reducible first | intro _ | assumption | exact Touches.refl | apply State.accept_touches | apply State.addJob_touches
                            | apply State.complete_touches | apply State.issue_touches | apply State.setJob_touches
                            | apply State.startReads_touches | apply State.supersede_touches | apply State.translate_touches
                            | apply dmReject_touches | apply Touches.ite | exact Touches.ofId (by assumption)
                            | refine Touches.ofFst (by assumption) ?_)
    | exact rfl | extract_lets -underBinder | split
    | (show Touches _ _ (Prod.fst _); dsimp only)
    | dsimp +zetaDelta only

theorem execDmovCopy_touches {core : Nat} {stream : Nat} {s : State} {t : State} (hx : execDmovCopy core stream s = .next t) :
    Touches [.regs, .cores, .incs, .out, .msix, .fab, .caches, .dir] s t := by
  obtain rfl := Host.Outcome.next.inj hx
  repeat' first
    | (with_reducible first | intro _ | assumption | exact Touches.refl | apply dmIssue_touches)
    | exact rfl | extract_lets -underBinder | split

theorem execDmovTensor_touches {core : Nat} {stream : Nat} {s : State} {t : State} (hx : execDmovTensor core stream s = .next t) :
    Touches [.regs, .cores, .incs, .out, .msix, .fab, .caches, .dir] s t := by
  obtain rfl := Host.Outcome.next.inj hx
  repeat' first
    | (with_reducible first | intro _ | assumption | exact Touches.refl | apply dmIssue_touches)
    | exact rfl | extract_lets -underBinder | split

theorem execDmovFill_touches {core : Nat} {stream : Nat} {s : State} {t : State} (hx : execDmovFill core stream s = .next t) :
    Touches [.regs, .cores, .incs, .out, .msix, .fab, .caches, .dir] s t := by
  obtain rfl := Host.Outcome.next.inj hx
  repeat' first
    | (with_reducible first | intro _ | assumption | exact Touches.refl | apply dmIssue_touches)
    | exact rfl | extract_lets -underBinder | split

/-! A move touches memory through its sources and destinations alone. -/

theorem MoveRun.source_touches {L : List Part} {z : State} {v : MoveRun} {b row : Nat} {hall : Bool} {h : Hint} {r : Nat × Nat}
    (hz : Touches L z v.s) (hL : covers L [.regs, .out, .msix, .fab, .caches] = true) : Touches L z (v.source b row hall h r).s := by
  unfold MoveRun.source
  dsimp only
  split
  · exact hz
  · split
    · split
      · exact hz
      · exact State.bump_touches hz (covers_trans hL rfl)
    · split
      · split <;> exact State.hallRead_touches hz hL
      · exact hz

theorem MoveRun.dest_touches {L : List Part} {z : State} {v : MoveRun} {b row : Nat} {hall : Bool} {h : Hint} {a : Nat} {bs : List Nat}
    (hz : Touches L z v.s) (hL : covers L [.regs, .cores, .out, .msix, .stack, .far, .caches] = true) :
    Touches L z (v.dest b row hall h a bs).s := by
  unfold MoveRun.dest
  dsimp only
  split
  · exact hz
  · split
    · split
      · exact hz
      · exact State.modCore_touches hz (covers_trans hL rfl) fun _ => CoreSt.locStore_wf _ _
    · split
      · split <;> exact State.hallWrite_touches hz (covers_trans hL rfl)
      · exact hz

theorem moveRow_touches {L : List Part} {z : State} {b : Nat} {j : Job} {m : Mv} {keepE : Nat} {v : MoveRun}
    {r : (Nat × Nat × Nat) × Nat} (hz : Touches L z v.s)
    (hL : covers L [.regs, .cores, .out, .msix, .stack, .far, .caches] = true) : Touches L z (moveRow b j m keepE v r).s := by
  unfold moveRow
  split
  · exact hz
  · extract_lets o so v1 x w y
    split
    · have h1 : Touches L z v1.s := MoveRun.dest_touches hz hL
      split
      · exact MoveRun.dest_touches h1 hL
      · exact h1
    · have hw : Touches L z w.s := MoveRun.dest_touches hz hL
      show Touches L z (if m.dfmt.narrow then w.dest b r.2 m.dspc m.dhint (m.dScale o) x.scales else w).s
      split
      · exact MoveRun.dest_touches hw hL
      · exact hw

theorem runCopy_touches {L : List Part} {z s : State} {b : Nat} {j : Job} {m : Mv} {lim : Option Nat} (hz : Touches L z s)
    (hL : covers L [.regs, .cores, .out, .msix, .fab, .stack, .far, .caches] = true) : Touches L z (runCopy s b j m lim).s := by
  unfold runCopy
  extract_lets keepE v n w
  have hv : Touches L z v.s :=
    foldl_keeps (P := fun v : MoveRun => Touches L z v.s) hz fun _ _ hv =>
      foldl_keeps (P := fun v : MoveRun => Touches L z v.s) hv fun _ _ hw => MoveRun.source_touches hw (covers_trans hL rfl)
  have hw : Touches L z w.s :=
    foldl_keeps (P := fun v : MoveRun => Touches L z v.s) hv fun _ _ hw => moveRow_touches hw (covers_trans hL rfl)
  split <;> exact hw

theorem runTensor_touches {L : List Part} {z s : State} {b : Nat} {j : Job} {m : Mv} {addr len : Nat} {lim : Option Nat}
    (hz : Touches L z s) (hL : covers L [.regs, .cores, .out, .msix, .fab, .stack, .far, .caches] = true) :
    Touches L z (runTensor s b j m addr len lim).s := by
  unfold runTensor
  extract_lets o src dst ps v n w
  have hv : Touches L z v.s :=
    foldl_keeps (P := fun v : MoveRun => Touches L z v.s) hz fun _ _ hv => MoveRun.source_touches hv (covers_trans hL rfl)
  have hw : Touches L z w.s :=
    foldl_keeps (P := fun v : MoveRun => Touches L z v.s) hv fun _ _ hw => MoveRun.dest_touches hw (covers_trans hL rfl)
  split <;> exact hw

theorem runMove_touches {L : List Part} {z s : State} {b : Nat} {j : Job} {lim : Option Nat} (hz : Touches L z s)
    (hL : covers L [.regs, .cores, .out, .msix, .fab, .stack, .far, .caches] = true) : Touches L z (runMove s b j lim).s := by
  unfold runMove
  dsimp only
  split
  · split
    · exact runTensor_touches hz hL
    · exact hz
  · exact runCopy_touches hz hL

theorem State.sendWrites_touches {L : List Part} {z0 : State} {s : State} {b : Nat} {j : Job} {outs : List (Nat × List Nat)} (hz : Touches L z0 s)
    (hL : covers L [.regs, .cores, .out, .fab] = true) :
    Touches L z0 (State.sendWrites s b j outs) := by
  refine hz.andThen (A := [.regs, .cores, .out, .fab]) ?_ hL
  unfold State.sendWrites
  repeat' first
    | (with_reducible first | intro _ | assumption | exact Touches.refl | apply State.moveReq_touches | apply Touches.foldl | apply Touches.foldlFst)
    | exact rfl | extract_lets -underBinder | split

theorem State.moveFailed_touches {L : List Part} {z0 : State} {s : State} {b : Nat} {j : Job} {status : Nat} (hz : Touches L z0 s)
    (hL : covers L [.regs, .cores, .out, .msix, .fab, .dir] = true) :
    Touches L z0 (State.moveFailed s b j status) := by
  refine hz.andThen (A := [.regs, .cores, .out, .msix, .fab, .dir]) ?_ hL
  unfold State.moveFailed
  repeat' first
    | (with_reducible first | intro _ | assumption | exact Touches.refl | apply State.bump_touches | apply State.dropJob_touches
                            | apply State.endTrans_touches | apply State.moveFail_touches | apply State.retire_touches
                            | apply State.slipCheck_touches | apply State.wr_touches)
    | exact rfl | extract_lets -underBinder | split

theorem State.moveDone_touches {L : List Part} {z0 : State} {s : State} {b : Nat} {j : Job} {rows : List (List Nat)} (hz : Touches L z0 s)
    (hL : covers L [.regs, .cores, .incs, .out, .counter, .msix, .fab, .dir] = true) :
    Touches L z0 (State.moveDone s b j rows) := by
  refine hz.andThen (A := [.regs, .cores, .incs, .out, .counter, .msix, .fab, .dir]) ?_ hL
  unfold State.moveDone
  repeat' first
    | (with_reducible first | intro _ | assumption | exact Touches.refl | apply State.bump_touches | apply State.bumpFree_touches
                            | apply State.dropJob_touches | apply State.endTrans_touches | apply State.finish_touches | apply State.modCore_touches
                            | apply State.orF_touches | apply State.raise_touches | apply State.setReg_touches | apply State.tally_touches
                            | apply State.wr_touches | apply Touches.ite | refine Touches.ofFst (by assumption) ?_)
    | exact rfl | assumption | exact State.core_wf (by assumption) _ | (simp; assumption) | with_reducible apply CoreSt.applyStores_wf
    | with_reducible apply CoreSt.ite_wf | extract_lets -underBinder | split
    | dsimp +zetaDelta only

theorem execDmovComplete_touches {core : Nat} {ord : Nat} {s : State} {t : State} (hx : execDmovComplete core ord s = .next t) :
    Touches [.regs, .cores, .incs, .out, .counter, .msix, .fab, .stack, .far, .caches, .dir] s t := by
  obtain rfl := Host.Outcome.next.inj hx
  repeat' first
    | (with_reducible first | intro _ | assumption | exact Touches.refl | apply State.moveDone_touches | apply State.sendWrites_touches
                            | apply State.setJob_touches | apply runMove_touches | apply Touches.ite | refine Touches.ofFst (by assumption) ?_)
    | exact rfl | extract_lets -underBinder | split
    | dsimp +zetaDelta only

theorem execDmovFailed_touches {core : Nat} {ord : Nat} {row : Nat} {s : State} {t : State} (hx : execDmovFailed core ord row s = .next t) :
    Touches [.regs, .cores, .out, .msix, .fab, .stack, .far, .caches, .dir] s t := by
  obtain rfl := Host.Outcome.next.inj hx
  repeat' first
    | (with_reducible first | intro _ | assumption | exact Touches.refl | apply State.moveFailed_touches | apply runMove_touches
                            | apply Touches.ite | refine Touches.ofFst (by assumption) ?_)
    | exact rfl | extract_lets -underBinder | split

theorem State.probeReq_touches {L : List Part} {z0 : State} {s : State} {b : Nat} {i : Nat} {pc : Nat} {a : Nat} {len : Nat} (hz : Touches L z0 s)
    (hL : covers L [.regs, .cores, .out, .fab] = true) :
    Touches L z0 (State.probeReq s b i pc a len) := by
  refine hz.andThen (A := [.regs, .cores, .out, .fab]) ?_ hL
  unfold State.probeReq
  repeat' first
    | (with_reducible first | intro _ | assumption | exact Touches.refl | apply State.bump_touches | apply State.modCore_touches
                            | apply State.sendReq_touches | apply State.takeTag_touches | apply Touches.ite
                            | refine Touches.ofFst (by assumption) ?_ | refine Touches.ofOpt (by assumption) ?_)
    | exact rfl | assumption | exact State.core_wf (by assumption) _ | (simp; assumption) | with_reducible apply CoreSt.ite_wf
    | extract_lets -underBinder | split
    | dsimp +zetaDelta only

theorem execProbeStart_touches {core : Nat} {stream : Nat} {pc : Nat} {s : State} {t : State}
    (hx : execProbeStart core stream pc s = .next t) : Touches [.regs, .cores, .out, .msix, .fab, .caches] s t := by
  obtain rfl := Host.Outcome.next.inj hx
  repeat' first
    | (with_reducible first | intro _ | assumption | exact Touches.refl | apply State.bump_touches | apply State.modCore_touches
                            | apply State.probeLine_touches | apply State.probeReq_touches | apply Touches.ite | apply Touches.foldl
                            | apply Touches.foldlFst | refine Touches.ofFst (by assumption) ?_)
    | exact rfl | assumption | exact State.core_wf (by assumption) _ | with_reducible apply CoreSt.foldl_wf | (simp; assumption)
    | with_reducible apply CoreSt.ite_wf | extract_lets -underBinder | split
    | dsimp +zetaDelta only

theorem execProbeTickExpiry_touches {core : Nat} {stream : Nat} {pc : Nat} {s : State} {t : State}
    (hx : execProbeTickExpiry core stream pc s = .next t) : Touches [.regs, .cores, .out, .msix, .caches] s t := by
  obtain rfl := Host.Outcome.next.inj hx
  repeat' first
    | (with_reducible first | intro _ | assumption | exact Touches.refl | apply State.cancelProbes_touches | refine Touches.ofFst (by assumption) ?_)
    | exact rfl | extract_lets -underBinder | split

end Sys2Proof.Machine
end

