-- ==== Sys2Proof/Laws/Touch/Journal.lean ====
section
/-!
SUPPORT. Laws/Touch/Journal.lean: for each operation of Machine/Journal.lean, what it can do: the queue stays, only the parts listed change, and the
registers and memories keep their canonical form.
-/

set_option linter.all false

namespace Sys2Proof.Machine

theorem State.spill_touches {L : List Part} {z0 : State} {s : State} {e : JEnt} (hz : Touches L z0 s) (hL : covers L [.regs, .out, .msix] = true) :
    Touches L z0 (State.spill s e) := by
  refine hz.andThen (A := [.regs, .out, .msix]) ?_ hL
  unfold State.spill
  repeat' first
    | (with_reducible first | intro _ | assumption | exact Touches.refl | apply State.bump_touches | apply State.emit_touches
                            | apply State.raise_touches | apply State.wr_touches | apply Touches.ite)
    | exact rfl | extract_lets -underBinder | split

theorem State.jnlPut_touches {L : List Part} {z0 : State} {s : State} {e : JEnt} (hz : Touches L z0 s)
    (hL : covers L [.regs, .out, .msix, .journal] = true) :
    Touches L z0 (State.jnlPut s e) := by
  refine hz.andThen (A := [.regs, .out, .msix, .journal]) ?_ hL
  unfold State.jnlPut
  repeat' first
    | (with_reducible first | intro _ | assumption | exact Touches.refl | apply State.spill_touches | apply State.wr_touches | apply Touches.modPkg)
    | exact rfl | extract_lets -underBinder
    | (refine ⟨?_, ?_, ?_, ?_, ?_, ?_, ?_, ?_, ?_, ?_, ?_⟩ <;> first | exact .inl (by decide) | exact .inr rfl)
    | split

theorem State.jnlAdd_touches {L : List Part} {z0 : State} {s : State} {code : Nat} {port : Nat} {outcome : Nat} {status : Nat} {alen : Nat}
    {detail : Nat} {digest : List Nat} {obj : Nat} (hz : Touches L z0 s) (hL : covers L [.regs, .out, .msix, .journal] = true) :
    Touches L z0 ((State.jnlAdd s code port outcome status alen detail digest obj).1) := by
  refine hz.andThen (A := [.regs, .out, .msix, .journal]) ?_ hL
  unfold State.jnlAdd
  refine TouchesP.out ?_
  repeat' first
    | (with_reducible first | intro _ | assumption | exact Touches.refl | apply State.jnlPut_touches | apply State.wr_touches | apply Touches.ite
                            | apply TouchesP.ite | apply TouchesP.pairIte)
    | exact rfl | extract_lets -underBinder | split
    | (with_reducible first | apply TouchesP.pair)
    | (show Touches _ _ (Prod.fst _); dsimp only)

theorem State.jnlDevice_touches {L : List Part} {z0 : State} {s : State} {code : Nat} {obj : Nat} {detail : Nat} (hz : Touches L z0 s)
    (hL : covers L [.regs, .out, .msix, .journal] = true) :
    Touches L z0 (State.jnlDevice s code obj detail) := by
  refine hz.andThen (A := [.regs, .out, .msix, .journal]) ?_ hL
  unfold State.jnlDevice
  repeat' first
    | (with_reducible first | intro _ | assumption | exact Touches.refl | apply State.jnlAdd_touches | apply Touches.ite)
    | exact rfl | extract_lets -underBinder | split
    | (show Touches _ _ (Prod.fst _); dsimp only)

theorem State.jnlRegWrite_touches {L : List Part} {z0 : State} {s : State} {off : Nat} {v : Nat} {ok : Bool} (hz : Touches L z0 s)
    (hL : covers L [.regs, .out, .msix, .journal] = true) :
    Touches L z0 (State.jnlRegWrite s off v ok) := by
  refine hz.andThen (A := [.regs, .out, .msix, .journal]) ?_ hL
  unfold State.jnlRegWrite
  repeat' first
    | (with_reducible first | intro _ | assumption | exact Touches.refl | apply State.jnlAdd_touches | apply Touches.ite)
    | exact rfl | extract_lets -underBinder | split
    | (show Touches _ _ (Prod.fst _); dsimp only)

theorem State.deliver_touches {L : List Part} {z0 : State} {s : State} {c : Comp} (hz : Touches L z0 s) (hL : covers L [.regs, .completions] = true) :
    Touches L z0 (State.deliver s c) := by
  refine hz.andThen (A := [.regs, .completions]) ?_ hL
  unfold State.deliver
  repeat' first
    | (with_reducible first | intro _ | assumption | exact Touches.refl | apply State.wr_touches | apply Touches.ite | apply Touches.modPkg)
    | exact rfl | extract_lets -underBinder
    | (refine ⟨?_, ?_, ?_, ?_, ?_, ?_, ?_, ?_, ?_, ?_, ?_⟩ <;> first | exact .inl (by decide) | exact .inr rfl)
    | split

theorem State.refuseNew_touches {L : List Part} {z0 : State} {s : State} {cls : Nat} {port : Nat} {code : Nat} {tag : Nat} {args : List Nat}
    {status : Nat} (hz : Touches L z0 s) (hL : covers L [.regs, .out, .msix, .journal, .completions] = true) :
    Touches L z0 (State.refuseNew s cls port code tag args status) := by
  refine hz.andThen (A := [.regs, .out, .msix, .journal, .completions]) ?_ hL
  unfold State.refuseNew
  repeat' first
    | (with_reducible first | intro _ | assumption | exact Touches.refl | apply State.bump_touches | apply State.deliver_touches
                            | apply State.jnlAdd_touches | apply State.raise_touches | apply Touches.ite)
    | exact rfl | extract_lets -underBinder | split
    | (show Touches _ _ (Prod.fst _); dsimp only)

theorem State.takeCommand_touches {L : List Part} {z0 : State} {s : State} {cls : Nat} {port : Nat} {code : Nat} {tag : Nat} {raddr : Nat}
    {rlen : Nat} {args : List Nat} (hz : Touches L z0 s) (hL : covers L [.regs, .out, .msix, .journal, .commands, .completions] = true) :
    Touches L z0 ((State.takeCommand s cls port code tag raddr rlen args).1) := by
  refine hz.andThen (A := [.regs, .out, .msix, .journal, .commands, .completions]) ?_ hL
  unfold State.takeCommand
  refine TouchesP.out ?_
  repeat' first
    | (with_reducible first | intro _ | assumption | exact Touches.refl | apply State.jnlAdd_touches | apply State.refuseNew_touches
                            | apply Touches.ite | apply TouchesP.ite | apply TouchesP.pairIte | apply Touches.modPkg
                            | refine Touches.ofFst (by assumption) ?_)
    | exact rfl | extract_lets -underBinder
    | (refine ⟨?_, ?_, ?_, ?_, ?_, ?_, ?_, ?_, ?_, ?_, ?_⟩ <;> first | exact .inl (by decide) | exact .inr rfl)
    | split
    | (with_reducible first | apply TouchesP.pair)
    | (show Touches _ _ (Prod.fst _); dsimp only)
    | dsimp +zetaDelta only

theorem State.finishCmd_touches {L : List Part} {z0 : State} {s : State} {c : Cmd} {outcome : Nat} {status : Nat} {detail : Nat} {resp : List Nat}
    (hz : Touches L z0 s) (hL : covers L [.regs, .out, .msix, .journal, .commands, .completions] = true) :
    Touches L z0 (State.finishCmd s c outcome status detail resp) := by
  refine hz.andThen (A := [.regs, .out, .msix, .journal, .commands, .completions]) ?_ hL
  unfold State.finishCmd
  repeat' first
    | (with_reducible first | intro _ | assumption | exact Touches.refl | apply State.deliver_touches | apply State.jnlPut_touches
                            | apply Touches.ite | apply Touches.modPkg)
    | exact rfl | extract_lets -underBinder
    | (refine ⟨?_, ?_, ?_, ?_, ?_, ?_, ?_, ?_, ?_, ?_, ?_⟩ <;> first | exact .inl (by decide) | exact .inr rfl)
    | split

theorem State.runCmd_touches {L : List Part} {z0 : State} {s : State} {c : Cmd} {body : List Nat → State → State × Ans} (hz : Touches L z0 s)
    (hL : covers L [.regs, .out, .msix, .journal, .commands, .completions] = true)
    (h_body : ∀ a0 a1, Touches L z0 a1 → Touches L z0 (body a0 a1).1) :
    Touches L z0 (State.runCmd s c body) := by
  unfold State.runCmd
  repeat' first
    | (with_reducible first | intro _ | assumption | exact Touches.refl | apply h_body | apply State.finishCmd_touches | apply Touches.ite
                            | refine Touches.ofFst (by assumption) ?_)
    | exact covers_trans hL rfl | extract_lets -underBinder | split
    | dsimp +zetaDelta only

theorem State.command_touches {L : List Part} {z0 : State} {s : State} {code : Nat} {via : Via} {body : List Nat → State → State × Ans} (hz :
    Touches L z0 s) (hL : covers L [.regs, .out, .msix, .journal, .commands, .completions] = true)
    (h_body : ∀ a0 a1, Touches L z0 a1 → Touches L z0 (body a0 a1).1) :
    Touches L z0 (State.command s code via body) := by
  unfold State.command
  repeat' first
    | (with_reducible first | intro _ | assumption | exact Touches.refl | apply h_body | apply State.runCmd_touches
                            | apply State.takeCommand_touches | apply Touches.ite | refine Touches.ofFst (by assumption) ?_)
    | exact covers_trans hL rfl | extract_lets -underBinder | split
    | (show Touches _ _ (Prod.fst _); dsimp only)

theorem State.refuse_touches {L : List Part} {z0 : State} {s : State} {status : Nat} (hz : Touches L z0 s) (hL : covers L [] = true) :
    Touches L z0 ((State.refuse s status).1) := by
  refine hz.andThen (A := []) ?_ hL
  unfold State.refuse
  refine TouchesP.out ?_
  repeat' first
    | (with_reducible first | intro _ | assumption | exact Touches.refl)
    | exact rfl | extract_lets -underBinder | split
    | (with_reducible first | apply TouchesP.pair)
    | (show Touches _ _ (Prod.fst _); dsimp only)

theorem State.answered_touches {L : List Part} {z0 : State} {s : State} {resp : List Nat} (hz : Touches L z0 s) (hL : covers L [] = true) :
    Touches L z0 ((State.answered s resp).1) := by
  refine hz.andThen (A := []) ?_ hL
  unfold State.answered
  refine TouchesP.out ?_
  repeat' first
    | (with_reducible first | intro _ | assumption | exact Touches.refl)
    | exact rfl | extract_lets -underBinder | split
    | (with_reducible first | apply TouchesP.pair)
    | (show Touches _ _ (Prod.fst _); dsimp only)

end Sys2Proof.Machine
end

