-- ==== Sys2Proof/Laws/Touch/UdState.lean ====
section
/-!
SUPPORT. Laws/Touch/UdState.lean: for each operation of Machine/UdState.lean, what it can do: the queue stays, only the parts listed change, and the
registers and memories keep their canonical form.
-/

set_option linter.all false

namespace Sys2Proof.Machine

theorem State.setUd_touches {L : List Part} {z0 : State} {s : State} {d : Nat} {u : UdSt} (hz : Touches L z0 s) (hL : covers L [.ud0, .ud1] = true) :
    Touches L z0 (State.setUd s d u) := by
  refine hz.andThen (A := [.ud0, .ud1]) ?_ hL
  unfold State.setUd
  repeat' first
    | (with_reducible first | intro _ | assumption | exact Touches.refl | apply Touches.ite)
    | exact rfl | extract_lets -underBinder | split
    | (with_reducible first | apply Touches.set_ud0 | apply Touches.set_ud1)

theorem State.modUd_touches {L : List Part} {z0 : State} {s : State} {d : Nat} {f : UdSt → UdSt} (hz : Touches L z0 s)
    (hL : covers L [.ud0, .ud1] = true) :
    Touches L z0 (State.modUd s d f) := by
  refine hz.andThen (A := [.ud0, .ud1]) ?_ hL
  unfold State.modUd
  repeat' first
    | (with_reducible first | intro _ | assumption | exact Touches.refl | apply State.setUd_touches)
    | exact rfl | extract_lets -underBinder | split

theorem State.udRead_touches {L : List Part} {z0 : State} {s : State} {d : Nat} {a : Nat} {len : Nat} (hz : Touches L z0 s)
    (hL : covers L [.regs, .out, .counter, .msix, .fab, .caches] = true) :
    Touches L z0 ((State.udRead s d a len).s) := by
  refine hz.andThen (A := [.regs, .out, .counter, .msix, .fab, .caches]) ?_ hL
  unfold State.udRead
  refine TouchesR.out ?_
  repeat' first
    | (with_reducible first | intro _ | assumption | exact Touches.refl | apply State.bump_touches | apply State.peatRead_touches
                            | apply Touches.ite | apply TouchesR.ite)
    | exact rfl | extract_lets -underBinder | split
    | (with_reducible first | apply TouchesR.rsp)

theorem State.udWrite_touches {L : List Part} {z0 : State} {s : State} {d : Nat} {a : Nat} {bytes : List Nat} (hz : Touches L z0 s)
    (hL : covers L [.regs, .out, .counter, .msix, .peat, .caches] = true) :
    Touches L z0 ((State.udWrite s d a bytes).s) := by
  refine hz.andThen (A := [.regs, .out, .counter, .msix, .peat, .caches]) ?_ hL
  unfold State.udWrite
  refine TouchesR.out ?_
  repeat' first
    | (with_reducible first | intro _ | assumption | exact Touches.refl | apply State.bump_touches | apply State.peatWrite_touches
                            | apply Touches.ite | apply TouchesR.ite)
    | exact rfl | extract_lets -underBinder | split
    | (with_reducible first | apply TouchesR.rsp)

theorem State.udWords_touches {L : List Part} {z0 : State} {s : State} {d : Nat} {a : Nat} (hz : Touches L z0 s)
    (hL : covers L [.regs, .out, .counter, .msix, .fab, .caches] = true) :
    Touches L z0 ((State.udWords s d a).1) := by
  refine hz.andThen (A := [.regs, .out, .counter, .msix, .fab, .caches]) ?_ hL
  unfold State.udWords
  refine TouchesP.out ?_
  repeat' first
    | (with_reducible first | intro _ | assumption | exact Touches.refl | apply State.udRead_touches | apply Touches.ite | apply TouchesP.ite
                            | apply TouchesP.pairIte)
    | exact rfl | extract_lets -underBinder | split
    | (with_reducible first | apply TouchesP.pair)
    | (show Touches _ _ (Prod.fst _); dsimp only)

theorem State.readRec_touches {L : List Part} {z0 : State} {s : State} {d : Nat} {ulx : Nat} (hz : Touches L z0 s)
    (hL : covers L [.regs, .out, .counter, .msix, .fab, .caches] = true) :
    Touches L z0 ((State.readRec s d ulx).1) := by
  refine hz.andThen (A := [.regs, .out, .counter, .msix, .fab, .caches]) ?_ hL
  unfold State.readRec
  refine TouchesP.out ?_
  repeat' first
    | (with_reducible first | intro _ | assumption | exact Touches.refl | apply State.udWords_touches)
    | exact rfl | extract_lets -underBinder | split
    | (with_reducible first | apply TouchesP.pair)
    | (show Touches _ _ (Prod.fst _); dsimp only)

theorem State.readCopy_touches {L : List Part} {z0 : State} {s : State} {d : Nat} {k : Nat} (hz : Touches L z0 s)
    (hL : covers L [.regs, .out, .counter, .msix, .fab, .caches] = true) :
    Touches L z0 ((State.readCopy s d k).1) := by
  refine hz.andThen (A := [.regs, .out, .counter, .msix, .fab, .caches]) ?_ hL
  unfold State.readCopy
  refine TouchesP.out ?_
  repeat' first
    | (with_reducible first | intro _ | assumption | exact Touches.refl | apply State.udWords_touches)
    | exact rfl | extract_lets -underBinder | split
    | (with_reducible first | apply TouchesP.pair)
    | (show Touches _ _ (Prod.fst _); dsimp only)

theorem State.readEntry_touches {L : List Part} {z0 : State} {s : State} {d : Nat} {j : Nat} (hz : Touches L z0 s)
    (hL : covers L [.regs, .out, .counter, .msix, .fab, .caches] = true) :
    Touches L z0 ((State.readEntry s d j).1) := by
  refine hz.andThen (A := [.regs, .out, .counter, .msix, .fab, .caches]) ?_ hL
  unfold State.readEntry
  refine TouchesP.out ?_
  repeat' first
    | (with_reducible first | intro _ | assumption | exact Touches.refl | apply State.udWords_touches)
    | exact rfl | extract_lets -underBinder | split
    | (with_reducible first | apply TouchesP.pair)
    | (show Touches _ _ (Prod.fst _); dsimp only)

theorem State.setCommit_touches {L : List Part} {z0 : State} {s : State} {d : Nat} {ulx : Nat} {f : Nat → Nat} (hz : Touches L z0 s)
    (hL : covers L [.regs, .out, .counter, .msix, .fab, .peat, .caches] = true) :
    Touches L z0 ((State.setCommit s d ulx f).1) := by
  refine hz.andThen (A := [.regs, .out, .counter, .msix, .fab, .peat, .caches]) ?_ hL
  unfold State.setCommit
  refine TouchesP.out ?_
  repeat' first
    | (with_reducible first | intro _ | assumption | exact Touches.refl | apply State.udRead_touches | apply State.udWrite_touches
                            | apply Touches.ite | apply TouchesP.ite | apply TouchesP.pairIte)
    | exact rfl | extract_lets -underBinder | split
    | (with_reducible first | apply TouchesP.pair)
    | (show Touches _ _ (Prod.fst _); dsimp only)

theorem State.putCommit_touches {L : List Part} {z0 : State} {s : State} {d : Nat} {ulx : Nat} {f : Nat → Nat} (hz : Touches L z0 s)
    (hL : covers L [.regs, .out, .counter, .msix, .fab, .peat, .caches] = true) :
    Touches L z0 (State.putCommit s d ulx f) := by
  refine hz.andThen (A := [.regs, .out, .counter, .msix, .fab, .peat, .caches]) ?_ hL
  unfold State.putCommit
  repeat' first
    | (with_reducible first | intro _ | assumption | exact Touches.refl | apply State.raise_touches | apply State.setCommit_touches
                            | apply Touches.ite)
    | exact rfl | extract_lets -underBinder | split
    | (show Touches _ _ (Prod.fst _); dsimp only)

theorem State.commitVersion_touches {L : List Part} {z0 : State} {s : State} {d : Nat} {ulx : Nat} {slot : Nat} {t : Nat} {e : Nat} (hz :
    Touches L z0 s) (hL : covers L [.regs, .out, .counter, .msix, .fab, .peat, .caches] = true) :
    Touches L z0 ((State.commitVersion s d ulx slot t e).1) := by
  refine hz.andThen (A := [.regs, .out, .counter, .msix, .fab, .peat, .caches]) ?_ hL
  unfold State.commitVersion
  refine TouchesP.out ?_
  repeat' first
    | (with_reducible first | intro _ | assumption | exact Touches.refl | apply State.setCommit_touches)
    | exact rfl | extract_lets -underBinder | split
    | (with_reducible first | apply TouchesP.pair)
    | (show Touches _ _ (Prod.fst _); dsimp only)

theorem State.tear_touches {L : List Part} {z0 : State} {s : State} {d : Nat} {ulx : Nat} (hz : Touches L z0 s)
    (hL : covers L [.regs, .out, .counter, .msix, .fab, .peat, .caches] = true) :
    Touches L z0 (State.tear s d ulx) := by
  refine hz.andThen (A := [.regs, .out, .counter, .msix, .fab, .peat, .caches]) ?_ hL
  unfold State.tear
  repeat' first
    | (with_reducible first | intro _ | assumption | exact Touches.refl | apply State.health_touches | apply State.putCommit_touches
                            | apply State.raise_touches)
    | exact rfl | extract_lets -underBinder | split

theorem State.udInc_touches {L : List Part} {z0 : State} {s : State} {d : Nat} {ts : Nat} (hz : Touches L z0 s) (hL : covers L [.incs] = true) :
    Touches L z0 (State.udInc s d ts) := by
  refine hz.andThen (A := [.incs]) ?_ hL
  unfold State.udInc
  repeat' first
    | (with_reducible first | intro _ | assumption | exact Touches.refl)
    | exact rfl | extract_lets -underBinder | split
    | (with_reducible first | apply Touches.set_incs)

theorem State.walkFault_touches {L : List Part} {z0 : State} {s : State} {d : Nat} {code : Nat} {idx : Nat} (hz : Touches L z0 s)
    (hL : covers L [.regs, .out, .msix, .ud0, .ud1] = true) :
    Touches L z0 (State.walkFault s d code idx) := by
  refine hz.andThen (A := [.regs, .out, .msix, .ud0, .ud1]) ?_ hL
  unfold State.walkFault
  repeat' first
    | (with_reducible first | intro _ | assumption | exact Touches.refl | apply State.modUd_touches | apply State.raise_touches
                            | apply State.wr_touches)
    | exact rfl | extract_lets -underBinder | split

theorem State.countTrouble_touches {L : List Part} {z0 : State} {s : State} {d : Nat} {ulx : Nat} {tag : Nat} {cls : Nat} (hz : Touches L z0 s)
    (hL : covers L [.regs, .out, .msix] = true) :
    Touches L z0 (State.countTrouble s d ulx tag cls) := by
  refine hz.andThen (A := [.regs, .out, .msix]) ?_ hL
  unfold State.countTrouble
  repeat' first
    | (with_reducible first | intro _ | assumption | exact Touches.refl | apply State.bump_touches | apply State.raise_touches
                            | apply State.wr_touches | apply Touches.ite)
    | exact rfl | extract_lets -underBinder | split

theorem State.udArray_touches {L : List Part} {z0 : State} {s : State} {d : Nat} {a : Nat} {z : Nat} {n : Nat} (hz : Touches L z0 s)
    (hL : covers L [.regs, .out, .counter, .msix, .fab, .caches] = true) :
    Touches L z0 ((State.udArray s d a z n).1) := by
  refine hz.andThen (A := [.regs, .out, .counter, .msix, .fab, .caches]) ?_ hL
  unfold State.udArray
  refine TouchesP.out ?_
  repeat' first
    | (with_reducible first | intro _ | assumption | exact Touches.refl | apply State.udRead_touches | apply Touches.ite | apply TouchesP.ite
                            | apply TouchesP.pairIte)
    | exact rfl | extract_lets -underBinder | split
    | (with_reducible first | apply TouchesP.pair)
    | (show Touches _ _ (Prod.fst _); dsimp only)

theorem State.readSlot_touches {L : List Part} {z0 : State} {s : State} {d : Nat} {r : List Nat} {sl : Nat} {nst : Nat} (hz : Touches L z0 s)
    (hL : covers L [.regs, .out, .counter, .msix, .fab, .caches] = true) :
    Touches L z0 ((State.readSlot s d r sl nst).1) := by
  refine hz.andThen (A := [.regs, .out, .counter, .msix, .fab, .caches]) ?_ hL
  unfold State.readSlot
  refine TouchesP.out ?_
  repeat' first
    | (with_reducible first | intro _ | assumption | exact Touches.refl | apply State.udArray_touches | apply Touches.ite | apply TouchesP.ite
                            | apply TouchesP.pairIte | apply Touches.foldl | apply Touches.foldlFst | refine Touches.ofFst (by assumption) ?_)
    | exact rfl | extract_lets -underBinder | split
    | (with_reducible first | apply TouchesP.pair)
    | (show Touches _ _ (Prod.fst _); dsimp only)
    | dsimp +zetaDelta only

theorem State.writeSlot_touches {L : List Part} {z0 : State} {s : State} {d : Nat} {r : List Nat} {sl : Nat} {arrs : List (List Nat)} {m : Nat}
    (hz : Touches L z0 s) (hL : covers L [.regs, .out, .counter, .msix, .peat, .caches] = true) :
    Touches L z0 ((State.writeSlot s d r sl arrs m).1) := by
  refine hz.andThen (A := [.regs, .out, .counter, .msix, .peat, .caches]) ?_ hL
  unfold State.writeSlot
  refine TouchesP.out ?_
  repeat' first
    | (with_reducible first | intro _ | assumption | exact Touches.refl | apply State.udWrite_touches | apply Touches.ite | apply TouchesP.ite
                            | apply TouchesP.pairIte | apply Touches.foldl | apply Touches.foldlFst)
    | exact rfl | extract_lets -underBinder | split
    | (with_reducible first | apply TouchesP.pair)
    | (show Touches _ _ (Prod.fst _); dsimp only)

theorem State.udSend_touches {L : List Part} {z0 : State} {s : State} {d : Nat} {write : Bool} {a : Nat} {len : Nat} {data : List Nat} (hz :
    Touches L z0 s) (hL : covers L [.regs, .out, .fab, .ud0, .ud1] = true) :
    Touches L z0 ((State.udSend s d write a len data).1) := by
  refine hz.andThen (A := [.regs, .out, .fab, .ud0, .ud1]) ?_ hL
  unfold State.udSend
  refine TouchesP.out ?_
  repeat' first
    | (with_reducible first | intro _ | assumption | exact Touches.refl | apply State.bump_touches | apply State.modUd_touches
                            | apply State.sendReq_touches | apply Touches.ite | apply TouchesP.ite | apply TouchesP.pairIte
                            | refine Touches.ofFst (by assumption) ?_ | refine Touches.ofOpt (by assumption) ?_)
    | exact rfl | extract_lets -underBinder | split
    | (with_reducible first | apply TouchesP.pair)
    | (show Touches _ _ (Prod.fst _); dsimp only)
    | dsimp +zetaDelta only

theorem State.udRequest_touches {L : List Part} {z0 : State} {s : State} {d : Nat} {rs : List (Nat × Nat)} (hz : Touches L z0 s)
    (hL : covers L [.regs, .out, .fab, .ud0, .ud1] = true) :
    Touches L z0 ((State.udRequest s d rs).1) := by
  refine hz.andThen (A := [.regs, .out, .fab, .ud0, .ud1]) ?_ hL
  unfold State.udRequest
  refine TouchesP.out ?_
  repeat' first
    | (with_reducible first | intro _ | assumption | exact Touches.refl | apply State.udSend_touches | apply Touches.ite | apply TouchesP.ite
                            | apply TouchesP.pairIte | apply Touches.foldl | apply Touches.foldlFst | refine Touches.ofFst (by assumption) ?_)
    | exact rfl | extract_lets -underBinder | split
    | (with_reducible first | apply TouchesP.pair)
    | (show Touches _ _ (Prod.fst _); dsimp only)
    | dsimp +zetaDelta only

theorem State.udTouch_touches {L : List Part} {z0 : State} {s : State} {rs : List (Nat × Nat)} (hz : Touches L z0 s)
    (hL : covers L [.regs, .out, .msix, .fab, .caches] = true) :
    Touches L z0 ((State.udTouch s rs).1) := by
  refine hz.andThen (A := [.regs, .out, .msix, .fab, .caches]) ?_ hL
  unfold State.udTouch
  refine TouchesP.out ?_
  repeat' first
    | (with_reducible first | intro _ | assumption | exact Touches.refl | apply State.hallRead_touches | apply Touches.ite | apply TouchesP.ite
                            | apply TouchesP.pairIte | apply Touches.foldl | apply Touches.foldlFst | refine Touches.ofFst (by assumption) ?_)
    | exact rfl | extract_lets -underBinder | split
    | (with_reducible first | apply TouchesP.pair)
    | (show Touches _ _ (Prod.fst _); dsimp only)
    | dsimp +zetaDelta only

theorem State.addExps_touches {L : List Part} {z0 : State} {s : State} {d : Nat} {layer : Nat} {g : List (List Val)} (hz : Touches L z0 s)
    (hL : covers L [.regs] = true) :
    Touches L z0 (State.addExps s d layer g) := by
  refine hz.andThen (A := [.regs]) ?_ hL
  unfold State.addExps
  repeat' first
    | (with_reducible first | intro _ | assumption | exact Touches.refl | apply State.bump_touches | apply State.wr_touches | apply Touches.ite
                            | apply Touches.foldl | apply Touches.foldlFst)
    | exact rfl | extract_lets -underBinder | split

theorem State.udPut_touches {L : List Part} {z0 : State} {s : State} {d : Nat} {a : Nat} {data : List Nat} (hz : Touches L z0 s)
    (hL : covers L [.regs, .out, .msix, .fab, .stack, .far, .caches, .ud0, .ud1] = true) :
    Touches L z0 ((State.udPut s d a data).1) := by
  refine hz.andThen (A := [.regs, .out, .msix, .fab, .stack, .far, .caches, .ud0, .ud1]) ?_ hL
  unfold State.udPut
  refine TouchesP.out ?_
  repeat' first
    | (with_reducible first | intro _ | assumption | exact Touches.refl | apply State.hallWrite_touches | apply State.udSend_touches
                            | apply Touches.ite | apply TouchesP.ite | apply TouchesP.pairIte | apply Touches.foldl | apply Touches.foldlFst
                            | refine Touches.ofFst (by assumption) ?_)
    | exact rfl | extract_lets -underBinder | split
    | (with_reducible first | apply TouchesP.pair)
    | (show Touches _ _ (Prod.fst _); dsimp only)
    | dsimp +zetaDelta only

theorem State.emitCopy_touches {L : List Part} {z0 : State} {s : State} {d : Nat} {r : List Nat} {c : List Nat} {k : Nat} {t : Nat} {w : List Nat}
    {b : Nat} {ulx : Nat} {owner : Option Nat} {held : Bool} (hz : Touches L z0 s)
    (hL : covers L [.regs, .out, .msix, .fab, .stack, .far, .caches, .ud0, .ud1] = true) :
    Touches L z0 (State.emitCopy s d r c k t w b ulx owner held) := by
  refine hz.andThen (A := [.regs, .out, .msix, .fab, .stack, .far, .caches, .ud0, .ud1]) ?_ hL
  unfold State.emitCopy
  repeat' first
    | (with_reducible first | intro _ | assumption | exact Touches.refl | apply State.modUd_touches | apply State.udPut_touches | apply Touches.ite
                            | apply Touches.foldl | apply Touches.foldlFst | refine Touches.ofFst (by assumption) ?_)
    | exact rfl | extract_lets -underBinder | split
    | (show Touches _ _ (Prod.fst _); dsimp only)
    | dsimp +zetaDelta only

theorem State.emitCopies_touches {L : List Part} {z0 : State} {s : State} {d : Nat} {r : List Nat} {t : Nat} {w : List Nat} {b : Nat} {ulx : Nat}
    {owner : Option Nat} {held : Bool} (hz : Touches L z0 s)
    (hL : covers L [.regs, .out, .counter, .msix, .fab, .stack, .far, .caches, .ud0, .ud1] = true) :
    Touches L z0 (State.emitCopies s d r t w b ulx owner held) := by
  refine hz.andThen (A := [.regs, .out, .counter, .msix, .fab, .stack, .far, .caches, .ud0, .ud1]) ?_ hL
  unfold State.emitCopies
  repeat' first
    | (with_reducible first | intro _ | assumption | exact Touches.refl | apply State.emitCopy_touches | apply State.modUd_touches
                            | apply State.raise_touches | apply State.readCopy_touches | apply Touches.ite | apply Touches.foldl
                            | apply Touches.foldlFst | refine Touches.ofFst (by assumption) ?_)
    | exact rfl | extract_lets -underBinder | split
    | (show Touches _ _ (Prod.fst _); dsimp only)
    | dsimp +zetaDelta only

theorem State.peatTrouble_touches {L : List Part} {z0 : State} {s : State} {d : Nat} {ulx : Nat} {tag : Nat} (hz : Touches L z0 s)
    (hL : covers L [.regs, .out, .counter, .msix, .fab, .peat, .caches] = true) :
    Touches L z0 (State.peatTrouble s d ulx tag) := by
  refine hz.andThen (A := [.regs, .out, .counter, .msix, .fab, .peat, .caches]) ?_ hL
  unfold State.peatTrouble
  repeat' first
    | (with_reducible first | intro _ | assumption | exact Touches.refl | apply State.countTrouble_touches | apply State.raise_touches
                            | apply State.tear_touches)
    | exact rfl | extract_lets -underBinder | split

theorem State.reemit_touches {L : List Part} {z0 : State} {s : State} {d : Nat} {ulx : Nat} {r : List Nat} {b : Nat} {owner : Option Nat}
    (hz : Touches L z0 s) (hL : covers L [.regs, .out, .counter, .msix, .fab, .stack, .peat, .far, .caches, .ud0, .ud1] = true) :
    Touches L z0 (State.reemit s d ulx r b owner) := by
  refine hz.andThen (A := [.regs, .out, .counter, .msix, .fab, .stack, .peat, .far, .caches, .ud0, .ud1]) ?_ hL
  unfold State.reemit
  repeat' first
    | (with_reducible first | intro _ | assumption | exact Touches.refl | apply State.emitCopies_touches | apply State.peatTrouble_touches
                            | apply State.readSlot_touches | refine Touches.ofFst (by assumption) ?_)
    | exact rfl | extract_lets -underBinder | split
    | (show Touches _ _ (Prod.fst _); dsimp only)
    | dsimp +zetaDelta only

theorem State.showHeld_touches {L : List Part} {z0 : State} {s : State} {d : Nat} (hz : Touches L z0 s) (hL : covers L [.regs] = true) :
    Touches L z0 (State.showHeld s d) := by
  refine hz.andThen (A := [.regs]) ?_ hL
  unfold State.showHeld
  repeat' first
    | (with_reducible first | intro _ | assumption | exact Touches.refl | apply State.wr_touches)
    | exact rfl | extract_lets -underBinder | split

theorem State.showFlight_touches {L : List Part} {z0 : State} {s : State} {d : Nat} (hz : Touches L z0 s) (hL : covers L [.regs] = true) :
    Touches L z0 (State.showFlight s d) := by
  refine hz.andThen (A := [.regs]) ?_ hL
  unfold State.showFlight
  repeat' first
    | (with_reducible first | intro _ | assumption | exact Touches.refl | apply State.wr_touches)
    | exact rfl | extract_lets -underBinder | split

theorem State.modEnt_touches {L : List Part} {z0 : State} {s : State} {d : Nat} {idx : Nat} {f : UdEnt → UdEnt} (hz : Touches L z0 s)
    (hL : covers L [.ud0, .ud1] = true) :
    Touches L z0 (State.modEnt s d idx f) := by
  refine hz.andThen (A := [.ud0, .ud1]) ?_ hL
  unfold State.modEnt
  repeat' first
    | (with_reducible first | intro _ | assumption | exact Touches.refl | apply State.modUd_touches | apply Touches.ite)
    | exact rfl | extract_lets -underBinder | split

theorem State.resolveEnt_touches {L : List Part} {z0 : State} {s : State} {d : Nat} {idx : Nat} (hz : Touches L z0 s)
    (hL : covers L [.ud0, .ud1] = true) :
    Touches L z0 (State.resolveEnt s d idx) := by
  refine hz.andThen (A := [.ud0, .ud1]) ?_ hL
  unfold State.resolveEnt
  repeat' first
    | (with_reducible first | intro _ | assumption | exact Touches.refl | apply State.modEnt_touches)
    | exact rfl | extract_lets -underBinder | split

theorem State.udReply_touches {L : List Part} {z0 : State} {s : State} {d : Nat} {tag : Nat} {status : Nat} {data : List Nat} (hz : Touches L z0 s)
    (hL : covers L [.ud0, .ud1] = true) :
    Touches L z0 (State.udReply s d tag status data) := by
  refine hz.andThen (A := [.ud0, .ud1]) ?_ hL
  unfold State.udReply
  repeat' first
    | (with_reducible first | intro _ | assumption | exact Touches.refl | apply State.modUd_touches | apply Touches.ite
                            | refine Touches.ofFst (by assumption) ?_)
    | exact rfl | extract_lets -underBinder | split
    | dsimp +zetaDelta only

theorem State.udEnd_touches {L : List Part} {z0 : State} {s : State} {d : Nat} {tag : Nat} {st : Nat} (hz : Touches L z0 s)
    (hL : covers L [.ud0, .ud1] = true) :
    Touches L z0 (State.udEnd s d tag st) := by
  refine hz.andThen (A := [.ud0, .ud1]) ?_ hL
  unfold State.udEnd
  repeat' first
    | (with_reducible first | intro _ | assumption | exact Touches.refl | apply State.udReply_touches)
    | exact rfl | extract_lets -underBinder | split

end Sys2Proof.Machine
end

