-- ==== Sys2Proof/Laws/Touch/Sedge.lean ====
section
/-!
SUPPORT. Laws/Touch/Sedge.lean: for each operation of Machine/Sedge.lean, what it can do: the queue stays, only the parts listed change, and the
registers and memories keep their canonical form.
-/

set_option linter.all false

namespace Sys2Proof.Machine

theorem State.clearMarks_touches {L : List Part} {z0 : State} {s : State} {d : Nat} (hz : Touches L z0 s) (hL : covers L [.regs] = true) :
    Touches L z0 (State.clearMarks s d) := by
  refine hz.andThen (A := [.regs]) ?_ hL
  unfold State.clearMarks
  repeat' first
    | (with_reducible first | intro _ | assumption | exact Touches.refl | apply State.setReg_touches | apply Touches.foldl | apply Touches.foldlFst)
    | exact rfl | extract_lets -underBinder | split

theorem State.walkStart_touches {L : List Part} {z0 : State} {s : State} {d : Nat} (hz : Touches L z0 s) (hL : covers L [.regs, .ud0, .ud1] = true) :
    Touches L z0 (State.walkStart s d) := by
  refine hz.andThen (A := [.regs, .ud0, .ud1]) ?_ hL
  unfold State.walkStart
  repeat' first
    | (with_reducible first | intro _ | assumption | exact Touches.refl | apply State.clearMarks_touches | apply State.modUd_touches
                            | apply State.wr_touches)
    | exact rfl | extract_lets -underBinder | split

theorem State.launchEnt_touches {L : List Part} {z0 : State} {s : State} {d : Nat} {x : UdEnt} (hz : Touches L z0 s)
    (hL : covers L [.regs, .ud0, .ud1] = true) :
    Touches L z0 (State.launchEnt s d x) := by
  refine hz.andThen (A := [.regs, .ud0, .ud1]) ?_ hL
  unfold State.launchEnt
  repeat' first
    | (with_reducible first | intro _ | assumption | exact Touches.refl | apply State.modUd_touches | apply State.showFlight_touches
                            | apply State.wr_touches)
    | exact rfl | extract_lets -underBinder | split

theorem State.startEntry_touches {L : List Part} {z0 : State} {s : State} {d : Nat} {idx : Nat} {kind : Nat} (hz : Touches L z0 s)
    (hL : covers L [.regs, .out, .counter, .msix, .fab, .peat, .caches, .ud0, .ud1] = true) :
    Touches L z0 (State.startEntry s d idx kind) := by
  refine hz.andThen (A := [.regs, .out, .counter, .msix, .fab, .peat, .caches, .ud0, .ud1]) ?_ hL
  unfold State.startEntry
  repeat' first
    | (with_reducible first | intro _ | assumption | exact Touches.refl | apply State.launchEnt_touches | apply State.peatTrouble_touches
                            | apply State.readEntry_touches | apply State.readRec_touches | apply State.udRequest_touches
                            | apply State.walkFault_touches | apply Touches.ite | refine Touches.ofFst (by assumption) ?_)
    | exact rfl | extract_lets -underBinder | split
    | (show Touches _ _ (Prod.fst _); dsimp only)
    | dsimp +zetaDelta only

theorem State.nacc_touches {L : List Part} {z0 : State} {s : State} {d : Nat} {grp : Nat} {a : Nat} {v : Nat} (hz : Touches L z0 s)
    (hL : covers L [.regs] = true) :
    Touches L z0 (State.nacc s d grp a v) := by
  refine hz.andThen (A := [.regs]) ?_ hL
  unfold State.nacc
  repeat' first
    | (with_reducible first | intro _ | assumption | exact Touches.refl | apply State.wr_touches)
    | exact rfl | extract_lets -underBinder | split

theorem State.accBlocks_touches {L : List Part} {z0 : State} {s : State} {d : Nat} {grp : Nat} {c : UdCtx} {prog : List Nat} {kk : Nat}
    {g : List (List Val)} {old : List (List Nat)} {n : Nat} (hz : Touches L z0 s) (hL : covers L [.regs] = true) :
    Touches L z0 (State.accBlocks s d grp c prog kk g old n) := by
  refine hz.andThen (A := [.regs]) ?_ hL
  unfold State.accBlocks
  repeat' first
    | (with_reducible first | intro _ | assumption | exact Touches.refl | apply State.nacc_touches | apply Touches.foldl | apply Touches.foldlFst)
    | exact rfl | extract_lets -underBinder | split

theorem State.accUpdate_touches {L : List Part} {z0 : State} {s : State} {d : Nat} {x : UdEnt} {g : List (List Val)} {old : List (List Nat)}
    {bad : Option Nat} (hz : Touches L z0 s) (hL : covers L [.regs] = true) :
    Touches L z0 (State.accUpdate s d x g old bad) := by
  refine hz.andThen (A := [.regs]) ?_ hL
  unfold State.accUpdate
  repeat' first
    | (with_reducible first | intro _ | assumption | exact Touches.refl | apply State.accBlocks_touches | apply Touches.ite
                            | refine Touches.ofFst (by assumption) ?_)
    | exact rfl | extract_lets -underBinder | split

theorem State.abandon_touches {L : List Part} {z0 : State} {s : State} {d : Nat} {x : UdEnt} {cls : Nat} (hz : Touches L z0 s)
    (hL : covers L [.regs, .out, .counter, .msix, .fab, .stack, .peat, .far, .caches, .ud0, .ud1] = true) :
    Touches L z0 (State.abandon s d x cls) := by
  refine hz.andThen (A := [.regs, .out, .counter, .msix, .fab, .stack, .peat, .far, .caches, .ud0, .ud1]) ?_ hL
  unfold State.abandon
  repeat' first
    | (with_reducible first | intro _ | assumption | exact Touches.refl | apply State.countTrouble_touches | apply State.modUd_touches
                            | apply State.raise_touches | apply State.reemit_touches | apply State.resolveEnt_touches
                            | apply State.showHeld_touches | apply Touches.ite)
    | exact rfl | extract_lets -underBinder | split

theorem State.publish_touches {L : List Part} {z0 : State} {s : State} {d : Nat} {x : UdEnt} {w : List Nat} (hz : Touches L z0 s)
    (hL : covers L [.regs, .out, .counter, .msix, .fab, .stack, .far, .caches, .ud0, .ud1] = true) :
    Touches L z0 (State.publish s d x w) := by
  refine hz.andThen (A := [.regs, .out, .counter, .msix, .fab, .stack, .far, .caches, .ud0, .ud1]) ?_ hL
  unfold State.publish
  repeat' first
    | (with_reducible first | intro _ | assumption | exact Touches.refl | apply State.emitCopies_touches | apply State.modEnt_touches
                            | apply State.modUd_touches | apply State.resolveEnt_touches | apply State.showHeld_touches | apply Touches.ite)
    | exact rfl | extract_lets -underBinder | split

theorem State.runPingPong_touches {L : List Part} {z0 : State} {s : State} {d : Nat} {x : UdEnt} {g : List (List Val)} (hz : Touches L z0 s)
    (hL : covers L [.regs, .out, .counter, .msix, .fab, .stack, .peat, .far, .caches, .ud0, .ud1] = true) :
    Touches L z0 (State.runPingPong s d x g) := by
  refine hz.andThen (A := [.regs, .out, .counter, .msix, .fab, .stack, .peat, .far, .caches, .ud0, .ud1]) ?_ hL
  unfold State.runPingPong
  repeat' first
    | (with_reducible first | intro _ | assumption | exact Touches.refl | apply State.abandon_touches | apply State.accUpdate_touches
                            | apply State.peatTrouble_touches | apply State.publish_touches | apply State.readSlot_touches
                            | apply State.resolveEnt_touches | apply State.writeSlot_touches | apply Touches.ite
                            | refine Touches.ofFst (by assumption) ?_)
    | exact rfl | extract_lets -underBinder | split
    | (show Touches _ _ (Prod.fst _); dsimp only)
    | dsimp +zetaDelta only

theorem State.runInplace_touches {L : List Part} {z0 : State} {s : State} {d : Nat} {x : UdEnt} {g : List (List Val)} (hz : Touches L z0 s)
    (hL : covers L [.regs, .out, .counter, .msix, .fab, .stack, .peat, .far, .caches, .ud0, .ud1, .journal] = true) :
    Touches L z0 (State.runInplace s d x g) := by
  refine hz.andThen (A := [.regs, .out, .counter, .msix, .fab, .stack, .peat, .far, .caches, .ud0, .ud1, .journal]) ?_ hL
  unfold State.runInplace
  repeat' first
    | (with_reducible first | intro _ | assumption | exact Touches.refl | apply State.abandon_touches | apply State.accUpdate_touches
                            | apply State.countTrouble_touches | apply State.jnlDevice_touches | apply State.peatTrouble_touches
                            | apply State.publish_touches | apply State.readSlot_touches | apply State.resolveEnt_touches
                            | apply State.setCommit_touches | apply State.tear_touches | apply State.writeSlot_touches | apply Touches.ite
                            | refine Touches.ofFst (by assumption) ?_)
    | exact rfl | extract_lets -underBinder | split
    | (show Touches _ _ (Prod.fst _); dsimp only)
    | dsimp +zetaDelta only

theorem State.runEmpty_touches {L : List Part} {z0 : State} {s : State} {d : Nat} {x : UdEnt} (hz : Touches L z0 s)
    (hL : covers L [.regs, .out, .counter, .msix, .fab, .stack, .peat, .far, .caches, .ud0, .ud1] = true) :
    Touches L z0 (State.runEmpty s d x) := by
  refine hz.andThen (A := [.regs, .out, .counter, .msix, .fab, .stack, .peat, .far, .caches, .ud0, .ud1]) ?_ hL
  unfold State.runEmpty
  repeat' first
    | (with_reducible first | intro _ | assumption | exact Touches.refl | apply State.bump_touches | apply State.commitVersion_touches
                            | apply State.emitCopies_touches | apply State.peatTrouble_touches | apply State.resolveEnt_touches | apply Touches.ite)
    | exact rfl | extract_lets -underBinder | split
    | (show Touches _ _ (Prod.fst _); dsimp only)

theorem State.runUpdate_touches {L : List Part} {z0 : State} {s0 : State} {d : Nat} {x : UdEnt} (hz : Touches L z0 s0)
    (hL : covers L [.regs, .out, .counter, .msix, .fab, .stack, .peat, .far, .caches, .ud0, .ud1, .journal] = true) :
    Touches L z0 (State.runUpdate s0 d x) := by
  refine hz.andThen (A := [.regs, .out, .counter, .msix, .fab, .stack, .peat, .far, .caches, .ud0, .ud1, .journal]) ?_ hL
  unfold State.runUpdate
  repeat' first
    | (with_reducible first | intro _ | assumption | exact Touches.refl | apply State.abandon_touches | apply State.addExps_touches
                            | apply State.countTrouble_touches | apply State.resolveEnt_touches | apply State.runEmpty_touches
                            | apply State.runInplace_touches | apply State.runPingPong_touches | apply State.udTouch_touches | apply Touches.ite)
    | exact rfl | extract_lets -underBinder | split
    | (show Touches _ _ (Prod.fst _); dsimp only)

theorem State.advance_touches {L : List Part} {z0 : State} {s : State} {d : Nat} {idx : Nat} {kind : Nat} {run : State → UdEnt → State} (hz :
    Touches L z0 s) (hL : covers L [.regs, .out, .counter, .msix, .fab, .peat, .caches, .ud0, .ud1] = true)
    (h_run : ∀ a0 a1, Touches L z0 a0 → Touches L z0 (run a0 a1)) :
    Touches L z0 (State.advance s d idx kind run) := by
  unfold State.advance
  repeat' first
    | (with_reducible first | intro _ | assumption | exact Touches.refl | apply h_run | apply State.startEntry_touches | apply Touches.ite
                            | refine Touches.ofFst (by assumption) ?_)
    | exact covers_trans hL rfl | extract_lets -underBinder | split
    | dsimp +zetaDelta only

theorem State.runScan_touches {L : List Part} {z0 : State} {s : State} {d : Nat} {x : UdEnt} (hz : Touches L z0 s)
    (hL : covers L [.regs, .out, .counter, .msix, .fab, .peat, .caches, .ud0, .ud1] = true) : Touches L z0 (State.runScan s d x) := by
  refine hz.andThen (A := [.regs, .out, .counter, .msix, .fab, .peat, .caches, .ud0, .ud1]) ?_ hL
  unfold State.runScan
  extract_lets r grp q s1 opened g rule c sread o
  have hq : Touches [.regs, .out, .counter, .msix, .fab, .peat, .caches, .ud0, .ud1] s s1 := State.udTouch_touches Touches.refl rfl
  have hend : ∀ y, Touches [.regs, .out, .counter, .msix, .fab, .peat, .caches, .ud0, .ud1] s y →
      Touches [.regs, .out, .counter, .msix, .fab, .peat, .caches, .ud0, .ud1] s (y.resolveEnt d x.idx) :=
    fun y hy => State.resolveEnt_touches hy rfl
  have hopen : ∀ y, Touches [.regs, .out, .counter, .msix, .fab, .peat, .caches, .ud0, .ud1] s y →
      Touches [.regs, .out, .counter, .msix, .fab, .peat, .caches, .ud0, .ud1] s (opened y) :=
    fun y hy => State.wr_touches (Touches.set_freeCtr hy rfl) rfl
  refine Touches.ite (hend _ hq) (Touches.ite (hend _ (hopen _ hq)) ?_)
  refine Touches.ite (hend _ (Touches.foldl (fun _ _ hy => State.nacc_touches hy rfl) hq)) ?_
  have ho : Touches [.regs, .out, .counter, .msix, .fab, .peat, .caches, .ud0, .ud1] s o.1 :=
    Touches.iteFst (State.readSlot_touches hq rfl) hq
  split
  · exact hend _ (hopen _ (State.peatTrouble_touches ho rfl))
  · exact hend _ (State.accBlocks_touches ho rfl)

theorem State.runNormOut_touches {L : List Part} {z0 : State} {s : State} {d : Nat} {x : UdEnt} (hz : Touches L z0 s)
    (hL : covers L [.regs, .out, .msix, .fab, .stack, .far, .caches, .ud0, .ud1] = true) :
    Touches L z0 (State.runNormOut s d x) := by
  refine hz.andThen (A := [.regs, .out, .msix, .fab, .stack, .far, .caches, .ud0, .ud1]) ?_ hL
  unfold State.runNormOut
  repeat' first
    | (with_reducible first | intro _ | assumption | exact Touches.refl | apply State.modEnt_touches | apply State.udPut_touches
                            | apply State.wr_touches | apply Touches.foldl | apply Touches.foldlFst)
    | exact rfl | extract_lets -underBinder | split
    | (show Touches _ _ (Prod.fst _); dsimp only)

theorem State.runNormIn_touches {L : List Part} {z0 : State} {s : State} {d : Nat} {x : UdEnt} (hz : Touches L z0 s)
    (hL : covers L [.regs, .out, .counter, .msix, .fab, .caches, .ud0, .ud1] = true) :
    Touches L z0 (State.runNormIn s d x) := by
  refine hz.andThen (A := [.regs, .out, .counter, .msix, .fab, .caches, .ud0, .ud1]) ?_ hL
  unfold State.runNormIn
  repeat' first
    | (with_reducible first | intro _ | assumption | exact Touches.refl | apply State.resolveEnt_touches | apply State.udTouch_touches
                            | apply State.wr_touches | apply Touches.ite | apply Touches.foldl | apply Touches.foldlFst)
    | exact rfl | extract_lets -underBinder | split
    | (with_reducible first | apply Touches.set_freeCtr)
    | (show Touches _ _ (Prod.fst _); dsimp only)

theorem State.endStopped_touches {L : List Part} {z0 : State} {s : State} {d : Nat} (hz : Touches L z0 s) (hL : covers L [.regs, .ud0, .ud1] = true) :
    Touches L z0 (State.endStopped s d) := by
  refine hz.andThen (A := [.regs, .ud0, .ud1]) ?_ hL
  unfold State.endStopped
  repeat' first
    | (with_reducible first | intro _ | assumption | exact Touches.refl | apply State.modUd_touches | apply State.showHeld_touches
                            | apply State.wr_touches | apply Touches.ite)
    | exact rfl | extract_lets -underBinder | split

theorem State.fenceExps_touches {L : List Part} {z0 : State} {s : State} {d : Nat} (hz : Touches L z0 s) (hL : covers L [.regs] = true) :
    Touches L z0 (State.fenceExps s d) := by
  refine hz.andThen (A := [.regs]) ?_ hL
  unfold State.fenceExps
  repeat' first
    | (with_reducible first | intro _ | assumption | exact Touches.refl | apply State.wr_touches | apply Touches.ite | apply Touches.foldl
                            | apply Touches.foldlFst)
    | exact rfl | extract_lets -underBinder | split

theorem State.gfPut_touches {L : List Part} {z0 : State} {s : State} {l : Nat} {e : List Nat} (hz : Touches L z0 s)
    (hL : covers L [.regs, .out, .msix, .stack, .far, .caches] = true) :
    Touches L z0 (State.gfPut s l e) := by
  refine hz.andThen (A := [.regs, .out, .msix, .stack, .far, .caches]) ?_ hL
  unfold State.gfPut
  repeat' first
    | (with_reducible first | intro _ | assumption | exact Touches.refl | apply State.hallWrite_touches)
    | exact rfl | extract_lets -underBinder | split

theorem State.gfClear_touches {L : List Part} {z0 : State} {s : State} (hz : Touches L z0 s) (hL : covers L [.regs] = true) :
    Touches L z0 (State.gfClear s) := by
  refine hz.andThen (A := [.regs]) ?_ hL
  unfold State.gfClear
  repeat' first
    | (with_reducible first | intro _ | assumption | exact Touches.refl | apply State.setReg_touches | apply Touches.foldl | apply Touches.foldlFst)
    | exact rfl | extract_lets -underBinder | split

theorem State.gfApply_touches {L : List Part} {z0 : State} {s : State} {c : Nat × Nat × Nat} (hz : Touches L z0 s)
    (hL : covers L [.regs, .cores, .out, .msix, .stack, .far, .caches] = true) :
    Touches L z0 (State.gfApply s c) := by
  refine hz.andThen (A := [.regs, .cores, .out, .msix, .stack, .far, .caches]) ?_ hL
  unfold State.gfApply
  repeat' first
    | (with_reducible first | intro _ | assumption | exact Touches.refl | apply State.gfPut_touches | apply State.modCore_touches
                            | apply State.wr_touches | apply Touches.ite | apply Touches.foldl | apply Touches.foldlFst)
    | exact rfl | assumption | exact State.core_wf (by assumption) _ | with_reducible apply CoreSt.foldl_wf | (simp; assumption)
    | with_reducible apply CoreSt.locStore_wf | with_reducible apply CoreSt.ite_wf | extract_lets -underBinder | split

theorem State.fenceFormats_touches {L : List Part} {z0 : State} {s : State} (hz : Touches L z0 s)
    (hL : covers L [.regs, .cores, .out, .msix, .stack, .far, .caches, .sched] = true) :
    Touches L z0 (State.fenceFormats s) := by
  refine hz.andThen (A := [.regs, .cores, .out, .msix, .stack, .far, .caches, .sched]) ?_ hL
  unfold State.fenceFormats
  repeat' first
    | (with_reducible first | intro _ | assumption | exact Touches.refl | apply State.gfApply_touches | apply State.gfClear_touches
                            | apply State.gfPut_touches | apply Touches.foldl | apply Touches.foldlFst | refine Touches.ofFst (by assumption) ?_)
    | exact rfl | extract_lets -underBinder | split
    | (with_reducible first | apply Touches.set_sched)
    | dsimp +zetaDelta only

theorem State.stepFence_touches {L : List Part} {z0 : State} {s : State} (hz : Touches L z0 s)
    (hL : covers L [.regs, .cores, .out, .msix, .stack, .far, .caches, .sched] = true) :
    Touches L z0 (State.stepFence s) := by
  refine hz.andThen (A := [.regs, .cores, .out, .msix, .stack, .far, .caches, .sched]) ?_ hL
  unfold State.stepFence
  repeat' first
    | (with_reducible first | intro _ | assumption | exact Touches.refl | apply State.fenceExps_touches | apply State.fenceFormats_touches)
    | exact rfl | extract_lets -underBinder | split

theorem State.stepDone_touches {L : List Part} {z0 : State} {s : State} {d : Nat} (hz : Touches L z0 s)
    (hL : covers L [.regs, .cores, .out, .msix, .stack, .far, .caches, .ud0, .ud1, .sched] = true) :
    Touches L z0 (State.stepDone s d) := by
  refine hz.andThen (A := [.regs, .cores, .out, .msix, .stack, .far, .caches, .ud0, .ud1, .sched]) ?_ hL
  unfold State.stepDone
  repeat' first
    | (with_reducible first | intro _ | assumption | exact Touches.refl | apply State.modUd_touches | apply State.raise_touches
                            | apply State.stepFence_touches | apply State.wr_touches | apply Touches.ite)
    | exact rfl | extract_lets -underBinder | split

theorem State.reportWalk_touches {L : List Part} {z0 : State} {s : State} {d : Nat} (hz : Touches L z0 s)
    (hL : covers L [.regs, .out, .fab, .ud0, .ud1] = true) :
    Touches L z0 (State.reportWalk s d) := by
  refine hz.andThen (A := [.regs, .out, .fab, .ud0, .ud1]) ?_ hL
  unfold State.reportWalk
  repeat' first
    | (with_reducible first | intro _ | assumption | exact Touches.refl | apply State.health_touches | apply State.modUd_touches
                            | refine Touches.ofFst (by assumption) ?_)
    | exact rfl | extract_lets -underBinder | split
    | dsimp +zetaDelta only

theorem State.dropClosed_touches {L : List Part} {z0 : State} {s : State} {n : Nat} (hz : Touches L z0 s) (hL : covers L [.ud0, .ud1] = true) :
    Touches L z0 (State.dropClosed s n) := by
  refine hz.andThen (A := [.ud0, .ud1]) ?_ hL
  unfold State.dropClosed
  repeat' first
    | (with_reducible first | intro _ | assumption | exact Touches.refl | apply State.modUd_touches | apply Touches.foldl | apply Touches.foldlFst)
    | exact rfl | extract_lets -underBinder | split

theorem State.resolveHeld_touches {L : List Part} {z0 : State} {s : State} {d : Nat} {apply : Bool} {h : UdHeld} (hz : Touches L z0 s)
    (hL : covers L [.regs, .out, .counter, .msix, .fab, .stack, .peat, .far, .caches, .ud0, .ud1] = true) :
    Touches L z0 (State.resolveHeld s d apply h) := by
  refine hz.andThen (A := [.regs, .out, .counter, .msix, .fab, .stack, .peat, .far, .caches, .ud0, .ud1]) ?_ hL
  unfold State.resolveHeld
  repeat' first
    | (with_reducible first | intro _ | assumption | exact Touches.refl | apply State.bump_touches | apply State.commitVersion_touches
                            | apply State.countTrouble_touches | apply State.modUd_touches | apply State.peatTrouble_touches
                            | apply State.raise_touches | apply State.readRec_touches | apply State.reemit_touches | apply Touches.ite
                            | refine Touches.ofFst (by assumption) ?_)
    | exact rfl | extract_lets -underBinder | split
    | (show Touches _ _ (Prod.fst _); dsimp only)
    | dsimp +zetaDelta only

theorem State.resolveStep__touches {L : List Part} {z0 : State} {s : State} {d : Nat} {apply : Bool} (hz : Touches L z0 s)
    (hL : covers L [.regs, .cores, .out, .counter, .msix, .fab, .stack, .peat, .far, .caches, .ud0, .ud1, .sched] = true) :
    Touches L z0 (State.resolveStep_ s d apply) := by
  refine hz.andThen (A := [.regs, .cores, .out, .counter, .msix, .fab, .stack, .peat, .far, .caches, .ud0, .ud1, .sched]) ?_ hL
  unfold State.resolveStep_
  repeat' first
    | (with_reducible first | intro _ | assumption | exact Touches.refl | apply State.modUd_touches | apply State.resolveHeld_touches
                            | apply State.showHeld_touches | apply State.stepDone_touches | apply State.wr_touches | apply Touches.foldl
                            | apply Touches.foldlFst)
    | exact rfl | extract_lets -underBinder | split

theorem State.commitStep_touches {L : List Part} {z0 : State} {s : State} {d : Nat} {apply : Bool} (hz : Touches L z0 s)
    (hL : covers L [.regs, .cores, .out, .counter, .msix, .fab, .stack, .peat, .far, .caches, .ud0, .ud1, .sched] = true) :
    Touches L z0 (State.commitStep s d apply) := by
  refine hz.andThen (A := [.regs, .cores, .out, .counter, .msix, .fab, .stack, .peat, .far, .caches, .ud0, .ud1, .sched]) ?_ hL
  unfold State.commitStep
  repeat' first
    | (with_reducible first | intro _ | assumption | exact Touches.refl | apply State.modUd_touches | apply State.resolveStep__touches
                            | apply Touches.ite)
    | exact rfl | extract_lets -underBinder | split

theorem State.commitDue_touches {L : List Part} {z0 : State} {s : State} {d : Nat} (hz : Touches L z0 s)
    (hL : covers L [.regs, .cores, .out, .counter, .msix, .fab, .stack, .peat, .far, .caches, .ud0, .ud1, .sched] = true) :
    Touches L z0 (State.commitDue s d) := by
  refine hz.andThen (A := [.regs, .cores, .out, .counter, .msix, .fab, .stack, .peat, .far, .caches, .ud0, .ud1, .sched]) ?_ hL
  unfold State.commitDue
  repeat' first
    | (with_reducible first | intro _ | assumption | exact Touches.refl | apply State.resolveStep__touches | apply Touches.ite)
    | exact rfl | extract_lets -underBinder | split

theorem State.udDrop_touches {L : List Part} {z0 : State} {s : State} {d : Nat} {journal : Bool} (hz : Touches L z0 s)
    (hL : covers L [.regs, .out, .counter, .msix, .fab, .peat, .caches, .ud0, .ud1, .journal] = true) :
    Touches L z0 (State.udDrop s d journal) := by
  refine hz.andThen (A := [.regs, .out, .counter, .msix, .fab, .peat, .caches, .ud0, .ud1, .journal]) ?_ hL
  unfold State.udDrop
  repeat' first
    | (with_reducible first | intro _ | assumption | exact Touches.refl | apply State.jnlDevice_touches | apply State.modUd_touches
                            | apply State.tear_touches | apply State.wr_touches | apply Touches.ite | apply Touches.foldl | apply Touches.foldlFst)
    | exact rfl | extract_lets -underBinder | split

theorem execWalkStart_touches {die : Nat} {s : State} {t : State} (hx : execWalkStart die s = .next t) : Touches [.regs, .ud0, .ud1] s t := by
  obtain rfl := Host.Outcome.next.inj hx
  repeat' first
    | (with_reducible first | intro _ | assumption | exact Touches.refl | apply State.walkStart_touches | apply Touches.ite)
    | exact rfl | extract_lets -underBinder | split

theorem execUpdate_touches {die : Nat} {idx : Nat} {s : State} {t : State} (hx : execUpdate die idx s = .next t) :
    Touches [.regs, .out, .counter, .msix, .fab, .stack, .peat, .far, .caches, .ud0, .ud1, .journal] s t := by
  obtain rfl := Host.Outcome.next.inj hx
  repeat' first
    | (with_reducible first | intro _ | assumption | exact Touches.refl | apply State.advance_touches | apply State.runUpdate_touches)
    | exact rfl | extract_lets -underBinder | split

theorem execScan_touches {die : Nat} {idx : Nat} {s : State} {t : State} (hx : execScan die idx s = .next t) :
    Touches [.regs, .out, .counter, .msix, .fab, .peat, .caches, .ud0, .ud1] s t := by
  obtain rfl := Host.Outcome.next.inj hx
  repeat' first
    | (with_reducible first | intro _ | assumption | exact Touches.refl | apply State.advance_touches | apply State.runScan_touches)
    | exact rfl | extract_lets -underBinder | split

theorem execNormOut_touches {die : Nat} {idx : Nat} {s : State} {t : State} (hx : execNormOut die idx s = .next t) :
    Touches [.regs, .out, .counter, .msix, .fab, .stack, .peat, .far, .caches, .ud0, .ud1] s t := by
  obtain rfl := Host.Outcome.next.inj hx
  repeat' first
    | (with_reducible first | intro _ | assumption | exact Touches.refl | apply State.advance_touches | apply State.runNormOut_touches)
    | exact rfl | extract_lets -underBinder | split

theorem execNormIn_touches {die : Nat} {idx : Nat} {s : State} {t : State} (hx : execNormIn die idx s = .next t) :
    Touches [.regs, .out, .counter, .msix, .fab, .peat, .caches, .ud0, .ud1] s t := by
  obtain rfl := Host.Outcome.next.inj hx
  repeat' first
    | (with_reducible first | intro _ | assumption | exact Touches.refl | apply State.advance_touches | apply State.runNormIn_touches)
    | exact rfl | extract_lets -underBinder | split

theorem execCommitWord_touches {die : Nat} {idx : Nat} {s : State} {t : State} (hx : execCommitWord die idx s = .next t) :
    Touches [.regs, .out, .counter, .msix, .fab, .peat, .caches, .ud0, .ud1, .journal] s t := by
  obtain rfl := Host.Outcome.next.inj hx
  repeat' first
    | (with_reducible first | intro _ | assumption | exact Touches.refl | apply State.bump_touches | apply State.commitVersion_touches
                            | apply State.jnlDevice_touches | apply State.peatTrouble_touches | apply State.resolveEnt_touches | apply Touches.ite
                            | refine Touches.ofFst (by assumption) ?_)
    | exact rfl | extract_lets -underBinder | split
    | (show Touches _ _ (Prod.fst _); dsimp only)
    | dsimp +zetaDelta only

theorem execCopyEmissionComplete_touches {die : Nat} {id : Nat} {s : State} {t : State} (hx : execCopyEmissionComplete die id s = .next t) :
    Touches [.regs, .incs, .out, .msix, .ud0, .ud1] s t := by
  obtain rfl := Host.Outcome.next.inj hx
  repeat' first
    | (with_reducible first | intro _ | assumption | exact Touches.refl | apply State.modUd_touches | apply State.raise_touches
                            | apply State.udInc_touches | apply Touches.ite | refine Touches.ofFst (by assumption) ?_)
    | exact rfl | extract_lets -underBinder | split
    | dsimp +zetaDelta only

theorem State.reportNorm_touches {L : List Part} {z0 : State} {s : State} {die : Nat} {x : UdEnt} (hz : Touches L z0 s)
    (hL : covers L [.regs, .out, .fab] = true) :
    Touches L z0 (State.reportNorm s die x) := by
  refine hz.andThen (A := [.regs, .out, .fab]) ?_ hL
  unfold State.reportNorm
  repeat' first
    | (with_reducible first | intro _ | assumption | exact Touches.refl | apply State.health_touches | apply Touches.ite | apply Touches.foldl
                            | apply Touches.foldlFst)
    | exact rfl | extract_lets -underBinder | split

theorem State.entryComplete_touches {L : List Part} {z0 : State} {s : State} {die : Nat} {idx : Nat} (hz : Touches L z0 s)
    (hL : covers L [.regs, .incs, .out, .counter, .fab, .ud0, .ud1] = true) :
    Touches L z0 (State.entryComplete s die idx) := by
  refine hz.andThen (A := [.regs, .incs, .out, .counter, .fab, .ud0, .ud1]) ?_ hL
  unfold State.entryComplete
  repeat' first
    | (with_reducible first | intro _ | assumption | exact Touches.refl | apply State.bumpFree_touches | apply State.endStopped_touches
                            | apply State.modUd_touches | apply State.reportNorm_touches | apply State.showFlight_touches
                            | apply State.udInc_touches | apply Touches.ite | refine Touches.ofFst (by assumption) ?_)
    | exact rfl | extract_lets -underBinder | split
    | dsimp +zetaDelta only

theorem State.walkComplete_touches {L : List Part} {z0 : State} {s : State} {die : Nat} (hz : Touches L z0 s)
    (hL : covers L [.regs, .cores, .out, .msix, .fab, .stack, .far, .caches, .ud0, .ud1, .sched] = true) :
    Touches L z0 (State.walkComplete s die) := by
  refine hz.andThen (A := [.regs, .cores, .out, .msix, .fab, .stack, .far, .caches, .ud0, .ud1, .sched]) ?_ hL
  unfold State.walkComplete
  repeat' first
    | (with_reducible first | intro _ | assumption | exact Touches.refl | apply State.endStopped_touches | apply State.raise_touches
                            | apply State.reportWalk_touches | apply State.stepDone_touches | apply State.wr_touches | apply Touches.ite)
    | exact rfl | extract_lets -underBinder | split

theorem execDegradedMark_touches {k : Nat} {s : State} {t : State} (hx : execDegradedMark k s = .next t) :
    Touches [.regs, .cores, .incs, .marks, .out, .msix, .fab] s t := by
  obtain rfl := Host.Outcome.next.inj hx
  repeat' first
    | (with_reducible first | intro _ | assumption | exact Touches.refl | apply State.dropJob_touches | apply State.finish_touches
                            | apply State.raise_touches | apply State.sigIncs_touches | apply State.wr_touches | apply Touches.ite
                            | apply Touches.foldl | apply Touches.foldlFst | refine Touches.ofFst (by assumption) ?_)
    | exact rfl | extract_lets -underBinder | split
    | (with_reducible first | apply Touches.set_marks)
    | dsimp +zetaDelta only

end Sys2Proof.Machine
end

