-- ==== Sys2Proof/Laws/Touch/UdCommands.lean ====
section
/-!
SUPPORT. Laws/Touch/UdCommands.lean: for each operation of Machine/UdCommands.lean, what it can do: the queue stays, only the parts listed change, and the
registers and memories keep their canonical form.
-/

set_option linter.all false

namespace Sys2Proof.Machine

theorem State.udRefuse_touches {L : List Part} {z0 : State} {s : State} {ds : List Nat} {st : Nat} (hz : Touches L z0 s)
    (hL : covers L [.regs, .out, .msix] = true) :
    Touches L z0 ((State.udRefuse s ds st).1) := by
  refine hz.andThen (A := [.regs, .out, .msix]) ?_ hL
  unfold State.udRefuse
  refine TouchesP.out ?_
  repeat' first
    | (with_reducible first | intro _ | assumption | exact Touches.refl | apply State.raise_touches | apply State.wr_touches | apply Touches.foldl
                            | apply Touches.foldlFst)
    | exact rfl | extract_lets -underBinder | split
    | (with_reducible first | apply TouchesP.pair)
    | (show Touches _ _ (Prod.fst _); dsimp only)

theorem State.onDies_touches {L : List Part} {z0 : State} {s : State} {mask : Nat} {refused : State → Nat → Option Nat} {f : State → Nat → State}
    (hz : Touches L z0 s) (hL : covers L [.regs, .out, .msix] = true)
    (h_f : ∀ a0 a1, Touches L z0 a0 → Touches L z0 (f a0 a1)) :
    Touches L z0 ((State.onDies s mask refused f).1) := by
  unfold State.onDies
  refine TouchesP.out ?_
  repeat' first
    | (with_reducible first | intro _ | assumption | exact Touches.refl | apply h_f | apply State.udRefuse_touches | apply Touches.ite
                            | apply TouchesP.ite | apply TouchesP.pairIte | apply Touches.foldl | apply Touches.foldlFst
                            | refine Touches.ofFst (by assumption) ?_)
    | exact covers_trans hL rfl | extract_lets -underBinder | split
    | (with_reducible first | apply TouchesP.pair)
    | (show Touches _ _ (Prod.fst _); dsimp only)
    | dsimp +zetaDelta only

theorem State.onRec_touches {L : List Part} {z0 : State} {s : State} {d : Nat} {ulx : Nat} {f : State → Option (List Nat) → State × Ans} (hz :
    Touches L z0 s) (hL : covers L [.regs, .out, .counter, .msix, .fab, .caches] = true)
    (h_f : ∀ a0 a1, Touches L z0 a0 → Touches L z0 (f a0 a1).1) :
    Touches L z0 ((State.onRec s d ulx f).1) := by
  unfold State.onRec
  refine TouchesP.out ?_
  repeat' first
    | (with_reducible first | intro _ | assumption | exact Touches.refl | apply h_f | apply State.readRec_touches | apply State.udRefuse_touches
                            | apply Touches.ite | apply TouchesP.ite | apply TouchesP.pairIte)
    | exact covers_trans hL rfl | extract_lets -underBinder | split
    | (with_reducible first | apply TouchesP.pair)
    | (show Touches _ _ (Prod.fst _); dsimp only)

theorem State.udStepBegin_touches {L : List Part} {z0 : State} {a : List Nat} {s : State} (hz : Touches L z0 s)
    (hL : covers L [.regs, .out, .msix, .ud0, .ud1] = true) :
    Touches L z0 ((State.udStepBegin a s).1) := by
  refine hz.andThen (A := [.regs, .out, .msix, .ud0, .ud1]) ?_ hL
  unfold State.udStepBegin
  refine TouchesP.out ?_
  repeat' first
    | (with_reducible first | intro _ | assumption | exact Touches.refl | apply State.onDies_touches | apply State.walkStart_touches
                            | apply State.wr_touches | apply Touches.ite | apply TouchesP.ite | apply TouchesP.pairIte)
    | exact rfl | extract_lets -underBinder | split
    | (with_reducible first | apply TouchesP.pair)
    | (show Touches _ _ (Prod.fst _); dsimp only)

theorem State.udStepCommit_touches {L : List Part} {z0 : State} {a : List Nat} {s : State} (hz : Touches L z0 s)
    (hL : covers L [.regs, .cores, .out, .counter, .msix, .fab, .stack, .peat, .far, .caches, .ud0, .ud1, .sched] = true) :
    Touches L z0 ((State.udStepCommit a s).1) := by
  refine hz.andThen (A := [.regs, .cores, .out, .counter, .msix, .fab, .stack, .peat, .far, .caches, .ud0, .ud1, .sched]) ?_ hL
  unfold State.udStepCommit
  refine TouchesP.out ?_
  repeat' first
    | (with_reducible first | intro _ | assumption | exact Touches.refl | apply State.commitStep_touches | apply State.onDies_touches
                            | apply Touches.ite | apply TouchesP.ite | apply TouchesP.pairIte)
    | exact rfl | extract_lets -underBinder | split
    | (with_reducible first | apply TouchesP.pair)
    | (show Touches _ _ (Prod.fst _); dsimp only)

theorem State.udStop_touches {L : List Part} {z0 : State} {a : List Nat} {s : State} (hz : Touches L z0 s)
    (hL : covers L [.regs, .out, .msix, .ud0, .ud1] = true) :
    Touches L z0 ((State.udStop a s).1) := by
  refine hz.andThen (A := [.regs, .out, .msix, .ud0, .ud1]) ?_ hL
  unfold State.udStop
  refine TouchesP.out ?_
  repeat' first
    | (with_reducible first | intro _ | assumption | exact Touches.refl | apply State.dropClosed_touches | apply State.endStopped_touches
                            | apply State.modUd_touches | apply State.onDies_touches | apply Touches.ite | apply TouchesP.ite
                            | apply TouchesP.pairIte)
    | exact rfl | extract_lets -underBinder | split
    | (with_reducible first | apply TouchesP.pair)
    | (show Touches _ _ (Prod.fst _); dsimp only)

theorem State.startXfer_touches {L : List Part} {z0 : State} {s : State} {seq : Nat} {d : Nat} {ulx : Nat} {id : Nat} {restore : Bool}
    {master : Bool} (hz : Touches L z0 s) (hL : covers L [.regs, .dir, .ud0, .ud1] = true) :
    Touches L z0 ((State.startXfer s seq d ulx id restore master).1) := by
  refine hz.andThen (A := [.regs, .dir, .ud0, .ud1]) ?_ hL
  unfold State.startXfer
  refine TouchesP.out ?_
  repeat' first
    | (with_reducible first | intro _ | assumption | exact Touches.refl | apply State.modUd_touches | apply State.translateUd_touches)
    | exact rfl | extract_lets -underBinder | split
    | (with_reducible first | apply TouchesP.pair)
    | (show Touches _ _ (Prod.fst _); dsimp only)

theorem State.udRestore_touches {L : List Part} {z0 : State} {seq : Nat} {a : List Nat} {s : State} (hz : Touches L z0 s)
    (hL : covers L [.regs, .out, .counter, .msix, .fab, .caches, .dir, .ud0, .ud1] = true) :
    Touches L z0 ((State.udRestore seq a s).1) := by
  refine hz.andThen (A := [.regs, .out, .counter, .msix, .fab, .caches, .dir, .ud0, .ud1]) ?_ hL
  unfold State.udRestore
  refine TouchesP.out ?_
  repeat' first
    | (with_reducible first | intro _ | assumption | exact Touches.refl | apply State.onRec_touches | apply State.startXfer_touches
                            | apply State.udRefuse_touches | apply Touches.ite | apply TouchesP.ite | apply TouchesP.pairIte
                            | refine Touches.ofFst (by assumption) ?_)
    | exact rfl | extract_lets -underBinder | split
    | (with_reducible first | apply TouchesP.pair)
    | (show Touches _ _ (Prod.fst _); dsimp only)
    | dsimp +zetaDelta only

theorem State.udCkpt_touches {L : List Part} {z0 : State} {seq : Nat} {a : List Nat} {s : State} (hz : Touches L z0 s)
    (hL : covers L [.regs, .out, .counter, .msix, .fab, .caches, .dir, .ud0, .ud1] = true) :
    Touches L z0 ((State.udCkpt seq a s).1) := by
  refine hz.andThen (A := [.regs, .out, .counter, .msix, .fab, .caches, .dir, .ud0, .ud1]) ?_ hL
  unfold State.udCkpt
  refine TouchesP.out ?_
  repeat' first
    | (with_reducible first | intro _ | assumption | exact Touches.refl | apply State.onRec_touches | apply State.startXfer_touches
                            | apply State.udRefuse_touches | apply Touches.ite | apply TouchesP.ite | apply TouchesP.pairIte
                            | refine Touches.ofFst (by assumption) ?_)
    | exact rfl | extract_lets -underBinder | split
    | (with_reducible first | apply TouchesP.pair)
    | (show Touches _ _ (Prod.fst _); dsimp only)
    | dsimp +zetaDelta only

theorem State.udReemit_touches {L : List Part} {z0 : State} {a : List Nat} {s : State} (hz : Touches L z0 s)
    (hL : covers L [.regs, .out, .counter, .msix, .fab, .stack, .peat, .far, .caches, .ud0, .ud1] = true) :
    Touches L z0 ((State.udReemit a s).1) := by
  refine hz.andThen (A := [.regs, .out, .counter, .msix, .fab, .stack, .peat, .far, .caches, .ud0, .ud1]) ?_ hL
  unfold State.udReemit
  refine TouchesP.out ?_
  repeat' first
    | (with_reducible first | intro _ | assumption | exact Touches.refl | apply State.onRec_touches | apply State.reemit_touches
                            | apply State.udRefuse_touches | apply Touches.ite | apply TouchesP.ite | apply TouchesP.pairIte
                            | refine Touches.ofFst (by assumption) ?_)
    | exact rfl | extract_lets -underBinder | split
    | (with_reducible first | apply TouchesP.pair)
    | (show Touches _ _ (Prod.fst _); dsimp only)
    | dsimp +zetaDelta only

theorem State.udAcceptTorn_touches {L : List Part} {z0 : State} {a : List Nat} {s : State} (hz : Touches L z0 s)
    (hL : covers L [.regs, .out, .counter, .msix, .fab, .peat, .caches] = true) :
    Touches L z0 ((State.udAcceptTorn a s).1) := by
  refine hz.andThen (A := [.regs, .out, .counter, .msix, .fab, .peat, .caches]) ?_ hL
  unfold State.udAcceptTorn
  refine TouchesP.out ?_
  repeat' first
    | (with_reducible first | intro _ | assumption | exact Touches.refl | apply State.onRec_touches | apply State.putCommit_touches)
    | exact rfl | extract_lets -underBinder | split
    | (with_reducible first | apply TouchesP.pair)
    | (show Touches _ _ (Prod.fst _); dsimp only)

theorem State.udSetExp_touches {L : List Part} {z0 : State} {a : List Nat} {s : State} (hz : Touches L z0 s)
    (hL : covers L [.regs, .out, .msix] = true) :
    Touches L z0 ((State.udSetExp a s).1) := by
  refine hz.andThen (A := [.regs, .out, .msix]) ?_ hL
  unfold State.udSetExp
  refine TouchesP.out ?_
  repeat' first
    | (with_reducible first | intro _ | assumption | exact Touches.refl | apply State.onDies_touches | apply State.wr_touches)
    | exact rfl | extract_lets -underBinder | split
    | (with_reducible first | apply TouchesP.pair)
    | (show Touches _ _ (Prod.fst _); dsimp only)

theorem State.udQuery_touches {L : List Part} {z0 : State} {a : List Nat} {s : State} (hz : Touches L z0 s)
    (hL : covers L [.regs, .out, .counter, .msix, .fab, .caches] = true) :
    Touches L z0 ((State.udQuery a s).1) := by
  refine hz.andThen (A := [.regs, .out, .counter, .msix, .fab, .caches]) ?_ hL
  unfold State.udQuery
  refine TouchesP.out ?_
  repeat' first
    | (with_reducible first | intro _ | assumption | exact Touches.refl | apply State.onRec_touches | apply Touches.ite | apply TouchesP.ite
                            | apply TouchesP.pairIte)
    | exact rfl | extract_lets -underBinder | split
    | (with_reducible first | apply TouchesP.pair)
    | (show Touches _ _ (Prod.fst _); dsimp only)

theorem State.migrEnd_touches {L : List Part} {z0 : State} {s : State} {k : Nat} {ok : Bool} (hz : Touches L z0 s)
    (hL : covers L [.regs, .out, .counter, .msix, .fab, .peat, .caches, .staged] = true) :
    Touches L z0 (State.migrEnd s k ok) := by
  refine hz.andThen (A := [.regs, .out, .counter, .msix, .fab, .peat, .caches, .staged]) ?_ hL
  unfold State.migrEnd
  repeat' first
    | (with_reducible first | intro _ | assumption | exact Touches.refl | apply State.putCommit_touches | apply Touches.ite | apply Touches.modPkg
                            | refine Touches.ofFst (by assumption) ?_)
    | exact rfl | extract_lets -underBinder
    | (refine ⟨?_, ?_, ?_, ?_, ?_, ?_, ?_, ?_, ?_, ?_, ?_⟩ <;> first | exact .inl (by decide) | exact .inr rfl)
    | split
    | dsimp +zetaDelta only

theorem State.endXfer_touches {L : List Part} {z0 : State} {s : State} {d : Nat} {x : UdXfer} {outcome : Nat} {status : Nat} {detail : Nat}
    (hz : Touches L z0 s)
    (hL : covers L [.regs, .cores, .out, .counter, .msix, .fab, .stack, .peat, .far, .caches, .dir, .ud0, .ud1, .sched, .journal, .commands, .completions, .staged] = true) :
    Touches L z0 (State.endXfer s d x outcome status detail) := by
  refine hz.andThen (A := [.regs, .cores, .out, .counter, .msix, .fab, .stack, .peat, .far, .caches, .dir, .ud0, .ud1, .sched, .journal, .commands, .completions, .staged]) ?_ hL
  unfold State.endXfer
  repeat' first
    | (with_reducible first | intro _ | assumption | exact Touches.refl | apply State.commitDue_touches | apply State.endTrans_touches
                            | apply State.finishCmd_touches | apply State.migrEnd_touches | apply State.modUd_touches | apply State.raise_touches
                            | apply State.udRefuse_touches | apply Touches.ite | refine Touches.ofFst (by assumption) ?_)
    | exact rfl | extract_lets -underBinder | split
    | (show Touches _ _ (Prod.fst _); dsimp only)
    | dsimp +zetaDelta only

theorem State.xferPut_touches {L : List Part} {z0 : State} {s : State} {d : Nat} {addr : Nat} {data : List Nat} (hz : Touches L z0 s)
    (hL : covers L [.regs, .out, .counter, .msix, .fab, .stack, .peat, .far, .caches, .ud0, .ud1] = true) :
    Touches L z0 ((State.xferPut s d addr data).1) := by
  refine hz.andThen (A := [.regs, .out, .counter, .msix, .fab, .stack, .peat, .far, .caches, .ud0, .ud1]) ?_ hL
  unfold State.xferPut
  refine TouchesP.out ?_
  repeat' first
    | (with_reducible first | intro _ | assumption | exact Touches.refl | apply State.udPut_touches | apply State.udWrite_touches
                            | apply Touches.ite | apply TouchesP.ite | apply TouchesP.pairIte)
    | exact rfl | extract_lets -underBinder | split
    | (with_reducible first | apply TouchesP.pair)
    | (show Touches _ _ (Prod.fst _); dsimp only)

theorem State.xferGet_touches {L : List Part} {z0 : State} {s : State} {d : Nat} {addr : Nat} {n : Nat} {rx : List (Nat × Byte)} (hz :
    Touches L z0 s) (hL : covers L [.regs, .out, .counter, .msix, .fab, .caches] = true) :
    Touches L z0 ((State.xferGet s d addr n rx).1) := by
  refine hz.andThen (A := [.regs, .out, .counter, .msix, .fab, .caches]) ?_ hL
  unfold State.xferGet
  refine TouchesP.out ?_
  repeat' first
    | (with_reducible first | intro _ | assumption | exact Touches.refl | apply State.udRead_touches | apply State.udTouch_touches
                            | apply Touches.ite | apply TouchesP.ite | apply TouchesP.pairIte)
    | exact rfl | extract_lets -underBinder | split
    | (with_reducible first | apply TouchesP.pair)
    | (show Touches _ _ (Prod.fst _); dsimp only)

theorem State.sendCkpt_touches {L : List Part} {z0 : State} {s : State} {d : Nat} {x : UdXfer} {addr : Nat} {len : Nat} (hz : Touches L z0 s)
    (hL : covers L [.regs, .cores, .out, .counter, .msix, .fab, .stack, .peat, .far, .caches, .dir, .ud0, .ud1, .sched, .journal, .commands, .completions, .staged] = true) :
    Touches L z0 (State.sendCkpt s d x addr len) := by
  refine hz.andThen (A := [.regs, .cores, .out, .counter, .msix, .fab, .stack, .peat, .far, .caches, .dir, .ud0, .ud1, .sched, .journal, .commands, .completions, .staged]) ?_ hL
  unfold State.sendCkpt
  repeat' first
    | (with_reducible first | intro _ | assumption | exact Touches.refl | apply State.endXfer_touches | apply State.peatTrouble_touches
                            | apply State.readRec_touches | apply State.setXfer_touches | apply State.udRead_touches | apply State.xferPut_touches
                            | apply Touches.ite | refine Touches.ofFst (by assumption) ?_)
    | exact rfl | extract_lets -underBinder | split
    | (show Touches _ _ (Prod.fst _); dsimp only)
    | dsimp +zetaDelta only

theorem State.applyRestore_touches {L : List Part} {z0 : State} {s : State} {d : Nat} {x : UdXfer} {addr : Nat} {len : Nat} (hz : Touches L z0 s)
    (hL : covers L [.regs, .cores, .out, .counter, .msix, .fab, .stack, .peat, .far, .caches, .dir, .ud0, .ud1, .sched, .journal, .commands, .completions, .staged] = true) :
    Touches L z0 (State.applyRestore s d x addr len) := by
  refine hz.andThen (A := [.regs, .cores, .out, .counter, .msix, .fab, .stack, .peat, .far, .caches, .dir, .ud0, .ud1, .sched, .journal, .commands, .completions, .staged]) ?_ hL
  unfold State.applyRestore
  repeat' first
    | (with_reducible first | intro _ | assumption | exact Touches.refl | apply State.commitVersion_touches | apply State.endXfer_touches
                            | apply State.peatTrouble_touches | apply State.putCommit_touches | apply State.readRec_touches
                            | apply State.udWrite_touches | apply State.xferGet_touches | apply Touches.ite | refine Touches.ofFst (by assumption) ?_)
    | exact rfl | extract_lets -underBinder | split
    | (show Touches _ _ (Prod.fst _); dsimp only)
    | dsimp +zetaDelta only

theorem State.runXfer_touches {L : List Part} {z0 : State} {s : State} {d : Nat} {x : UdXfer} (hz : Touches L z0 s)
    (hL : covers L [.regs, .cores, .out, .counter, .msix, .fab, .stack, .peat, .far, .caches, .dir, .ud0, .ud1, .sched, .journal, .commands, .completions, .staged] = true) :
    Touches L z0 (State.runXfer s d x) := by
  refine hz.andThen (A := [.regs, .cores, .out, .counter, .msix, .fab, .stack, .peat, .far, .caches, .dir, .ud0, .ud1, .sched, .journal, .commands, .completions, .staged]) ?_ hL
  unfold State.runXfer
  repeat' first
    | (with_reducible first | intro _ | assumption | exact Touches.refl | apply State.applyRestore_touches | apply State.endXfer_touches
                            | apply State.sendCkpt_touches | apply State.setXfer_touches | apply State.udRequest_touches | apply Touches.ite
                            | refine Touches.ofFst (by assumption) ?_)
    | exact rfl | extract_lets -underBinder | split
    | (show Touches _ _ (Prod.fst _); dsimp only)
    | dsimp +zetaDelta only

theorem State.linkReset_touches {L : List Part} {z0 : State} {s : State} {die : Nat} (hz : Touches L z0 s)
    (hL : covers L [.regs, .cores, .out, .counter, .msix, .fab, .stack, .peat, .far, .caches, .dir, .ud0, .ud1, .sched, .journal, .commands, .completions, .staged] = true) :
    Touches L z0 (State.linkReset s die) := by
  refine hz.andThen (A := [.regs, .cores, .out, .counter, .msix, .fab, .stack, .peat, .far, .caches, .dir, .ud0, .ud1, .sched, .journal, .commands, .completions, .staged]) ?_ hL
  unfold State.linkReset
  repeat' first
    | (with_reducible first | intro _ | assumption | exact Touches.refl | apply State.bump_touches | apply State.endXfer_touches
                            | apply State.jnlDevice_touches | apply State.raise_touches | apply State.retire_touches | apply State.udDrop_touches
                            | apply Touches.foldl | apply Touches.foldlFst)
    | exact rfl | extract_lets -underBinder | split

theorem State.tearOpen_touches {L : List Part} {z0 : State} {s : State} {d : Nat} (hz : Touches L z0 s)
    (hL : covers L [.regs, .out, .counter, .msix, .fab, .peat, .caches, .journal] = true) :
    Touches L z0 (State.tearOpen s d) := by
  refine hz.andThen (A := [.regs, .out, .counter, .msix, .fab, .peat, .caches, .journal]) ?_ hL
  unfold State.tearOpen
  repeat' first
    | (with_reducible first | intro _ | assumption | exact Touches.refl | apply State.jnlDevice_touches | apply State.readRec_touches
                            | apply State.tear_touches | apply Touches.ite | apply Touches.foldl | apply Touches.foldlFst
                            | refine Touches.ofFst (by assumption) ?_)
    | exact rfl | extract_lets -underBinder | split
    | (show Touches _ _ (Prod.fst _); dsimp only)
    | dsimp +zetaDelta only

theorem State.tearAbove_touches {L : List Part} {z0 : State} {s : State} {d : Nat} (hz : Touches L z0 s)
    (hL : covers L [.regs, .out, .counter, .msix, .fab, .peat, .caches] = true) :
    Touches L z0 (State.tearAbove s d) := by
  refine hz.andThen (A := [.regs, .out, .counter, .msix, .fab, .peat, .caches]) ?_ hL
  unfold State.tearAbove
  repeat' first
    | (with_reducible first | intro _ | assumption | exact Touches.refl | apply State.readRec_touches | apply State.tear_touches
                            | apply Touches.ite | apply Touches.foldl | apply Touches.foldlFst | refine Touches.ofFst (by assumption) ?_)
    | exact rfl | extract_lets -underBinder | split
    | (show Touches _ _ (Prod.fst _); dsimp only)
    | dsimp +zetaDelta only

theorem State.gfmtQuery_touches {L : List Part} {z0 : State} {a : List Nat} {s : State} (hz : Touches L z0 s) (hL : covers L [] = true) :
    Touches L z0 ((State.gfmtQuery a s).1) := by
  refine hz.andThen (A := []) ?_ hL
  unfold State.gfmtQuery
  refine TouchesP.out ?_
  repeat' first
    | (with_reducible first | intro _ | assumption | exact Touches.refl | apply Touches.ite | apply TouchesP.ite | apply TouchesP.pairIte)
    | exact rfl | extract_lets -underBinder | split
    | (with_reducible first | apply TouchesP.pair)
    | (show Touches _ _ (Prod.fst _); dsimp only)

theorem State.gfmtPin_touches {L : List Part} {z0 : State} {a : List Nat} {s : State} (hz : Touches L z0 s)
    (hL : covers L [.regs, .out, .msix, .stack, .far, .caches, .sched] = true) :
    Touches L z0 ((State.gfmtPin a s).1) := by
  refine hz.andThen (A := [.regs, .out, .msix, .stack, .far, .caches, .sched]) ?_ hL
  unfold State.gfmtPin
  refine TouchesP.out ?_
  repeat' first
    | (with_reducible first | intro _ | assumption | exact Touches.refl | apply State.gfPut_touches | apply State.refuse_touches
                            | apply Touches.ite | apply TouchesP.ite | apply TouchesP.pairIte)
    | exact rfl | extract_lets -underBinder | split
    | (with_reducible first | apply TouchesP.pair | apply Touches.set_sched)
    | (show Touches _ _ (Prod.fst _); dsimp only)

theorem State.gfmtRelease_touches {L : List Part} {z0 : State} {a : List Nat} {s : State} (hz : Touches L z0 s)
    (hL : covers L [.regs, .out, .msix, .stack, .far, .caches] = true) :
    Touches L z0 ((State.gfmtRelease a s).1) := by
  refine hz.andThen (A := [.regs, .out, .msix, .stack, .far, .caches]) ?_ hL
  unfold State.gfmtRelease
  refine TouchesP.out ?_
  repeat' first
    | (with_reducible first | intro _ | assumption | exact Touches.refl | apply State.gfPut_touches | apply Touches.ite | apply TouchesP.ite
                            | apply TouchesP.pairIte)
    | exact rfl | extract_lets -underBinder | split
    | (with_reducible first | apply TouchesP.pair)
    | (show Touches _ _ (Prod.fst _); dsimp only)

theorem State.gfmtLimits_touches {L : List Part} {z0 : State} {a : List Nat} {s : State} (hz : Touches L z0 s) (hL : covers L [.sched] = true) :
    Touches L z0 ((State.gfmtLimits a s).1) := by
  refine hz.andThen (A := [.sched]) ?_ hL
  unfold State.gfmtLimits
  refine TouchesP.out ?_
  repeat' first
    | (with_reducible first | intro _ | assumption | exact Touches.refl)
    | exact rfl | extract_lets -underBinder | split
    | (with_reducible first | apply TouchesP.pair | apply Touches.set_sched)
    | (show Touches _ _ (Prod.fst _); dsimp only)

theorem execSedgeLinkReset_touches {die : Nat} {s : State} {t : State} (hx : execSedgeLinkReset die s = .next t) :
    Touches [.regs, .cores, .out, .counter, .msix, .fab, .stack, .peat, .far, .caches, .dir, .ud0, .ud1, .sched, .journal, .commands, .completions, .staged] s t := by
  obtain rfl := Host.Outcome.next.inj hx
  repeat' first
    | (with_reducible first | intro _ | assumption | exact Touches.refl | apply State.linkReset_touches | apply Touches.ite)
    | exact rfl | extract_lets -underBinder | split

theorem execUdStepBegin_touches {via : Via} {s : State} {t : State} (hx : execUdStepBegin via s = .next t) :
    Touches [.regs, .out, .msix, .ud0, .ud1, .journal, .commands, .completions] s t := by
  obtain rfl := Host.Outcome.next.inj hx
  repeat' first
    | (with_reducible first | intro _ | assumption | exact Touches.refl | apply State.command_touches | apply State.udStepBegin_touches)
    | exact rfl | extract_lets -underBinder | split
    | (show Touches _ _ (Prod.fst _); dsimp only)

theorem execUdStepCommit_touches {via : Via} {s : State} {t : State} (hx : execUdStepCommit via s = .next t) :
    Touches [.regs, .cores, .out, .counter, .msix, .fab, .stack, .peat, .far, .caches, .ud0, .ud1, .sched, .journal, .commands, .completions] s t := by
  obtain rfl := Host.Outcome.next.inj hx
  repeat' first
    | (with_reducible first | intro _ | assumption | exact Touches.refl | apply State.command_touches | apply State.udStepCommit_touches)
    | exact rfl | extract_lets -underBinder | split
    | (show Touches _ _ (Prod.fst _); dsimp only)

theorem execUdStop_touches {via : Via} {s : State} {t : State} (hx : execUdStop via s = .next t) :
    Touches [.regs, .out, .msix, .ud0, .ud1, .journal, .commands, .completions] s t := by
  obtain rfl := Host.Outcome.next.inj hx
  repeat' first
    | (with_reducible first | intro _ | assumption | exact Touches.refl | apply State.command_touches | apply State.udStop_touches)
    | exact rfl | extract_lets -underBinder | split
    | (show Touches _ _ (Prod.fst _); dsimp only)

theorem execUdRestore_touches {via : Via} {s : State} {t : State} (hx : execUdRestore via s = .next t) :
    Touches [.regs, .out, .counter, .msix, .fab, .caches, .dir, .ud0, .ud1, .journal, .commands, .completions] s t := by
  obtain rfl := Host.Outcome.next.inj hx
  repeat' first
    | (with_reducible first | intro _ | assumption | exact Touches.refl | apply State.command_touches | apply State.udRestore_touches)
    | exact rfl | extract_lets -underBinder | split
    | (show Touches _ _ (Prod.fst _); dsimp only)

theorem execUdCkpt_touches {via : Via} {s : State} {t : State} (hx : execUdCkpt via s = .next t) :
    Touches [.regs, .out, .counter, .msix, .fab, .caches, .dir, .ud0, .ud1, .journal, .commands, .completions] s t := by
  obtain rfl := Host.Outcome.next.inj hx
  repeat' first
    | (with_reducible first | intro _ | assumption | exact Touches.refl | apply State.command_touches | apply State.udCkpt_touches)
    | exact rfl | extract_lets -underBinder | split
    | (show Touches _ _ (Prod.fst _); dsimp only)

theorem execUdReemit_touches {via : Via} {s : State} {t : State} (hx : execUdReemit via s = .next t) :
    Touches [.regs, .out, .counter, .msix, .fab, .stack, .peat, .far, .caches, .ud0, .ud1, .journal, .commands, .completions] s t := by
  obtain rfl := Host.Outcome.next.inj hx
  repeat' first
    | (with_reducible first | intro _ | assumption | exact Touches.refl | apply State.command_touches | apply State.udReemit_touches)
    | exact rfl | extract_lets -underBinder | split
    | (show Touches _ _ (Prod.fst _); dsimp only)

theorem execUdAcceptTorn_touches {via : Via} {s : State} {t : State} (hx : execUdAcceptTorn via s = .next t) :
    Touches [.regs, .out, .counter, .msix, .fab, .peat, .caches, .journal, .commands, .completions] s t := by
  obtain rfl := Host.Outcome.next.inj hx
  repeat' first
    | (with_reducible first | intro _ | assumption | exact Touches.refl | apply State.command_touches | apply State.udAcceptTorn_touches)
    | exact rfl | extract_lets -underBinder | split
    | (show Touches _ _ (Prod.fst _); dsimp only)

theorem execUdSetExp_touches {via : Via} {s : State} {t : State} (hx : execUdSetExp via s = .next t) :
    Touches [.regs, .out, .msix, .journal, .commands, .completions] s t := by
  obtain rfl := Host.Outcome.next.inj hx
  repeat' first
    | (with_reducible first | intro _ | assumption | exact Touches.refl | apply State.command_touches | apply State.udSetExp_touches)
    | exact rfl | extract_lets -underBinder | split
    | (show Touches _ _ (Prod.fst _); dsimp only)

theorem execUdQuery_touches {via : Via} {s : State} {t : State} (hx : execUdQuery via s = .next t) :
    Touches [.regs, .out, .counter, .msix, .fab, .caches, .journal, .commands, .completions] s t := by
  obtain rfl := Host.Outcome.next.inj hx
  repeat' first
    | (with_reducible first | intro _ | assumption | exact Touches.refl | apply State.command_touches | apply State.udQuery_touches)
    | exact rfl | extract_lets -underBinder | split
    | (show Touches _ _ (Prod.fst _); dsimp only)

theorem State.ckptDone_touches {L : List Part} {z0 : State} {s : State} {die : Nat} (hz : Touches L z0 s)
    (hL : covers L [.regs, .cores, .out, .counter, .msix, .fab, .stack, .peat, .far, .caches, .dir, .ud0, .ud1, .sched, .journal, .commands, .completions, .staged] = true) :
    Touches L z0 (State.ckptDone s die) := by
  refine hz.andThen (A := [.regs, .cores, .out, .counter, .msix, .fab, .stack, .peat, .far, .caches, .dir, .ud0, .ud1, .sched, .journal, .commands, .completions, .staged]) ?_ hL
  unfold State.ckptDone
  repeat' first
    | (with_reducible first | intro _ | assumption | exact Touches.refl | apply State.runXfer_touches | refine Touches.ofFst (by assumption) ?_)
    | exact rfl | extract_lets -underBinder | split

theorem execCompactionComplete_touches {unit : Nat} {s : State} {t : State} (hx : execCompactionComplete unit s = .next t) :
    Touches [.regs, .out, .counter, .msix, .fab, .stack, .peat, .caches] s t := by
  obtain rfl := Host.Outcome.next.inj hx
  repeat' first
    | (with_reducible first | intro _ | assumption | exact Touches.refl | apply State.compactDone_touches | apply State.dieCompactDone_touches
                            | apply State.dirRebuild_touches | apply State.tearAbove_touches | apply Touches.ite)
    | exact rfl | extract_lets -underBinder | split

theorem execGfmtQuery_touches {via : Via} {s : State} {t : State} (hx : execGfmtQuery via s = .next t) :
    Touches [.regs, .out, .msix, .journal, .commands, .completions] s t := by
  obtain rfl := Host.Outcome.next.inj hx
  repeat' first
    | (with_reducible first | intro _ | assumption | exact Touches.refl | apply State.command_touches | apply State.gfmtQuery_touches)
    | exact rfl | extract_lets -underBinder | split
    | (show Touches _ _ (Prod.fst _); dsimp only)

theorem execGfmtPin_touches {via : Via} {s : State} {t : State} (hx : execGfmtPin via s = .next t) :
    Touches [.regs, .out, .msix, .stack, .far, .caches, .sched, .journal, .commands, .completions] s t := by
  obtain rfl := Host.Outcome.next.inj hx
  repeat' first
    | (with_reducible first | intro _ | assumption | exact Touches.refl | apply State.command_touches | apply State.gfmtPin_touches)
    | exact rfl | extract_lets -underBinder | split
    | (show Touches _ _ (Prod.fst _); dsimp only)

theorem execGfmtRelease_touches {via : Via} {s : State} {t : State} (hx : execGfmtRelease via s = .next t) :
    Touches [.regs, .out, .msix, .stack, .far, .caches, .journal, .commands, .completions] s t := by
  obtain rfl := Host.Outcome.next.inj hx
  repeat' first
    | (with_reducible first | intro _ | assumption | exact Touches.refl | apply State.command_touches | apply State.gfmtRelease_touches)
    | exact rfl | extract_lets -underBinder | split
    | (show Touches _ _ (Prod.fst _); dsimp only)

theorem execGfmtLimits_touches {via : Via} {s : State} {t : State} (hx : execGfmtLimits via s = .next t) :
    Touches [.regs, .out, .msix, .sched, .journal, .commands, .completions] s t := by
  obtain rfl := Host.Outcome.next.inj hx
  repeat' first
    | (with_reducible first | intro _ | assumption | exact Touches.refl | apply State.command_touches | apply State.gfmtLimits_touches)
    | exact rfl | extract_lets -underBinder | split
    | (show Touches _ _ (Prod.fst _); dsimp only)

end Sys2Proof.Machine
end

