-- ==== Sys2Proof/Laws/Touch/SqCmds.lean ====
section
/-!
SUPPORT. Laws/Touch/SqCmds.lean: for each operation of Machine/SqCmds.lean, what it can do: the queue stays, only the parts listed change, and the
registers and memories keep their canonical form.
-/

set_option linter.all false

namespace Sys2Proof.Machine

theorem State.startStream_touches {L : List Part} {z0 : State} {s : State} {b : Nat} {i : Nat} {pc : Nat} (hz : Touches L z0 s)
    (hL : covers L [.regs, .cores, .out, .msix, .caches] = true) :
    Touches L z0 (State.startStream s b i pc) := by
  refine hz.andThen (A := [.regs, .cores, .out, .msix, .caches]) ?_ hL
  unfold State.startStream
  repeat' first
    | (with_reducible first | intro _ | assumption | exact Touches.refl | apply State.checkHead_touches | apply State.flush_touches
                            | apply State.setPc_touches | apply State.setReg_touches | apply State.setSt_touches | apply State.setStream_touches
                            | apply Touches.ite)
    | exact rfl | extract_lets -underBinder | split

theorem State.stopStream_touches {L : List Part} {z0 : State} {s : State} {b : Nat} {i : Nat} (hz : Touches L z0 s) (hL : covers L [.cores] = true) :
    Touches L z0 (State.stopStream s b i) := by
  refine hz.andThen (A := [.cores]) ?_ hL
  unfold State.stopStream
  repeat' first
    | (with_reducible first | intro _ | assumption | exact Touches.refl | apply State.setStream_touches | apply Touches.ite)
    | exact rfl | extract_lets -underBinder | split

theorem State.stopAll_touches {L : List Part} {z0 : State} {s : State} (hz : Touches L z0 s) (hL : covers L [.cores] = true) :
    Touches L z0 (State.stopAll s) := by
  refine hz.andThen (A := [.cores]) ?_ hL
  unfold State.stopAll
  repeat' first
    | (with_reducible first | intro _ | assumption | exact Touches.refl | apply State.stopStream_touches | apply Touches.foldl
                            | apply Touches.foldlFst)
    | exact rfl | extract_lets -underBinder | split

theorem State.sqStart_touches {L : List Part} {z0 : State} {a : List Nat} {s : State} (hz : Touches L z0 s)
    (hL : covers L [.regs, .cores, .out, .msix, .caches] = true) :
    Touches L z0 ((State.sqStart a s).1) := by
  refine hz.andThen (A := [.regs, .cores, .out, .msix, .caches]) ?_ hL
  unfold State.sqStart
  refine TouchesP.out ?_
  repeat' first
    | (with_reducible first | intro _ | assumption | exact Touches.refl | apply State.refuse_touches | apply State.startStream_touches
                            | apply Touches.ite | apply TouchesP.ite | apply TouchesP.pairIte | apply Touches.foldl | apply Touches.foldlFst)
    | exact rfl | extract_lets -underBinder | split
    | (with_reducible first | apply TouchesP.pair)
    | (show Touches _ _ (Prod.fst _); dsimp only)

theorem State.sqStop_touches {L : List Part} {z0 : State} {a : List Nat} {s : State} (hz : Touches L z0 s) (hL : covers L [.cores] = true) :
    Touches L z0 ((State.sqStop a s).1) := by
  refine hz.andThen (A := [.cores]) ?_ hL
  unfold State.sqStop
  refine TouchesP.out ?_
  repeat' first
    | (with_reducible first | intro _ | assumption | exact Touches.refl | apply State.stopStream_touches | apply Touches.foldl
                            | apply Touches.foldlFst)
    | exact rfl | extract_lets -underBinder | split
    | (with_reducible first | apply TouchesP.pair)
    | (show Touches _ _ (Prod.fst _); dsimp only)

theorem State.sqQuery_touches {L : List Part} {z0 : State} {a : List Nat} {s : State} (hz : Touches L z0 s) (hL : covers L [] = true) :
    Touches L z0 ((State.sqQuery a s).1) := by
  refine hz.andThen (A := []) ?_ hL
  unfold State.sqQuery
  refine TouchesP.out ?_
  repeat' first
    | (with_reducible first | intro _ | assumption | exact Touches.refl | apply State.answered_touches | apply Touches.ite | apply TouchesP.ite
                            | apply TouchesP.pairIte)
    | exact rfl | extract_lets -underBinder | split
    | (with_reducible first | apply TouchesP.pair)
    | (show Touches _ _ (Prod.fst _); dsimp only)

theorem execSqStart_touches {via : Via} {s : State} {t : State} (hx : execSqStart via s = .next t) :
    Touches [.regs, .cores, .out, .msix, .caches, .journal, .commands, .completions] s t := by
  obtain rfl := Host.Outcome.next.inj hx
  repeat' first
    | (with_reducible first | intro _ | assumption | exact Touches.refl | apply State.command_touches | apply State.sqStart_touches)
    | exact rfl | extract_lets -underBinder | split
    | (show Touches _ _ (Prod.fst _); dsimp only)

theorem execSqStop_touches {via : Via} {s : State} {t : State} (hx : execSqStop via s = .next t) :
    Touches [.regs, .cores, .out, .msix, .journal, .commands, .completions] s t := by
  obtain rfl := Host.Outcome.next.inj hx
  repeat' first
    | (with_reducible first | intro _ | assumption | exact Touches.refl | apply State.command_touches | apply State.sqStop_touches)
    | exact rfl | extract_lets -underBinder | split
    | (show Touches _ _ (Prod.fst _); dsimp only)

theorem execSqQuery_touches {via : Via} {s : State} {t : State} (hx : execSqQuery via s = .next t) :
    Touches [.regs, .out, .msix, .journal, .commands, .completions] s t := by
  obtain rfl := Host.Outcome.next.inj hx
  repeat' first
    | (with_reducible first | intro _ | assumption | exact Touches.refl | apply State.command_touches | apply State.sqQuery_touches)
    | exact rfl | extract_lets -underBinder | split
    | (show Touches _ _ (Prod.fst _); dsimp only)

end Sys2Proof.Machine
end

