-- ==== Sys2Proof/Laws/Touch/TimeBeat.lean ====
section
/-!
SUPPORT. Laws/Touch/TimeBeat.lean: for each operation of Machine/TimeBeat.lean, what it can do: the queue stays, only the parts listed change, and the
registers and memories keep their canonical form.
-/

set_option linter.all false

namespace Sys2Proof.Machine

theorem State.setVcode_touches {L : List Part} {z0 : State} {s : State} {code : Nat} {c : Nat} (hz : Touches L z0 s)
    (hL : covers L [.regs, .time] = true) :
    Touches L z0 (State.setVcode s code c) := by
  refine hz.andThen (A := [.regs, .time]) ?_ hL
  unfold State.setVcode
  repeat' first
    | (with_reducible first | intro _ | assumption | exact Touches.refl | apply State.wr_touches | apply Touches.ite | apply Touches.modTime)
    | exact rfl | extract_lets -underBinder | split

theorem State.endRamps_touches {L : List Part} {z0 : State} {s : State} (hz : Touches L z0 s) (hL : covers L [.time] = true) :
    Touches L z0 (State.endRamps s) := by
  refine hz.andThen (A := [.time]) ?_ hL
  unfold State.endRamps
  repeat' first
    | (with_reducible first | intro _ | assumption | exact Touches.refl | apply Touches.modTime)
    | exact rfl | extract_lets -underBinder | split

theorem State.setZoneV_touches {L : List Part} {z0 : State} {s : State} {z : Nat} (hz : Touches L z0 s) (hL : covers L [.regs, .time] = true) :
    Touches L z0 (State.setZoneV s z) := by
  refine hz.andThen (A := [.regs, .time]) ?_ hL
  unfold State.setZoneV
  repeat' first
    | (with_reducible first | intro _ | assumption | exact Touches.refl | apply State.setVcode_touches | apply Touches.foldl | apply Touches.foldlFst)
    | exact rfl | extract_lets -underBinder | split

theorem State.setAllV_touches {L : List Part} {z0 : State} {s : State} {code : Nat} (hz : Touches L z0 s) (hL : covers L [.regs, .time] = true) :
    Touches L z0 (State.setAllV s code) := by
  refine hz.andThen (A := [.regs, .time]) ?_ hL
  unfold State.setAllV
  repeat' first
    | (with_reducible first | intro _ | assumption | exact Touches.refl | apply State.setVcode_touches | apply Touches.foldl | apply Touches.foldlFst)
    | exact rfl | extract_lets -underBinder | split

theorem State.publishRatios_touches {L : List Part} {z0 : State} {s : State} {code : Nat} (hz : Touches L z0 s) (hL : covers L [.regs] = true) :
    Touches L z0 (State.publishRatios s code) := by
  refine hz.andThen (A := [.regs]) ?_ hL
  unfold State.publishRatios
  repeat' first
    | (with_reducible first | intro _ | assumption | exact Touches.refl | apply State.wr_touches | apply Touches.ite | apply Touches.foldl
                            | apply Touches.foldlFst)
    | exact rfl | extract_lets -underBinder | split

theorem State.realigned_touches {L : List Part} {z0 : State} {s : State} (hz : Touches L z0 s) (hL : covers L [.regs] = true) :
    Touches L z0 (State.realigned s) := by
  refine hz.andThen (A := [.regs]) ?_ hL
  unfold State.realigned
  repeat' first
    | (with_reducible first | intro _ | assumption | exact Touches.refl | apply State.wr_touches | apply Touches.ite)
    | exact rfl | extract_lets -underBinder | split

theorem State.setXing_touches {L : List Part} {z0 : State} {s : State} {x : Nat} {sync : Bool} (hz : Touches L z0 s) (hL : covers L [.regs] = true) :
    Touches L z0 (State.setXing s x sync) := by
  refine hz.andThen (A := [.regs]) ?_ hL
  unfold State.setXing
  repeat' first
    | (with_reducible first | intro _ | assumption | exact Touches.refl | apply State.realigned_touches | apply State.wr_touches | apply Touches.ite)
    | exact rfl | extract_lets -underBinder | split

theorem State.mesoAll_touches {L : List Part} {z0 : State} {s : State} (hz : Touches L z0 s) (hL : covers L [.regs] = true) :
    Touches L z0 (State.mesoAll s) := by
  refine hz.andThen (A := [.regs]) ?_ hL
  unfold State.mesoAll
  repeat' first
    | (with_reducible first | intro _ | assumption | exact Touches.refl | apply State.setXing_touches | apply Touches.foldl | apply Touches.foldlFst)
    | exact rfl | extract_lets -underBinder | split

theorem State.rephase_touches {L : List Part} {z0 : State} {s : State} (hz : Touches L z0 s) (hL : covers L [.regs, .time] = true) :
    Touches L z0 (State.rephase s) := by
  refine hz.andThen (A := [.regs, .time]) ?_ hL
  unfold State.rephase
  repeat' first
    | (with_reducible first | intro _ | assumption | exact Touches.refl | apply State.setXing_touches | apply State.wr_touches | apply Touches.ite
                            | apply Touches.foldl | apply Touches.foldlFst | apply Touches.modTime)
    | exact rfl | extract_lets -underBinder | split

theorem State.approach_touches {L : List Part} {z0 : State} {s : State} {c : Nat} (hz : Touches L z0 s) (hL : covers L [.regs, .time] = true) :
    Touches L z0 (State.approach s c) := by
  refine hz.andThen (A := [.regs, .time]) ?_ hL
  unfold State.approach
  repeat' first
    | (with_reducible first | intro _ | assumption | exact Touches.refl | apply State.mesoAll_touches | apply State.setAllV_touches
                            | apply State.wr_touches | apply Touches.ite | apply Touches.modTime)
    | exact rfl | extract_lets -underBinder | split

theorem State.requestCode_touches {L : List Part} {z0 : State} {s : State} {c : Nat} (hz : Touches L z0 s)
    (hL : covers L [.regs, .out, .time, .msix] = true) :
    Touches L z0 (State.requestCode s c) := by
  refine hz.andThen (A := [.regs, .out, .time, .msix]) ?_ hL
  unfold State.requestCode
  repeat' first
    | (with_reducible first | intro _ | assumption | exact Touches.refl | apply State.approach_touches | apply State.raise_touches
                            | apply Touches.ite)
    | exact rfl | extract_lets -underBinder | split

theorem State.refreshFcap_touches {L : List Part} {z0 : State} {s : State} (hz : Touches L z0 s) (hL : covers L [.regs, .out, .time, .msix] = true) :
    Touches L z0 (State.refreshFcap s) := by
  refine hz.andThen (A := [.regs, .out, .time, .msix]) ?_ hL
  unfold State.refreshFcap
  repeat' first
    | (with_reducible first | intro _ | assumption | exact Touches.refl | apply State.requestCode_touches | apply State.wr_touches
                            | apply Touches.ite)
    | exact rfl | extract_lets -underBinder | split

theorem State.reportTick_touches {L : List Part} {z0 : State} {s : State} (hz : Touches L z0 s) (hL : covers L [.regs, .time] = true) :
    Touches L z0 (State.reportTick s) := by
  refine hz.andThen (A := [.regs, .time]) ?_ hL
  unfold State.reportTick
  repeat' first
    | (with_reducible first | intro _ | assumption | exact Touches.refl | apply State.wr_touches | apply Touches.ite | apply Touches.modTime
                            | refine Touches.ofFst (by assumption) ?_)
    | exact rfl | extract_lets -underBinder | split

theorem State.dropSlips_touches {L : List Part} {z0 : State} {s : State} (hz : Touches L z0 s) (hL : covers L [.cores] = true) :
    Touches L z0 (State.dropSlips s) := by
  refine hz.andThen (A := [.cores]) ?_ hL
  unfold State.dropSlips
  repeat' first
    | (with_reducible first | intro _ | assumption | exact Touches.refl | apply State.modCore_touches | apply Touches.foldl | apply Touches.foldlFst)
    | exact rfl | assumption | exact State.core_wf (by assumption) _ | with_reducible apply CoreSt.foldl_wf | (simp; assumption)
    | extract_lets -underBinder | split

theorem State.seeAll_touches {L : List Part} {z0 : State} {s : State} (hz : Touches L z0 s) (hL : covers L [.time] = true) :
    Touches L z0 (State.seeAll s) := by
  refine hz.andThen (A := [.time]) ?_ hL
  unfold State.seeAll
  repeat' first
    | (with_reducible first | intro _ | assumption | exact Touches.refl | apply Touches.foldl | apply Touches.foldlFst | apply Touches.modTime
                            | refine Touches.ofFst (by assumption) ?_)
    | exact rfl | extract_lets -underBinder | split

theorem State.regate_touches {L : List Part} {z0 : State} {s : State} (hz : Touches L z0 s) (hL : covers L [.regs, .time, .pwr] = true) :
    Touches L z0 (State.regate s) := by
  refine hz.andThen (A := [.regs, .time, .pwr]) ?_ hL
  unfold State.regate
  repeat' first
    | (with_reducible first | intro _ | assumption | exact Touches.refl | apply State.seeAll_touches | apply State.wr_touches | apply Touches.ite
                            | apply Touches.modPwr)
    | exact rfl | extract_lets -underBinder | split

theorem State.pendEffect_touches {L : List Part} {z0 : State} {s : State} (hz : Touches L z0 s) (hL : covers L [.regs, .time] = true) :
    Touches L z0 (State.pendEffect s) := by
  refine hz.andThen (A := [.regs, .time]) ?_ hL
  unfold State.pendEffect
  repeat' first
    | (with_reducible first | intro _ | assumption | exact Touches.refl | apply State.reportTick_touches | apply State.setReg_touches
                            | apply State.wr_touches | apply Touches.ite | apply Touches.modTime | refine Touches.ofFst (by assumption) ?_)
    | exact rfl | extract_lets -underBinder | split
    | dsimp +zetaDelta only

theorem State.tickChange_touches {L : List Part} {z0 : State} {s : State} {seq : Nat} {teff : Nat} {beff : Nat} {len : Nat} (hz : Touches L z0 s)
    (hL : covers L [.regs, .out, .time, .msix] = true) :
    Touches L z0 (State.tickChange s seq teff beff len) := by
  refine hz.andThen (A := [.regs, .out, .time, .msix]) ?_ hL
  unfold State.tickChange
  repeat' first
    | (with_reducible first | intro _ | assumption | exact Touches.refl | apply State.pendEffect_touches | apply State.raise_touches
                            | apply State.wr_touches | apply Touches.ite)
    | exact rfl | extract_lets -underBinder | split

theorem State.loadPlan_touches {L : List Part} {z0 : State} {s : State} {planned : Nat} {tick : Nat} {beat : Nat} (hz : Touches L z0 s)
    (hL : covers L [.regs, .cores, .time, .pwr] = true) :
    Touches L z0 (State.loadPlan s planned tick beat) := by
  refine hz.andThen (A := [.regs, .cores, .time, .pwr]) ?_ hL
  unfold State.loadPlan
  repeat' first
    | (with_reducible first | intro _ | assumption | exact Touches.refl | apply State.dropSlips_touches | apply State.regate_touches
                            | apply State.reportTick_touches | apply State.seeAll_touches | apply State.setReg_touches | apply State.wr_touches
                            | apply Touches.modTime)
    | exact rfl | extract_lets -underBinder | split

theorem State.dropPlan_touches {L : List Part} {z0 : State} {s : State} (hz : Touches L z0 s) (hL : covers L [.regs, .cores, .time, .pwr] = true) :
    Touches L z0 (State.dropPlan s) := by
  refine hz.andThen (A := [.regs, .cores, .time, .pwr]) ?_ hL
  unfold State.dropPlan
  repeat' first
    | (with_reducible first | intro _ | assumption | exact Touches.refl | apply State.dropSlips_touches | apply State.regate_touches
                            | apply State.setReg_touches | apply State.wr_touches | apply Touches.modTime)
    | exact rfl | extract_lets -underBinder | split

theorem State.setBeat_touches {L : List Part} {z0 : State} {s : State} {b : Nat} (hz : Touches L z0 s) (hL : covers L [.regs] = true) :
    Touches L z0 (State.setBeat s b) := by
  refine hz.andThen (A := [.regs]) ?_ hL
  unfold State.setBeat
  repeat' first
    | (with_reducible first | intro _ | assumption | exact Touches.refl | apply State.wr_touches | apply Touches.foldl | apply Touches.foldlFst)
    | exact rfl | extract_lets -underBinder | split

theorem State.clockCycle_touches {L : List Part} {z0 : State} {s : State} (hz : Touches L z0 s) (hL : covers L [.regs, .time] = true) :
    Touches L z0 (State.clockCycle s) := by
  refine hz.andThen (A := [.regs, .time]) ?_ hL
  unfold State.clockCycle
  repeat' first
    | (with_reducible first | intro _ | assumption | exact Touches.refl | apply State.pendEffect_touches | apply State.reportTick_touches
                            | apply State.setBeat_touches | apply Touches.ite | apply Touches.modTime)
    | exact rfl | extract_lets -underBinder | split

theorem boundary_touches {L : List Part} {z0 : State} {s : State} {z : Nat} {n : Nat} (hz : Touches L z0 s)
    (hL : covers L [.regs, .cores, .time, .pwr] = true) :
    Touches L z0 (boundary s z n) := by
  refine hz.andThen (A := [.regs, .cores, .time, .pwr]) ?_ hL
  unfold boundary
  repeat' first
    | (with_reducible first | intro _ | assumption | exact Touches.refl | apply State.modCore_touches | apply State.setZoneV_touches
                            | apply State.wr_touches | apply Touches.ite | apply Touches.foldl | apply Touches.foldlFst | apply Touches.modTime
                            | apply Touches.modPwr)
    | exact rfl | assumption | exact State.core_wf (by assumption) _ | with_reducible apply CoreSt.foldl_wf | (simp; assumption)
    | with_reducible apply CoreSt.ite_wf | extract_lets -underBinder | split

theorem State.tickBoundary_touches {L : List Part} {z0 : State} {s : State} {zone : Nat} (hz : Touches L z0 s)
    (hL : covers L [.regs, .cores, .time, .pwr] = true) :
    Touches L z0 (State.tickBoundary s zone) := by
  refine hz.andThen (A := [.regs, .cores, .time, .pwr]) ?_ hL
  unfold State.tickBoundary
  repeat' first
    | (with_reducible first | intro _ | assumption | exact Touches.refl | apply State.reportTick_touches | apply boundary_touches
                            | apply Touches.ite | refine Touches.ofFst (by assumption) ?_)
    | exact rfl | extract_lets -underBinder | split

theorem execPendingSegmentEffect_touches {s : State} {t : State} (hx : execPendingSegmentEffect s = .next t) : Touches [.regs, .time] s t := by
  obtain rfl := Host.Outcome.next.inj hx
  repeat' first
    | (with_reducible first | intro _ | assumption | exact Touches.refl | apply State.pendEffect_touches)
    | exact rfl | extract_lets -underBinder | split

theorem execBeatReplicaWrite_touches {s : State} {t : State} (hx : execBeatReplicaWrite s = .next t) : Touches [.regs] s t := by
  obtain rfl := Host.Outcome.next.inj hx
  repeat' first
    | (with_reducible first | intro _ | assumption | exact Touches.refl | apply State.setBeat_touches)
    | exact rfl | extract_lets -underBinder | split

theorem State.setEnrol_touches {L : List Part} {z0 : State} {s : State} {v : Nat} (hz : Touches L z0 s)
    (hL : covers L [.regs, .out, .msix, .rm] = true) :
    Touches L z0 (State.setEnrol s v) := by
  refine hz.andThen (A := [.regs, .out, .msix, .rm]) ?_ hL
  unfold State.setEnrol
  repeat' first
    | (with_reducible first | intro _ | assumption | exact Touches.refl | apply State.raise_touches | apply State.wr_touches | apply Touches.ite)
    | exact rfl | extract_lets -underBinder | split
    | (with_reducible first | apply Touches.set_rm)

theorem State.toRm_touches {L : List Part} {z0 : State} {s : State} {typ : Nat} {words : List Nat} (hz : Touches L z0 s)
    (hL : covers L [.regs, .out, .fab] = true) :
    Touches L z0 (State.toRm s typ words) := by
  refine hz.andThen (A := [.regs, .out, .fab]) ?_ hL
  unfold State.toRm
  repeat' first
    | (with_reducible first | intro _ | assumption | exact Touches.refl | apply State.sendCtrl_touches | apply Touches.ite)
    | exact rfl | extract_lets -underBinder | split

theorem State.becomeOrigin_touches {L : List Part} {z0 : State} {s : State} (hz : Touches L z0 s)
    (hL : covers L [.regs, .out, .time, .msix, .pwr, .rm] = true) :
    Touches L z0 (State.becomeOrigin s) := by
  refine hz.andThen (A := [.regs, .out, .time, .msix, .pwr, .rm]) ?_ hL
  unfold State.becomeOrigin
  repeat' first
    | (with_reducible first | intro _ | assumption | exact Touches.refl | apply State.raise_touches | apply State.regate_touches
                            | apply State.setEnrol_touches | apply State.setReg_touches | apply State.wr_touches | apply Touches.ite
                            | apply Touches.modTime)
    | exact rfl | extract_lets -underBinder | split

theorem State.acquire_touches {L : List Part} {z0 : State} {s : State} (hz : Touches L z0 s)
    (hL : covers L [.regs, .out, .time, .msix, .fab, .pwr, .rm] = true) :
    Touches L z0 (State.acquire s) := by
  refine hz.andThen (A := [.regs, .out, .time, .msix, .fab, .pwr, .rm]) ?_ hL
  unfold State.acquire
  repeat' first
    | (with_reducible first | intro _ | assumption | exact Touches.refl | apply State.becomeOrigin_touches | apply State.raise_touches
                            | apply State.regate_touches | apply State.toRm_touches | apply State.wr_touches | apply Touches.ite)
    | exact rfl | extract_lets -underBinder | split

theorem State.beatLost_touches {L : List Part} {z0 : State} {s : State} (hz : Touches L z0 s)
    (hL : covers L [.regs, .out, .time, .msix, .fab, .pwr, .rm] = true) :
    Touches L z0 (State.beatLost s) := by
  refine hz.andThen (A := [.regs, .out, .time, .msix, .fab, .pwr, .rm]) ?_ hL
  unfold State.beatLost
  repeat' first
    | (with_reducible first | intro _ | assumption | exact Touches.refl | apply State.health_touches | apply State.raise_touches
                            | apply State.regate_touches | apply State.setEnrol_touches | apply State.toRm_touches | apply State.wr_touches
                            | apply Touches.ite)
    | exact rfl | extract_lets -underBinder | split

theorem State.setRate_touches {L : List Part} {z0 : State} {s : State} {x : Int} (hz : Touches L z0 s) (hL : covers L [.regs] = true) :
    Touches L z0 (State.setRate s x) := by
  refine hz.andThen (A := [.regs]) ?_ hL
  unfold State.setRate
  repeat' first
    | (with_reducible first | intro _ | assumption | exact Touches.refl | apply State.wr_touches)
    | exact rfl | extract_lets -underBinder | split

theorem State.timeExchange_touches {L : List Part} {z0 : State} {s : State} {t1 : Nat} {t2 : Nat} {t3 : Nat} {t4 : Nat} (hz : Touches L z0 s)
    (hL : covers L [.regs, .out, .time, .msix, .fab, .pwr, .rm] = true) :
    Touches L z0 (State.timeExchange s t1 t2 t3 t4) := by
  refine hz.andThen (A := [.regs, .out, .time, .msix, .fab, .pwr, .rm]) ?_ hL
  unfold State.timeExchange
  repeat' first
    | (with_reducible first | intro _ | assumption | exact Touches.refl | apply State.acquire_touches | apply State.beatLost_touches
                            | apply State.bump_touches | apply State.reportTick_touches | apply State.setBeat_touches | apply State.setRate_touches
                            | apply State.wr_touches | apply Touches.ite | apply Touches.modTime)
    | exact rfl | extract_lets -underBinder | split

theorem State.sendTreq_touches {L : List Part} {z0 : State} {s : State} {port : Nat} {no : Nat} (hz : Touches L z0 s)
    (hL : covers L [.regs, .out, .time, .fab] = true) :
    Touches L z0 (State.sendTreq s port no) := by
  refine hz.andThen (A := [.regs, .out, .time, .fab]) ?_ hL
  unfold State.sendTreq
  repeat' first
    | (with_reducible first | intro _ | assumption | exact Touches.refl | apply State.transmit_touches | apply Touches.modTime)
    | exact rfl | extract_lets -underBinder | split

theorem execTimeExchange_touches {s : State} {t : State} (hx : execTimeExchange s = .next t) : Touches [.regs, .out, .time, .fab] s t := by
  obtain rfl := Host.Outcome.next.inj hx
  repeat' first
    | (with_reducible first | intro _ | assumption | exact Touches.refl | apply State.sendTreq_touches | apply Touches.ite | apply Touches.foldl
                            | apply Touches.foldlFst | apply Touches.modTime)
    | exact rfl | extract_lets -underBinder | split

theorem execExchangeMissed_touches {s : State} {t : State} (hx : execExchangeMissed s = .next t) :
    Touches [.regs, .out, .time, .msix, .fab, .pwr, .rm] s t := by
  obtain rfl := Host.Outcome.next.inj hx
  repeat' first
    | (with_reducible first | intro _ | assumption | exact Touches.refl | apply State.beatLost_touches | apply State.raise_touches
                            | apply State.setRate_touches | apply State.wr_touches | apply Touches.ite | apply Touches.modTime)
    | exact rfl | extract_lets -underBinder | split

theorem execOriginTimeout_touches {s : State} {t : State} (hx : execOriginTimeout s = .next t) :
    Touches [.regs, .out, .time, .msix, .pwr, .rm] s t := by
  obtain rfl := Host.Outcome.next.inj hx
  repeat' first
    | (with_reducible first | intro _ | assumption | exact Touches.refl | apply State.becomeOrigin_touches | apply Touches.ite)
    | exact rfl | extract_lets -underBinder | split

theorem addLag_touches {L : List Part} {z0 : State} {s : State} {z : Nat} {q : Nat} (hz : Touches L z0 s) (hL : covers L [.regs, .time] = true) :
    Touches L z0 (addLag s z q) := by
  refine hz.andThen (A := [.regs, .time]) ?_ hL
  unfold addLag
  repeat' first
    | (with_reducible first | intro _ | assumption | exact Touches.refl | apply State.bump_touches | apply State.realigned_touches
                            | apply State.wr_touches | apply Touches.ite | apply Touches.modTime)
    | exact rfl | extract_lets -underBinder | split

theorem execDroopTrip_touches {zone : Nat} {depth : Nat} {s : State} {t : State} (hx : execDroopTrip zone depth s = .next t) :
    Touches [.regs, .time, .pwr] s t := by
  obtain rfl := Host.Outcome.next.inj hx
  repeat' first
    | (with_reducible first | intro _ | assumption | exact Touches.refl | apply State.bump_touches | apply State.wr_touches | apply addLag_touches
                            | apply Touches.ite | apply Touches.modPwr)
    | exact rfl | extract_lets -underBinder | split

theorem execRealignmentStretch_touches {zone : Nat} {s : State} {t : State} (hx : execRealignmentStretch zone s = .next t) :
    Touches [.regs, .time] s t := by
  obtain rfl := Host.Outcome.next.inj hx
  repeat' first
    | (with_reducible first | intro _ | assumption | exact Touches.refl | apply addLag_touches | apply Touches.ite)
    | exact rfl | extract_lets -underBinder | split

theorem execNeighbourInformed_touches {crossing : Nat} {s : State} {t : State} (hx : execNeighbourInformed crossing s = .next t) :
    Touches [.regs] s t := by
  obtain rfl := Host.Outcome.next.inj hx
  repeat' first
    | (with_reducible first | intro _ | assumption | exact Touches.refl | apply State.bump_touches | apply State.setXing_touches | apply Touches.ite)
    | exact rfl | extract_lets -underBinder | split

theorem execCrossingSynchronous_touches {crossing : Nat} {s : State} {t : State} (hx : execCrossingSynchronous crossing s = .next t) :
    Touches [.regs] s t := by
  obtain rfl := Host.Outcome.next.inj hx
  repeat' first
    | (with_reducible first | intro _ | assumption | exact Touches.refl | apply State.setXing_touches | apply Touches.ite)
    | exact rfl | extract_lets -underBinder | split

theorem execGlideStart_touches {s : State} {t : State} (hx : execGlideStart s = .next t) : Touches [.regs, .time] s t := by
  obtain rfl := Host.Outcome.next.inj hx
  repeat' first
    | (with_reducible first | intro _ | assumption | exact Touches.refl | apply State.endRamps_touches | apply State.setAllV_touches
                            | apply Touches.ite | apply Touches.modTime)
    | exact rfl | extract_lets -underBinder | split

theorem execGlideEnd_touches {s : State} {t : State} (hx : execGlideEnd s = .next t) : Touches [.regs, .time, .pwr] s t := by
  obtain rfl := Host.Outcome.next.inj hx
  repeat' first
    | (with_reducible first | intro _ | assumption | exact Touches.refl | apply State.rephase_touches | apply State.setAllV_touches
                            | apply State.wr_touches | apply Touches.ite | apply Touches.modTime | apply Touches.modPwr)
    | exact rfl | extract_lets -underBinder | split

theorem State.align_touches {L : List Part} {z0 : State} {s : State} {skews : List Int} (hz : Touches L z0 s)
    (hL : covers L [.regs, .out, .time, .msix] = true) :
    Touches L z0 (State.align s skews) := by
  refine hz.andThen (A := [.regs, .out, .time, .msix]) ?_ hL
  unfold State.align
  repeat' first
    | (with_reducible first | intro _ | assumption | exact Touches.refl | apply State.raise_touches | apply State.rephase_touches
                            | apply State.setXing_touches | apply State.wr_touches | apply Touches.ite | apply Touches.foldl
                            | apply Touches.foldlFst | apply Touches.modTime)
    | exact rfl | extract_lets -underBinder | split

theorem State.setFmax_touches {L : List Part} {z0 : State} {s : State} {c : Nat} {f : List Nat} (hz : Touches L z0 s) (hL : covers L [.regs] = true) :
    Touches L z0 (State.setFmax s c f) := by
  refine hz.andThen (A := [.regs]) ?_ hL
  unfold State.setFmax
  repeat' first
    | (with_reducible first | intro _ | assumption | exact Touches.refl | apply State.wr_touches)
    | exact rfl | extract_lets -underBinder | split

theorem execAgeingSample_touches {core : Nat} {loss : Nat} {s : State} {t : State} (hx : execAgeingSample core loss s = .next t) :
    Touches [.regs, .out, .time, .msix, .flash] s t := by
  obtain rfl := Host.Outcome.next.inj hx
  repeat' first
    | (with_reducible first | intro _ | assumption | exact Touches.refl | apply State.bump_touches | apply State.refreshFcap_touches
                            | apply State.setFmax_touches | apply State.setVcode_touches | apply State.wr_touches | apply Touches.ite
                            | apply Touches.modPkg)
    | exact rfl | extract_lets -underBinder
    | (refine ⟨?_, ?_, ?_, ?_, ?_, ?_, ?_, ?_, ?_, ?_, ?_⟩ <;> first | exact .inl (by decide) | exact .inr rfl)
    | split

end Sys2Proof.Machine
end

