-- ==== Sys2Proof/Laws/Touch/UdRegs.lean ====
section
/-!
SUPPORT. Laws/Touch/UdRegs.lean: for each operation of Machine/UdRegs.lean, what it can do: the queue stays, only the parts listed change, and the
registers and memories keep their canonical form.
-/

set_option linter.all false

namespace Sys2Proof.Machine

theorem State.clearRecords_touches {L : List Part} {z0 : State} {s : State} {d : Nat} (hz : Touches L z0 s) (hL : covers L [.peat, .caches] = true) :
    Touches L z0 (State.clearRecords s d) := by
  refine hz.andThen (A := [.peat, .caches]) ?_ hL
  unfold State.clearRecords
  repeat' first
    | (with_reducible first | intro _ | assumption | exact Touches.refl | apply State.lineClean_touches | apply Touches.foldl
                            | apply Touches.foldlFst | apply Touches.modMem)
    | exact rfl | extract_lets -underBinder
    | (refine ⟨?_, ?_, ?_, ?_, ?_, ?_, ?_⟩ <;> first
      | exact .inl (by decide) | exact .inr rfl | exact fun h => h | exact memStore_wf _ _ | exact memFilter_wf _)
    | split

theorem State.firstRecbase_touches {L : List Part} {z0 : State} {s : State} {d : Nat} (hz : Touches L z0 s) (hL : covers L [.peat, .caches] = true) :
    Touches L z0 (State.firstRecbase s d) := by
  refine hz.andThen (A := [.peat, .caches]) ?_ hL
  unfold State.firstRecbase
  repeat' first
    | (with_reducible first | intro _ | assumption | exact Touches.refl | apply State.clearRecords_touches | apply Touches.ite | apply Touches.modMem)
    | exact rfl | extract_lets -underBinder
    | (refine ⟨?_, ?_, ?_, ?_, ?_, ?_, ?_⟩ <;> first
      | exact .inl (by decide) | exact .inr rfl | exact fun h => h | exact memStore_wf _ _ | exact memFilter_wf _)
    | split

theorem State.checkRule_touches {L : List Part} {z0 : State} {s : State} {d : Nat} {n : Nat} (hz : Touches L z0 s) (hL : covers L [.regs] = true) :
    Touches L z0 (State.checkRule s d n) := by
  refine hz.andThen (A := [.regs]) ?_ hL
  unfold State.checkRule
  repeat' first
    | (with_reducible first | intro _ | assumption | exact Touches.refl | apply State.wr_touches | apply Touches.ite)
    | exact rfl | extract_lets -underBinder | split

theorem State.udAfter_touches {L : List Part} {z0 : State} {s : State} {a : Nat} (hz : Touches L z0 s)
    (hL : covers L [.regs, .peat, .caches, .ud0, .ud1] = true) :
    Touches L z0 (State.udAfter s a) := by
  refine hz.andThen (A := [.regs, .peat, .caches, .ud0, .ud1]) ?_ hL
  unfold State.udAfter
  repeat' first
    | (with_reducible first | intro _ | assumption | exact Touches.refl | apply State.checkRule_touches | apply State.endStopped_touches
                            | apply State.firstRecbase_touches | apply State.modUd_touches | apply Touches.ite | apply Touches.foldl
                            | apply Touches.foldlFst | refine Touches.ofFst (by assumption) ?_)
    | exact rfl | extract_lets -underBinder | split

end Sys2Proof.Machine
end

