-- ==== Sys2Proof/Laws/Touch/Image.lean ====
section
/-!
SUPPORT. Laws/Touch/Image.lean: for each operation of Machine/Image.lean, what it can do: the queue stays, only the parts listed change, and the
registers and memories keep their canonical form.
-/

set_option linter.all false

namespace Sys2Proof.Machine

theorem State.putFields_touches {L : List Part} {z0 : State} {s : State} {a : Nat} {l : List Acc} {w : Nat} (hz : Touches L z0 s)
    (hL : covers L [.regs] = true) :
    Touches L z0 (State.putFields s a l w) := by
  refine hz.andThen (A := [.regs]) ?_ hL
  unfold State.putFields
  repeat' first
    | (with_reducible first | intro _ | assumption | exact Touches.refl | apply State.setReg_touches)
    | exact rfl | extract_lets -underBinder | split

theorem State.placeMem_touches {L : List Part} {z0 : State} {s : State} {x : ImageMem} (hz : Touches L z0 s)
    (hL : covers L [.regs, .cores, .out, .counter, .msix, .stack, .peat, .far, .caches] = true) :
    Touches L z0 (State.placeMem s x) := by
  refine hz.andThen (A := [.regs, .cores, .out, .counter, .msix, .stack, .peat, .far, .caches]) ?_ hL
  unfold State.placeMem
  repeat' first
    | (with_reducible first | intro _ | assumption | exact Touches.refl | apply State.farWrite_touches | apply State.modCore_touches
                            | apply State.peatWrite_touches | apply State.stackWrite_touches | apply Touches.ite
                            | refine Touches.ofFst (by assumption) ?_)
    | exact rfl | assumption | exact State.core_wf (by assumption) _ | (simp; assumption) | with_reducible apply CoreSt.locStore_wf
    | with_reducible apply CoreSt.ite_wf | extract_lets -underBinder | split

theorem State.placeSlot_touches {L : List Part} {z0 : State} {s : State} {b : Nat} {x : ImageSlot} (hz : Touches L z0 s)
    (hL : covers L [.regs] = true) :
    Touches L z0 (State.placeSlot s b x) := by
  refine hz.andThen (A := [.regs]) ?_ hL
  unfold State.placeSlot
  repeat' first
    | (with_reducible first | intro _ | assumption | exact Touches.refl | apply State.putFields_touches | apply State.setReg_touches
                            | apply Touches.foldl | apply Touches.foldlFst)
    | exact rfl | extract_lets -underBinder | split

theorem State.placeProfiles_touches {L : List Part} {z0 : State} {s : State} {c : ImageCore} (hz : Touches L z0 s) (hL : covers L [.regs] = true) :
    Touches L z0 (State.placeProfiles s c) := by
  refine hz.andThen (A := [.regs]) ?_ hL
  unfold State.placeProfiles
  repeat' first
    | (with_reducible first | intro _ | assumption | exact Touches.refl | apply State.setReg_touches | apply Touches.foldl | apply Touches.foldlFst)
    | exact rfl | extract_lets -underBinder | split

theorem State.placeUd_touches {L : List Part} {z0 : State} {s : State} {u : ImageUd} (hz : Touches L z0 s)
    (hL : covers L [.regs, .peat, .caches, .ud0, .ud1] = true) :
    Touches L z0 (State.placeUd s u) := by
  refine hz.andThen (A := [.regs, .peat, .caches, .ud0, .ud1]) ?_ hL
  unfold State.placeUd
  repeat' first
    | (with_reducible first | intro _ | assumption | exact Touches.refl | apply State.putFields_touches | apply State.udAfter_touches
                            | apply Touches.foldl | apply Touches.foldlFst)
    | exact rfl | extract_lets -underBinder | split

theorem State.placeImage_touches {L : List Part} {z0 : State} {s : State} {m : SchedImage} (hz : Touches L z0 s)
    (hL : covers L [.regs, .cores, .out, .counter, .msix, .stack, .peat, .far, .caches, .ud0, .ud1] = true) :
    Touches L z0 (State.placeImage s m) := by
  refine hz.andThen (A := [.regs, .cores, .out, .counter, .msix, .stack, .peat, .far, .caches, .ud0, .ud1]) ?_ hL
  unfold State.placeImage
  repeat' first
    | (with_reducible first | intro _ | assumption | exact Touches.refl | apply State.placeMem_touches | apply State.placeProfiles_touches
                            | apply State.placeUd_touches | apply Touches.ite | apply Touches.foldl | apply Touches.foldlFst)
    | exact rfl | extract_lets -underBinder | split

theorem State.idleStream_touches {L : List Part} {z0 : State} {s : State} {b : Nat} {i : Nat} (hz : Touches L z0 s)
    (hL : covers L [.regs, .cores, .out, .msix, .caches] = true) :
    Touches L z0 (State.idleStream s b i) := by
  refine hz.andThen (A := [.regs, .cores, .out, .msix, .caches]) ?_ hL
  unfold State.idleStream
  repeat' first
    | (with_reducible first | intro _ | assumption | exact Touches.refl | apply State.flush_touches | apply State.setReg_touches
                            | apply State.setSt_touches | apply State.setStream_touches | apply State.wr_touches)
    | exact rfl | extract_lets -underBinder | split

theorem State.idleAll_touches {L : List Part} {z0 : State} {s : State} (hz : Touches L z0 s)
    (hL : covers L [.regs, .cores, .out, .msix, .caches] = true) :
    Touches L z0 (State.idleAll s) := by
  refine hz.andThen (A := [.regs, .cores, .out, .msix, .caches]) ?_ hL
  unfold State.idleAll
  repeat' first
    | (with_reducible first | intro _ | assumption | exact Touches.refl | apply State.cancelProbes_touches | apply State.idleStream_touches
                            | apply Touches.ite | apply Touches.foldl | apply Touches.foldlFst)
    | exact rfl | extract_lets -underBinder | split

theorem State.placeCore_touches {L : List Part} {z0 : State} {s : State} {c : ImageCore} (hz : Touches L z0 s) (hL : covers L [.regs] = true) :
    Touches L z0 (State.placeCore s c) := by
  refine hz.andThen (A := [.regs]) ?_ hL
  unfold State.placeCore
  repeat' first
    | (with_reducible first | intro _ | assumption | exact Touches.refl | apply State.placeSlot_touches | apply State.putFields_touches
                            | apply State.setReg_touches | apply State.wr_touches | apply Touches.ite | apply Touches.foldl
                            | apply Touches.foldlFst | refine Touches.ofFst (by assumption) ?_)
    | exact rfl | extract_lets -underBinder | split
    | dsimp +zetaDelta only

theorem State.makeFormats_touches {L : List Part} {z0 : State} {s : State} {old : Nat} {allow : List (Nat × Nat)} (hz : Touches L z0 s)
    (hL : covers L [.regs, .out, .msix, .stack, .far, .caches, .sched] = true) :
    Touches L z0 (State.makeFormats s old allow) := by
  refine hz.andThen (A := [.regs, .out, .msix, .stack, .far, .caches, .sched]) ?_ hL
  unfold State.makeFormats
  repeat' first
    | (with_reducible first | intro _ | assumption | exact Touches.refl | apply State.gfPut_touches | apply Touches.ite | apply Touches.foldl
                            | apply Touches.foldlFst)
    | exact rfl | extract_lets -underBinder | split
    | (with_reducible first | apply Touches.set_sched)

theorem State.bindFormats_touches {L : List Part} {z0 : State} {s : State} {layers : Nat} (hz : Touches L z0 s)
    (hL : covers L [.regs, .cores, .out, .msix, .stack, .far, .caches] = true) :
    Touches L z0 (State.bindFormats s layers) := by
  refine hz.andThen (A := [.regs, .cores, .out, .msix, .stack, .far, .caches]) ?_ hL
  unfold State.bindFormats
  repeat' first
    | (with_reducible first | intro _ | assumption | exact Touches.refl | apply State.gfApply_touches | apply Touches.foldl | apply Touches.foldlFst)
    | exact rfl | extract_lets -underBinder | split

theorem State.placeTags_touches {L : List Part} {z0 : State} {s : State} {tags : List (Nat × Nat)} (hz : Touches L z0 s)
    (hL : covers L [.regs] = true) :
    Touches L z0 (State.placeTags s tags) := by
  refine hz.andThen (A := [.regs]) ?_ hL
  unfold State.placeTags
  repeat' first
    | (with_reducible first | intro _ | assumption | exact Touches.refl | apply State.wr_touches | apply Touches.ite | apply Touches.foldl
                            | apply Touches.foldlFst)
    | exact rfl | extract_lets -underBinder | split

theorem State.placeEpoch_touches {L : List Part} {z0 : State} {s : State} {epoch : Nat} (hz : Touches L z0 s) (hL : covers L [.regs] = true) :
    Touches L z0 (State.placeEpoch s epoch) := by
  refine hz.andThen (A := [.regs]) ?_ hL
  unfold State.placeEpoch
  repeat' first
    | (with_reducible first | intro _ | assumption | exact Touches.refl | apply State.wr_touches)
    | exact rfl | extract_lets -underBinder | split

theorem State.takeImage_touches {L : List Part} {z s : State} {m : SchedImage} (hz : Touches L z s)
    (hL : covers L [.regs, .cores, .out, .time, .msix, .stack, .far, .caches, .pwr, .sched] = true) :
    Touches L z (State.takeImage s m) := by
  refine hz.andThen (A := [.regs, .cores, .out, .time, .msix, .stack, .far, .caches, .pwr, .sched]) ?_ hL
  unfold State.takeImage
  have h1 : Touches [.regs, .cores, .out, .time, .msix, .stack, .far, .caches, .pwr, .sched] s (m.cores.foldl State.placeCore s.idleAll) :=
    Touches.foldl (fun _ _ hy => State.placeCore_touches hy rfl) (State.idleAll_touches Touches.refl rfl)
  exact State.setAllV_touches (State.refreshFcap_touches (State.loadPlan_touches (State.publishRatios_touches (State.placeEpoch_touches
    (State.placeTags_touches (State.bindFormats_touches (Touches.set_sched (State.makeFormats_touches (Touches.set_sched h1 rfl) rfl)
      rfl) rfl) rfl) rfl) rfl) rfl) rfl) rfl

theorem State.loadImage_touches {L : List Part} {z0 : State} {s : State} {m : SchedImage} (hz : Touches L z0 s)
    (hL : covers L [.regs, .cores, .out, .counter, .time, .msix, .stack, .peat, .far, .caches, .pwr, .ud0, .ud1, .sched] = true) :
    Touches L z0 ((State.loadImage s m).1) := by
  refine hz.andThen (A := [.regs, .cores, .out, .counter, .time, .msix, .stack, .peat, .far, .caches, .pwr, .ud0, .ud1, .sched]) ?_ hL
  unfold State.loadImage
  refine TouchesP.out ?_
  repeat' first
    | (with_reducible first | intro _ | assumption | exact Touches.refl | apply State.placeImage_touches | apply State.takeImage_touches
                            | refine Touches.ofFst (by assumption) ?_)
    | exact rfl | extract_lets -underBinder | split
    | (with_reducible first | apply TouchesP.pair)
    | (show Touches _ _ (Prod.fst _); dsimp only)
    | dsimp +zetaDelta only

theorem State.schedLoad_touches {L : List Part} {z0 : State} {image : Option SchedImage} {u : List Nat} {s : State} (hz : Touches L z0 s)
    (hL : covers L [.regs, .cores, .out, .counter, .time, .msix, .stack, .peat, .far, .caches, .pwr, .ud0, .ud1, .sched] = true) :
    Touches L z0 ((State.schedLoad image u s).1) := by
  refine hz.andThen (A := [.regs, .cores, .out, .counter, .time, .msix, .stack, .peat, .far, .caches, .pwr, .ud0, .ud1, .sched]) ?_ hL
  unfold State.schedLoad
  refine TouchesP.out ?_
  repeat' first
    | (with_reducible first | intro _ | assumption | exact Touches.refl | apply State.loadImage_touches | apply State.refuse_touches
                            | apply Touches.ite | apply TouchesP.ite | apply TouchesP.pairIte | refine Touches.ofFst (by assumption) ?_)
    | exact rfl | extract_lets -underBinder | split
    | (with_reducible first | apply TouchesP.pair)
    | (show Touches _ _ (Prod.fst _); dsimp only)

theorem State.unloadImage_touches {L : List Part} {z s : State} (hz : Touches L z s)
    (hL : covers L [.regs, .cores, .out, .time, .msix, .caches, .pwr, .sched] = true) : Touches L z (State.unloadImage s) := by
  unfold State.unloadImage
  exact Touches.set_sched (State.dropPlan_touches (State.idleAll_touches hz (covers_trans hL rfl)) (covers_trans hL rfl)) (covers_trans hL rfl)

theorem State.schedUnload_touches {L : List Part} {z0 : State} {u : List Nat} {s : State} (hz : Touches L z0 s)
    (hL : covers L [.regs, .cores, .out, .time, .msix, .caches, .pwr, .sched] = true) :
    Touches L z0 ((State.schedUnload u s).1) := by
  refine hz.andThen (A := [.regs, .cores, .out, .time, .msix, .caches, .pwr, .sched]) ?_ hL
  unfold State.schedUnload
  refine TouchesP.out ?_
  repeat' first
    | (with_reducible first | intro _ | assumption | exact Touches.refl | apply State.refuse_touches | apply State.unloadImage_touches
                            | apply Touches.ite | apply TouchesP.ite | apply TouchesP.pairIte)
    | exact rfl | extract_lets -underBinder | split
    | (with_reducible first | apply TouchesP.pair)
    | (show Touches _ _ (Prod.fst _); dsimp only)

theorem execSchedLoad_touches {via : Via} {image : Option SchedImage} {s : State} {t : State} (hx : execSchedLoad via image s = .next t) :
    Touches [.regs, .cores, .out, .counter, .time, .msix, .stack, .peat, .far, .caches, .pwr, .ud0, .ud1, .sched, .journal, .commands, .completions] s t := by
  obtain rfl := Host.Outcome.next.inj hx
  repeat' first
    | (with_reducible first | intro _ | assumption | exact Touches.refl | apply State.command_touches | apply State.schedLoad_touches)
    | exact rfl | extract_lets -underBinder | split
    | (show Touches _ _ (Prod.fst _); dsimp only)

theorem execSchedUnload_touches {via : Via} {s : State} {t : State} (hx : execSchedUnload via s = .next t) :
    Touches [.regs, .cores, .out, .time, .msix, .caches, .pwr, .sched, .journal, .commands, .completions] s t := by
  obtain rfl := Host.Outcome.next.inj hx
  repeat' first
    | (with_reducible first | intro _ | assumption | exact Touches.refl | apply State.command_touches | apply State.schedUnload_touches)
    | exact rfl | extract_lets -underBinder | split
    | (show Touches _ _ (Prod.fst _); dsimp only)

end Sys2Proof.Machine
end

