-- ==== Sys2Proof/Laws/Touch/MemRows.lean ====
section
/-!
SUPPORT. Laws/Touch/MemRows.lean: for each operation of Machine/MemRows.lean, what it can do: the queue stays, only the parts listed change, and the
registers and memories keep their canonical form.
-/

set_option linter.all false

namespace Sys2Proof.Machine

theorem answer_touches {L : List Part} {z0 : State} {id : Nat} {r : Rsp} (hz : Touches L z0 r.s) (hL : covers L [.out] = true) :
    Touches L z0 (answer id r) := by
  unfold answer
  repeat' first
    | (with_reducible first | intro _ | assumption | exact Touches.refl | apply State.emit_touches)
    | exact covers_trans hL rfl | extract_lets -underBinder | split

theorem State.cacheError_touches {L : List Part} {z0 : State} {s : State} {off : Nat} (hz : Touches L z0 s)
    (hL : covers L [.regs, .out, .msix, .caches] = true) :
    Touches L z0 (State.cacheError s off) := by
  refine hz.andThen (A := [.regs, .out, .msix, .caches]) ?_ hL
  unfold State.cacheError
  repeat' first
    | (with_reducible first | intro _ | assumption | exact Touches.refl | apply State.bump_touches | apply State.evict_touches
                            | apply State.raise_touches | apply State.wr_touches | apply Touches.ite)
    | exact rfl | extract_lets -underBinder | split

theorem execStackRead_touches {id : Nat} {addr : Nat} {len : Nat} {hint : Nat} {use : Nat} {errs : List (Nat × Nat)} {cacheErr : Bool} {s : State}
    {t : State} (hx : execStackRead id addr len hint use errs cacheErr s = .next t) : Touches [.regs, .out, .msix, .fab, .caches] s t := by
  obtain rfl := Host.Outcome.next.inj hx
  repeat' first
    | (with_reducible first | intro _ | assumption | exact Touches.refl | apply State.cacheError_touches | apply State.disturb_touches
                            | apply State.stackRead_touches | apply answer_touches | apply Touches.ite)
    | exact rfl | extract_lets -underBinder | split

theorem execStackWrite_touches {id : Nat} {addr : Nat} {hint : Nat} {use : Nat} {data : List Nat} {s : State} {t : State}
    (hx : execStackWrite id addr hint use data s = .next t) : Touches [.regs, .out, .msix, .stack, .caches] s t := by
  obtain rfl := Host.Outcome.next.inj hx
  repeat' first
    | (with_reducible first | intro _ | assumption | exact Touches.refl | apply State.stackWrite_touches | apply answer_touches)
    | exact rfl | extract_lets -underBinder | split

theorem State.atomic_touches {L : List Part} {z0 : State} {s : State} {off : Nat} {aop : Nat} {size : Nat} {op : Nat} {cmp : Nat} (hz :
    Touches L z0 s) (hL : covers L [.regs, .out, .msix, .fab, .stack, .caches] = true) :
    Touches L z0 ((State.atomic s off aop size op cmp).s) := by
  refine hz.andThen (A := [.regs, .out, .msix, .fab, .stack, .caches]) ?_ hL
  unfold State.atomic
  refine TouchesR.out ?_
  repeat' first
    | (with_reducible first | intro _ | assumption | exact Touches.refl | apply State.countUnmapped_touches | apply State.stackRead_touches
                            | apply State.stackWrite_touches | apply Touches.ite | apply TouchesR.ite)
    | exact rfl | extract_lets -underBinder | split
    | (with_reducible first | apply TouchesR.rsp)

theorem execStackAtomic_touches {id : Nat} {addr : Nat} {aop : Nat} {wide : Bool} {op : Nat} {cmp : Nat} {s : State} {t : State}
    (hx : execStackAtomic id addr aop wide op cmp s = .next t) : Touches [.regs, .out, .msix, .fab, .stack, .caches] s t := by
  obtain rfl := Host.Outcome.next.inj hx
  repeat' first
    | (with_reducible first | intro _ | assumption | exact Touches.refl | apply State.atomic_touches | apply answer_touches | apply Touches.ite)
    | exact rfl | extract_lets -underBinder | split

theorem execCacheFill_touches {k : Nat} {s : State} {t : State} (hx : execCacheFill k s = .next t) :
    Touches [.regs, .out, .msix, .fab, .caches] s t := by
  obtain rfl := Host.Outcome.next.inj hx
  repeat' first
    | (with_reducible first | intro _ | assumption | exact Touches.refl | apply State.landFill_touches | refine Touches.ofFst (by assumption) ?_)
    | exact rfl | extract_lets -underBinder | split

theorem execStackFault_touches {site : Nat} {ch : Nat} {dead : Bool} {s : State} {t : State} (hx : execStackFault site ch dead s = .next t) :
    Touches [.regs, .out, .msix, .fab, .caches] s t := by
  obtain rfl := Host.Outcome.next.inj hx
  repeat' first
    | (with_reducible first | intro _ | assumption | exact Touches.refl | apply State.dropLines_touches | apply State.fenceSite_touches
                            | apply State.wr_touches | apply Touches.ite)
    | exact rfl | extract_lets -underBinder | split

theorem execScrubRead_touches {unit : Nat} {errs : List (Nat × Nat)} {s : State} {t : State} (hx : execScrubRead unit errs s = .next t) :
    Touches [.regs, .out, .counter, .msix, .fab, .stack, .caches] s t := by
  obtain rfl := Host.Outcome.next.inj hx
  repeat' first
    | (with_reducible first | intro _ | assumption | exact Touches.refl | apply State.disturb_touches | apply State.dramRead_touches
                            | apply State.lineClean_touches | apply State.peatReadLine_touches | apply State.raise_touches | apply Touches.ite
                            | apply Touches.modMem | refine Touches.ofFst (by assumption) ?_)
    | exact rfl | extract_lets -underBinder
    | (refine ⟨?_, ?_, ?_, ?_, ?_, ?_, ?_⟩ <;> first
      | exact .inl (by decide) | exact .inr rfl | exact fun h => h | exact memStore_wf _ _ | exact memFilter_wf _)
    | split
    | dsimp +zetaDelta only

theorem execStackCeReadout_touches {site : Nat} {n : Nat} {s : State} {t : State} (hx : execStackCeReadout site n s = .next t) :
    Touches [.regs] s t := by
  obtain rfl := Host.Outcome.next.inj hx
  repeat' first
    | (with_reducible first | intro _ | assumption | exact Touches.refl | apply State.bump_touches | apply Touches.ite)
    | exact rfl | extract_lets -underBinder | split

theorem execPeatAccess_touches {id : Nat} {who : Nat} {addr : Nat} {write : Bool} {len : Nat} {data : List Nat} {errs : List (Nat × Nat)}
    {s : State} {t : State} (hx : execPeatAccess id who addr write len data errs s = .next t) :
    Touches [.regs, .out, .counter, .msix, .fab, .peat, .caches] s t := by
  obtain rfl := Host.Outcome.next.inj hx
  repeat' first
    | (with_reducible first | intro _ | assumption | exact Touches.refl | apply State.disturb_touches | apply State.peatForeign_touches
                            | apply State.peatRead_touches | apply State.peatWrite_touches | apply answer_touches | apply Touches.ite)
    | exact rfl | extract_lets -underBinder | split

theorem execModuleTemperatureRead_touches {die : Nat} {ch : Nat} {temp : Nat} {s : State} {t : State}
    (hx : execModuleTemperatureRead die ch temp s = .next t) : Touches [.regs, .out, .msix, .caches] s t := by
  obtain rfl := Host.Outcome.next.inj hx
  repeat' first
    | (with_reducible first | intro _ | assumption | exact Touches.refl | apply State.raise_touches | apply State.wr_touches | apply Touches.ite
                            | apply Touches.modMem)
    | exact rfl | extract_lets -underBinder
    | (refine ⟨?_, ?_, ?_, ?_, ?_, ?_, ?_⟩ <;> first
      | exact .inl (by decide) | exact .inr rfl | exact fun h => h | exact memStore_wf _ _ | exact memFilter_wf _)
    | split

theorem execModuleReportedFault_touches {die : Nat} {ch : Nat} {s : State} {t : State} (hx : execModuleReportedFault die ch s = .next t) :
    Touches [.regs, .out, .msix, .fab] s t := by
  obtain rfl := Host.Outcome.next.inj hx
  repeat' first
    | (with_reducible first | intro _ | assumption | exact Touches.refl | apply State.fenceDie_touches | apply Touches.ite)
    | exact rfl | extract_lets -underBinder | split

theorem execFarTierAccess_touches {id : Nat} {addr : Nat} {write : Bool} {len : Nat} {data : List Nat} {bad : Bool} {s : State} {t : State}
    (hx : execFarTierAccess id addr write len data bad s = .next t) : Touches [.out, .far, .caches] s t := by
  obtain rfl := Host.Outcome.next.inj hx
  repeat' first
    | (with_reducible first | intro _ | assumption | exact Touches.refl | apply State.farRead_touches | apply State.farWrite_touches
                            | apply answer_touches | apply Touches.ite | apply Touches.modMem)
    | exact rfl | extract_lets -underBinder
    | (refine ⟨?_, ?_, ?_, ?_, ?_, ?_, ?_⟩ <;> first
      | exact .inl (by decide) | exact .inr rfl | exact fun h => h | exact memStore_wf _ _ | exact memFilter_wf _)
    | split

theorem dieTimeout_touches {L : List Part} {z0 : State} {s : State} {d : Nat} {ord : Nat} {tier : Nat} {what : Nat} (hz : Touches L z0 s)
    (hL : covers L [.regs, .cores, .out, .counter, .msix, .fab, .stack, .peat, .far, .caches, .dir, .ud0, .ud1, .sched, .journal, .commands, .completions, .staged] = true) :
    Touches L z0 (dieTimeout s d ord tier what) := by
  refine hz.andThen (A := [.regs, .cores, .out, .counter, .msix, .fab, .stack, .peat, .far, .caches, .dir, .ud0, .ud1, .sched, .journal, .commands, .completions, .staged]) ?_ hL
  unfold dieTimeout
  repeat' first
    | (with_reducible first | intro _ | assumption | exact Touches.refl | apply State.countLate_touches | apply State.endXfer_touches
                            | apply State.modEnt_touches | apply State.modUd_touches | apply State.retire_touches | apply State.setXfer_touches
                            | apply State.udEnd_touches | apply Touches.ite | refine Touches.ofFst (by assumption) ?_)
    | exact rfl | extract_lets -underBinder | split

theorem incTimeout_touches {L : List Part} {z0 : State} {s : State} {b : Nat} {j : Job} (hz : Touches L z0 s)
    (hL : covers L [.regs, .cores, .out, .msix, .fab] = true) :
    Touches L z0 (incTimeout s b j) := by
  refine hz.andThen (A := [.regs, .cores, .out, .msix, .fab]) ?_ hL
  unfold incTimeout
  repeat' first
    | (with_reducible first | intro _ | assumption | exact Touches.refl | apply State.countLate_touches | apply State.dropJob_touches
                            | apply State.moveFail_touches | apply State.retire_touches | apply State.slipCheck_touches | apply Touches.ite)
    | exact rfl | extract_lets -underBinder | split

theorem moveTimeout_touches {L : List Part} {z0 : State} {s : State} {b : Nat} {j : Job} {tier : Nat} {row : Nat} (hz : Touches L z0 s)
    (hL : covers L [.regs, .cores, .out, .msix, .fab, .stack, .far, .caches, .dir] = true) :
    Touches L z0 (moveTimeout s b j tier row) := by
  refine hz.andThen (A := [.regs, .cores, .out, .msix, .fab, .stack, .far, .caches, .dir]) ?_ hL
  unfold moveTimeout
  repeat' first
    | (with_reducible first | intro _ | assumption | exact Touches.refl | apply State.countLate_touches | apply State.moveFailed_touches
                            | apply runMove_touches | apply Touches.ite | refine Touches.ofFst (by assumption) ?_)
    | exact rfl | extract_lets -underBinder | split
    | dsimp +zetaDelta only

theorem execTierTimeout_touches {core : Nat} {w : TierWait} {s : State} {t : State} (hx : execTierTimeout core w s = .next t) :
    Touches [.regs, .cores, .out, .counter, .msix, .fab, .stack, .peat, .far, .caches, .dir, .ud0, .ud1, .sched, .journal, .commands, .completions, .staged] s t := by
  obtain rfl := Host.Outcome.next.inj hx
  repeat' first
    | (with_reducible first | intro _ | assumption | exact Touches.refl | apply dieTimeout_touches | apply incTimeout_touches
                            | apply moveTimeout_touches | apply Touches.ite | refine Touches.ofFst (by assumption) ?_)
    | exact rfl | extract_lets -underBinder | split

theorem State.countLateReply_touches {L : List Part} {z0 : State} {s : State} {tier : Nat} (hz : Touches L z0 s)
    (hL : covers L [.regs, .out, .msix] = true) :
    Touches L z0 (State.countLateReply s tier) := by
  refine hz.andThen (A := [.regs, .out, .msix]) ?_ hL
  unfold State.countLateReply
  repeat' first
    | (with_reducible first | intro _ | assumption | exact Touches.refl | apply State.bump_touches | apply State.raise_touches
                            | refine Touches.ofFst (by assumption) ?_)
    | exact rfl | extract_lets -underBinder | split
    | dsimp +zetaDelta only

theorem execLateReply_touches {tier : Nat} {s : State} {t : State} (hx : execLateReply tier s = .next t) : Touches [.regs, .out, .msix] s t := by
  obtain rfl := Host.Outcome.next.inj hx
  repeat' first
    | (with_reducible first | intro _ | assumption | exact Touches.refl | apply State.countLateReply_touches)
    | exact rfl | extract_lets -underBinder | split

theorem State.afterTrans_touches {L : List Part} {z0 : State} {s : State} {l : List (Nat × Job)} (hz : Touches L z0 s)
    (hL : covers L [.regs, .cores, .out, .fab] = true) :
    Touches L z0 (State.afterTrans s l) := by
  refine hz.andThen (A := [.regs, .cores, .out, .fab]) ?_ hL
  unfold State.afterTrans
  repeat' first
    | (with_reducible first | intro _ | assumption | exact Touches.refl | apply State.startReads_touches | apply Touches.foldl
                            | apply Touches.foldlFst | refine Touches.ofFst (by assumption) ?_)
    | exact rfl | extract_lets -underBinder | split

theorem State.wakeMoves_touches {L : List Part} {z0 : State} {s : State} {id : Nat} (hz : Touches L z0 s)
    (hL : covers L [.regs, .cores, .out, .fab, .dir, .ud0, .ud1] = true) :
    Touches L z0 (State.wakeMoves s id) := by
  refine hz.andThen (A := [.regs, .cores, .out, .fab, .dir, .ud0, .ud1]) ?_ hL
  unfold State.wakeMoves
  repeat' first
    | (with_reducible first | intro _ | assumption | exact Touches.refl | apply State.afterTrans_touches | apply State.wake_touches
                            | refine Touches.ofFst (by assumption) ?_)
    | exact rfl | extract_lets -underBinder | split
    | dsimp +zetaDelta only

theorem State.walkMoves_touches {L : List Part} {z0 : State} {s : State} {id : Nat} {late : Bool} (hz : Touches L z0 s)
    (hL : covers L [.regs, .cores, .out, .msix, .fab, .caches, .dir, .ud0, .ud1] = true) :
    Touches L z0 (State.walkMoves s id late) := by
  refine hz.andThen (A := [.regs, .cores, .out, .msix, .fab, .caches, .dir, .ud0, .ud1]) ?_ hL
  unfold State.walkMoves
  repeat' first
    | (with_reducible first | intro _ | assumption | exact Touches.refl | apply State.afterTrans_touches | apply State.walkEnd_touches)
    | exact rfl | extract_lets -underBinder | split

theorem State.walkMovesNow_touches {L : List Part} {z0 : State} {s : State} {id : Nat} (hz : Touches L z0 s)
    (hL : covers L [.regs, .cores, .out, .msix, .fab, .caches, .dir, .ud0, .ud1] = true) :
    Touches L z0 (State.walkMovesNow s id) := by
  refine hz.andThen (A := [.regs, .cores, .out, .msix, .fab, .caches, .dir, .ud0, .ud1]) ?_ hL
  unfold State.walkMovesNow
  repeat' first
    | (with_reducible first | intro _ | assumption | exact Touches.refl | apply State.afterTrans_touches | apply State.walkNow_touches)
    | exact rfl | extract_lets -underBinder | split

theorem execDirectoryWalk_touches {id : Nat} {late : Bool} {s : State} {t : State} (hx : execDirectoryWalk id late s = .next t) :
    Touches [.regs, .cores, .out, .msix, .fab, .caches, .dir, .ud0, .ud1] s t := by
  obtain rfl := Host.Outcome.next.inj hx
  repeat' first
    | (with_reducible first | intro _ | assumption | exact Touches.refl | apply State.walkMoves_touches)
    | exact rfl | extract_lets -underBinder | split

end Sys2Proof.Machine
end

