-- ==== Sys2Proof/Laws/Touch/Fabric.lean ====
section
/-!
SUPPORT. Laws/Touch/Fabric.lean: for each operation of Machine/Fabric.lean, what it can do: the queue stays, only the parts listed change, and the
registers and memories keep their canonical form.
-/

set_option linter.all false

namespace Sys2Proof.Machine

theorem State.setPort_touches {L : List Part} {z0 : State} {s : State} {p : Nat} {v : Nat} (hz : Touches L z0 s) (hL : covers L [.regs] = true) :
    Touches L z0 (State.setPort s p v) := by
  refine hz.andThen (A := [.regs]) ?_ hL
  unfold State.setPort
  repeat' first
    | (with_reducible first | intro _ | assumption | exact Touches.refl | apply State.bump_touches | apply State.wr_touches | apply Touches.ite)
    | exact rfl | extract_lets -underBinder | split

theorem State.laneUse_touches {L : List Part} {z0 : State} {s : State} {p : Nat} {l : Nat} {on : Bool} (hz : Touches L z0 s)
    (hL : covers L [.regs] = true) :
    Touches L z0 (State.laneUse s p l on) := by
  refine hz.andThen (A := [.regs]) ?_ hL
  unfold State.laneUse
  repeat' first
    | (with_reducible first | intro _ | assumption | exact Touches.refl | apply State.wr_touches | apply Touches.ite)
    | exact rfl | extract_lets -underBinder | split

theorem State.sendLink_touches {L : List Part} {z0 : State} {s : State} {port : Nat} {typ : Nat} {words : List Nat} (hz : Touches L z0 s)
    (hL : covers L [.regs, .out, .fab] = true) :
    Touches L z0 (State.sendLink s port typ words) := by
  refine hz.andThen (A := [.regs, .out, .fab]) ?_ hL
  unfold State.sendLink
  repeat' first
    | (with_reducible first | intro _ | assumption | exact Touches.refl | apply State.linkNext_touches | apply State.transmit_touches)
    | exact rfl | extract_lets -underBinder | split

theorem State.sendDisc_touches {L : List Part} {z0 : State} {s : State} {port : Nat} (hz : Touches L z0 s)
    (hL : covers L [.regs, .out, .fab] = true) :
    Touches L z0 (State.sendDisc s port) := by
  refine hz.andThen (A := [.regs, .out, .fab]) ?_ hL
  unfold State.sendDisc
  repeat' first
    | (with_reducible first | intro _ | assumption | exact Touches.refl | apply State.launch_touches | apply State.linkNext_touches)
    | exact rfl | extract_lets -underBinder | split

theorem State.resendAll_touches {L : List Part} {z0 : State} {s : State} {l : List Packet} (hz : Touches L z0 s)
    (hL : covers L [.regs, .out, .fab] = true) :
    Touches L z0 (State.resendAll s l) := by
  refine hz.andThen (A := [.regs, .out, .fab]) ?_ hL
  unfold State.resendAll
  repeat' first
    | (with_reducible first | intro _ | assumption | exact Touches.refl | apply State.send_touches | apply Touches.foldl | apply Touches.foldlFst
                            | apply Touches.modFab | refine Touches.ofFst (by assumption) ?_ | refine Touches.ofOpt (by assumption) ?_)
    | exact rfl | extract_lets -underBinder | split

theorem State.portFail_touches {L : List Part} {z0 : State} {s : State} {p : Nat} (hz : Touches L z0 s)
    (hL : covers L [.regs, .out, .msix, .fab] = true) :
    Touches L z0 (State.portFail s p) := by
  refine hz.andThen (A := [.regs, .out, .msix, .fab]) ?_ hL
  unfold State.portFail
  repeat' first
    | (with_reducible first | intro _ | assumption | exact Touches.refl | apply State.health_touches | apply State.laneUse_touches
                            | apply State.modPort_touches | apply State.raise_touches | apply State.resendAll_touches | apply State.setPort_touches
                            | apply Touches.ite | apply Touches.foldl | apply Touches.foldlFst)
    | exact rfl | extract_lets -underBinder | split

theorem State.laneFail_touches {L : List Part} {z0 : State} {s : State} {p : Nat} {slot : Nat} (hz : Touches L z0 s)
    (hL : covers L [.regs, .out, .msix, .fab] = true) :
    Touches L z0 (State.laneFail s p slot) := by
  refine hz.andThen (A := [.regs, .out, .msix, .fab]) ?_ hL
  unfold State.laneFail
  repeat' first
    | (with_reducible first | intro _ | assumption | exact Touches.refl | apply State.modPort_touches | apply State.portFail_touches
                            | apply State.sendCtl_touches | apply State.setPort_touches | apply Touches.ite | refine Touches.ofFst (by assumption) ?_)
    | exact rfl | extract_lets -underBinder | split
    | dsimp +zetaDelta only

theorem State.takeSpare_touches {L : List Part} {z0 : State} {s : State} {p : Nat} {slot : Nat} {l : Nat} (hz : Touches L z0 s)
    (hL : covers L [.regs, .out, .msix] = true) :
    Touches L z0 (State.takeSpare s p slot l) := by
  refine hz.andThen (A := [.regs, .out, .msix]) ?_ hL
  unfold State.takeSpare
  repeat' first
    | (with_reducible first | intro _ | assumption | exact Touches.refl | apply State.laneUse_touches | apply State.raise_touches
                            | apply State.wr_touches)
    | exact rfl | extract_lets -underBinder | split

theorem State.replayAll_touches {L : List Part} {z0 : State} {s : State} {p : Nat} (hz : Touches L z0 s) (hL : covers L [.out] = true) :
    Touches L z0 (State.replayAll s p) := by
  refine hz.andThen (A := [.out]) ?_ hL
  unfold State.replayAll
  repeat' first
    | (with_reducible first | intro _ | assumption | exact Touches.refl | apply State.emit_touches | refine Touches.ofFst (by assumption) ?_)
    | exact rfl | extract_lets -underBinder | split

theorem State.gotSwitch_touches {L : List Part} {z0 : State} {s : State} {p : Nat} {slot : Nat} {spare : Nat} (hz : Touches L z0 s)
    (hL : covers L [.regs, .out, .msix, .fab] = true) :
    Touches L z0 (State.gotSwitch s p slot spare) := by
  refine hz.andThen (A := [.regs, .out, .msix, .fab]) ?_ hL
  unfold State.gotSwitch
  repeat' first
    | (with_reducible first | intro _ | assumption | exact Touches.refl | apply State.drainPort_touches | apply State.modPort_touches
                            | apply State.replayAll_touches | apply State.sendCtl_touches | apply State.setPort_touches
                            | apply State.takeSpare_touches | apply Touches.ite | refine Touches.ofFst (by assumption) ?_)
    | exact rfl | extract_lets -underBinder | split
    | dsimp +zetaDelta only

theorem State.gotNak_touches {L : List Part} {z0 : State} {s : State} {p : Nat} {seq : Nat} (hz : Touches L z0 s)
    (hL : covers L [.regs, .out, .fab] = true) :
    Touches L z0 (State.gotNak s p seq) := by
  refine hz.andThen (A := [.regs, .out, .fab]) ?_ hL
  unfold State.gotNak
  repeat' first
    | (with_reducible first | intro _ | assumption | exact Touches.refl | apply State.bump_touches | apply State.emit_touches
                            | apply State.modPort_touches | apply Touches.ite)
    | exact rfl | extract_lets -underBinder | split

theorem State.gotAck_touches {L : List Part} {z0 : State} {s : State} {p : Nat} {ack : Nat} (hz : Touches L z0 s) (hL : covers L [.fab] = true) :
    Touches L z0 (State.gotAck s p ack) := by
  refine hz.andThen (A := [.fab]) ?_ hL
  unfold State.gotAck
  repeat' first
    | (with_reducible first | intro _ | assumption | exact Touches.refl | apply State.modPort_touches)
    | exact rfl | extract_lets -underBinder | split

theorem State.gotCredit_touches {L : List Part} {z0 : State} {s : State} {p : Nat} {vc : Nat} {cls : Nat} {n : Nat} (hz : Touches L z0 s)
    (hL : covers L [.regs, .out, .fab] = true) :
    Touches L z0 (State.gotCredit s p vc cls n) := by
  refine hz.andThen (A := [.regs, .out, .fab]) ?_ hL
  unfold State.gotCredit
  repeat' first
    | (with_reducible first | intro _ | assumption | exact Touches.refl | apply State.drainPort_touches | apply State.modPort_touches)
    | exact rfl | extract_lets -underBinder | split

theorem State.gotPause_touches {L : List Part} {z0 : State} {s : State} {p : Nat} (hz : Touches L z0 s) (hL : covers L [.fab] = true) :
    Touches L z0 (State.gotPause s p) := by
  refine hz.andThen (A := [.fab]) ?_ hL
  unfold State.gotPause
  repeat' first
    | (with_reducible first | intro _ | assumption | exact Touches.refl | apply State.modPort_touches)
    | exact rfl | extract_lets -underBinder | split

theorem State.sendNak_touches {L : List Part} {z0 : State} {s : State} {p : Nat} (hz : Touches L z0 s) (hL : covers L [.regs, .out, .fab] = true) :
    Touches L z0 (State.sendNak s p) := by
  refine hz.andThen (A := [.regs, .out, .fab]) ?_ hL
  unfold State.sendNak
  repeat' first
    | (with_reducible first | intro _ | assumption | exact Touches.refl | apply State.modPort_touches | apply State.sendCtl_touches)
    | exact rfl | extract_lets -underBinder | split

theorem State.gotResume_touches {L : List Part} {z0 : State} {s : State} {p : Nat} {seq : Nat} (hz : Touches L z0 s)
    (hL : covers L [.regs, .out, .fab] = true) :
    Touches L z0 (State.gotResume s p seq) := by
  refine hz.andThen (A := [.regs, .out, .fab]) ?_ hL
  unfold State.gotResume
  repeat' first
    | (with_reducible first | intro _ | assumption | exact Touches.refl | apply State.modPort_touches | apply State.sendNak_touches
                            | apply Touches.ite)
    | exact rfl | extract_lets -underBinder | split

theorem State.linkEntry_touches {L : List Part} {z0 : State} {s : State} {p : Nat} {e : Nat} (hz : Touches L z0 s)
    (hL : covers L [.regs, .out, .msix, .fab] = true) :
    Touches L z0 (State.linkEntry s p e) := by
  refine hz.andThen (A := [.regs, .out, .msix, .fab]) ?_ hL
  unfold State.linkEntry
  repeat' first
    | (with_reducible first | intro _ | assumption | exact Touches.refl | apply State.gotCredit_touches | apply State.gotNak_touches
                            | apply State.gotPause_touches | apply State.gotResume_touches | apply State.gotSwitch_touches
                            | refine Touches.ofFst (by assumption) ?_)
    | exact rfl | extract_lets -underBinder | split

theorem State.returnCredits_touches {L : List Part} {z0 : State} {s : State} {p : Nat} (hz : Touches L z0 s)
    (hL : covers L [.regs, .out, .fab] = true) :
    Touches L z0 (State.returnCredits s p) := by
  refine hz.andThen (A := [.regs, .out, .fab]) ?_ hL
  unfold State.returnCredits
  repeat' first
    | (with_reducible first | intro _ | assumption | exact Touches.refl | apply State.modPort_touches | apply State.sendCtl_touches
                            | apply Touches.ite | apply Touches.foldl | apply Touches.foldlFst)
    | exact rfl | extract_lets -underBinder | split

theorem State.takeRx_touches {L : List Part} {z0 : State} {s : State} {port : Nat} {p : Packet} (hz : Touches L z0 s)
    (hL : covers L [.regs, .out, .fab] = true) :
    Touches L z0 (State.takeRx s port p) := by
  refine hz.andThen (A := [.regs, .out, .fab]) ?_ hL
  unfold State.takeRx
  repeat' first
    | (with_reducible first | intro _ | assumption | exact Touches.refl | apply State.modPort_touches | apply State.returnCredits_touches
                            | apply Touches.ite)
    | exact rfl | extract_lets -underBinder | split

theorem State.endWhere_touches {L : List Part} {z0 : State} {s : State} {hit : Nat → Nat → Nat → Bool} (hz : Touches L z0 s)
    (hL : covers L [.regs, .cores, .out, .msix, .fab, .dir, .ud0, .ud1] = true) :
    Touches L z0 ((State.endWhere s hit).1) := by
  refine hz.andThen (A := [.regs, .cores, .out, .msix, .fab, .dir, .ud0, .ud1]) ?_ hL
  unfold State.endWhere
  refine TouchesP.out ?_
  repeat' first
    | (with_reducible first | intro _ | assumption | exact Touches.refl | apply State.bump_touches | apply State.dropJob_touches
                            | apply State.moveFail_touches | apply State.moveFailed_touches | apply State.raise_touches
                            | apply State.slipCheck_touches | apply State.udEnd_touches | apply Touches.ite | apply TouchesP.ite
                            | apply TouchesP.pairIte | apply Touches.foldl | apply Touches.foldlFst)
    | exact rfl | extract_lets -underBinder | split
    | (with_reducible first | apply TouchesP.pair)
    | (show Touches _ _ (Prod.fst _); dsimp only)

theorem State.endTo_touches {L : List Part} {z0 : State} {s : State} {n : Nat} (hz : Touches L z0 s)
    (hL : covers L [.regs, .cores, .out, .msix, .fab, .caches, .dir, .ud0, .ud1] = true) :
    Touches L z0 (State.endTo s n) := by
  refine hz.andThen (A := [.regs, .cores, .out, .msix, .fab, .caches, .dir, .ud0, .ud1]) ?_ hL
  unfold State.endTo
  repeat' first
    | (with_reducible first | intro _ | assumption | exact Touches.refl | apply State.cancelProbes_touches | apply State.endWhere_touches
                            | apply Touches.foldl | apply Touches.foldlFst)
    | exact rfl | extract_lets -underBinder | split
    | (show Touches _ _ (Prod.fst _); dsimp only)

theorem State.learnGen_touches {L : List Part} {z0 : State} {s : State} {n : Nat} {g : Nat} (hz : Touches L z0 s)
    (hL : covers L [.regs, .cores, .out, .msix, .fab, .caches, .dir, .ud0, .ud1] = true) :
    Touches L z0 (State.learnGen s n g) := by
  refine hz.andThen (A := [.regs, .cores, .out, .msix, .fab, .caches, .dir, .ud0, .ud1]) ?_ hL
  unfold State.learnGen
  repeat' first
    | (with_reducible first | intro _ | assumption | exact Touches.refl | apply State.endTo_touches | apply Touches.ite | apply Touches.modFab)
    | exact rfl | extract_lets -underBinder | split

theorem State.reply_touches {L : List Part} {z0 : State} {s : State} {p : Packet} (hz : Touches L z0 s) (hL : covers L [.regs, .out, .fab] = true) :
    Touches L z0 (State.reply s p) := by
  refine hz.andThen (A := [.regs, .out, .fab]) ?_ hL
  unfold State.reply
  repeat' first
    | (with_reducible first | intro _ | assumption | exact Touches.refl | apply State.bump_touches | apply State.send_touches
                            | refine Touches.ofFst (by assumption) ?_ | refine Touches.ofOpt (by assumption) ?_)
    | exact rfl | extract_lets -underBinder | split

theorem State.forward_touches {L : List Part} {z0 : State} {s : State} {port : Nat} {p : Packet} (hz : Touches L z0 s)
    (hL : covers L [.regs, .out, .msix, .fab] = true) :
    Touches L z0 (State.forward s port p) := by
  refine hz.andThen (A := [.regs, .out, .msix, .fab]) ?_ hL
  unfold State.forward
  repeat' first
    | (with_reducible first | intro _ | assumption | exact Touches.refl | apply State.bump_touches | apply State.raise_touches
                            | apply State.send_touches | apply Touches.ite | refine Touches.ofFst (by assumption) ?_
                            | refine Touches.ofOpt (by assumption) ?_)
    | exact rfl | extract_lets -underBinder | split
    | dsimp +zetaDelta only

theorem execSignalDetected_touches {port : Nat} {s : State} {t : State} (hx : execSignalDetected port s = .next t) : Touches [.regs] s t := by
  obtain rfl := Host.Outcome.next.inj hx
  repeat' first
    | (with_reducible first | intro _ | assumption | exact Touches.refl | apply State.setPort_touches | apply Touches.ite)
    | exact rfl | extract_lets -underBinder | split

theorem execTrainingComplete_touches {port : Nat} {skew : Nat} {ok : Bool} {s : State} {t : State}
    (hx : execTrainingComplete port skew ok s = .next t) : Touches [.regs, .out, .fab] s t := by
  obtain rfl := Host.Outcome.next.inj hx
  repeat' first
    | (with_reducible first | intro _ | assumption | exact Touches.refl | apply State.laneUse_touches | apply State.modPort_touches
                            | apply State.sendDisc_touches | apply State.setPort_touches | apply State.setReg_touches | apply State.wr_touches
                            | apply Touches.ite | apply Touches.foldl | apply Touches.foldlFst)
    | exact rfl | extract_lets -underBinder | split

theorem execDisc_touches {port : Nat} {id : Ident} {s : State} {t : State} (hx : execDisc port id s = .next t) :
    Touches [.regs, .cores, .out, .msix, .fab, .caches, .dir, .ud0, .ud1, .rm] s t := by
  obtain rfl := Host.Outcome.next.inj hx
  repeat' first
    | (with_reducible first | intro _ | assumption | exact Touches.refl | apply State.learnGen_touches | apply State.modPort_touches
                            | apply State.raise_touches | apply State.setEnrol_touches | apply State.setPort_touches | apply State.takeRx_touches
                            | apply State.wr_touches | apply Touches.ite | refine Touches.ofFst (by assumption) ?_)
    | exact rfl | extract_lets -underBinder | split
    | dsimp +zetaDelta only

theorem State.keepRx_touches {L : List Part} {z0 : State} {s : State} {port : Nat} {l : List Packet} (hz : Touches L z0 s)
    (hL : covers L [.regs, .fab] = true) :
    Touches L z0 (State.keepRx s port l) := by
  refine hz.andThen (A := [.regs, .fab]) ?_ hL
  unfold State.keepRx
  repeat' first
    | (with_reducible first | intro _ | assumption | exact Touches.refl | apply State.bump_touches | apply State.modPort_touches)
    | exact rfl | extract_lets -underBinder | split

theorem execFlitReceive_touches {port : Nat} {head : List Nat} {body : List Nat} {crc : List Nat} {errA : Nat} {errB : Nat} {s : State} {t : State}
    (hx : execFlitReceive port head body crc errA errB s = .next t) : Touches [.regs, .out, .msix, .fab] s t := by
  obtain rfl := Host.Outcome.next.inj hx
  repeat' first
    | (with_reducible first | intro _ | assumption | exact Touches.refl | apply State.bump_touches | apply State.drainPort_touches
                            | apply State.gotAck_touches | apply State.keepRx_touches | apply State.linkEntry_touches | apply State.modPort_touches
                            | apply State.returnCredits_touches | apply State.sendNak_touches | apply Touches.ite | apply Touches.foldl
                            | apply Touches.foldlFst)
    | exact rfl | extract_lets -underBinder | split

theorem execLinkControlNak_touches {port : Nat} {seq : Nat} {s : State} {t : State} (hx : execLinkControlNak port seq s = .next t) :
    Touches [.regs, .out, .fab] s t := by
  obtain rfl := Host.Outcome.next.inj hx
  repeat' first
    | (with_reducible first | intro _ | assumption | exact Touches.refl | apply State.gotNak_touches | apply Touches.ite)
    | exact rfl | extract_lets -underBinder | split

theorem execCredit_touches {port : Nat} {vc : Nat} {cls : Nat} {count : Nat} {s : State} {t : State}
    (hx : execCredit port vc cls count s = .next t) : Touches [.regs, .out, .fab] s t := by
  obtain rfl := Host.Outcome.next.inj hx
  repeat' first
    | (with_reducible first | intro _ | assumption | exact Touches.refl | apply State.gotCredit_touches | apply Touches.ite)
    | exact rfl | extract_lets -underBinder | split

theorem execSwitch_touches {port : Nat} {e : SwitchEntry} {s : State} {t : State} (hx : execSwitch port e s = .next t) :
    Touches [.regs, .out, .msix, .fab] s t := by
  obtain rfl := Host.Outcome.next.inj hx
  repeat' first
    | (with_reducible first | intro _ | assumption | exact Touches.refl | apply State.gotSwitch_touches)
    | exact rfl | extract_lets -underBinder | split

theorem execPause_touches {port : Nat} {s : State} {t : State} (hx : execPause port s = .next t) : Touches [.fab] s t := by
  obtain rfl := Host.Outcome.next.inj hx
  repeat' first
    | (with_reducible first | intro _ | assumption | exact Touches.refl | apply State.gotPause_touches | apply Touches.ite)
    | exact rfl | extract_lets -underBinder | split

theorem execResume_touches {e : ResumeEntry} {s : State} {t : State} (hx : execResume e s = .next t) : Touches [.regs, .out, .fab] s t := by
  obtain rfl := Host.Outcome.next.inj hx
  repeat' first
    | (with_reducible first | intro _ | assumption | exact Touches.refl | apply State.gotResume_touches | apply Touches.ite)
    | exact rfl | extract_lets -underBinder | split

theorem execLaneErrorWindow_touches {die : Nat} {ln : Nat} {ser : Nat} {unc : Nat} {s : State} {t : State}
    (hx : execLaneErrorWindow die ln ser unc s = .next t) : Touches [.regs, .out, .msix, .fab] s t := by
  obtain rfl := Host.Outcome.next.inj hx
  repeat' first
    | (with_reducible first | intro _ | assumption | exact Touches.refl | apply State.bump_touches | apply State.laneFail_touches
                            | apply State.modPort_touches | apply State.portFail_touches | apply State.wr_touches | apply Touches.ite
                            | refine Touches.ofFst (by assumption) ?_)
    | exact rfl | extract_lets -underBinder | split
    | dsimp +zetaDelta only

theorem execMarkerLockLoss_touches {die : Nat} {ln : Nat} {s : State} {t : State} (hx : execMarkerLockLoss die ln s = .next t) :
    Touches [.regs, .out, .msix, .fab] s t := by
  obtain rfl := Host.Outcome.next.inj hx
  repeat' first
    | (with_reducible first | intro _ | assumption | exact Touches.refl | apply State.laneFail_touches | apply State.portFail_touches
                            | apply State.wr_touches | apply Touches.ite | refine Touches.ofFst (by assumption) ?_)
    | exact rfl | extract_lets -underBinder | split
    | dsimp +zetaDelta only

theorem execSwitchTimeout_touches {port : Nat} {s : State} {t : State} (hx : execSwitchTimeout port s = .next t) :
    Touches [.regs, .out, .msix, .fab] s t := by
  obtain rfl := Host.Outcome.next.inj hx
  repeat' first
    | (with_reducible first | intro _ | assumption | exact Touches.refl | apply State.portFail_touches | apply Touches.ite)
    | exact rfl | extract_lets -underBinder | split

theorem execPortFailure_touches {port : Nat} {s : State} {t : State} (hx : execPortFailure port s = .next t) :
    Touches [.regs, .out, .msix, .fab] s t := by
  obtain rfl := Host.Outcome.next.inj hx
  repeat' first
    | (with_reducible first | intro _ | assumption | exact Touches.refl | apply State.portFail_touches)
    | exact rfl | extract_lets -underBinder | split

theorem execTransitForward_touches {port : Nat} {p : Packet} {s : State} {t : State} (hx : execTransitForward port p s = .next t) :
    Touches [.regs, .out, .msix, .fab] s t := by
  obtain rfl := Host.Outcome.next.inj hx
  repeat' first
    | (with_reducible first | intro _ | assumption | exact Touches.refl | apply State.forward_touches | apply State.takeRx_touches
                            | apply Touches.ite)
    | exact rfl | extract_lets -underBinder | split

end Sys2Proof.Machine
end

