-- ==== Sys2Proof/Laws/Touch/FabPackets.lean ====
section
/-!
SUPPORT. Laws/Touch/FabPackets.lean: for each operation of Machine/FabPackets.lean, what it can do: the queue stays, only the parts listed change, and the
registers and memories keep their canonical form.
-/

set_option linter.all false

namespace Sys2Proof.Machine

theorem State.arrive_touches {L : List Part} {z0 : State} {s : State} {port : Nat} {p : Packet} {typ : Nat} (hz : Touches L z0 s)
    (hL : covers L [.regs, .out, .msix, .fab] = true) :
    Touches L z0 ((State.arrive s port p typ).1) := by
  refine hz.andThen (A := [.regs, .out, .msix, .fab]) ?_ hL
  unfold State.arrive
  refine TouchesP.out ?_
  repeat' first
    | (with_reducible first | intro _ | assumption | exact Touches.refl | apply State.bump_touches | apply State.forward_touches
                            | apply State.raise_touches | apply State.takeRx_touches | apply Touches.ite | apply TouchesP.ite
                            | apply TouchesP.pairIte)
    | exact rfl | extract_lets -underBinder | split
    | (with_reducible first | apply TouchesP.pair)
    | (show Touches _ _ (Prod.fst _); dsimp only)

theorem State.request_touches {L : List Part} {z0 : State} {s : State} {port : Nat} {p : Packet} {typ : Nat} {f : State → Packet → State}
    (hz : Touches L z0 s) (hL : covers L [.regs, .out, .msix, .fab] = true)
    (h_f : ∀ a0 a1, Touches L z0 a0 → Touches L z0 (f a0 a1)) :
    Touches L z0 (State.request s port p typ f) := by
  unfold State.request
  repeat' first
    | (with_reducible first | intro _ | assumption | exact Touches.refl | apply h_f | apply State.arrive_touches | apply State.bump_touches
                            | apply State.reply_touches | apply Touches.ite | refine Touches.ofFst (by assumption) ?_)
    | exact covers_trans hL rfl | extract_lets -underBinder | split
    | (show Touches _ _ (Prod.fst _); dsimp only)
    | dsimp +zetaDelta only

theorem State.unmapped_touches {L : List Part} {z0 : State} {s : State} {p : Packet} (hz : Touches L z0 s)
    (hL : covers L [.regs, .out, .fab] = true) :
    Touches L z0 (State.unmapped s p) := by
  refine hz.andThen (A := [.regs, .out, .fab]) ?_ hL
  unfold State.unmapped
  repeat' first
    | (with_reducible first | intro _ | assumption | exact Touches.refl | apply State.reply_touches)
    | exact rfl | extract_lets -underBinder | split

theorem State.serveRd_touches {L : List Part} {z0 : State} {s : State} {p : Packet} (hz : Touches L z0 s)
    (hL : covers L [.regs, .out, .msix, .fab, .caches] = true) :
    Touches L z0 (State.serveRd s p) := by
  refine hz.andThen (A := [.regs, .out, .msix, .fab, .caches]) ?_ hL
  unfold State.serveRd
  repeat' first
    | (with_reducible first | intro _ | assumption | exact Touches.refl | apply State.hallRead_touches | apply State.reply_touches
                            | apply State.unmapped_touches | apply Touches.ite)
    | exact rfl | extract_lets -underBinder | split

theorem State.serveWr_touches {L : List Part} {z0 : State} {s : State} {p : Packet} (hz : Touches L z0 s)
    (hL : covers L [.regs, .out, .msix, .fab, .stack, .far, .caches] = true) :
    Touches L z0 (State.serveWr s p) := by
  refine hz.andThen (A := [.regs, .out, .msix, .fab, .stack, .far, .caches]) ?_ hL
  unfold State.serveWr
  repeat' first
    | (with_reducible first | intro _ | assumption | exact Touches.refl | apply State.hallWrite_touches | apply State.reply_touches
                            | apply State.unmapped_touches | apply Touches.ite)
    | exact rfl | extract_lets -underBinder | split

theorem State.serveRdp_touches {L : List Part} {z0 : State} {s : State} {p : Packet} (hz : Touches L z0 s)
    (hL : covers L [.regs, .out, .msix, .fab, .caches] = true) :
    Touches L z0 (State.serveRdp s p) := by
  refine hz.andThen (A := [.regs, .out, .msix, .fab, .caches]) ?_ hL
  unfold State.serveRdp
  repeat' first
    | (with_reducible first | intro _ | assumption | exact Touches.refl | apply State.bump_touches | apply State.probeLine_touches
                            | apply State.reply_touches | apply State.unmapped_touches | apply Touches.ite | apply Touches.foldl
                            | apply Touches.foldlFst)
    | exact rfl | extract_lets -underBinder | split

theorem State.keepDup_touches {L : List Part} {z0 : State} {s : State} {p : Packet} {rsp : Packet} (hz : Touches L z0 s)
    (hL : covers L [.regs, .out, .msix, .fab] = true) :
    Touches L z0 (State.keepDup s p rsp) := by
  refine hz.andThen (A := [.regs, .out, .msix, .fab]) ?_ hL
  unfold State.keepDup
  repeat' first
    | (with_reducible first | intro _ | assumption | exact Touches.refl | apply State.raise_touches | apply Touches.ite | apply Touches.modFab)
    | exact rfl | extract_lets -underBinder | split

theorem State.once_touches {L : List Part} {z0 : State} {s : State} {p : Packet} {f : State → Packet → State × Packet} (hz : Touches L z0 s)
    (hL : covers L [.regs, .out, .msix, .fab] = true)
    (h_f : ∀ a0 a1, Touches L z0 a0 → Touches L z0 (f a0 a1).1) :
    Touches L z0 (State.once s p f) := by
  unfold State.once
  repeat' first
    | (with_reducible first | intro _ | assumption | exact Touches.refl | apply h_f | apply State.bump_touches | apply State.keepDup_touches
                            | apply State.reply_touches | apply Touches.ite | refine Touches.ofFst (by assumption) ?_)
    | exact covers_trans hL rfl | extract_lets -underBinder | split
    | dsimp +zetaDelta only

theorem State.serveAt_touches {L : List Part} {z0 : State} {s : State} {p : Packet} (hz : Touches L z0 s)
    (hL : covers L [.regs, .out, .msix, .fab, .stack, .caches] = true) :
    Touches L z0 ((State.serveAt s p).1) := by
  refine hz.andThen (A := [.regs, .out, .msix, .fab, .stack, .caches]) ?_ hL
  unfold State.serveAt
  refine TouchesP.out ?_
  repeat' first
    | (with_reducible first | intro _ | assumption | exact Touches.refl | apply State.atomic_touches | apply Touches.ite | apply TouchesP.ite
                            | apply TouchesP.pairIte)
    | exact rfl | extract_lets -underBinder | split
    | (with_reducible first | apply TouchesP.pair)
    | (show Touches _ _ (Prod.fst _); dsimp only)

theorem State.serveInc_touches {L : List Part} {z0 : State} {s : State} {p : Packet} (hz : Touches L z0 s) (hL : covers L [.regs] = true) :
    Touches L z0 ((State.serveInc s p).1) := by
  refine hz.andThen (A := [.regs]) ?_ hL
  unfold State.serveInc
  refine TouchesP.out ?_
  repeat' first
    | (with_reducible first | intro _ | assumption | exact Touches.refl | apply State.applyInc_touches | apply State.bump_touches)
    | exact rfl | extract_lets -underBinder | split
    | (with_reducible first | apply TouchesP.pair)
    | (show Touches _ _ (Prod.fst _); dsimp only)

theorem State.coreReply_touches {L : List Part} {z0 : State} {s : State} {b : Nat} {j : Job} {p : Packet} (hz : Touches L z0 s)
    (hL : covers L [.regs, .cores, .incs, .out, .msix, .fab] = true) :
    Touches L z0 (State.coreReply s b j p) := by
  refine hz.andThen (A := [.regs, .cores, .incs, .out, .msix, .fab]) ?_ hL
  unfold State.coreReply
  repeat' first
    | (with_reducible first | intro _ | assumption | exact Touches.refl | apply State.dropJob_touches | apply State.finish_touches
                            | apply State.moveFail_touches | apply State.setJob_touches | apply State.slipCheck_touches | apply Touches.ite
                            | refine Touches.ofFst (by assumption) ?_)
    | exact rfl | extract_lets -underBinder | split
    | dsimp +zetaDelta only

theorem State.response_touches {L : List Part} {z0 : State} {s : State} {port : Nat} {p : Packet} {typ : Nat} (hz : Touches L z0 s)
    (hL : covers L [.regs, .cores, .incs, .out, .msix, .fab, .ud0, .ud1] = true) :
    Touches L z0 (State.response s port p typ) := by
  refine hz.andThen (A := [.regs, .cores, .incs, .out, .msix, .fab, .ud0, .ud1]) ?_ hL
  unfold State.response
  repeat' first
    | (with_reducible first | intro _ | assumption | exact Touches.refl | apply State.arrive_touches | apply State.bump_touches
                            | apply State.coreReply_touches | apply State.countLateReply_touches | apply State.udReply_touches | apply Touches.ite
                            | apply Touches.modFab | refine Touches.ofFst (by assumption) ?_)
    | exact rfl | extract_lets -underBinder | split
    | (show Touches _ _ (Prod.fst _); dsimp only)
    | dsimp +zetaDelta only

theorem execFabRd_touches {port : Nat} {p : Packet} {s : State} {t : State} (hx : execFabRd port p s = .next t) :
    Touches [.regs, .out, .msix, .fab, .caches] s t := by
  obtain rfl := Host.Outcome.next.inj hx
  repeat' first
    | (with_reducible first | intro _ | assumption | exact Touches.refl | apply State.request_touches | apply State.serveRd_touches)
    | exact rfl | extract_lets -underBinder | split

theorem execFabRdp_touches {port : Nat} {p : Packet} {s : State} {t : State} (hx : execFabRdp port p s = .next t) :
    Touches [.regs, .out, .msix, .fab, .caches] s t := by
  obtain rfl := Host.Outcome.next.inj hx
  repeat' first
    | (with_reducible first | intro _ | assumption | exact Touches.refl | apply State.request_touches | apply State.serveRdp_touches)
    | exact rfl | extract_lets -underBinder | split

theorem execFabWr_touches {port : Nat} {p : Packet} {s : State} {t : State} (hx : execFabWr port p s = .next t) :
    Touches [.regs, .out, .msix, .fab, .stack, .far, .caches] s t := by
  obtain rfl := Host.Outcome.next.inj hx
  repeat' first
    | (with_reducible first | intro _ | assumption | exact Touches.refl | apply State.request_touches | apply State.serveWr_touches)
    | exact rfl | extract_lets -underBinder | split

theorem execFabAt_touches {port : Nat} {p : Packet} {s : State} {t : State} (hx : execFabAt port p s = .next t) :
    Touches [.regs, .out, .msix, .fab, .stack, .caches] s t := by
  obtain rfl := Host.Outcome.next.inj hx
  repeat' first
    | (with_reducible first | intro _ | assumption | exact Touches.refl | apply State.once_touches | apply State.request_touches
                            | apply State.serveAt_touches)
    | exact rfl | extract_lets -underBinder | split
    | (show Touches _ _ (Prod.fst _); dsimp only)

theorem execFabInc_touches {port : Nat} {p : Packet} {s : State} {t : State} (hx : execFabInc port p s = .next t) :
    Touches [.regs, .out, .msix, .fab] s t := by
  obtain rfl := Host.Outcome.next.inj hx
  repeat' first
    | (with_reducible first | intro _ | assumption | exact Touches.refl | apply State.arrive_touches | apply State.bump_touches
                            | apply State.once_touches | apply State.reply_touches | apply State.serveInc_touches | apply Touches.ite
                            | refine Touches.ofFst (by assumption) ?_)
    | exact rfl | extract_lets -underBinder | split
    | (show Touches _ _ (Prod.fst _); dsimp only)
    | dsimp +zetaDelta only

theorem execFabRdr_touches {port : Nat} {p : Packet} {s : State} {t : State} (hx : execFabRdr port p s = .next t) :
    Touches [.regs, .cores, .incs, .out, .msix, .fab, .ud0, .ud1] s t := by
  obtain rfl := Host.Outcome.next.inj hx
  repeat' first
    | (with_reducible first | intro _ | assumption | exact Touches.refl | apply State.response_touches)
    | exact rfl | extract_lets -underBinder | split

theorem execFabWack_touches {port : Nat} {p : Packet} {s : State} {t : State} (hx : execFabWack port p s = .next t) :
    Touches [.regs, .cores, .incs, .out, .msix, .fab, .ud0, .ud1] s t := by
  obtain rfl := Host.Outcome.next.inj hx
  repeat' first
    | (with_reducible first | intro _ | assumption | exact Touches.refl | apply State.response_touches)
    | exact rfl | extract_lets -underBinder | split

theorem execFabAtr_touches {port : Nat} {p : Packet} {s : State} {t : State} (hx : execFabAtr port p s = .next t) :
    Touches [.regs, .cores, .incs, .out, .msix, .fab, .ud0, .ud1] s t := by
  obtain rfl := Host.Outcome.next.inj hx
  repeat' first
    | (with_reducible first | intro _ | assumption | exact Touches.refl | apply State.response_touches)
    | exact rfl | extract_lets -underBinder | split

theorem execFabIncack_touches {port : Nat} {p : Packet} {s : State} {t : State} (hx : execFabIncack port p s = .next t) :
    Touches [.regs, .cores, .incs, .out, .msix, .fab, .ud0, .ud1] s t := by
  obtain rfl := Host.Outcome.next.inj hx
  repeat' first
    | (with_reducible first | intro _ | assumption | exact Touches.refl | apply State.response_touches)
    | exact rfl | extract_lets -underBinder | split

theorem execFabPack_touches {port : Nat} {p : Packet} {s : State} {t : State} (hx : execFabPack port p s = .next t) :
    Touches [.regs, .cores, .out, .msix, .fab] s t := by
  obtain rfl := Host.Outcome.next.inj hx
  repeat' first
    | (with_reducible first | intro _ | assumption | exact Touches.refl | apply State.arrive_touches | apply State.bump_touches
                            | apply State.modCore_touches | apply Touches.ite | refine Touches.ofFst (by assumption) ?_)
    | exact rfl | assumption | exact State.core_wf (by assumption) _ | (simp; assumption) | with_reducible apply CoreSt.ite_wf
    | extract_lets -underBinder | split
    | (show Touches _ _ (Prod.fst _); dsimp only)

theorem execFabNak_touches {port : Nat} {p : Packet} {s : State} {t : State} (hx : execFabNak port p s = .next t) :
    Touches [.regs, .cores, .incs, .out, .msix, .fab, .ud0, .ud1] s t := by
  obtain rfl := Host.Outcome.next.inj hx
  repeat' first
    | (with_reducible first | intro _ | assumption | exact Touches.refl | apply State.response_touches)
    | exact rfl | extract_lets -underBinder | split

theorem execTreq_touches {port : Nat} {p : Packet} {s : State} {t : State} (hx : execTreq port p s = .next t) : Touches [.regs, .out, .fab] s t := by
  obtain rfl := Host.Outcome.next.inj hx
  repeat' first
    | (with_reducible first | intro _ | assumption | exact Touches.refl | apply State.takeRx_touches | apply State.transmit_touches
                            | apply Touches.ite)
    | exact rfl | extract_lets -underBinder | split

theorem execTrsp_touches {port : Nat} {p : Packet} {s : State} {t : State} (hx : execTrsp port p s = .next t) :
    Touches [.regs, .out, .time, .msix, .fab, .pwr, .rm] s t := by
  obtain rfl := Host.Outcome.next.inj hx
  repeat' first
    | (with_reducible first | intro _ | assumption | exact Touches.refl | apply State.bump_touches | apply State.takeRx_touches
                            | apply State.timeExchange_touches | apply State.wr_touches | apply Touches.ite | apply Touches.modTime
                            | refine Touches.ofFst (by assumption) ?_)
    | exact rfl | extract_lets -underBinder | split
    | dsimp +zetaDelta only

theorem execDuplicateRecordExpiry_touches {s : State} {t : State} (hx : execDuplicateRecordExpiry s = .next t) : Touches [.fab] s t := by
  obtain rfl := Host.Outcome.next.inj hx
  repeat' first
    | (with_reducible first | intro _ | assumption | exact Touches.refl | apply Touches.modFab)
    | exact rfl | extract_lets -underBinder | split

end Sys2Proof.Machine
end

