-- ==== Sys2Proof/Laws/Touch/Control.lean ====
section
/-!
SUPPORT. Laws/Touch/Control.lean: for each operation of Machine/Control.lean, what it can do: the queue stays, only the parts listed change, and the
registers and memories keep their canonical form.
-/

set_option linter.all false

namespace Sys2Proof.Machine

theorem State.linkAll_touches {L : List Part} {z0 : State} {s : State} {typ : Nat} {words : List Nat} (hz : Touches L z0 s)
    (hL : covers L [.regs, .out, .fab] = true) :
    Touches L z0 (State.linkAll s typ words) := by
  refine hz.andThen (A := [.regs, .out, .fab]) ?_ hL
  unfold State.linkAll
  repeat' first
    | (with_reducible first | intro _ | assumption | exact Touches.refl | apply State.sendLink_touches | apply Touches.foldl | apply Touches.foldlFst)
    | exact rfl | extract_lets -underBinder | split

theorem State.hears_touches {L : List Part} {z0 : State} {s : State} {src : Nat} (hz : Touches L z0 s) (hL : covers L [.rm] = true) :
    Touches L z0 (State.hears s src) := by
  refine hz.andThen (A := [.rm]) ?_ hL
  unfold State.hears
  repeat' first
    | (with_reducible first | intro _ | assumption | exact Touches.refl | apply Touches.ite | apply Touches.modRm
                            | refine Touches.ofFst (by assumption) ?_)
    | exact rfl | extract_lets -underBinder | split
    | dsimp +zetaDelta only

theorem State.detach_touches {L : List Part} {z0 : State} {s : State} (hz : Touches L z0 s) (hL : covers L [.regs, .out, .time, .msix, .rm] = true) :
    Touches L z0 (State.detach s) := by
  refine hz.andThen (A := [.regs, .out, .time, .msix, .rm]) ?_ hL
  unfold State.detach
  repeat' first
    | (with_reducible first | intro _ | assumption | exact Touches.refl | apply State.setEnrol_touches | apply State.wr_touches
                            | apply Touches.modRm | apply Touches.modTime)
    | exact rfl | extract_lets -underBinder | split

theorem State.installRoutes_touches {L : List Part} {z0 : State} {s : State} {l : List (Nat × Nat)} (hz : Touches L z0 s)
    (hL : covers L [.regs] = true) :
    Touches L z0 (State.installRoutes s l) := by
  refine hz.andThen (A := [.regs]) ?_ hL
  unfold State.installRoutes
  repeat' first
    | (with_reducible first | intro _ | assumption | exact Touches.refl | apply State.setReg_touches | apply Touches.foldl | apply Touches.foldlFst)
    | exact rfl | extract_lets -underBinder | split

theorem State.takeParent_touches {L : List Part} {z0 : State} {s : State} {parent : Nat} {depth : Nat} (hz : Touches L z0 s)
    (hL : covers L [.regs] = true) :
    Touches L z0 (State.takeParent s parent depth) := by
  refine hz.andThen (A := [.regs]) ?_ hL
  unfold State.takeParent
  repeat' first
    | (with_reducible first | intro _ | assumption | exact Touches.refl | apply State.wr_touches | apply Touches.ite
                            | refine Touches.ofFst (by assumption) ?_)
    | exact rfl | extract_lets -underBinder | split
    | dsimp +zetaDelta only

theorem State.sendOrphans_touches {L : List Part} {z0 : State} {s : State} (hz : Touches L z0 s) (hL : covers L [.regs, .out, .fab] = true) :
    Touches L z0 (State.sendOrphans s) := by
  refine hz.andThen (A := [.regs, .out, .fab]) ?_ hL
  unfold State.sendOrphans
  repeat' first
    | (with_reducible first | intro _ | assumption | exact Touches.refl | apply State.resendAll_touches | apply Touches.modFab)
    | exact rfl | extract_lets -underBinder | split

theorem State.gotGrant_touches {L : List Part} {z0 : State} {s : State} {m : CtrlMsg} (hz : Touches L z0 s)
    (hL : covers L [.regs, .out, .msix, .fab, .rm] = true) :
    Touches L z0 (State.gotGrant s m) := by
  refine hz.andThen (A := [.regs, .out, .msix, .fab, .rm]) ?_ hL
  unfold State.gotGrant
  repeat' first
    | (with_reducible first | intro _ | assumption | exact Touches.refl | apply State.hears_touches | apply State.installRoutes_touches
                            | apply State.raise_touches | apply State.sendOrphans_touches | apply State.setEnrol_touches
                            | apply State.takeParent_touches | apply State.toRm_touches | apply State.wr_touches | apply Touches.ite)
    | exact rfl | extract_lets -underBinder | split

theorem State.gotDeny_touches {L : List Part} {z0 : State} {s : State} {m : CtrlMsg} (hz : Touches L z0 s)
    (hL : covers L [.regs, .out, .time, .msix, .rm] = true) :
    Touches L z0 (State.gotDeny s m) := by
  refine hz.andThen (A := [.regs, .out, .time, .msix, .rm]) ?_ hL
  unfold State.gotDeny
  repeat' first
    | (with_reducible first | intro _ | assumption | exact Touches.refl | apply State.detach_touches | apply State.raise_touches
                            | apply State.wr_touches | apply Touches.ite)
    | exact rfl | extract_lets -underBinder | split

theorem State.gotWork_touches {L : List Part} {z0 : State} {s : State} {m : CtrlMsg} (hz : Touches L z0 s)
    (hL : covers L [.regs, .out, .msix, .rm] = true) :
    Touches L z0 (State.gotWork s m) := by
  refine hz.andThen (A := [.regs, .out, .msix, .rm]) ?_ hL
  unfold State.gotWork
  repeat' first
    | (with_reducible first | intro _ | assumption | exact Touches.refl | apply State.setEnrol_touches | apply Touches.ite | apply Touches.modRm)
    | exact rfl | extract_lets -underBinder | split

theorem State.gotLeave_touches {L : List Part} {z0 : State} {s : State} {m : CtrlMsg} (hz : Touches L z0 s)
    (hL : covers L [.regs, .out, .msix, .fab, .rm] = true) :
    Touches L z0 (State.gotLeave s m) := by
  refine hz.andThen (A := [.regs, .out, .msix, .fab, .rm]) ?_ hL
  unfold State.gotLeave
  repeat' first
    | (with_reducible first | intro _ | assumption | exact Touches.refl | apply State.sendCtrl_touches | apply State.setEnrol_touches
                            | apply Touches.ite)
    | exact rfl | extract_lets -underBinder | split

theorem State.gotLeaveAck_touches {L : List Part} {z0 : State} {s : State} (hz : Touches L z0 s)
    (hL : covers L [.regs, .out, .time, .msix, .rm] = true) :
    Touches L z0 (State.gotLeaveAck s) := by
  refine hz.andThen (A := [.regs, .out, .time, .msix, .rm]) ?_ hL
  unfold State.gotLeaveAck
  repeat' first
    | (with_reducible first | intro _ | assumption | exact Touches.refl | apply State.detach_touches | apply Touches.ite)
    | exact rfl | extract_lets -underBinder | split

theorem State.gotRouteSet_touches {L : List Part} {z0 : State} {s : State} {m : CtrlMsg} (hz : Touches L z0 s)
    (hL : covers L [.regs, .out, .msix, .fab, .rm] = true) :
    Touches L z0 (State.gotRouteSet s m) := by
  refine hz.andThen (A := [.regs, .out, .msix, .fab, .rm]) ?_ hL
  unfold State.gotRouteSet
  repeat' first
    | (with_reducible first | intro _ | assumption | exact Touches.refl | apply State.hears_touches | apply State.installRoutes_touches
                            | apply State.raise_touches | apply State.sendOrphans_touches | apply State.takeParent_touches | apply Touches.ite)
    | exact rfl | extract_lets -underBinder | split

theorem State.follow_touches {L : List Part} {z0 : State} {s : State} {c : Nat × Nat} (hz : Touches L z0 s) (hL : covers L [.regs, .rm] = true) :
    Touches L z0 (State.follow s c) := by
  refine hz.andThen (A := [.regs, .rm]) ?_ hL
  unfold State.follow
  repeat' first
    | (with_reducible first | intro _ | assumption | exact Touches.refl | apply State.wr_touches | apply Touches.ite | apply Touches.modRm)
    | exact rfl | extract_lets -underBinder | split

theorem State.gotClaim_touches {L : List Part} {z0 : State} {s : State} {m : CtrlMsg} (hz : Touches L z0 s)
    (hL : covers L [.regs, .out, .time, .msix, .fab, .rm] = true) :
    Touches L z0 (State.gotClaim s m) := by
  refine hz.andThen (A := [.regs, .out, .time, .msix, .fab, .rm]) ?_ hL
  unfold State.gotClaim
  repeat' first
    | (with_reducible first | intro _ | assumption | exact Touches.refl | apply State.detach_touches | apply State.follow_touches
                            | apply State.linkAll_touches | apply State.setEnrol_touches | apply Touches.ite | apply Touches.modRm)
    | exact rfl | extract_lets -underBinder | split

theorem State.gotHbAck_touches {L : List Part} {z0 : State} {s : State} (hz : Touches L z0 s) (hL : covers L [.rm] = true) :
    Touches L z0 (State.gotHbAck s) := by
  refine hz.andThen (A := [.rm]) ?_ hL
  unfold State.gotHbAck
  repeat' first
    | (with_reducible first | intro _ | assumption | exact Touches.refl | apply Touches.modRm)
    | exact rfl | extract_lets -underBinder | split

theorem State.gotNodeGen_touches {L : List Part} {z0 : State} {s : State} {m : CtrlMsg} (hz : Touches L z0 s)
    (hL : covers L [.regs, .cores, .out, .msix, .fab, .caches, .dir, .ud0, .ud1] = true) :
    Touches L z0 (State.gotNodeGen s m) := by
  refine hz.andThen (A := [.regs, .cores, .out, .msix, .fab, .caches, .dir, .ud0, .ud1]) ?_ hL
  unfold State.gotNodeGen
  repeat' first
    | (with_reducible first | intro _ | assumption | exact Touches.refl | apply State.learnGen_touches)
    | exact rfl | extract_lets -underBinder | split

theorem State.gotRemoved_touches {L : List Part} {z0 : State} {s : State} {m : CtrlMsg} (hz : Touches L z0 s)
    (hL : covers L [.regs, .out, .time, .msix, .rm] = true) :
    Touches L z0 (State.gotRemoved s m) := by
  refine hz.andThen (A := [.regs, .out, .time, .msix, .rm]) ?_ hL
  unfold State.gotRemoved
  repeat' first
    | (with_reducible first | intro _ | assumption | exact Touches.refl | apply State.detach_touches | apply Touches.ite)
    | exact rfl | extract_lets -underBinder | split

theorem State.gotTickChange_touches {L : List Part} {z0 : State} {s : State} {m : CtrlMsg} (hz : Touches L z0 s)
    (hL : covers L [.regs, .out, .time, .msix] = true) :
    Touches L z0 (State.gotTickChange s m) := by
  refine hz.andThen (A := [.regs, .out, .time, .msix]) ?_ hL
  unfold State.gotTickChange
  repeat' first
    | (with_reducible first | intro _ | assumption | exact Touches.refl | apply State.tickChange_touches)
    | exact rfl | extract_lets -underBinder | split

theorem State.enrolTimer_touches {L : List Part} {z0 : State} {s : State} (hz : Touches L z0 s) (hL : covers L [.regs, .out, .fab] = true) :
    Touches L z0 (State.enrolTimer s) := by
  refine hz.andThen (A := [.regs, .out, .fab]) ?_ hL
  unfold State.enrolTimer
  repeat' first
    | (with_reducible first | intro _ | assumption | exact Touches.refl | apply State.sendLink_touches | apply Touches.ite | apply Touches.foldl
                            | apply Touches.foldlFst)
    | exact rfl | extract_lets -underBinder | split

theorem State.leaveTimeout_touches {L : List Part} {z0 : State} {s : State} (hz : Touches L z0 s)
    (hL : covers L [.regs, .out, .time, .msix, .rm] = true) :
    Touches L z0 (State.leaveTimeout s) := by
  refine hz.andThen (A := [.regs, .out, .time, .msix, .rm]) ?_ hL
  unfold State.leaveTimeout
  repeat' first
    | (with_reducible first | intro _ | assumption | exact Touches.refl | apply State.detach_touches | apply Touches.ite)
    | exact rfl | extract_lets -underBinder | split

theorem State.noPortTimeout_touches {L : List Part} {z0 : State} {s : State} (hz : Touches L z0 s)
    (hL : covers L [.regs, .out, .time, .msix, .rm] = true) :
    Touches L z0 (State.noPortTimeout s) := by
  refine hz.andThen (A := [.regs, .out, .time, .msix, .rm]) ?_ hL
  unfold State.noPortTimeout
  repeat' first
    | (with_reducible first | intro _ | assumption | exact Touches.refl | apply State.detach_touches | apply Touches.ite)
    | exact rfl | extract_lets -underBinder | split

theorem State.heartbeatTimer_touches {L : List Part} {z0 : State} {s : State} (hz : Touches L z0 s) (hL : covers L [.regs, .out, .fab] = true) :
    Touches L z0 (State.heartbeatTimer s) := by
  refine hz.andThen (A := [.regs, .out, .fab]) ?_ hL
  unfold State.heartbeatTimer
  repeat' first
    | (with_reducible first | intro _ | assumption | exact Touches.refl | apply State.toRm_touches | apply Touches.ite)
    | exact rfl | extract_lets -underBinder | split

theorem State.claimTimer_touches {L : List Part} {z0 : State} {s : State} (hz : Touches L z0 s) (hL : covers L [.regs, .out, .fab, .rm] = true) :
    Touches L z0 (State.claimTimer s) := by
  refine hz.andThen (A := [.regs, .out, .fab, .rm]) ?_ hL
  unfold State.claimTimer
  repeat' first
    | (with_reducible first | intro _ | assumption | exact Touches.refl | apply State.linkAll_touches | apply Touches.ite | apply Touches.modRm)
    | exact rfl | extract_lets -underBinder | split

theorem State.hbAckLoss_touches {L : List Part} {z0 : State} {s : State} (hz : Touches L z0 s) (hL : covers L [.regs, .rm] = true) :
    Touches L z0 (State.hbAckLoss s) := by
  refine hz.andThen (A := [.regs, .rm]) ?_ hL
  unfold State.hbAckLoss
  repeat' first
    | (with_reducible first | intro _ | assumption | exact Touches.refl | apply State.follow_touches | apply Touches.ite
                            | refine Touches.ofFst (by assumption) ?_)
    | exact rfl | extract_lets -underBinder | split

end Sys2Proof.Machine
end

