-- ==== Sys2Proof/Laws/Touch/Ringmaster.lean ====
section
/-!
SUPPORT. Laws/Touch/Ringmaster.lean: for each operation of Machine/Ringmaster.lean, what it can do: the queue stays, only the parts listed change, and the
registers and memories keep their canonical form.
-/

set_option linter.all false

namespace Sys2Proof.Machine

theorem State.rmMsg_touches {L : List Part} {z0 : State} {s : State} {dst : Nat} {code : Nat} {node : Nat} {args : List Nat} (hz : Touches L z0 s)
    (hL : covers L [.regs, .out, .fab] = true) :
    Touches L z0 (State.rmMsg s dst code node args) := by
  refine hz.andThen (A := [.regs, .out, .fab]) ?_ hL
  unfold State.rmMsg
  repeat' first
    | (with_reducible first | intro _ | assumption | exact Touches.refl | apply State.sendCtrl_touches)
    | exact rfl | extract_lets -underBinder | split

theorem State.rmAll_touches {L : List Part} {z0 : State} {s : State} {code : Nat} {node : Nat} {args : List Nat} (hz : Touches L z0 s)
    (hL : covers L [.regs, .out, .fab] = true) :
    Touches L z0 (State.rmAll s code node args) := by
  refine hz.andThen (A := [.regs, .out, .fab]) ?_ hL
  unfold State.rmAll
  repeat' first
    | (with_reducible first | intro _ | assumption | exact Touches.refl | apply State.rmMsg_touches | apply Touches.foldl | apply Touches.foldlFst)
    | exact rfl | extract_lets -underBinder | split

theorem State.rmLayout_touches {L : List Part} {z0 : State} {s : State} {l : List Nat} {code : Nat} {args : List Nat} (hz : Touches L z0 s)
    (hL : covers L [.regs, .out, .fab] = true) :
    Touches L z0 (State.rmLayout s l code args) := by
  refine hz.andThen (A := [.regs, .out, .fab]) ?_ hL
  unfold State.rmLayout
  repeat' first
    | (with_reducible first | intro _ | assumption | exact Touches.refl | apply State.rmMsg_touches | apply Touches.foldl | apply Touches.foldlFst)
    | exact rfl | extract_lets -underBinder | split

theorem State.modMember_touches {L : List Part} {z0 : State} {s : State} {n : Nat} {f : Member → Member} (hz : Touches L z0 s)
    (hL : covers L [.rm] = true) :
    Touches L z0 (State.modMember s n f) := by
  refine hz.andThen (A := [.rm]) ?_ hL
  unfold State.modMember
  repeat' first
    | (with_reducible first | intro _ | assumption | exact Touches.refl | apply Touches.ite | apply Touches.modRm)
    | exact rfl | extract_lets -underBinder | split

theorem State.sync_touches {L : List Part} {z0 : State} {s : State} (hz : Touches L z0 s) (hL : covers L [.regs, .out, .fab, .rm] = true) :
    Touches L z0 (State.sync s) := by
  refine hz.andThen (A := [.regs, .out, .fab, .rm]) ?_ hL
  unfold State.sync
  repeat' first
    | (with_reducible first | intro _ | assumption | exact Touches.refl | apply State.emit_touches | apply State.sendCtrl_touches
                            | apply Touches.modRm | refine Touches.ofFst (by assumption) ?_)
    | exact rfl | extract_lets -underBinder | split
    | dsimp +zetaDelta only

theorem State.appoint_touches {L : List Part} {z0 : State} {s : State} (hz : Touches L z0 s) (hL : covers L [.regs, .rm] = true) :
    Touches L z0 (State.appoint s) := by
  refine hz.andThen (A := [.regs, .rm]) ?_ hL
  unfold State.appoint
  repeat' first
    | (with_reducible first | intro _ | assumption | exact Touches.refl | apply State.wr_touches | apply Touches.ite | apply Touches.modRm)
    | exact rfl | extract_lets -underBinder | split

theorem State.rmSettle_touches {L : List Part} {z0 : State} {s0 : State} {s : State} (hz : Touches L z0 s)
    (hL : covers L [.regs, .out, .fab, .rm] = true) :
    Touches L z0 (State.rmSettle s0 s) := by
  refine hz.andThen (A := [.regs, .out, .fab, .rm]) ?_ hL
  unfold State.rmSettle
  repeat' first
    | (with_reducible first | intro _ | assumption | exact Touches.refl | apply State.appoint_touches | apply State.sync_touches | apply Touches.ite)
    | exact rfl | extract_lets -underBinder | split

theorem State.routeSets_touches {L : List Part} {z0 : State} {s : State} {n : Nat} {parent : Nat} {depth : Nat} {d : List (Nat × Nat)} (hz :
    Touches L z0 s) (hL : covers L [.regs, .out, .fab] = true) :
    Touches L z0 (State.routeSets s n parent depth d) := by
  refine hz.andThen (A := [.regs, .out, .fab]) ?_ hL
  unfold State.routeSets
  repeat' first
    | (with_reducible first | intro _ | assumption | exact Touches.refl | apply State.sendCtrl_touches | apply Touches.ite | apply Touches.foldl
                            | apply Touches.foldlFst)
    | exact rfl | extract_lets -underBinder | split

theorem State.retree_touches {L : List Part} {z0 : State} {s : State} {t : List Member} (hz : Touches L z0 s)
    (hL : covers L [.regs, .out, .msix, .fab, .rm] = true) :
    Touches L z0 (State.retree s t) := by
  refine hz.andThen (A := [.regs, .out, .msix, .fab, .rm]) ?_ hL
  unfold State.retree
  repeat' first
    | (with_reducible first | intro _ | assumption | exact Touches.refl | apply State.installRoutes_touches | apply State.raise_touches
                            | apply State.rmAll_touches | apply State.routeSets_touches | apply State.sendOrphans_touches | apply Touches.ite
                            | apply Touches.foldl | apply Touches.foldlFst | apply Touches.modRm | refine Touches.ofFst (by assumption) ?_)
    | exact rfl | extract_lets -underBinder | split
    | dsimp +zetaDelta only

theorem State.removeNode_touches {L : List Part} {z0 : State} {s : State} {n : Nat} (hz : Touches L z0 s)
    (hL : covers L [.regs, .out, .msix, .fab, .rm] = true) :
    Touches L z0 (State.removeNode s n) := by
  refine hz.andThen (A := [.regs, .out, .msix, .fab, .rm]) ?_ hL
  unfold State.removeNode
  repeat' first
    | (with_reducible first | intro _ | assumption | exact Touches.refl | apply State.retree_touches | apply Touches.ite)
    | exact rfl | extract_lets -underBinder | split

theorem State.considerWork_touches {L : List Part} {z0 : State} {s : State} {n : Nat} (hz : Touches L z0 s)
    (hL : covers L [.regs, .out, .fab, .caches, .rm] = true) :
    Touches L z0 (State.considerWork s n) := by
  refine hz.andThen (A := [.regs, .out, .fab, .caches, .rm]) ?_ hL
  unfold State.considerWork
  repeat' first
    | (with_reducible first | intro _ | assumption | exact Touches.refl | apply State.modMember_touches | apply State.sendCtrl_touches
                            | apply Touches.ite | refine Touches.ofFst (by assumption) ?_)
    | exact rfl | extract_lets -underBinder | split
    | dsimp +zetaDelta only

theorem State.backRoute_touches {L : List Part} {z0 : State} {s : State} {m : CtrlMsg} {n : Nat} (hz : Touches L z0 s)
    (hL : covers L [.regs] = true) :
    Touches L z0 (State.backRoute s m n) := by
  refine hz.andThen (A := [.regs]) ?_ hL
  unfold State.backRoute
  repeat' first
    | (with_reducible first | intro _ | assumption | exact Touches.refl | apply State.installRoutes_touches | apply Touches.ite)
    | exact rfl | extract_lets -underBinder | split

theorem State.enrolIn_touches {L : List Part} {z0 : State} {s : State} {m : Member} (hz : Touches L z0 s)
    (hL : covers L [.regs, .out, .msix, .fab, .rm] = true) :
    Touches L z0 (State.enrolIn s m) := by
  refine hz.andThen (A := [.regs, .out, .msix, .fab, .rm]) ?_ hL
  unfold State.enrolIn
  repeat' first
    | (with_reducible first | intro _ | assumption | exact Touches.refl | apply State.retree_touches | apply State.routeSets_touches
                            | apply State.sendCtrl_touches | apply Touches.ite | apply Touches.modRm | refine Touches.ofFst (by assumption) ?_)
    | exact rfl | extract_lets -underBinder | split
    | dsimp +zetaDelta only

theorem State.judgeEnrol_touches {L : List Part} {z0 : State} {s : State} {ws : List Nat} (hz : Touches L z0 s)
    (hL : covers L [.regs, .out, .msix, .fab, .rm] = true) :
    Touches L z0 (State.judgeEnrol s ws) := by
  refine hz.andThen (A := [.regs, .out, .msix, .fab, .rm]) ?_ hL
  unfold State.judgeEnrol
  repeat' first
    | (with_reducible first | intro _ | assumption | exact Touches.refl | apply State.enrolIn_touches | apply State.rmAll_touches
                            | apply State.sendCtrl_touches | apply Touches.ite | refine Touches.ofFst (by assumption) ?_)
    | exact rfl | extract_lets -underBinder | split
    | dsimp +zetaDelta only

theorem State.gotEnrolReq_touches {L : List Part} {z0 : State} {s : State} {m : CtrlMsg} (hz : Touches L z0 s)
    (hL : covers L [.regs, .out, .msix, .fab, .rm] = true) :
    Touches L z0 (State.gotEnrolReq s m) := by
  refine hz.andThen (A := [.regs, .out, .msix, .fab, .rm]) ?_ hL
  unfold State.gotEnrolReq
  repeat' first
    | (with_reducible first | intro _ | assumption | exact Touches.refl | apply State.backRoute_touches | apply State.installRoutes_touches
                            | apply State.judgeEnrol_touches | apply State.sendCtrl_touches | apply Touches.ite)
    | exact rfl | extract_lets -underBinder | split

theorem State.gotReady_touches {L : List Part} {z0 : State} {s : State} {m : CtrlMsg} (hz : Touches L z0 s)
    (hL : covers L [.regs, .out, .fab, .caches, .rm] = true) :
    Touches L z0 (State.gotReady s m) := by
  refine hz.andThen (A := [.regs, .out, .fab, .caches, .rm]) ?_ hL
  unfold State.gotReady
  repeat' first
    | (with_reducible first | intro _ | assumption | exact Touches.refl | apply State.considerWork_touches | apply State.modMember_touches
                            | apply Touches.ite)
    | exact rfl | extract_lets -underBinder | split

theorem State.gotUnready_touches {L : List Part} {z0 : State} {s : State} {m : CtrlMsg} (hz : Touches L z0 s) (hL : covers L [.caches, .rm] = true) :
    Touches L z0 (State.gotUnready s m) := by
  refine hz.andThen (A := [.caches, .rm]) ?_ hL
  unfold State.gotUnready
  repeat' first
    | (with_reducible first | intro _ | assumption | exact Touches.refl | apply State.modMember_touches | apply Touches.ite)
    | exact rfl | extract_lets -underBinder | split

theorem State.memberLeaves_touches {L : List Part} {z0 : State} {s : State} {m : CtrlMsg} (hz : Touches L z0 s)
    (hL : covers L [.regs, .out, .msix, .fab, .caches, .rm] = true) :
    Touches L z0 (State.memberLeaves s m) := by
  refine hz.andThen (A := [.regs, .out, .msix, .fab, .caches, .rm]) ?_ hL
  unfold State.memberLeaves
  repeat' first
    | (with_reducible first | intro _ | assumption | exact Touches.refl | apply State.modMember_touches | apply State.removeNode_touches
                            | apply State.rmAll_touches | apply State.sendCtrl_touches | apply Touches.ite)
    | exact rfl | extract_lets -underBinder | split

theorem State.gotLeaveMsg_touches {L : List Part} {z0 : State} {s : State} {m : CtrlMsg} (hz : Touches L z0 s)
    (hL : covers L [.regs, .out, .msix, .fab, .caches, .rm] = true) :
    Touches L z0 (State.gotLeaveMsg s m) := by
  refine hz.andThen (A := [.regs, .out, .msix, .fab, .caches, .rm]) ?_ hL
  unfold State.gotLeaveMsg
  repeat' first
    | (with_reducible first | intro _ | assumption | exact Touches.refl | apply State.gotLeave_touches | apply State.memberLeaves_touches
                            | apply Touches.ite)
    | exact rfl | extract_lets -underBinder | split

theorem State.gotLeaveAckMsg_touches {L : List Part} {z0 : State} {s : State} {m : CtrlMsg} (hz : Touches L z0 s)
    (hL : covers L [.regs, .out, .time, .msix, .fab, .rm] = true) :
    Touches L z0 (State.gotLeaveAckMsg s m) := by
  refine hz.andThen (A := [.regs, .out, .time, .msix, .fab, .rm]) ?_ hL
  unfold State.gotLeaveAckMsg
  repeat' first
    | (with_reducible first | intro _ | assumption | exact Touches.refl | apply State.gotLeaveAck_touches | apply State.removeNode_touches
                            | apply Touches.ite)
    | exact rfl | extract_lets -underBinder | split

theorem State.hearsFrom_touches {L : List Part} {z0 : State} {s : State} {n : Nat} (hz : Touches L z0 s) (hL : covers L [.caches, .rm] = true) :
    Touches L z0 (State.hearsFrom s n) := by
  refine hz.andThen (A := [.caches, .rm]) ?_ hL
  unfold State.hearsFrom
  repeat' first
    | (with_reducible first | intro _ | assumption | exact Touches.refl | apply State.modMember_touches | apply Touches.ite)
    | exact rfl | extract_lets -underBinder | split

theorem State.gotHeartbeat_touches {L : List Part} {z0 : State} {s : State} {m : CtrlMsg} (hz : Touches L z0 s)
    (hL : covers L [.regs, .out, .fab, .caches, .rm] = true) :
    Touches L z0 (State.gotHeartbeat s m) := by
  refine hz.andThen (A := [.regs, .out, .fab, .caches, .rm]) ?_ hL
  unfold State.gotHeartbeat
  repeat' first
    | (with_reducible first | intro _ | assumption | exact Touches.refl | apply State.modMember_touches | apply State.rmMsg_touches
                            | apply Touches.ite)
    | exact rfl | extract_lets -underBinder | split

theorem State.heartbeatMiss_touches {L : List Part} {z0 : State} {s : State} {n : Nat} (hz : Touches L z0 s)
    (hL : covers L [.regs, .out, .msix, .fab, .rm] = true) :
    Touches L z0 (State.heartbeatMiss s n) := by
  refine hz.andThen (A := [.regs, .out, .msix, .fab, .rm]) ?_ hL
  unfold State.heartbeatMiss
  repeat' first
    | (with_reducible first | intro _ | assumption | exact Touches.refl | apply State.removeNode_touches | apply Touches.ite
                            | refine Touches.ofFst (by assumption) ?_)
    | exact rfl | extract_lets -underBinder | split

theorem State.linkLost_touches {L : List Part} {z0 : State} {s : State} {n : Nat} {port : Nat} (hz : Touches L z0 s)
    (hL : covers L [.regs, .out, .msix, .fab, .rm] = true) :
    Touches L z0 (State.linkLost s n port) := by
  refine hz.andThen (A := [.regs, .out, .msix, .fab, .rm]) ?_ hL
  unfold State.linkLost
  repeat' first
    | (with_reducible first | intro _ | assumption | exact Touches.refl | apply State.retree_touches | apply Touches.ite
                            | refine Touches.ofFst (by assumption) ?_)
    | exact rfl | extract_lets -underBinder | split

theorem State.rmReport_touches {L : List Part} {z0 : State} {s : State} {bit : Nat} (hz : Touches L z0 s)
    (hL : covers L [.regs, .out, .msix, .rm] = true) :
    Touches L z0 (State.rmReport s bit) := by
  refine hz.andThen (A := [.regs, .out, .msix, .rm]) ?_ hL
  unfold State.rmReport
  repeat' first
    | (with_reducible first | intro _ | assumption | exact Touches.refl | apply State.raise_touches | apply Touches.modRm)
    | exact rfl | extract_lets -underBinder | split

theorem State.closeEpoch_touches {L : List Part} {z0 : State} {s : State} {r : Reshard} {step : Nat} {dec : Nat} {first : Nat} (hz :
    Touches L z0 s) (hL : covers L [.regs, .out, .fab, .rm] = true) :
    Touches L z0 (State.closeEpoch s r step dec first) := by
  refine hz.andThen (A := [.regs, .out, .fab, .rm]) ?_ hL
  unfold State.closeEpoch
  repeat' first
    | (with_reducible first | intro _ | assumption | exact Touches.refl | apply State.rmLayout_touches | apply Touches.modRm)
    | exact rfl | extract_lets -underBinder | split

theorem State.fenceMove_touches {L : List Part} {z0 : State} {s : State} {n : Nat} (hz : Touches L z0 s)
    (hL : covers L [.regs, .out, .msix, .fab, .rm] = true) :
    Touches L z0 (State.fenceMove s n) := by
  refine hz.andThen (A := [.regs, .out, .msix, .fab, .rm]) ?_ hL
  unfold State.fenceMove
  repeat' first
    | (with_reducible first | intro _ | assumption | exact Touches.refl | apply State.rmLayout_touches | apply State.rmReport_touches
                            | apply Touches.ite | apply Touches.modRm | refine Touches.ofFst (by assumption) ?_)
    | exact rfl | extract_lets -underBinder | split
    | dsimp +zetaDelta only

theorem State.openEpoch_touches {L : List Part} {z0 : State} {s : State} {r : Reshard} (hz : Touches L z0 s)
    (hL : covers L [.regs, .out, .fab, .caches, .rm] = true) :
    Touches L z0 (State.openEpoch s r) := by
  refine hz.andThen (A := [.regs, .out, .fab, .caches, .rm]) ?_ hL
  unfold State.openEpoch
  repeat' first
    | (with_reducible first | intro _ | assumption | exact Touches.refl | apply State.considerWork_touches | apply State.rmLayout_touches
                            | apply State.sendCtrl_touches | apply Touches.foldl | apply Touches.foldlFst | apply Touches.modRm)
    | exact rfl | extract_lets -underBinder | split

theorem State.reshardGo_touches {L : List Part} {z0 : State} {s : State} (hz : Touches L z0 s)
    (hL : covers L [.regs, .out, .msix, .fab, .caches, .rm] = true) :
    Touches L z0 (State.reshardGo s) := by
  refine hz.andThen (A := [.regs, .out, .msix, .fab, .caches, .rm]) ?_ hL
  unfold State.reshardGo
  repeat' first
    | (with_reducible first | intro _ | assumption | exact Touches.refl | apply State.closeEpoch_touches | apply State.fenceMove_touches
                            | apply State.openEpoch_touches | apply Touches.ite | refine Touches.ofFst (by assumption) ?_)
    | exact rfl | extract_lets -underBinder | split

theorem State.decideStep_touches {L : List Part} {z0 : State} {s : State} {n : Nat} {dec : Nat} (hz : Touches L z0 s)
    (hL : covers L [.regs, .out, .msix, .fab, .caches, .rm] = true) :
    Touches L z0 (State.decideStep s n dec) := by
  refine hz.andThen (A := [.regs, .out, .msix, .fab, .caches, .rm]) ?_ hL
  unfold State.decideStep
  repeat' first
    | (with_reducible first | intro _ | assumption | exact Touches.refl | apply State.closeEpoch_touches | apply State.reshardGo_touches
                            | apply State.rmLayout_touches | apply State.rmReport_touches | apply Touches.ite | apply Touches.modRm
                            | refine Touches.ofFst (by assumption) ?_)
    | exact rfl | extract_lets -underBinder | split
    | dsimp +zetaDelta only

theorem State.tryDecide_touches {L : List Part} {z0 : State} {s : State} {n : Nat} (hz : Touches L z0 s)
    (hL : covers L [.regs, .out, .msix, .fab, .caches, .rm] = true) :
    Touches L z0 (State.tryDecide s n) := by
  refine hz.andThen (A := [.regs, .out, .msix, .fab, .caches, .rm]) ?_ hL
  unfold State.tryDecide
  repeat' first
    | (with_reducible first | intro _ | assumption | exact Touches.refl | apply State.decideStep_touches | apply Touches.ite)
    | exact rfl | extract_lets -underBinder | split

theorem State.stepReport_touches {L : List Part} {z0 : State} {s : State} {src : Nat} {n : Nat} {bits : Nat} (hz : Touches L z0 s)
    (hL : covers L [.regs, .out, .msix, .fab, .caches, .rm] = true) :
    Touches L z0 (State.stepReport s src n bits) := by
  refine hz.andThen (A := [.regs, .out, .msix, .fab, .caches, .rm]) ?_ hL
  unfold State.stepReport
  repeat' first
    | (with_reducible first | intro _ | assumption | exact Touches.refl | apply State.fenceMove_touches | apply State.tryDecide_touches
                            | apply Touches.ite | apply Touches.modRm)
    | exact rfl | extract_lets -underBinder | split

theorem State.stepTimeout_touches {L : List Part} {z0 : State} {s : State} (hz : Touches L z0 s)
    (hL : covers L [.regs, .out, .msix, .fab, .caches, .rm] = true) :
    Touches L z0 (State.stepTimeout s) := by
  refine hz.andThen (A := [.regs, .out, .msix, .fab, .caches, .rm]) ?_ hL
  unfold State.stepTimeout
  repeat' first
    | (with_reducible first | intro _ | assumption | exact Touches.refl | apply State.decideStep_touches | apply State.tryDecide_touches
                            | apply Touches.ite | apply Touches.foldl | apply Touches.foldlFst)
    | exact rfl | extract_lets -underBinder | split

theorem State.resendLast_touches {L : List Part} {z0 : State} {s : State} (hz : Touches L z0 s) (hL : covers L [.regs, .out, .fab, .rm] = true) :
    Touches L z0 (State.resendLast s) := by
  refine hz.andThen (A := [.regs, .out, .fab, .rm]) ?_ hL
  unfold State.resendLast
  repeat' first
    | (with_reducible first | intro _ | assumption | exact Touches.refl | apply State.rmAll_touches | apply State.rmLayout_touches
                            | apply Touches.ite | apply Touches.modRm | refine Touches.ofFst (by assumption) ?_)
    | exact rfl | extract_lets -underBinder | split
    | dsimp +zetaDelta only

theorem State.quorumCheck_touches {L : List Part} {z0 : State} {s : State} (hz : Touches L z0 s)
    (hL : covers L [.regs, .out, .msix, .fab, .caches, .rm] = true) :
    Touches L z0 (State.quorumCheck s) := by
  refine hz.andThen (A := [.regs, .out, .msix, .fab, .caches, .rm]) ?_ hL
  unfold State.quorumCheck
  repeat' first
    | (with_reducible first | intro _ | assumption | exact Touches.refl | apply State.considerWork_touches | apply State.resendLast_touches
                            | apply State.reshardGo_touches | apply State.tryDecide_touches | apply Touches.ite | apply Touches.foldl
                            | apply Touches.foldlFst | apply Touches.modRm)
    | exact rfl | extract_lets -underBinder | split

theorem State.gotPrepared_touches {L : List Part} {z0 : State} {s : State} {src : Nat} {epoch : Nat} (hz : Touches L z0 s)
    (hL : covers L [.regs, .out, .msix, .fab, .caches, .rm] = true) :
    Touches L z0 (State.gotPrepared s src epoch) := by
  refine hz.andThen (A := [.regs, .out, .msix, .fab, .caches, .rm]) ?_ hL
  unfold State.gotPrepared
  repeat' first
    | (with_reducible first | intro _ | assumption | exact Touches.refl | apply State.reshardGo_touches | apply Touches.ite | apply Touches.modRm
                            | refine Touches.ofFst (by assumption) ?_)
    | exact rfl | extract_lets -underBinder | split

theorem State.gotLoaded_touches {L : List Part} {z0 : State} {s : State} {src : Nat} {epoch : Nat} (hz : Touches L z0 s)
    (hL : covers L [.regs, .out, .msix, .fab, .caches, .rm] = true) :
    Touches L z0 (State.gotLoaded s src epoch) := by
  refine hz.andThen (A := [.regs, .out, .msix, .fab, .caches, .rm]) ?_ hL
  unfold State.gotLoaded
  repeat' first
    | (with_reducible first | intro _ | assumption | exact Touches.refl | apply State.reshardGo_touches | apply Touches.ite | apply Touches.modRm
                            | refine Touches.ofFst (by assumption) ?_)
    | exact rfl | extract_lets -underBinder | split

theorem State.changeTick_touches {L : List Part} {z0 : State} {s : State} {len : Nat} (hz : Touches L z0 s)
    (hL : covers L [.regs, .out, .fab, .rm] = true) :
    Touches L z0 (State.changeTick s len) := by
  refine hz.andThen (A := [.regs, .out, .fab, .rm]) ?_ hL
  unfold State.changeTick
  repeat' first
    | (with_reducible first | intro _ | assumption | exact Touches.refl | apply State.rmAll_touches | apply Touches.modRm
                            | refine Touches.ofFst (by assumption) ?_)
    | exact rfl | extract_lets -underBinder | split
    | dsimp +zetaDelta only

theorem State.slipReport_touches {L : List Part} {z0 : State} {s : State} {tick : Nat} (hz : Touches L z0 s)
    (hL : covers L [.regs, .out, .fab, .rm] = true) :
    Touches L z0 (State.slipReport s tick) := by
  refine hz.andThen (A := [.regs, .out, .fab, .rm]) ?_ hL
  unfold State.slipReport
  repeat' first
    | (with_reducible first | intro _ | assumption | exact Touches.refl | apply State.changeTick_touches | apply Touches.ite | apply Touches.modRm)
    | exact rfl | extract_lets -underBinder | split

theorem State.tickShrink_touches {L : List Part} {z0 : State} {s : State} (hz : Touches L z0 s) (hL : covers L [.regs, .out, .fab, .rm] = true) :
    Touches L z0 (State.tickShrink s) := by
  refine hz.andThen (A := [.regs, .out, .fab, .rm]) ?_ hL
  unfold State.tickShrink
  repeat' first
    | (with_reducible first | intro _ | assumption | exact Touches.refl | apply State.changeTick_touches | apply Touches.ite)
    | exact rfl | extract_lets -underBinder | split

theorem State.gotNorm_touches {L : List Part} {z0 : State} {s : State} {src : Nat} {group : Nat} {die : Nat} {vs : List Nat} (hz : Touches L z0 s)
    (hL : covers L [.regs, .out, .fab, .rm] = true) :
    Touches L z0 (State.gotNorm s src group die vs) := by
  refine hz.andThen (A := [.regs, .out, .fab, .rm]) ?_ hL
  unfold State.gotNorm
  repeat' first
    | (with_reducible first | intro _ | assumption | exact Touches.refl | apply State.rmLayout_touches | apply Touches.ite | apply Touches.foldl
                            | apply Touches.foldlFst | apply Touches.modRm)
    | exact rfl | extract_lets -underBinder | split

theorem State.lateContrib_touches {L : List Part} {z0 : State} {s : State} {step : Nat} (hz : Touches L z0 s)
    (hL : covers L [.regs, .out, .msix, .rm] = true) :
    Touches L z0 (State.lateContrib s step) := by
  refine hz.andThen (A := [.regs, .out, .msix, .rm]) ?_ hL
  unfold State.lateContrib
  repeat' first
    | (with_reducible first | intro _ | assumption | exact Touches.refl | apply State.rmReport_touches | apply Touches.ite
                            | refine Touches.ofFst (by assumption) ?_)
    | exact rfl | extract_lets -underBinder | split

theorem State.syncAcked_touches {L : List Part} {z0 : State} {s : State} {src : Nat} {n : Nat} (hz : Touches L z0 s) (hL : covers L [.rm] = true) :
    Touches L z0 (State.syncAcked s src n) := by
  refine hz.andThen (A := [.rm]) ?_ hL
  unfold State.syncAcked
  repeat' first
    | (with_reducible first | intro _ | assumption | exact Touches.refl | apply Touches.ite | apply Touches.modRm
                            | refine Touches.ofFst (by assumption) ?_)
    | exact rfl | extract_lets -underBinder | split

theorem State.logHealth_touches {L : List Part} {z0 : State} {s : State} {kind : Nat} {src : Nat} {args : List Nat} (hz : Touches L z0 s)
    (hL : covers L [.rm] = true) :
    Touches L z0 (State.logHealth s kind src args) := by
  refine hz.andThen (A := [.rm]) ?_ hL
  unfold State.logHealth
  repeat' first
    | (with_reducible first | intro _ | assumption | exact Touches.refl | apply Touches.ite | apply Touches.modRm
                            | refine Touches.ofFst (by assumption) ?_)
    | exact rfl | extract_lets -underBinder | split
    | dsimp +zetaDelta only

theorem State.gotHealth_touches {L : List Part} {z0 : State} {s : State} {m : CtrlMsg} (hz : Touches L z0 s)
    (hL : covers L [.regs, .out, .msix, .fab, .caches, .rm] = true) :
    Touches L z0 (State.gotHealth s m) := by
  refine hz.andThen (A := [.regs, .out, .msix, .fab, .caches, .rm]) ?_ hL
  unfold State.gotHealth
  repeat' first
    | (with_reducible first | intro _ | assumption | exact Touches.refl | apply State.gotLoaded_touches | apply State.gotNorm_touches
                            | apply State.gotPrepared_touches | apply State.lateContrib_touches | apply State.linkLost_touches
                            | apply State.logHealth_touches | apply State.slipReport_touches | apply State.stepReport_touches
                            | apply State.syncAcked_touches | apply Touches.ite | refine Touches.ofFst (by assumption) ?_)
    | exact rfl | extract_lets -underBinder | split
    | dsimp +zetaDelta only

theorem State.claimSuccess_touches {L : List Part} {z0 : State} {s : State} (hz : Touches L z0 s)
    (hL : covers L [.regs, .out, .time, .msix, .pwr, .rm] = true) :
    Touches L z0 (State.claimSuccess s) := by
  refine hz.andThen (A := [.regs, .out, .time, .msix, .pwr, .rm]) ?_ hL
  unfold State.claimSuccess
  repeat' first
    | (with_reducible first | intro _ | assumption | exact Touches.refl | apply State.becomeOrigin_touches | apply State.follow_touches
                            | apply State.setEnrol_touches | apply State.setReg_touches | apply State.wr_touches | apply Touches.ite
                            | apply Touches.modRm | apply Touches.modTime)
    | exact rfl | extract_lets -underBinder | split

theorem State.takeOver_touches {L : List Part} {z0 : State} {s : State} (hz : Touches L z0 s)
    (hL : covers L [.regs, .out, .time, .msix, .fab, .pwr, .rm] = true) :
    Touches L z0 (State.takeOver s) := by
  refine hz.andThen (A := [.regs, .out, .time, .msix, .fab, .pwr, .rm]) ?_ hL
  unfold State.takeOver
  repeat' first
    | (with_reducible first | intro _ | assumption | exact Touches.refl | apply State.becomeOrigin_touches | apply State.follow_touches
                            | apply State.linkAll_touches | apply State.resendLast_touches | apply State.retree_touches | apply State.wr_touches
                            | apply Touches.ite | apply Touches.modRm)
    | exact rfl | extract_lets -underBinder | split

theorem State.gotSync_touches {L : List Part} {z0 : State} {s : State} {m : CtrlMsg} (hz : Touches L z0 s)
    (hL : covers L [.regs, .out, .time, .msix, .fab, .pwr, .rm] = true) :
    Touches L z0 (State.gotSync s m) := by
  refine hz.andThen (A := [.regs, .out, .time, .msix, .fab, .pwr, .rm]) ?_ hL
  unfold State.gotSync
  repeat' first
    | (with_reducible first | intro _ | assumption | exact Touches.refl | apply State.health_touches | apply State.takeOver_touches
                            | apply State.wr_touches | apply Touches.ite | apply Touches.modRm | refine Touches.ofFst (by assumption) ?_)
    | exact rfl | extract_lets -underBinder | split
    | dsimp +zetaDelta only

theorem State.standbyTakeover_touches {L : List Part} {z0 : State} {s : State} (hz : Touches L z0 s)
    (hL : covers L [.regs, .out, .time, .msix, .fab, .pwr, .rm] = true) :
    Touches L z0 (State.standbyTakeover s) := by
  refine hz.andThen (A := [.regs, .out, .time, .msix, .fab, .pwr, .rm]) ?_ hL
  unfold State.standbyTakeover
  repeat' first
    | (with_reducible first | intro _ | assumption | exact Touches.refl | apply State.takeOver_touches | apply Touches.ite)
    | exact rfl | extract_lets -underBinder | split

end Sys2Proof.Machine
end

