-- ==== Sys2Proof/Laws/Touch/Epoch.lean ====
section
/-!
SUPPORT. Laws/Touch/Epoch.lean: for each operation of Machine/Epoch.lean, what it can do: the queue stays, only the parts listed change, and the
registers and memories keep their canonical form.
-/

set_option linter.all false

namespace Sys2Proof.Machine

theorem State.applyOnce_touches {L : List Part} {z0 : State} {s : State} {ws : List Nat} {f : State → State} (hz : Touches L z0 s)
    (hL : covers L [.rm] = true)
    (h_f : ∀ a0, Touches L z0 a0 → Touches L z0 (f a0)) :
    Touches L z0 (State.applyOnce s ws f) := by
  unfold State.applyOnce
  repeat' first
    | (with_reducible first | intro _ | assumption | exact Touches.refl | apply h_f | apply Touches.ite | apply Touches.modRm
                            | refine Touches.ofFst (by assumption) ?_)
    | exact covers_trans hL rfl | extract_lets -underBinder | split
    | dsimp +zetaDelta only

theorem State.resolveStep_touches {L : List Part} {z0 : State} {s : State} {n : Nat} {dec : Nat} (hz : Touches L z0 s)
    (hL : covers L [.regs, .cores, .out, .counter, .msix, .fab, .stack, .peat, .far, .caches, .ud0, .ud1, .sched] = true) :
    Touches L z0 (State.resolveStep s n dec) := by
  refine hz.andThen (A := [.regs, .cores, .out, .counter, .msix, .fab, .stack, .peat, .far, .caches, .ud0, .ud1, .sched]) ?_ hL
  unfold State.resolveStep
  repeat' first
    | (with_reducible first | intro _ | assumption | exact Touches.refl | apply State.commitStep_touches | apply State.dropClosed_touches
                            | apply State.endStopped_touches | apply State.modUd_touches | apply State.stopAll_touches | apply Touches.ite
                            | apply Touches.foldl | apply Touches.foldlFst)
    | exact rfl | extract_lets -underBinder | split

theorem State.gotDecision_touches {L : List Part} {z0 : State} {s : State} {m : CtrlMsg} (hz : Touches L z0 s)
    (hL : covers L [.regs, .cores, .out, .counter, .msix, .fab, .stack, .peat, .far, .caches, .ud0, .ud1, .sched, .rm] = true) :
    Touches L z0 (State.gotDecision s m) := by
  refine hz.andThen (A := [.regs, .cores, .out, .counter, .msix, .fab, .stack, .peat, .far, .caches, .ud0, .ud1, .sched, .rm]) ?_ hL
  unfold State.gotDecision
  repeat' first
    | (with_reducible first | intro _ | assumption | exact Touches.refl | apply State.applyOnce_touches | apply State.resolveStep_touches)
    | exact rfl | extract_lets -underBinder | split

theorem State.gotNormTotal_touches {L : List Part} {z0 : State} {s : State} {m : CtrlMsg} (hz : Touches L z0 s)
    (hL : covers L [.regs, .out, .msix, .stack, .far, .caches] = true) :
    Touches L z0 (State.gotNormTotal s m) := by
  refine hz.andThen (A := [.regs, .out, .msix, .stack, .far, .caches]) ?_ hL
  unfold State.gotNormTotal
  repeat' first
    | (with_reducible first | intro _ | assumption | exact Touches.refl | apply State.applyInc_touches | apply State.hallWrite_touches
                            | apply Touches.foldl | apply Touches.foldlFst)
    | exact rfl | extract_lets -underBinder | split

theorem State.gotPrepare_touches {L : List Part} {z0 : State} {s : State} {m : CtrlMsg} (hz : Touches L z0 s)
    (hL : covers L [.regs, .out, .fab, .staged] = true) :
    Touches L z0 (State.gotPrepare s m) := by
  refine hz.andThen (A := [.regs, .out, .fab, .staged]) ?_ hL
  unfold State.gotPrepare
  repeat' first
    | (with_reducible first | intro _ | assumption | exact Touches.refl | apply State.health_touches | apply Touches.modPkg
                            | refine Touches.ofFst (by assumption) ?_)
    | exact rfl | extract_lets -underBinder
    | (refine ⟨?_, ?_, ?_, ?_, ?_, ?_, ?_, ?_, ?_, ?_, ?_⟩ <;> first | exact .inl (by decide) | exact .inr rfl)
    | split

theorem State.startRearm_touches {L : List Part} {z0 : State} {s : State} {b : Nat} {e : Nat} (hz : Touches L z0 s)
    (hL : covers L [.regs, .cores, .out, .msix, .caches] = true) : Touches L z0 (State.startRearm s b e) := by
  unfold State.startRearm
  exact State.startStream_touches (State.setReg_touches (State.setReg_touches (State.modCore_touches hz (covers_trans hL rfl)
    fun _ => CoreSt.foldl_wf fun _ _ => CoreSt.locPut_wf _ _) (covers_trans hL rfl)) (covers_trans hL rfl)) hL

theorem State.migrStart_touches {L : List Part} {z0 : State} {s : State} {k : Nat} {m : Migration} (hz : Touches L z0 s)
    (hL : covers L [.regs, .out, .counter, .msix, .fab, .caches, .dir, .ud0, .ud1, .staged] = true) :
    Touches L z0 (State.migrStart s k m) := by
  refine hz.andThen (A := [.regs, .out, .counter, .msix, .fab, .caches, .dir, .ud0, .ud1, .staged]) ?_ hL
  unfold State.migrStart
  repeat' first
    | (with_reducible first | intro _ | assumption | exact Touches.refl | apply State.udCkpt_touches | apply State.udRestore_touches
                            | apply Touches.ite | apply Touches.modPkg | refine Touches.ofFst (by assumption) ?_)
    | exact rfl | extract_lets -underBinder
    | (refine ⟨?_, ?_, ?_, ?_, ?_, ?_, ?_, ?_, ?_, ?_, ?_⟩ <;> first | exact .inl (by decide) | exact .inr rfl)
    | split
    | (show Touches _ _ (Prod.fst _); dsimp only)
    | dsimp +zetaDelta only

theorem State.migrate_touches {L : List Part} {z0 : State} {s : State} {give : Bool} (hz : Touches L z0 s)
    (hL : covers L [.regs, .out, .counter, .msix, .fab, .caches, .dir, .ud0, .ud1, .staged] = true) :
    Touches L z0 ((State.migrate s give).1) := by
  refine hz.andThen (A := [.regs, .out, .counter, .msix, .fab, .caches, .dir, .ud0, .ud1, .staged]) ?_ hL
  unfold State.migrate
  refine TouchesP.out ?_
  repeat' first
    | (with_reducible first | intro _ | assumption | exact Touches.refl | apply State.migrStart_touches | apply Touches.ite | apply TouchesP.ite
                            | apply TouchesP.pairIte | apply Touches.foldl | apply Touches.foldlFst)
    | exact rfl | extract_lets -underBinder | split
    | (with_reducible first | apply TouchesP.pair)
    | (show Touches _ _ (Prod.fst _); dsimp only)

theorem State.rearmPhase_touches {L : List Part} {z0 : State} {s : State} {e : Nat} {p : Option Nat} (hz : Touches L z0 s)
    (hL : covers L [.rm] = true) :
    Touches L z0 (State.rearmPhase s e p) := by
  refine hz.andThen (A := [.rm]) ?_ hL
  unfold State.rearmPhase
  repeat' first
    | (with_reducible first | intro _ | assumption | exact Touches.refl | apply Touches.modRm)
    | exact rfl | extract_lets -underBinder | split

theorem State.settleTakes_touches {L : List Part} {z0 : State} {s : State} {e : Nat} (hz : Touches L z0 s)
    (hL : covers L [.regs, .out, .counter, .msix, .fab, .caches, .dir, .ud0, .ud1, .staged, .rm] = true) :
    Touches L z0 (State.settleTakes s e) := by
  refine hz.andThen (A := [.regs, .out, .counter, .msix, .fab, .caches, .dir, .ud0, .ud1, .staged, .rm]) ?_ hL
  unfold State.settleTakes
  repeat' first
    | (with_reducible first | intro _ | assumption | exact Touches.refl | apply State.health_touches | apply State.migrate_touches
                            | apply State.placeEpoch_touches | apply State.rearmPhase_touches | apply Touches.ite)
    | exact rfl | extract_lets -underBinder | split
    | (show Touches _ _ (Prod.fst _); dsimp only)

theorem State.settleGives_touches {L : List Part} {z0 : State} {s : State} {e : Nat} (hz : Touches L z0 s)
    (hL : covers L [.regs, .cores, .out, .counter, .time, .msix, .fab, .stack, .peat, .far, .caches, .dir, .pwr, .ud0, .ud1, .sched, .staged, .rm] = true) :
    Touches L z0 (State.settleGives s e) := by
  refine hz.andThen (A := [.regs, .cores, .out, .counter, .time, .msix, .fab, .stack, .peat, .far, .caches, .dir, .pwr, .ud0, .ud1, .sched, .staged, .rm]) ?_ hL
  unfold State.settleGives
  repeat' first
    | (with_reducible first | intro _ | assumption | exact Touches.refl | apply State.loadImage_touches | apply State.migrate_touches
                            | apply State.rearmPhase_touches | apply State.settleTakes_touches | apply Touches.ite | apply Touches.modPkg
                            | refine Touches.ofFst (by assumption) ?_)
    | exact rfl | extract_lets -underBinder
    | (refine ⟨?_, ?_, ?_, ?_, ?_, ?_, ?_, ?_, ?_, ?_, ?_⟩ <;> first | exact .inl (by decide) | exact .inr rfl)
    | split
    | (show Touches _ _ (Prod.fst _); dsimp only)
    | dsimp +zetaDelta only

theorem State.settleEpoch_touches {L : List Part} {z0 : State} {s : State} (hz : Touches L z0 s)
    (hL : covers L [.regs, .cores, .out, .counter, .time, .msix, .fab, .stack, .peat, .far, .caches, .dir, .pwr, .ud0, .ud1, .sched, .staged, .rm] = true) :
    Touches L z0 (State.settleEpoch s) := by
  refine hz.andThen (A := [.regs, .cores, .out, .counter, .time, .msix, .fab, .stack, .peat, .far, .caches, .dir, .pwr, .ud0, .ud1, .sched, .staged, .rm]) ?_ hL
  unfold State.settleEpoch
  repeat' first
    | (with_reducible first | intro _ | assumption | exact Touches.refl | apply State.rearmPhase_touches | apply State.settleGives_touches
                            | apply State.settleTakes_touches | apply State.startRearm_touches | apply State.stopAll_touches | apply Touches.ite
                            | apply Touches.modPkg | refine Touches.ofFst (by assumption) ?_)
    | exact rfl | extract_lets -underBinder
    | (refine ⟨?_, ?_, ?_, ?_, ?_, ?_, ?_, ?_, ?_, ?_, ?_⟩ <;> first | exact .inl (by decide) | exact .inr rfl)
    | split
    | dsimp +zetaDelta only

theorem State.gotClose_touches {L : List Part} {z0 : State} {s : State} {m : CtrlMsg} (hz : Touches L z0 s)
    (hL : covers L [.regs, .cores, .out, .counter, .time, .msix, .fab, .stack, .peat, .far, .caches, .dir, .pwr, .ud0, .ud1, .sched, .staged, .rm] = true) :
    Touches L z0 (State.gotClose s m) := by
  refine hz.andThen (A := [.regs, .cores, .out, .counter, .time, .msix, .fab, .stack, .peat, .far, .caches, .dir, .pwr, .ud0, .ud1, .sched, .staged, .rm]) ?_ hL
  unfold State.gotClose
  repeat' first
    | (with_reducible first | intro _ | assumption | exact Touches.refl | apply State.applyOnce_touches | apply State.rearmPhase_touches
                            | apply State.resolveStep_touches | apply State.settleEpoch_touches | refine Touches.ofFst (by assumption) ?_)
    | exact rfl | extract_lets -underBinder | split
    | dsimp +zetaDelta only

theorem State.startZone_touches {L : List Part} {z0 : State} {s : State} {z : Nat} (hz : Touches L z0 s)
    (hL : covers L [.regs, .cores, .out, .msix, .caches] = true) :
    Touches L z0 (State.startZone s z) := by
  refine hz.andThen (A := [.regs, .cores, .out, .msix, .caches]) ?_ hL
  unfold State.startZone
  repeat' first
    | (with_reducible first | intro _ | assumption | exact Touches.refl | apply State.startStream_touches | apply Touches.ite | apply Touches.foldl
                            | apply Touches.foldlFst)
    | exact rfl | extract_lets -underBinder | split

theorem State.openZones_touches {L : List Part} {z0 : State} {s : State} (hz : Touches L z0 s)
    (hL : covers L [.regs, .cores, .out, .msix, .caches, .rm] = true) :
    Touches L z0 (State.openZones s) := by
  refine hz.andThen (A := [.regs, .cores, .out, .msix, .caches, .rm]) ?_ hL
  unfold State.openZones
  repeat' first
    | (with_reducible first | intro _ | assumption | exact Touches.refl | apply State.startZone_touches | apply Touches.ite | apply Touches.foldl
                            | apply Touches.foldlFst | apply Touches.modRm | refine Touches.ofFst (by assumption) ?_)
    | exact rfl | extract_lets -underBinder | split
    | dsimp +zetaDelta only

theorem State.gotOpen_touches {L : List Part} {z0 : State} {s : State} {m : CtrlMsg} (hz : Touches L z0 s)
    (hL : covers L [.regs, .cores, .out, .msix, .caches, .rm] = true) :
    Touches L z0 (State.gotOpen s m) := by
  refine hz.andThen (A := [.regs, .cores, .out, .msix, .caches, .rm]) ?_ hL
  unfold State.gotOpen
  repeat' first
    | (with_reducible first | intro _ | assumption | exact Touches.refl | apply State.applyOnce_touches | apply State.openZones_touches
                            | apply Touches.modRm)
    | exact rfl | extract_lets -underBinder | split

theorem State.staleRead_touches {L : List Part} {z0 : State} {s : State} (hz : Touches L z0 s)
    (hL : covers L [.regs, .cores, .out, .counter, .time, .msix, .fab, .stack, .peat, .far, .caches, .dir, .pwr, .ud0, .ud1, .sched, .staged, .rm] = true) :
    Touches L z0 (State.staleRead s) := by
  refine hz.andThen (A := [.regs, .cores, .out, .counter, .time, .msix, .fab, .stack, .peat, .far, .caches, .dir, .pwr, .ud0, .ud1, .sched, .staged, .rm]) ?_ hL
  unfold State.staleRead
  repeat' first
    | (with_reducible first | intro _ | assumption | exact Touches.refl | apply State.health_touches | apply State.setReg_touches
                            | apply State.settleEpoch_touches | apply Touches.ite | apply Touches.foldl | apply Touches.foldlFst)
    | exact rfl | extract_lets -underBinder | split

theorem execStreamStopped_touches {core : Nat} {stream : Nat} {s : State} {t : State} (hx : execStreamStopped core stream s = .next t) :
    Touches [.regs, .cores, .out, .counter, .time, .msix, .fab, .stack, .peat, .far, .caches, .dir, .pwr, .ud0, .ud1, .sched, .staged, .rm] s t := by
  obtain rfl := Host.Outcome.next.inj hx
  repeat' first
    | (with_reducible first | intro _ | assumption | exact Touches.refl | apply State.settleEpoch_touches | apply State.streamStopped_touches)
    | exact rfl | extract_lets -underBinder | split

theorem execStreamEntersHalted_touches {core : Nat} {stream : Nat} {s : State} {t : State}
    (hx : execStreamEntersHalted core stream s = .next t) :
    Touches [.regs, .cores, .incs, .out, .counter, .time, .msix, .fab, .stack, .peat, .far, .caches, .dir, .pwr, .ud0, .ud1, .sched, .staged, .rm] s t := by
  obtain rfl := Host.Outcome.next.inj hx
  repeat' first
    | (with_reducible first | intro _ | assumption | exact Touches.refl | apply State.entersHalted_touches | apply State.settleEpoch_touches)
    | exact rfl | extract_lets -underBinder | split

theorem execCkptDone_touches {die : Nat} {s : State} {t : State} (hx : execCkptDone die s = .next t) :
    Touches [.regs, .cores, .out, .counter, .time, .msix, .fab, .stack, .peat, .far, .caches, .dir, .pwr, .ud0, .ud1, .sched, .journal, .commands, .completions, .staged, .rm] s t := by
  obtain rfl := Host.Outcome.next.inj hx
  repeat' first
    | (with_reducible first | intro _ | assumption | exact Touches.refl | apply State.ckptDone_touches | apply State.settleEpoch_touches)
    | exact rfl | extract_lets -underBinder | split

theorem execEntryComplete_touches {die : Nat} {idx : Nat} {s : State} {t : State} (hx : execEntryComplete die idx s = .next t) :
    Touches [.regs, .cores, .incs, .out, .counter, .time, .msix, .fab, .stack, .peat, .far, .caches, .dir, .pwr, .ud0, .ud1, .sched, .staged, .rm] s t := by
  obtain rfl := Host.Outcome.next.inj hx
  repeat' first
    | (with_reducible first | intro _ | assumption | exact Touches.refl | apply State.entryComplete_touches | apply State.settleEpoch_touches)
    | exact rfl | extract_lets -underBinder | split

theorem execWalkComplete_touches {die : Nat} {s : State} {t : State} (hx : execWalkComplete die s = .next t) :
    Touches [.regs, .cores, .out, .counter, .time, .msix, .fab, .stack, .peat, .far, .caches, .dir, .pwr, .ud0, .ud1, .sched, .staged, .rm] s t := by
  obtain rfl := Host.Outcome.next.inj hx
  repeat' first
    | (with_reducible first | intro _ | assumption | exact Touches.refl | apply State.settleEpoch_touches | apply State.walkComplete_touches)
    | exact rfl | extract_lets -underBinder | split

theorem execTickBoundary_touches {zone : Nat} {s : State} {t : State} (hx : execTickBoundary zone s = .next t) :
    Touches [.regs, .cores, .out, .time, .msix, .caches, .pwr, .rm] s t := by
  obtain rfl := Host.Outcome.next.inj hx
  repeat' first
    | (with_reducible first | intro _ | assumption | exact Touches.refl | apply State.openZones_touches | apply State.tickBoundary_touches)
    | exact rfl | extract_lets -underBinder | split

theorem execStaleRead_touches {s : State} {t : State} (hx : execStaleRead s = .next t) :
    Touches [.regs, .cores, .out, .counter, .time, .msix, .fab, .stack, .peat, .far, .caches, .dir, .pwr, .ud0, .ud1, .sched, .staged, .rm] s t := by
  obtain rfl := Host.Outcome.next.inj hx
  repeat' first
    | (with_reducible first | intro _ | assumption | exact Touches.refl | apply State.staleRead_touches)
    | exact rfl | extract_lets -underBinder | split

theorem State.fabQuery_touches {L : List Part} {z0 : State} {u : List Nat} {s : State} (hz : Touches L z0 s) (hL : covers L [] = true) :
    Touches L z0 ((State.fabQuery u s).1) := by
  refine hz.andThen (A := []) ?_ hL
  unfold State.fabQuery
  refine TouchesP.out ?_
  repeat' first
    | (with_reducible first | intro _ | assumption | exact Touches.refl | apply State.answered_touches)
    | exact rfl | extract_lets -underBinder | split
    | (with_reducible first | apply TouchesP.pair)
    | (show Touches _ _ (Prod.fst _); dsimp only)

theorem State.fabPortSet_touches {L : List Part} {z0 : State} {a : List Nat} {s : State} (hz : Touches L z0 s)
    (hL : covers L [.regs, .out, .msix, .fab] = true) :
    Touches L z0 ((State.fabPortSet a s).1) := by
  refine hz.andThen (A := [.regs, .out, .msix, .fab]) ?_ hL
  unfold State.fabPortSet
  refine TouchesP.out ?_
  repeat' first
    | (with_reducible first | intro _ | assumption | exact Touches.refl | apply State.portFail_touches | apply State.wr_touches | apply Touches.ite
                            | apply TouchesP.ite | apply TouchesP.pairIte | apply Touches.foldl | apply Touches.foldlFst)
    | exact rfl | extract_lets -underBinder | split
    | (with_reducible first | apply TouchesP.pair)
    | (show Touches _ _ (Prod.fst _); dsimp only)

theorem State.fabJoin_touches {L : List Part} {z0 : State} {u : List Nat} {s : State} (hz : Touches L z0 s)
    (hL : covers L [.regs, .out, .msix, .rm] = true) :
    Touches L z0 ((State.fabJoin u s).1) := by
  refine hz.andThen (A := [.regs, .out, .msix, .rm]) ?_ hL
  unfold State.fabJoin
  refine TouchesP.out ?_
  repeat' first
    | (with_reducible first | intro _ | assumption | exact Touches.refl | apply State.refuse_touches | apply State.setEnrol_touches
                            | apply Touches.ite | apply TouchesP.ite | apply TouchesP.pairIte)
    | exact rfl | extract_lets -underBinder | split
    | (with_reducible first | apply TouchesP.pair)
    | (show Touches _ _ (Prod.fst _); dsimp only)

theorem State.fabLeave_touches {L : List Part} {z0 : State} {u : List Nat} {s : State} (hz : Touches L z0 s)
    (hL : covers L [.regs, .out, .msix, .fab, .rm] = true) :
    Touches L z0 ((State.fabLeave u s).1) := by
  refine hz.andThen (A := [.regs, .out, .msix, .fab, .rm]) ?_ hL
  unfold State.fabLeave
  refine TouchesP.out ?_
  repeat' first
    | (with_reducible first | intro _ | assumption | exact Touches.refl | apply State.refuse_touches | apply State.setEnrol_touches
                            | apply State.toRm_touches | apply Touches.ite | apply TouchesP.ite | apply TouchesP.pairIte)
    | exact rfl | extract_lets -underBinder | split
    | (with_reducible first | apply TouchesP.pair)
    | (show Touches _ _ (Prod.fst _); dsimp only)

theorem State.rmCommand_touches {L : List Part} {z0 : State} {code : Nat} {seq : Nat} {reply : Option (Nat × Nat × List Nat)}
    {f : List Nat → State → State × Ans} {a : List Nat} {s : State} (hz : Touches L z0 s)
    (hL : covers L [.regs, .out, .msix, .fab, .staged, .rm] = true)
    (h_f : ∀ a0 a1, Touches L z0 a1 → Touches L z0 (f a0 a1).1) :
    Touches L z0 ((State.rmCommand code seq reply f a s).1) := by
  unfold State.rmCommand
  refine TouchesP.out ?_
  repeat' first
    | (with_reducible first | intro _ | assumption | exact Touches.refl | apply h_f | apply State.emit_touches | apply State.forward_touches
                            | apply State.refuse_touches | apply State.rmSettle_touches | apply Touches.ite | apply TouchesP.ite
                            | apply TouchesP.pairIte | apply Touches.modPkg | refine Touches.ofFst (by assumption) ?_)
    | exact covers_trans hL rfl | extract_lets -underBinder
    | (refine ⟨?_, ?_, ?_, ?_, ?_, ?_, ?_, ?_, ?_, ?_, ?_⟩ <;> first | exact .inl (covers_iff.1 hL _ (by decide)) | exact .inr rfl)
    | split
    | (with_reducible first | apply TouchesP.pair)
    | (show Touches _ _ (Prod.fst _); dsimp only)
    | dsimp +zetaDelta only

theorem State.rmQuery_touches {L : List Part} {z0 : State} {u : List Nat} {s : State} (hz : Touches L z0 s) (hL : covers L [.rm] = true) :
    Touches L z0 ((State.rmQuery u s).1) := by
  refine hz.andThen (A := [.rm]) ?_ hL
  unfold State.rmQuery
  refine TouchesP.out ?_
  repeat' first
    | (with_reducible first | intro _ | assumption | exact Touches.refl | apply Touches.ite | apply TouchesP.ite | apply TouchesP.pairIte
                            | apply Touches.modRm | refine Touches.ofFst (by assumption) ?_)
    | exact rfl | extract_lets -underBinder | split
    | (with_reducible first | apply TouchesP.pair)
    | (show Touches _ _ (Prod.fst _); dsimp only)
    | dsimp +zetaDelta only

theorem State.rmReshard_touches {L : List Part} {z0 : State} {layout : List Nat} {a : List Nat} {s : State} (hz : Touches L z0 s)
    (hL : covers L [.regs, .out, .fab, .rm] = true) :
    Touches L z0 ((State.rmReshard layout a s).1) := by
  refine hz.andThen (A := [.regs, .out, .fab, .rm]) ?_ hL
  unfold State.rmReshard
  refine TouchesP.out ?_
  repeat' first
    | (with_reducible first | intro _ | assumption | exact Touches.refl | apply State.refuse_touches | apply State.rmLayout_touches
                            | apply Touches.ite | apply TouchesP.ite | apply TouchesP.pairIte | apply Touches.modRm)
    | exact rfl | extract_lets -underBinder | split
    | (with_reducible first | apply TouchesP.pair)
    | (show Touches _ _ (Prod.fst _); dsimp only)

theorem State.rmTick_touches {L : List Part} {z0 : State} {a : List Nat} {s : State} (hz : Touches L z0 s)
    (hL : covers L [.regs, .out, .fab, .rm] = true) :
    Touches L z0 ((State.rmTick a s).1) := by
  refine hz.andThen (A := [.regs, .out, .fab, .rm]) ?_ hL
  unfold State.rmTick
  refine TouchesP.out ?_
  repeat' first
    | (with_reducible first | intro _ | assumption | exact Touches.refl | apply State.changeTick_touches | apply State.refuse_touches
                            | apply Touches.ite | apply TouchesP.ite | apply TouchesP.pairIte | refine Touches.ofFst (by assumption) ?_)
    | exact rfl | extract_lets -underBinder | split
    | (with_reducible first | apply TouchesP.pair)
    | (show Touches _ _ (Prod.fst _); dsimp only)
    | dsimp +zetaDelta only

theorem State.rmPolicy_touches {L : List Part} {z0 : State} {a : List Nat} {s : State} (hz : Touches L z0 s) (hL : covers L [.rm] = true) :
    Touches L z0 ((State.rmPolicy a s).1) := by
  refine hz.andThen (A := [.rm]) ?_ hL
  unfold State.rmPolicy
  refine TouchesP.out ?_
  repeat' first
    | (with_reducible first | intro _ | assumption | exact Touches.refl | apply Touches.modRm)
    | exact rfl | extract_lets -underBinder | split
    | (with_reducible first | apply TouchesP.pair)
    | (show Touches _ _ (Prod.fst _); dsimp only)

theorem State.rmHandover_touches {L : List Part} {z0 : State} {u : List Nat} {s : State} (hz : Touches L z0 s)
    (hL : covers L [.regs, .out, .fab, .rm] = true) :
    Touches L z0 ((State.rmHandover u s).1) := by
  refine hz.andThen (A := [.regs, .out, .fab, .rm]) ?_ hL
  unfold State.rmHandover
  refine TouchesP.out ?_
  repeat' first
    | (with_reducible first | intro _ | assumption | exact Touches.refl | apply State.refuse_touches | apply State.sync_touches | apply Touches.ite
                            | apply TouchesP.ite | apply TouchesP.pairIte | apply Touches.modRm)
    | exact rfl | extract_lets -underBinder | split
    | (with_reducible first | apply TouchesP.pair)
    | (show Touches _ _ (Prod.fst _); dsimp only)

theorem execFabQuery_touches {via : Via} {s : State} {t : State} (hx : execFabQuery via s = .next t) :
    Touches [.regs, .out, .msix, .journal, .commands, .completions] s t := by
  obtain rfl := Host.Outcome.next.inj hx
  repeat' first
    | (with_reducible first | intro _ | assumption | exact Touches.refl | apply State.command_touches | apply State.fabQuery_touches)
    | exact rfl | extract_lets -underBinder | split
    | (show Touches _ _ (Prod.fst _); dsimp only)

theorem execFabPortSet_touches {via : Via} {s : State} {t : State} (hx : execFabPortSet via s = .next t) :
    Touches [.regs, .out, .msix, .fab, .journal, .commands, .completions] s t := by
  obtain rfl := Host.Outcome.next.inj hx
  repeat' first
    | (with_reducible first | intro _ | assumption | exact Touches.refl | apply State.command_touches | apply State.fabPortSet_touches)
    | exact rfl | extract_lets -underBinder | split
    | (show Touches _ _ (Prod.fst _); dsimp only)

theorem execFabJoin_touches {via : Via} {s : State} {t : State} (hx : execFabJoin via s = .next t) :
    Touches [.regs, .out, .msix, .journal, .commands, .completions, .rm] s t := by
  obtain rfl := Host.Outcome.next.inj hx
  repeat' first
    | (with_reducible first | intro _ | assumption | exact Touches.refl | apply State.command_touches | apply State.fabJoin_touches)
    | exact rfl | extract_lets -underBinder | split
    | (show Touches _ _ (Prod.fst _); dsimp only)

theorem execFabLeave_touches {via : Via} {s : State} {t : State} (hx : execFabLeave via s = .next t) :
    Touches [.regs, .out, .msix, .fab, .journal, .commands, .completions, .rm] s t := by
  obtain rfl := Host.Outcome.next.inj hx
  repeat' first
    | (with_reducible first | intro _ | assumption | exact Touches.refl | apply State.command_touches | apply State.fabLeave_touches)
    | exact rfl | extract_lets -underBinder | split
    | (show Touches _ _ (Prod.fst _); dsimp only)

theorem execRmQuery_touches {v : RmVia} {s : State} {t : State} (hx : execRmQuery v s = .next t) :
    Touches [.regs, .out, .msix, .fab, .journal, .commands, .completions, .staged, .rm] s t := by
  obtain rfl := Host.Outcome.next.inj hx
  repeat' first
    | (with_reducible first | intro _ | assumption | exact Touches.refl | apply State.command_touches | apply State.reply_touches
                            | apply State.rmCommand_touches | apply State.rmQuery_touches)
    | exact rfl | extract_lets -underBinder | split
    | (show Touches _ _ (Prod.fst _); dsimp only)

theorem execRmReshard_touches {v : RmVia} {layout : List Nat} {s : State} {t : State} (hx : execRmReshard v layout s = .next t) :
    Touches [.regs, .out, .msix, .fab, .journal, .commands, .completions, .staged, .rm] s t := by
  obtain rfl := Host.Outcome.next.inj hx
  repeat' first
    | (with_reducible first | intro _ | assumption | exact Touches.refl | apply State.command_touches | apply State.reply_touches
                            | apply State.rmCommand_touches | apply State.rmReshard_touches)
    | exact rfl | extract_lets -underBinder | split
    | (show Touches _ _ (Prod.fst _); dsimp only)

theorem execRmTick_touches {v : RmVia} {s : State} {t : State} (hx : execRmTick v s = .next t) :
    Touches [.regs, .out, .msix, .fab, .journal, .commands, .completions, .staged, .rm] s t := by
  obtain rfl := Host.Outcome.next.inj hx
  repeat' first
    | (with_reducible first | intro _ | assumption | exact Touches.refl | apply State.command_touches | apply State.reply_touches
                            | apply State.rmCommand_touches | apply State.rmTick_touches)
    | exact rfl | extract_lets -underBinder | split
    | (show Touches _ _ (Prod.fst _); dsimp only)

theorem execRmPolicy_touches {v : RmVia} {s : State} {t : State} (hx : execRmPolicy v s = .next t) :
    Touches [.regs, .out, .msix, .fab, .journal, .commands, .completions, .staged, .rm] s t := by
  obtain rfl := Host.Outcome.next.inj hx
  repeat' first
    | (with_reducible first | intro _ | assumption | exact Touches.refl | apply State.command_touches | apply State.reply_touches
                            | apply State.rmCommand_touches | apply State.rmPolicy_touches)
    | exact rfl | extract_lets -underBinder | split
    | (show Touches _ _ (Prod.fst _); dsimp only)

theorem execRmHandover_touches {v : RmVia} {s : State} {t : State} (hx : execRmHandover v s = .next t) :
    Touches [.regs, .out, .msix, .fab, .journal, .commands, .completions, .staged, .rm] s t := by
  obtain rfl := Host.Outcome.next.inj hx
  repeat' first
    | (with_reducible first | intro _ | assumption | exact Touches.refl | apply State.command_touches | apply State.reply_touches
                            | apply State.rmCommand_touches | apply State.rmHandover_touches)
    | exact rfl | extract_lets -underBinder | split
    | (show Touches _ _ (Prod.fst _); dsimp only)

end Sys2Proof.Machine
end

