-- ==== Sys2Proof/Laws/Touch/CtrlRows.lean ====
section
/-!
SUPPORT. Laws/Touch/CtrlRows.lean: for each operation of Machine/CtrlRows.lean, what it can do: the queue stays, only the parts listed change, and the
registers and memories keep their canonical form.
-/

set_option linter.all false

namespace Sys2Proof.Machine

theorem State.applyCtrl_touches {L : List Part} {z0 : State} {s : State} {m : CtrlMsg} (hz : Touches L z0 s)
    (hL : covers L [.regs, .cores, .out, .counter, .time, .msix, .fab, .stack, .peat, .far, .caches, .dir, .pwr, .ud0, .ud1, .sched, .staged, .rm] = true) :
    Touches L z0 (State.applyCtrl s m) := by
  refine hz.andThen (A := [.regs, .cores, .out, .counter, .time, .msix, .fab, .stack, .peat, .far, .caches, .dir, .pwr, .ud0, .ud1, .sched, .staged, .rm]) ?_ hL
  unfold State.applyCtrl
  repeat' first
    | (with_reducible first | intro _ | assumption | exact Touches.refl | apply State.bump_touches | apply State.gotClaim_touches
                            | apply State.gotClose_touches | apply State.gotDecision_touches | apply State.gotDeny_touches
                            | apply State.gotEnrolReq_touches | apply State.gotGrant_touches | apply State.gotHbAck_touches
                            | apply State.gotHealth_touches | apply State.gotHeartbeat_touches | apply State.gotLeaveAckMsg_touches
                            | apply State.gotLeaveMsg_touches | apply State.gotNodeGen_touches | apply State.gotNormTotal_touches
                            | apply State.gotOpen_touches | apply State.gotPrepare_touches | apply State.gotReady_touches
                            | apply State.gotRemoved_touches | apply State.gotRouteSet_touches | apply State.gotSync_touches
                            | apply State.gotTickChange_touches | apply State.gotUnready_touches | apply State.gotWork_touches
                            | apply State.hears_touches | apply State.hearsFrom_touches | apply Touches.ite | apply Touches.modRm
                            | refine Touches.ofFst (by assumption) ?_)
    | exact rfl | extract_lets -underBinder | split
    | dsimp +zetaDelta only

theorem State.drainHeld_touches {L : List Part} {z s : State} {src n : Nat} (hz : Touches L z s)
    (hL : covers L [.regs, .cores, .out, .counter, .time, .msix, .fab, .stack, .peat, .far, .caches, .dir, .pwr, .ud0, .ud1, .sched,
      .staged, .rm] = true) : Touches L z (State.drainHeld s src n) := by
  induction n generalizing s with
  | zero => exact hz
  | succ n ih =>
    unfold State.drainHeld
    dsimp only
    split
    · exact hz
    · exact ih (State.applyCtrl_touches (Touches.modFab hz (covers_trans hL rfl)) hL)

theorem State.inOrder_touches {L : List Part} {z0 : State} {s : State} {m : CtrlMsg} (hz : Touches L z0 s)
    (hL : covers L [.regs, .cores, .out, .counter, .time, .msix, .fab, .stack, .peat, .far, .caches, .dir, .pwr, .ud0, .ud1, .sched, .staged, .rm] = true) :
    Touches L z0 (State.inOrder s m) := by
  refine hz.andThen (A := [.regs, .cores, .out, .counter, .time, .msix, .fab, .stack, .peat, .far, .caches, .dir, .pwr, .ud0, .ud1, .sched, .staged, .rm]) ?_ hL
  unfold State.inOrder
  repeat' first
    | (with_reducible first | intro _ | assumption | exact Touches.refl | apply State.applyCtrl_touches | apply State.drainHeld_touches
                            | apply Touches.ite | apply Touches.modFab)
    | exact rfl | extract_lets -underBinder | split

theorem State.intake_touches {L : List Part} {z0 : State} {s : State} {m : CtrlMsg} (hz : Touches L z0 s)
    (hL : covers L [.regs, .cores, .out, .counter, .time, .msix, .fab, .stack, .peat, .far, .caches, .dir, .pwr, .ud0, .ud1, .sched, .staged, .rm] = true) :
    Touches L z0 (State.intake s m) := by
  refine hz.andThen (A := [.regs, .cores, .out, .counter, .time, .msix, .fab, .stack, .peat, .far, .caches, .dir, .pwr, .ud0, .ud1, .sched, .staged, .rm]) ?_ hL
  unfold State.intake
  repeat' first
    | (with_reducible first | intro _ | assumption | exact Touches.refl | apply State.bump_touches | apply State.inOrder_touches
                            | apply State.raise_touches | apply State.rmSettle_touches | apply State.takeRx_touches | apply Touches.ite
                            | refine Touches.ofFst (by assumption) ?_)
    | exact rfl | extract_lets -underBinder | split
    | dsimp +zetaDelta only

theorem State.ctrlRow_touches {L : List Part} {z0 : State} {s : State} {typ : Nat} {code : Option Nat} {port : Nat} {src : Nat} {cseq : Nat}
    {trust : Bool} {words : List Nat} {st : Option RmSt} {image : Option SchedImage} (hz : Touches L z0 s)
    (hL : covers L [.regs, .cores, .out, .counter, .time, .msix, .fab, .stack, .peat, .far, .caches, .dir, .pwr, .ud0, .ud1, .sched, .staged, .rm] = true) :
    Touches L z0 (State.ctrlRow s typ code port src cseq trust words st image) := by
  refine hz.andThen (A := [.regs, .cores, .out, .counter, .time, .msix, .fab, .stack, .peat, .far, .caches, .dir, .pwr, .ud0, .ud1, .sched, .staged, .rm]) ?_ hL
  unfold State.ctrlRow
  repeat' first
    | (with_reducible first | intro _ | assumption | exact Touches.refl | apply State.intake_touches | apply Touches.ite)
    | exact rfl | extract_lets -underBinder | split

theorem State.holdExpiry_touches {L : List Part} {z0 : State} {s : State} {src : Nat} (hz : Touches L z0 s)
    (hL : covers L [.regs, .cores, .out, .counter, .time, .msix, .fab, .stack, .peat, .far, .caches, .dir, .pwr, .ud0, .ud1, .sched, .staged, .rm] = true) :
    Touches L z0 (State.holdExpiry s src) := by
  refine hz.andThen (A := [.regs, .cores, .out, .counter, .time, .msix, .fab, .stack, .peat, .far, .caches, .dir, .pwr, .ud0, .ud1, .sched, .staged, .rm]) ?_ hL
  unfold State.holdExpiry
  repeat' first
    | (with_reducible first | intro _ | assumption | exact Touches.refl | apply State.drainHeld_touches | apply State.rmSettle_touches
                            | apply Touches.ite | apply Touches.foldl | apply Touches.foldlFst | apply Touches.modFab
                            | refine Touches.ofFst (by assumption) ?_)
    | exact rfl | extract_lets -underBinder | split
    | dsimp +zetaDelta only

theorem execEnrolReq_touches {port : Nat} {src : Nat} {cseq : Nat} {trust : Bool} {words : List Nat} {s : State} {t : State}
    (hx : execEnrolReq port src cseq trust words s = .next t) :
    Touches [.regs, .cores, .out, .counter, .time, .msix, .fab, .stack, .peat, .far, .caches, .dir, .pwr, .ud0, .ud1, .sched, .staged, .rm] s t := by
  obtain rfl := Host.Outcome.next.inj hx
  repeat' first
    | (with_reducible first | intro _ | assumption | exact Touches.refl | apply State.ctrlRow_touches)
    | exact rfl | extract_lets -underBinder | split

theorem execEnrolGrant_touches {port : Nat} {src : Nat} {cseq : Nat} {trust : Bool} {words : List Nat} {s : State} {t : State}
    (hx : execEnrolGrant port src cseq trust words s = .next t) :
    Touches [.regs, .cores, .out, .counter, .time, .msix, .fab, .stack, .peat, .far, .caches, .dir, .pwr, .ud0, .ud1, .sched, .staged, .rm] s t := by
  obtain rfl := Host.Outcome.next.inj hx
  repeat' first
    | (with_reducible first | intro _ | assumption | exact Touches.refl | apply State.ctrlRow_touches)
    | exact rfl | extract_lets -underBinder | split

theorem execEnrolDeny_touches {port : Nat} {src : Nat} {cseq : Nat} {trust : Bool} {words : List Nat} {s : State} {t : State}
    (hx : execEnrolDeny port src cseq trust words s = .next t) :
    Touches [.regs, .cores, .out, .counter, .time, .msix, .fab, .stack, .peat, .far, .caches, .dir, .pwr, .ud0, .ud1, .sched, .staged, .rm] s t := by
  obtain rfl := Host.Outcome.next.inj hx
  repeat' first
    | (with_reducible first | intro _ | assumption | exact Touches.refl | apply State.ctrlRow_touches)
    | exact rfl | extract_lets -underBinder | split

theorem execReady_touches {port : Nat} {src : Nat} {cseq : Nat} {trust : Bool} {words : List Nat} {s : State} {t : State}
    (hx : execReady port src cseq trust words s = .next t) :
    Touches [.regs, .cores, .out, .counter, .time, .msix, .fab, .stack, .peat, .far, .caches, .dir, .pwr, .ud0, .ud1, .sched, .staged, .rm] s t := by
  obtain rfl := Host.Outcome.next.inj hx
  repeat' first
    | (with_reducible first | intro _ | assumption | exact Touches.refl | apply State.ctrlRow_touches)
    | exact rfl | extract_lets -underBinder | split

theorem execUnready_touches {port : Nat} {src : Nat} {cseq : Nat} {trust : Bool} {words : List Nat} {s : State} {t : State}
    (hx : execUnready port src cseq trust words s = .next t) :
    Touches [.regs, .cores, .out, .counter, .time, .msix, .fab, .stack, .peat, .far, .caches, .dir, .pwr, .ud0, .ud1, .sched, .staged, .rm] s t := by
  obtain rfl := Host.Outcome.next.inj hx
  repeat' first
    | (with_reducible first | intro _ | assumption | exact Touches.refl | apply State.ctrlRow_touches)
    | exact rfl | extract_lets -underBinder | split

theorem execWork_touches {port : Nat} {src : Nat} {cseq : Nat} {trust : Bool} {words : List Nat} {s : State} {t : State}
    (hx : execWork port src cseq trust words s = .next t) :
    Touches [.regs, .cores, .out, .counter, .time, .msix, .fab, .stack, .peat, .far, .caches, .dir, .pwr, .ud0, .ud1, .sched, .staged, .rm] s t := by
  obtain rfl := Host.Outcome.next.inj hx
  repeat' first
    | (with_reducible first | intro _ | assumption | exact Touches.refl | apply State.ctrlRow_touches)
    | exact rfl | extract_lets -underBinder | split

theorem execLeave_touches {port : Nat} {src : Nat} {cseq : Nat} {trust : Bool} {words : List Nat} {s : State} {t : State}
    (hx : execLeave port src cseq trust words s = .next t) :
    Touches [.regs, .cores, .out, .counter, .time, .msix, .fab, .stack, .peat, .far, .caches, .dir, .pwr, .ud0, .ud1, .sched, .staged, .rm] s t := by
  obtain rfl := Host.Outcome.next.inj hx
  repeat' first
    | (with_reducible first | intro _ | assumption | exact Touches.refl | apply State.ctrlRow_touches)
    | exact rfl | extract_lets -underBinder | split

theorem execLeaveAck_touches {port : Nat} {src : Nat} {cseq : Nat} {trust : Bool} {words : List Nat} {s : State} {t : State}
    (hx : execLeaveAck port src cseq trust words s = .next t) :
    Touches [.regs, .cores, .out, .counter, .time, .msix, .fab, .stack, .peat, .far, .caches, .dir, .pwr, .ud0, .ud1, .sched, .staged, .rm] s t := by
  obtain rfl := Host.Outcome.next.inj hx
  repeat' first
    | (with_reducible first | intro _ | assumption | exact Touches.refl | apply State.ctrlRow_touches)
    | exact rfl | extract_lets -underBinder | split

theorem execHeartbeat_touches {port : Nat} {src : Nat} {cseq : Nat} {trust : Bool} {words : List Nat} {s : State} {t : State}
    (hx : execHeartbeat port src cseq trust words s = .next t) :
    Touches [.regs, .cores, .out, .counter, .time, .msix, .fab, .stack, .peat, .far, .caches, .dir, .pwr, .ud0, .ud1, .sched, .staged, .rm] s t := by
  obtain rfl := Host.Outcome.next.inj hx
  repeat' first
    | (with_reducible first | intro _ | assumption | exact Touches.refl | apply State.ctrlRow_touches)
    | exact rfl | extract_lets -underBinder | split

theorem execRouteSet_touches {port : Nat} {src : Nat} {cseq : Nat} {trust : Bool} {words : List Nat} {s : State} {t : State}
    (hx : execRouteSet port src cseq trust words s = .next t) :
    Touches [.regs, .cores, .out, .counter, .time, .msix, .fab, .stack, .peat, .far, .caches, .dir, .pwr, .ud0, .ud1, .sched, .staged, .rm] s t := by
  obtain rfl := Host.Outcome.next.inj hx
  repeat' first
    | (with_reducible first | intro _ | assumption | exact Touches.refl | apply State.ctrlRow_touches)
    | exact rfl | extract_lets -underBinder | split

theorem execRmClaim_touches {port : Nat} {src : Nat} {cseq : Nat} {trust : Bool} {words : List Nat} {s : State} {t : State}
    (hx : execRmClaim port src cseq trust words s = .next t) :
    Touches [.regs, .cores, .out, .counter, .time, .msix, .fab, .stack, .peat, .far, .caches, .dir, .pwr, .ud0, .ud1, .sched, .staged, .rm] s t := by
  obtain rfl := Host.Outcome.next.inj hx
  repeat' first
    | (with_reducible first | intro _ | assumption | exact Touches.refl | apply State.ctrlRow_touches)
    | exact rfl | extract_lets -underBinder | split

theorem execHbAck_touches {port : Nat} {src : Nat} {cseq : Nat} {trust : Bool} {words : List Nat} {s : State} {t : State}
    (hx : execHbAck port src cseq trust words s = .next t) :
    Touches [.regs, .cores, .out, .counter, .time, .msix, .fab, .stack, .peat, .far, .caches, .dir, .pwr, .ud0, .ud1, .sched, .staged, .rm] s t := by
  obtain rfl := Host.Outcome.next.inj hx
  repeat' first
    | (with_reducible first | intro _ | assumption | exact Touches.refl | apply State.ctrlRow_touches)
    | exact rfl | extract_lets -underBinder | split

theorem execTickChange_touches {port : Nat} {src : Nat} {cseq : Nat} {trust : Bool} {words : List Nat} {s : State} {t : State}
    (hx : execTickChange port src cseq trust words s = .next t) :
    Touches [.regs, .cores, .out, .counter, .time, .msix, .fab, .stack, .peat, .far, .caches, .dir, .pwr, .ud0, .ud1, .sched, .staged, .rm] s t := by
  obtain rfl := Host.Outcome.next.inj hx
  repeat' first
    | (with_reducible first | intro _ | assumption | exact Touches.refl | apply State.ctrlRow_touches)
    | exact rfl | extract_lets -underBinder | split

theorem execEpochClose_touches {port : Nat} {src : Nat} {cseq : Nat} {trust : Bool} {words : List Nat} {s : State} {t : State}
    (hx : execEpochClose port src cseq trust words s = .next t) :
    Touches [.regs, .cores, .out, .counter, .time, .msix, .fab, .stack, .peat, .far, .caches, .dir, .pwr, .ud0, .ud1, .sched, .staged, .rm] s t := by
  obtain rfl := Host.Outcome.next.inj hx
  repeat' first
    | (with_reducible first | intro _ | assumption | exact Touches.refl | apply State.ctrlRow_touches)
    | exact rfl | extract_lets -underBinder | split

theorem execEpochOpen_touches {port : Nat} {src : Nat} {cseq : Nat} {trust : Bool} {words : List Nat} {s : State} {t : State}
    (hx : execEpochOpen port src cseq trust words s = .next t) :
    Touches [.regs, .cores, .out, .counter, .time, .msix, .fab, .stack, .peat, .far, .caches, .dir, .pwr, .ud0, .ud1, .sched, .staged, .rm] s t := by
  obtain rfl := Host.Outcome.next.inj hx
  repeat' first
    | (with_reducible first | intro _ | assumption | exact Touches.refl | apply State.ctrlRow_touches)
    | exact rfl | extract_lets -underBinder | split

theorem execStepDecide_touches {port : Nat} {src : Nat} {cseq : Nat} {trust : Bool} {words : List Nat} {s : State} {t : State}
    (hx : execStepDecide port src cseq trust words s = .next t) :
    Touches [.regs, .cores, .out, .counter, .time, .msix, .fab, .stack, .peat, .far, .caches, .dir, .pwr, .ud0, .ud1, .sched, .staged, .rm] s t := by
  obtain rfl := Host.Outcome.next.inj hx
  repeat' first
    | (with_reducible first | intro _ | assumption | exact Touches.refl | apply State.ctrlRow_touches)
    | exact rfl | extract_lets -underBinder | split

theorem execNormTotal_touches {port : Nat} {src : Nat} {cseq : Nat} {trust : Bool} {words : List Nat} {s : State} {t : State}
    (hx : execNormTotal port src cseq trust words s = .next t) :
    Touches [.regs, .cores, .out, .counter, .time, .msix, .fab, .stack, .peat, .far, .caches, .dir, .pwr, .ud0, .ud1, .sched, .staged, .rm] s t := by
  obtain rfl := Host.Outcome.next.inj hx
  repeat' first
    | (with_reducible first | intro _ | assumption | exact Touches.refl | apply State.ctrlRow_touches)
    | exact rfl | extract_lets -underBinder | split

theorem execNodeGen_touches {port : Nat} {src : Nat} {cseq : Nat} {trust : Bool} {words : List Nat} {s : State} {t : State}
    (hx : execNodeGen port src cseq trust words s = .next t) :
    Touches [.regs, .cores, .out, .counter, .time, .msix, .fab, .stack, .peat, .far, .caches, .dir, .pwr, .ud0, .ud1, .sched, .staged, .rm] s t := by
  obtain rfl := Host.Outcome.next.inj hx
  repeat' first
    | (with_reducible first | intro _ | assumption | exact Touches.refl | apply State.ctrlRow_touches)
    | exact rfl | extract_lets -underBinder | split

theorem execNodeRemoved_touches {port : Nat} {src : Nat} {cseq : Nat} {trust : Bool} {words : List Nat} {s : State} {t : State}
    (hx : execNodeRemoved port src cseq trust words s = .next t) :
    Touches [.regs, .cores, .out, .counter, .time, .msix, .fab, .stack, .peat, .far, .caches, .dir, .pwr, .ud0, .ud1, .sched, .staged, .rm] s t := by
  obtain rfl := Host.Outcome.next.inj hx
  repeat' first
    | (with_reducible first | intro _ | assumption | exact Touches.refl | apply State.ctrlRow_touches)
    | exact rfl | extract_lets -underBinder | split

theorem execHealthStepReport_touches {port : Nat} {src : Nat} {cseq : Nat} {trust : Bool} {words : List Nat} {s : State} {t : State}
    (hx : execHealthStepReport port src cseq trust words s = .next t) :
    Touches [.regs, .cores, .out, .counter, .time, .msix, .fab, .stack, .peat, .far, .caches, .dir, .pwr, .ud0, .ud1, .sched, .staged, .rm] s t := by
  obtain rfl := Host.Outcome.next.inj hx
  repeat' first
    | (with_reducible first | intro _ | assumption | exact Touches.refl | apply State.ctrlRow_touches)
    | exact rfl | extract_lets -underBinder | split

theorem execHealthSlip_touches {port : Nat} {src : Nat} {cseq : Nat} {trust : Bool} {words : List Nat} {s : State} {t : State}
    (hx : execHealthSlip port src cseq trust words s = .next t) :
    Touches [.regs, .cores, .out, .counter, .time, .msix, .fab, .stack, .peat, .far, .caches, .dir, .pwr, .ud0, .ud1, .sched, .staged, .rm] s t := by
  obtain rfl := Host.Outcome.next.inj hx
  repeat' first
    | (with_reducible first | intro _ | assumption | exact Touches.refl | apply State.ctrlRow_touches)
    | exact rfl | extract_lets -underBinder | split

theorem execHealthBeatLost_touches {port : Nat} {src : Nat} {cseq : Nat} {trust : Bool} {words : List Nat} {s : State} {t : State}
    (hx : execHealthBeatLost port src cseq trust words s = .next t) :
    Touches [.regs, .cores, .out, .counter, .time, .msix, .fab, .stack, .peat, .far, .caches, .dir, .pwr, .ud0, .ud1, .sched, .staged, .rm] s t := by
  obtain rfl := Host.Outcome.next.inj hx
  repeat' first
    | (with_reducible first | intro _ | assumption | exact Touches.refl | apply State.ctrlRow_touches)
    | exact rfl | extract_lets -underBinder | split

theorem execHealthLateContrib_touches {port : Nat} {src : Nat} {cseq : Nat} {trust : Bool} {words : List Nat} {s : State} {t : State}
    (hx : execHealthLateContrib port src cseq trust words s = .next t) :
    Touches [.regs, .cores, .out, .counter, .time, .msix, .fab, .stack, .peat, .far, .caches, .dir, .pwr, .ud0, .ud1, .sched, .staged, .rm] s t := by
  obtain rfl := Host.Outcome.next.inj hx
  repeat' first
    | (with_reducible first | intro _ | assumption | exact Touches.refl | apply State.ctrlRow_touches)
    | exact rfl | extract_lets -underBinder | split

theorem execHealthMemFence_touches {port : Nat} {src : Nat} {cseq : Nat} {trust : Bool} {words : List Nat} {s : State} {t : State}
    (hx : execHealthMemFence port src cseq trust words s = .next t) :
    Touches [.regs, .cores, .out, .counter, .time, .msix, .fab, .stack, .peat, .far, .caches, .dir, .pwr, .ud0, .ud1, .sched, .staged, .rm] s t := by
  obtain rfl := Host.Outcome.next.inj hx
  repeat' first
    | (with_reducible first | intro _ | assumption | exact Touches.refl | apply State.ctrlRow_touches)
    | exact rfl | extract_lets -underBinder | split

theorem execHealthPortDown_touches {port : Nat} {src : Nat} {cseq : Nat} {trust : Bool} {words : List Nat} {s : State} {t : State}
    (hx : execHealthPortDown port src cseq trust words s = .next t) :
    Touches [.regs, .cores, .out, .counter, .time, .msix, .fab, .stack, .peat, .far, .caches, .dir, .pwr, .ud0, .ud1, .sched, .staged, .rm] s t := by
  obtain rfl := Host.Outcome.next.inj hx
  repeat' first
    | (with_reducible first | intro _ | assumption | exact Touches.refl | apply State.ctrlRow_touches)
    | exact rfl | extract_lets -underBinder | split

theorem execHealthTorn_touches {port : Nat} {src : Nat} {cseq : Nat} {trust : Bool} {words : List Nat} {s : State} {t : State}
    (hx : execHealthTorn port src cseq trust words s = .next t) :
    Touches [.regs, .cores, .out, .counter, .time, .msix, .fab, .stack, .peat, .far, .caches, .dir, .pwr, .ud0, .ud1, .sched, .staged, .rm] s t := by
  obtain rfl := Host.Outcome.next.inj hx
  repeat' first
    | (with_reducible first | intro _ | assumption | exact Touches.refl | apply State.ctrlRow_touches)
    | exact rfl | extract_lets -underBinder | split

theorem execHealthNorm_touches {port : Nat} {src : Nat} {cseq : Nat} {trust : Bool} {words : List Nat} {s : State} {t : State}
    (hx : execHealthNorm port src cseq trust words s = .next t) :
    Touches [.regs, .cores, .out, .counter, .time, .msix, .fab, .stack, .peat, .far, .caches, .dir, .pwr, .ud0, .ud1, .sched, .staged, .rm] s t := by
  obtain rfl := Host.Outcome.next.inj hx
  repeat' first
    | (with_reducible first | intro _ | assumption | exact Touches.refl | apply State.ctrlRow_touches)
    | exact rfl | extract_lets -underBinder | split

theorem execHealthPrepared_touches {port : Nat} {src : Nat} {cseq : Nat} {trust : Bool} {words : List Nat} {s : State} {t : State}
    (hx : execHealthPrepared port src cseq trust words s = .next t) :
    Touches [.regs, .cores, .out, .counter, .time, .msix, .fab, .stack, .peat, .far, .caches, .dir, .pwr, .ud0, .ud1, .sched, .staged, .rm] s t := by
  obtain rfl := Host.Outcome.next.inj hx
  repeat' first
    | (with_reducible first | intro _ | assumption | exact Touches.refl | apply State.ctrlRow_touches)
    | exact rfl | extract_lets -underBinder | split

theorem execHealthLoaded_touches {port : Nat} {src : Nat} {cseq : Nat} {trust : Bool} {words : List Nat} {s : State} {t : State}
    (hx : execHealthLoaded port src cseq trust words s = .next t) :
    Touches [.regs, .cores, .out, .counter, .time, .msix, .fab, .stack, .peat, .far, .caches, .dir, .pwr, .ud0, .ud1, .sched, .staged, .rm] s t := by
  obtain rfl := Host.Outcome.next.inj hx
  repeat' first
    | (with_reducible first | intro _ | assumption | exact Touches.refl | apply State.ctrlRow_touches)
    | exact rfl | extract_lets -underBinder | split

theorem execHealthSyncAck_touches {port : Nat} {src : Nat} {cseq : Nat} {trust : Bool} {words : List Nat} {s : State} {t : State}
    (hx : execHealthSyncAck port src cseq trust words s = .next t) :
    Touches [.regs, .cores, .out, .counter, .time, .msix, .fab, .stack, .peat, .far, .caches, .dir, .pwr, .ud0, .ud1, .sched, .staged, .rm] s t := by
  obtain rfl := Host.Outcome.next.inj hx
  repeat' first
    | (with_reducible first | intro _ | assumption | exact Touches.refl | apply State.ctrlRow_touches)
    | exact rfl | extract_lets -underBinder | split

theorem execHealthCooling_touches {port : Nat} {src : Nat} {cseq : Nat} {trust : Bool} {words : List Nat} {s : State} {t : State}
    (hx : execHealthCooling port src cseq trust words s = .next t) :
    Touches [.regs, .cores, .out, .counter, .time, .msix, .fab, .stack, .peat, .far, .caches, .dir, .pwr, .ud0, .ud1, .sched, .staged, .rm] s t := by
  obtain rfl := Host.Outcome.next.inj hx
  repeat' first
    | (with_reducible first | intro _ | assumption | exact Touches.refl | apply State.ctrlRow_touches)
    | exact rfl | extract_lets -underBinder | split

theorem execEpochPrepare_touches {port : Nat} {src : Nat} {cseq : Nat} {trust : Bool} {words : List Nat} {image : Option SchedImage} {s : State}
    {t : State} (hx : execEpochPrepare port src cseq trust words image s = .next t) :
    Touches [.regs, .cores, .out, .counter, .time, .msix, .fab, .stack, .peat, .far, .caches, .dir, .pwr, .ud0, .ud1, .sched, .staged, .rm] s t := by
  obtain rfl := Host.Outcome.next.inj hx
  repeat' first
    | (with_reducible first | intro _ | assumption | exact Touches.refl | apply State.ctrlRow_touches)
    | exact rfl | extract_lets -underBinder | split

theorem execRmSync_touches {port : Nat} {src : Nat} {cseq : Nat} {trust : Bool} {words : List Nat} {st : RmSt} {s : State} {t : State}
    (hx : execRmSync port src cseq trust words st s = .next t) :
    Touches [.regs, .cores, .out, .counter, .time, .msix, .fab, .stack, .peat, .far, .caches, .dir, .pwr, .ud0, .ud1, .sched, .staged, .rm] s t := by
  obtain rfl := Host.Outcome.next.inj hx
  repeat' first
    | (with_reducible first | intro _ | assumption | exact Touches.refl | apply State.ctrlRow_touches)
    | exact rfl | extract_lets -underBinder | split

theorem execCseqHoldExpiry_touches {src : Nat} {s : State} {t : State} (hx : execCseqHoldExpiry src s = .next t) :
    Touches [.regs, .cores, .out, .counter, .time, .msix, .fab, .stack, .peat, .far, .caches, .dir, .pwr, .ud0, .ud1, .sched, .staged, .rm] s t := by
  obtain rfl := Host.Outcome.next.inj hx
  repeat' first
    | (with_reducible first | intro _ | assumption | exact Touches.refl | apply State.holdExpiry_touches | apply Touches.ite)
    | exact rfl | extract_lets -underBinder | split

theorem execEnrolReqTimer_touches {s : State} {t : State} (hx : execEnrolReqTimer s = .next t) : Touches [.regs, .out, .fab] s t := by
  obtain rfl := Host.Outcome.next.inj hx
  repeat' first
    | (with_reducible first | intro _ | assumption | exact Touches.refl | apply State.enrolTimer_touches)
    | exact rfl | extract_lets -underBinder | split

theorem execLeaveTimeout_touches {s : State} {t : State} (hx : execLeaveTimeout s = .next t) : Touches [.regs, .out, .time, .msix, .rm] s t := by
  obtain rfl := Host.Outcome.next.inj hx
  repeat' first
    | (with_reducible first | intro _ | assumption | exact Touches.refl | apply State.leaveTimeout_touches)
    | exact rfl | extract_lets -underBinder | split

theorem execNoPortUpTimeout_touches {s : State} {t : State} (hx : execNoPortUpTimeout s = .next t) :
    Touches [.regs, .out, .time, .msix, .rm] s t := by
  obtain rfl := Host.Outcome.next.inj hx
  repeat' first
    | (with_reducible first | intro _ | assumption | exact Touches.refl | apply State.noPortTimeout_touches)
    | exact rfl | extract_lets -underBinder | split

theorem execHeartbeatTimer_touches {s : State} {t : State} (hx : execHeartbeatTimer s = .next t) : Touches [.regs, .out, .fab] s t := by
  obtain rfl := Host.Outcome.next.inj hx
  repeat' first
    | (with_reducible first | intro _ | assumption | exact Touches.refl | apply State.heartbeatTimer_touches)
    | exact rfl | extract_lets -underBinder | split

theorem execHeartbeatMiss_touches {node : Nat} {s : State} {t : State} (hx : execHeartbeatMiss node s = .next t) :
    Touches [.regs, .out, .msix, .fab, .rm] s t := by
  obtain rfl := Host.Outcome.next.inj hx
  repeat' first
    | (with_reducible first | intro _ | assumption | exact Touches.refl | apply State.heartbeatMiss_touches | apply State.rmSettle_touches
                            | apply Touches.ite)
    | exact rfl | extract_lets -underBinder | split

theorem execClaimTimer_touches {s : State} {t : State} (hx : execClaimTimer s = .next t) : Touches [.regs, .out, .fab, .rm] s t := by
  obtain rfl := Host.Outcome.next.inj hx
  repeat' first
    | (with_reducible first | intro _ | assumption | exact Touches.refl | apply State.claimTimer_touches)
    | exact rfl | extract_lets -underBinder | split

theorem execClaimSuccess_touches {s : State} {t : State} (hx : execClaimSuccess s = .next t) :
    Touches [.regs, .out, .time, .msix, .fab, .pwr, .rm] s t := by
  obtain rfl := Host.Outcome.next.inj hx
  repeat' first
    | (with_reducible first | intro _ | assumption | exact Touches.refl | apply State.claimSuccess_touches | apply State.rmSettle_touches
                            | apply Touches.ite)
    | exact rfl | extract_lets -underBinder | split

theorem execRmSyncTimer_touches {s : State} {t : State} (hx : execRmSyncTimer s = .next t) : Touches [.regs, .out, .fab, .rm] s t := by
  obtain rfl := Host.Outcome.next.inj hx
  repeat' first
    | (with_reducible first | intro _ | assumption | exact Touches.refl | apply State.appoint_touches | apply State.sync_touches | apply Touches.ite)
    | exact rfl | extract_lets -underBinder | split

theorem execStandbyTakeover_touches {s : State} {t : State} (hx : execStandbyTakeover s = .next t) :
    Touches [.regs, .out, .time, .msix, .fab, .pwr, .rm] s t := by
  obtain rfl := Host.Outcome.next.inj hx
  repeat' first
    | (with_reducible first | intro _ | assumption | exact Touches.refl | apply State.rmSettle_touches | apply State.standbyTakeover_touches)
    | exact rfl | extract_lets -underBinder | split

theorem execQuorumCheck_touches {s : State} {t : State} (hx : execQuorumCheck s = .next t) :
    Touches [.regs, .out, .msix, .fab, .caches, .rm] s t := by
  obtain rfl := Host.Outcome.next.inj hx
  repeat' first
    | (with_reducible first | intro _ | assumption | exact Touches.refl | apply State.quorumCheck_touches | apply State.rmSettle_touches
                            | apply Touches.ite)
    | exact rfl | extract_lets -underBinder | split

theorem execHbAckLoss_touches {s : State} {t : State} (hx : execHbAckLoss s = .next t) : Touches [.regs, .rm] s t := by
  obtain rfl := Host.Outcome.next.inj hx
  repeat' first
    | (with_reducible first | intro _ | assumption | exact Touches.refl | apply State.hbAckLoss_touches)
    | exact rfl | extract_lets -underBinder | split

theorem execStepTmo_touches {s : State} {t : State} (hx : execStepTmo s = .next t) : Touches [.regs, .out, .msix, .fab, .caches, .rm] s t := by
  obtain rfl := Host.Outcome.next.inj hx
  repeat' first
    | (with_reducible first | intro _ | assumption | exact Touches.refl | apply State.rmSettle_touches | apply State.stepTimeout_touches
                            | apply Touches.ite)
    | exact rfl | extract_lets -underBinder | split

theorem execTickShrink_touches {s : State} {t : State} (hx : execTickShrink s = .next t) : Touches [.regs, .out, .fab, .rm] s t := by
  obtain rfl := Host.Outcome.next.inj hx
  repeat' first
    | (with_reducible first | intro _ | assumption | exact Touches.refl | apply State.rmSettle_touches | apply State.tickShrink_touches
                            | apply Touches.ite)
    | exact rfl | extract_lets -underBinder | split

end Sys2Proof.Machine
end

