-- ==== Sys2Proof/Laws/Touch/Power.lean ====
section
/-!
SUPPORT. Laws/Touch/Power.lean: for each operation of Machine/Power.lean, what it can do: the queue stays, only the parts listed change, and the
registers and memories keep their canonical form.
-/

set_option linter.all false

namespace Sys2Proof.Machine

theorem State.alert_touches {L : List Part} {z0 : State} {s : State} (hz : Touches L z0 s) (hL : covers L [.regs] = true) :
    Touches L z0 (State.alert s) := by
  refine hz.andThen (A := [.regs]) ?_ hL
  unfold State.alert
  repeat' first
    | (with_reducible first | intro _ | assumption | exact Touches.refl | apply State.wr_touches)
    | exact rfl | extract_lets -underBinder | split

theorem State.setWarn_touches {L : List Part} {z0 : State} {s : State} {k : Nat} {on : Bool} (hz : Touches L z0 s)
    (hL : covers L [.regs, .out, .msix, .fab, .hif] = true) :
    Touches L z0 (State.setWarn s k on) := by
  refine hz.andThen (A := [.regs, .out, .msix, .fab, .hif]) ?_ hL
  unfold State.setWarn
  repeat' first
    | (with_reducible first | intro _ | assumption | exact Touches.refl | apply State.alert_touches | apply State.health_touches
                            | apply State.sendMsi_touches | apply State.wr_touches | apply Touches.ite)
    | exact rfl | extract_lets -underBinder | split
    | (with_reducible first | apply Touches.set_hif)

theorem State.setEff_touches {L : List Part} {z0 : State} {s : State} (hz : Touches L z0 s) (hL : covers L [.regs, .out, .msix, .pwr] = true) :
    Touches L z0 (State.setEff s) := by
  refine hz.andThen (A := [.regs, .out, .msix, .pwr]) ?_ hL
  unfold State.setEff
  repeat' first
    | (with_reducible first | intro _ | assumption | exact Touches.refl | apply State.raise_touches | apply State.wr_touches | apply Touches.ite
                            | apply Touches.modPwr)
    | exact rfl | extract_lets -underBinder | split

theorem State.setDuty_touches {L : List Part} {z0 : State} {s : State} {n : Nat} (hz : Touches L z0 s) (hL : covers L [.regs] = true) :
    Touches L z0 (State.setDuty s n) := by
  refine hz.andThen (A := [.regs]) ?_ hL
  unfold State.setDuty
  repeat' first
    | (with_reducible first | intro _ | assumption | exact Touches.refl | apply State.wr_touches | apply Touches.ite)
    | exact rfl | extract_lets -underBinder | split

theorem State.openState_touches {L : List Part} {z0 : State} {s : State} (hz : Touches L z0 s) (hL : covers L [.regs] = true) :
    Touches L z0 (State.openState s) := by
  refine hz.andThen (A := [.regs]) ?_ hL
  unfold State.openState
  repeat' first
    | (with_reducible first | intro _ | assumption | exact Touches.refl | apply State.wr_touches | apply Touches.ite)
    | exact rfl | extract_lets -underBinder | split

theorem State.minSettings_touches {L : List Part} {z0 : State} {s : State} (hz : Touches L z0 s) (hL : covers L [.regs, .out, .time, .msix] = true) :
    Touches L z0 (State.minSettings s) := by
  refine hz.andThen (A := [.regs, .out, .time, .msix]) ?_ hL
  unfold State.minSettings
  repeat' first
    | (with_reducible first | intro _ | assumption | exact Touches.refl | apply State.requestCode_touches | apply State.setDuty_touches
                            | apply Touches.ite)
    | exact rfl | extract_lets -underBinder | split

theorem State.enterMin_touches {L : List Part} {z0 : State} {s : State} {causes : Nat} (hz : Touches L z0 s)
    (hL : covers L [.regs, .out, .time, .msix] = true) :
    Touches L z0 (State.enterMin s causes) := by
  refine hz.andThen (A := [.regs, .out, .time, .msix]) ?_ hL
  unfold State.enterMin
  repeat' first
    | (with_reducible first | intro _ | assumption | exact Touches.refl | apply State.bump_touches | apply State.minSettings_touches
                            | apply State.orF_touches | apply State.raise_touches | apply State.wr_touches | apply Touches.ite)
    | exact rfl | extract_lets -underBinder | split

theorem State.clockStop_touches {L : List Part} {z0 : State} {s : State} (hz : Touches L z0 s)
    (hL : covers L [.regs, .out, .msix, .fab, .pwr, .hif] = true) :
    Touches L z0 (State.clockStop s) := by
  refine hz.andThen (A := [.regs, .out, .msix, .fab, .pwr, .hif]) ?_ hL
  unfold State.clockStop
  repeat' first
    | (with_reducible first | intro _ | assumption | exact Touches.refl | apply State.bump_touches | apply State.raise_touches
                            | apply State.setDuty_touches | apply State.setWarn_touches | apply State.wr_touches | apply Touches.ite
                            | apply Touches.modPwr)
    | exact rfl | extract_lets -underBinder | split

theorem State.dropCause_touches {L : List Part} {z0 : State} {s : State} {k : Nat} (hz : Touches L z0 s) (hL : covers L [.regs] = true) :
    Touches L z0 (State.dropCause s k) := by
  refine hz.andThen (A := [.regs]) ?_ hL
  unfold State.dropCause
  repeat' first
    | (with_reducible first | intro _ | assumption | exact Touches.refl | apply State.wr_touches)
    | exact rfl | extract_lets -underBinder | split

theorem State.limitHit_touches {L : List Part} {z0 : State} {s : State} (hz : Touches L z0 s)
    (hL : covers L [.regs, .out, .time, .msix, .fab, .pwr, .hif] = true) :
    Touches L z0 (State.limitHit s) := by
  refine hz.andThen (A := [.regs, .out, .time, .msix, .fab, .pwr, .hif]) ?_ hL
  unfold State.limitHit
  repeat' first
    | (with_reducible first | intro _ | assumption | exact Touches.refl | apply State.bump_touches | apply State.clockStop_touches
                            | apply State.enterMin_touches | apply State.setWarn_touches | apply Touches.ite)
    | exact rfl | extract_lets -underBinder | split

theorem State.coolDown_touches {L : List Part} {z0 : State} {s : State} (hz : Touches L z0 s) (hL : covers L [.pwr] = true) :
    Touches L z0 (State.coolDown s) := by
  refine hz.andThen (A := [.pwr]) ?_ hL
  unfold State.coolDown
  repeat' first
    | (with_reducible first | intro _ | assumption | exact Touches.refl | apply Touches.modPwr)
    | exact rfl | extract_lets -underBinder | split

theorem State.clearCauses_touches {L : List Part} {z0 : State} {s : State} (hz : Touches L z0 s)
    (hL : covers L [.regs, .out, .msix, .fab, .pwr, .hif] = true) :
    Touches L z0 (State.clearCauses s) := by
  refine hz.andThen (A := [.regs, .out, .msix, .fab, .pwr, .hif]) ?_ hL
  unfold State.clearCauses
  repeat' first
    | (with_reducible first | intro _ | assumption | exact Touches.refl | apply State.dropCause_touches | apply State.setWarn_touches
                            | apply Touches.ite | apply Touches.modPwr)
    | exact rfl | extract_lets -underBinder | split

theorem State.checkForced_touches {L : List Part} {z0 : State} {s : State} (hz : Touches L z0 s)
    (hL : covers L [.regs, .out, .time, .msix, .fab, .pwr, .hif] = true) :
    Touches L z0 (State.checkForced s) := by
  refine hz.andThen (A := [.regs, .out, .time, .msix, .fab, .pwr, .hif]) ?_ hL
  unfold State.checkForced
  repeat' first
    | (with_reducible first | intro _ | assumption | exact Touches.refl | apply State.clearCauses_touches | apply State.enterMin_touches
                            | apply Touches.ite)
    | exact rfl | extract_lets -underBinder | split

theorem State.showStack_touches {L : List Part} {z0 : State} {s : State} (hz : Touches L z0 s) (hL : covers L [.regs] = true) :
    Touches L z0 (State.showStack s) := by
  refine hz.andThen (A := [.regs]) ?_ hL
  unfold State.showStack
  repeat' first
    | (with_reducible first | intro _ | assumption | exact Touches.refl | apply State.wr_touches)
    | exact rfl | extract_lets -underBinder | split

theorem State.stackTemp_touches {L : List Part} {z0 : State} {s : State} {site : Nat} {temp : Nat} (hz : Touches L z0 s)
    (hL : covers L [.regs, .out, .time, .msix, .fab, .caches, .pwr, .hif] = true) :
    Touches L z0 (State.stackTemp s site temp) := by
  refine hz.andThen (A := [.regs, .out, .time, .msix, .fab, .caches, .pwr, .hif]) ?_ hL
  unfold State.stackTemp
  repeat' first
    | (with_reducible first | intro _ | assumption | exact Touches.refl | apply State.clearCauses_touches | apply State.coolDown_touches
                            | apply State.limitHit_touches | apply State.raise_touches | apply State.setWarn_touches
                            | apply State.showStack_touches | apply State.wr_touches | apply Touches.ite | apply Touches.modMem)
    | exact rfl | extract_lets -underBinder
    | (refine ⟨?_, ?_, ?_, ?_, ?_, ?_, ?_⟩ <;> first
      | exact .inl (by decide) | exact .inr rfl | exact fun h => h | exact memStore_wf _ _ | exact memFilter_wf _)
    | split

theorem State.samplePair_touches {L : List Part} {z0 : State} {s : State} {h : Nat} {a : Int} {b : Int} (hz : Touches L z0 s)
    (hL : covers L [.regs] = true) :
    Touches L z0 (State.samplePair s h a b) := by
  refine hz.andThen (A := [.regs]) ?_ hL
  unfold State.samplePair
  repeat' first
    | (with_reducible first | intro _ | assumption | exact Touches.refl | apply State.wr_touches | apply Touches.ite)
    | exact rfl | extract_lets -underBinder | split

theorem State.spotValue_touches {L : List Part} {z0 : State} {s : State} {h : Nat} (hz : Touches L z0 s) (hL : covers L [.regs] = true) :
    Touches L z0 (State.spotValue s h) := by
  refine hz.andThen (A := [.regs]) ?_ hL
  unfold State.spotValue
  repeat' first
    | (with_reducible first | intro _ | assumption | exact Touches.refl | apply State.wr_touches | apply Touches.ite)
    | exact rfl | extract_lets -underBinder | split

theorem State.spotFailed_touches {L : List Part} {z0 : State} {s : State} {h : Nat} (hz : Touches L z0 s) (hL : covers L [.regs] = true) :
    Touches L z0 (State.spotFailed s h) := by
  refine hz.andThen (A := [.regs]) ?_ hL
  unfold State.spotFailed
  repeat' first
    | (with_reducible first | intro _ | assumption | exact Touches.refl | apply State.wr_touches | apply Touches.ite
                            | refine Touches.ofFst (by assumption) ?_)
    | exact rfl | extract_lets -underBinder | split
    | dsimp +zetaDelta only

theorem State.showHottest_touches {L : List Part} {z0 : State} {s : State} (hz : Touches L z0 s) (hL : covers L [.regs] = true) :
    Touches L z0 (State.showHottest s) := by
  refine hz.andThen (A := [.regs]) ?_ hL
  unfold State.showHottest
  repeat' first
    | (with_reducible first | intro _ | assumption | exact Touches.refl | apply State.wr_touches | apply Touches.ite | apply Touches.foldl
                            | apply Touches.foldlFst | refine Touches.ofFst (by assumption) ?_)
    | exact rfl | extract_lets -underBinder | split
    | dsimp +zetaDelta only

theorem State.sensorSample_touches {L : List Part} {z0 : State} {s : State} {readings : List Int} (hz : Touches L z0 s)
    (hL : covers L [.regs, .out, .time, .msix, .fab, .pwr, .hif] = true) :
    Touches L z0 (State.sensorSample s readings) := by
  refine hz.andThen (A := [.regs, .out, .time, .msix, .fab, .pwr, .hif]) ?_ hL
  unfold State.sensorSample
  repeat' first
    | (with_reducible first | intro _ | assumption | exact Touches.refl | apply State.clearCauses_touches | apply State.coolDown_touches
                            | apply State.enterMin_touches | apply State.limitHit_touches | apply State.samplePair_touches
                            | apply State.setWarn_touches | apply State.showHottest_touches | apply State.spotFailed_touches
                            | apply State.spotValue_touches | apply Touches.ite | apply Touches.foldl | apply Touches.foldlFst | apply Touches.modPwr)
    | exact rfl | extract_lets -underBinder | split

theorem State.thermalLimit_touches {L : List Part} {z0 : State} {s : State} (hz : Touches L z0 s)
    (hL : covers L [.regs, .out, .msix, .fab, .pwr, .hif] = true) :
    Touches L z0 (State.thermalLimit s) := by
  refine hz.andThen (A := [.regs, .out, .msix, .fab, .pwr, .hif]) ?_ hL
  unfold State.thermalLimit
  repeat' first
    | (with_reducible first | intro _ | assumption | exact Touches.refl | apply State.openState_touches | apply State.setEff_touches
                            | apply State.setWarn_touches | apply State.wr_touches | apply Touches.ite)
    | exact rfl | extract_lets -underBinder | split

theorem State.showWear_touches {L : List Part} {z0 : State} {s : State} (hz : Touches L z0 s)
    (hL : covers L [.regs, .out, .msix, .fab, .hif] = true) :
    Touches L z0 (State.showWear s) := by
  refine hz.andThen (A := [.regs, .out, .msix, .fab, .hif]) ?_ hL
  unfold State.showWear
  repeat' first
    | (with_reducible first | intro _ | assumption | exact Touches.refl | apply State.setWarn_touches | apply State.wr_touches)
    | exact rfl | extract_lets -underBinder | split

theorem State.turned_touches {L : List Part} {z0 : State} {s : State} {k : Nat} (hz : Touches L z0 s)
    (hL : covers L [.regs, .out, .msix, .fab, .pwr, .hif] = true) :
    Touches L z0 (State.turned s k) := by
  refine hz.andThen (A := [.regs, .out, .msix, .fab, .pwr, .hif]) ?_ hL
  unfold State.turned
  repeat' first
    | (with_reducible first | intro _ | assumption | exact Touches.refl | apply State.bump_touches | apply State.showWear_touches
                            | apply Touches.foldl | apply Touches.foldlFst | apply Touches.modPwr | refine Touches.ofFst (by assumption) ?_)
    | exact rfl | extract_lets -underBinder | split
    | dsimp +zetaDelta only

theorem State.pushPoint_touches {L : List Part} {z0 : State} {s : State} {k : Nat} {v : Int} (hz : Touches L z0 s) (hL : covers L [.pwr] = true) :
    Touches L z0 (State.pushPoint s k v) := by
  refine hz.andThen (A := [.pwr]) ?_ hL
  unfold State.pushPoint
  repeat' first
    | (with_reducible first | intro _ | assumption | exact Touches.refl | apply Touches.modPwr)
    | exact rfl | extract_lets -underBinder | split

theorem State.thermalSample_touches {L : List Part} {z0 : State} {s : State} {k : Nat} {v : Int} (hz : Touches L z0 s)
    (hL : covers L [.regs, .out, .msix, .fab, .pwr, .hif] = true) :
    Touches L z0 (State.thermalSample s k v) := by
  refine hz.andThen (A := [.regs, .out, .msix, .fab, .pwr, .hif]) ?_ hL
  unfold State.thermalSample
  repeat' first
    | (with_reducible first | intro _ | assumption | exact Touches.refl | apply State.pushPoint_touches | apply State.turned_touches
                            | apply Touches.ite | apply Touches.modPwr | refine Touches.ofFst (by assumption) ?_)
    | exact rfl | extract_lets -underBinder | split
    | dsimp +zetaDelta only

theorem State.coldPoint_touches {L : List Part} {z0 : State} {s : State} {k : Nat} {v : Int} (hz : Touches L z0 s)
    (hL : covers L [.regs, .out, .msix, .fab, .pwr, .hif] = true) :
    Touches L z0 (State.coldPoint s k v) := by
  refine hz.andThen (A := [.regs, .out, .msix, .fab, .pwr, .hif]) ?_ hL
  unfold State.coldPoint
  repeat' first
    | (with_reducible first | intro _ | assumption | exact Touches.refl | apply State.pushPoint_touches | apply State.turned_touches)
    | exact rfl | extract_lets -underBinder | split

theorem State.coolReport_touches {L : List Part} {z0 : State} {s : State} {inlet : Nat} {outlet : Nat} {flow : Nat} {seq : Nat} (hz :
    Touches L z0 s) (hL : covers L [.regs, .out, .time, .msix, .fab, .pwr, .hif] = true) :
    Touches L z0 (State.coolReport s inlet outlet flow seq) := by
  refine hz.andThen (A := [.regs, .out, .time, .msix, .fab, .pwr, .hif]) ?_ hL
  unfold State.coolReport
  repeat' first
    | (with_reducible first | intro _ | assumption | exact Touches.refl | apply State.bump_touches | apply State.clearCauses_touches
                            | apply State.coldPoint_touches | apply State.enterMin_touches | apply State.raise_touches | apply State.setEff_touches
                            | apply State.setWarn_touches | apply State.wr_touches | apply Touches.ite | apply Touches.foldl
                            | apply Touches.foldlFst | apply Touches.modPwr)
    | exact rfl | extract_lets -underBinder | split

theorem State.traySilence_touches {L : List Part} {z0 : State} {s : State} (hz : Touches L z0 s)
    (hL : covers L [.regs, .out, .msix, .fab, .pwr, .hif] = true) :
    Touches L z0 (State.traySilence s) := by
  refine hz.andThen (A := [.regs, .out, .msix, .fab, .pwr, .hif]) ?_ hL
  unfold State.traySilence
  repeat' first
    | (with_reducible first | intro _ | assumption | exact Touches.refl | apply State.setEff_touches | apply State.setWarn_touches
                            | apply State.wr_touches | apply Touches.ite | apply Touches.modPwr | refine Touches.ofFst (by assumption) ?_)
    | exact rfl | extract_lets -underBinder | split
    | dsimp +zetaDelta only

theorem State.budgetStep_touches {L : List Part} {z0 : State} {s : State} {pins : Nat} (hz : Touches L z0 s)
    (hL : covers L [.regs, .out, .msix, .pwr] = true) :
    Touches L z0 (State.budgetStep s pins) := by
  refine hz.andThen (A := [.regs, .out, .msix, .pwr]) ?_ hL
  unfold State.budgetStep
  repeat' first
    | (with_reducible first | intro _ | assumption | exact Touches.refl | apply State.setEff_touches | apply State.wr_touches | apply Touches.ite
                            | apply Touches.modPwr)
    | exact rfl | extract_lets -underBinder | split

theorem State.writeBudget_touches {L : List Part} {z0 : State} {s : State} {w : Nat} (hz : Touches L z0 s)
    (hL : covers L [.regs, .out, .msix, .pwr] = true) :
    Touches L z0 (State.writeBudget s w) := by
  refine hz.andThen (A := [.regs, .out, .msix, .pwr]) ?_ hL
  unfold State.writeBudget
  repeat' first
    | (with_reducible first | intro _ | assumption | exact Touches.refl | apply State.raise_touches | apply State.wr_touches | apply Touches.ite
                            | apply Touches.modPwr)
    | exact rfl | extract_lets -underBinder | split

theorem State.budgetEffect_touches {L : List Part} {z0 : State} {s : State} (hz : Touches L z0 s) (hL : covers L [.regs, .out, .msix, .pwr] = true) :
    Touches L z0 (State.budgetEffect s) := by
  refine hz.andThen (A := [.regs, .out, .msix, .pwr]) ?_ hL
  unfold State.budgetEffect
  repeat' first
    | (with_reducible first | intro _ | assumption | exact Touches.refl | apply State.setEff_touches | apply Touches.modPwr
                            | refine Touches.ofFst (by assumption) ?_)
    | exact rfl | extract_lets -underBinder | split

theorem State.zoneHints_touches {L : List Part} {z0 : State} {s : State} {z : Nat} (hz : Touches L z0 s) (hL : covers L [.regs, .time] = true) :
    Touches L z0 (State.zoneHints s z) := by
  refine hz.andThen (A := [.regs, .time]) ?_ hL
  unfold State.zoneHints
  repeat' first
    | (with_reducible first | intro _ | assumption | exact Touches.refl | apply State.setZoneV_touches | apply State.wr_touches | apply Touches.ite)
    | exact rfl | extract_lets -underBinder | split

theorem State.hintReceived_touches {L : List Part} {z0 : State} {s : State} {k : Nat} (hz : Touches L z0 s)
    (hL : covers L [.regs, .out, .time, .msix, .pwr] = true) :
    Touches L z0 (State.hintReceived s k) := by
  refine hz.andThen (A := [.regs, .out, .time, .msix, .pwr]) ?_ hL
  unfold State.hintReceived
  repeat' first
    | (with_reducible first | intro _ | assumption | exact Touches.refl | apply State.raise_touches | apply State.zoneHints_touches
                            | apply Touches.ite | apply Touches.modPwr | refine Touches.ofFst (by assumption) ?_)
    | exact rfl | extract_lets -underBinder | split
    | dsimp +zetaDelta only

theorem State.hintEnd_touches {L : List Part} {z0 : State} {s : State} {k : Nat} (hz : Touches L z0 s) (hL : covers L [.regs, .time, .pwr] = true) :
    Touches L z0 (State.hintEnd s k) := by
  refine hz.andThen (A := [.regs, .time, .pwr]) ?_ hL
  unfold State.hintEnd
  repeat' first
    | (with_reducible first | intro _ | assumption | exact Touches.refl | apply State.zoneHints_touches | apply Touches.ite | apply Touches.modPwr
                            | refine Touches.ofFst (by assumption) ?_)
    | exact rfl | extract_lets -underBinder | split
    | dsimp +zetaDelta only

theorem State.controllerRun_touches {L : List Part} {z0 : State} {s : State} {avg : Nat} {fixed : Nat} {zones : List Nat} (hz : Touches L z0 s)
    (hL : covers L [.regs, .out, .time, .msix, .fab, .pwr, .hif] = true) :
    Touches L z0 (State.controllerRun s avg fixed zones) := by
  refine hz.andThen (A := [.regs, .out, .time, .msix, .fab, .pwr, .hif]) ?_ hL
  unfold State.controllerRun
  repeat' first
    | (with_reducible first | intro _ | assumption | exact Touches.refl | apply State.bump_touches | apply State.enterMin_touches
                            | apply State.minSettings_touches | apply State.requestCode_touches | apply State.setDuty_touches
                            | apply State.setWarn_touches | apply State.wr_touches | apply State.zoneHints_touches | apply Touches.ite
                            | apply Touches.foldl | apply Touches.foldlFst | apply Touches.modPwr | refine Touches.ofFst (by assumption) ?_)
    | exact rfl | extract_lets -underBinder | split
    | dsimp +zetaDelta only

theorem State.stopEnd_touches {L : List Part} {z0 : State} {s : State} (hz : Touches L z0 s)
    (hL : covers L [.regs, .out, .msix, .fab, .pwr, .hif] = true) :
    Touches L z0 (State.stopEnd s) := by
  refine hz.andThen (A := [.regs, .out, .msix, .fab, .pwr, .hif]) ?_ hL
  unfold State.stopEnd
  repeat' first
    | (with_reducible first | intro _ | assumption | exact Touches.refl | apply State.raise_touches | apply State.setDuty_touches
                            | apply State.setWarn_touches | apply State.wr_touches | apply Touches.ite | apply Touches.modPwr)
    | exact rfl | extract_lets -underBinder | split

theorem State.minExit_touches {L : List Part} {z0 : State} {s : State} (hz : Touches L z0 s)
    (hL : covers L [.regs, .out, .msix, .fab, .pwr, .hif] = true) :
    Touches L z0 (State.minExit s) := by
  refine hz.andThen (A := [.regs, .out, .msix, .fab, .pwr, .hif]) ?_ hL
  unfold State.minExit
  repeat' first
    | (with_reducible first | intro _ | assumption | exact Touches.refl | apply State.clearCauses_touches | apply State.openState_touches
                            | apply State.raise_touches | apply State.setEff_touches | apply State.setWarn_touches | apply State.wr_touches
                            | apply Touches.ite)
    | exact rfl | extract_lets -underBinder | split

theorem State.adaptMargin_touches {L : List Part} {z0 : State} {s : State} {z : Nat} (hz : Touches L z0 s)
    (hL : covers L [.regs, .time, .pwr] = true) :
    Touches L z0 (State.adaptMargin s z) := by
  refine hz.andThen (A := [.regs, .time, .pwr]) ?_ hL
  unfold State.adaptMargin
  repeat' first
    | (with_reducible first | intro _ | assumption | exact Touches.refl | apply State.setZoneV_touches | apply State.wr_touches | apply Touches.ite
                            | apply Touches.modPwr)
    | exact rfl | extract_lets -underBinder | split

theorem execPowerControllerRun_touches {avg : Nat} {fixed : Nat} {zones : List Nat} {s : State} {t : State}
    (hx : execPowerControllerRun avg fixed zones s = .next t) : Touches [.regs, .out, .time, .msix, .fab, .pwr, .hif] s t := by
  obtain rfl := Host.Outcome.next.inj hx
  repeat' first
    | (with_reducible first | intro _ | assumption | exact Touches.refl | apply State.controllerRun_touches | apply Touches.ite)
    | exact rfl | extract_lets -underBinder | split

theorem execBudgetStepSample_touches {pins : Nat} {s : State} {t : State} (hx : execBudgetStepSample pins s = .next t) :
    Touches [.regs, .out, .msix, .pwr] s t := by
  obtain rfl := Host.Outcome.next.inj hx
  repeat' first
    | (with_reducible first | intro _ | assumption | exact Touches.refl | apply State.budgetStep_touches)
    | exact rfl | extract_lets -underBinder | split

theorem execBudgetTakesEffect_touches {s : State} {t : State} (hx : execBudgetTakesEffect s = .next t) : Touches [.regs, .out, .msix, .pwr] s t := by
  obtain rfl := Host.Outcome.next.inj hx
  repeat' first
    | (with_reducible first | intro _ | assumption | exact Touches.refl | apply State.budgetEffect_touches)
    | exact rfl | extract_lets -underBinder | split

theorem execSensorSample_touches {readings : List Int} {s : State} {t : State} (hx : execSensorSample readings s = .next t) :
    Touches [.regs, .out, .time, .msix, .fab, .pwr, .hif] s t := by
  obtain rfl := Host.Outcome.next.inj hx
  repeat' first
    | (with_reducible first | intro _ | assumption | exact Touches.refl | apply State.sensorSample_touches)
    | exact rfl | extract_lets -underBinder | split

theorem execThermalLimitUpdate_touches {s : State} {t : State} (hx : execThermalLimitUpdate s = .next t) :
    Touches [.regs, .out, .msix, .fab, .pwr, .hif] s t := by
  obtain rfl := Host.Outcome.next.inj hx
  repeat' first
    | (with_reducible first | intro _ | assumption | exact Touches.refl | apply State.thermalLimit_touches)
    | exact rfl | extract_lets -underBinder | split

theorem execStackTemperatureRead_touches {site : Nat} {temp : Nat} {s : State} {t : State}
    (hx : execStackTemperatureRead site temp s = .next t) : Touches [.regs, .out, .time, .msix, .fab, .caches, .pwr, .hif] s t := by
  obtain rfl := Host.Outcome.next.inj hx
  repeat' first
    | (with_reducible first | intro _ | assumption | exact Touches.refl | apply State.stackTemp_touches | apply Touches.ite)
    | exact rfl | extract_lets -underBinder | split

theorem execClockStopEnd_touches {s : State} {t : State} (hx : execClockStopEnd s = .next t) :
    Touches [.regs, .out, .msix, .fab, .pwr, .hif] s t := by
  obtain rfl := Host.Outcome.next.inj hx
  repeat' first
    | (with_reducible first | intro _ | assumption | exact Touches.refl | apply State.stopEnd_touches)
    | exact rfl | extract_lets -underBinder | split

theorem execMinimumPowerExit_touches {s : State} {t : State} (hx : execMinimumPowerExit s = .next t) :
    Touches [.regs, .out, .msix, .fab, .pwr, .hif] s t := by
  obtain rfl := Host.Outcome.next.inj hx
  repeat' first
    | (with_reducible first | intro _ | assumption | exact Touches.refl | apply State.minExit_touches)
    | exact rfl | extract_lets -underBinder | split

theorem execTraySilence_touches {s : State} {t : State} (hx : execTraySilence s = .next t) : Touches [.regs, .out, .msix, .fab, .pwr, .hif] s t := by
  obtain rfl := Host.Outcome.next.inj hx
  repeat' first
    | (with_reducible first | intro _ | assumption | exact Touches.refl | apply State.traySilence_touches)
    | exact rfl | extract_lets -underBinder | split

theorem execHintReceived_touches {k : Nat} {s : State} {t : State} (hx : execHintReceived k s = .next t) :
    Touches [.regs, .out, .time, .msix, .pwr] s t := by
  obtain rfl := Host.Outcome.next.inj hx
  repeat' first
    | (with_reducible first | intro _ | assumption | exact Touches.refl | apply State.hintReceived_touches)
    | exact rfl | extract_lets -underBinder | split

theorem execHintPhaseEnd_touches {k : Nat} {s : State} {t : State} (hx : execHintPhaseEnd k s = .next t) : Touches [.regs, .time, .pwr] s t := by
  obtain rfl := Host.Outcome.next.inj hx
  repeat' first
    | (with_reducible first | intro _ | assumption | exact Touches.refl | apply State.hintEnd_touches)
    | exact rfl | extract_lets -underBinder | split

theorem execDroopMarginAdapt_touches {zone : Nat} {s : State} {t : State} (hx : execDroopMarginAdapt zone s = .next t) :
    Touches [.regs, .time, .pwr] s t := by
  obtain rfl := Host.Outcome.next.inj hx
  repeat' first
    | (with_reducible first | intro _ | assumption | exact Touches.refl | apply State.adaptMargin_touches | apply Touches.ite)
    | exact rfl | extract_lets -underBinder | split

end Sys2Proof.Machine
end

