-- ==== Sys2Proof/Laws/Touch/Energy.lean ====
section
/-!
SUPPORT. Laws/Touch/Energy.lean: for each operation of Machine/Energy.lean, what it can do: the queue stays, only the parts listed change, and the
registers and memories keep their canonical form.
-/

set_option linter.all false

namespace Sys2Proof.Machine

theorem State.latchTags_touches {L : List Part} {z0 : State} {s : State} (hz : Touches L z0 s) (hL : covers L [.pwr] = true) :
    Touches L z0 (State.latchTags s) := by
  refine hz.andThen (A := [.pwr]) ?_ hL
  unfold State.latchTags
  repeat' first
    | (with_reducible first | intro _ | assumption | exact Touches.refl | apply Touches.foldl | apply Touches.foldlFst | apply Touches.modPwr)
    | exact rfl | extract_lets -underBinder | split

theorem State.slotOf_touches {L : List Part} {z0 : State} {s : State} {tag : Nat} (hz : Touches L z0 s) (hL : covers L [.regs, .out, .msix] = true) :
    Touches L z0 ((State.slotOf s tag).1) := by
  refine hz.andThen (A := [.regs, .out, .msix]) ?_ hL
  unfold State.slotOf
  refine TouchesP.out ?_
  repeat' first
    | (with_reducible first | intro _ | assumption | exact Touches.refl | apply State.raise_touches | apply State.wr_touches | apply Touches.ite
                            | apply TouchesP.ite | apply TouchesP.pairIte | refine Touches.ofFst (by assumption) ?_)
    | exact rfl | extract_lets -underBinder | split
    | (with_reducible first | apply TouchesP.pair)
    | (show Touches _ _ (Prod.fst _); dsimp only)
    | dsimp +zetaDelta only

theorem State.addEnergy_touches {L : List Part} {z0 : State} {s : State} {acc : Nat} {reg : Nat} {uj : Nat} (hz : Touches L z0 s)
    (hL : covers L [.regs, .pwr] = true) :
    Touches L z0 (State.addEnergy s acc reg uj) := by
  refine hz.andThen (A := [.regs, .pwr]) ?_ hL
  unfold State.addEnergy
  repeat' first
    | (with_reducible first | intro _ | assumption | exact Touches.refl | apply State.bump_touches | apply Touches.modPwr)
    | exact rfl | extract_lets -underBinder | split

theorem State.addTag_touches {L : List Part} {z0 : State} {s : State} {tag : Nat} {uj : Nat} (hz : Touches L z0 s)
    (hL : covers L [.regs, .out, .msix, .pwr] = true) :
    Touches L z0 (State.addTag s tag uj) := by
  refine hz.andThen (A := [.regs, .out, .msix, .pwr]) ?_ hL
  unfold State.addTag
  repeat' first
    | (with_reducible first | intro _ | assumption | exact Touches.refl | apply State.addEnergy_touches | apply State.slotOf_touches
                            | apply Touches.ite)
    | exact rfl | extract_lets -underBinder | split
    | (show Touches _ _ (Prod.fst _); dsimp only)

theorem State.divideEnergy_touches {L : List Part} {z0 : State} {s : State} {zones : List (Nat × List (Nat × Nat))} {uds : List Nat}
    {sites : List (Nat × List (Nat × Nat))} {other : Nat} (hz : Touches L z0 s) (hL : covers L [.regs, .out, .msix, .pwr] = true) :
    Touches L z0 (State.divideEnergy s zones uds sites other) := by
  refine hz.andThen (A := [.regs, .out, .msix, .pwr]) ?_ hL
  unfold State.divideEnergy
  repeat' first
    | (with_reducible first | intro _ | assumption | exact Touches.refl | apply State.addEnergy_touches | apply State.addTag_touches
                            | apply State.latchTags_touches | apply State.wr_touches | apply Touches.ite | apply Touches.foldl
                            | apply Touches.foldlFst)
    | exact rfl | extract_lets -underBinder | split

theorem State.saveWear_touches {L : List Part} {z0 : State} {s : State} (hz : Touches L z0 s) (hL : covers L [.flash] = true) :
    Touches L z0 (State.saveWear s) := by
  refine hz.andThen (A := [.flash]) ?_ hL
  unfold State.saveWear
  repeat' first
    | (with_reducible first | intro _ | assumption | exact Touches.refl | apply Touches.ite | apply Touches.modPkg)
    | exact rfl | extract_lets -underBinder
    | (refine ⟨?_, ?_, ?_, ?_, ?_, ?_, ?_, ?_, ?_, ?_, ?_⟩ <;> first | exact .inl (by decide) | exact .inr rfl)
    | split

theorem execEnergyAttribution_touches {zones : List (Nat × List (Nat × Nat))} {uds : List Nat} {sites : List (Nat × List (Nat × Nat))} {other : Nat}
    {s : State} {t : State} (hx : execEnergyAttribution zones uds sites other s = .next t) : Touches [.regs, .out, .msix, .pwr] s t := by
  obtain rfl := Host.Outcome.next.inj hx
  repeat' first
    | (with_reducible first | intro _ | assumption | exact Touches.refl | apply State.divideEnergy_touches)
    | exact rfl | extract_lets -underBinder | split

theorem execThermalCycleSample_touches {compute : Int} {io : Int} {sedge : Int} {s : State} {t : State}
    (hx : execThermalCycleSample compute io sedge s = .next t) : Touches [.regs, .out, .msix, .fab, .pwr, .hif] s t := by
  obtain rfl := Host.Outcome.next.inj hx
  repeat' first
    | (with_reducible first | intro _ | assumption | exact Touches.refl | apply State.thermalSample_touches | apply Touches.ite)
    | exact rfl | extract_lets -underBinder | split

theorem execWearSaveTimer_touches {s : State} {t : State} (hx : execWearSaveTimer s = .next t) : Touches [.flash] s t := by
  obtain rfl := Host.Outcome.next.inj hx
  repeat' first
    | (with_reducible first | intro _ | assumption | exact Touches.refl | apply State.saveWear_touches | apply Touches.ite)
    | exact rfl | extract_lets -underBinder | split

theorem State.pwrQuery_touches {L : List Part} {z0 : State} {u : List Nat} {s : State} (hz : Touches L z0 s) (hL : covers L [] = true) :
    Touches L z0 ((State.pwrQuery u s).1) := by
  refine hz.andThen (A := []) ?_ hL
  unfold State.pwrQuery
  refine TouchesP.out ?_
  repeat' first
    | (with_reducible first | intro _ | assumption | exact Touches.refl | apply State.answered_touches)
    | exact rfl | extract_lets -underBinder | split
    | (with_reducible first | apply TouchesP.pair)
    | (show Touches _ _ (Prod.fst _); dsimp only)

theorem State.pwrSetBudget_touches {L : List Part} {z0 : State} {a : List Nat} {s : State} (hz : Touches L z0 s)
    (hL : covers L [.regs, .out, .msix, .pwr] = true) :
    Touches L z0 ((State.pwrSetBudget a s).1) := by
  refine hz.andThen (A := [.regs, .out, .msix, .pwr]) ?_ hL
  unfold State.pwrSetBudget
  refine TouchesP.out ?_
  repeat' first
    | (with_reducible first | intro _ | assumption | exact Touches.refl | apply State.writeBudget_touches)
    | exact rfl | extract_lets -underBinder | split
    | (with_reducible first | apply TouchesP.pair)
    | (show Touches _ _ (Prod.fst _); dsimp only)

theorem State.pwrEnergyQuery_touches {L : List Part} {z0 : State} {a : List Nat} {s : State} (hz : Touches L z0 s) (hL : covers L [] = true) :
    Touches L z0 ((State.pwrEnergyQuery a s).1) := by
  refine hz.andThen (A := []) ?_ hL
  unfold State.pwrEnergyQuery
  refine TouchesP.out ?_
  repeat' first
    | (with_reducible first | intro _ | assumption | exact Touches.refl | apply State.answered_touches | apply State.refuse_touches
                            | refine Touches.ofFst (by assumption) ?_)
    | exact rfl | extract_lets -underBinder | split
    | (with_reducible first | apply TouchesP.pair)
    | (show Touches _ _ (Prod.fst _); dsimp only)

theorem State.pwrEnergyRelease_touches {L : List Part} {z0 : State} {a : List Nat} {s : State} (hz : Touches L z0 s)
    (hL : covers L [.regs, .pwr] = true) :
    Touches L z0 ((State.pwrEnergyRelease a s).1) := by
  refine hz.andThen (A := [.regs, .pwr]) ?_ hL
  unfold State.pwrEnergyRelease
  refine TouchesP.out ?_
  repeat' first
    | (with_reducible first | intro _ | assumption | exact Touches.refl | apply State.refuse_touches | apply State.setReg_touches
                            | apply Touches.ite | apply TouchesP.ite | apply TouchesP.pairIte | apply Touches.modPwr
                            | refine Touches.ofFst (by assumption) ?_)
    | exact rfl | extract_lets -underBinder | split
    | (with_reducible first | apply TouchesP.pair)
    | (show Touches _ _ (Prod.fst _); dsimp only)
    | dsimp +zetaDelta only

theorem State.pwrForceMin_touches {L : List Part} {z0 : State} {a : List Nat} {s : State} (hz : Touches L z0 s)
    (hL : covers L [.regs, .out, .time, .msix, .fab, .pwr, .hif] = true) :
    Touches L z0 ((State.pwrForceMin a s).1) := by
  refine hz.andThen (A := [.regs, .out, .time, .msix, .fab, .pwr, .hif]) ?_ hL
  unfold State.pwrForceMin
  refine TouchesP.out ?_
  repeat' first
    | (with_reducible first | intro _ | assumption | exact Touches.refl | apply State.checkForced_touches | apply Touches.modPwr)
    | exact rfl | extract_lets -underBinder | split
    | (with_reducible first | apply TouchesP.pair)
    | (show Touches _ _ (Prod.fst _); dsimp only)

theorem State.pwrCoolClear_touches {L : List Part} {z0 : State} {u : List Nat} {s : State} (hz : Touches L z0 s)
    (hL : covers L [.regs, .out, .msix, .fab, .pwr, .hif] = true) :
    Touches L z0 ((State.pwrCoolClear u s).1) := by
  refine hz.andThen (A := [.regs, .out, .msix, .fab, .pwr, .hif]) ?_ hL
  unfold State.pwrCoolClear
  refine TouchesP.out ?_
  repeat' first
    | (with_reducible first | intro _ | assumption | exact Touches.refl | apply State.clearCauses_touches | apply Touches.modPwr)
    | exact rfl | extract_lets -underBinder | split
    | (with_reducible first | apply TouchesP.pair)
    | (show Touches _ _ (Prod.fst _); dsimp only)

theorem State.pwrResume_touches {L : List Part} {z0 : State} {u : List Nat} {s : State} (hz : Touches L z0 s) (hL : covers L [.pwr] = true) :
    Touches L z0 ((State.pwrResume u s).1) := by
  refine hz.andThen (A := [.pwr]) ?_ hL
  unfold State.pwrResume
  refine TouchesP.out ?_
  repeat' first
    | (with_reducible first | intro _ | assumption | exact Touches.refl | apply State.refuse_touches | apply Touches.ite | apply TouchesP.ite
                            | apply TouchesP.pairIte | apply Touches.modPwr)
    | exact rfl | extract_lets -underBinder | split
    | (with_reducible first | apply TouchesP.pair)
    | (show Touches _ _ (Prod.fst _); dsimp only)

theorem State.pwrWearSave_touches {L : List Part} {z0 : State} {u : List Nat} {s : State} (hz : Touches L z0 s) (hL : covers L [.flash] = true) :
    Touches L z0 ((State.pwrWearSave u s).1) := by
  refine hz.andThen (A := [.flash]) ?_ hL
  unfold State.pwrWearSave
  refine TouchesP.out ?_
  repeat' first
    | (with_reducible first | intro _ | assumption | exact Touches.refl | apply State.saveWear_touches)
    | exact rfl | extract_lets -underBinder | split
    | (with_reducible first | apply TouchesP.pair)
    | (show Touches _ _ (Prod.fst _); dsimp only)

theorem execPwrQuery_touches {via : Via} {s : State} {t : State} (hx : execPwrQuery via s = .next t) :
    Touches [.regs, .out, .msix, .journal, .commands, .completions] s t := by
  obtain rfl := Host.Outcome.next.inj hx
  repeat' first
    | (with_reducible first | intro _ | assumption | exact Touches.refl | apply State.command_touches | apply State.pwrQuery_touches)
    | exact rfl | extract_lets -underBinder | split
    | (show Touches _ _ (Prod.fst _); dsimp only)

theorem execPwrSetBudget_touches {via : Via} {s : State} {t : State} (hx : execPwrSetBudget via s = .next t) :
    Touches [.regs, .out, .msix, .pwr, .journal, .commands, .completions] s t := by
  obtain rfl := Host.Outcome.next.inj hx
  repeat' first
    | (with_reducible first | intro _ | assumption | exact Touches.refl | apply State.command_touches | apply State.pwrSetBudget_touches)
    | exact rfl | extract_lets -underBinder | split
    | (show Touches _ _ (Prod.fst _); dsimp only)

theorem execPwrEnergyQuery_touches {via : Via} {s : State} {t : State} (hx : execPwrEnergyQuery via s = .next t) :
    Touches [.regs, .out, .msix, .journal, .commands, .completions] s t := by
  obtain rfl := Host.Outcome.next.inj hx
  repeat' first
    | (with_reducible first | intro _ | assumption | exact Touches.refl | apply State.command_touches | apply State.pwrEnergyQuery_touches)
    | exact rfl | extract_lets -underBinder | split
    | (show Touches _ _ (Prod.fst _); dsimp only)

theorem execPwrEnergyRelease_touches {via : Via} {s : State} {t : State} (hx : execPwrEnergyRelease via s = .next t) :
    Touches [.regs, .out, .msix, .pwr, .journal, .commands, .completions] s t := by
  obtain rfl := Host.Outcome.next.inj hx
  repeat' first
    | (with_reducible first | intro _ | assumption | exact Touches.refl | apply State.command_touches | apply State.pwrEnergyRelease_touches)
    | exact rfl | extract_lets -underBinder | split
    | (show Touches _ _ (Prod.fst _); dsimp only)

theorem execPwrForceMin_touches {via : Via} {s : State} {t : State} (hx : execPwrForceMin via s = .next t) :
    Touches [.regs, .out, .time, .msix, .fab, .pwr, .journal, .commands, .completions, .hif] s t := by
  obtain rfl := Host.Outcome.next.inj hx
  repeat' first
    | (with_reducible first | intro _ | assumption | exact Touches.refl | apply State.command_touches | apply State.pwrForceMin_touches)
    | exact rfl | extract_lets -underBinder | split
    | (show Touches _ _ (Prod.fst _); dsimp only)

theorem execPwrCoolClear_touches {via : Via} {s : State} {t : State} (hx : execPwrCoolClear via s = .next t) :
    Touches [.regs, .out, .msix, .fab, .pwr, .journal, .commands, .completions, .hif] s t := by
  obtain rfl := Host.Outcome.next.inj hx
  repeat' first
    | (with_reducible first | intro _ | assumption | exact Touches.refl | apply State.command_touches | apply State.pwrCoolClear_touches)
    | exact rfl | extract_lets -underBinder | split
    | (show Touches _ _ (Prod.fst _); dsimp only)

theorem execPwrResume_touches {via : Via} {s : State} {t : State} (hx : execPwrResume via s = .next t) :
    Touches [.regs, .out, .msix, .pwr, .journal, .commands, .completions] s t := by
  obtain rfl := Host.Outcome.next.inj hx
  repeat' first
    | (with_reducible first | intro _ | assumption | exact Touches.refl | apply State.command_touches | apply State.pwrResume_touches)
    | exact rfl | extract_lets -underBinder | split
    | (show Touches _ _ (Prod.fst _); dsimp only)

theorem execPwrWearSave_touches {via : Via} {s : State} {t : State} (hx : execPwrWearSave via s = .next t) :
    Touches [.regs, .out, .msix, .journal, .commands, .completions, .flash] s t := by
  obtain rfl := Host.Outcome.next.inj hx
  repeat' first
    | (with_reducible first | intro _ | assumption | exact Touches.refl | apply State.command_touches | apply State.pwrWearSave_touches)
    | exact rfl | extract_lets -underBinder | split
    | (show Touches _ _ (Prod.fst _); dsimp only)

end Sys2Proof.Machine
end

