-- ==== Sys2Proof/Laws/Touch/Views.lean ====
section
/-!
SUPPORT. Laws/Touch/Views.lean: for each operation of Machine/Views.lean, what it can do: the queue stays, only the parts listed change, and the
registers and memories keep their canonical form.
-/

set_option linter.all false

namespace Sys2Proof.Machine

theorem State.clearBits_touches {L : List Part} {z0 : State} {s : State} {a : Nat} {m : Nat} (hz : Touches L z0 s) (hL : covers L [.regs] = true) :
    Touches L z0 (State.clearBits s a m) := by
  refine hz.andThen (A := [.regs]) ?_ hL
  unfold State.clearBits
  repeat' first
    | (with_reducible first | intro _ | assumption | exact Touches.refl | apply State.setReg_touches)
    | exact rfl | extract_lets -underBinder | split

theorem State.freshen_touches {L : List Part} {z0 : State} {s : State} {a : Nat} (hz : Touches L z0 s) (hL : covers L [.regs, .counter] = true) :
    Touches L z0 (State.freshen s a) := by
  refine hz.andThen (A := [.regs, .counter]) ?_ hL
  unfold State.freshen
  repeat' first
    | (with_reducible first | intro _ | assumption | exact Touches.refl | apply State.bumpFree_touches | apply Touches.ite
                            | refine Touches.ofFst (by assumption) ?_)
    | exact rfl | extract_lets -underBinder | split

theorem State.readPart_touches {L : List Part} {z0 : State} {s : State} {a : Nat} {hi : Nat} {lo : Nat} (hz : Touches L z0 s)
    (hL : covers L [.regs, .counter] = true) :
    Touches L z0 ((State.readPart s a hi lo).1) := by
  refine hz.andThen (A := [.regs, .counter]) ?_ hL
  unfold State.readPart
  refine TouchesP.out ?_
  repeat' first
    | (with_reducible first | intro _ | assumption | exact Touches.refl | apply State.clearBits_touches | apply State.freshen_touches)
    | exact rfl | extract_lets -underBinder | split
    | (with_reducible first | apply TouchesP.pair)
    | (show Touches _ _ (Prod.fst _); dsimp only)

theorem State.read32_touches {L : List Part} {z0 : State} {s : State} {addr : Nat} (hz : Touches L z0 s) (hL : covers L [.regs, .counter] = true) :
    Touches L z0 ((State.read32 s addr).1) := by
  refine hz.andThen (A := [.regs, .counter]) ?_ hL
  unfold State.read32
  refine TouchesP.out ?_
  repeat' first
    | (with_reducible first | intro _ | assumption | exact Touches.refl | apply State.readPart_touches | apply State.wr_touches | apply Touches.ite
                            | apply TouchesP.ite | apply TouchesP.pairIte | refine Touches.ofFst (by assumption) ?_)
    | exact rfl | extract_lets -underBinder | split
    | (with_reducible first | apply TouchesP.pair)
    | (show Touches _ _ (Prod.fst _); dsimp only)
    | dsimp +zetaDelta only

theorem State.readReg_touches {L : List Part} {z0 : State} {s : State} {addr : Nat} {size : Nat} (hz : Touches L z0 s)
    (hL : covers L [.regs, .counter] = true) :
    Touches L z0 ((State.readReg s addr size).1) := by
  refine hz.andThen (A := [.regs, .counter]) ?_ hL
  unfold State.readReg
  refine TouchesP.out ?_
  repeat' first
    | (with_reducible first | intro _ | assumption | exact Touches.refl | apply State.read32_touches | apply State.readPart_touches
                            | apply Touches.ite | apply TouchesP.ite | apply TouchesP.pairIte | refine Touches.ofFst (by assumption) ?_)
    | exact rfl | extract_lets -underBinder | split
    | (with_reducible first | apply TouchesP.pair)
    | (show Touches _ _ (Prod.fst _); dsimp only)
    | dsimp +zetaDelta only

theorem State.frameErr_touches {L : List Part} {z0 : State} {s : State} (hz : Touches L z0 s) (hL : covers L [.regs, .out, .msix] = true) :
    Touches L z0 (State.frameErr s) := by
  refine hz.andThen (A := [.regs, .out, .msix]) ?_ hL
  unfold State.frameErr
  repeat' first
    | (with_reducible first | intro _ | assumption | exact Touches.refl | apply State.bump_touches | apply State.raise_touches)
    | exact rfl | extract_lets -underBinder | split

theorem State.barRead_touches {L : List Part} {z0 : State} {s : State} {addr : Nat} {size : Nat} (hz : Touches L z0 s)
    (hL : covers L [.regs, .out, .counter, .msix] = true) :
    Touches L z0 (State.barRead s addr size) := by
  refine hz.andThen (A := [.regs, .out, .counter, .msix]) ?_ hL
  unfold State.barRead
  repeat' first
    | (with_reducible first | intro _ | assumption | exact Touches.refl | apply State.emit_touches | apply State.frameErr_touches
                            | apply State.readReg_touches | apply Touches.ite)
    | exact rfl | extract_lets -underBinder | split
    | (show Touches _ _ (Prod.fst _); dsimp only)

theorem execTimeBeatRead_touches {size : Nat} {s : State} {t : State} (hx : execTimeBeatRead size s = .next t) :
    Touches [.regs, .out, .counter, .msix] s t := by
  obtain rfl := Host.Outcome.next.inj hx
  repeat' first
    | (with_reducible first | intro _ | assumption | exact Touches.refl | apply State.barRead_touches)
    | exact rfl | extract_lets -underBinder | split

theorem execRegisterReadClear_touches {addr : Nat} {size : Nat} {s : State} {t : State} (hx : execRegisterReadClear addr size s = .next t) :
    Touches [.regs, .out, .counter, .msix] s t := by
  obtain rfl := Host.Outcome.next.inj hx
  repeat' first
    | (with_reducible first | intro _ | assumption | exact Touches.refl | apply State.barRead_touches)
    | exact rfl | extract_lets -underBinder | split

end Sys2Proof.Machine
end

