-- ==== Sys2Proof/Laws/Touch/RegWrite.lean ====
section
/-!
SUPPORT. Laws/Touch/RegWrite.lean: for each operation of Machine/RegWrite.lean, what it can do: the queue stays, only the parts listed change, and the
registers and memories keep their canonical form.
-/

set_option linter.all false

namespace Sys2Proof.Machine

theorem State.queuesChanged_touches {L : List Part} {z0 : State} {s : State} (hz : Touches L z0 s)
    (hL : covers L [.regs, .commands, .completions] = true) :
    Touches L z0 (State.queuesChanged s) := by
  refine hz.andThen (A := [.regs, .commands, .completions]) ?_ hL
  unfold State.queuesChanged
  repeat' first
    | (with_reducible first | intro _ | assumption | exact Touches.refl | apply State.wr_touches | apply Touches.ite | apply Touches.modPkg)
    | exact rfl | extract_lets -underBinder
    | (refine ⟨?_, ?_, ?_, ?_, ?_, ?_, ?_, ?_, ?_, ?_, ?_⟩ <;> first | exact .inl (by decide) | exact .inr rfl)
    | split

theorem State.clearDir_touches {L : List Part} {z0 : State} {s : State} (hz : Touches L z0 s) (hL : covers L [.stack, .caches, .dir] = true) :
    Touches L z0 (State.clearDir s) := by
  refine hz.andThen (A := [.stack, .caches, .dir]) ?_ hL
  unfold State.clearDir
  repeat' first
    | (with_reducible first | intro _ | assumption | exact Touches.refl | apply State.dropLines_touches | apply State.lineClean_touches
                            | apply Touches.foldl | apply Touches.foldlFst | apply Touches.modMem | apply Touches.modDir)
    | exact rfl | extract_lets -underBinder
    | (refine ⟨?_, ?_, ?_, ?_, ?_, ?_, ?_⟩ <;> first
      | exact .inl (by decide) | exact .inr rfl | exact fun h => h | exact memStore_wf _ _ | exact memFilter_wf _)
    | split

theorem State.dirEnabled_touches {L : List Part} {z0 : State} {s : State} {was : Bool} (hz : Touches L z0 s)
    (hL : covers L [.regs, .stack, .caches, .dir] = true) :
    Touches L z0 (State.dirEnabled s was) := by
  refine hz.andThen (A := [.regs, .stack, .caches, .dir]) ?_ hL
  unfold State.dirEnabled
  repeat' first
    | (with_reducible first | intro _ | assumption | exact Touches.refl | apply State.clearDir_touches | apply State.wr_touches | apply Touches.ite)
    | exact rfl | extract_lets -underBinder | split

theorem State.checkSlot_touches {L : List Part} {z0 : State} {s : State} {b : Nat} {n : Nat} (hz : Touches L z0 s) (hL : covers L [.regs] = true) :
    Touches L z0 (State.checkSlot s b n) := by
  refine hz.andThen (A := [.regs]) ?_ hL
  unfold State.checkSlot
  repeat' first
    | (with_reducible first | intro _ | assumption | exact Touches.refl | apply State.wr_touches | apply Touches.ite)
    | exact rfl | extract_lets -underBinder | split

theorem State.failPorts_touches {L : List Part} {z0 : State} {s : State} {l : List Nat} (hz : Touches L z0 s)
    (hL : covers L [.regs, .out, .msix, .fab] = true) :
    Touches L z0 (State.failPorts s l) := by
  refine hz.andThen (A := [.regs, .out, .msix, .fab]) ?_ hL
  unfold State.failPorts
  repeat' first
    | (with_reducible first | intro _ | assumption | exact Touches.refl | apply State.portFail_touches | apply Touches.foldl | apply Touches.foldlFst)
    | exact rfl | extract_lets -underBinder | split

theorem State.coreAfter_touches {L : List Part} {z0 : State} {s : State} {b : Nat} {o : Nat} {a : Nat} (hz : Touches L z0 s)
    (hL : covers L [.regs, .cores, .out, .msix, .caches] = true) :
    Touches L z0 (State.coreAfter s b o a) := by
  refine hz.andThen (A := [.regs, .cores, .out, .msix, .caches]) ?_ hL
  unfold State.coreAfter
  repeat' first
    | (with_reducible first | intro _ | assumption | exact Touches.refl | apply State.cancelProbes_touches | apply State.checkSlot_touches
                            | apply State.wr_touches | apply Touches.ite)
    | exact rfl | extract_lets -underBinder | split

theorem State.pwrAfter_touches {L : List Part} {z0 : State} {s : State} {a : Nat} (hz : Touches L z0 s)
    (hL : covers L [.regs, .out, .time, .msix, .fab, .pwr, .hif] = true) :
    Touches L z0 (State.pwrAfter s a) := by
  refine hz.andThen (A := [.regs, .out, .time, .msix, .fab, .pwr, .hif]) ?_ hL
  unfold State.pwrAfter
  repeat' first
    | (with_reducible first | intro _ | assumption | exact Touches.refl | apply State.checkForced_touches | apply State.setEff_touches
                            | apply State.setZoneV_touches | apply State.showWear_touches | apply State.wr_touches
                            | apply State.writeBudget_touches | apply Touches.ite | apply Touches.foldl | apply Touches.foldlFst)
    | exact rfl | extract_lets -underBinder | split

theorem State.afterWrite_touches {L : List Part} {z0 : State} {s : State} {a : Nat} {was : Word} {m : Nat} {skews : List Int} (hz : Touches L z0 s)
    (hL : covers L [.regs, .cores, .out, .time, .msix, .fab, .stack, .peat, .caches, .dir, .pwr, .ud0, .ud1, .commands, .completions, .rm, .hif] = true) :
    Touches L z0 (State.afterWrite s a was m skews) := by
  refine hz.andThen (A := [.regs, .cores, .out, .time, .msix, .fab, .stack, .peat, .caches, .dir, .pwr, .ud0, .ud1, .commands, .completions, .rm, .hif]) ?_ hL
  unfold State.afterWrite
  repeat' first
    | (with_reducible first | intro _ | assumption | exact Touches.refl | apply State.align_touches | apply State.cenCleared_touches
                            | apply State.coreAfter_touches | apply State.dirEnabled_touches | apply State.failPorts_touches
                            | apply State.portFail_touches | apply State.protWritten_touches | apply State.pwrAfter_touches
                            | apply State.queuesChanged_touches | apply State.sendOrphans_touches | apply State.sync_touches
                            | apply State.udAfter_touches | apply State.wr_touches | apply Touches.ite | refine Touches.ofFst (by assumption) ?_)
    | exact rfl | extract_lets -underBinder | split

theorem State.hostInc_touches {L : List Part} {z0 : State} {s : State} {ts : Nat} {v : Nat} (hz : Touches L z0 s) (hL : covers L [.incs] = true) :
    Touches L z0 (State.hostInc s ts v) := by
  refine hz.andThen (A := [.incs]) ?_ hL
  unfold State.hostInc
  repeat' first
    | (with_reducible first | intro _ | assumption | exact Touches.refl)
    | exact rfl | extract_lets -underBinder | split
    | (with_reducible first | apply Touches.set_incs)

theorem State.writeInc_touches {L : List Part} {z0 : State} {s : State} {cls : Nat} {ts : Nat} {v : Nat} (hz : Touches L z0 s)
    (hL : covers L [.regs, .incs] = true) :
    Touches L z0 (State.writeInc s cls ts v) := by
  refine hz.andThen (A := [.regs, .incs]) ?_ hL
  unfold State.writeInc
  repeat' first
    | (with_reducible first | intro _ | assumption | exact Touches.refl | apply State.bump_touches | apply State.hostInc_touches | apply Touches.ite)
    | exact rfl | extract_lets -underBinder | split

theorem State.expertRecord_touches {L : List Part} {z0 : State} {s : State} {cls : Nat} {off : Nat} {v : Nat} {ok : Bool} (hz : Touches L z0 s)
    (hL : covers L [.regs, .out, .msix, .journal] = true) :
    Touches L z0 (State.expertRecord s cls off v ok) := by
  refine hz.andThen (A := [.regs, .out, .msix, .journal]) ?_ hL
  unfold State.expertRecord
  repeat' first
    | (with_reducible first | intro _ | assumption | exact Touches.refl | apply State.bump_touches | apply State.jnlRegWrite_touches
                            | apply State.raise_touches | apply Touches.ite)
    | exact rfl | extract_lets -underBinder | split

theorem State.writePart_touches {L : List Part} {z0 : State} {s : State} {cls : Nat} {addr : Nat} {a : Nat} {v : Nat} {m : Nat} {skews : List Int}
    (hz : Touches L z0 s)
    (hL : covers L [.regs, .cores, .out, .time, .msix, .fab, .stack, .peat, .caches, .dir, .pwr, .ud0, .ud1, .journal, .commands, .completions, .rm, .hif] = true) :
    Touches L z0 (State.writePart s cls addr a v m skews) := by
  refine hz.andThen (A := [.regs, .cores, .out, .time, .msix, .fab, .stack, .peat, .caches, .dir, .pwr, .ud0, .ud1, .journal, .commands, .completions, .rm, .hif]) ?_ hL
  unfold State.writePart
  repeat' first
    | (with_reducible first | intro _ | assumption | exact Touches.refl | apply State.afterWrite_touches | apply State.expertRecord_touches
                            | apply State.frameErr_touches | apply State.sendMsi_touches | apply State.setReg_touches | apply Touches.ite
                            | refine Touches.ofFst (by assumption) ?_)
    | exact rfl | extract_lets -underBinder | split
    | dsimp +zetaDelta only

theorem State.write32_touches {L : List Part} {z0 : State} {s : State} {cls : Nat} {addr : Nat} {v : Nat} {skews : List Int} (hz : Touches L z0 s)
    (hL : covers L [.regs, .cores, .incs, .out, .time, .msix, .fab, .stack, .peat, .caches, .dir, .pwr, .ud0, .ud1, .journal, .commands, .completions, .rm, .hif] = true) :
    Touches L z0 (State.write32 s cls addr v skews) := by
  refine hz.andThen (A := [.regs, .cores, .incs, .out, .time, .msix, .fab, .stack, .peat, .caches, .dir, .pwr, .ud0, .ud1, .journal, .commands, .completions, .rm, .hif]) ?_ hL
  unfold State.write32
  repeat' first
    | (with_reducible first | intro _ | assumption | exact Touches.refl | apply State.writeInc_touches | apply State.writePart_touches
                            | apply Touches.ite | refine Touches.ofFst (by assumption) ?_)
    | exact rfl | extract_lets -underBinder | split
    | dsimp +zetaDelta only

theorem State.writeReg_touches {L : List Part} {z0 : State} {s : State} {cls : Nat} {addr : Nat} {size : Nat} {v : Nat} {skews : List Int}
    (hz : Touches L z0 s)
    (hL : covers L [.regs, .cores, .incs, .out, .time, .msix, .fab, .stack, .peat, .caches, .dir, .pwr, .ud0, .ud1, .journal, .commands, .completions, .rm, .hif] = true) :
    Touches L z0 (State.writeReg s cls addr size v skews) := by
  refine hz.andThen (A := [.regs, .cores, .incs, .out, .time, .msix, .fab, .stack, .peat, .caches, .dir, .pwr, .ud0, .ud1, .journal, .commands, .completions, .rm, .hif]) ?_ hL
  unfold State.writeReg
  repeat' first
    | (with_reducible first | intro _ | assumption | exact Touches.refl | apply State.write32_touches | apply State.writePart_touches
                            | apply Touches.ite | refine Touches.ofFst (by assumption) ?_)
    | exact rfl | extract_lets -underBinder | split
    | dsimp +zetaDelta only

theorem State.barWrite_touches {L : List Part} {z0 : State} {s : State} {cls : Nat} {addr : Nat} {size : Nat} {v : Nat} {skews : List Int}
    (hz : Touches L z0 s)
    (hL : covers L [.regs, .cores, .incs, .out, .time, .msix, .fab, .stack, .peat, .caches, .dir, .pwr, .ud0, .ud1, .journal, .commands, .completions, .rm, .hif] = true) :
    Touches L z0 (State.barWrite s cls addr size v skews) := by
  refine hz.andThen (A := [.regs, .cores, .incs, .out, .time, .msix, .fab, .stack, .peat, .caches, .dir, .pwr, .ud0, .ud1, .journal, .commands, .completions, .rm, .hif]) ?_ hL
  unfold State.barWrite
  repeat' first
    | (with_reducible first | intro _ | assumption | exact Touches.refl | apply State.frameErr_touches | apply State.writeReg_touches
                            | apply Touches.ite)
    | exact rfl | extract_lets -underBinder | split

theorem execRegisterWrite_touches {addr : Nat} {size : Nat} {value : Nat} {s : State} {t : State}
    (hx : execRegisterWrite addr size value s = .next t) :
    Touches [.regs, .cores, .incs, .out, .time, .msix, .fab, .stack, .peat, .caches, .dir, .pwr, .ud0, .ud1, .journal, .commands, .completions, .rm, .hif] s t := by
  obtain rfl := Host.Outcome.next.inj hx
  repeat' first
    | (with_reducible first | intro _ | assumption | exact Touches.refl | apply State.barWrite_touches)
    | exact rfl | extract_lets -underBinder | split

theorem execTsInc_touches {ts : Nat} {value : Nat} {s : State} {t : State} (hx : execTsInc ts value s = .next t) :
    Touches [.regs, .cores, .incs, .out, .time, .msix, .fab, .stack, .peat, .caches, .dir, .pwr, .ud0, .ud1, .journal, .commands, .completions, .rm, .hif] s t := by
  obtain rfl := Host.Outcome.next.inj hx
  repeat' first
    | (with_reducible first | intro _ | assumption | exact Touches.refl | apply State.barWrite_touches)
    | exact rfl | extract_lets -underBinder | split

theorem execTsCountWrite_touches {ts : Nat} {value : Nat} {s : State} {t : State} (hx : execTsCountWrite ts value s = .next t) :
    Touches [.regs, .cores, .incs, .out, .time, .msix, .fab, .stack, .peat, .caches, .dir, .pwr, .ud0, .ud1, .journal, .commands, .completions, .rm, .hif] s t := by
  obtain rfl := Host.Outcome.next.inj hx
  repeat' first
    | (with_reducible first | intro _ | assumption | exact Touches.refl | apply State.barWrite_touches)
    | exact rfl | extract_lets -underBinder | split

theorem execTsTargetWrite_touches {ts : Nat} {value : Nat} {s : State} {t : State} (hx : execTsTargetWrite ts value s = .next t) :
    Touches [.regs, .cores, .incs, .out, .time, .msix, .fab, .stack, .peat, .caches, .dir, .pwr, .ud0, .ud1, .journal, .commands, .completions, .rm, .hif] s t := by
  obtain rfl := Host.Outcome.next.inj hx
  repeat' first
    | (with_reducible first | intro _ | assumption | exact Touches.refl | apply State.barWrite_touches)
    | exact rfl | extract_lets -underBinder | split

theorem execVeSlotCfgWrite_touches {core : Nat} {slot : Nat} {value : Nat} {s : State} {t : State}
    (hx : execVeSlotCfgWrite core slot value s = .next t) :
    Touches [.regs, .cores, .incs, .out, .time, .msix, .fab, .stack, .peat, .caches, .dir, .pwr, .ud0, .ud1, .journal, .commands, .completions, .rm, .hif] s t := by
  obtain rfl := Host.Outcome.next.inj hx
  repeat' first
    | (with_reducible first | intro _ | assumption | exact Touches.refl | apply State.barWrite_touches)
    | exact rfl | extract_lets -underBinder | split

theorem execVeSlotContentWrite_touches {core : Nat} {slot : Nat} {k : Nat} {value : Nat} {s : State} {t : State}
    (hx : execVeSlotContentWrite core slot k value s = .next t) :
    Touches [.regs, .cores, .incs, .out, .time, .msix, .fab, .stack, .peat, .caches, .dir, .pwr, .ud0, .ud1, .journal, .commands, .completions, .rm, .hif] s t := by
  obtain rfl := Host.Outcome.next.inj hx
  repeat' first
    | (with_reducible first | intro _ | assumption | exact Touches.refl | apply State.barWrite_touches | apply Touches.ite)
    | exact rfl | extract_lets -underBinder | split

theorem execUdRuleCfgWrite_touches {die : Nat} {slot : Nat} {value : Nat} {s : State} {t : State}
    (hx : execUdRuleCfgWrite die slot value s = .next t) :
    Touches [.regs, .cores, .incs, .out, .time, .msix, .fab, .stack, .peat, .caches, .dir, .pwr, .ud0, .ud1, .journal, .commands, .completions, .rm, .hif] s t := by
  obtain rfl := Host.Outcome.next.inj hx
  repeat' first
    | (with_reducible first | intro _ | assumption | exact Touches.refl | apply State.barWrite_touches)
    | exact rfl | extract_lets -underBinder | split

theorem execRaticksWrite_touches {core : Nat} {value : Nat} {s : State} {t : State} (hx : execRaticksWrite core value s = .next t) :
    Touches [.regs, .cores, .incs, .out, .time, .msix, .fab, .stack, .peat, .caches, .dir, .pwr, .ud0, .ud1, .journal, .commands, .completions, .rm, .hif] s t := by
  obtain rfl := Host.Outcome.next.inj hx
  repeat' first
    | (with_reducible first | intro _ | assumption | exact Touches.refl | apply State.barWrite_touches)
    | exact rfl | extract_lets -underBinder | split

theorem execDirCtrlEnWrite_touches {value : Nat} {s : State} {t : State} (hx : execDirCtrlEnWrite value s = .next t) :
    Touches [.regs, .cores, .incs, .out, .time, .msix, .fab, .stack, .peat, .caches, .dir, .pwr, .ud0, .ud1, .journal, .commands, .completions, .rm, .hif] s t := by
  obtain rfl := Host.Outcome.next.inj hx
  repeat' first
    | (with_reducible first | intro _ | assumption | exact Touches.refl | apply State.barWrite_touches)
    | exact rfl | extract_lets -underBinder | split

theorem execMemCtrlCenWrite_touches {site : Nat} {value : Nat} {s : State} {t : State} (hx : execMemCtrlCenWrite site value s = .next t) :
    Touches [.regs, .cores, .incs, .out, .time, .msix, .fab, .stack, .peat, .caches, .dir, .pwr, .ud0, .ud1, .journal, .commands, .completions, .rm, .hif] s t := by
  obtain rfl := Host.Outcome.next.inj hx
  repeat' first
    | (with_reducible first | intro _ | assumption | exact Touches.refl | apply State.barWrite_touches)
    | exact rfl | extract_lets -underBinder | split

theorem execTimeCtrlAlignWrite_touches {value : Nat} {skews : List Int} {s : State} {t : State}
    (hx : execTimeCtrlAlignWrite value skews s = .next t) :
    Touches [.regs, .cores, .incs, .out, .time, .msix, .fab, .stack, .peat, .caches, .dir, .pwr, .ud0, .ud1, .journal, .commands, .completions, .rm, .hif] s t := by
  obtain rfl := Host.Outcome.next.inj hx
  repeat' first
    | (with_reducible first | intro _ | assumption | exact Touches.refl | apply State.barWrite_touches)
    | exact rfl | extract_lets -underBinder | split

theorem execUdRecbaseFirstWrite_touches {die : Nat} {value : Nat} {s : State} {t : State}
    (hx : execUdRecbaseFirstWrite die value s = .next t) :
    Touches [.regs, .cores, .incs, .out, .time, .msix, .fab, .stack, .peat, .caches, .dir, .pwr, .ud0, .ud1, .journal, .commands, .completions, .rm, .hif] s t := by
  obtain rfl := Host.Outcome.next.inj hx
  repeat' first
    | (with_reducible first | intro _ | assumption | exact Touches.refl | apply State.barWrite_touches)
    | exact rfl | extract_lets -underBinder | split

theorem execHifBar2Write_touches {value : Nat} {s : State} {t : State} (hx : execHifBar2Write value s = .next t) :
    Touches [.regs, .cores, .incs, .out, .time, .msix, .fab, .stack, .peat, .caches, .dir, .pwr, .ud0, .ud1, .journal, .commands, .completions, .rm, .hif] s t := by
  obtain rfl := Host.Outcome.next.inj hx
  repeat' first
    | (with_reducible first | intro _ | assumption | exact Touches.refl | apply State.barWrite_touches)
    | exact rfl | extract_lets -underBinder | split

theorem execSubmissionDoorbell_touches {value : Nat} {s : State} {t : State} (hx : execSubmissionDoorbell value s = .next t) :
    Touches [.regs, .out, .msix] s t := by
  obtain rfl := Host.Outcome.next.inj hx
  repeat' first
    | (with_reducible first | intro _ | assumption | exact Touches.refl | apply State.frameErr_touches | apply State.wr_touches | apply Touches.ite)
    | exact rfl | extract_lets -underBinder | split

theorem execTurnstileDoorbell_touches {page : Nat} {index : Nat} {value : Nat} {s : State} {t : State}
    (hx : execTurnstileDoorbell page index value s = .next t) : Touches [.regs, .incs, .out, .msix] s t := by
  obtain rfl := Host.Outcome.next.inj hx
  repeat' first
    | (with_reducible first | intro _ | assumption | exact Touches.refl | apply State.frameErr_touches | apply State.writeInc_touches
                            | apply Touches.ite)
    | exact rfl | extract_lets -underBinder | split

theorem execCqHeadWrite_touches {value : Nat} {s : State} {t : State} (hx : execCqHeadWrite value s = .next t) :
    Touches [.regs, .cores, .incs, .out, .time, .msix, .fab, .stack, .peat, .caches, .dir, .pwr, .ud0, .ud1, .journal, .commands, .completions, .rm, .hif] s t := by
  obtain rfl := Host.Outcome.next.inj hx
  repeat' first
    | (with_reducible first | intro _ | assumption | exact Touches.refl | apply State.barWrite_touches)
    | exact rfl | extract_lets -underBinder | split

theorem execCqenWrite_touches {value : Nat} {bme : Bool} {s : State} {t : State} (hx : execCqenWrite value bme s = .next t) :
    Touches [.regs, .cores, .incs, .out, .time, .msix, .fab, .stack, .peat, .caches, .dir, .pwr, .ud0, .ud1, .journal, .commands, .completions, .rm, .hif] s t := by
  obtain rfl := Host.Outcome.next.inj hx
  repeat' first
    | (with_reducible first | intro _ | assumption | exact Touches.refl | apply State.barWrite_touches | apply State.wr_touches | apply Touches.ite)
    | exact rfl | extract_lets -underBinder | split

theorem execMsixUnmask_touches {vec : Nat} {enable : Bool} {mask : Bool} {s : State} {t : State}
    (hx : execMsixUnmask vec enable mask s = .next t) : Touches [.out, .msix] s t := by
  obtain rfl := Host.Outcome.next.inj hx
  repeat' first
    | (with_reducible first | intro _ | assumption | exact Touches.refl | apply State.emit_touches | apply Touches.ite | apply Touches.foldl
                            | apply Touches.foldlFst)
    | exact rfl | extract_lets -underBinder | split
    | (with_reducible first | apply Touches.set_msix)

end Sys2Proof.Machine
end

