-- ==== Sys2Proof/Laws/Touch/MemCmds.lean ====
section
/-!
SUPPORT. Laws/Touch/MemCmds.lean: for each operation of Machine/MemCmds.lean, what it can do: the queue stays, only the parts listed change, and the
registers and memories keep their canonical form.
-/

set_option linter.all false

namespace Sys2Proof.Machine

theorem State.memQuery_touches {L : List Part} {z0 : State} {a : List Nat} {s : State} (hz : Touches L z0 s) (hL : covers L [] = true) :
    Touches L z0 ((State.memQuery a s).1) := by
  refine hz.andThen (A := []) ?_ hL
  unfold State.memQuery
  refine TouchesP.out ?_
  repeat' first
    | (with_reducible first | intro _ | assumption | exact Touches.refl | apply State.answered_touches | apply Touches.ite | apply TouchesP.ite
                            | apply TouchesP.pairIte)
    | exact rfl | extract_lets -underBinder | split
    | (with_reducible first | apply TouchesP.pair)
    | (show Touches _ _ (Prod.fst _); dsimp only)

theorem State.memFence_touches {L : List Part} {z0 : State} {a : List Nat} {s : State} (hz : Touches L z0 s)
    (hL : covers L [.regs, .out, .msix, .fab, .caches] = true) :
    Touches L z0 ((State.memFence a s).1) := by
  refine hz.andThen (A := [.regs, .out, .msix, .fab, .caches]) ?_ hL
  unfold State.memFence
  refine TouchesP.out ?_
  repeat' first
    | (with_reducible first | intro _ | assumption | exact Touches.refl | apply State.fenceSite_touches | apply State.refuse_touches
                            | apply Touches.ite | apply TouchesP.ite | apply TouchesP.pairIte)
    | exact rfl | extract_lets -underBinder | split
    | (with_reducible first | apply TouchesP.pair)
    | (show Touches _ _ (Prod.fst _); dsimp only)

theorem State.memCompact_touches {L : List Part} {z0 : State} {a : List Nat} {s : State} (hz : Touches L z0 s)
    (hL : covers L [.regs, .caches] = true) :
    Touches L z0 ((State.memCompact a s).1) := by
  refine hz.andThen (A := [.regs, .caches]) ?_ hL
  unfold State.memCompact
  refine TouchesP.out ?_
  repeat' first
    | (with_reducible first | intro _ | assumption | exact Touches.refl | apply State.compactStart_touches | apply State.refuse_touches
                            | apply Touches.ite | apply TouchesP.ite | apply TouchesP.pairIte)
    | exact rfl | extract_lets -underBinder | split
    | (with_reducible first | apply TouchesP.pair)
    | (show Touches _ _ (Prod.fst _); dsimp only)

theorem State.memRelease_touches {L : List Part} {z0 : State} {a : List Nat} {s : State} (hz : Touches L z0 s) (hL : covers L [.caches] = true) :
    Touches L z0 ((State.memRelease a s).1) := by
  refine hz.andThen (A := [.caches]) ?_ hL
  unfold State.memRelease
  refine TouchesP.out ?_
  repeat' first
    | (with_reducible first | intro _ | assumption | exact Touches.refl | apply Touches.ite | apply TouchesP.ite | apply TouchesP.pairIte
                            | apply Touches.modMem)
    | exact rfl | extract_lets -underBinder
    | (refine ⟨?_, ?_, ?_, ?_, ?_, ?_, ?_⟩ <;> first
      | exact .inl (by decide) | exact .inr rfl | exact fun h => h | exact memStore_wf _ _ | exact memFilter_wf _)
    | split
    | (with_reducible first | apply TouchesP.pair)
    | (show Touches _ _ (Prod.fst _); dsimp only)

theorem State.memFlush_touches {L : List Part} {z0 : State} {a : List Nat} {s : State} (hz : Touches L z0 s) (hL : covers L [.caches] = true) :
    Touches L z0 ((State.memFlush a s).1) := by
  refine hz.andThen (A := [.caches]) ?_ hL
  unfold State.memFlush
  refine TouchesP.out ?_
  repeat' first
    | (with_reducible first | intro _ | assumption | exact Touches.refl | apply State.dropLines_touches)
    | exact rfl | extract_lets -underBinder | split
    | (with_reducible first | apply TouchesP.pair)
    | (show Touches _ _ (Prod.fst _); dsimp only)

theorem State.ptQuery_touches {L : List Part} {z0 : State} {a : List Nat} {s : State} (hz : Touches L z0 s) (hL : covers L [] = true) :
    Touches L z0 ((State.ptQuery a s).1) := by
  refine hz.andThen (A := []) ?_ hL
  unfold State.ptQuery
  refine TouchesP.out ?_
  repeat' first
    | (with_reducible first | intro _ | assumption | exact Touches.refl | apply State.answered_touches | apply Touches.ite | apply TouchesP.ite
                            | apply TouchesP.pairIte)
    | exact rfl | extract_lets -underBinder | split
    | (with_reducible first | apply TouchesP.pair)
    | (show Touches _ _ (Prod.fst _); dsimp only)

theorem State.ptFence_touches {L : List Part} {z0 : State} {a : List Nat} {s : State} (hz : Touches L z0 s)
    (hL : covers L [.regs, .out, .msix, .fab] = true) :
    Touches L z0 ((State.ptFence a s).1) := by
  refine hz.andThen (A := [.regs, .out, .msix, .fab]) ?_ hL
  unfold State.ptFence
  refine TouchesP.out ?_
  repeat' first
    | (with_reducible first | intro _ | assumption | exact Touches.refl | apply State.fenceDie_touches | apply State.refuse_touches
                            | apply Touches.ite | apply TouchesP.ite | apply TouchesP.pairIte)
    | exact rfl | extract_lets -underBinder | split
    | (with_reducible first | apply TouchesP.pair)
    | (show Touches _ _ (Prod.fst _); dsimp only)

theorem State.ptCompact_touches {L : List Part} {z0 : State} {a : List Nat} {s : State} (hz : Touches L z0 s) (hL : covers L [.regs] = true) :
    Touches L z0 ((State.ptCompact a s).1) := by
  refine hz.andThen (A := [.regs]) ?_ hL
  unfold State.ptCompact
  refine TouchesP.out ?_
  repeat' first
    | (with_reducible first | intro _ | assumption | exact Touches.refl | apply State.dieCompactStart_touches | apply State.refuse_touches
                            | apply Touches.ite | apply TouchesP.ite | apply TouchesP.pairIte)
    | exact rfl | extract_lets -underBinder | split
    | (with_reducible first | apply TouchesP.pair)
    | (show Touches _ _ (Prod.fst _); dsimp only)

theorem State.dirCommand_touches {L : List Part} {z0 : State} {s : State} {id : Nat} {body : State → Option (List Nat) → State × Ans} (hz :
    Touches L z0 s) (hL : covers L [.regs, .cores, .out, .msix, .fab, .caches, .dir, .ud0, .ud1] = true)
    (h_body : ∀ a0 a1, Touches L z0 a0 → Touches L z0 (body a0 a1).1) :
    Touches L z0 ((State.dirCommand s id body).1) := by
  unfold State.dirCommand
  refine TouchesP.out ?_
  repeat' first
    | (with_reducible first | intro _ | assumption | exact Touches.refl | apply h_body | apply State.entryOf_touches | apply State.refuse_touches
                            | apply State.walkMovesNow_touches | apply Touches.ite | apply TouchesP.ite | apply TouchesP.pairIte)
    | exact covers_trans hL rfl | extract_lets -underBinder | split
    | (with_reducible first | apply TouchesP.pair)
    | (show Touches _ _ (Prod.fst _); dsimp only)

theorem State.entryWritten_touches {L : List Part} {z0 : State} {s : State} {old : Option (List Nat)} {id : Nat} {e : List Nat} {wakes : Bool}
    (hz : Touches L z0 s) (hL : covers L [.regs, .cores, .out, .msix, .fab, .stack, .caches, .dir, .ud0, .ud1] = true) :
    Touches L z0 ((State.entryWritten s old id e wakes).1) := by
  refine hz.andThen (A := [.regs, .cores, .out, .msix, .fab, .stack, .caches, .dir, .ud0, .ud1]) ?_ hL
  unfold State.entryWritten
  refine TouchesP.out ?_
  repeat' first
    | (with_reducible first | intro _ | assumption | exact Touches.refl | apply State.wakeMoves_touches | apply State.writeEntry_touches
                            | apply Touches.ite | apply TouchesP.ite | apply TouchesP.pairIte)
    | exact rfl | extract_lets -underBinder | split
    | (with_reducible first | apply TouchesP.pair)
    | (show Touches _ _ (Prod.fst _); dsimp only)

theorem State.dirCreate_touches {L : List Part} {z0 : State} {a : List Nat} {s : State} (hz : Touches L z0 s)
    (hL : covers L [.regs, .cores, .out, .msix, .fab, .stack, .caches, .dir, .ud0, .ud1] = true) :
    Touches L z0 ((State.dirCreate a s).1) := by
  refine hz.andThen (A := [.regs, .cores, .out, .msix, .fab, .stack, .caches, .dir, .ud0, .ud1]) ?_ hL
  unfold State.dirCreate
  refine TouchesP.out ?_
  repeat' first
    | (with_reducible first | intro _ | assumption | exact Touches.refl | apply State.dirCommand_touches | apply State.entryWritten_touches
                            | apply State.refuse_touches | apply Touches.ite | apply TouchesP.ite | apply TouchesP.pairIte)
    | exact rfl | extract_lets -underBinder | split
    | (with_reducible first | apply TouchesP.pair)
    | (show Touches _ _ (Prod.fst _); dsimp only)

theorem State.dirSet_touches {L : List Part} {z0 : State} {a : List Nat} {s : State} (hz : Touches L z0 s)
    (hL : covers L [.regs, .cores, .out, .msix, .fab, .stack, .caches, .dir, .ud0, .ud1] = true) :
    Touches L z0 ((State.dirSet a s).1) := by
  refine hz.andThen (A := [.regs, .cores, .out, .msix, .fab, .stack, .caches, .dir, .ud0, .ud1]) ?_ hL
  unfold State.dirSet
  refine TouchesP.out ?_
  repeat' first
    | (with_reducible first | intro _ | assumption | exact Touches.refl | apply State.dirCommand_touches | apply State.entryWritten_touches
                            | apply State.refuse_touches | apply Touches.ite | apply TouchesP.ite | apply TouchesP.pairIte
                            | refine Touches.ofFst (by assumption) ?_)
    | exact rfl | extract_lets -underBinder | split
    | (with_reducible first | apply TouchesP.pair)
    | (show Touches _ _ (Prod.fst _); dsimp only)
    | dsimp +zetaDelta only

theorem State.dirDelete_touches {L : List Part} {z0 : State} {a : List Nat} {s : State} (hz : Touches L z0 s)
    (hL : covers L [.regs, .cores, .out, .msix, .fab, .stack, .caches, .dir, .ud0, .ud1] = true) :
    Touches L z0 ((State.dirDelete a s).1) := by
  refine hz.andThen (A := [.regs, .cores, .out, .msix, .fab, .stack, .caches, .dir, .ud0, .ud1]) ?_ hL
  unfold State.dirDelete
  refine TouchesP.out ?_
  repeat' first
    | (with_reducible first | intro _ | assumption | exact Touches.refl | apply State.dirCommand_touches | apply State.entryWritten_touches
                            | apply State.refuse_touches | apply Touches.ite | apply TouchesP.ite | apply TouchesP.pairIte)
    | exact rfl | extract_lets -underBinder | split
    | (with_reducible first | apply TouchesP.pair)
    | (show Touches _ _ (Prod.fst _); dsimp only)

theorem State.dirQuery_touches {L : List Part} {z0 : State} {a : List Nat} {s : State} (hz : Touches L z0 s)
    (hL : covers L [.regs, .out, .msix, .fab, .caches] = true) :
    Touches L z0 ((State.dirQuery a s).1) := by
  refine hz.andThen (A := [.regs, .out, .msix, .fab, .caches]) ?_ hL
  unfold State.dirQuery
  refine TouchesP.out ?_
  repeat' first
    | (with_reducible first | intro _ | assumption | exact Touches.refl | apply State.answered_touches | apply State.entryOf_touches
                            | apply State.refuse_touches | apply Touches.ite | apply TouchesP.ite | apply TouchesP.pairIte)
    | exact rfl | extract_lets -underBinder | split
    | (with_reducible first | apply TouchesP.pair)
    | (show Touches _ _ (Prod.fst _); dsimp only)

theorem State.dirBeginMove_touches {L : List Part} {z0 : State} {a : List Nat} {s : State} (hz : Touches L z0 s)
    (hL : covers L [.regs, .cores, .out, .msix, .fab, .stack, .caches, .dir, .ud0, .ud1] = true) :
    Touches L z0 ((State.dirBeginMove a s).1) := by
  refine hz.andThen (A := [.regs, .cores, .out, .msix, .fab, .stack, .caches, .dir, .ud0, .ud1]) ?_ hL
  unfold State.dirBeginMove
  refine TouchesP.out ?_
  repeat' first
    | (with_reducible first | intro _ | assumption | exact Touches.refl | apply State.dirCommand_touches | apply State.entryWritten_touches
                            | apply State.refuse_touches | apply Touches.ite | apply TouchesP.ite | apply TouchesP.pairIte)
    | exact rfl | extract_lets -underBinder | split
    | (with_reducible first | apply TouchesP.pair)
    | (show Touches _ _ (Prod.fst _); dsimp only)

theorem State.dirCommitMove_touches {L : List Part} {z0 : State} {a : List Nat} {s : State} (hz : Touches L z0 s)
    (hL : covers L [.regs, .cores, .out, .msix, .fab, .stack, .caches, .dir, .ud0, .ud1] = true) :
    Touches L z0 ((State.dirCommitMove a s).1) := by
  refine hz.andThen (A := [.regs, .cores, .out, .msix, .fab, .stack, .caches, .dir, .ud0, .ud1]) ?_ hL
  unfold State.dirCommitMove
  refine TouchesP.out ?_
  repeat' first
    | (with_reducible first | intro _ | assumption | exact Touches.refl | apply State.dirCommand_touches | apply State.entryWritten_touches
                            | apply State.refuse_touches | apply Touches.ite | apply TouchesP.ite | apply TouchesP.pairIte)
    | exact rfl | extract_lets -underBinder | split
    | (with_reducible first | apply TouchesP.pair)
    | (show Touches _ _ (Prod.fst _); dsimp only)

theorem State.dirAbortMove_touches {L : List Part} {z0 : State} {a : List Nat} {s : State} (hz : Touches L z0 s)
    (hL : covers L [.regs, .cores, .out, .msix, .fab, .stack, .caches, .dir, .ud0, .ud1] = true) :
    Touches L z0 ((State.dirAbortMove a s).1) := by
  refine hz.andThen (A := [.regs, .cores, .out, .msix, .fab, .stack, .caches, .dir, .ud0, .ud1]) ?_ hL
  unfold State.dirAbortMove
  refine TouchesP.out ?_
  repeat' first
    | (with_reducible first | intro _ | assumption | exact Touches.refl | apply State.dirCommand_touches | apply State.entryWritten_touches
                            | apply State.refuse_touches | apply Touches.ite | apply TouchesP.ite | apply TouchesP.pairIte)
    | exact rfl | extract_lets -underBinder | split
    | (with_reducible first | apply TouchesP.pair)
    | (show Touches _ _ (Prod.fst _); dsimp only)

theorem State.dirMarkLost_touches {L : List Part} {z0 : State} {a : List Nat} {s : State} (hz : Touches L z0 s)
    (hL : covers L [.regs, .cores, .out, .msix, .fab, .stack, .caches, .dir, .ud0, .ud1] = true) :
    Touches L z0 ((State.dirMarkLost a s).1) := by
  refine hz.andThen (A := [.regs, .cores, .out, .msix, .fab, .stack, .caches, .dir, .ud0, .ud1]) ?_ hL
  unfold State.dirMarkLost
  refine TouchesP.out ?_
  repeat' first
    | (with_reducible first | intro _ | assumption | exact Touches.refl | apply State.dirCommand_touches | apply State.entryWritten_touches
                            | apply State.refuse_touches | apply Touches.ite | apply TouchesP.ite | apply TouchesP.pairIte)
    | exact rfl | extract_lets -underBinder | split
    | (with_reducible first | apply TouchesP.pair)
    | (show Touches _ _ (Prod.fst _); dsimp only)

theorem State.dirFlush_touches {L : List Part} {z0 : State} {u : List Nat} {s : State} (hz : Touches L z0 s) (hL : covers L [.dir] = true) :
    Touches L z0 ((State.dirFlush u s).1) := by
  refine hz.andThen (A := [.dir]) ?_ hL
  unfold State.dirFlush
  refine TouchesP.out ?_
  repeat' first
    | (with_reducible first | intro _ | assumption | exact Touches.refl | apply State.refuse_touches | apply Touches.ite | apply TouchesP.ite
                            | apply TouchesP.pairIte | apply Touches.modDir)
    | exact rfl | extract_lets -underBinder | split
    | (with_reducible first | apply TouchesP.pair)
    | (show Touches _ _ (Prod.fst _); dsimp only)

theorem execMemQuery_touches {via : Via} {s : State} {t : State} (hx : execMemQuery via s = .next t) :
    Touches [.regs, .out, .msix, .journal, .commands, .completions] s t := by
  obtain rfl := Host.Outcome.next.inj hx
  repeat' first
    | (with_reducible first | intro _ | assumption | exact Touches.refl | apply State.command_touches | apply State.memQuery_touches)
    | exact rfl | extract_lets -underBinder | split
    | (show Touches _ _ (Prod.fst _); dsimp only)

theorem execMemFence_touches {via : Via} {s : State} {t : State} (hx : execMemFence via s = .next t) :
    Touches [.regs, .out, .msix, .fab, .caches, .journal, .commands, .completions] s t := by
  obtain rfl := Host.Outcome.next.inj hx
  repeat' first
    | (with_reducible first | intro _ | assumption | exact Touches.refl | apply State.command_touches | apply State.memFence_touches)
    | exact rfl | extract_lets -underBinder | split
    | (show Touches _ _ (Prod.fst _); dsimp only)

theorem execMemCompact_touches {via : Via} {s : State} {t : State} (hx : execMemCompact via s = .next t) :
    Touches [.regs, .out, .msix, .caches, .journal, .commands, .completions] s t := by
  obtain rfl := Host.Outcome.next.inj hx
  repeat' first
    | (with_reducible first | intro _ | assumption | exact Touches.refl | apply State.command_touches | apply State.memCompact_touches)
    | exact rfl | extract_lets -underBinder | split
    | (show Touches _ _ (Prod.fst _); dsimp only)

theorem execMemCacheRelease_touches {via : Via} {s : State} {t : State} (hx : execMemCacheRelease via s = .next t) :
    Touches [.regs, .out, .msix, .caches, .journal, .commands, .completions] s t := by
  obtain rfl := Host.Outcome.next.inj hx
  repeat' first
    | (with_reducible first | intro _ | assumption | exact Touches.refl | apply State.command_touches | apply State.memRelease_touches)
    | exact rfl | extract_lets -underBinder | split
    | (show Touches _ _ (Prod.fst _); dsimp only)

theorem execMemCacheFlush_touches {via : Via} {s : State} {t : State} (hx : execMemCacheFlush via s = .next t) :
    Touches [.regs, .out, .msix, .caches, .journal, .commands, .completions] s t := by
  obtain rfl := Host.Outcome.next.inj hx
  repeat' first
    | (with_reducible first | intro _ | assumption | exact Touches.refl | apply State.command_touches | apply State.memFlush_touches)
    | exact rfl | extract_lets -underBinder | split
    | (show Touches _ _ (Prod.fst _); dsimp only)

theorem execPtQuery_touches {via : Via} {s : State} {t : State} (hx : execPtQuery via s = .next t) :
    Touches [.regs, .out, .msix, .journal, .commands, .completions] s t := by
  obtain rfl := Host.Outcome.next.inj hx
  repeat' first
    | (with_reducible first | intro _ | assumption | exact Touches.refl | apply State.command_touches | apply State.ptQuery_touches)
    | exact rfl | extract_lets -underBinder | split
    | (show Touches _ _ (Prod.fst _); dsimp only)

theorem execPtFence_touches {via : Via} {s : State} {t : State} (hx : execPtFence via s = .next t) :
    Touches [.regs, .out, .msix, .fab, .journal, .commands, .completions] s t := by
  obtain rfl := Host.Outcome.next.inj hx
  repeat' first
    | (with_reducible first | intro _ | assumption | exact Touches.refl | apply State.command_touches | apply State.ptFence_touches)
    | exact rfl | extract_lets -underBinder | split
    | (show Touches _ _ (Prod.fst _); dsimp only)

theorem execPtCompact_touches {via : Via} {s : State} {t : State} (hx : execPtCompact via s = .next t) :
    Touches [.regs, .out, .msix, .journal, .commands, .completions] s t := by
  obtain rfl := Host.Outcome.next.inj hx
  repeat' first
    | (with_reducible first | intro _ | assumption | exact Touches.refl | apply State.command_touches | apply State.ptCompact_touches)
    | exact rfl | extract_lets -underBinder | split
    | (show Touches _ _ (Prod.fst _); dsimp only)

theorem execDirCreate_touches {via : Via} {s : State} {t : State} (hx : execDirCreate via s = .next t) :
    Touches [.regs, .cores, .out, .msix, .fab, .stack, .caches, .dir, .ud0, .ud1, .journal, .commands, .completions] s t := by
  obtain rfl := Host.Outcome.next.inj hx
  repeat' first
    | (with_reducible first | intro _ | assumption | exact Touches.refl | apply State.command_touches | apply State.dirCreate_touches)
    | exact rfl | extract_lets -underBinder | split
    | (show Touches _ _ (Prod.fst _); dsimp only)

theorem execDirSet_touches {via : Via} {s : State} {t : State} (hx : execDirSet via s = .next t) :
    Touches [.regs, .cores, .out, .msix, .fab, .stack, .caches, .dir, .ud0, .ud1, .journal, .commands, .completions] s t := by
  obtain rfl := Host.Outcome.next.inj hx
  repeat' first
    | (with_reducible first | intro _ | assumption | exact Touches.refl | apply State.command_touches | apply State.dirSet_touches)
    | exact rfl | extract_lets -underBinder | split
    | (show Touches _ _ (Prod.fst _); dsimp only)

theorem execDirDelete_touches {via : Via} {s : State} {t : State} (hx : execDirDelete via s = .next t) :
    Touches [.regs, .cores, .out, .msix, .fab, .stack, .caches, .dir, .ud0, .ud1, .journal, .commands, .completions] s t := by
  obtain rfl := Host.Outcome.next.inj hx
  repeat' first
    | (with_reducible first | intro _ | assumption | exact Touches.refl | apply State.command_touches | apply State.dirDelete_touches)
    | exact rfl | extract_lets -underBinder | split
    | (show Touches _ _ (Prod.fst _); dsimp only)

theorem execDirQuery_touches {via : Via} {s : State} {t : State} (hx : execDirQuery via s = .next t) :
    Touches [.regs, .out, .msix, .fab, .caches, .journal, .commands, .completions] s t := by
  obtain rfl := Host.Outcome.next.inj hx
  repeat' first
    | (with_reducible first | intro _ | assumption | exact Touches.refl | apply State.command_touches | apply State.dirQuery_touches)
    | exact rfl | extract_lets -underBinder | split
    | (show Touches _ _ (Prod.fst _); dsimp only)

theorem execDirBeginMove_touches {via : Via} {s : State} {t : State} (hx : execDirBeginMove via s = .next t) :
    Touches [.regs, .cores, .out, .msix, .fab, .stack, .caches, .dir, .ud0, .ud1, .journal, .commands, .completions] s t := by
  obtain rfl := Host.Outcome.next.inj hx
  repeat' first
    | (with_reducible first | intro _ | assumption | exact Touches.refl | apply State.command_touches | apply State.dirBeginMove_touches)
    | exact rfl | extract_lets -underBinder | split
    | (show Touches _ _ (Prod.fst _); dsimp only)

theorem execDirCommitMove_touches {via : Via} {s : State} {t : State} (hx : execDirCommitMove via s = .next t) :
    Touches [.regs, .cores, .out, .msix, .fab, .stack, .caches, .dir, .ud0, .ud1, .journal, .commands, .completions] s t := by
  obtain rfl := Host.Outcome.next.inj hx
  repeat' first
    | (with_reducible first | intro _ | assumption | exact Touches.refl | apply State.command_touches | apply State.dirCommitMove_touches)
    | exact rfl | extract_lets -underBinder | split
    | (show Touches _ _ (Prod.fst _); dsimp only)

theorem execDirAbortMove_touches {via : Via} {s : State} {t : State} (hx : execDirAbortMove via s = .next t) :
    Touches [.regs, .cores, .out, .msix, .fab, .stack, .caches, .dir, .ud0, .ud1, .journal, .commands, .completions] s t := by
  obtain rfl := Host.Outcome.next.inj hx
  repeat' first
    | (with_reducible first | intro _ | assumption | exact Touches.refl | apply State.command_touches | apply State.dirAbortMove_touches)
    | exact rfl | extract_lets -underBinder | split
    | (show Touches _ _ (Prod.fst _); dsimp only)

theorem execDirMarkLost_touches {via : Via} {s : State} {t : State} (hx : execDirMarkLost via s = .next t) :
    Touches [.regs, .cores, .out, .msix, .fab, .stack, .caches, .dir, .ud0, .ud1, .journal, .commands, .completions] s t := by
  obtain rfl := Host.Outcome.next.inj hx
  repeat' first
    | (with_reducible first | intro _ | assumption | exact Touches.refl | apply State.command_touches | apply State.dirMarkLost_touches)
    | exact rfl | extract_lets -underBinder | split
    | (show Touches _ _ (Prod.fst _); dsimp only)

theorem execDirFlush_touches {via : Via} {s : State} {t : State} (hx : execDirFlush via s = .next t) :
    Touches [.regs, .out, .msix, .dir, .journal, .commands, .completions] s t := by
  obtain rfl := Host.Outcome.next.inj hx
  repeat' first
    | (with_reducible first | intro _ | assumption | exact Touches.refl | apply State.command_touches | apply State.dirFlush_touches)
    | exact rfl | extract_lets -underBinder | split
    | (show Touches _ _ (Prod.fst _); dsimp only)

end Sys2Proof.Machine
end

