-- ==== Sys2Proof/Laws/Touch/Starts.lean ====
section
/-!
SUPPORT. Laws/Touch/Starts.lean: for each operation of Machine/Starts.lean, what it can do: the queue stays, only the parts listed change, and the
registers and memories keep their canonical form.
-/

set_option linter.all false

namespace Sys2Proof.Machine

/-! What a start resets, and what it keeps. -/

theorem swf_warmRegs (l : RegFile) : swf resetWord (warmRegs l) = true :=
  foldl_keeps (P := fun m : RegFile => swf resetWord m = true) rfl fun _ _ h => swf_sput resetWord _ _ h

theorem State.coldReset_touches {L : List Part} {z s : State} (hz : Touches L z s)
    (hL : covers L [.regs, .cores, .incs, .marks, .time, .msix, .fab, .stack, .peat, .caches, .dir, .pwr, .ud0, .ud1, .sched, .journal,
      .commands, .completions, .image, .staged, .rm, .hif] = true) : Touches L z (State.coldReset s) :=
  hz.andThen ⟨rfl, fun p hp => by cases p <;> first | exact absurd (by decide) hp | exact rfl,
    fun c => ⟨rfl, fun _ h => absurd h List.not_mem_nil, rfl, rfl, c.far⟩⟩ hL

theorem State.holdReset_touches {L : List Part} {z0 : State} {s : State} (hz : Touches L z0 s)
    (hL : covers L [.regs, .cores, .incs, .marks, .time, .msix, .fab, .stack, .peat, .caches, .dir, .pwr, .ud0, .ud1, .sched, .journal, .commands, .completions, .image, .staged, .rm, .hif] = true) :
    Touches L z0 (State.holdReset s) := by
  refine hz.andThen (A := [.regs, .cores, .incs, .marks, .time, .msix, .fab, .stack, .peat, .caches, .dir, .pwr, .ud0, .ud1, .sched, .journal, .commands, .completions, .image, .staged, .rm, .hif]) ?_ hL
  unfold State.holdReset
  repeat' first
    | (with_reducible first | intro _ | assumption | exact Touches.refl | apply State.coldReset_touches | apply State.wr_touches
                            | apply Touches.modTime)
    | exact rfl | extract_lets -underBinder | split

theorem State.recovery_touches {L : List Part} {z0 : State} {s : State} {step : Nat} (hz : Touches L z0 s)
    (hL : covers L [.regs, .out, .msix] = true) :
    Touches L z0 (State.recovery s step) := by
  refine hz.andThen (A := [.regs, .out, .msix]) ?_ hL
  unfold State.recovery
  repeat' first
    | (with_reducible first | intro _ | assumption | exact Touches.refl | apply State.raise_touches | apply State.wr_touches)
    | exact rfl | extract_lets -underBinder | split

theorem State.readFlash_touches {L : List Part} {z0 : State} {s : State} (hz : Touches L z0 s) (hL : covers L [.regs, .out, .msix] = true) :
    Touches L z0 ((State.readFlash s).1) := by
  refine hz.andThen (A := [.regs, .out, .msix]) ?_ hL
  unfold State.readFlash
  refine TouchesP.out ?_
  repeat' first
    | (with_reducible first | intro _ | assumption | exact Touches.refl | apply State.raise_touches | apply State.wr_touches | apply Touches.ite
                            | apply TouchesP.ite | apply TouchesP.pairIte | refine Touches.ofFst (by assumption) ?_)
    | exact rfl | extract_lets -underBinder | split
    | (with_reducible first | apply TouchesP.pair)
    | (show Touches _ _ (Prod.fst _); dsimp only)
    | dsimp +zetaDelta only

theorem State.countStart_touches {L : List Part} {z0 : State} {s : State} (hz : Touches L z0 s) (hL : covers L [.regs, .flash] = true) :
    Touches L z0 (State.countStart s) := by
  refine hz.andThen (A := [.regs, .flash]) ?_ hL
  unfold State.countStart
  repeat' first
    | (with_reducible first | intro _ | assumption | exact Touches.refl | apply State.wr_touches | apply Touches.modPkg)
    | exact rfl | extract_lets -underBinder
    | (refine ⟨?_, ?_, ?_, ?_, ?_, ?_, ?_, ?_, ?_, ?_, ?_⟩ <;> first | exact .inl (by decide) | exact .inr rfl)
    | split

theorem State.installImage_touches {L : List Part} {z0 : State} {s : State} {i : BootImage} (hz : Touches L z0 s)
    (hL : covers L [.regs, .sched, .image] = true) :
    Touches L z0 (State.installImage s i) := by
  refine hz.andThen (A := [.regs, .sched, .image]) ?_ hL
  unfold State.installImage
  repeat' first
    | (with_reducible first | intro _ | assumption | exact Touches.refl | apply State.wr_touches | apply Touches.ite | apply Touches.foldl
                            | apply Touches.foldlFst | apply Touches.modPkg | refine Touches.ofFst (by assumption) ?_)
    | exact rfl | extract_lets -underBinder
    | (refine ⟨?_, ?_, ?_, ?_, ?_, ?_, ?_, ?_, ?_, ?_, ?_⟩ <;> first | exact .inl (by decide) | exact .inr rfl)
    | split
    | (with_reducible first | apply Touches.set_sched)
    | dsimp +zetaDelta only

theorem State.identify_touches {L : List Part} {z0 : State} {s : State} (hz : Touches L z0 s) (hL : covers L [.regs] = true) :
    Touches L z0 (State.identify s) := by
  refine hz.andThen (A := [.regs]) ?_ hL
  unfold State.identify
  repeat' first
    | (with_reducible first | intro _ | assumption | exact Touches.refl | apply State.setReg_touches | apply State.wr_touches | apply Touches.ite
                            | apply Touches.foldl | apply Touches.foldlFst | refine Touches.ofFst (by assumption) ?_)
    | exact rfl | extract_lets -underBinder | split
    | dsimp +zetaDelta only

theorem State.powerUp_touches {L : List Part} {z0 : State} {s : State} (hz : Touches L z0 s) (hL : covers L [.regs, .pwr] = true) :
    Touches L z0 (State.powerUp s) := by
  refine hz.andThen (A := [.regs, .pwr]) ?_ hL
  unfold State.powerUp
  repeat' first
    | (with_reducible first | intro _ | assumption | exact Touches.refl | apply State.setReg_touches | apply State.wr_touches | apply Touches.foldl
                            | apply Touches.foldlFst | apply Touches.modPwr)
    | exact rfl | extract_lets -underBinder | split

theorem State.powerReset_touches {L : List Part} {z0 : State} {s : State} (hz : Touches L z0 s)
    (hL : covers L [.regs, .out, .msix, .fab, .hif] = true) :
    Touches L z0 (State.powerReset s) := by
  refine hz.andThen (A := [.regs, .out, .msix, .fab, .hif]) ?_ hL
  unfold State.powerReset
  repeat' first
    | (with_reducible first | intro _ | assumption | exact Touches.refl | apply State.showWear_touches | apply State.wr_touches | apply Touches.ite
                            | apply Touches.foldl | apply Touches.foldlFst)
    | exact rfl | extract_lets -underBinder | split

theorem State.disableCore_touches {L : List Part} {z0 : State} {s : State} {c : Nat} (hz : Touches L z0 s) (hL : covers L [.regs] = true) :
    Touches L z0 (State.disableCore s c) := by
  refine hz.andThen (A := [.regs]) ?_ hL
  unfold State.disableCore
  repeat' first
    | (with_reducible first | intro _ | assumption | exact Touches.refl | apply State.wr_touches)
    | exact rfl | extract_lets -underBinder | split

theorem State.overlay_touches {L : List Part} {z0 : State} {s : State} {c : Nat} (hz : Touches L z0 s) (hL : covers L [.regs, .out, .msix] = true) :
    Touches L z0 (State.overlay s c) := by
  refine hz.andThen (A := [.regs, .out, .msix]) ?_ hL
  unfold State.overlay
  repeat' first
    | (with_reducible first | intro _ | assumption | exact Touches.refl | apply State.bump_touches | apply State.disableCore_touches
                            | apply State.raise_touches | apply State.wr_touches | apply Touches.ite)
    | exact rfl | extract_lets -underBinder | split

theorem State.capTable_touches {L : List Part} {z0 : State} {s : State} {i : BootImage} (hz : Touches L z0 s)
    (hL : covers L [.regs, .out, .msix] = true) :
    Touches L z0 (State.capTable s i) := by
  refine hz.andThen (A := [.regs, .out, .msix]) ?_ hL
  unfold State.capTable
  repeat' first
    | (with_reducible first | intro _ | assumption | exact Touches.refl | apply State.disableCore_touches | apply State.overlay_touches
                            | apply State.setFmax_touches | apply State.wr_touches | apply Touches.ite | apply Touches.foldl | apply Touches.foldlFst)
    | exact rfl | extract_lets -underBinder | split

theorem State.showCores_touches {L : List Part} {z0 : State} {s : State} (hz : Touches L z0 s) (hL : covers L [.regs] = true) :
    Touches L z0 (State.showCores s) := by
  refine hz.andThen (A := [.regs]) ?_ hL
  unfold State.showCores
  repeat' first
    | (with_reducible first | intro _ | assumption | exact Touches.refl | apply State.wr_touches | apply Touches.ite | apply Touches.foldl
                            | apply Touches.foldlFst)
    | exact rfl | extract_lets -underBinder | split

theorem State.bist_touches {L : List Part} {z0 : State} {s : State} (hz : Touches L z0 s) (hL : covers L [.regs, .out, .msix, .journal] = true) :
    Touches L z0 (State.bist s) := by
  refine hz.andThen (A := [.regs, .out, .msix, .journal]) ?_ hL
  unfold State.bist
  repeat' first
    | (with_reducible first | intro _ | assumption | exact Touches.refl | apply State.disableCore_touches | apply State.jnlDevice_touches
                            | apply State.raise_touches | apply Touches.ite | apply Touches.foldl | apply Touches.foldlFst)
    | exact rfl | extract_lets -underBinder | split

theorem State.forcedStart_touches {L : List Part} {z0 : State} {s : State} (hz : Touches L z0 s) (hL : covers L [.regs, .out, .time, .msix] = true) :
    Touches L z0 (State.forcedStart s) := by
  refine hz.andThen (A := [.regs, .out, .time, .msix]) ?_ hL
  unfold State.forcedStart
  repeat' first
    | (with_reducible first | intro _ | assumption | exact Touches.refl | apply State.enterMin_touches | apply Touches.ite)
    | exact rfl | extract_lets -underBinder | split

theorem State.setClocks_touches {L : List Part} {z0 : State} {s : State} {code : Nat} {skews : List Int} (hz : Touches L z0 s)
    (hL : covers L [.regs, .out, .time, .msix] = true) :
    Touches L z0 (State.setClocks s code skews) := by
  refine hz.andThen (A := [.regs, .out, .time, .msix]) ?_ hL
  unfold State.setClocks
  repeat' first
    | (with_reducible first | intro _ | assumption | exact Touches.refl | apply State.align_touches | apply State.endRamps_touches
                            | apply State.publishRatios_touches | apply State.refreshFcap_touches | apply State.setAllV_touches
                            | apply State.wr_touches | apply Touches.ite | apply Touches.foldl | apply Touches.foldlFst)
    | exact rfl | extract_lets -underBinder | split

theorem State.showSite_touches {L : List Part} {z0 : State} {s : State} {x : Nat} (hz : Touches L z0 s) (hL : covers L [.regs] = true) :
    Touches L z0 (State.showSite s x) := by
  refine hz.andThen (A := [.regs]) ?_ hL
  unfold State.showSite
  repeat' first
    | (with_reducible first | intro _ | assumption | exact Touches.refl | apply State.wr_touches | apply Touches.ite | apply Touches.foldl
                            | apply Touches.foldlFst)
    | exact rfl | extract_lets -underBinder | split

theorem State.trainSite_touches {L : List Part} {z0 : State} {s : State} {e : StartEnv} {x : Nat} (hz : Touches L z0 s)
    (hL : covers L [.regs, .out, .msix] = true) :
    Touches L z0 (State.trainSite s e x) := by
  refine hz.andThen (A := [.regs, .out, .msix]) ?_ hL
  unfold State.trainSite
  repeat' first
    | (with_reducible first | intro _ | assumption | exact Touches.refl | apply State.raise_touches | apply State.showSite_touches
                            | apply State.wr_touches | apply Touches.ite | apply Touches.foldl | apply Touches.foldlFst)
    | exact rfl | extract_lets -underBinder | split

theorem State.trainDies_touches {L : List Part} {z0 : State} {s : State} {e : StartEnv} {ds : List Nat} (hz : Touches L z0 s)
    (hL : covers L [.regs, .out, .msix] = true) :
    Touches L z0 (State.trainDies s e ds) := by
  refine hz.andThen (A := [.regs, .out, .msix]) ?_ hL
  unfold State.trainDies
  repeat' first
    | (with_reducible first | intro _ | assumption | exact Touches.refl | apply State.raise_touches | apply State.setReg_touches
                            | apply State.wr_touches | apply Touches.ite | apply Touches.foldl | apply Touches.foldlFst
                            | refine Touches.ofFst (by assumption) ?_)
    | exact rfl | extract_lets -underBinder | split
    | dsimp +zetaDelta only

theorem State.tuneOne_touches {L : List Part} {z0 : State} {s : State} {r : Nat × Nat × Nat × Nat} (hz : Touches L z0 s)
    (hL : covers L [.regs, .cores, .out, .time, .msix, .fab, .stack, .peat, .caches, .dir, .pwr, .ud0, .ud1, .journal, .commands, .completions, .rm, .hif] = true) :
    Touches L z0 (State.tuneOne s r) := by
  refine hz.andThen (A := [.regs, .cores, .out, .time, .msix, .fab, .stack, .peat, .caches, .dir, .pwr, .ud0, .ud1, .journal, .commands, .completions, .rm, .hif]) ?_ hL
  unfold State.tuneOne
  repeat' first
    | (with_reducible first | intro _ | assumption | exact Touches.refl | apply State.bump_touches | apply State.raise_touches
                            | apply State.wr_touches | apply State.writePart_touches | apply Touches.ite | apply Touches.foldl
                            | apply Touches.foldlFst)
    | exact rfl | extract_lets -underBinder | split

theorem State.applyTune_touches {L : List Part} {z0 : State} {s : State} {i : BootImage} (hz : Touches L z0 s)
    (hL : covers L [.regs, .cores, .out, .time, .msix, .fab, .stack, .peat, .caches, .dir, .pwr, .ud0, .ud1, .journal, .commands, .completions, .rm, .hif] = true) :
    Touches L z0 (State.applyTune s i) := by
  refine hz.andThen (A := [.regs, .cores, .out, .time, .msix, .fab, .stack, .peat, .caches, .dir, .pwr, .ud0, .ud1, .journal, .commands, .completions, .rm, .hif]) ?_ hL
  unfold State.applyTune
  repeat' first
    | (with_reducible first | intro _ | assumption | exact Touches.refl | apply State.tuneOne_touches | apply Touches.foldl | apply Touches.foldlFst)
    | exact rfl | extract_lets -underBinder | split

theorem State.linkTrained_touches {L : List Part} {z0 : State} {s : State} {width : Nat} {rate : Nat} {flit : Bool} (hz : Touches L z0 s)
    (hL : covers L [.regs, .out, .msix] = true) :
    Touches L z0 (State.linkTrained s width rate flit) := by
  refine hz.andThen (A := [.regs, .out, .msix]) ?_ hL
  unfold State.linkTrained
  repeat' first
    | (with_reducible first | intro _ | assumption | exact Touches.refl | apply State.raise_touches | apply State.wr_touches | apply Touches.ite)
    | exact rfl | extract_lets -underBinder | split

theorem State.startDone_touches {L : List Part} {z0 : State} {s : State} {kind : Nat} {ms : Nat} (hz : Touches L z0 s)
    (hL : covers L [.regs, .out, .msix, .journal] = true) :
    Touches L z0 (State.startDone s kind ms) := by
  refine hz.andThen (A := [.regs, .out, .msix, .journal]) ?_ hL
  unfold State.startDone
  repeat' first
    | (with_reducible first | intro _ | assumption | exact Touches.refl | apply State.jnlDevice_touches | apply State.raise_touches
                            | apply State.wr_touches)
    | exact rfl | extract_lets -underBinder | split

theorem State.linkUp_touches {L : List Part} {z0 : State} {s : State} {e : StartEnv} {d : Nat} (hz : Touches L z0 s) (hL : covers L [.regs] = true) :
    Touches L z0 (State.linkUp s e d) := by
  refine hz.andThen (A := [.regs]) ?_ hL
  unfold State.linkUp
  repeat' first
    | (with_reducible first | intro _ | assumption | exact Touches.refl | apply State.wr_touches | apply Touches.ite)
    | exact rfl | extract_lets -underBinder | split

theorem State.coldStart_touches {L : List Part} {z0 : State} {s : State} {e : StartEnv} (hz : Touches L z0 s)
    (hL : covers L [.regs, .cores, .incs, .marks, .out, .time, .msix, .fab, .stack, .peat, .caches, .dir, .pwr, .ud0, .ud1, .sched, .journal, .commands, .completions, .image, .flash, .staged, .rm, .hif] = true) :
    Touches L z0 (State.coldStart s e) := by
  refine hz.andThen (A := [.regs, .cores, .incs, .marks, .out, .time, .msix, .fab, .stack, .peat, .caches, .dir, .pwr, .ud0, .ud1, .sched, .journal, .commands, .completions, .image, .flash, .staged, .rm, .hif]) ?_ hL
  unfold State.coldStart
  repeat' first
    | (with_reducible first | intro _ | assumption | exact Touches.refl | apply State.applyTune_touches | apply State.bist_touches
                            | apply State.capTable_touches | apply State.coldReset_touches | apply State.countStart_touches
                            | apply State.forcedStart_touches | apply State.identify_touches | apply State.installImage_touches
                            | apply State.linkTrained_touches | apply State.linkUp_touches | apply State.powerReset_touches
                            | apply State.powerUp_touches | apply State.readFlash_touches | apply State.recovery_touches
                            | apply State.setClocks_touches | apply State.showCores_touches | apply State.startDone_touches
                            | apply State.trainDies_touches | apply State.trainSite_touches | apply State.wr_touches | apply Touches.ite
                            | apply Touches.foldl | apply Touches.foldlFst | refine Touches.ofFst (by assumption) ?_)
    | exact rfl | extract_lets -underBinder | split
    | (show Touches _ _ (Prod.fst _); dsimp only)
    | dsimp +zetaDelta only

theorem State.interruptOthers_touches {L : List Part} {z0 : State} {s : State} {seq : Nat} (hz : Touches L z0 s)
    (hL : covers L [.regs, .out, .msix, .journal, .commands, .completions] = true) :
    Touches L z0 (State.interruptOthers s seq) := by
  refine hz.andThen (A := [.regs, .out, .msix, .journal, .commands, .completions]) ?_ hL
  unfold State.interruptOthers
  repeat' first
    | (with_reducible first | intro _ | assumption | exact Touches.refl | apply State.finishCmd_touches | apply Touches.ite | apply Touches.foldl
                            | apply Touches.foldlFst)
    | exact rfl | extract_lets -underBinder | split

theorem State.announceRestart_touches {L : List Part} {z0 : State} {s : State} (hz : Touches L z0 s) (hL : covers L [.regs, .out, .fab] = true) :
    Touches L z0 (State.announceRestart s) := by
  refine hz.andThen (A := [.regs, .out, .fab]) ?_ hL
  unfold State.announceRestart
  repeat' first
    | (with_reducible first | intro _ | assumption | exact Touches.refl | apply State.sendLink_touches | apply State.toRm_touches
                            | apply Touches.ite | apply Touches.foldl | apply Touches.foldlFst)
    | exact rfl | extract_lets -underBinder | split

theorem State.endCompactions_touches {L : List Part} {z0 : State} {s : State} (hz : Touches L z0 s)
    (hL : covers L [.regs, .out, .counter, .msix, .fab, .stack, .peat, .caches] = true) :
    Touches L z0 (State.endCompactions s) := by
  refine hz.andThen (A := [.regs, .out, .counter, .msix, .fab, .stack, .peat, .caches]) ?_ hL
  unfold State.endCompactions
  repeat' first
    | (with_reducible first | intro _ | assumption | exact Touches.refl | apply State.compactDone_touches | apply State.dieCompactDone_touches
                            | apply State.dirRebuild_touches | apply State.tearAbove_touches | apply Touches.ite | apply Touches.foldl
                            | apply Touches.foldlFst)
    | exact rfl | extract_lets -underBinder | split

theorem State.warmReset_touches {L : List Part} {z s : State} (hz : Touches L z s)
    (hL : covers L [.regs, .cores, .incs, .marks, .time, .fab, .caches, .dir, .pwr, .ud0, .ud1, .sched, .staged, .rm] = true) :
    Touches L z (State.warmReset s) :=
  hz.andThen ⟨rfl, fun p hp => by cases p <;> first | exact absurd (by decide) hp | exact rfl,
    fun c => ⟨swf_warmRegs _, fun _ h => absurd h List.not_mem_nil, c.stack, c.peat, c.far⟩⟩ hL

theorem State.loseContents_touches {L : List Part} {z0 : State} {s : State} {u : Nat} (hz : Touches L z0 s)
    (hL : covers L [.stack, .peat, .caches] = true) :
    Touches L z0 (State.loseContents s u) := by
  refine hz.andThen (A := [.stack, .peat, .caches]) ?_ hL
  unfold State.loseContents
  repeat' first
    | (with_reducible first | intro _ | assumption | exact Touches.refl | apply Touches.ite | apply Touches.modMem)
    | exact rfl | extract_lets -underBinder
    | (refine ⟨?_, ?_, ?_, ?_, ?_, ?_, ?_⟩ <;> first
      | exact .inl (by decide) | exact .inr rfl | exact fun h => h | exact memStore_wf _ _ | exact memFilter_wf _)
    | split

theorem State.wakeSite_touches {L : List Part} {z0 : State} {s : State} {e : StartEnv} {x : Nat} (hz : Touches L z0 s)
    (hL : covers L [.regs, .out, .msix, .stack, .peat, .caches] = true) :
    Touches L z0 (State.wakeSite s e x) := by
  refine hz.andThen (A := [.regs, .out, .msix, .stack, .peat, .caches]) ?_ hL
  unfold State.wakeSite
  repeat' first
    | (with_reducible first | intro _ | assumption | exact Touches.refl | apply State.loseContents_touches | apply State.raise_touches
                            | apply State.showSite_touches | apply State.trainSite_touches | apply State.wr_touches | apply Touches.ite)
    | exact rfl | extract_lets -underBinder | split

theorem State.wakeDie_touches {L : List Part} {z0 : State} {s : State} {e : StartEnv} {d : Nat} (hz : Touches L z0 s)
    (hL : covers L [.regs, .out, .msix, .stack, .peat, .caches] = true) :
    Touches L z0 (State.wakeDie s e d) := by
  refine hz.andThen (A := [.regs, .out, .msix, .stack, .peat, .caches]) ?_ hL
  unfold State.wakeDie
  repeat' first
    | (with_reducible first | intro _ | assumption | exact Touches.refl | apply State.clearRecords_touches | apply State.loseContents_touches
                            | apply State.raise_touches | apply State.trainDies_touches | apply State.wr_touches | apply Touches.ite)
    | exact rfl | extract_lets -underBinder | split

theorem State.dieGens_touches {L : List Part} {z0 : State} {s : State} (hz : Touches L z0 s) (hL : covers L [.regs] = true) :
    Touches L z0 (State.dieGens s) := by
  refine hz.andThen (A := [.regs]) ?_ hL
  unfold State.dieGens
  repeat' first
    | (with_reducible first | intro _ | assumption | exact Touches.refl | apply State.wr_touches | apply Touches.ite | apply Touches.foldl
                            | apply Touches.foldlFst)
    | exact rfl | extract_lets -underBinder | split

theorem State.endRequests_touches {L : List Part} {z0 : State} {s : State} {l : List (Nat × Nat)} (hz : Touches L z0 s)
    (hL : covers L [.regs, .out, .msix, .journal] = true) :
    Touches L z0 (State.endRequests s l) := by
  refine hz.andThen (A := [.regs, .out, .msix, .journal]) ?_ hL
  unfold State.endRequests
  repeat' first
    | (with_reducible first | intro _ | assumption | exact Touches.refl | apply State.bump_touches | apply State.jnlDevice_touches
                            | apply State.raise_touches | apply Touches.ite | apply Touches.foldl | apply Touches.foldlFst)
    | exact rfl | extract_lets -underBinder | split

theorem State.endMoves_touches {L : List Part} {z0 : State} {s : State} (hz : Touches L z0 s)
    (hL : covers L [.regs, .cores, .out, .msix, .fab, .dir] = true) :
    Touches L z0 (State.endMoves s) := by
  refine hz.andThen (A := [.regs, .cores, .out, .msix, .fab, .dir]) ?_ hL
  unfold State.endMoves
  repeat' first
    | (with_reducible first | intro _ | assumption | exact Touches.refl | apply State.dropJob_touches | apply State.moveFail_touches
                            | apply State.moveFailed_touches | apply Touches.ite | apply Touches.foldl | apply Touches.foldlFst)
    | exact rfl | extract_lets -underBinder | split

theorem State.warmRest_touches {L : List Part} {z0 : State} {s : State} {reload : Bool} {e : StartEnv} (hz : Touches L z0 s)
    (hL : covers L [.regs, .cores, .incs, .marks, .out, .counter, .time, .msix, .fab, .stack, .peat, .caches, .dir, .pwr, .ud0, .ud1, .sched, .journal, .commands, .completions, .image, .flash, .staged, .rm, .hif] = true) :
    Touches L z0 (State.warmRest s reload e) := by
  refine hz.andThen (A := [.regs, .cores, .incs, .marks, .out, .counter, .time, .msix, .fab, .stack, .peat, .caches, .dir, .pwr, .ud0, .ud1, .sched, .journal, .commands, .completions, .image, .flash, .staged, .rm, .hif]) ?_ hL
  unfold State.warmRest
  repeat' first
    | (with_reducible first | intro _ | assumption | exact Touches.refl | apply State.applyTune_touches | apply State.countStart_touches
                            | apply State.dieGens_touches | apply State.endCompactions_touches | apply State.endRequests_touches
                            | apply State.forcedStart_touches | apply State.installImage_touches | apply State.linkUp_touches
                            | apply State.powerReset_touches | apply State.readFlash_touches | apply State.recovery_touches
                            | apply State.saveWear_touches | apply State.setBeat_touches | apply State.setClocks_touches
                            | apply State.setReg_touches | apply State.startDone_touches | apply State.tearOpen_touches
                            | apply State.wakeDie_touches | apply State.wakeSite_touches | apply State.warmReset_touches | apply State.wr_touches
                            | apply Touches.ite | apply Touches.foldl | apply Touches.foldlFst | refine Touches.ofFst (by assumption) ?_)
    | exact rfl | extract_lets -underBinder | split
    | (show Touches _ _ (Prod.fst _); dsimp only)
    | dsimp +zetaDelta only

theorem State.warm_touches {L : List Part} {z0 : State} {seq : Nat} {e : StartEnv} {a : List Nat} {s : State} (hz : Touches L z0 s)
    (hL : covers L [.regs, .cores, .incs, .marks, .out, .counter, .time, .msix, .fab, .stack, .peat, .caches, .dir, .pwr, .ud0, .ud1, .sched, .journal, .commands, .completions, .image, .flash, .staged, .rm, .hif] = true) :
    Touches L z0 ((State.warm seq e a s).1) := by
  refine hz.andThen (A := [.regs, .cores, .incs, .marks, .out, .counter, .time, .msix, .fab, .stack, .peat, .caches, .dir, .pwr, .ud0, .ud1, .sched, .journal, .commands, .completions, .image, .flash, .staged, .rm, .hif]) ?_ hL
  unfold State.warm
  refine TouchesP.out ?_
  repeat' first
    | (with_reducible first | intro _ | assumption | exact Touches.refl | apply State.announceRestart_touches | apply State.endMoves_touches
                            | apply State.interruptOthers_touches | apply State.refuse_touches | apply State.warmRest_touches | apply Touches.ite
                            | apply TouchesP.ite | apply TouchesP.pairIte)
    | exact rfl | extract_lets -underBinder | split
    | (with_reducible first | apply TouchesP.pair)
    | (show Touches _ _ (Prod.fst _); dsimp only)

theorem State.cxlDown_touches {L : List Part} {z0 : State} {s : State} {p : Nat} (hz : Touches L z0 s) (hL : covers L [.regs, .out, .msix] = true) :
    Touches L z0 (State.cxlDown s p) := by
  refine hz.andThen (A := [.regs, .out, .msix]) ?_ hL
  unfold State.cxlDown
  repeat' first
    | (with_reducible first | intro _ | assumption | exact Touches.refl | apply State.raise_touches | apply State.wr_touches | apply Touches.ite)
    | exact rfl | extract_lets -underBinder | split

theorem State.dieReset_touches {L : List Part} {z0 : State} {e : StartEnv} {a : List Nat} {s : State} (hz : Touches L z0 s)
    (hL : covers L [.regs, .cores, .out, .counter, .msix, .fab, .stack, .peat, .far, .caches, .dir, .ud0, .ud1, .sched, .journal, .commands, .completions, .staged] = true) :
    Touches L z0 ((State.dieReset e a s).1) := by
  refine hz.andThen (A := [.regs, .cores, .out, .counter, .msix, .fab, .stack, .peat, .far, .caches, .dir, .ud0, .ud1, .sched, .journal, .commands, .completions, .staged]) ?_ hL
  unfold State.dieReset
  refine TouchesP.out ?_
  repeat' first
    | (with_reducible first | intro _ | assumption | exact Touches.refl | apply State.cxlDown_touches | apply State.endWhere_touches
                            | apply State.failPorts_touches | apply State.jnlDevice_touches | apply State.linkReset_touches
                            | apply State.linkUp_touches | apply State.refuse_touches | apply State.wakeDie_touches | apply State.wr_touches
                            | apply Touches.ite | apply TouchesP.ite | apply TouchesP.pairIte | refine Touches.ofFst (by assumption) ?_)
    | exact rfl | extract_lets -underBinder | split
    | (with_reducible first | apply TouchesP.pair)
    | (show Touches _ _ (Prod.fst _); dsimp only)
    | dsimp +zetaDelta only

theorem State.modPins_touches {L : List Part} {z0 : State} {s : State} {f : PinSt → PinSt} (hz : Touches L z0 s) (hL : covers L [.pins] = true) :
    Touches L z0 (State.modPins s f) := by
  refine hz.andThen (A := [.pins]) ?_ hL
  unfold State.modPins
  repeat' first
    | (with_reducible first | intro _ | assumption | exact Touches.refl | apply Touches.modPkg)
    | exact rfl | extract_lets -underBinder
    | (refine ⟨?_, ?_, ?_, ?_, ?_, ?_, ?_, ?_, ?_, ?_, ?_⟩ <;> first | exact .inl (by decide) | exact .inr rfl)
    | split

theorem execPowerGood_touches {env : StartEnv} {s : State} {t : State} (hx : execPowerGood env s = .next t) :
    Touches [.regs, .cores, .incs, .marks, .out, .time, .msix, .fab, .stack, .peat, .caches, .dir, .pwr, .ud0, .ud1, .sched, .journal, .commands, .completions, .image, .pins, .flash, .staged, .rm, .hif] s t := by
  obtain rfl := Host.Outcome.next.inj hx
  repeat' first
    | (with_reducible first | intro _ | assumption | exact Touches.refl | apply State.coldStart_touches | apply State.holdReset_touches
                            | apply State.modPins_touches | apply Touches.ite)
    | exact rfl | extract_lets -underBinder | split

theorem execPkgPwrgdLow_touches {ns : Nat} {s : State} {t : State} (hx : execPkgPwrgdLow ns s = .next t) :
    Touches [.regs, .cores, .incs, .marks, .time, .msix, .fab, .stack, .peat, .caches, .dir, .pwr, .ud0, .ud1, .sched, .journal, .commands, .completions, .image, .pins, .staged, .rm, .hif] s t := by
  obtain rfl := Host.Outcome.next.inj hx
  repeat' first
    | (with_reducible first | intro _ | assumption | exact Touches.refl | apply State.holdReset_touches | apply State.modPins_touches
                            | apply Touches.ite)
    | exact rfl | extract_lets -underBinder | split

theorem execRailOutOfRange_touches {ns : Nat} {s : State} {t : State} (hx : execRailOutOfRange ns s = .next t) :
    Touches [.regs, .cores, .incs, .marks, .time, .msix, .fab, .stack, .peat, .caches, .dir, .pwr, .ud0, .ud1, .sched, .journal, .commands, .completions, .image, .pins, .staged, .rm, .hif] s t := by
  obtain rfl := Host.Outcome.next.inj hx
  repeat' first
    | (with_reducible first | intro _ | assumption | exact Touches.refl | apply State.holdReset_touches | apply State.modPins_touches
                            | apply Touches.ite)
    | exact rfl | extract_lets -underBinder | split

theorem execRefclkLoss_touches {ns : Nat} {s : State} {t : State} (hx : execRefclkLoss ns s = .next t) :
    Touches [.regs, .cores, .incs, .marks, .time, .msix, .fab, .stack, .peat, .caches, .dir, .pwr, .ud0, .ud1, .sched, .journal, .commands, .completions, .image, .pins, .staged, .rm, .hif] s t := by
  obtain rfl := Host.Outcome.next.inj hx
  repeat' first
    | (with_reducible first | intro _ | assumption | exact Touches.refl | apply State.holdReset_touches | apply State.modPins_touches
                            | apply Touches.ite)
    | exact rfl | extract_lets -underBinder | split

theorem execRefclkReturn_touches {ns : Nat} {env : StartEnv} {s : State} {t : State} (hx : execRefclkReturn ns env s = .next t) :
    Touches [.regs, .cores, .incs, .marks, .out, .time, .msix, .fab, .stack, .peat, .caches, .dir, .pwr, .ud0, .ud1, .sched, .journal, .commands, .completions, .image, .pins, .flash, .staged, .rm, .hif] s t := by
  obtain rfl := Host.Outcome.next.inj hx
  repeat' first
    | (with_reducible first | intro _ | assumption | exact Touches.refl | apply State.coldStart_touches | apply State.modPins_touches
                            | apply Touches.ite)
    | exact rfl | extract_lets -underBinder | split

theorem execPkgRst_touches {low : Bool} {ns : Nat} {env : StartEnv} {s : State} {t : State} (hx : execPkgRst low ns env s = .next t) :
    Touches [.regs, .cores, .incs, .marks, .out, .time, .msix, .fab, .stack, .peat, .caches, .dir, .pwr, .ud0, .ud1, .sched, .journal, .commands, .completions, .image, .pins, .flash, .staged, .rm, .hif] s t := by
  obtain rfl := Host.Outcome.next.inj hx
  repeat' first
    | (with_reducible first | intro _ | assumption | exact Touches.refl | apply State.coldStart_touches | apply State.holdReset_touches
                            | apply State.modPins_touches | apply Touches.ite)
    | exact rfl | extract_lets -underBinder | split

theorem execLockstepMismatch_touches {s : State} {t : State} (hx : execLockstepMismatch s = .next t) :
    Touches [.regs, .out, .time, .msix, .journal] s t := by
  obtain rfl := Host.Outcome.next.inj hx
  repeat' first
    | (with_reducible first | intro _ | assumption | exact Touches.refl | apply State.jnlDevice_touches | apply State.raise_touches
                            | apply State.setDuty_touches | apply State.wr_touches | apply Touches.ite | apply Touches.modTime)
    | exact rfl | extract_lets -underBinder | split

theorem execWarm_touches {via : Via} {env : StartEnv} {s : State} {t : State} (hx : execWarm via env s = .next t) :
    Touches [.regs, .cores, .incs, .marks, .out, .counter, .time, .msix, .fab, .stack, .peat, .caches, .dir, .pwr, .ud0, .ud1, .sched, .journal, .commands, .completions, .image, .flash, .staged, .rm, .hif] s t := by
  obtain rfl := Host.Outcome.next.inj hx
  repeat' first
    | (with_reducible first | intro _ | assumption | exact Touches.refl | apply State.command_touches | apply State.warm_touches)
    | exact rfl | extract_lets -underBinder | split
    | (show Touches _ _ (Prod.fst _); dsimp only)

theorem execCold_touches {via : Via} {env : StartEnv} {s : State} {t : State} (hx : execCold via env s = .next t) :
    Touches [.regs, .cores, .incs, .marks, .out, .time, .msix, .fab, .stack, .peat, .caches, .dir, .pwr, .ud0, .ud1, .sched, .journal, .commands, .completions, .image, .flash, .staged, .rm, .hif] s t := by
  obtain rfl := Host.Outcome.next.inj hx
  repeat' first
    | (with_reducible first | intro _ | assumption | exact Touches.refl | apply State.coldStart_touches | apply State.takeCommand_touches
                            | apply Touches.ite | refine Touches.ofFst (by assumption) ?_)
    | exact rfl | extract_lets -underBinder | split
    | (show Touches _ _ (Prod.fst _); dsimp only)

theorem execDieReset_touches {via : Via} {env : StartEnv} {s : State} {t : State} (hx : execDieReset via env s = .next t) :
    Touches [.regs, .cores, .out, .counter, .msix, .fab, .stack, .peat, .far, .caches, .dir, .ud0, .ud1, .sched, .journal, .commands, .completions, .staged] s t := by
  obtain rfl := Host.Outcome.next.inj hx
  repeat' first
    | (with_reducible first | intro _ | assumption | exact Touches.refl | apply State.command_touches | apply State.dieReset_touches)
    | exact rfl | extract_lets -underBinder | split
    | (show Touches _ _ (Prod.fst _); dsimp only)

end Sys2Proof.Machine
end

