-- ==== Sys2Proof/Laws/Touch/PkgCmds.lean ====
section
/-!
SUPPORT. Laws/Touch/PkgCmds.lean: for each operation of Machine/PkgCmds.lean, what it can do: the queue stays, only the parts listed change, and the
registers and memories keep their canonical form.
-/

set_option linter.all false

namespace Sys2Proof.Machine

theorem State.pkgQuery_touches {L : List Part} {z0 : State} {u : List Nat} {s : State} (hz : Touches L z0 s) (hL : covers L [] = true) :
    Touches L z0 ((State.pkgQuery u s).1) := by
  refine hz.andThen (A := []) ?_ hL
  unfold State.pkgQuery
  refine TouchesP.out ?_
  repeat' first
    | (with_reducible first | intro _ | assumption | exact Touches.refl | apply State.answered_touches)
    | exact rfl | extract_lets -underBinder | split
    | (with_reducible first | apply TouchesP.pair)
    | (show Touches _ _ (Prod.fst _); dsimp only)

theorem State.returnCapture_touches {L : List Part} {z0 : State} {seq : Nat} {part : Bool} {a : List Nat} {s : State} (hz : Touches L z0 s)
    (hL : covers L [.regs, .out, .msix, .flash, .staged] = true) :
    Touches L z0 ((State.returnCapture seq part a s).1) := by
  refine hz.andThen (A := [.regs, .out, .msix, .flash, .staged]) ?_ hL
  unfold State.returnCapture
  refine TouchesP.out ?_
  repeat' first
    | (with_reducible first | intro _ | assumption | exact Touches.refl | apply State.emit_touches | apply State.raise_touches
                            | apply State.refuse_touches | apply State.wr_touches | apply Touches.ite | apply TouchesP.ite | apply TouchesP.pairIte
                            | apply Touches.modPkg)
    | exact rfl | extract_lets -underBinder
    | (refine ⟨?_, ?_, ?_, ?_, ?_, ?_, ?_, ?_, ?_, ?_, ?_⟩ <;> first | exact .inl (by decide) | exact .inr rfl)
    | split
    | (with_reducible first | apply TouchesP.pair)
    | (show Touches _ _ (Prod.fst _); dsimp only)

theorem State.putSlot_touches {L : List Part} {z0 : State} {s : State} {x : FlashSlot} (hz : Touches L z0 s) (hL : covers L [.flash] = true) :
    Touches L z0 (State.putSlot s x) := by
  refine hz.andThen (A := [.flash]) ?_ hL
  unfold State.putSlot
  repeat' first
    | (with_reducible first | intro _ | assumption | exact Touches.refl | apply Touches.ite | apply Touches.modPkg)
    | exact rfl | extract_lets -underBinder
    | (refine ⟨?_, ?_, ?_, ?_, ?_, ?_, ?_, ?_, ?_, ?_, ?_⟩ <;> first | exact .inl (by decide) | exact .inr rfl)
    | split

theorem State.flashWrite_touches {L : List Part} {z0 : State} {seq : Nat} {image : List Nat} {part : Bool} {a : List Nat} {s : State} (hz :
    Touches L z0 s) (hL : covers L [.flash, .staged] = true) :
    Touches L z0 ((State.flashWrite seq image part a s).1) := by
  refine hz.andThen (A := [.flash, .staged]) ?_ hL
  unfold State.flashWrite
  refine TouchesP.out ?_
  repeat' first
    | (with_reducible first | intro _ | assumption | exact Touches.refl | apply State.putSlot_touches | apply State.refuse_touches
                            | apply Touches.ite | apply TouchesP.ite | apply TouchesP.pairIte | apply Touches.modPkg
                            | refine Touches.ofFst (by assumption) ?_)
    | exact rfl | extract_lets -underBinder
    | (refine ⟨?_, ?_, ?_, ?_, ?_, ?_, ?_, ?_, ?_, ?_, ?_⟩ <;> first | exact .inl (by decide) | exact .inr rfl)
    | split
    | (with_reducible first | apply TouchesP.pair)
    | (show Touches _ _ (Prod.fst _); dsimp only)
    | dsimp +zetaDelta only

theorem State.jnlQuery_touches {L : List Part} {z0 : State} {a : List Nat} {s : State} (hz : Touches L z0 s) (hL : covers L [] = true) :
    Touches L z0 ((State.jnlQuery a s).1) := by
  refine hz.andThen (A := []) ?_ hL
  unfold State.jnlQuery
  refine TouchesP.out ?_
  repeat' first
    | (with_reducible first | intro _ | assumption | exact Touches.refl | apply State.answered_touches | apply State.refuse_touches
                            | apply Touches.ite | apply TouchesP.ite | apply TouchesP.pairIte)
    | exact rfl | extract_lets -underBinder | split
    | (with_reducible first | apply TouchesP.pair)
    | (show Touches _ _ (Prod.fst _); dsimp only)

theorem State.jnlSpill_touches {L : List Part} {z0 : State} {a : List Nat} {s : State} (hz : Touches L z0 s) (hL : covers L [.regs] = true) :
    Touches L z0 ((State.jnlSpill a s).1) := by
  refine hz.andThen (A := [.regs]) ?_ hL
  unfold State.jnlSpill
  refine TouchesP.out ?_
  repeat' first
    | (with_reducible first | intro _ | assumption | exact Touches.refl | apply State.refuse_touches | apply State.wr_touches | apply Touches.ite
                            | apply TouchesP.ite | apply TouchesP.pairIte)
    | exact rfl | extract_lets -underBinder | split
    | (with_reducible first | apply TouchesP.pair)
    | (show Touches _ _ (Prod.fst _); dsimp only)

theorem State.dbgUnlock_touches {L : List Part} {z0 : State} {cls : Nat} {u : List Nat} {s : State} (hz : Touches L z0 s)
    (hL : covers L [.regs, .out, .msix] = true) :
    Touches L z0 ((State.dbgUnlock cls u s).1) := by
  refine hz.andThen (A := [.regs, .out, .msix]) ?_ hL
  unfold State.dbgUnlock
  refine TouchesP.out ?_
  repeat' first
    | (with_reducible first | intro _ | assumption | exact Touches.refl | apply State.raise_touches | apply State.refuse_touches
                            | apply State.wr_touches | apply Touches.ite | apply TouchesP.ite | apply TouchesP.pairIte)
    | exact rfl | extract_lets -underBinder | split
    | (with_reducible first | apply TouchesP.pair)
    | (show Touches _ _ (Prod.fst _); dsimp only)

theorem State.dbgLock_touches {L : List Part} {z0 : State} {u : List Nat} {s : State} (hz : Touches L z0 s) (hL : covers L [.regs] = true) :
    Touches L z0 ((State.dbgLock u s).1) := by
  refine hz.andThen (A := [.regs]) ?_ hL
  unfold State.dbgLock
  refine TouchesP.out ?_
  repeat' first
    | (with_reducible first | intro _ | assumption | exact Touches.refl | apply State.wr_touches)
    | exact rfl | extract_lets -underBinder | split
    | (with_reducible first | apply TouchesP.pair)
    | (show Touches _ _ (Prod.fst _); dsimp only)

theorem execPkgQuery_touches {via : Via} {s : State} {t : State} (hx : execPkgQuery via s = .next t) :
    Touches [.regs, .out, .msix, .journal, .commands, .completions] s t := by
  obtain rfl := Host.Outcome.next.inj hx
  repeat' first
    | (with_reducible first | intro _ | assumption | exact Touches.refl | apply State.command_touches | apply State.pkgQuery_touches)
    | exact rfl | extract_lets -underBinder | split
    | (show Touches _ _ (Prod.fst _); dsimp only)

theorem execFlashWrite_touches {via : Via} {image : List Nat} {part : Bool} {s : State} {t : State}
    (hx : execFlashWrite via image part s = .next t) : Touches [.regs, .out, .msix, .journal, .commands, .completions, .flash, .staged] s t := by
  obtain rfl := Host.Outcome.next.inj hx
  repeat' first
    | (with_reducible first | intro _ | assumption | exact Touches.refl | apply State.command_touches | apply State.flashWrite_touches)
    | exact rfl | extract_lets -underBinder | split
    | (show Touches _ _ (Prod.fst _); dsimp only)

theorem execJnlQuery_touches {via : Via} {s : State} {t : State} (hx : execJnlQuery via s = .next t) :
    Touches [.regs, .out, .msix, .journal, .commands, .completions] s t := by
  obtain rfl := Host.Outcome.next.inj hx
  repeat' first
    | (with_reducible first | intro _ | assumption | exact Touches.refl | apply State.command_touches | apply State.jnlQuery_touches)
    | exact rfl | extract_lets -underBinder | split
    | (show Touches _ _ (Prod.fst _); dsimp only)

theorem execJnlSpill_touches {via : Via} {s : State} {t : State} (hx : execJnlSpill via s = .next t) :
    Touches [.regs, .out, .msix, .journal, .commands, .completions] s t := by
  obtain rfl := Host.Outcome.next.inj hx
  repeat' first
    | (with_reducible first | intro _ | assumption | exact Touches.refl | apply State.command_touches | apply State.jnlSpill_touches)
    | exact rfl | extract_lets -underBinder | split
    | (show Touches _ _ (Prod.fst _); dsimp only)

theorem execDbgUnlock_touches {via : Via} {s : State} {t : State} (hx : execDbgUnlock via s = .next t) :
    Touches [.regs, .out, .msix, .journal, .commands, .completions] s t := by
  obtain rfl := Host.Outcome.next.inj hx
  repeat' first
    | (with_reducible first | intro _ | assumption | exact Touches.refl | apply State.command_touches | apply State.dbgUnlock_touches)
    | exact rfl | extract_lets -underBinder | split
    | (show Touches _ _ (Prod.fst _); dsimp only)

theorem execDbgLock_touches {via : Via} {s : State} {t : State} (hx : execDbgLock via s = .next t) :
    Touches [.regs, .out, .msix, .journal, .commands, .completions] s t := by
  obtain rfl := Host.Outcome.next.inj hx
  repeat' first
    | (with_reducible first | intro _ | assumption | exact Touches.refl | apply State.command_touches | apply State.dbgLock_touches)
    | exact rfl | extract_lets -underBinder | split
    | (show Touches _ _ (Prod.fst _); dsimp only)

theorem execReturnCapture_touches {via : Via} {part : Bool} {s : State} {t : State} (hx : execReturnCapture via part s = .next t) :
    Touches [.regs, .out, .msix, .journal, .commands, .completions, .flash, .staged] s t := by
  obtain rfl := Host.Outcome.next.inj hx
  repeat' first
    | (with_reducible first | intro _ | assumption | exact Touches.refl | apply State.command_touches | apply State.returnCapture_touches)
    | exact rfl | extract_lets -underBinder | split
    | (show Touches _ _ (Prod.fst _); dsimp only)

end Sys2Proof.Machine
end

