-- ==== Sys2Proof/Laws/Touch/HostPort.lean ====
section
/-!
SUPPORT. Laws/Touch/HostPort.lean: for each operation of Machine/HostPort.lean, what it can do: the queue stays, only the parts listed change, and the
registers and memories keep their canonical form.
-/

set_option linter.all false

namespace Sys2Proof.Machine

theorem State.bar2Fail_touches {L : List Part} {z0 : State} {s : State} {a : Nat} {st : Nat} {write : Bool} (hz : Touches L z0 s)
    (hL : covers L [.regs, .out, .msix] = true) :
    Touches L z0 (State.bar2Fail s a st write) := by
  refine hz.andThen (A := [.regs, .out, .msix]) ?_ hL
  unfold State.bar2Fail
  repeat' first
    | (with_reducible first | intro _ | assumption | exact Touches.refl | apply State.bump_touches | apply State.raise_touches
                            | apply State.wr_touches | apply Touches.ite)
    | exact rfl | extract_lets -underBinder | split

theorem State.bar2Complete_touches {L : List Part} {z0 : State} {r : Rsp} {a : Nat} (hz : Touches L z0 r.s)
    (hL : covers L [.regs, .out, .msix] = true) :
    Touches L z0 (State.bar2Complete r a) := by
  unfold State.bar2Complete
  repeat' first
    | (with_reducible first | intro _ | assumption | exact Touches.refl | apply State.bar2Fail_touches | apply State.emit_touches | apply Touches.ite)
    | exact covers_trans hL rfl | extract_lets -underBinder | split

theorem State.bar2Read_touches {L : List Part} {z0 : State} {s : State} {a : Nat} {len : Nat} (hz : Touches L z0 s)
    (hL : covers L [.regs, .out, .msix, .fab, .caches] = true) :
    Touches L z0 (State.bar2Read s a len) := by
  refine hz.andThen (A := [.regs, .out, .msix, .fab, .caches]) ?_ hL
  unfold State.bar2Read
  repeat' first
    | (with_reducible first | intro _ | assumption | exact Touches.refl | apply State.bar2Complete_touches | apply State.emit_touches
                            | apply State.stackRead_touches | apply Touches.ite)
    | exact rfl | extract_lets -underBinder | split

theorem State.bar2Write_touches {L : List Part} {z0 : State} {s : State} {a : Nat} {data : List Nat} (hz : Touches L z0 s)
    (hL : covers L [.regs, .out, .msix, .stack, .caches] = true) :
    Touches L z0 (State.bar2Write s a data) := by
  refine hz.andThen (A := [.regs, .out, .msix, .stack, .caches]) ?_ hL
  unfold State.bar2Write
  repeat' first
    | (with_reducible first | intro _ | assumption | exact Touches.refl | apply State.bar2Fail_touches | apply State.stackWrite_touches
                            | apply Touches.ite)
    | exact rfl | extract_lets -underBinder | split

theorem State.bar2Atomic_touches {L : List Part} {z0 : State} {s : State} {a : Nat} {op : Nat} {size : Nat} {operand : Nat} {compare : Nat}
    (hz : Touches L z0 s) (hL : covers L [.regs, .out, .msix, .fab, .stack, .caches] = true) :
    Touches L z0 (State.bar2Atomic s a op size operand compare) := by
  refine hz.andThen (A := [.regs, .out, .msix, .fab, .stack, .caches]) ?_ hL
  unfold State.bar2Atomic
  repeat' first
    | (with_reducible first | intro _ | assumption | exact Touches.refl | apply State.atomic_touches | apply State.bar2Complete_touches
                            | apply State.emit_touches | apply Touches.ite)
    | exact rfl | extract_lets -underBinder | split

theorem State.frameTaken_touches {L : List Part} {z0 : State} {s : State} (hz : Touches L z0 s) (hL : covers L [.regs] = true) :
    Touches L z0 (State.frameTaken s) := by
  refine hz.andThen (A := [.regs]) ?_ hL
  unfold State.frameTaken
  repeat' first
    | (with_reducible first | intro _ | assumption | exact Touches.refl | apply State.wr_touches)
    | exact rfl | extract_lets -underBinder | split

theorem State.takeFrame_touches {L : List Part} {z0 : State} {s : State} {cls : Nat} {f : Frame} (hz : Touches L z0 s)
    (hL : covers L [.regs, .out, .msix, .journal, .commands, .completions] = true) :
    Touches L z0 (State.takeFrame s cls f) := by
  refine hz.andThen (A := [.regs, .out, .msix, .journal, .commands, .completions]) ?_ hL
  unfold State.takeFrame
  repeat' first
    | (with_reducible first | intro _ | assumption | exact Touches.refl | apply State.deliver_touches | apply State.frameErr_touches
                            | apply State.takeCommand_touches | apply Touches.ite)
    | exact rfl | extract_lets -underBinder | split
    | (show Touches _ _ (Prod.fst _); dsimp only)

theorem State.dropComp_touches {L : List Part} {z0 : State} {s : State} {cls : Nat} (hz : Touches L z0 s) (hL : covers L [.completions] = true) :
    Touches L z0 (State.dropComp s cls) := by
  refine hz.andThen (A := [.completions]) ?_ hL
  unfold State.dropComp
  repeat' first
    | (with_reducible first | intro _ | assumption | exact Touches.refl | apply Touches.modPkg)
    | exact rfl | extract_lets -underBinder
    | (refine ⟨?_, ?_, ?_, ?_, ?_, ?_, ?_, ?_, ?_, ?_, ?_⟩ <;> first | exact .inl (by decide) | exact .inr rfl)
    | split

theorem State.entryOut_touches {L : List Part} {z0 : State} {s : State} (hz : Touches L z0 s)
    (hL : covers L [.regs, .out, .msix, .completions] = true) :
    Touches L z0 (State.entryOut s) := by
  refine hz.andThen (A := [.regs, .out, .msix, .completions]) ?_ hL
  unfold State.entryOut
  repeat' first
    | (with_reducible first | intro _ | assumption | exact Touches.refl | apply State.dropComp_touches | apply State.emit_touches
                            | apply State.sendMsi_touches | apply State.wr_touches | apply Touches.ite | refine Touches.ofFst (by assumption) ?_)
    | exact rfl | extract_lets -underBinder | split
    | dsimp +zetaDelta only

theorem State.dmaFail_touches {L : List Part} {z0 : State} {s : State} {seq : Nat} {frame : List Nat} (hz : Touches L z0 s)
    (hL : covers L [.regs, .out, .msix, .journal, .commands, .completions, .staged] = true) :
    Touches L z0 (State.dmaFail s seq frame) := by
  refine hz.andThen (A := [.regs, .out, .msix, .journal, .commands, .completions, .staged]) ?_ hL
  unfold State.dmaFail
  repeat' first
    | (with_reducible first | intro _ | assumption | exact Touches.refl | apply State.deliver_touches | apply State.finishCmd_touches
                            | apply State.frameTaken_touches | apply State.raise_touches | apply Touches.ite | apply Touches.modPkg
                            | refine Touches.ofFst (by assumption) ?_)
    | exact rfl | extract_lets -underBinder
    | (refine ⟨?_, ?_, ?_, ?_, ?_, ?_, ?_, ?_, ?_, ?_, ?_⟩ <;> first | exact .inl (by decide) | exact .inr rfl)
    | split
    | dsimp +zetaDelta only

theorem State.hifReset_touches {L : List Part} {z s : State} (hz : Touches L z s) (hL : covers L [.regs] = true) :
    Touches L z (State.hifReset s) := by
  unfold State.hifReset
  refine Touches.foldl (fun _ _ h => State.setReg_touches h hL) (State.wr_touches (State.wr_touches (State.wr_touches
    (State.setReg_touches (hz.andThen ?_ hL) hL) hL) hL) hL)
  exact ⟨rfl, fun p hp => by cases p <;> first | exact absurd (by decide) hp | exact rfl | exact ⟨rfl, rfl, rfl, rfl⟩,
    fun c => { c with regs := swf_filter resetWord _ c.regs }⟩

theorem State.portReset_touches {L : List Part} {z0 : State} {s : State} (hz : Touches L z0 s)
    (hL : covers L [.regs, .msix, .commands, .completions] = true) :
    Touches L z0 (State.portReset s) := by
  refine hz.andThen (A := [.regs, .msix, .commands, .completions]) ?_ hL
  unfold State.portReset
  repeat' first
    | (with_reducible first | intro _ | assumption | exact Touches.refl | apply State.hifReset_touches | apply Touches.ite | apply Touches.modPkg)
    | exact rfl | extract_lets -underBinder
    | (refine ⟨?_, ?_, ?_, ?_, ?_, ?_, ?_, ?_, ?_, ?_, ?_⟩ <;> first | exact .inl (by decide) | exact .inr rfl)
    | split
    | (with_reducible first | apply Touches.set_msix)

theorem State.linkAgain_touches {L : List Part} {z0 : State} {s : State} {width : Nat} {rate : Nat} {flit : Bool} (hz : Touches L z0 s)
    (hL : covers L [.regs, .out, .msix, .commands, .completions] = true) :
    Touches L z0 (State.linkAgain s width rate flit) := by
  refine hz.andThen (A := [.regs, .out, .msix, .commands, .completions]) ?_ hL
  unfold State.linkAgain
  repeat' first
    | (with_reducible first | intro _ | assumption | exact Touches.refl | apply State.linkTrained_touches | apply State.portReset_touches)
    | exact rfl | extract_lets -underBinder | split

theorem State.cxlRanges_touches {L : List Part} {z0 : State} {s : State} {p : Nat} {devs : List (Nat × Nat)} (hz : Touches L z0 s)
    (hL : covers L [.regs, .out, .msix, .far, .caches, .hif] = true) :
    Touches L z0 (State.cxlRanges s p devs) := by
  refine hz.andThen (A := [.regs, .out, .msix, .far, .caches, .hif]) ?_ hL
  unfold State.cxlRanges
  repeat' first
    | (with_reducible first | intro _ | assumption | exact Touches.refl | apply State.raise_touches | apply State.wr_touches | apply Touches.ite
                            | apply Touches.modMem)
    | exact rfl | extract_lets -underBinder
    | (refine ⟨?_, ?_, ?_, ?_, ?_, ?_, ?_⟩ <;> first
      | exact .inl (by decide) | exact .inr rfl | exact fun h => h | exact memStore_wf _ _ | exact memFilter_wf _)
    | split
    | (with_reducible first | apply Touches.set_hif)

theorem State.cxlUp_touches {L : List Part} {z0 : State} {s : State} {p : Nat} {width : Nat} {rate : Nat} {devs : List CxlDev} (hz :
    Touches L z0 s) (hL : covers L [.regs, .out, .msix, .far, .caches, .hif] = true) :
    Touches L z0 (State.cxlUp s p width rate devs) := by
  refine hz.andThen (A := [.regs, .out, .msix, .far, .caches, .hif]) ?_ hL
  unfold State.cxlUp
  repeat' first
    | (with_reducible first | intro _ | assumption | exact Touches.refl | apply State.cxlRanges_touches | apply State.raise_touches
                            | apply State.wr_touches | apply Touches.ite)
    | exact rfl | extract_lets -underBinder | split
    | (with_reducible first | apply Touches.set_hif)

theorem State.cxlExclude_touches {L : List Part} {z0 : State} {s : State} {p : Nat} {serial : Nat} (hz : Touches L z0 s)
    (hL : covers L [.regs, .out, .msix, .far, .caches, .hif] = true) :
    Touches L z0 (State.cxlExclude s p serial) := by
  refine hz.andThen (A := [.regs, .out, .msix, .far, .caches, .hif]) ?_ hL
  unfold State.cxlExclude
  repeat' first
    | (with_reducible first | intro _ | assumption | exact Touches.refl | apply State.cxlRanges_touches | apply State.raise_touches
                            | apply Touches.ite | refine Touches.ofFst (by assumption) ?_)
    | exact rfl | extract_lets -underBinder | split
    | (with_reducible first | apply Touches.set_hif)
    | dsimp +zetaDelta only

theorem State.cxlLost_touches {L : List Part} {z0 : State} {s : State} {p : Nat} (hz : Touches L z0 s)
    (hL : covers L [.regs, .out, .msix, .hif] = true) :
    Touches L z0 (State.cxlLost s p) := by
  refine hz.andThen (A := [.regs, .out, .msix, .hif]) ?_ hL
  unfold State.cxlLost
  repeat' first
    | (with_reducible first | intro _ | assumption | exact Touches.refl | apply State.cxlDown_touches | apply Touches.ite)
    | exact rfl | extract_lets -underBinder | split
    | (with_reducible first | apply Touches.set_hif)

theorem execBar2Read_touches {addr : Nat} {len : Nat} {s : State} {t : State} (hx : execBar2Read addr len s = .next t) :
    Touches [.regs, .out, .msix, .fab, .caches] s t := by
  obtain rfl := Host.Outcome.next.inj hx
  repeat' first
    | (with_reducible first | intro _ | assumption | exact Touches.refl | apply State.bar2Read_touches | apply Touches.ite)
    | exact rfl | extract_lets -underBinder | split

theorem execBar2Write_touches {addr : Nat} {data : List Nat} {s : State} {t : State} (hx : execBar2Write addr data s = .next t) :
    Touches [.regs, .out, .msix, .stack, .caches] s t := by
  obtain rfl := Host.Outcome.next.inj hx
  repeat' first
    | (with_reducible first | intro _ | assumption | exact Touches.refl | apply State.bar2Write_touches | apply Touches.ite)
    | exact rfl | extract_lets -underBinder | split

theorem execBar2Atomicop_touches {addr : Nat} {op : Nat} {size : Nat} {operand : Nat} {compare : Nat} {s : State} {t : State}
    (hx : execBar2Atomicop addr op size operand compare s = .next t) : Touches [.regs, .out, .msix, .fab, .stack, .caches] s t := by
  obtain rfl := Host.Outcome.next.inj hx
  repeat' first
    | (with_reducible first | intro _ | assumption | exact Touches.refl | apply State.bar2Atomic_touches | apply Touches.ite)
    | exact rfl | extract_lets -underBinder | split

theorem execBar2Timeout_touches {addr : Nat} {write : Bool} {s : State} {t : State} (hx : execBar2Timeout addr write s = .next t) :
    Touches [.regs, .out, .msix] s t := by
  obtain rfl := Host.Outcome.next.inj hx
  repeat' first
    | (with_reducible first | intro _ | assumption | exact Touches.refl | apply State.bar2Fail_touches | apply State.emit_touches | apply Touches.ite)
    | exact rfl | extract_lets -underBinder | split

theorem execFrameFetch_touches {frame : List Nat} {args : List Nat} {s : State} {t : State} (hx : execFrameFetch frame args s = .next t) :
    Touches [.regs, .out, .msix, .journal, .commands, .completions] s t := by
  obtain rfl := Host.Outcome.next.inj hx
  repeat' first
    | (with_reducible first | intro _ | assumption | exact Touches.refl | apply State.frameTaken_touches | apply State.takeFrame_touches
                            | apply Touches.ite)
    | exact rfl | extract_lets -underBinder | split

theorem execCompletionEntryWrite_touches {s : State} {t : State} (hx : execCompletionEntryWrite s = .next t) :
    Touches [.regs, .out, .msix, .completions] s t := by
  obtain rfl := Host.Outcome.next.inj hx
  repeat' first
    | (with_reducible first | intro _ | assumption | exact Touches.refl | apply State.entryOut_touches)
    | exact rfl | extract_lets -underBinder | split

theorem execDmaTimeout_touches {seq : Nat} {frame : List Nat} {s : State} {t : State} (hx : execDmaTimeout seq frame s = .next t) :
    Touches [.regs, .out, .msix, .journal, .commands, .completions, .staged] s t := by
  obtain rfl := Host.Outcome.next.inj hx
  repeat' first
    | (with_reducible first | intro _ | assumption | exact Touches.refl | apply State.dmaFail_touches | apply Touches.ite)
    | exact rfl | extract_lets -underBinder | split

theorem execFlr_touches {s : State} {t : State} (hx : execFlr s = .next t) : Touches [.regs, .out, .msix, .commands, .completions] s t := by
  obtain rfl := Host.Outcome.next.inj hx
  repeat' first
    | (with_reducible first | intro _ | assumption | exact Touches.refl | apply State.portReset_touches | apply State.raise_touches
                            | apply Touches.ite)
    | exact rfl | extract_lets -underBinder | split

theorem execHotReset_touches {width : Nat} {rate : Nat} {flit : Bool} {s : State} {t : State}
    (hx : execHotReset width rate flit s = .next t) : Touches [.regs, .out, .msix, .commands, .completions] s t := by
  obtain rfl := Host.Outcome.next.inj hx
  repeat' first
    | (with_reducible first | intro _ | assumption | exact Touches.refl | apply State.linkAgain_touches | apply State.raise_touches
                            | apply Touches.ite)
    | exact rfl | extract_lets -underBinder | split

theorem execPerst_touches {width : Nat} {rate : Nat} {flit : Bool} {s : State} {t : State} (hx : execPerst width rate flit s = .next t) :
    Touches [.regs, .out, .msix, .commands, .completions] s t := by
  obtain rfl := Host.Outcome.next.inj hx
  repeat' first
    | (with_reducible first | intro _ | assumption | exact Touches.refl | apply State.linkAgain_touches | apply Touches.ite)
    | exact rfl | extract_lets -underBinder | split

theorem execCxlLinkUp_touches {port : Nat} {width : Nat} {rate : Nat} {devs : List CxlDev} {s : State} {t : State}
    (hx : execCxlLinkUp port width rate devs s = .next t) : Touches [.regs, .out, .msix, .far, .caches, .hif] s t := by
  obtain rfl := Host.Outcome.next.inj hx
  repeat' first
    | (with_reducible first | intro _ | assumption | exact Touches.refl | apply State.cxlUp_touches | apply State.raise_touches | apply Touches.ite)
    | exact rfl | extract_lets -underBinder | split

theorem execCxlDeviceNotActive_touches {port : Nat} {serial : Nat} {s : State} {t : State}
    (hx : execCxlDeviceNotActive port serial s = .next t) : Touches [.regs, .out, .msix, .far, .caches, .hif] s t := by
  obtain rfl := Host.Outcome.next.inj hx
  repeat' first
    | (with_reducible first | intro _ | assumption | exact Touches.refl | apply State.cxlExclude_touches)
    | exact rfl | extract_lets -underBinder | split

theorem execCxlLinkDown_touches {port : Nat} {s : State} {t : State} (hx : execCxlLinkDown port s = .next t) :
    Touches [.regs, .out, .msix, .hif] s t := by
  obtain rfl := Host.Outcome.next.inj hx
  repeat' first
    | (with_reducible first | intro _ | assumption | exact Touches.refl | apply State.cxlLost_touches)
    | exact rfl | extract_lets -underBinder | split

theorem execCxlIoError_touches {port : Nat} {fatal : Bool} {s : State} {t : State} (hx : execCxlIoError port fatal s = .next t) :
    Touches [.regs, .out, .msix, .hif] s t := by
  obtain rfl := Host.Outcome.next.inj hx
  repeat' first
    | (with_reducible first | intro _ | assumption | exact Touches.refl | apply State.bump_touches | apply State.cxlLost_touches | apply Touches.ite)
    | exact rfl | extract_lets -underBinder | split

end Sys2Proof.Machine
end

