-- ==== Sys2Proof/Laws/Touch/Smbus.lean ====
section
/-!
SUPPORT. Laws/Touch/Smbus.lean: for each operation of Machine/Smbus.lean, what it can do: the queue stays, only the parts listed change, and the
registers and memories keep their canonical form.
-/

set_option linter.all false

namespace Sys2Proof.Machine

theorem State.cml_touches {L : List Part} {z0 : State} {s : State} {bit : Nat} (hz : Touches L z0 s) (hL : covers L [.regs, .hif] = true) :
    Touches L z0 (State.cml s bit) := by
  refine hz.andThen (A := [.regs, .hif]) ?_ hL
  unfold State.cml
  repeat' first
    | (with_reducible first | intro _ | assumption | exact Touches.refl | apply State.alert_touches | apply Touches.modHif)
    | exact rfl | extract_lets -underBinder | split

theorem State.nack_touches {L : List Part} {z0 : State} {s : State} {bit : Nat} (hz : Touches L z0 s) (hL : covers L [.regs, .out, .hif] = true) :
    Touches L z0 (State.nack s bit) := by
  refine hz.andThen (A := [.regs, .out, .hif]) ?_ hL
  unfold State.nack
  repeat' first
    | (with_reducible first | intro _ | assumption | exact Touches.refl | apply State.bump_touches | apply State.cml_touches
                            | apply State.emit_touches | apply State.smbus_touches)
    | exact rfl | extract_lets -underBinder | split

theorem State.smbus_touches {L : List Part} {z0 : State} {s : State} {l : List Nat} (hz : Touches L z0 s) (hL : covers L [.out] = true) :
    Touches L z0 (State.smbus s l) := by
  refine hz.andThen (A := [.out]) ?_ hL
  unfold State.smbus
  repeat' first
    | (with_reducible first | intro _ | assumption | exact Touches.refl | apply State.emit_touches)
    | exact rfl | extract_lets -underBinder | split

theorem State.smbRead_touches {L : List Part} {z0 : State} {s : State} {l : List Nat} (hz : Touches L z0 s) (hL : covers L [.out] = true) :
    Touches L z0 (State.smbRead s l) := by
  refine hz.andThen (A := [.out]) ?_ hL
  unfold State.smbRead
  repeat' first
    | (with_reducible first | intro _ | assumption | exact Touches.refl | apply State.smbus_touches | apply Touches.ite)
    | exact rfl | extract_lets -underBinder | split

theorem State.smbWrite_touches {L : List Part} {z0 : State} {s : State} {pec : Bool} {f : State → State} (hz : Touches L z0 s)
    (hL : covers L [.regs, .hif] = true)
    (h_f : ∀ a0, Touches L z0 a0 → Touches L z0 (f a0)) :
    Touches L z0 (State.smbWrite s pec f) := by
  unfold State.smbWrite
  repeat' first
    | (with_reducible first | intro _ | assumption | exact Touches.refl | apply h_f | apply State.bump_touches | apply State.cml_touches
                            | apply Touches.ite)
    | exact covers_trans hL rfl | extract_lets -underBinder | split

theorem State.clearFaults_touches {L : List Part} {z0 : State} {s : State} (hz : Touches L z0 s) (hL : covers L [.regs, .hif] = true) :
    Touches L z0 (State.clearFaults s) := by
  refine hz.andThen (A := [.regs, .hif]) ?_ hL
  unfold State.clearFaults
  repeat' first
    | (with_reducible first | intro _ | assumption | exact Touches.refl | apply State.wr_touches | apply Touches.modHif)
    | exact rfl | extract_lets -underBinder | split

theorem State.coolantWrite_touches {L : List Part} {z0 : State} {s : State} {data : List Nat} (hz : Touches L z0 s)
    (hL : covers L [.regs, .out, .time, .msix, .fab, .pwr, .hif] = true) :
    Touches L z0 (State.coolantWrite s data) := by
  refine hz.andThen (A := [.regs, .out, .time, .msix, .fab, .pwr, .hif]) ?_ hL
  unfold State.coolantWrite
  repeat' first
    | (with_reducible first | intro _ | assumption | exact Touches.refl | apply State.cml_touches | apply State.coolReport_touches
                            | apply Touches.ite)
    | exact rfl | extract_lets -underBinder | split

theorem State.budgetWrite_touches {L : List Part} {z0 : State} {s : State} {w : Nat} (hz : Touches L z0 s)
    (hL : covers L [.regs, .out, .msix, .pwr, .journal, .commands, .completions] = true) :
    Touches L z0 (State.budgetWrite s w) := by
  refine hz.andThen (A := [.regs, .out, .msix, .pwr, .journal, .commands, .completions]) ?_ hL
  unfold State.budgetWrite
  repeat' first
    | (with_reducible first | intro _ | assumption | exact Touches.refl | apply State.pwrSetBudget_touches | apply State.runCmd_touches
                            | apply State.takeCommand_touches | apply State.wr_touches | apply Touches.ite | apply Touches.modPkg
                            | refine Touches.ofFst (by assumption) ?_)
    | exact rfl | extract_lets -underBinder
    | (refine ⟨?_, ?_, ?_, ?_, ?_, ?_, ?_, ?_, ?_, ?_, ?_⟩ <;> first | exact .inl (by decide) | exact .inr rfl)
    | split
    | (show Touches _ _ (Prod.fst _); dsimp only)
    | dsimp +zetaDelta only

theorem State.frameWrite_touches {L : List Part} {z0 : State} {s : State} {frame : List Nat} (hz : Touches L z0 s)
    (hL : covers L [.regs, .out, .msix, .journal, .commands, .completions, .hif] = true) :
    Touches L z0 (State.frameWrite s frame) := by
  refine hz.andThen (A := [.regs, .out, .msix, .journal, .commands, .completions, .hif]) ?_ hL
  unfold State.frameWrite
  repeat' first
    | (with_reducible first | intro _ | assumption | exact Touches.refl | apply State.bump_touches | apply State.nack_touches
                            | apply State.takeFrame_touches | apply Touches.ite)
    | exact rfl | extract_lets -underBinder | split

theorem State.responseRead_touches {L : List Part} {z0 : State} {s : State} (hz : Touches L z0 s) (hL : covers L [.out, .completions] = true) :
    Touches L z0 (State.responseRead s) := by
  refine hz.andThen (A := [.out, .completions]) ?_ hL
  unfold State.responseRead
  repeat' first
    | (with_reducible first | intro _ | assumption | exact Touches.refl | apply State.dropComp_touches | apply State.smbus_touches
                            | refine Touches.ofFst (by assumption) ?_)
    | exact rfl | extract_lets -underBinder | split

theorem State.alertRead_touches {L : List Part} {z0 : State} {s : State} {won : Bool} (hz : Touches L z0 s) (hL : covers L [.regs, .out] = true) :
    Touches L z0 (State.alertRead s won) := by
  refine hz.andThen (A := [.regs, .out]) ?_ hL
  unfold State.alertRead
  repeat' first
    | (with_reducible first | intro _ | assumption | exact Touches.refl | apply State.smbus_touches | apply State.wr_touches | apply Touches.ite)
    | exact rfl | extract_lets -underBinder | split

theorem execClearFaults_touches {pec : Bool} {s : State} {t : State} (hx : execClearFaults pec s = .next t) : Touches [.regs, .hif] s t := by
  obtain rfl := Host.Outcome.next.inj hx
  repeat' first
    | (with_reducible first | intro _ | assumption | exact Touches.refl | apply State.clearFaults_touches | apply State.smbWrite_touches)
    | exact rfl | extract_lets -underBinder | split

theorem execCapability_touches {s : State} {t : State} (hx : execCapability s = .next t) : Touches [.out] s t := by
  obtain rfl := Host.Outcome.next.inj hx
  repeat' first
    | (with_reducible first | intro _ | assumption | exact Touches.refl | apply State.smbRead_touches)
    | exact rfl | extract_lets -underBinder | split

theorem execStatusByte_touches {s : State} {t : State} (hx : execStatusByte s = .next t) : Touches [.out] s t := by
  obtain rfl := Host.Outcome.next.inj hx
  repeat' first
    | (with_reducible first | intro _ | assumption | exact Touches.refl | apply State.smbRead_touches)
    | exact rfl | extract_lets -underBinder | split

theorem execStatusWord_touches {s : State} {t : State} (hx : execStatusWord s = .next t) : Touches [.out] s t := by
  obtain rfl := Host.Outcome.next.inj hx
  repeat' first
    | (with_reducible first | intro _ | assumption | exact Touches.refl | apply State.smbRead_touches)
    | exact rfl | extract_lets -underBinder | split

theorem execStatusTemperature_touches {s : State} {t : State} (hx : execStatusTemperature s = .next t) : Touches [.out] s t := by
  obtain rfl := Host.Outcome.next.inj hx
  repeat' first
    | (with_reducible first | intro _ | assumption | exact Touches.refl | apply State.smbRead_touches)
    | exact rfl | extract_lets -underBinder | split

theorem execStatusCml_touches {s : State} {t : State} (hx : execStatusCml s = .next t) : Touches [.out] s t := by
  obtain rfl := Host.Outcome.next.inj hx
  repeat' first
    | (with_reducible first | intro _ | assumption | exact Touches.refl | apply State.smbRead_touches)
    | exact rfl | extract_lets -underBinder | split

theorem execStatusMfrSpecific_touches {s : State} {t : State} (hx : execStatusMfrSpecific s = .next t) : Touches [.out] s t := by
  obtain rfl := Host.Outcome.next.inj hx
  repeat' first
    | (with_reducible first | intro _ | assumption | exact Touches.refl | apply State.smbRead_touches)
    | exact rfl | extract_lets -underBinder | split

theorem execReadTemperature1_touches {s : State} {t : State} (hx : execReadTemperature1 s = .next t) : Touches [.out] s t := by
  obtain rfl := Host.Outcome.next.inj hx
  repeat' first
    | (with_reducible first | intro _ | assumption | exact Touches.refl | apply State.smbRead_touches)
    | exact rfl | extract_lets -underBinder | split

theorem execReadTemperature2_touches {s : State} {t : State} (hx : execReadTemperature2 s = .next t) : Touches [.out] s t := by
  obtain rfl := Host.Outcome.next.inj hx
  repeat' first
    | (with_reducible first | intro _ | assumption | exact Touches.refl | apply State.smbRead_touches)
    | exact rfl | extract_lets -underBinder | split

theorem execReadTemperature3_touches {s : State} {t : State} (hx : execReadTemperature3 s = .next t) : Touches [.out] s t := by
  obtain rfl := Host.Outcome.next.inj hx
  repeat' first
    | (with_reducible first | intro _ | assumption | exact Touches.refl | apply State.smbRead_touches)
    | exact rfl | extract_lets -underBinder | split

theorem execReadPin_touches {s : State} {t : State} (hx : execReadPin s = .next t) : Touches [.out] s t := by
  obtain rfl := Host.Outcome.next.inj hx
  repeat' first
    | (with_reducible first | intro _ | assumption | exact Touches.refl | apply State.smbRead_touches)
    | exact rfl | extract_lets -underBinder | split

theorem execPmbusRevision_touches {s : State} {t : State} (hx : execPmbusRevision s = .next t) : Touches [.out] s t := by
  obtain rfl := Host.Outcome.next.inj hx
  repeat' first
    | (with_reducible first | intro _ | assumption | exact Touches.refl | apply State.smbRead_touches)
    | exact rfl | extract_lets -underBinder | split

theorem execMfrId_touches {s : State} {t : State} (hx : execMfrId s = .next t) : Touches [.out] s t := by
  obtain rfl := Host.Outcome.next.inj hx
  repeat' first
    | (with_reducible first | intro _ | assumption | exact Touches.refl | apply State.smbRead_touches)
    | exact rfl | extract_lets -underBinder | split

theorem execMfrModel_touches {s : State} {t : State} (hx : execMfrModel s = .next t) : Touches [.out] s t := by
  obtain rfl := Host.Outcome.next.inj hx
  repeat' first
    | (with_reducible first | intro _ | assumption | exact Touches.refl | apply State.smbRead_touches)
    | exact rfl | extract_lets -underBinder | split

theorem execMfrSerial_touches {s : State} {t : State} (hx : execMfrSerial s = .next t) : Touches [.out] s t := by
  obtain rfl := Host.Outcome.next.inj hx
  repeat' first
    | (with_reducible first | intro _ | assumption | exact Touches.refl | apply State.smbRead_touches)
    | exact rfl | extract_lets -underBinder | split

theorem execMfrCoolant_touches {data : List Nat} {pec : Bool} {s : State} {t : State} (hx : execMfrCoolant data pec s = .next t) :
    Touches [.regs, .out, .time, .msix, .fab, .pwr, .hif] s t := by
  obtain rfl := Host.Outcome.next.inj hx
  repeat' first
    | (with_reducible first | intro _ | assumption | exact Touches.refl | apply State.coolantWrite_touches | apply State.smbWrite_touches)
    | exact rfl | extract_lets -underBinder | split

theorem execMfrBudget_touches {write : Bool} {watts : Nat} {pec : Bool} {s : State} {t : State}
    (hx : execMfrBudget write watts pec s = .next t) : Touches [.regs, .out, .msix, .pwr, .journal, .commands, .completions, .hif] s t := by
  obtain rfl := Host.Outcome.next.inj hx
  repeat' first
    | (with_reducible first | intro _ | assumption | exact Touches.refl | apply State.budgetWrite_touches | apply State.smbRead_touches
                            | apply State.smbWrite_touches | apply Touches.ite)
    | exact rfl | extract_lets -underBinder | split

theorem execMfrCmd_touches {frame : List Nat} {pec : Bool} {s : State} {t : State} (hx : execMfrCmd frame pec s = .next t) :
    Touches [.regs, .out, .msix, .journal, .commands, .completions, .hif] s t := by
  obtain rfl := Host.Outcome.next.inj hx
  repeat' first
    | (with_reducible first | intro _ | assumption | exact Touches.refl | apply State.frameWrite_touches | apply State.smbWrite_touches)
    | exact rfl | extract_lets -underBinder | split

theorem execMfrRsp_touches {s : State} {t : State} (hx : execMfrRsp s = .next t) : Touches [.out, .completions] s t := by
  obtain rfl := Host.Outcome.next.inj hx
  repeat' first
    | (with_reducible first | intro _ | assumption | exact Touches.refl | apply State.responseRead_touches | apply Touches.ite)
    | exact rfl | extract_lets -underBinder | split

theorem execSmbusInvalidCommand_touches {code : Nat} {s : State} {t : State} (hx : execSmbusInvalidCommand code s = .next t) :
    Touches [.regs, .out, .hif] s t := by
  obtain rfl := Host.Outcome.next.inj hx
  repeat' first
    | (with_reducible first | intro _ | assumption | exact Touches.refl | apply State.nack_touches | apply Touches.ite)
    | exact rfl | extract_lets -underBinder | split

theorem execAlertResponse_touches {won : Bool} {s : State} {t : State} (hx : execAlertResponse won s = .next t) : Touches [.regs, .out] s t := by
  obtain rfl := Host.Outcome.next.inj hx
  repeat' first
    | (with_reducible first | intro _ | assumption | exact Touches.refl | apply State.alertRead_touches | apply Touches.ite)
    | exact rfl | extract_lets -underBinder | split

end Sys2Proof.Machine
end

