-- ==== Sys2Proof/Laws/Touch/Jtag.lean ====
section
/-!
SUPPORT. Laws/Touch/Jtag.lean: for each operation of Machine/Jtag.lean, what it can do: the queue stays, only the parts listed change, and the
registers and memories keep their canonical form.
-/

set_option linter.all false

namespace Sys2Proof.Machine

theorem State.bypass_touches {L : List Part} {z0 : State} {s : State} (hz : Touches L z0 s) (hL : covers L [.out, .hif] = true) :
    Touches L z0 (State.bypass s) := by
  refine hz.andThen (A := [.out, .hif]) ?_ hL
  unfold State.bypass
  repeat' first
    | (with_reducible first | intro _ | assumption | exact Touches.refl | apply State.emit_touches | apply Touches.modHif)
    | exact rfl | extract_lets -underBinder | split

theorem State.takePins_touches {L : List Part} {z0 : State} {s : State} {f : State → State} (hz : Touches L z0 s)
    (hL : covers L [.regs, .out, .hif] = true)
    (h_f : ∀ a0, Touches L z0 a0 → Touches L z0 (f a0)) :
    Touches L z0 (State.takePins s f) := by
  unfold State.takePins
  repeat' first
    | (with_reducible first | intro _ | assumption | exact Touches.refl | apply h_f | apply State.bypass_touches | apply State.wr_touches
                            | apply Touches.ite)
    | exact covers_trans hL rfl | extract_lets -underBinder | split

theorem State.dbgAccess_touches {L : List Part} {z0 : State} {s : State} {write : Bool} {addr : Nat} {data : Nat} (hz : Touches L z0 s)
    (hL : covers L [.regs, .cores, .incs, .out, .counter, .time, .msix, .fab, .stack, .peat, .caches, .dir, .pwr, .ud0, .ud1, .journal, .commands, .completions, .rm, .hif] = true) :
    Touches L z0 (State.dbgAccess s write addr data) := by
  refine hz.andThen (A := [.regs, .cores, .incs, .out, .counter, .time, .msix, .fab, .stack, .peat, .caches, .dir, .pwr, .ud0, .ud1, .journal, .commands, .completions, .rm, .hif]) ?_ hL
  unfold State.dbgAccess
  repeat' first
    | (with_reducible first | intro _ | assumption | exact Touches.refl | apply State.frameErr_touches | apply State.readReg_touches
                            | apply State.wr_touches | apply State.writeReg_touches | apply Touches.ite | apply Touches.modHif)
    | exact rfl | extract_lets -underBinder | split
    | (show Touches _ _ (Prod.fst _); dsimp only)

theorem execExtest_touches {pins : Nat} {bits : Nat} {s : State} {t : State} (hx : execExtest pins bits s = .next t) :
    Touches [.regs, .out, .hif] s t := by
  obtain rfl := Host.Outcome.next.inj hx
  repeat' first
    | (with_reducible first | intro _ | assumption | exact Touches.refl | apply State.emit_touches | apply State.takePins_touches
                            | apply Touches.modHif)
    | exact rfl | extract_lets -underBinder | split

theorem execSamplePreload_touches {pins : Nat} {bits : Nat} {s : State} {t : State} (hx : execSamplePreload pins bits s = .next t) :
    Touches [.out, .hif] s t := by
  obtain rfl := Host.Outcome.next.inj hx
  repeat' first
    | (with_reducible first | intro _ | assumption | exact Touches.refl | apply State.emit_touches | apply Touches.modHif)
    | exact rfl | extract_lets -underBinder | split

theorem execClamp_touches {s : State} {t : State} (hx : execClamp s = .next t) : Touches [.regs, .out, .hif] s t := by
  obtain rfl := Host.Outcome.next.inj hx
  repeat' first
    | (with_reducible first | intro _ | assumption | exact Touches.refl | apply State.emit_touches | apply State.takePins_touches
                            | apply Touches.modHif)
    | exact rfl | extract_lets -underBinder | split

theorem execHighz_touches {s : State} {t : State} (hx : execHighz s = .next t) : Touches [.regs, .out, .hif] s t := by
  obtain rfl := Host.Outcome.next.inj hx
  repeat' first
    | (with_reducible first | intro _ | assumption | exact Touches.refl | apply State.emit_touches | apply State.takePins_touches
                            | apply Touches.modHif)
    | exact rfl | extract_lets -underBinder | split

theorem execIdcode_touches {s : State} {t : State} (hx : execIdcode s = .next t) : Touches [.out, .hif] s t := by
  obtain rfl := Host.Outcome.next.inj hx
  repeat' first
    | (with_reducible first | intro _ | assumption | exact Touches.refl | apply State.emit_touches | apply Touches.modHif)
    | exact rfl | extract_lets -underBinder | split

theorem execBypass_touches {s : State} {t : State} (hx : execBypass s = .next t) : Touches [.out, .hif] s t := by
  obtain rfl := Host.Outcome.next.inj hx
  repeat' first
    | (with_reducible first | intro _ | assumption | exact Touches.refl | apply State.bypass_touches)
    | exact rfl | extract_lets -underBinder | split

theorem execDbgreg_touches {word : Nat} {s : State} {t : State} (hx : execDbgreg word s = .next t) :
    Touches [.regs, .cores, .incs, .out, .counter, .time, .msix, .fab, .stack, .peat, .caches, .dir, .pwr, .ud0, .ud1, .journal, .commands, .completions, .rm, .hif] s t := by
  obtain rfl := Host.Outcome.next.inj hx
  repeat' first
    | (with_reducible first | intro _ | assumption | exact Touches.refl | apply State.dbgAccess_touches | apply State.emit_touches
                            | apply Touches.modHif)
    | exact rfl | extract_lets -underBinder | split

theorem execDbgcmd_touches {frame : List Nat} {s : State} {t : State} (hx : execDbgcmd frame s = .next t) :
    Touches [.regs, .out, .msix, .journal, .commands, .completions, .hif] s t := by
  obtain rfl := Host.Outcome.next.inj hx
  repeat' first
    | (with_reducible first | intro _ | assumption | exact Touches.refl | apply State.refuseNew_touches | apply State.takeFrame_touches
                            | apply Touches.ite | apply Touches.modHif)
    | exact rfl | extract_lets -underBinder | split

theorem execDbgcmdCapture_touches {s : State} {t : State} (hx : execDbgcmdCapture s = .next t) : Touches [.regs, .out, .completions] s t := by
  obtain rfl := Host.Outcome.next.inj hx
  repeat' first
    | (with_reducible first | intro _ | assumption | exact Touches.refl | apply State.dropComp_touches | apply State.emit_touches
                            | apply State.wr_touches | apply Touches.ite | refine Touches.ofFst (by assumption) ?_)
    | exact rfl | extract_lets -underBinder | split
    | dsimp +zetaDelta only

end Sys2Proof.Machine
end

