-- ==== Sys2Proof/Laws/Issue.lean ====
section
/-!
SUPPORT. Laws/Issue.lean: what issue, acceptance, completion and the check of the next head do to a core: only its streams' bookkeeping,
and the increments that a completion sends.
-/

namespace Sys2Proof.Machine

/-- A core's data, its instructions in progress and its next order number. -/
def CoreSt.data (c : CoreSt) : List Host.Cell × AccMem × List (Nat × TileAttr) × List (Nat × WBuf) × List SideSlot × List (Nat × Nat) :=
  (c.mem, c.acc, c.tiles, c.wbs, c.side, c.vreg)

/-- No core's data or instructions in progress differ. -/
structure Quiet (s t : State) : Prop where
  data : ∀ d, (t.core d).data = (s.core d).data
  jobs : ∀ d, (t.core d).jobs = (s.core d).jobs
  ord : ∀ d, (t.core d).nextOrd = (s.core d).nextOrd

/-- No core's data differ, nor its instructions in progress but increments on their way. -/
structure Calm (s t : State) : Prop where
  data : ∀ d, (t.core d).data = (s.core d).data
  jobs : ∀ d, ((t.core d).jobs.filter fun j => j.kind ≠ .remInc) = (s.core d).jobs.filter fun j => j.kind ≠ .remInc

namespace Quiet

variable {s x t : State}

theorem refl : Quiet s s := ⟨fun _ => rfl, fun _ => rfl, fun _ => rfl⟩

theorem trans (h : Quiet s x) (g : Quiet x t) : Quiet s t :=
  ⟨fun d => (g.data d).trans (h.data d), fun d => (g.jobs d).trans (h.jobs d), fun d => (g.ord d).trans (h.ord d)⟩

theorem ofCores (h : t.cores = s.cores) : Quiet s t :=
  ⟨fun d => by rw [State.core_congr h], fun d => by rw [State.core_congr h], fun d => by rw [State.core_congr h]⟩

/-- From here on the operation left the cores. -/
theorem andCores (h : Quiet s x) (g : t.cores = x.cores) : Quiet s t := h.trans (ofCores g)

theorem modCore (h : Quiet s x) (b : Nat) {f : CoreSt → CoreSt} (hd : ∀ c, (f c).data = c.data) (hj : ∀ c, (f c).jobs = c.jobs)
    (ho : ∀ c, (f c).nextOrd = c.nextOrd) : Quiet s (x.modCore b f) := by
  refine h.trans ⟨fun d => ?_, fun d => ?_, fun d => ?_⟩ <;>
  · by_cases e : d = b
    · subst e; rw [State.core_modCore_same]; first | exact hd _ | exact hj _ | exact ho _
    · rw [State.core_modCore_other _ e]

theorem setStream (h : Quiet s x) (b i : Nat) (y : Stream) : Quiet s (x.setStream b i y) :=
  h.modCore b (fun c => by unfold CoreSt.setStream; split <;> rfl) (fun c => by unfold CoreSt.setStream; split <;> rfl)
    (fun c => by unfold CoreSt.setStream; split <;> rfl)

theorem ite {c : Prop} [Decidable c] {y : State} (h : Quiet s x) (g : Quiet s y) : Quiet s (if c then x else y) := by
  split <;> assumption

theorem foldl {α : Type} {f : State → α → State} {l : List α} (hf : ∀ z a, Quiet s z → Quiet s (f z a)) (h : Quiet s x) :
    Quiet s (l.foldl f x) := by
  induction l generalizing x with
  | nil => exact h
  | cons a l ih => exact ih (hf x a h)

theorem calm (h : Quiet s t) : Calm s t := ⟨h.data, fun d => by rw [h.jobs d]⟩

end Quiet

namespace Calm

variable {s x t : State}

theorem trans (h : Calm s x) (g : Calm x t) : Calm s t :=
  ⟨fun d => (g.data d).trans (h.data d), fun d => (g.jobs d).trans (h.jobs d)⟩

theorem foldl {α : Type} {f : State → α → State} {l : List α} (hf : ∀ z a, Calm z (f z a)) : Calm x (l.foldl f x) := by
  induction l generalizing x with
  | nil => exact Quiet.refl.calm
  | cons a l ih => exact (hf x a).trans ih

end Calm

/-- An operation that leaves the part `cores` leaves every core. -/
theorem Touches.cores_same {L : List Part} {s t : State} (h : Touches L s t) (hL : L.contains .cores = false) : t.cores = s.cores :=
  h.only .cores fun hm => by rw [List.contains_iff_mem.2 hm] at hL; cases hL

namespace State

theorem countIssue_quiet (s : State) (b i : Nat) : Quiet s (s.countIssue b i) := by
  unfold State.countIssue
  exact Quiet.modCore (((Quiet.foldl (fun _ _ h => h.andCores (bump_cores ..)) Quiet.refl).andCores (bump_cores ..)).andCores (bump_cores ..)) b
    (fun _ => rfl) (fun _ => rfl) (fun _ => rfl)

theorem accept_quiet (s : State) (b i : Nat) (h : Head) : Quiet s (s.accept b i h) := by
  unfold State.accept
  extract_lets late iss s1 s2 s3 st
  have h2 : Quiet s s2 := Quiet.ite ((countIssue_quiet s b i).andCores (bump_cores ..)) (countIssue_quiet s b i)
  have h3 : Quiet s s3 := (h2.andCores (x := s2) (wr_cores s2 _ _ _)).andCores (setReg_cores _ _ _)
  exact Quiet.setStream h3 _ _ _

theorem cancelProbes_quiet (s : State) (b : Nat) (f : Probe → Bool) : Quiet s (s.cancelProbes b f) := by
  unfold State.cancelProbes
  extract_lets gone s1 s2
  have h1 : Quiet s s1 := Quiet.refl.modCore b (fun _ => rfl) (fun _ => rfl) (fun _ => rfl)
  have h2 : Quiet s s2 := Quiet.foldl (fun _ _ h => h.andCores rfl) h1
  exact Quiet.ite Quiet.refl ((h2.andCores (bump_cores ..)).andCores (raise_cores ..))

theorem flush_quiet (s : State) (b i : Nat) (n : Option Nat) : Quiet s (s.flush b i n) :=
  (Quiet.refl.setStream b i _).trans (cancelProbes_quiet _ b _)

theorem reject_quiet (s : State) (b i pc unit code : Nat) : Quiet s (s.reject b i pc unit code) := by
  unfold State.reject
  extract_lets s1 a s2 s3
  have h0 : Quiet s (s.setSt b i stFault) := Quiet.refl.andCores (wr_cores s _ _ _)
  have h1 : Quiet s s1 := h0.andCores (wr_cores (s.setSt b i stFault) _ _ _)
  have h2 : Quiet s s2 := ((h1.andCores (wr_cores s1 _ _ _)).andCores (wr_cores _ _ _ _)).andCores (wr_cores _ _ _ _)
  have h3 : Quiet s (s2.setReg (SQS_WAIT b (i - 1)) 0) := h2.andCores (setReg_cores ..)
  exact (h3.trans (flush_quiet _ b i none)).andCores (raise_cores ..)

theorem checkHead_quiet (s : State) (b i : Nat) : Quiet s (s.checkHead b i) := by
  unfold State.checkHead
  refine Quiet.ite Quiet.refl (Quiet.ite (reject_quiet ..) (Quiet.ite (reject_quiet ..) ?_))
  split
  · split
    · exact reject_quiet ..
    · exact Quiet.ite Quiet.refl (reject_quiet ..)
  · exact Quiet.ite (reject_quiet ..) Quiet.refl
  · exact Quiet.refl

theorem slipCheck_quiet (s : State) (b : Nat) (tick : Option Nat) : Quiet s (s.slipCheck b tick) := by
  unfold State.slipCheck
  split
  · exact Quiet.refl
  · refine Quiet.ite ?_ Quiet.refl
    have h : ∀ t c, Quiet s ((((((s.modCore b fun c => { c with slips := setIns t c.slips }).bump (TIME_ZSLIPS (zoneOf b)) fTIME_ZSLIPS_COUNT 1).bump
        TIME_SLIPS fTIME_SLIPS_COUNT 1).wr TIME_SLIP_LAST fTIME_SLIP_LAST_CORE c).wr TIME_SLIP_LAST fTIME_SLIP_LAST_TICK t).raise
        TIME_EVENTS fTIME_EVENTS_SLIP) := fun t c =>
      (Quiet.refl.modCore b (f := fun c => { c with slips := setIns t c.slips }) (fun _ => rfl) (fun _ => rfl) (fun _ => rfl)).andCores
        ((raise_cores ..).trans rfl)
    exact Quiet.ite (h _ _) ((h _ _).andCores ((State.health_touches (L := [.regs, .out, .fab]) Touches.refl rfl).cores_same rfl))

/-- An increment sent adds at most an increment on its way. -/
theorem sendInc_calm (s : State) (b : Nat) (iss : Issued) (w : Word) (loc : Bool) (node ts amount : Nat) :
    Calm s (s.sendInc b iss w loc node ts amount) := by
  unfold State.sendInc
  split
  · exact ⟨fun _ => rfl, fun _ => rfl⟩
  · dsimp only
    split
    · exact Quiet.calm (((Quiet.ofCores (bump_cores ..)).trans (slipCheck_quiet _ b _)).andCores
        ((State.moveFail_touches (L := [.regs, .out, .msix]) Touches.refl rfl).cores_same rfl))
    · rename_i x hx
      have h1 : Quiet s x := Quiet.ofCores (((State.sendReq_touches (L := [.regs, .out, .fab]) Touches.refl rfl).out _ hx).cores_same rfl)
      refine Calm.trans (Quiet.calm (h1.modCore b (f := fun c => { c with nextTag := (c.nextTag + 1) % 2 ^ 16 }) (fun _ => rfl) (fun _ => rfl)
        (fun _ => rfl))) ⟨fun d => ?_, fun d => ?_⟩ <;>
      · by_cases e : d = b
        · subst e; rw [addJob, core_modCore_same]; first | rfl | simp [takeTag]
        · rw [addJob, core_modCore_other _ e]; rfl

theorem sigIncs_calm (s : State) (b : Nat) (iss : Issued) : Calm s (s.sigIncs b iss) := by
  unfold State.sigIncs
  exact Calm.foldl fun _ _ => sendInc_calm ..

/-- A completion leaves the core's data and every instruction in progress but increments on their way. -/
theorem finish_calm (s : State) (b : Nat) (iss : Issued) : Calm s (s.finish b iss) :=
  (slipCheck_quiet s b iss.tick).calm.trans (sigIncs_calm _ b iss)

end State

end Sys2Proof.Machine
end

