-- ==== Sys2Proof/Laws/RegFrame.lean ====
section
/-!
SUPPORT. Laws/RegFrame.lean: which registers the shared operations of a core leave as they were: a set of addresses is kept by an operation
that writes none of them.
-/

namespace Sys2Proof.Machine

/-- Registers at the addresses of `P` hold the same words in two states. -/
def Keeps (P : Nat → Prop) (s t : State) : Prop := ∀ a, P a → t.reg a = s.reg a

namespace Keeps

variable {P : Nat → Prop} {s x y t : State}

theorem refl : Keeps P s s := fun _ _ => rfl

theorem trans (h : Keeps P s x) (g : Keeps P x t) : Keeps P s t := fun a p => (g a p).trans (h a p)

theorem regs (h : Keeps P s x) (g : t.regs = x.regs) : Keeps P s t := fun a p => (State.reg_congr g a).trans (h a p)

theorem setReg (h : Keeps P s x) {a : Nat} (ha : ¬P a) (w : Word) : Keeps P s (x.setReg a w) := fun c p =>
  (State.reg_setReg_other x (a := a) (c := c) (fun e => ha (e ▸ p)) w).trans (h c p)

theorem wr (h : Keeps P s x) {a : Nat} (ha : ¬P a) (f : Fld) (v : Nat) : Keeps P s (x.wr a f v) := h.setReg ha _

theorem bump (h : Keeps P s x) {a : Nat} (ha : ¬P a) (f : Fld) (n : Nat) : Keeps P s (x.bump a f n) := h.wr ha _ _

theorem raise (h : Keeps P s x) {a : Nat} (ha : ¬P a) (f : Fld) : Keeps P s (x.raise a f) := fun c p =>
  (State.reg_raise_other x (a := a) (c := c) (fun e => ha (e ▸ p)) f).trans (h c p)

theorem ite {c : Prop} [Decidable c] (h : Keeps P s x) (g : Keeps P s y) : Keeps P s (if c then x else y) := by split <;> assumption

theorem foldl {α : Type} {f : State → α → State} {l : List α} (hf : ∀ z a, a ∈ l → Keeps P s z → Keeps P s (f z a)) (h : Keeps P s x) :
    Keeps P s (l.foldl f x) := by
  induction l generalizing x with
  | nil => exact h
  | cons a l ih => exact ih (fun z c hc => hf z c (List.mem_cons_of_mem _ hc)) (hf x a List.mem_cons_self h)

end Keeps

/-- The registers that a stream's completion may write beside what its instruction writes: time, the fabric, and of the core only
MFAIL words and the core's events (09 R255, R276). -/
def ofCompletion (b i a : Nat) : Prop := a < 0x1000000 ∨ a = SQS_MFAIL b (i - 1) ∨ a = SQ_EVENTS b

namespace State

theorem fget_lt (w : Word) (f : Fld) : fget w f < 2 ^ f.width := Nat.mod_lt _ (Nat.two_pow_pos _)

theorem route_port {s : State} {d p t : Nat} {r : Nat × Bool} (h : s.route d p t = some r) : r.1 < 16 := by
  have hb : ∀ f : Fld, f = fFAB_ROUTE_PORTA ∨ f = fFAB_ROUTE_PORTB → fget (s.reg (FAB_ROUTE d)) f < 16 := by
    rintro f (rfl | rfl) <;> exact fget_lt _ _
  unfold State.route at h
  dsimp only at h
  have ha := hb _ (.inl rfl)
  have hb := hb _ (.inr rfl)
  split at h
  · cases h
  · repeat' split at h
    all_goals first | (cases h; assumption) | cases h

variable {P : Nat → Prop} {s x : State}

theorem Keeps_launch (h : Keeps P s x) (port : Nat) (p : Packet) (hp : port < 16) (hP : ∀ a, a < 0x1000000 → ¬P a) :
    Keeps P s (x.launch port p) := by
  unfold State.launch
  extract_lets pad n seq s1
  have h1 : Keeps P s s1 := h.regs (modPort_regs ..)
  exact (h1.regs (emit_regs ..)).bump (hP _ (by unfold FP_TX_FLITS; omega)) _ _

theorem Keeps_send (h : Keeps P s x) {p : Packet} {y : State} (hy : x.send p = some y) (hP : ∀ a, a < 0x1000000 → ¬P a) : Keeps P s y := by
  unfold State.send at hy
  split at hy
  · cases hy
  · rename_i r hr
    cases hy
    unfold State.transmit
    exact Keeps.ite (Keeps_launch h _ _ (route_port hr) hP) (h.regs (modPort_regs ..))

theorem Keeps_sendReq (h : Keeps P s x) {p : Packet} {y : State} (hy : x.sendReq p = some y) (hP : ∀ a, a < 0x1000000 → ¬P a) :
    Keeps P s y := by
  unfold State.sendReq at hy
  split at hy
  · exact Keeps_send h hy hP
  · cases hy

theorem Keeps_sendCtrl (h : Keeps P s x) (d t : Nat) (l : List Nat) (hP : ∀ a, a < 0x1000000 → ¬P a) : Keeps P s (x.sendCtrl d t l) := by
  unfold State.sendCtrl
  extract_lets n next
  refine Keeps.ite ((h.regs (emit_regs ..)).regs (modFab_regs ..)) ?_
  split
  · rename_i y hy
    exact (Keeps_send h hy hP).regs (modFab_regs ..)
  · exact h.bump (hP _ (by decide)) _ _

theorem Keeps_health (h : Keeps P s x) (k : Nat) (l : List Nat) (hP : ∀ a, a < 0x1000000 → ¬P a) : Keeps P s (x.health k l) := by
  unfold State.health
  exact Keeps.ite (Keeps_sendCtrl h _ _ _ hP) h

theorem Keeps_slipCheck (h : Keeps P s x) (b : Nat) (tick : Option Nat) (hb : b < 288) (hP : ∀ a, a < 0x1000000 → ¬P a) :
    Keeps P s (x.slipCheck b tick) := by
  unfold State.slipCheck
  split
  · exact h
  · refine Keeps.ite ?_ h
    extract_lets s1 s2 s3 s4
    have hz : zoneOf b < 12 := by unfold zoneOf; omega
    have h1 : Keeps P s s1 := h.regs (modCore_regs ..)
    have h2 : Keeps P s s2 := (h1.bump (hP _ (by unfold TIME_ZSLIPS; omega)) _ _).bump (hP _ (by decide)) _ _
    have h3 : Keeps P s s3 := (h2.wr (hP _ (by decide)) _ _).wr (hP _ (by decide)) _ _
    have h4 : Keeps P s s4 := h3.raise (hP _ (by decide)) _
    exact Keeps.ite h4 (Keeps_health h4 _ _ hP)

theorem Keeps_sendInc (h : Keeps P s x) (b : Nat) (iss : Issued) (w : Word) (loc : Bool) (node ts n : Nat) (hb : b < 288)
    (hP : ∀ a, ofCompletion b iss.stream a → ¬P a) : Keeps P s (x.sendInc b iss w loc node ts n) := by
  unfold State.sendInc
  refine Keeps.ite (h.regs rfl) ?_
  extract_lets tag p
  split
  · unfold State.moveFail
    extract_lets a
    have ha : ¬P a := hP _ (.inr (.inl rfl))
    have h0 := Keeps_slipCheck (h.bump (a := FAB_DROP) (hP _ (.inl (by decide))) fFAB_DROP_NOROUTE 1) b iss.tick hb fun a q => hP a (.inl q)
    exact (((h0.wr ha _ _).bump ha _ _).wr ha _ _).raise (hP _ (.inr (.inr rfl))) _
  · rename_i y hy
    exact ((Keeps_sendReq h hy fun a q => hP a (.inl q)).regs (modCore_regs ..)).regs (modCore_regs ..)

/-- A completion keeps every register but those of `ofCompletion`. -/
theorem Keeps_finish (h : Keeps P s x) (b : Nat) (iss : Issued) (hb : b < 288) (hP : ∀ a, ofCompletion b iss.stream a → ¬P a) :
    Keeps P s (x.finish b iss) := by
  unfold State.finish State.sigIncs
  refine Keeps.foldl (fun z a _ hz => Keeps_sendInc hz b _ _ _ _ _ _ hb hP) ?_
  exact Keeps_slipCheck h b _ hb fun a q => hP a (.inl q)

end State

/-- The registers of a core that fetching, issuing and faulting write (09 R241, R254, R276, 07 R211, 08 R240). -/
def ofIssue (b a : Nat) : Prop :=
  a = TIME_LATE ∨ a = SQ_STATUS b ∨ a = SQ_EVENTS b ∨ a = SQ_ISSUED b ∨ a = DM_RA_CANCEL b ∨ a = DM_EVENTS b
    ∨ ∃ k < 3, a = SQS_PC b k ∨ a = SQS_WAIT b k ∨ a = SQS_FAULT b k ∨ a = SQS_LOST b k ∨ a = SQS_ISSUED b k

namespace State

variable {P : Nat → Prop} {s x : State}

theorem Keeps_accept (h : Keeps P s x) (b i : Nat) (hd : Head) (hi : 1 ≤ i ∧ i ≤ 3) (hP : ∀ a, ofIssue b a → ¬P a) :
    Keeps P s (x.accept b i hd) := by
  have hS : ∀ k, k < 3 → ∀ a, (a = SQS_PC b k ∨ a = SQS_WAIT b k ∨ a = SQS_FAULT b k ∨ a = SQS_LOST b k ∨ a = SQS_ISSUED b k) → ¬P a :=
    fun k hk a ha => hP a (.inr (.inr (.inr (.inr (.inr (.inr ⟨k, hk, ha⟩))))))
  have hc : Keeps P s (x.countIssue b i) := by
    unfold State.countIssue
    extract_lets others uReady s1 s2
    have h1 : Keeps P s s1 := by
      refine Keeps.foldl (fun z k hk hz => hz.bump (hS (k - 1) ?_ _ (.inr (.inr (.inr (.inl rfl))))) _ _) h
      have := (List.mem_filter.1 hk).1
      simp only [List.mem_cons, List.not_mem_nil, or_false] at this; omega
    have h2 : Keeps P s s2 := (h1.bump (hP _ (.inr (.inr (.inr (.inl rfl))))) _ _).bump
      (hS (i - 1) (by omega) _ (.inr (.inr (.inr (.inr rfl))))) _ _
    exact h2.regs (modCore_regs ..)
  unfold State.accept
  extract_lets late iss s1 s2 s3 st
  have h2 : Keeps P s s2 := Keeps.ite (hc.bump (hP _ (.inl rfl)) _ _) hc
  have h3 : Keeps P s s3 := (h2.wr (hS (i - 1) (by omega) _ (.inl rfl)) _ _).setReg (hS (i - 1) (by omega) _ (.inr (.inl rfl))) _
  exact h3.regs (setStream_regs ..)

theorem Keeps_cancelProbes (h : Keeps P s x) (b : Nat) (f : Probe → Bool) (hP : ∀ a, ofIssue b a → ¬P a) : Keeps P s (x.cancelProbes b f) := by
  unfold State.cancelProbes
  extract_lets gone s1 s2
  have h1 : Keeps P s s1 := h.regs (modCore_regs ..)
  have h2 : Keeps P s s2 := Keeps.foldl (fun _ _ _ hz => hz.regs (modMem_regs ..)) h1
  exact Keeps.ite h ((h2.bump (hP _ (.inr (.inr (.inr (.inr (.inl rfl)))))) _ _).raise (hP _ (.inr (.inr (.inr (.inr (.inr (.inl rfl))))))) _)

theorem Keeps_flush (h : Keeps P s x) (b i : Nat) (n : Option Nat) (hP : ∀ a, ofIssue b a → ¬P a) : Keeps P s (x.flush b i n) :=
  Keeps_cancelProbes (h.regs (setStream_regs ..)) b _ hP

theorem Keeps_reject (h : Keeps P s x) (b i pc u c : Nat) (hi : 1 ≤ i ∧ i ≤ 3) (hP : ∀ a, ofIssue b a → ¬P a) :
    Keeps P s (x.reject b i pc u c) := by
  have hS : ∀ a, (a = SQS_PC b (i - 1) ∨ a = SQS_WAIT b (i - 1) ∨ a = SQS_FAULT b (i - 1) ∨ a = SQS_LOST b (i - 1) ∨ a = SQS_ISSUED b (i - 1)) → ¬P a :=
    fun a ha => hP a (.inr (.inr (.inr (.inr (.inr (.inr ⟨i - 1, by omega, ha⟩))))))
  unfold State.reject
  extract_lets s1 a s2 s3
  have h1 : Keeps P s s1 := (h.wr (hP _ (.inr (.inl rfl))) _ _).wr (hS _ (.inl rfl)) _ _
  have ha : ¬P a := hS _ (.inr (.inr (.inl rfl)))
  have h2 : Keeps P s s2 := ((h1.wr ha _ _).wr ha _ _).wr ha _ _
  have h3 : Keeps P s s3 := Keeps_flush (h2.setReg (hS _ (.inr (.inl rfl))) _) b i none hP
  exact h3.raise (hP _ (.inr (.inr (.inl rfl)))) _

/-- The check of the next head keeps every register but those of `ofIssue`. -/
theorem Keeps_checkHead (h : Keeps P s x) (b i : Nat) (hi : 1 ≤ i ∧ i ≤ 3) (hP : ∀ a, ofIssue b a → ¬P a) : Keeps P s (x.checkHead b i) := by
  unfold State.checkHead
  refine Keeps.ite h (Keeps.ite (Keeps_reject h b i _ _ _ hi hP) (Keeps.ite (Keeps_reject h b i _ _ _ hi hP) ?_))
  split
  · split
    · exact Keeps_reject h b i _ _ _ hi hP
    · exact Keeps.ite h (Keeps_reject h b i _ _ _ hi hP)
  · exact Keeps.ite (Keeps_reject h b i _ _ _ hi hP) h
  · exact h

/-- What a stream that may issue is: on an enabled core, one of F, B, U. -/
theorem mayIssue_bounds {s : State} {b i : Nat} (h : s.mayIssue b i = true) : b < 288 ∧ 1 ≤ i ∧ i ≤ 3 := by
  unfold State.mayIssue State.coreOn at h
  simp only [Bool.and_eq_true, decide_eq_true_eq] at h
  omega

end State

end Sys2Proof.Machine
end

