-- ==== Sys2Proof/WellFormed.lean ====
section
/-!
DEFINITION. Sys2Proof/WellFormed.lean: which commands the package and what surrounds it can give at all: numbers of cores, streams, ports,
dies, sites, zones that exist (01 R1-R5, 08 R213, 09 R241, 13 R376), bytes, words of 64 bits, fields that fit their registers or
packets. Every command has a meaning; one that is not well formed names nothing that exists, and changes nothing or what its
low bits name.
-/

namespace Sys2Proof

open Sys2Proof.Machine

/-- A number below a bound. -/
def below (n k : Nat) : Bool := decide (n < k)

/-- A core number (01 R3). -/
def coreOk (b : Nat) : Bool := below b 288

/-- A stream: 1 F, 2 B, 3 U (09 R241). -/
def streamOk (i : Nat) : Bool := decide (1 ≤ i) && decide (i ≤ 3)

/-- A CXL port (17 R520). -/
def cxlPort (p : Nat) : Bool := decide (1 ≤ p) && decide (p ≤ 3)

/-- A turnstile doorbell page (17 R512). -/
def pageOk (p : Nat) : Bool := decide (1 ≤ p) && decide (p ≤ 239)

/-- A list of bytes. -/
def bytesOk (l : List Nat) : Bool := l.all fun b => below b 256

/-- Words of 64 bits. -/
def wordsOk (l : List Nat) : Bool := l.all fun w => below w (2 ^ 64)

/-- Node IDs (13 R376). -/
def nodesOk (l : List Nat) : Bool := l.all fun n => below n (2 ^ 12)

/-- A frame of 64 bytes (17 R514). -/
def frameOk (l : List Nat) : Bool := (l.length = 64 || l.length = 0) && bytesOk l

/-- A size that BAR0 accepts (17 R507). -/
def sizeOk (n : Nat) : Bool := n = 4 || n = 8

/-- A link width in lanes, a rate code (17 R532). -/
def widthOk (n : Nat) : Bool := [1, 2, 4, 8, 16].contains n
def rateOk (n : Nat) : Bool := decide (1 ≤ n) && decide (n ≤ 6)

/-- Symbols or devices of a line that have changed (11 R326, R337), each with a change that is not zero. -/
def errsOk (l : List (Nat × Nat)) : Bool := l.all fun e => decide (e.2 ≠ 0)

/-- Skews of the 16 crossings at most (08 R220). -/
def skewsOk (l : List Int) : Bool := decide (l.length ≤ 16)

/-- A command's way in (16 R485, R486): a sequence number, or a port class with its argument words. -/
def viaOk : Via → Bool
  | .taken q => decide (q ≠ 0)
  | .arrives cls port args => (below cls 5 || cls = 7) && below port 16 && wordsOk args

/-- A packet's fields fit its header (13 R377). -/
def packetOk (p : Packet) : Bool :=
  below p.typ 64 && below p.vc 5 && below p.cls 2 && below p.hops 16 && below p.sgen 16 && below p.egen 16 && below p.src (2 ^ 12)
    && below p.dst (2 ^ 12) && below p.sep (2 ^ 10) && below p.status 64 && below p.tag (2 ^ 16) && below p.len 257 && below p.hint 4 && below p.use 16
    && below p.aop 16 && below p.asz 2 && below p.cseq (2 ^ 16) && below p.addr (2 ^ 64) && bytesOk p.data

/-- What a DISC says (13 R392). -/
def identOk (x : Ident) : Bool := below x.node (2 ^ 12) && below x.gen 16 && below x.port 16

/-- A start's surroundings (16 R476). -/
def envOk (e : StartEnv) : Bool :=
  (e.bad.all fun b => below b.1 12) && (e.lanes.all fun l => below l.1 10 && below l.2.1 32 && below l.2.2.1 2 && below l.2.2.2 34)
    && (e.noLink.all fun d => below d 2) && skewsOk e.skews && widthOk e.width && rateOk e.rate

/-- The bytes of a flit (13 R372). -/
def flitOk (head body crc : List Nat) : Bool := head.length = 4 && body.length = 128 && crc.length = 4 && bytesOk (head ++ body ++ crc)

/-- What the Ringmaster answers a forwarded command (14 R429, 16 R492): an outcome, a status, a response of words. -/
def replyOk : Option (Nat × Nat × List Nat) → Bool
  | none => true
  | some r => decide (1 ≤ r.1) && below r.1 4 && wordsOk r.2.2

/-- The command can be given. -/
def wellFormed (i : Instr) : Bool :=
  match i with
  | .mwld core stream => coreOk core && streamOk stream
  | .mwldBufferValid core _ => coreOk core
  | .mmul core stream => coreOk core && streamOk stream
  | .mmulComplete core _ => coreOk core
  | .accld core stream => coreOk core && streamOk stream
  | .accldComplete core _ => coreOk core
  | .drain core stream => coreOk core && streamOk stream
  | .hookRow core eng => coreOk core && below eng 4
  | .drainComplete core _ => coreOk core
  | .ssmul core stream => coreOk core && streamOk stream
  | .ssmulComplete core _ => coreOk core
  | .snchkCheck core stream => coreOk core && streamOk stream
  | .snchkEnd core stream => coreOk core && streamOk stream
  | .vsetl core stream => coreOk core && streamOk stream
  | .vsetv core stream => coreOk core && streamOk stream
  | .vmap core stream => coreOk core && streamOk stream
  | .vcvt core stream => coreOk core && streamOk stream
  | .vred core stream => coreOk core && streamOk stream
  | .vkrn core stream => coreOk core && streamOk stream
  | .veInstructionComplete core _ => coreOk core
  | .dmovCopy core stream => coreOk core && streamOk stream
  | .dmovTensor core stream => coreOk core && streamOk stream
  | .dmovFill core stream => coreOk core && streamOk stream
  | .dmovComplete core _ => coreOk core
  | .dmovFailed core _ _ => coreOk core
  | .probeStart core stream _ => coreOk core && streamOk stream
  | .probeTickExpiry core stream _ => coreOk core && streamOk stream
  | .nop core stream => coreOk core && streamOk stream
  | .halt core stream => coreOk core && streamOk stream
  | .streamEntersHalted core stream => coreOk core && streamOk stream
  | .smovi core stream => coreOk core && streamOk stream
  | .salu core stream => coreOk core && streamOk stream
  | .sld core stream => coreOk core && streamOk stream
  | .sldLoadComplete core stream _ => coreOk core && streamOk stream
  | .sst core stream => coreOk core && streamOk stream
  | .br core stream => coreOk core && streamOk stream
  | .dbnz core stream => coreOk core && streamOk stream
  | .tinc core stream => coreOk core && streamOk stream
  | .tadv core stream => coreOk core && streamOk stream
  | .treset core stream => coreOk core && streamOk stream
  | .tepoch core stream => coreOk core && streamOk stream
  | .tickb core stream => coreOk core && streamOk stream
  | .hint core stream => coreOk core && streamOk stream
  | .waitc core stream => coreOk core && streamOk stream
  | .rdt core stream => coreOk core && streamOk stream
  | .instructionFetch core stream => coreOk core && streamOk stream
  | .guardWatchdog core stream => coreOk core && streamOk stream
  | .tsIncrement _ => true
  | .streamStopped core stream => coreOk core && streamOk stream
  | .tickBoundary zone => below zone 12
  | .pendingSegmentEffect => true
  | .beatReplicaWrite => true
  | .timeExchange => true
  | .exchangeMissed => true
  | .originTimeout => true
  | .droopTrip zone _ => below zone 12
  | .realignmentStretch zone => below zone 12
  | .neighbourInformed crossing => below crossing 16
  | .crossingSynchronous crossing => below crossing 16
  | .glideStart => true
  | .glideEnd => true
  | .ageingSample core _ => coreOk core
  | .stackRead _ _ _ hint use errs _ => below hint 4 && below use 16 && errsOk errs
  | .stackWrite _ _ hint use data => below hint 4 && below use 16 && bytesOk data
  | .stackAtomic _ _ aop _ _ _ => below aop 8
  | .cacheFill _ => true
  | .stackFault site ch _ => below site 10 && below ch 32
  | .scrubRead unit errs => below unit 12 && errsOk errs
  | .compactionComplete unit => below unit 12
  | .stackTemperatureRead site _ => below site 10
  | .stackCeReadout site _ => below site 10
  | .peatAccess _ _ _ _ _ data errs => bytesOk data && errsOk errs
  | .moduleTemperatureRead die ch _ => below die 2 && below ch 4
  | .directoryWalk _ _ => true
  | .tierTimeout core w => below core 290 && below w.tier 4
  | .lateReply tier => decide (tier ≠ 1) && below tier 4
  | .walkStart die => below die 2
  | .update die _ => below die 2
  | .commitWord die _ => below die 2
  | .copyEmissionComplete die _ => below die 2
  | .scan die _ => below die 2
  | .normOut die _ => below die 2
  | .normIn die _ => below die 2
  | .entryComplete die _ => below die 2
  | .walkComplete die => below die 2
  | .degradedMark _ => true
  | .sedgeLinkReset die => below die 2
  | .ckptDone die => below die 2
  | .signalDetected port => below port 16
  | .trainingComplete port _ _ => below port 16
  | .disc port id => below port 16 && identOk id
  | .flitReceive port head body crc _ _ => below port 16 && flitOk head body crc
  | .linkControlNak port seq => below port 16 && below seq (2 ^ 12)
  | .credit port vc cls _ => below port 16 && below vc 5 && below cls 2
  | .switch port e => below port 16 && below e.slot 4 && below e.spare 2
  | .pause port => below port 16
  | .resume e => below e.port 16 && below e.seq (2 ^ 12)
  | .laneErrorWindow die _ _ _ => below die 4
  | .switchTimeout port => below port 16
  | .portFailure port => below port 16
  | .transitForward port p => below port 16 && packetOk p
  | .fabRd port p => below port 16 && packetOk p
  | .fabRdp port p => below port 16 && packetOk p
  | .fabWr port p => below port 16 && packetOk p
  | .fabAt port p => below port 16 && packetOk p
  | .fabInc port p => below port 16 && packetOk p
  | .fabRdr port p => below port 16 && packetOk p
  | .fabWack port p => below port 16 && packetOk p
  | .fabAtr port p => below port 16 && packetOk p
  | .fabIncack port p => below port 16 && packetOk p
  | .fabPack port p => below port 16 && packetOk p
  | .fabNak port p => below port 16 && packetOk p
  | .treq port p => below port 16 && packetOk p
  | .trsp port p => below port 16 && packetOk p
  | .duplicateRecordExpiry => true
  | .cseqHoldExpiry src => below src (2 ^ 12)
  | .enrolReq port src cseq _ words => below port 16 && below src (2 ^ 12) && below cseq (2 ^ 16) && wordsOk words
  | .enrolReqTimer => true
  | .enrolGrant port src cseq _ words => below port 16 && below src (2 ^ 12) && below cseq (2 ^ 16) && wordsOk words
  | .enrolDeny port src cseq _ words => below port 16 && below src (2 ^ 12) && below cseq (2 ^ 16) && wordsOk words
  | .ready port src cseq _ words => below port 16 && below src (2 ^ 12) && below cseq (2 ^ 16) && wordsOk words
  | .unready port src cseq _ words => below port 16 && below src (2 ^ 12) && below cseq (2 ^ 16) && wordsOk words
  | .work port src cseq _ words => below port 16 && below src (2 ^ 12) && below cseq (2 ^ 16) && wordsOk words
  | .leave port src cseq _ words => below port 16 && below src (2 ^ 12) && below cseq (2 ^ 16) && wordsOk words
  | .leaveAck port src cseq _ words => below port 16 && below src (2 ^ 12) && below cseq (2 ^ 16) && wordsOk words
  | .leaveTimeout => true
  | .noPortUpTimeout => true
  | .heartbeat port src cseq _ words => below port 16 && below src (2 ^ 12) && below cseq (2 ^ 16) && wordsOk words
  | .heartbeatTimer => true
  | .heartbeatMiss node => below node (2 ^ 12)
  | .routeSet port src cseq _ words => below port 16 && below src (2 ^ 12) && below cseq (2 ^ 16) && wordsOk words
  | .rmClaim port src cseq _ words => below port 16 && below src (2 ^ 12) && below cseq (2 ^ 16) && wordsOk words
  | .claimTimer => true
  | .claimSuccess => true
  | .rmSync port src cseq _ words _ => below port 16 && below src (2 ^ 12) && below cseq (2 ^ 16) && wordsOk words
  | .rmSyncTimer => true
  | .standbyTakeover => true
  | .quorumCheck => true
  | .hbAckLoss => true
  | .hbAck port src cseq _ words => below port 16 && below src (2 ^ 12) && below cseq (2 ^ 16) && wordsOk words
  | .tickChange port src cseq _ words => below port 16 && below src (2 ^ 12) && below cseq (2 ^ 16) && wordsOk words
  | .epochPrepare port src cseq _ words _ => below port 16 && below src (2 ^ 12) && below cseq (2 ^ 16) && wordsOk words
  | .epochClose port src cseq _ words => below port 16 && below src (2 ^ 12) && below cseq (2 ^ 16) && wordsOk words
  | .epochOpen port src cseq _ words => below port 16 && below src (2 ^ 12) && below cseq (2 ^ 16) && wordsOk words
  | .stepDecide port src cseq _ words => below port 16 && below src (2 ^ 12) && below cseq (2 ^ 16) && wordsOk words
  | .normTotal port src cseq _ words => below port 16 && below src (2 ^ 12) && below cseq (2 ^ 16) && wordsOk words
  | .nodeGen port src cseq _ words => below port 16 && below src (2 ^ 12) && below cseq (2 ^ 16) && wordsOk words
  | .nodeRemoved port src cseq _ words => below port 16 && below src (2 ^ 12) && below cseq (2 ^ 16) && wordsOk words
  | .healthStepReport port src cseq _ words => below port 16 && below src (2 ^ 12) && below cseq (2 ^ 16) && wordsOk words
  | .stepTmo => true
  | .healthSlip port src cseq _ words => below port 16 && below src (2 ^ 12) && below cseq (2 ^ 16) && wordsOk words
  | .tickShrink => true
  | .healthBeatLost port src cseq _ words => below port 16 && below src (2 ^ 12) && below cseq (2 ^ 16) && wordsOk words
  | .healthLateContrib port src cseq _ words => below port 16 && below src (2 ^ 12) && below cseq (2 ^ 16) && wordsOk words
  | .healthMemFence port src cseq _ words => below port 16 && below src (2 ^ 12) && below cseq (2 ^ 16) && wordsOk words
  | .healthPortDown port src cseq _ words => below port 16 && below src (2 ^ 12) && below cseq (2 ^ 16) && wordsOk words
  | .healthTorn port src cseq _ words => below port 16 && below src (2 ^ 12) && below cseq (2 ^ 16) && wordsOk words
  | .healthNorm port src cseq _ words => below port 16 && below src (2 ^ 12) && below cseq (2 ^ 16) && wordsOk words
  | .healthPrepared port src cseq _ words => below port 16 && below src (2 ^ 12) && below cseq (2 ^ 16) && wordsOk words
  | .healthLoaded port src cseq _ words => below port 16 && below src (2 ^ 12) && below cseq (2 ^ 16) && wordsOk words
  | .healthSyncAck port src cseq _ words => below port 16 && below src (2 ^ 12) && below cseq (2 ^ 16) && wordsOk words
  | .healthCooling port src cseq _ words => below port 16 && below src (2 ^ 12) && below cseq (2 ^ 16) && wordsOk words
  | .staleRead => true
  | .powerControllerRun _ _ _ => true
  | .budgetStepSample pins => below pins 8
  | .budgetTakesEffect => true
  | .sensorSample _ => true
  | .thermalLimitUpdate => true
  | .clockStopEnd => true
  | .minimumPowerExit => true
  | .traySilence => true
  | .hintReceived _ => true
  | .hintPhaseEnd _ => true
  | .droopMarginAdapt zone => below zone 12
  | .energyAttribution _ _ _ _ => true
  | .thermalCycleSample _ _ _ => true
  | .wearSaveTimer => true
  | .powerGood env => envOk env
  | .pkgPwrgdLow _ => true
  | .railOutOfRange _ => true
  | .refclkLoss _ => true
  | .refclkReturn _ env => envOk env
  | .pkgRst _ _ env => envOk env
  | .lockstepMismatch => true
  | .gfmtQuery via => viaOk via
  | .gfmtPin via => viaOk via
  | .gfmtRelease via => viaOk via
  | .gfmtLimits via => viaOk via
  | .sqStart via => viaOk via
  | .sqStop via => viaOk via
  | .sqQuery via => viaOk via
  | .udStepBegin via => viaOk via
  | .udStepCommit via => viaOk via
  | .udStop via => viaOk via
  | .udRestore via => viaOk via
  | .udCkpt via => viaOk via
  | .udReemit via => viaOk via
  | .udAcceptTorn via => viaOk via
  | .udSetExp via => viaOk via
  | .udQuery via => viaOk via
  | .memQuery via => viaOk via
  | .memFence via => viaOk via
  | .memCompact via => viaOk via
  | .memCacheRelease via => viaOk via
  | .memCacheFlush via => viaOk via
  | .ptQuery via => viaOk via
  | .ptFence via => viaOk via
  | .ptCompact via => viaOk via
  | .dirCreate via => viaOk via
  | .dirSet via => viaOk via
  | .dirDelete via => viaOk via
  | .dirQuery via => viaOk via
  | .dirBeginMove via => viaOk via
  | .dirCommitMove via => viaOk via
  | .dirAbortMove via => viaOk via
  | .dirMarkLost via => viaOk via
  | .dirFlush via => viaOk via
  | .fabQuery via => viaOk via
  | .fabPortSet via => viaOk via
  | .fabJoin via => viaOk via
  | .fabLeave via => viaOk via
  | .rmQuery v => viaOk v.via && replyOk v.reply
  | .rmReshard v layout => viaOk v.via && nodesOk layout && replyOk v.reply
  | .rmTick v => viaOk v.via && replyOk v.reply
  | .rmPolicy v => viaOk v.via && replyOk v.reply
  | .rmHandover v => viaOk v.via && replyOk v.reply
  | .pwrQuery via => viaOk via
  | .pwrSetBudget via => viaOk via
  | .pwrEnergyQuery via => viaOk via
  | .pwrEnergyRelease via => viaOk via
  | .pwrForceMin via => viaOk via
  | .pwrCoolClear via => viaOk via
  | .pwrResume via => viaOk via
  | .pwrWearSave via => viaOk via
  | .pkgQuery via => viaOk via
  | .warm via env => viaOk via && envOk env
  | .cold via env => viaOk via && envOk env
  | .dieReset via env => viaOk via && envOk env
  | .schedLoad via _ => viaOk via
  | .schedUnload via => viaOk via
  | .flashWrite via image _ => viaOk via && bytesOk image
  | .jnlQuery via => viaOk via
  | .jnlSpill via => viaOk via
  | .dbgUnlock via => viaOk via
  | .dbgLock via => viaOk via
  | .returnCapture via _ => viaOk via
  | .tsInc ts value => below ts (2 ^ 14) && below value (2 ^ 64)
  | .tsCountWrite ts value => below ts (2 ^ 14) && below value (2 ^ 64)
  | .tsTargetWrite ts value => below ts (2 ^ 14) && below value (2 ^ 64)
  | .veSlotCfgWrite core slot value => coreOk core && below slot 32 && below value (2 ^ 64)
  | .veSlotContentWrite core slot k value => coreOk core && below slot 32 && below k 36 && below value (2 ^ 64)
  | .udRuleCfgWrite die slot value => below die 2 && below slot 4 && below value (2 ^ 64)
  | .raticksWrite core value => coreOk core && below value (2 ^ 64)
  | .dirCtrlEnWrite value => below value (2 ^ 64)
  | .memCtrlCenWrite site value => below site 10 && below value (2 ^ 64)
  | .timeCtrlAlignWrite value skews => below value (2 ^ 64) && skewsOk skews
  | .udRecbaseFirstWrite die value => below die 2 && below value (2 ^ 64)
  | .timeBeatRead size => sizeOk size
  | .registerReadClear _ size => sizeOk size
  | .registerWrite _ size value => sizeOk size && below value (2 ^ 64)
  | .bar2Read _ _ => true
  | .bar2Write _ data => bytesOk data
  | .bar2Atomicop _ _ _ _ _ => true
  | .bar2Timeout _ _ => true
  | .hifBar2Write value => below value (2 ^ 64)
  | .submissionDoorbell value => below value (2 ^ 64)
  | .frameFetch frame args => frameOk frame && bytesOk args
  | .turnstileDoorbell page index value => pageOk page && below index 64 && below value (2 ^ 64)
  | .completionEntryWrite => true
  | .cqHeadWrite value => below value (2 ^ 64)
  | .cqenWrite value _ => below value (2 ^ 64)
  | .msixUnmask vec _ _ => below vec 16
  | .dmaTimeout _ frame => frameOk frame
  | .flr => true
  | .hotReset width rate _ => widthOk width && rateOk rate
  | .perst width rate _ => widthOk width && rateOk rate
  | .cxlLinkUp port width rate devs => cxlPort port && widthOk width && rateOk rate && decide (devs.length ≤ 256)
  | .cxlDeviceNotActive port _ => cxlPort port
  | .cxlLinkDown port => cxlPort port
  | .clearFaults _ => true
  | .capability => true
  | .statusByte => true
  | .statusWord => true
  | .statusTemperature => true
  | .statusCml => true
  | .statusMfrSpecific => true
  | .readTemperature1 => true
  | .readTemperature2 => true
  | .readTemperature3 => true
  | .readPin => true
  | .pmbusRevision => true
  | .mfrId => true
  | .mfrModel => true
  | .mfrSerial => true
  | .mfrCoolant data _ => bytesOk data
  | .mfrBudget _ watts _ => below watts (2 ^ 16)
  | .mfrCmd frame _ => bytesOk frame
  | .mfrRsp => true
  | .smbusInvalidCommand code => below code 256
  | .alertResponse _ => true
  | .extest _ _ => true
  | .samplePreload _ _ => true
  | .clamp => true
  | .highz => true
  | .idcode => true
  | .bypass => true
  | .dbgreg word => below word (2 ^ 96)
  | .dbgcmd frame => frameOk frame
  | .dbgcmdCapture => true
  | .markerLockLoss die _ => below die 4
  | .moduleReportedFault die ch => below die 2 && below ch 4
  | .farTierAccess _ _ _ _ data _ => bytesOk data
  | .cxlIoError port _ => cxlPort port

end Sys2Proof
end

