-- ==== Sys2Proof/Tests/Slice0.lean ====
section
/-!
SUPPORT. Tests/Slice0.lean: the checks of well-formed commands refuse ill-formed ones; for each statement with hypotheses a concrete state and
operands that meet them, clause by clause; small tests of results that the spec gives.
-/

namespace Sys2Proof.Tests

set_option maxRecDepth 8000

open Sys2Proof Sys2Proof.Machine

/-- The state after reset with fields of registers set. -/
def put (l : List (Nat × Fld × Nat)) : State := l.foldl (fun s x => s.wr x.1 x.2.1 x.2.2) State.reset

/-- A package in LOCAL with fields of registers set. -/
def live (l : List (Nat × Fld × Nat)) : State := put ((PKG_STATE, fPKG_STATE_STATE, 2) :: l)

/-- Core 0 of a state: stream 1 in RUN with words fetched from PC 0 on. -/
def running (s : State) (ws : List Nat) : State :=
  let s := (s.setSt 0 1 stRun).wr (SQS_PLIMIT 0 0) fSQS_PLIMIT_PLIMIT 64
  s.setStream 0 1 { s.stream 0 1 with fbuf := ws.zipIdx.map fun p => (8 * p.2, BitVec.ofNat 64 p.1) }

/-- A head without prefixes. -/
def hd (w : Nat) : Head := ⟨0, none, none, BitVec.ofNat 64 w, 1⟩

/-- An opcode in place. -/
def op (o rest : Nat) : Nat := o * 2 ^ 56 + rest

/-- The head issues. -/
def issuing (s : State) (h : Head) : Bool :=
  s.mayIssue 0 1 && decide (s.head 0 1 = .ok h) && decide (s.notReady 0 1 h = none) && decide (s.chosen 0 = some 1)

theorem issues {s : State} {h : Head} (e : issuing s h = true) : s.Issues 0 1 h := by
  simp only [issuing, Bool.and_eq_true, decide_eq_true_eq] at e
  exact ⟨e.1.1.1, e.1.1.2, e.1.2, e.2⟩

theorem issues_all {ws : List (Nat × Nat)} {s : Nat → State}
    (e : ∀ w ∈ ws, issuing (s w.2) (hd w.2) = true ∧ opc (BitVec.ofNat 64 w.2) = w.1) :
    ∀ w ∈ ws, (s w.2).Issues 0 1 (hd w.2) ∧ opc (hd w.2).word = w.1 := fun w m => ⟨issues (e w m).1, (e w m).2⟩

/-- One word at the head of stream 1 of core 0. -/
def one (w : Nat) : State := running (live []) [w]

theorem witness_SequencerInstructionsAtIssue :
    (∀ w ∈ [(0x00, op 0x00 0), (0x29, op 0x29 0), (0x10, op 0x10 0), (0x10, op 0x10 (2 ^ 50)), (0x12, op 0x12 (12 * 2 ^ 36)),
      (0x15, op 0x15 (coreMemSize - 8)), (0x18, op 0x18 0), (0x18, op 0x18 (2 * 2 ^ 43)), (0x19, op 0x19 0), (0x21, op 0x21 0), (0x22, op 0x22 0),
      (0x23, op 0x23 0), (0x28, op 0x28 0), (0x2A, op 0x2A 0), (0x2A, op 0x2A (2 ^ 49)), (0x2A, op 0x2A (2 ^ 50))], (one w.2).Issues 0 1 (hd w.2) ∧ opc (hd w.2).word = w.1)
    ∧ (let w := BitVec.ofNat 64 (op 0x12 (12 * 2 ^ 36)); (saluFn (bitsOf w 39 36) 0 (saluB (one w.toNat) 0 1 w)).isSome = true)
    ∧ (let w := BitVec.ofNat 64 (op 0x15 (coreMemSize - 8)); State.memCheck ((one w.toNat).memAddr 0 1 w) = none)
    ∧ brCond 0 0 0 = some true ∧ brCond 2 0 0 = some false
    ∧ bitsOf (BitVec.ofNat 64 (op 0x2A (2 ^ 50))) 50 49 ≠ 3 :=
  ⟨issues_all (s := one) (by decide), by decide, by decide, by decide, by decide, by decide⟩

theorem witness_TickBaseAndLaunchTick :
    (∀ w ∈ [(0x24, op 0x24 0), (0x24, op 0x24 (2 ^ 55 + 65535))], (one w.2).Issues 0 1 (hd w.2) ∧ opc (hd w.2).word = w.1)
    ∧ (let h : Head := ⟨0, some (BitVec.ofNat 64 (2 ^ 55)), none, 0, 2⟩; h.guard = some (BitVec.ofNat 64 (2 ^ 55)) ∧ bitsOf (BitVec.ofNat 64 (2 ^ 55)) 55 55 = 1) :=
  ⟨issues_all (s := one) (by decide), by decide⟩

/-- One word at the head of stream 1 of core 0, with scalar registers and the core's state set. -/
def prep (w : Nat) (rs : List (Nat × Nat)) (f : CoreSt → CoreSt) : State := rs.foldl (fun s r => s.setSreg 0 1 r.1 r.2) ((one w).modCore 0 f)

/-- Words of 64 bits in core memory from an address on. -/
def withWords (a : Nat) (l : List Nat) (c : CoreSt) : CoreSt := l.zipIdx.foldl (fun c p => c.locStore (a + 8 * p.2) (leBytes 8 p.1)) c

def wMwld : Nat := op 0x41 (2 ^ 52)
def wMmul : Nat := op 0x40 (2 ^ 52 + 2 ^ 37)
def sMmul : State := prep wMmul [(1, 1)] fun c => c.setWb 0 0 { c.wb 0 0 with loaded := true }
def wAccld : Nat := op 0x42 (2 ^ 35 + 2 ^ 10)
def wDrain : Nat := op 0x43 (2 ^ 27)
def sDrain : State := (prep wDrain [(1, 1)] id).wr (DR_PROF_A 0 0) fDR_PROF_A_NCOL 1
def wSs : Nat := op 0x44 (2 ^ 35 + 2 ^ 21 + 2 ^ 14)
def sSs : State := (prep wSs [(1, 1)] id).wr (DM_SIDE 0 0) fDM_SIDE_CNT 1
def sVe (w n : Nat) : State := ((prep w [] (withWords 0 [n])).wr (VE_VL 0 0) fVE_VL_VL 1).wr (VE_SLOT_CFG 0 0) fVE_SLOT_CFG_LEN 1
def sMove (k : Nat) : State := prep (op 0x60 0) [] (withWords 0 [k * 2 ^ 60, 256, 512, 0, 2 ^ 48 + 2 ^ 32 + 2 ^ 16 + 1])

/-- The checks of the vector engine pass at the head word of a state, with VL and rows as given. -/
def vePasses (w : Nat) (rows : Nat) : Bool :=
  let s := sVe w rows
  let w := BitVec.ofNat 64 w
  let a := veTable (s.core 0) (s.rd (VE_VL 0 0) fVE_VL_VL) 0
  issuing s (hd w.toNat) && decide (veCheck s 0 w 0 a (veSlotCopy s 0 w) = none) && decide (a.getD 0 0 ≠ 0) && decide (a.getD 1 0 = rows)

/-- The checks of a move pass. -/
def movePasses (s : State) (k : Nat) : Bool :=
  let w := BitVec.ofNat 64 (op 0x60 0)
  let m := readMv s 0 1 w
  issuing s (hd w.toNat) && decide (m.check (descAddr s 0 1 w) w (s.on (DM_CTRL 0) fDM_CTRL_EN) = none) && decide (m.kind = k) && !m.empty

theorem witness_UnitsTakeInstructions :
    (let s := one wMwld; let w := BitVec.ofNat 64 wMwld
      issuing s (hd wMwld) = true ∧ firstCode [(engDisabled s 0 w, 0x07), ((mwldRanges w (pairArgs s 0 1 w)).any fun r => !rangeOk r.1 r.2, 0x08)] = none
        ∧ engs w ≠ [])
    ∧ (let s := sMmul; let w := BitVec.ofNat 64 wMmul
      issuing s (hd wMmul) = true ∧ mmulCheck s 0 1 w (pairArgs s 0 1 w ++ [s.sreg 0 1 (bitsOf w 41 37) % 2 ^ 32]) = none ∧ engs w ≠ []
        ∧ s.sreg 0 1 (bitsOf w 41 37) % 2 ^ 32 ≠ 0)
    ∧ (let s := prep wAccld [(1, 1)] id; let w := BitVec.ofNat 64 wAccld
      issuing s (hd wAccld) = true ∧ firstCode [(((s.core 0).tile (drTile w)).owner ≠ 0 && ((s.core 0).tile (drTile w)).owner ≠ 1, 0x06),
        (decide (capacity (bitsOf w 27 26) < bitsOf w 34 28 + (accldArgs s 0 1 w).getD 4 0), 0x11), (((s.core 0).tile (drTile w)).iCount ≠ 0, 0x12),
        (!s.on (DR_CTRL 0) fDR_CTRL_EN, 0x15), ((accldRanges w (accldArgs s 0 1 w)).any fun r => !rangeOk r.1 r.2, 0x16)] = none
        ∧ (accldArgs s 0 1 w).getD 4 0 ≠ 0 ∧ bitsOf w 16 10 ≠ 0)
    ∧ (let s := sDrain; let w := BitVec.ofNat 64 wDrain
      issuing s (hd wDrain) = true ∧ drainCheck s 0 w (s.profile 0 (bitsOf w 49 47)) (drainArgs s 0 1 w) = none ∧ (drainArgs s 0 1 w).getD 5 0 ≠ 0
        ∧ (s.profile 0 (bitsOf w 49 47)).ncol ≠ 0)
    ∧ (let s := sSs; let w := BitVec.ofNat 64 wSs
      issuing s (hd wSs) = true ∧ firstCode [((boundSlot (s.core 0) 1 (drEng w) (bitsOf w 53 50)).isSome, 0x22),
        (decide (capacity ((s.core 0).tile (drTile w)).iDepth < ssRow0 w + (ssArgs s 0 1 w).getD 4 0), 0x23), (ssCnt w ≠ s.rd (DM_SIDE 0 0) fDM_SIDE_CNT, 0x24),
        ((ssRanges w (ssArgs s 0 1 w)).any fun r => !rangeOk r.1 r.2, 0x25)] = none ∧ freeSlot (s.core 0) ≠ none ∧ ssCnt w ≠ 0 ∧ ssNc w ≠ 0
        ∧ (ssArgs s 0 1 w).getD 4 0 ≠ 0)
    ∧ (∀ o ∈ [0x52, 0x53, 0x54, 0x55], vePasses (op o 0) 1 = true) ∧ ∀ k ∈ [0, 1, 2], movePasses (sMove k) k = true := by
  refine ⟨by decide, by decide, by decide, by decide, by decide, by decide, by decide⟩

/-- The state that an answer carries; a state of no interest when there is none. -/
def nx (o : Host.Outcome State Fault Refusal) : State :=
  match o with
  | .next t => t
  | _ => State.reset

/-- An instruction in progress that may end, of a kind and with a property. -/
def ending (s : State) (ord : Nat) (k : JobKind) (p : Job → Bool) : Bool :=
  match s.job 0 ord with
  | some j => decide (j.kind = k) && s.clocked && (s.core 0).mayEnd j && p j
  | none => false

theorem mayEnds {s : State} {ord : Nat} {k : JobKind} {p : Job → Bool} (e : ending s ord k p = true) : ∃ j, s.MayEnd 0 ord k j ∧ p j = true := by
  unfold ending at e
  split at e
  · next j h =>
    simp only [Bool.and_eq_true, decide_eq_true_eq] at e
    exact ⟨j, ⟨h, e.1.1.1, e.1.1.2, e.1.2⟩, e.2⟩
  · cases e

theorem isSomeWith {α : Type} {o : Option α} {p : α → Bool} (e : o.any p = true) : ∃ j, o = some j ∧ p j = true := by
  cases o with
  | none => cases e
  | some j => exact ⟨j, rfl, e⟩

/-- An issued instruction of stream 1 with nothing to signal. -/
def iss0 : Issued := ⟨1, 0, 0, [], none⟩

/-- Stream 1 of core 0 with fields set. -/
def str (s : State) (f : Stream → Stream) : State := s.setStream 0 1 (f (s.stream 0 1))

/-- A guard on turnstile 0 with its target not reached, then NOP. -/
def sWait : State := ((running (live []) [op 0x08 (2 ^ 29), 0]).wr (TS_TARGET 0) fTS_TARGET_TARGET 1).wr (SQ_WDOG 0) fSQ_WDOG_LIMIT 1 |>.wr (TIME_ZBEAT 0)
  fTIME_ZBEAT_BEAT 2

theorem witness_SequencerInstructionsThatLast :
    (∀ w ∈ [(0x01, op 0x01 0), (0x14, op 0x14 (coreMemSize - 8)), (0x20, op 0x20 (2 ^ 55)), (0x20, op 0x20 0), (0x20, op 0x20 (4095 * 2 ^ 43))],
      (one w.2).Issues 0 1 (hd w.2) ∧ opc (hd w.2).word = w.1)
    ∧ State.memCheck ((one (op 0x14 (coreMemSize - 8))).memAddr 0 1 (BitVec.ofNat 64 (op 0x14 (coreMemSize - 8)))) = none ∧ (one 0).node = 0
    ∧ (let s := str (one 0) fun x => { x with haltPend := some iss0 }
      (s.stream 0 1).halts = [] ∧ (s.stream 0 1).haltPend = some iss0 ∧ s.coreOn 0 = true ∧ s.stState 0 1 = stRun ∧ s.allDone 0 1 = true)
    ∧ (let s := str (one 0) fun x => { x with halts := [(9, iss0)] }
      (s.stream 0 1).halts = [(9, iss0)] ∧ (s.stream 0 1).haltPend = none ∧ (s.stream 0 1).slds = [] ∧ (s.core 0).jobs = [])
    ∧ (let s := str (one 0) fun x => { x with slds := [(31, 7, iss0)] }; (s.stream 0 1).slds.find? (fun l => l.1 = 31) = some (31, 7, iss0))
    ∧ (let s := str (one 0) fun x => { x with fnext := some 8 }; s.mayIssue 0 1 = true ∧ (s.stream 0 1).fnext = some 8 ∧ s.head 0 1 ≠ .absent)
    ∧ (sWait.mayIssue 0 1 = true ∧ sWait.head 0 1 = .ok ⟨8, some (BitVec.ofNat 64 (op 0x08 (2 ^ 29))), none, 0, 2⟩
      ∧ sWait.unmet (BitVec.ofNat 64 (op 0x08 (2 ^ 29))) = some 0 ∧ sWait.rd (SQ_WDOG 0) fSQ_WDOG_LIMIT ≠ 0
      ∧ (sWait.stream 0 1).since + sWait.rd (SQ_WDOG 0) fSQ_WDOG_LIMIT < sWait.zbeat 0)
    ∧ (let s := { State.reset with incs := [⟨0, 1, 0, 0⟩] }; s.incs[0]? = some ⟨0, 1, 0, 0⟩)
    ∧ (let s := str (one 0) fun x => { x with stopPend := true }
      s.coreOn 0 = true ∧ (s.stream 0 1).stopPend = true ∧ s.stState 0 1 = stRun) :=
  ⟨issues_all (s := one) (by decide), by decide, by decide, by decide, by decide, by decide, by decide, by decide, by decide, by decide⟩

theorem witness_RejectedAtIssue :
    (∀ w ∈ [(0x14, op 0x14 (coreMemSize - 7)), (0x14, op 0x14 1), (0x15, op 0x15 (coreMemSize - 7)), (0x15, op 0x15 1), (0x12, op 0x12 (13 * 2 ^ 36)),
      (0x18, op 0x18 (7 * 2 ^ 43)), (0x2A, op 0x2A (3 * 2 ^ 49))], (one w.2).Issues 0 1 (hd w.2) ∧ opc (hd w.2).word = w.1)
    ∧ (∀ o ∈ [0x14, 0x15], coreMemSize < (one 0).memAddr 0 1 (BitVec.ofNat 64 (op o (coreMemSize - 7))) + 8
      ∧ (one 0).memAddr 0 1 (BitVec.ofNat 64 (op o 1)) % 8 ≠ 0 ∧ (one 0).memAddr 0 1 (BitVec.ofNat 64 (op o 1)) + 8 ≤ coreMemSize)
    ∧ 13 ≤ bitsOf (BitVec.ofNat 64 (op 0x12 (13 * 2 ^ 36))) 39 36 ∧ bitsOf (BitVec.ofNat 64 (op 0x18 (7 * 2 ^ 43))) 45 43 = 7
    ∧ bitsOf (BitVec.ofNat 64 (op 0x2A (3 * 2 ^ 49))) 50 49 = 3 :=
  ⟨issues_all (s := one) (by decide), by decide, by decide, by decide, by decide⟩

theorem witness_ScalarResultsStand :
    ∀ w ∈ [(0x12, op 0x12 (12 * 2 ^ 36 + 31 * 2 ^ 51)), (0x10, op 0x10 (2 ^ 51)), (0x10, op 0x10 (2 ^ 50)), (0x2A, op 0x2A 0), (0x2A, op 0x2A (2 ^ 49)),
      (0x2A, op 0x2A (2 ^ 50))], (one w.2).Issues 0 1 (hd w.2) ∧ opc (hd w.2).word = w.1 := issues_all (s := one) (by decide)

theorem witness_TurnstileIncrement :
    ∀ e ∈ [0, 255], let x : IncMsg := ⟨16383, 2 ^ 24 - 1, e, 4095⟩; let s := { State.reset with incs := [x] }
      s.incs[0]? = some x ∧ x.ts < 16384 ∧ (s.rd (TS_STATE x.ts) fTS_STATE_EPOCH = x.stamp ↔ e = 0) ∧ x.stamp < 2 ^ 8 ∧ x.node < 2 ^ 12 := by decide

/-- The word of an SNCHK that names tally 0, whose trouble is a value that is not finite. -/
def wChk : Nat := op 0x45 (2 ^ 45)
def sTrouble : State := (((one (wChk + 2 ^ 8)).wr (TL_W_BLK 0 0) fTL_W_BLK_NF 1).wr (QC_CTRL 0) fQC_CTRL_EN 1).wr (QC_CTRL 0) fQC_CTRL_RMAX 1
def sReplay : State := (one (op 0x45 (2 ^ 55))).wr (QC_STATUS 0) (replayFld 1) 1

/-- The checks of an empty COPY or FILL pass. -/
def emptyMove (s : State) (k : Nat) : Bool :=
  let w := BitVec.ofNat 64 (op 0x60 0)
  let m := readMv s 0 1 w
  issuing s (hd w.toNat) && decide (m.check (descAddr s 0 1 w) w (s.on (DM_CTRL 0) fDM_CTRL_EN) = none) && decide (m.kind = k) && m.empty

theorem witness_EmptyAndControlInstructionsOfUnits :
    (let s := one (op 0x41 0); let w := BitVec.ofNat 64 (op 0x41 0)
      issuing s (hd (op 0x41 0)) = true ∧ firstCode [(engDisabled s 0 w, 0x07), ((mwldRanges w (pairArgs s 0 1 w)).any fun r => !rangeOk r.1 r.2, 0x08)] = none
        ∧ engs w = [])
    ∧ (let s := sMmul.setSreg 0 1 1 0; let w := BitVec.ofNat 64 wMmul
      issuing s (hd wMmul) = true ∧ mmulCheck s 0 1 w (pairArgs s 0 1 w ++ [s.sreg 0 1 (bitsOf w 41 37) % 2 ^ 32]) = none
        ∧ s.sreg 0 1 (bitsOf w 41 37) % 2 ^ 32 = 0)
    ∧ (let s := one wDrain; let w := BitVec.ofNat 64 wDrain
      issuing s (hd wDrain) = true ∧ drainCheck s 0 w (s.profile 0 (bitsOf w 49 47)) (drainArgs s 0 1 w) = none ∧ (drainArgs s 0 1 w).getD 5 0 = 0)
    ∧ (let s := one wAccld; let w := BitVec.ofNat 64 wAccld
      issuing s (hd wAccld) = true ∧ firstCode [(((s.core 0).tile (drTile w)).owner ≠ 0 && ((s.core 0).tile (drTile w)).owner ≠ 1, 0x06),
        (decide (capacity (bitsOf w 27 26) < bitsOf w 34 28 + (accldArgs s 0 1 w).getD 4 0), 0x11), (((s.core 0).tile (drTile w)).iCount ≠ 0, 0x12),
        (!s.on (DR_CTRL 0) fDR_CTRL_EN, 0x15), ((accldRanges w (accldArgs s 0 1 w)).any fun r => !rangeOk r.1 r.2, 0x16)] = none
        ∧ (accldArgs s 0 1 w).getD 4 0 = 0)
    ∧ (let s := (one wSs).wr (DM_SIDE 0 0) fDM_SIDE_CNT 1; let w := BitVec.ofNat 64 wSs
      issuing s (hd wSs) = true ∧ firstCode [((boundSlot (s.core 0) 1 (drEng w) (bitsOf w 53 50)).isSome, 0x22),
        (decide (capacity ((s.core 0).tile (drTile w)).iDepth < ssRow0 w + (ssArgs s 0 1 w).getD 4 0), 0x23), (ssCnt w ≠ s.rd (DM_SIDE 0 0) fDM_SIDE_CNT, 0x24),
        ((ssRanges w (ssArgs s 0 1 w)).any fun r => !rangeOk r.1 r.2, 0x25)] = none ∧ freeSlot (s.core 0) = some 0 ∧ (ssArgs s 0 1 w).getD 4 0 = 0)
    ∧ (∀ k ∈ [0, 2], emptyMove (prep (op 0x60 0) [] (withWords 0 [k * 2 ^ 60, 256, 512, 0, 2 ^ 48 + 2 ^ 32 + 2 ^ 16])) k = true)
    ∧ (∀ o ∈ [0x52, 0x53, 0x54, 0x55], vePasses (op o 0) 0 = true)
    ∧ (∀ w ∈ [(0x50, op 0x50 (2 ^ 50 + 16777215 * 2 ^ 26)), (0x51, op 0x51 0), (0x45, wChk)], (one w.2).Issues 0 1 (hd w.2) ∧ opc (hd w.2).word = w.1)
    ∧ (one 0).on (VE_CTRL 0) fVE_CTRL_EN = true ∧ trouble (one wChk) 0 1 (BitVec.ofNat 64 wChk) = 0
    ∧ (issuing sReplay (hd (op 0x45 (2 ^ 55))) = true ∧ sReplay.inReplay 0 1 = true ∧ trouble sReplay 0 1 (BitVec.ofNat 64 (op 0x45 (2 ^ 55))) = 0) :=
  ⟨by decide, by decide, by decide, by decide, by decide, by decide, by decide, issues_all (s := one) (by decide), by decide, by decide, by decide⟩

theorem witness_TroubleStartsReplay :
    let s := sTrouble; let h := hd (wChk + 2 ^ 8)
    s.Issues 0 1 h ∧ opc h.word = 0x45 ∧ bitsOf h.word 55 55 = 0 ∧ trouble s 0 1 h.word ≠ 0 ∧ s.inReplay 0 1 = false ∧ bitsOf h.word 23 8 ≠ 0
      ∧ s.on (QC_CTRL 0) fQC_CTRL_EN = true ∧ s.rd (QC_STATUS 0) fQC_STATUS_RCOUNT < s.rd (QC_CTRL 0) fQC_CTRL_RMAX :=
  ⟨issues (by decide), by decide, by decide, by decide, by decide, by decide, by decide, by decide⟩

/-- A DRAIN through the hook with one row of one column, before and after its row. -/
def sHook : State := nx (execDrain 0 1 ((sDrain.wr (DR_PROF_A 0 0) fDR_PROF_A_ACT 6).wr (VE_SLOT_CFG 0 0) fVE_SLOT_CFG_LEN 1))
def sHooked : State := sHook.setJob 0 1 fun j => { j with rows := [[0]] }
def sMoving : State := nx (execDmovCopy 0 1 (sMove 0))

/-- A copy of one element to the hall of a node. -/
def sHall (node : Nat) : State := nx (execDmovCopy 0 1 (prep (op 0x60 0) [] (withWords 0 [2 ^ 10, 256, node * 2 ^ 52, 0, 2 ^ 48 + 2 ^ 32 + 2 ^ 16 + 1])))
def sAway : State := sHall 1

theorem witness_UnitsFinishInstructions :
    (∃ j, (nx (execMwld 0 1 (one wMwld))).MayEnd 0 1 .mwld j ∧ true = true)
    ∧ (∃ j, (nx (execMmul 0 1 sMmul)).MayEnd 0 1 .mmul j ∧ j.prog.isEmpty = true)
    ∧ (∃ j, (nx (execAccld 0 1 (prep wAccld [(1, 1)] id))).MayEnd 0 1 .accld j ∧ true = true)
    ∧ (∃ j, sHooked.MayEnd 0 1 .drain j ∧ (decide ((jobProfile j).act = 6) && decide (j.rows.length = j.args.getD 5 0) && decide (j.iss.stream = 1)) = true)
    ∧ (∃ j, (nx (execDrain 0 1 sDrain)).MayEnd 0 1 .drain j ∧ (decide ((jobProfile j).act ≠ 6) && decide (j.iss.stream = 1)) = true)
    ∧ (∃ j, (nx (execSsmul 0 1 sSs)).MayEnd 0 1 .ssmul j ∧ true = true)
    ∧ (∃ j, (nx (execVcvt 0 1 (sVe (op 0x53 0) 1))).MayEnd 0 1 .ve j ∧ true = true)
    ∧ (∃ j, sMoving.MayEnd 0 1 .dmov j ∧ (State.Job.ready j && !j.sent && (runMove sMoving 0 j none).bad.isNone && (runMove sMoving 0 j none).outs.isEmpty) = true)
    ∧ (∃ j, (sMoving.setJob 0 1 fun j => { j with sent := true }).MayEnd 0 1 .dmov j ∧ (State.Job.ready j && j.sent) = true)
    ∧ ∃ j, sAway.MayEnd 0 1 .dmov j ∧ (State.Job.ready j && !j.sent && (runMove sAway 0 j none).bad.isNone && !(runMove sAway 0 j none).outs.isEmpty) = true :=
  ⟨mayEnds (p := fun _ => true) (by decide), mayEnds (p := fun j => j.prog.isEmpty) (by decide), mayEnds (p := fun _ => true) (by decide),
    mayEnds (p := fun j => decide ((jobProfile j).act = 6) && decide (j.rows.length = j.args.getD 5 0) && decide (j.iss.stream = 1)) (by decide),
    mayEnds (p := fun j => decide ((jobProfile j).act ≠ 6) && decide (j.iss.stream = 1)) (by decide), mayEnds (p := fun _ => true) (by decide),
    mayEnds (p := fun _ => true) (by decide),
    mayEnds (p := fun j => State.Job.ready j && !j.sent && (runMove sMoving 0 j none).bad.isNone && (runMove sMoving 0 j none).outs.isEmpty) (by decide),
    mayEnds (p := fun j => State.Job.ready j && j.sent) (by decide),
    mayEnds (p := fun j => State.Job.ready j && !j.sent && (runMove sAway 0 j none).bad.isNone && !(runMove sAway 0 j none).outs.isEmpty) (by decide)⟩

/-- A move that has failed, and a DMOV that reads ahead from the stack tier, guarded by launch tick 2. -/
def sFailed : State := sMoving.setJob 0 1 fun j => { j with fail := some 255 }
def gTick : Nat := op 0x08 (2 ^ 55 + 2 * 2 ^ 48)
def sProbe : State :=
  (((running (live []) [gTick, op 0x60 0]).modCore 0 (withWords 0 [2 ^ 20 + 2 ^ 11, 256, 512, 0, 2 ^ 48 + 2 ^ 32 + 2 ^ 16 + 1])).wr (DM_CTRL 0) fDM_CTRL_RATICKS 2).wr
    TIME_STATUS fTIME_STATUS_ACQ 1
def prb (t : Option Nat) : Probe := ⟨1, 8, t, 2, [256], 0, []⟩

theorem witness_HookRowsMovesAndProbes :
    (hookRoundNow (sHook.core 0) = [0] ∧ (∃ j, hookJob (sHook.core 0) 0 = some j ∧ true = true) ∧ sHook.clocked = true ∧ sHook.coreOn 0 = true)
    ∧ (∃ j, sFailed.job 0 1 = some j ∧ (decide (j.kind = .dmov) && decide (j.fail = some 255) && decide (j.iss.stream = 1)) = true)
    ∧ (∃ j, (sMoving.setJob 0 1 fun j => { j with trans := .failed 255 }).job 0 1 = some j
        ∧ (decide (j.kind = .dmov) && decide (j.fail = none) && decide (j.trans = .failed 255)) = true)
    ∧ (∃ j, (sHall 0).MayEnd 0 1 .dmov j ∧ (decide (j.fail = none) && decide (j.trans = .none) && State.Job.ready j && !j.sent
        && (runMove (sHall 0) 0 j none).bad.isSome) = true)
    ∧ (let s := sProbe; let w := BitVec.ofNat 64 (op 0x60 0); let g := BitVec.ofNat 64 gTick
      fetched (s.stream 0 1).fbuf 8 = some (some g, w) ∧ (readMv s 0 1 w).ra = true ∧ s.rd (DM_CTRL 0) fDM_CTRL_RATICKS ≠ 0
        ∧ s.on TIME_STATUS fTIME_STATUS_ACQ = true ∧ bitsOf g 55 55 = 1 ∧ s.tickStart (s.launchTick 0 1 g - s.rd (DM_CTRL 0) fDM_CTRL_RATICKS) ≤ s.zbeat 0
        ∧ s.coreOn 0 = true ∧ s.stState 0 1 = stRun ∧ (s.core 0).probes = []
        ∧ (readMv s 0 1 w).check (descAddr s 0 1 w) w (s.on (DM_CTRL 0) fDM_CTRL_EN) = none ∧ (readMv s 0 1 w).empty = false
        ∧ (probeRanges s (readMv s 0 1 w)).isSome = true)
    ∧ ∀ t ∈ [none, some 0], let s := ((live []).modCore 0 fun c => { c with probes := [prb t] }).wr (TIME_ZBEAT 0) fTIME_ZBEAT_BEAT 3000
      prb t ∈ (s.core 0).probes ∧ (∀ x ∈ t, s.tickStart (x + 1) ≤ s.zbeat 0) ∧ 2 ≤ (prb t).seen :=
  ⟨⟨by decide, isSomeWith (p := fun _ => true) (by decide), by decide, by decide⟩, isSomeWith (p := fun j : Job => decide (j.kind = .dmov) && decide (j.fail = some 255) && decide (j.iss.stream = 1)) (by decide),
    isSomeWith (p := fun j : Job => decide (j.kind = .dmov) && decide (j.fail = none) && decide (j.trans = .failed 255)) (by decide),
    mayEnds (p := fun j => decide (j.fail = none) && decide (j.trans = .none) && State.Job.ready j && !j.sent && (runMove (sHall 0) 0 j none).bad.isSome)
      (by decide), by decide, by decide⟩

/-- A packet of a type with data, from node 1 to node 0. -/
def pkt (typ : Nat) (data : List Nat) : Packet := ⟨typ, 4, 0, true, false, 0, 0, 0, 1, 0, 0, 0, 0, data.length, 0, 0, 0, 0, 0, 0, data⟩

/-- Port 0 is UP. -/
def upFields : List (Nat × Fld × Nat) := [(FP_STATUS 0 0, fFP_STATUS_STATE, psUp), (FAB_STATUS, fFAB_STATUS_UP, 1)]

theorem witness_TimeClockAndReplicas :
    ∀ n ∈ [0, 1], let s := (live []).modTime fun t => { t with running := true, frozen := n, frac := 2 ^ 32 - 1 };
      s.pending = [] ∧ s.time.running = true ∧ (s.time.frozen = 0 ↔ n = 0) ∧ s.time.frac < 2 ^ 32 ∧ s.rd TIME_SERVO fTIME_SERVO_RATE = 0 := by decide

/-- A segment of 2000 beats from beat 0 on, at beat 2000, and a pending one at beat 0. -/
def sTick : State := live [(TIME_STATUS, fTIME_STATUS_GATE, 0), (TIME_SEG_LEN, fTIME_SEG_LEN_LEN, 2000), (TIME_ZBEAT 11, fTIME_ZBEAT_BEAT, 2000)]
def sPend : State := live [(TIME_PEND_TICK, fTIME_PEND_TICK_VALID, 1), (TIME_PEND_BEAT, fTIME_PEND_BEAT_BEAT, 5), (TIME_BEAT, fTIME_BEAT_BEAT, 5)]

theorem witness_TicksAndSegments :
    (sTick.rm.openAt = none ∧ sTick.gateOpen = true ∧ sTick.rawTick (sTick.rd (TIME_ZBEAT 11) fTIME_ZBEAT_BEAT) = some 1 ∧ sget 0 11 sTick.time.zseen ≤ 1)
    ∧ (sPend.on TIME_PEND_TICK fTIME_PEND_TICK_VALID = true ∧ sPend.rd TIME_PEND_BEAT fTIME_PEND_BEAT_BEAT ≤ sPend.beat)
    ∧ (sPend.wr TIME_BEAT fTIME_BEAT_BEAT 4).beat < sPend.rd TIME_PEND_BEAT fTIME_PEND_BEAT_BEAT
    ∧ State.reset.on TIME_PEND_TICK fTIME_PEND_TICK_VALID = false := by decide

def sTrsp (wait : Bool) : State := ((live upFields).setEnrol 2).modTime fun t => { t with treqNo := 0, treqOut := [(0, 9)], originWait := wait }

theorem witness_TimeExchangeRows :
    (let s := (live ((TIME_PARENT, fTIME_PARENT_VALID, 1) :: (TIME_PARENT, fTIME_PARENT_NODE, 0) :: upFields)).setEnrol 2;
      s.on TIME_STATUS fTIME_STATUS_ROOT = false ∧ s.enrolled = 2 ∧ s.on TIME_PARENT fTIME_PARENT_VALID = true ∧ s.parentPorts = [0])
    ∧ (let s := ((live upFields).setEnrol 3).modTime fun t => { t with originWait := true };
      s.on TIME_STATUS fTIME_STATUS_ROOT = false ∧ s.enrolled = 3 ∧ s.on TIME_PARENT fTIME_PARENT_VALID = false ∧ s.time.originWait = true ∧ s.anyPortUp = true)
    ∧ (let s := (live upFields).setEnrol 2; s.portState 0 = psUp ∧ 2 ≤ s.enrolled ∧ (pkt 0x20 []).hops = 0 ∧ (pkt 0x20 []).typ = 0x20)
    ∧ (∀ wait ∈ [false, true], let s := sTrsp wait; let p := pkt 0x21 (List.replicate 16 0 ++ [1, 0, 0, 0, 0, 0, 0, 0]); let x := s.takeRx 0 p;
      s.portState 0 = psUp ∧ 2 ≤ s.enrolled ∧ p.hops = 0 ∧ p.typ = 0x21 ∧ x.time.treqOut.find? (fun q => q.1 = 0) = some (0, 9) ∧ p.addr % 2 ^ 32 = x.time.treqNo
        ∧ ofLeBytes ((p.data.drop 16).take 8) % 2 = 1 ∧ x.time.originWait = wait
        ∧ x.on TIME_PARENT fTIME_PARENT_VALID = false)
    ∧ (((sTrsp false).takeRx 1 (pkt 0x21 [])).time.treqOut.find? fun q => q.1 = 1) = none
    ∧ ofLeBytes (((pkt 0x21 []).data.drop 16).take 8) % 2 = 0 := by decide

/-- A package that follows a beat and has missed a number of exchanges. -/
def missed (n hold : Nat) : State :=
  (live [(TIME_STATUS, fTIME_STATUS_ACQ, 1), (TIME_STATUS, fTIME_STATUS_HOLDOVER, hold), (TIME_SERVO_CFG, fTIME_SERVO_CFG_HOLD_MAX, 10)]).modTime
    fun t => { t with stale := n }

theorem witness_HoldoverAndOrigin :
    (let s := missed 6 0; s.on TIME_STATUS fTIME_STATUS_ROOT = false ∧ s.on TIME_STATUS fTIME_STATUS_HOLDOVER = false ∧ s.time.stale + 1 < 8)
    ∧ (let s := (live []).modTime fun t => { t with stale := 7 };
      s.on TIME_STATUS fTIME_STATUS_ROOT = false ∧ s.on TIME_STATUS fTIME_STATUS_ACQ = false ∧ s.on TIME_STATUS fTIME_STATUS_HOLDOVER = false ∧ 8 ≤ s.time.stale + 1)
    ∧ (let s := missed 7 0;
      s.on TIME_STATUS fTIME_STATUS_ROOT = false ∧ s.on TIME_STATUS fTIME_STATUS_ACQ = true ∧ s.on TIME_STATUS fTIME_STATUS_HOLDOVER = false
        ∧ 8 ≤ s.time.stale + 1 ∧ s.time.stale + 1 < s.rd TIME_SERVO_CFG fTIME_SERVO_CFG_HOLD_MAX)
    ∧ (let s := missed 9 1;
      s.on TIME_STATUS fTIME_STATUS_ROOT = false ∧ s.on TIME_STATUS fTIME_STATUS_ACQ = true ∧ s.on TIME_STATUS fTIME_STATUS_HOLDOVER = true
        ∧ s.rd TIME_SERVO_CFG fTIME_SERVO_CFG_HOLD_MAX ≤ s.time.stale + 1)
    ∧ (let s := (live []).modTime fun t => { t with originWait := true };
      s.time.originWait = true ∧ s.on TIME_PARENT fTIME_PARENT_VALID = false) := by decide

theorem witness_DroopsAndEpisodes :
    (let s := live [(PWR_DROOP_CFG, fPWR_DROOP_CFG_DTHR1, 20), (PWR_DROOP_CFG, fPWR_DROOP_CFG_DTHR2, 40)];
      s.rd PWR_DROOP_CFG fPWR_DROOP_CFG_DTHR1 ≤ 20 ∧ s.rd PWR_DROOP_CFG fPWR_DROOP_CFG_DTHR2 ≤ 40)
    ∧ (noRealign (live [(TIME_STATUS, fTIME_STATUS_GLIDE, 1)]) 11 = true ∧ noRealign (live [(TIME_XING 15, fTIME_XING_SYNC, 1)]) 11 = false)
    ∧ (live [(TIME_ZSTAT 11, fTIME_ZSTAT_EPISODE, 1)]).on (TIME_ZSTAT 11) fTIME_ZSTAT_EPISODE = true
    ∧ (let s := live [(TIME_XING 15, fTIME_XING_SYNC, 1), (TIME_ZSTAT (crossingZones 15).2, fTIME_ZSTAT_EPISODE, 1)];
      s.on (TIME_XING 15) fTIME_XING_SYNC = true ∧ s.on (TIME_ZSTAT (crossingZones 15).2) fTIME_ZSTAT_EPISODE = true)
    ∧ (let s := live [(TIME_XING 15, fTIME_XING_SYNC, 0)];
      s.on (TIME_XING 15) fTIME_XING_SYNC = false ∧ s.on (TIME_XING 15) fTIME_XING_STUCK = false ∧ s.on TIME_STATUS fTIME_STATUS_GLIDE = false
        ∧ s.on TIME_CTRL fTIME_CTRL_ALIGN = false ∧ s.on (TIME_ZSTAT (crossingZones 15).1) fTIME_ZSTAT_EPISODE = false
        ∧ s.on (TIME_ZSTAT (crossingZones 15).2) fTIME_ZSTAT_EPISODE = false) := by decide

/-- A frequency change asked for from code 24. -/
def sGlide (c : Nat) : State :=
  (live [(TIME_STATUS, fTIME_STATUS_GLIDE, 1), (TIME_FREQ, fTIME_FREQ_CODE, 24), (TIME_FREQ, fTIME_FREQ_TARGET, c)]).modTime fun t =>
    { t with legFrom := 24000 }

theorem witness_GlidesAndAgeing :
    (∀ c ∈ [25, 24], let s := sGlide c;
      s.on TIME_STATUS fTIME_STATUS_GLIDE = true ∧ s.time.gliding = false ∧ s.coreOn 287 = true
        ∧ (s.codeNow < 1000 * s.rd TIME_FREQ fTIME_FREQ_TARGET ↔ c = 25))
    ∧ ((live []).modTime fun t => { t with gliding := true }).time.gliding = true
    ∧ ((live []).coreOn 287 = true ∧ (live []).rd (CAP_STATE 287) fCAP_STATE_AGE_LOSS + 5 ≤ 5 ∧ 4 < (live []).rd (CAP_STATE 287) fCAP_STATE_AGE_LOSS + 5)
    ∧ (live []).on (TIME_XING 15) fTIME_XING_STUCK = false := by decide

/-- Stack site 0 with one channel of 4 GiB, die 0 with one peat channel, the far window of I/O die 1; the directory lies elsewhere. -/
def memFields : List (Nat × Fld × Nat) :=
  [(MEM_STATUS 0, fMEM_STATUS_STATE, 2), (MEM_RANGE 0, fMEM_RANGE_BYTES, 2 ^ 32), (MEM_CH_LIVE 0, fMEM_CH_LIVE_MAP, 1),
    (PT_RANGE 0, fPT_RANGE_BYTES, 2 ^ 32), (PT_STATUS 0, fPT_STATUS_STATE, 2), (PT_CH_INFO 0 0, fPT_CH_INFO_CAP, 1),
    (TIER_FAR 0, fTIER_FAR_UP, 1), (TIER_FAR 0, fTIER_FAR_RANGE, 2 ^ 28), (DIR_BASE, fDIR_BASE_BASE, 4)]

def sMem : State := live memFields

/-- The last line of site 0's range, and the last byte of the line before it. -/
def lastLine : Nat := 2 ^ 32 - 64
def twoLines : Nat := 2 ^ 32 - 65

theorem witness_StackWritesStoreTheirBytes :
    sMem.hostUp = true ∧ twoLines + 2 ≤ bar2Size ∧ (∀ k, k < 2 → sMem.stackGate (twoLines + k) = rsOk) ∧ (∀ k, k < 2 → sMem.inDirRange (twoLines + k) = false)
      ∧ sMem.bar2Off twoLines = twoLines := by decide

theorem witness_StackReadsAnswerAndCorrect :
    (sMem.hostUp = true ∧ 0 < 2 ∧ twoLines + 2 ≤ bar2Size ∧ (∀ k, k < 2 → sMem.stackGate (twoLines + k) = rsOk)
      ∧ (∀ k, k < 2 → sMem.lineErrs ((twoLines + k) / 2 ^ 38) ((twoLines + k) % 2 ^ 38 / 64) = []) ∧ sMem.bar2Off twoLines = twoLines ∧ sMem.mem.cache = [])
    ∧ (let s := (sMem.disturb 0 (lastLine / 64) [(67, 255)]).wr (MEM_CTRL 0) fMEM_CTRL_CEN 0;
      lastLine % 64 = 0 ∧ s.stackGate lastLine = rsOk ∧ s.cen (lastLine / 2 ^ 38) = false
        ∧ s.lineErrs (lastLine / 2 ^ 38) (lastLine % 2 ^ 38 / 64) = [(67, 255)]) := by decide

theorem witness_AtomicsReturnTheOldValue :
    sMem.hostUp = true ∧ (∀ n ∈ [4, 8], 56 + n ≤ bar2Size ∧ 56 % n = 0 ∧ sMem.bar2Off 56 = 56)
      ∧ ∀ k ∈ [0, 1, 2, 3, 4, 5, 6, 7], sMem.stackGate (56 + k) = rsOk ∧ sMem.lineErrs ((56 + k) / 2 ^ 38) ((56 + k) % 2 ^ 38 / 64) = []
        ∧ sMem.inDirRange (56 + k) = false :=
  ⟨by decide, by decide, by decide⟩

theorem witness_FailedAccessesChangeNothing :
    sMem.stackGate (2 ^ 32) ≠ rsOk ∧ (2 ^ 32) % 8 = 0 ∧ sMem.inDirRange (2 ^ 28) = true ∧ sMem.stackGate (2 ^ 28) = rsOk ∧ (2 ^ 28) % 8 = 0
      ∧ (∀ a ∈ [0, 2 ^ 41 - 1], a / 2 ^ 40 < 2 ∧ 290 ≠ 291 ∧ 290 ≠ 288 + a / 2 ^ 40)
      ∧ sMem.hostUp = true ∧ 2 ^ 32 + 1 ≤ bar2Size ∧ sMem.stackGate (sMem.bar2Off (2 ^ 32)) ≠ rsOk := by decide

theorem witness_PeatAndFarAccesses :
    (∀ k, k < 2 → sMem.peatGate 0 (twoLines + k) = rsOk)
      ∧ (let s := sMem.modMem fun m => { m with known := [lineKey 10 (twoLines / 64), lineKey 10 (lastLine / 64)] };
        ∀ k, k < 2 → s.peatGate 0 (twoLines + k) = rsOk ∧ s.mem.known.contains (lineKey 10 ((twoLines + k) / 64)) = true
          ∧ s.poisoned 10 ((twoLines + k) / 64) = false ∧ s.lineErrs 10 ((twoLines + k) / 64) = [])
      ∧ ∀ k, k < 2 → sMem.farGate (2 ^ 28 - 2 + k) = rsOk ∧ (2 ^ 28 - 2 + k) / 64 ∉ sMem.mem.farBad := by decide

theorem witness_MemoryReports :
    (sMem.siteState 0 ≠ 0 ∧ sMem.siteState 0 ≠ 4 ∧ sMem.siteRange 0 ≠ 0 ∧ sMem.rd (MEM_CH 0 31) fMEM_CH_STATE = 0)
      ∧ (sMem.dieRange 0 ≠ 0 ∧ sMem.rd (PT_CH_INFO 0 3) fPT_CH_INFO_STATE = 0) ∧ sMem.rd (PT_CH_INFO 0 0) fPT_CH_INFO_CAP ≠ 0 := by decide

def lineA (probe : Option (Nat × Nat × Nat)) : CacheLine := ⟨0, 5, .ordinary, probe, List.replicate 64 0⟩

theorem witness_FillsScrubsCompactions :
    (let s := sMem.modMem fun m => { m with fills := [lineA none] };
      s.mem.fills[0]? = some (lineA none) ∧ (lineA none).probe = none ∧ (lineA none).kind = .ordinary ∧ s.cached 0 5 = none
        ∧ (s.mem.cache.filter fun x => x.inSet 0 5).length < 16)
    ∧ (sMem.modMem fun m => { m with cache := [lineA none] }).cached 0 5 ≠ none
    ∧ (let s := sMem.modMem fun m => { m with fills := [lineA (some (287, 3, 8))] };
      s.mem.fills[0]? = some (lineA (some (287, 3, 8))) ∧ s.cached 0 5 = none ∧ eccDecode (s.lineErrs 0 5) = .clean)
    ∧ (let s := ((sMem.disturb 0 (2 ^ 26 - 1) [(67, 255)]).modMem fun m => { m with scrubAt := [(0, 2 ^ 26 - 1)] }).wr (MEM_SCRUB 0) fMEM_SCRUB_PERIOD 1;
      s.siteRange 0 ≠ 0 ∧ s.rd (MEM_SCRUB 0) fMEM_SCRUB_PERIOD ≠ 0 ∧ s.on (MEM_STATUS 0) fMEM_STATUS_COMPACTING = false ∧ sget 0 0 s.mem.scrubAt = 2 ^ 26 - 1
        ∧ s.stackGate (0 * 2 ^ 38 + (2 ^ 26 - 1) * 64) = rsOk ∧ s.lineErrs 0 (2 ^ 26 - 1) = [(67, 255)])
    ∧ (let s := ((sMem.disturb 10 (2 ^ 26 - 1) [(9, 1)]).modMem fun m =>
        { m with scrubAt := [(10, 2 ^ 26 - 1)], known := [lineKey 10 (2 ^ 26 - 1)] }).wr (PT_SCRUB 0) fPT_SCRUB_PERIOD 1;
      s.dieRange 0 ≠ 0 ∧ s.rd (PT_SCRUB 0) fPT_SCRUB_PERIOD ≠ 0 ∧ s.on (PT_STATUS 0) fPT_STATUS_COMPACTING = false ∧ sget 0 10 s.mem.scrubAt = 2 ^ 26 - 1
        ∧ s.peatGate 0 ((2 ^ 26 - 1) * 64) = rsOk ∧ s.mem.known.contains (lineKey 10 (2 ^ 26 - 1)) = true ∧ s.poisoned 10 (2 ^ 26 - 1) = false
        ∧ (s.lineErrs 10 (2 ^ 26 - 1)).length = 1)
    ∧ (let s := (sMem.wr (MEM_STATUS 0) fMEM_STATUS_COMPACTING 1).wr DIR_BASE fDIR_BASE_BASE (2 ^ 12);
      s.on (MEM_STATUS 0) fMEM_STATUS_COMPACTING = true ∧ s.dirOff 0 / 2 ^ 38 ≠ 0) := by decide

/-- Beat 3,000,000 of a package, past every tier's timeout from beat 0. -/
def atBeat (s : State) : State := s.wr TIME_BEAT fTIME_BEAT_BEAT 3000000

/-- A move or a remote increment that has waited since beat 0, changed as given. -/
def sWaits (f : Job → Job) : State := atBeat (sMoving.setJob 0 1 f)
def away : MoveReq := ⟨0, 2 ^ 52, 64, false, 0⟩
def walk0 : State := atBeat ((live (memFields ++ [(DIR_BASE, fDIR_BASE_BASE, 0)])).modDir fun d => { d with walks := [2 ^ 20 - 1] })

theorem witness_TranslationsAndTimeouts :
    (2 ^ 20 - 1 ∈ walk0.dir.walks ∧ 2 ^ 20 - 1 ∉ walk0.dir.queue ∧ walk0.outran 0 (sget 0 (2 ^ 20 - 1) walk0.dir.walkAt) = true
      ∧ walk0.dirEnt (2 ^ 20 - 1) = none ∧ walk0.dir.cache = []
      ∧ ∀ k ∈ [0, 63], walk0.stackGate (walk0.dirOff (2 ^ 20 - 1) + k) = rsOk
        ∧ walk0.lineErrs ((walk0.dirOff (2 ^ 20 - 1) + k) / 2 ^ 38) ((walk0.dirOff (2 ^ 20 - 1) + k) % 2 ^ 38 / 64) = [])
    ∧ (let s := sWaits fun j => { j with kind := .remInc, reqs := [away] };
      ∃ j, s.job 0 1 = some j ∧ (decide (j.iss.stream = 1) && decide (j.kind = .remInc) && j.reqs.any fun q => s.outran 3 q.at_) = true)
    ∧ (let s := sWaits fun j => { j with trans := .moving 9 0 };
      ∃ j, s.job 0 1 = some j ∧ (decide (j.kind = .dmov) && decide (j.trans = .moving 9 0) && decide (waitTier s 9 = 0) && s.outran 0 0) = true)
    ∧ (let s := sWaits fun j => { j with reqs := [away] };
      ∃ j, s.job 0 1 = some j ∧ (decide (j.kind = .dmov) && decide (j.trans = .none) && j.reqs.any fun q => s.outran 3 q.at_) = true)
    ∧ (∃ j, (atBeat (sHall 0)).job 0 1 = some j ∧ (decide (j.kind = .dmov) && decide (j.trans = .none) && State.Job.ready j && !j.sent
        && (moveTiersOf (atBeat (sHall 0)) j).contains 0 && (atBeat (sHall 0)).outran 0 j.since) = true)
    ∧ (let s := atBeat ((live []).modUd 1 fun u => { u with emits := [⟨9, none, 0, 16383, [away], false, false, 0, 0⟩] });
      s.udWaits 1 0 = true ∧ away ∈ s.udReqs 1 ∧ away.tag = 0 ∧ s.outran 3 away.at_ = true) :=
  ⟨by decide, isSomeWith (p := fun j : Job => decide (j.iss.stream = 1) && decide (j.kind = .remInc) && j.reqs.any fun q =>
      (sWaits fun j => { j with kind := .remInc, reqs := [away] }).outran 3 q.at_) (by decide),
    isSomeWith (p := fun j : Job => decide (j.kind = .dmov) && decide (j.trans = .moving 9 0)
      && decide (waitTier (sWaits fun j => { j with trans := .moving 9 0 }) 9 = 0) && (sWaits fun j => { j with trans := .moving 9 0 }).outran 0 0) (by decide),
    isSomeWith (p := fun j : Job => decide (j.kind = .dmov) && decide (j.trans = .none) && j.reqs.any fun q =>
      (sWaits fun j => { j with reqs := [away] }).outran 3 q.at_) (by decide),
    isSomeWith (p := fun j : Job => decide (j.kind = .dmov) && decide (j.trans = .none) && State.Job.ready j && !j.sent
      && (moveTiersOf (atBeat (sHall 0)) j).contains 0 && (atBeat (sHall 0)).outran 0 j.since) (by decide), by decide⟩

/-- An entry in flight of a kind (10 R283), with its work done or not. -/
def ent0 (kind addr cls : Nat) (ran : Bool) : UdEnt := ⟨3, [kind * 2 ^ 60, addr], [], 1, 0, cls, [], [], none, ran, false, 0⟩

/-- Update die 1 of a package with memory, walking, with fields of its state set. -/
def sUd (f : UdSt → UdSt) : State :=
  (live (memFields ++ [(UD_STATUS 1, fUD_STATUS_WALKING, 1), (PT_RANGE 1, fPT_RANGE_BYTES, 2 ^ 32), (PT_STATUS 1, fPT_STATUS_STATE, 2)])).modUd 1 f

def withEnt (e : UdEnt) : State := sUd fun u => { u with ents := [e] }

theorem witness_WalksOfUpdateDies :
    (let s := (live [(UD_CTRL 1, fUD_CTRL_EN, 1), (UD_STATUS 1, fUD_STATUS_LINK_UP, 1)]).modUd 1 fun u => { u with auto := true };
      (s.ud 1).auto = true ∧ s.on (UD_CTRL 1) fUD_CTRL_EN = true ∧ s.on (UD_STATUS 1) fUD_STATUS_LINK_UP = true
        ∧ s.on (UD_STATUS 1) fUD_STATUS_WALKING = false ∧ s.on (UD_STATUS 1) fUD_STATUS_HOLDING = false)
    ∧ (∀ b ∈ [false, true], let s := sUd fun u => { u with stop := b };
      s.on (UD_STATUS 1) fUD_STATUS_WALKING = true ∧ (s.ud 1).ents = [] ∧ (s.ud 1).stop = b ∧ s.rm.rearm = none
        ∧ s.rd (UD_LISTBASE 1) fUD_LISTBASE_LEN ≤ s.rd (UD_STATUS 1) fUD_STATUS_ENTRY ∧ (s.ud 1).held = [] ∧ s.sched.gbinds = [])
    ∧ ((sUd fun u => { u with held := [⟨0, 0, 1, 0, false⟩] }).ud 1).held ≠ []
    ∧ (let x := { ent0 0 0 0 true with resolved := true }; let s := withEnt x;
      s.ent 1 3 = some x ∧ x.resolved = true ∧ x.reqs = [] ∧ s.rm.rearm = none ∧ (s.ud 1).emits = []) := by decide

/-- Die 1 walks with EN and its link up; entry 0 of its list, at offset 0 of its modules, is a NORM_OUT of group 0. -/
def sOpen : State :=
  ((live (memFields ++ [(UD_CTRL 1, fUD_CTRL_EN, 1), (UD_STATUS 1, fUD_STATUS_LINK_UP, 1), (UD_STATUS 1, fUD_STATUS_WALKING, 1), (PT_RANGE 1, fPT_RANGE_BYTES, 2 ^ 32),
    (PT_STATUS 1, fPT_STATUS_STATE, 2), (UD_LISTBASE 1, fUD_LISTBASE_LEN, 1)]))).modMem fun m =>
      { m with known := [lineKey 11 0], peat := memStore [] (2 ^ 40) (leBytes 8 (2 * 2 ^ 60)) }

theorem witness_EntriesRunWhenTheirDataAreThere :
    (∀ k ∈ [0, 1, 2, 3], let x := ent0 k 0 0 false;
      (withEnt x).ent 1 3 = some x ∧ x.reqs = [] ∧ x.ran = false ∧ leKind x.words = k ∧ (withEnt x).accWaits 1 x = false)
    ∧ (let x := ent0 0 0 0 true; (withEnt x).ent 1 3 = some x ∧ x.ran = true)
    ∧ (let x := ent0 1 0 0 false; let s := sUd fun u => { u with ents := [{ x with idx := 2 }, x] }; s.ent 1 3 = some x ∧ s.accWaits 1 x = true)
    ∧ (sUd id).ent 1 0 = none ∧ (∀ k ∈ [0, 1, 2, 3], ((sUd id).startEntry 1 0 k).ent 1 0 = none)
    ∧ (State.reset.walkOpen 1 = false ∧ sOpen.rd (UD_STATUS 1) fUD_STATUS_ENTRY ≠ 1 ∧ sOpen.rd (UD_LISTBASE 1) fUD_LISTBASE_LEN ≤ 1)
    ∧ (sOpen.walkOpen 1 = true ∧ sOpen.rd (UD_STATUS 1) fUD_STATUS_ENTRY = 0 ∧ 0 < sOpen.rd (UD_LISTBASE 1) fUD_LISTBASE_LEN
      ∧ (sOpen.readEntry 1 0).2.any (fun e => decide (leKind e = 2) && !(sOpen.readEntry 1 0).1.heldEntry 1 e) = true)
    ∧ (let x : UdXfer := ⟨1, true, false, 0, 0, .none, false, [], [], none, 0⟩; ((sUd fun u => { u with xfers := [x] }).ud 1).xfers = x :: [])
    ∧ ((live []).ud 1).xfers = [] := by
  refine ⟨by decide, by decide, by decide, by decide, by decide, by decide, by decide, by decide, by decide⟩

/-- An update of entry 3 that has run, of a record in place or not, whose commit word has been written. -/
def entRan (inplace : Nat) : UdEnt := { ent0 0 0 0 true with rcd := [0, 0, 0, 0, inplace * 2 ^ 31] }
def sRan (inplace : Nat) : State := (withEnt (entRan inplace)).modMem fun m => { m with known := [lineKey 11 0] }

theorem witness_EffectsOfEntries :
    (∀ i ∈ [0, 1], let x := entRan i; let s := sRan i; let a := s.recAddr 1 (leUlx x.words);
      s.ent 1 3 = some x ∧ leKind x.words = 0 ∧ x.ran = true ∧ x.resolved = false ∧ (rcInplace x.rcd = true ↔ i = 1) ∧ s.jnlRoom = true
        ∧ s.ckptReading 1 (leUlx x.words) = false
        ∧ ∀ k, k < 8 → s.peatGate 1 (a + k) = rsOk ∧ s.poisoned 11 ((a + k) / 64) = false ∧ s.peatKnown 1 ((a + k) / 64) = true
          ∧ s.lineErrs 11 ((a + k) / 64) = [])
    ∧ (let x := ent0 2 0 0 false; (withEnt x).ent 1 3 = some x ∧ leKind x.words = 2 ∧ x.reqs = [] ∧ x.ran = false ∧ leGrp x.words < 64)
    ∧ (let x := ent0 3 0 0 false; let s := withEnt x;
      s.ent 1 3 = some x ∧ leKind x.words = 3 ∧ x.reqs = [] ∧ x.ran = false ∧ x.fail = none ∧ (s.udTouch [(leAddr x.words, 32)]).2 = none)
    ∧ (let x := ent0 0 0 clTorn false;
      (withEnt x).ent 1 3 = some x ∧ leKind x.words = 0 ∧ x.reqs = [] ∧ x.ran = false ∧ x.cls = clTorn ∧ (withEnt x).accWaits 1 x = false)
    ∧ (let x := ent0 1 0 0 false;
      (withEnt x).ent 1 3 = some x ∧ leKind x.words = 1 ∧ rcN x.rcd = 0 ∧ (withEnt x).accWaits 1 x = false ∧ State.gradRanges x.words x.rcd = []) := by
  refine ⟨by decide, by decide, by decide, by decide, by decide⟩

/-- Two marks of one instruction; a copy whose writes are answered. -/
def mark0 : MarkMsg := ⟨1, 65535, 0, 1⟩
def emit0 (failed : Bool) : UdEmit := ⟨9, none, 0, 16383, [], failed, false, 0, 0⟩

/-- The SNCHK of core 0 that waits for its last mark. -/
def jMark : Job := ⟨7, .mark, ⟨1, 0, 0, [], none⟩, 0, [1, 0], [], [], [], [], [], [], false, .none, none, 0⟩
def sMark : State := { (live []).modCore 0 fun c => { c with jobs := [jMark] } with marks := [mark0] }

theorem witness_MarksAndCopies :
    (∀ n ∈ [0, 63, 64], let s := { live [(UD_MARKS 1, fUD_MARKS_COUNT, n)] with marks := [mark0, mark0] };
      s.marks[0]? = some mark0 ∧ mark0.die < 2 ∧ (∃ x ∈ s.marks.eraseIdx 0, x.core = mark0.core ∧ x.ord = mark0.ord) ∧ s.rd (UD_MARKS 1) fUD_MARKS_COUNT = n)
    ∧ (sMark.marks[0]? = some mark0 ∧ mark0.die < 2 ∧ sMark.marks.eraseIdx 0 = []
      ∧ ((sMark.core mark0.core).jobs.filter fun j => j.kind = .mark && j.args.head? = some mark0.ord) = [jMark] ∧ jMark.args.getD 1 0 ≠ 1 ∧ jMark.iss.sig = [])
    ∧ ∀ b ∈ [false, true], let s := sUd fun u => { u with emits := [emit0 b] };
      (s.ud 1).emits.find? (fun e => e.id = 9) = some (emit0 b) ∧ (emit0 b).reqs = [] ∧ (emit0 b).held = false :=
  ⟨by decide, by decide, by decide⟩

/-- A package with port 15 (on I/O die 3) in a state, enabled, with the fabric enabled. -/
def fabIn (ps : Nat) (l : List (Nat × Fld × Nat)) : State :=
  live ([(PKG_CONFIG, fPKG_CONFIG_IOMAP, 15), (FP_CTRL 3 3, fFP_CTRL_EN, 1), (FAB_CTRL, fFAB_CTRL_EN, 1), (FAB_CTRL, fFAB_CTRL_AUTO, 1),
    (FP_STATUS 3 3, fFP_STATUS_STATE, ps), (FAB_STATUS, fFAB_STATUS_UP, if ps = psUp then 2 ^ 15 else 0)] ++ l)

/-- Slot k of port 15 on lane 12 + k, in use. -/
def lanes : List (Nat × Fld × Nat) :=
  (FP_LANEMAP 3 3, fFP_LANEMAP_SLOTS, 12 + 13 * 32 + 14 * 32 ^ 2 + 15 * 32 ^ 3) ::
    [12, 13, 14, 15].flatMap fun l => [(FL_STATUS 3 l, fFL_STATUS_LOCK, 1), (FL_STATUS 3 l, fFL_STATUS_IN_USE, 1)]
def spare : List (Nat × Fld × Nat) := [(FL_STATUS 3 17, fFL_STATUS_LOCK, 1), (FP_STATUS 3 3, fFP_STATUS_PAIRED, 1)]

def ident1 (domain : Nat) : Ident := ⟨1, domain, 0, 0, 15, false, true, 0, 0, 0⟩

theorem witness_PortsComeUpAndFail :
    (∀ ps ∈ [psDown, psIsolated], let s := fabIn ps [];
      s.portHere 15 = true ∧ s.on (State.fpCtrl 15) fFP_CTRL_EN = true ∧ s.on FAB_CTRL fFAB_CTRL_EN = true ∧ s.portState 15 = ps ∧ 2 ≤ s.pkState
        ∧ s.pkState ≠ pkRecovery)
    ∧ (let s := fabIn psTraining [];
      s.portHere 15 = true ∧ s.portState 15 = psTraining ∧ skewOk 200 = true ∧ skewOk 201 = false ∧ s.genOf 1 = (ident1 0).gen ∧ discRefused s 15 (ident1 0) = false
        ∧ discRefused s 15 (ident1 1) = true ∧ s.on FAB_CTRL fFAB_CTRL_AUTO = true ∧ s.enrolled = 0)
    ∧ (let s := (fabIn psTraining [(FAB_ENROL, fFAB_ENROL_STATE, 2)]).modPort 15 fun x => { x with ident := some { ident1 0 with gen := 15 } };
      s.portHere 15 = true ∧ s.portState 15 = psTraining ∧ s.genOf 1 = (ident1 0).gen ∧ discRefused s 15 (ident1 0) = false
        ∧ (s.port 15).ident.any (fun o => decide (o.gen ≠ (ident1 0).gen)) = true ∧ s.enrolled ≠ 0)
    ∧ (fabIn psUp []).portState 15 ≠ psDown ∧ (fabIn psRecover []).portState 15 = psRecover := by decide

/-- A payload flit of a sequence number with a body of zeros. -/
def flit0 (seq : Nat) : List Nat := flitBytes 1 seq 0 []

theorem witness_FlitsAndLinkControl :
    (let s := fabIn psUp [];
      s.portState 15 = psUp ∧ (s.port 15).nakOut = false ∧ (s.port 15).rxSeq = 0 ∧ (s.port 15).queue = [] ∧ (s.port 15).ctl = [] ∧ (s.port 15).replay = [])
    ∧ correctable 17 = false ∧ correctable 16 = true
    ∧ flitIntact [] = false ∧ (flitFt (flit0 4095) ≠ 0 ∧ flitSeq (flit0 4095) = 4095)
    ∧ (flitIntact (flit0 0) = true ∧ flitFt (flit0 0) = 1 ∧ flitSeq (flit0 0) = 0) := by
  refine ⟨by decide, by decide, by decide, by decide, by decide +kernel, by decide +kernel⟩

theorem witness_LanesAreSpared :
    servedBy (fabIn psUp []) 3 17 = none
    ∧ (let s := fabIn psUp (lanes ++ [(FAB_THRESH, fFAB_THRESH_SER_THR, 5)]);
      servedBy s 3 15 = some (15, 3) ∧ s.portState 15 = psUp ∧ (s.port 15).retries ≤ s.rd FAB_THRESH fFAB_THRESH_RETRY_THR
        ∧ s.rd FAB_THRESH fFAB_THRESH_SER_THR < 6 ∧ s.spareOf 15 = none ∧ (∀ j, j < 4 → s.slotLane 15 j ≠ 15 → s.on (FL_STATUS 3 (s.slotLane 15 j)) fFL_STATUS_LOCK = true)
        ∧ ∀ j, j < 4 → j ≠ 3 → s.slotLane 15 j ≠ 15)
    ∧ (let s := fabIn psUp (lanes ++ spare); s.portState 15 = psUp ∧ s.spareOf 15 = some 17 ∧ (s.port 15).ctl = [] ∧ (s.port 15).replay = []
      ∧ 0 = s.rd (State.fpStatus 15) fFP_STATUS_PPORT % 4 / 2 ∧ s.slotLane 15 3 ≠ 17 ∧ s.slotLane 15 3 < 18)
    ∧ (let s := (fabIn psRecover (lanes ++ spare)).modPort 15 fun x => { x with switching := some 3 };
      s.portState 15 = psRecover ∧ (s.port 15).switching = some 3 ∧ s.spareOf 15 = some 17 ∧ s.slotLane 15 3 ≠ 17 ∧ s.slotLane 15 3 < 18
        ∧ 0 = s.rd (State.fpStatus 15) fFP_STATUS_PPORT % 4 / 2) := by decide

/-- An enrolled package whose port 15 is UP, with memory and a permission mask for trusted and untrusted packets. -/
def fabUp (mask : Nat) : State :=
  fabIn psUp (memFields ++ [(FAB_ENROL, fFAB_ENROL_STATE, 2), (PKG_PERM 2, fPKG_PERM_MASK, mask), (PKG_PERM 3, fPKG_PERM_MASK, mask)])

/-- A packet of a type for node 0 with an address and data. -/
def req (typ addr len : Nat) (data : List Nat) : Packet := { pkt typ data with addr := addr, len := len, vc := 0 }

def admitted (s : State) (p : Packet) : Bool :=
  decide (s.portState 15 = psUp) && decide (p.dst = s.node) && decide (2 ≤ s.enrolled) && decide (p.egen = s.gen)

theorem admits {s : State} {p : Packet} (e : admitted s p = true) : s.Admits 15 p p.typ := by
  simp only [admitted, Bool.and_eq_true, decide_eq_true_eq] at e
  exact ⟨by decide, e.1.1.1, rfl, e.1.1.2, e.1.2, e.2⟩

theorem witness_FabricRequestsServed :
    (∀ mask ∈ [0, 2 ^ 32 - 1], ∀ typ ∈ [1, 2, 3, 4, 5], (fabUp mask).Admits 15 (req typ 0 0 []) typ)
    ∧ (∀ bit ∈ [16, 17, 18, 19, 20], ∀ cls ∈ [2, 3], (fabUp (2 ^ 32 - 1)).holds cls bit = true ∧ (fabUp 0).holds cls bit = false)
    ∧ (let s := fabUp 0; s.portState 15 = psUp ∧ { req 1 0 0 [] with dst := 4095 }.dst ≠ s.node) := by
  have h : ∀ mask ∈ [0, 2 ^ 32 - 1], ∀ typ ∈ [1, 2, 3, 4, 5], admitted (fabUp mask) (req typ 0 0 []) = true := by decide
  exact ⟨fun m hm t ht => admits (h m hm t ht), by decide, by decide⟩

def dup0 : DupRec := ⟨1, 0, 0, 0, req 0x13 0 0 [], 0⟩

theorem witness_FabricRequestsDoTheirWork :
    (let p := req 3 56 8 [1, 2, 3, 4, 5, 6, 7, 8]; let s := fabUp (2 ^ 32 - 1);
      s.Admits 15 p 3 ∧ s.holds (if (s.trusted 15 p).trust then 2 else 3) 18 = true ∧ State.wrRuleOk p = true ∧ 0 < p.len ∧ State.hallTier p.addr = 0
        ∧ s.pkState ≠ pkHalted ∧ (∀ k, k < 8 → s.stackGate (State.hallOff p.addr + k) = rsOk ∧ s.inDirRange (State.hallOff p.addr + k) = false))
    ∧ (let p := req 5 0 0 []; let s := fabUp (2 ^ 32 - 1);
      s.Admits 15 p 5 ∧ s.holds (if (s.trusted 15 p).trust then 2 else 3) 20 = true ∧ p.dup = false
        ∧ s.rd (TS_STATE (nbitsAt p.addr 63 50)) fTS_STATE_EPOCH = nbitsAt p.addr 49 42)
    ∧ (let p := { req 5 0 0 [] with dup := true }; let s := (fabUp (2 ^ 32 - 1)).modFab fun f => { f with dups := [dup0] };
      s.Admits 15 p 5 ∧ p.dup = true ∧ s.dupOf p = some dup0) :=
  ⟨⟨admits (by decide), by decide⟩, ⟨admits (by decide), by decide⟩, admits (by decide), by decide⟩

/-- Core 0 waits for the answer to tag 0: with a move, with an increment; update die 1 with a copy; a probe of core 0. -/
def waiting (f : Job → Job) : State := { fabUp 0 with cores := (sMoving.setJob 0 1 fun j => f { j with reqs := [away] }).cores }
def udWaiting : State := (fabUp 0).modUd 1 fun u => { u with emits := [⟨9, none, 0, 16383, [away], false, false, 0, 0⟩] }
def probing : State := (fabUp 0).modCore 0 fun c => { c with probes := [⟨1, 8, none, 0, [], 1, [0]⟩] }

theorem witness_FabricResponses :
    (∀ typ ∈ [0x10, 0x11, 0x12, 0x13, 0x15, 0x14], (fabUp 0).Admits 15 (req typ 0 0 []) typ ∧ (waiting id).Admits 15 (req typ 0 0 []) typ
      ∧ udWaiting.Admits 15 { req typ 0 0 [] with sep := 289 } typ ∧ probing.Admits 15 (req typ 0 0 []) typ)
    ∧ (∃ j, (((waiting id).core 0).jobs.find? fun j => j.reqs.any fun q => q.tag = 0) = some j ∧ decide (j.kind = .dmov) = true)
    ∧ (∃ j, (((waiting fun j => { j with kind := .remInc, word := 0 }).core 0).jobs.find? fun j => j.reqs.any fun q => q.tag = 0) = some j
        ∧ (decide (j.kind = .remInc) && decide (j.word.toNat = 0)) = true)
    ∧ (((fabUp 0).core 0).jobs = [] ∧ (fabUp 0).udWaits 1 0 = false ∧ (fabUp 0).fab.gone = [])
    ∧ udWaiting.udWaits 1 0 = true
    ∧ (∃ x ∈ (probing.core 0).probes, 0 ∈ x.tags) ∧ ((fabUp 0).core 0).probes = [] := by
  have h : ∀ typ ∈ [0x10, 0x11, 0x12, 0x13, 0x15, 0x14], admitted (fabUp 0) (req typ 0 0 []) = true ∧ admitted (waiting id) (req typ 0 0 []) = true
      ∧ admitted udWaiting { req typ 0 0 [] with sep := 289 } = true ∧ admitted probing (req typ 0 0 []) = true := by decide
  exact ⟨fun t ht => ⟨admits (h t ht).1, admits (h t ht).2.1, admits (h t ht).2.2.1, admits (h t ht).2.2.2⟩,
    isSomeWith (p := fun j : Job => decide (j.kind = .dmov)) (by decide),
    isSomeWith (p := fun j : Job => decide (j.kind = .remInc) && decide (j.word.toNat = 0)) (by decide), by decide, by decide, by decide, by decide⟩

/-- A control message of node 1 with CSEQ 65535, by port 15. -/
def msg (typ : Nat) (ws : List Nat) : CtrlMsg := ⟨15, 1, 65535, true, typ, ws, none, none⟩
/-- The words of an RM_MSG or HEALTH of a code about a node, in term 0. -/
def head (code node : Nat) (args : List Nat) : List Nat := [code * 2 ^ 56 + node * 2 ^ 44, 0] ++ args

def heard (s : State) (m : CtrlMsg) : Bool := decide (s.portState 15 = psUp) && s.firmware && decide (s.enrolled ≠ 0) && s.ctrlMay m && !s.ctrlOld m
  && decide (m.port = 15)

theorem hears_of {s : State} {m : CtrlMsg} (e : heard s m = true) : s.Hears m := by
  simp only [heard, Bool.and_eq_true, decide_eq_true_eq, Bool.not_eq_true'] at e
  exact ⟨by rw [e.2]; decide, by rw [e.2]; exact e.1.1.1.1.1, e.1.1.1.1.2, e.1.1.1.2, e.1.1.2, e.1.2⟩

theorem in_order {s : State} {m : CtrlMsg} (h : s.fab.next = []) (g : s.fab.held = []) : s.InOrder m := ⟨.inl (by rw [h]; rfl), g⟩

/-- A package in an enrolment state, with a permission mask, that hears port 15. -/
def inState (e mask : Nat) (l : List (Nat × Fld × Nat)) : State :=
  fabIn psUp ([(FAB_ENROL, fFAB_ENROL_STATE, e), (PKG_PERM 2, fPKG_PERM_MASK, mask), (PKG_PERM 3, fPKG_PERM_MASK, mask)] ++ l)

def ctl : Nat := 2 ^ 21

theorem witness_EachMessageDoesItsPart :
    (∀ typ ∈ [0x31, 0x32, 0x33, 0x34, 0x35, 0x36, 0x37, 0x38, 0x39, 0x3A, 0x3B, 0x3C, 0x3D, 0x3E], (inState 2 ctl []).Hears (msg typ (head 0 0 [])))
    ∧ (∀ typ, (inState 2 ctl []).InOrder (msg typ (head 0 0 [])))
    ∧ (inState 2 ctl []).rm.master = false
    ∧ (∀ c ∈ [1, 2, 3, 4, 5, 6, 7, 8, 9, 10, 11, 12], msgCode (head c 0 []) = c ∧ (inState 2 ctl []).rm.term ≤ msgTerm (head c 0 []))
    ∧ 2 ≤ (inState 2 ctl []).enrolled ∧ 1 < 4096 ∧ 65535 < 2 ^ 16 := by
  have h : ∀ typ ∈ [0x31, 0x32, 0x33, 0x34, 0x35, 0x36, 0x37, 0x38, 0x39, 0x3A, 0x3B, 0x3C, 0x3D, 0x3E], heard (inState 2 ctl []) (msg typ (head 0 0 [])) = true := by
    decide
  exact ⟨fun t ht => hears_of (h t ht), fun _ => in_order rfl rfl, by decide, by decide, by decide⟩

theorem witness_MessagesOutOfOrderOrForbidden :
    (∀ n ∈ [1, 2, 32769], let s := (inState 2 ctl []).modFab fun f => { f with next := [(1, n)] };
      s.rm.master = false ∧ s.Hears (msg 0x36 []) ∧ sget 0 1 s.fab.next = n ∧ s.fab.held = [])
    ∧ (let s := (inState 2 ctl []).modFab fun f => { f with next := [(1, 1)], held := [msg 0x36 []] };
      s.Hears (msg 0x36 []) ∧ ∃ x ∈ s.fab.held, x.src = 1 ∧ x.cseq = 65535)
    ∧ ((65535 + 2 ^ 16 + 1 - 1) % 2 ^ 16 = 65535 ∧ (65535 + 2 ^ 16 + 1 - 32769) % 2 ^ 16 = 2 ^ 15 - 1)
    ∧ (let s := inState 2 0 []; s.portState 15 = psUp ∧ s.firmware = true ∧ s.enrolled ≠ 0 ∧ s.ctrlMay (msg 0x36 []) = false ∧ s.rm.master = false
      ∧ s.ctrlOld (msg 0x36 []) = false)
    ∧ (let s := (inState 2 ctl []).modPort 15 fun x => { x with rx := [{ (inState 2 ctl []).ctrlPacket 0 0x36 65535 [] with src := 1, egen := 15 }] };
      s.portState 15 = psUp ∧ s.ctrlOld (msg 0x36 []) = true ∧ s.rm.master = false) := by
  have h : ∀ n ∈ [1, 2, 32769], heard ((inState 2 ctl []).modFab fun f => { f with next := [(1, n)] }) (msg 0x36 []) = true := by decide
  exact ⟨fun n hn => ⟨rfl, hears_of (h n hn), rfl, rfl⟩, ⟨hears_of (by decide), by decide⟩, by decide, by decide, by decide⟩

theorem witness_EnrolmentFollowsMessages :
    (∀ e ∈ [1, 2, 3, 4], (∀ typ ∈ [0x32, 0x33, 0x36, 0x37, 0x38, 0x3B], heard (inState e ctl []) (msg typ []) = true) ∧ (inState e ctl []).enrolled = e)
    ∧ (inState 2 ctl []).rm.master = false ∧ (inState 2 ctl [(TIME_STATUS, fTIME_STATUS_ACQ, 1)]).on TIME_STATUS fTIME_STATUS_ACQ = true
    ∧ (msgCode (head 9 0 []) = 9 ∧ msgNode (head 9 0 []) = (inState 2 ctl []).node ∧ (inState 2 ctl []).rm.term ≤ msgTerm (head 9 0 []))
    ∧ (let s := inState 2 ctl []; let ws := head 2 0 [255, 8, 1, 2000];
      msgCode ws = 2 ∧ s.rm.term ≤ msgTerm ws ∧ s.on TIME_SEG_LEN fTIME_SEG_LEN_SEQV = false ∧ s.on TIME_PEND_TICK fTIME_PEND_TICK_VALID = false
        ∧ 2000 ≤ msgArg ws 3 ∧ msgArg ws 3 ≤ 262143 ∧ s.rd TIME_SEG_LEN fTIME_SEG_LEN_PLANNED ≤ msgArg ws 3 ∧ s.beat < msgArg ws 2 % 2 ^ 64) := by decide

/-- A package that may claim, and one whose claim has stood for 100 ms. -/
def claims (c : Option Nat) : State :=
  (inState 2 ctl [(FAB_ID, fFAB_ID_ELIGIBLE, 1), (TIME_BEAT, fTIME_BEAT_BEAT, 200 * ms)]).modRm fun r => { r with
    claim := c, best := c.map fun _ => (0, 0), heardRm := some 0, heardClaim := some 0 }

theorem witness_TimersOfAPackage :
    (∀ e ∈ [1, 2, 3, 4], (inState e ctl []).firmware = true ∧ (inState e ctl []).enrolled = e)
    ∧ (live [(FAB_ENROL, fFAB_ENROL_STATE, 2)]).anyPortUp = false
    ∧ (let s := (inState 2 ctl [(TIME_BEAT, fTIME_BEAT_BEAT, 50 * ms)]).modRm fun r => { r with hbAck := some 0, best := some (1, 4095) };
      s.firmware = true ∧ s.enrolled = 2 ∧ s.rm.master = false ∧ s.longAgo s.rm.hbAck (50 * ms) = true ∧ s.rm.best = some (1, 4095))
    ∧ (let s := claims none;
      s.firmware = true ∧ s.on FAB_ID fFAB_ID_ELIGIBLE = true ∧ 1 ≤ s.enrolled ∧ s.enrolled ≤ 3 ∧ s.anyPortUp = true ∧ s.rm.master = false ∧ s.rm.claim = none
        ∧ s.longAgo s.rm.heardRm (200 * ms) = true ∧ s.longAgo s.rm.heardClaim (200 * ms) = true)
    ∧ (let s := claims (some (100 * ms)); s.rm.claim ≠ none ∧ s.longAgo s.rm.claim (100 * ms) = true ∧ s.rm.best = some (s.rm.term, s.node))
    ∧ (let s := (inState 1 ctl []).modFab fun f => { f with held := [msg 0x36 []] }; s.firmware = true ∧ 1 ≤ s.enrolled ∧ s.fab.held = [msg 0x36 []])
    ∧ (let s := live [(TS_STALE, fTS_STALE_COUNT, 1)]; s.firmware = true ∧ s.rm.rearm = none ∧ s.rd TS_STALE fTS_STALE_COUNT ≠ 0)
    ∧ (live []).rd TS_STALE fTS_STALE_COUNT = 0 := by decide

def member (n : Nat) : Member := ⟨n, 0, false, true, true, 0, 0, [], 0, none⟩
/-- A Ringmaster at beat 30 ms, with fields of its state set. -/
def master (f : RmSt → RmSt) : State :=
  (inState 3 ctl [(TIME_BEAT, fTIME_BEAT_BEAT, 30 * ms), (FAB_ENROL, fFAB_ENROL_SB_VALID, 1), (TIME_TICK, fTIME_TICK_TICK, 4096)]).modRm
    fun r => f { r with master := true, table := [member 0, member 1] }

theorem witness_RingmasterTimers :
    (let s := master id; s.firmware = true ∧ s.rm.master = true ∧ s.rmActs = true ∧ memberOf s.rm.table (member 1).node = some (member 1)
      ∧ (member 1).heard + 30 * ms ≤ s.beat ∧ (member 1).node ≠ s.node)
    ∧ (let s := master fun r => { r with master := false, synced := some 0 };
      s.rm.master = false ∧ s.enrolled = 3 ∧ s.rm.synced ≠ none ∧ s.longAgo s.rm.synced (30 * ms) = true ∧ s.anyPortUp = true
        ∧ s.on FAB_ENROL fFAB_ENROL_SB_VALID = true ∧ s.rd FAB_ENROL fFAB_ENROL_SB = s.node)
    ∧ (∀ l ∈ [[(7, 1, 0, 0)], []], let s := master fun r => { r with firsts := [(7, 10 * ms)], layout := [1], reports := l };
      s.rmActs = true ∧ s.rm.firsts = [(7, 10 * ms)] ∧ 10 * ms + s.rm.stepTmo * ms ≤ s.beat ∧ s.rm.reshard = none ∧ (s.allReported 7 = true ↔ l ≠ []))
    ∧ (let s := { master id with sched := { (master id).sched with planned := 2000 } };
      s.firmware = true ∧ s.rmActs = true ∧ s.sched.planned ≠ 0 ∧ s.tickPending = false ∧ s.rm.slipFrom + 4096 ≤ s.rd TIME_TICK fTIME_TICK_TICK) := by decide

def shard : Reshard := ⟨1, 0, 0, [1], [], [], 0, true, 0⟩

theorem witness_RingmasterHears :
    (∀ typ ∈ [0x39, 0x3C], heard (master id) (msg typ (head 1 0 [7])) = true) ∧ (master id).rmActs = true
    ∧ memberOf (master id).rm.table 1 = some (member 1)
    ∧ (let s := master fun r => { r with layout := [1] };
      msgCode (head 1 0 [7, 3]) = 1 ∧ s.rm.layout = [1] ∧ s.rm.reshard = none ∧ s.rm.firsts = [] ∧ s.rm.reports = [] ∧ heard s (msg 0x3C (head 1 0 [7, 3])) = true)
    ∧ (let s := master fun r => { r with reshard := some shard };
      msgCode (head 10 0 [1]) = 10 ∧ s.rm.reshard = some shard ∧ shard.closed = true ∧ shard.epoch = msgArg (head 10 0 [1]) 0
        ∧ (∀ p ∈ shard.layout, p = 1 ∨ p ∈ shard.loaded) ∧ heard s (msg 0x3C (head 10 0 [1])) = true)
    ∧ (let r := { shard with closed := false, layout := [1, 2], fence := 9 }; let s := master fun x => { x with reshard := some r, firsts := [(9, 0)] };
      msgCode (head 9 0 [1]) = 9 ∧ s.rm.reshard = some r ∧ r.closed = false ∧ r.epoch = msgArg (head 9 0 [1]) 0 ∧ 1 ∉ r.prepared
        ∧ (∃ p ∈ r.layout, p ≠ 1 ∧ p ∉ r.prepared) ∧ (∀ x ∈ s.rm.firsts, x.1 + 1 ≠ r.fence) ∧ s.rmActs = true)
    ∧ (let s := master fun x => { x with decisions := [(7, 1)], standby := some 1, unacked := [(7, [0, 1])] };
      s.rm.decisions.find? (fun x => x.1 = msgArg (head 4 0 [7]) 0) = some (msgArg (head 4 0 [7]) 0, 1) ∧ s.rm.standby = some 1
        ∧ s.rm.unacked.find? (fun x => x.1 = msgArg (head 11 0 [7]) 0) = some (7, [0, 1]) ∧ s.rmActs = true)
    ∧ (let s := master id; msgCode (head 2 0 [4033]) = 2 ∧ s.rm.slips = [] ∧ 1 < s.rm.slipUp ∧ s.rd TIME_TICK fTIME_TICK_TICK < msgArg (head 2 0 [4033]) 0 + 64)
    ∧ ∀ c ∈ [3, 4, 5, 7, 11, 12], msgCode (head c 0 []) = c := by decide

theorem witness_StackAbove85RefreshesTwice : ∀ x ∈ [0, 9], (live [(MEM_STATUS x, fMEM_STATUS_STATE, 2)]).siteState x ≠ 0 := by decide

/-- A live package with power state set. -/
def sPwr (l : List (Nat × Fld × Nat)) (f : PwrSt → PwrSt) : State := (live l).modPwr f

theorem witness_BudgetsAndThePowerController :
    (sPwr [] fun p => { p with bpmNext := some 0 }).pwr.bpmNext = some 0
    ∧ ((sPwr [] fun p => { p with pins := 7 }).pwr.pins = 15 % 8 ∧ (sPwr [] fun p => { p with pins := 7 }).pwr.pins ≠ 8 % 8)
    ∧ (∀ t ∈ [171, 172, 176], let s := live [(PWR_TJ, fPWR_TJ_TJ, t)]; s.hottest = Int.ofNat t ∧ s.hottestStack.1 < 88)
    ∧ (∀ k ∈ [88, 90], (live [(MEM_STATUS 0, fMEM_STATUS_STATE, 2), (MEM_TEMP 0, fMEM_TEMP_TEMP, k)]).hottestStack.1 = k)
    ∧ (∀ st ∈ [0, 1, 3], let s := sPwr [(PWR_STATUS, fPWR_STATUS_STATE, st)] fun p => { p with held := [⟨11, 287, 1, 0, 0, 0⟩] };
      s.firmware = true ∧ 65535999 < 65536000 ∧ (∀ h ∈ s.pwr.held, h.zone < 12) ∧ s.rd PWR_STATUS fPWR_STATUS_STATE = st) := by decide

/-- A clock stop whose conditions have been clear since beat 0. -/
def stopped (l : List (Nat × Fld × Nat)) (f : PwrSt → PwrSt) : State :=
  sPwr ([(PWR_STATUS, fPWR_STATUS_STATE, 3), (TIME_BEAT, fTIME_BEAT_BEAT, 100 * ms)] ++ l) fun p => f { p with stopOk := some 0 }

theorem witness_TemperaturesCoolantAndMinimumPower :
    (let s := sPwr [] fun p => { p with sampled := true };
      s.on (PWR_HS 47) fPWR_HS_ABSENT = false ∧ s.on (PWR_HS 47) fPWR_HS_FAILA = false ∧ s.on (PWR_HS 47) fPWR_HS_FAILB = false ∧ s.pwr.sampled = true
        ∧ ((20 : Int) - toInt 10 (s.rd (PWR_HS 47) fPWR_HS_SA)).natAbs ≤ 20 ∧ ((11 : Int) - toInt 10 (s.rd (PWR_HS 47) fPWR_HS_SB)).natAbs ≤ 20
        ∧ 8 < ((20 : Int) - 11).natAbs)
    ∧ (let s := live ((List.range 48).flatMap fun h => [(PWR_HS h, fPWR_HS_FAILA, 1), (PWR_HS h, fPWR_HS_FAILB, 1)]); ∀ h ∈ State.computeSpots, s.pairFailed h = true)
    ∧ (live [(MEM_STATUS 9, fMEM_STATUS_STATE, 2)]).siteState 9 ≠ 0
    ∧ (let s := stopped [(PWR_CTRL, fPWR_CTRL_CSTOP_LATCH, 1)] fun p => { p with resume := true };
      s.rd PWR_STATUS fPWR_STATUS_STATE = 3 ∧ s.pwr.stopOk = some 0 ∧ 0 + 100 * ms ≤ s.beat ∧ s.hasCause mcAbrupt = false ∧ s.hasCause mcFlowCrit = false
        ∧ s.hasCause mcInletHigh = false ∧ s.pwr.resume = true)
    ∧ (let s := stopped [(PWR_CTRL, fPWR_CTRL_CSTOP_LATCH, 1)] id; s.on PWR_CTRL fPWR_CTRL_CSTOP_LATCH = true ∧ s.pwr.resume = false)
    ∧ (∀ c ∈ [mcAbrupt, mcFlowCrit, mcInletHigh], (stopped [(PWR_STATUS, fPWR_STATUS_MINCAUSE, 2 ^ c)] id).hasCause c = true)
    ∧ (let s := live [(PWR_STATUS, fPWR_STATUS_STATE, 2)]; s.rd PWR_STATUS fPWR_STATUS_STATE = 2 ∧ s.rd PWR_STATUS fPWR_STATUS_MINCAUSE = 0)
    ∧ (let s := sPwr [(PWR_STATUS, fPWR_STATUS_MINCAUSE, 2 ^ mcForced)] fun p => { p with forced := true }; s.hasCause mcForced = true ∧ s.pwr.forced = true)
    ∧ (let s := sPwr [(TIME_BEAT, fTIME_BEAT_BEAT, 500 * ms + 1)] fun p => { p with reports := [(0, 5, 9)] }; s.pwr.reports = [(0, 5, 9)] ∧ 0 + 500 * ms < s.beat)
    ∧ (sPwr [] fun p => { p with reports := [(0, 5, 9)] }).beat ≤ 0 + 500 * ms := by decide

def hint0 : HintMsg := ⟨11, 287, 3, 15, 100, 50⟩

theorem witness_HintsMarginsEnergyAndWear :
    (∀ n ∈ [0, 7, 8], ∀ en ∈ [0, 1], let s := sPwr [(PWR_CTRL, fPWR_CTRL_HINT_EN, en)] fun p => { p with hintsIn := [hint0], held := List.replicate n hint0 };
      s.pwr.hintsIn[0]? = some hint0 ∧ hint0.zone < 12 ∧ hint0.core < 288 ∧ (s.on PWR_CTRL fPWR_CTRL_HINT_EN = true ↔ en = 1)
        ∧ (s.pwr.held.filter fun x => x.zone = hint0.zone).length = n)
    ∧ (∀ b ∈ [149, 150], let s := sPwr [(TIME_BEAT, fTIME_BEAT_BEAT, b)] fun p => { p with held := [hint0] };
      s.pwr.held[0]? = some hint0 ∧ hint0.dur ≠ 0 ∧ (hint0.start + hint0.dur ≤ s.beat ↔ b = 150))
    ∧ (let s := sPwr [(PWR_STATUS, fPWR_STATUS_START_MARGIN, 0), (PWR_CTRL, fPWR_CTRL_ADAPT, 1), (PWR_DROOP_CFG, fPWR_DROOP_CFG_STR_LO, 1),
        (PWR_DROOP_CFG, fPWR_DROOP_CFG_STR_HI, 1), (PWR_ZDROOP 11, fPWR_ZDROOP_LASTTICK, 2)] fun p => { p with openTicks := some 1001 };
      s.on PWR_STATUS fPWR_STATUS_START_MARGIN = false ∧ 1000 < s.pwr.openTicks.getD 0 ∧ s.on PWR_CTRL fPWR_CTRL_ADAPT = true ∧ s.zoneCores 11 ≠ []
        ∧ s.rd PWR_DROOP_CFG fPWR_DROOP_CFG_STR_LO ≤ s.rd PWR_DROOP_CFG fPWR_DROOP_CFG_STR_HI
        ∧ s.rd PWR_DROOP_CFG fPWR_DROOP_CFG_STR_HI < s.rd (PWR_ZDROOP 11) fPWR_ZDROOP_LASTTICK)
    ∧ (∀ n ∈ [999, 1000], let s := sPwr [(PWR_STATUS, fPWR_STATUS_START_MARGIN, 1)] fun p => { p with openTicks := some n };
      s.on PWR_STATUS fPWR_STATUS_START_MARGIN = true ∧ s.pwr.openTicks = some n)
    ∧ (let s := sPwr [] fun p => { p with points := [(0, [40, 30])] }; s.firmware = true ∧ s.pointsOf 0 = [40, 30] ∧ (30 : Int) < 40)
    ∧ (let s := sPwr [] fun p => { p with points := [(0, [1100, 100, 1050, 50])] };
      s.pointsOf 0 = [1100, 100, 1050, 50] ∧ (100 : Int) < 1100 ∧ (1000 : Int) + 32 ≤ 1100 ∧ ((1050 : Int) - 100).natAbs ≤ ((50 : Int) - 1050).natAbs
        ∧ ((1050 : Int) - 100).natAbs ≤ ((100 : Int) - 1100).natAbs ∧ State.cycleBin ((1050 : Int) - 100).natAbs = some 2)
    ∧ (live []).pkg.flash.answers = true := by decide

/-- The package with its pins set: power, PKG_RST# low, reference clock. -/
def pins (pw rst clk : Bool) : State := State.reset.modPins fun p => { p with pwrgd := pw, rstLow := rst, refclk := clk }

def cmd0 (code : Nat) (args : List Nat) : Cmd := ⟨1, code, 1, 0, 0, 0, 4096, args, false⟩
/-- A package where one command waits, with fields set. -/
def waits (code : Nat) (args : List Nat) (l : List (Nat × Fld × Nat)) : State := (live l).modPkg fun p => { p with cmds := [cmd0 code args] }

def runsNow (s : State) (code : Nat) (args : List Nat) : Bool :=
  decide ((s.pkg.cmds.find? fun x => x.seq = 1 && x.code = code) = some (cmd0 code args)) && s.mayRun code && !s.heldBack (cmd0 code args)

theorem executes {s : State} {code : Nat} {args : List Nat} (e : runsNow s code args = true) : s.Executes 1 code (cmd0 code args) := by
  simp only [runsNow, Bool.and_eq_true, decide_eq_true_eq, Bool.not_eq_true'] at e
  exact ⟨e.1.1, e.1.2, e.2⟩

theorem waits_executes {code : Nat} {args : List Nat} {l : List (Nat × Fld × Nat)} (e : runsNow (waits code args l) code args = true) :
    (waits code args l).Executes 1 code (cmd0 code args) := executes e

def sWarm : State := (waits 0x1001 [0] []).modPkg fun p => { p with image := some factoryImage }

theorem witness_StartsResetsAndLockstep :
    (let f := State.reset.pkg.flash; chooseSlot f 0 [] = (0, 1, some 0) ∧ State.reset.pkg.fuse.bistFails = false
      ∧ chooseSlot { f with a := .erased } 0 [] = (1, 1, none))
    ∧ (let s := pins false false true; s.pkg.pins.pwrgd = false ∧ s.pkg.pins.rstLow = false ∧ s.pkg.pins.refclk = true ∧ s.pkg.pins.railBad = false)
    ∧ (let s := pins false true true; s.pkg.pins.pwrgd = false ∧ ¬ (s.pkg.pins.rstLow = false ∧ s.pkg.pins.refclk = true ∧ s.pkg.pins.railBad = false))
    ∧ (let s := pins true false false; s.pkg.pins.pwrgd = true ∧ s.pkg.pins.rstLow = false ∧ s.pkg.pins.railBad = false ∧ s.pkg.pins.refclk = false)
    ∧ (let s := pins true true true; s.pkg.pins.pwrgd = true ∧ s.pkg.pins.rstLow = true ∧ s.pkg.pins.railBad = false ∧ s.pkg.pins.refclk = true)
    ∧ (waits 0x1002 [] []).Executes 1 0x1002 (cmd0 0x1002 [])
    ∧ (let s := (waits 0x1001 [0] [(PKG_STATE, fPKG_STATE_STATE, pkRecovery)]); s.Executes 1 0x1001 (cmd0 0x1001 [0]) ∧ s.pkState = pkRecovery)
    ∧ (sWarm.Executes 1 0x1001 (cmd0 0x1001 [0]) ∧ sWarm.pkg.image = some factoryImage ∧ sWarm.pkState ≠ pkRecovery
      ∧ (∀ x, x < 10 → sWarm.on (MEM_STATUS x) fMEM_STATUS_COMPACTING = false) ∧ (∀ d, d < 2 → sWarm.on (PT_STATUS d) fPT_STATUS_COMPACTING = false))
    ∧ (∀ die ∈ [0, 1, 3, 4, 5, 6], (waits 0x1003 [die] [(PKG_CONFIG, fPKG_CONFIG_IOMAP, 15)]).Executes 1 0x1003 (cmd0 0x1003 [die]))
    ∧ (∀ die ∈ [1, 2, 3], (waits 0x1003 [die] [(PKG_CONFIG, fPKG_CONFIG_IOMAP, 15)]).portHere (4 * die) = true)
    ∧ (live []).pkState ≠ pkReset ∧ (live []).pkState ≠ pkHalted ∧ (live [(PKG_STATE, fPKG_STATE_STATE, pkHalted)]).pkState = pkHalted := by
  have h : ∀ die ∈ [0, 1, 3, 4, 5, 6], runsNow (waits 0x1003 [die] [(PKG_CONFIG, fPKG_CONFIG_IOMAP, 15)]) 0x1003 [die] = true := by decide
  exact ⟨by decide, by decide, by decide, by decide, by decide, executes (by decide), ⟨executes (by decide), by decide⟩,
    ⟨executes (by decide), rfl, by decide, by decide, by decide⟩, fun d hd => executes (h d hd), by decide, by decide, by decide, by decide⟩

/-- A boot image of 16 R468 with the required sections and SEQ 2, signed on P-384 (R471) by a key of its own, and the digest of that key. It was
made from the spec's layout by a program that shares nothing with the model. -/
def signedImage : List Nat :=
  leBytes 64 0x40b6b49c00000001000002450000000000000002000700014d494d42 ++
  leBytes 64 0x910e243800000009000000c0000000100000000000000000000000c0000000030000000000000000000000c0000000020000000000000000000000c000000001 ++
  leBytes 64 0xc500000180000000049a1c8bca000000140000014000000012068242860000000f0000010000000011 ++
  leBytes 64 0x10000000000000000 ++
  leBytes 64 0xf0000000f0000000f0000000f00 ++
  leBytes 64 0x4fff00230001003f004b00007fff000043a1 ++
  leBytes 64 0x90168cdbef52ba881be46190c97594e1d0b68fb4050f04b2ebb9556f52058b501c7bfa9dcc582dfa5feafb97e96fadfedf4e23bf8e9ff28847ce65731d3c2804 ++
  leBytes 64 0x6d56d340f2a4be06cd2d2010399dcb987ddc5f7e3c796414fa6f60d4417a078cef12c5da4c66649e8fa732de4ed8305622bd1dd02cc9d9299779ed67d8611a47 ++
  leBytes 64 0xcf89a6fb032b4a25dd2594fe5d54b7d42e10e11bc1804759ad13bd21cce80dbbb90162da0ce51703839963d470fd4931c80005c7e5d7020d582650aebb08b4a6 ++
  leBytes 5 0xc973aa1781
def signedKey : List Nat := leBytes 48 0x15b93dc4be54d2e34ee3178d8c2d1087badfe557320a4ea25fc8e377f7f68d15d736bb82e53c7ce863bce565599d75d7

theorem test_signed_image_is_accepted : headerCode signedImage 0 = 0 ∧ contentCode signedImage signedKey = 0 := by decide +kernel

/-- Whether a query that waits executes and its response fits. -/
def asks (code : Nat) (args : List Nat) (l : List (Nat × Fld × Nat)) (resp : State → List Nat) : Bool :=
  runsNow (waits code args l) code args && decide (8 * (resp (waits code args l)).length ≤ 4096)

theorem asked {code : Nat} {args : List Nat} {l : List (Nat × Fld × Nat)} {resp : State → List Nat} (e : asks code args l resp = true) :
    (waits code args l).Executes 1 code (cmd0 code args) ∧ State.Fits (cmd0 code args) (resp (waits code args l)) := by
  simp only [asks, Bool.and_eq_true, decide_eq_true_eq] at e
  exact ⟨executes e.1, fun _ _ => e.2⟩

/-- A Ringmaster with no work of its own, where a query of its state waits. -/
def sRmQuery (code : Nat) (args : List Nat) (f : RmSt → RmSt) : State := (waits code args []).modRm fun r => f { r with master := true }

theorem witness_QueriesAnswerWhatTheyName :
    (asks 0x0902 [287] [] (fun s => (s.reg (SQ_STATUS 287)).toNat :: [0, 1, 2].flatMap (s.streamBlock 287))) = true
    ∧ ((asks 0x0B00 [9] [(PKG_CONFIG, fPKG_CONFIG_STACKMAP, 512)] fun s => s.regWords [MEM_STATUS 9, MEM_RANGE 9, MEM_CH_LIVE 9, MEM_CH_FENCED 9, MEM_CH_OUT 9]) = true
      ∧ (waits 0x0B00 [9] [(PKG_CONFIG, fPKG_CONFIG_STACKMAP, 512)]).siteHere 9 = true ∧ (waits 0x0B00 [9] [(PKG_CONFIG, fPKG_CONFIG_STACKMAP, 0)]).siteHere 9 = false)
    ∧ (asks 0x0B05 [1] [] fun s => s.regWords ([PT_STATUS 1, PT_RANGE 1] ++ (List.range 4).map fun k => PT_CH_INFO 1 k)) = true
    ∧ (asks 0x0D00 [] [(PKG_CONFIG, fPKG_CONFIG_IOMAP, 8)] fun s => s.regWords ([FAB_STATUS, FAB_ENROL] ++ ((List.range 16).filter s.portHere).flatMap fun p =>
        [State.fpCtrl p, State.fpStatus p, FP_LANEMAP (p / 4) (p % 4), FP_RETRY (p / 4) (p % 4), FP_FEC_CORR (p / 4) (p % 4), FP_FEC_UNC (p / 4) (p % 4),
          FP_TX_FLITS (p / 4) (p % 4), FP_RX_FLITS (p / 4) (p % 4), FP_DOWNS (p / 4) (p % 4), FP_SKEW (p / 4) (p % 4)])) = true
    ∧ (∀ code ∈ [0x0F00, 0x1000], (asks code [] [] fun _ => [0, 0, 0, 0, 0, 0]) = true)
    ∧ (let l := [(PWR_ETAG_ID 63, fPWR_ETAG_ID_VALID, 1), (PWR_ETAG_ID 63, fPWR_ETAG_ID_TAG, 7)];
      (asks 0x0F02 [7] l fun _ => [0]) = true ∧ (waits 0x0F02 [7] l).tagSlot 7 = some 63 ∧ (waits 0x0F02 [8] l).tagSlot 8 = none)
    ∧ (let s := { waits 0x0500 [0] [] with sched := { (waits 0x0500 [0] []).sched with glayers := 1 } };
      0 < s.sched.glayers ∧ runsNow s 0x0500 [0] = true ∧ 8 * (s.gfEntry 0).length ≤ 4096)
    ∧ (∀ n ∈ [0, 1], (asks 0x1007 [5, n] [] fun _ => []) = true)
    ∧ (let s := (waits 0x1007 [5, 1] []).jnlPut { JEnt.empty with seq := 5 }; 5 ≠ 0 ∧ (s.jnlAt 5).seq = 5 ∧ runsNow s 0x1007 [5, 1] = true)
    ∧ ((waits 0x1007 [5, 1] []).jnlAt 5).seq ≠ 5
    ∧ (let s := sRmQuery 0x0E00 [] id; s.rm.master = true ∧ s.rm.suspended = false ∧ s.rm.reshard = none ∧ s.rm.log = [] ∧ runsNow s 0x0E00 [] = true)
    ∧ (let l := [(UD_CTRL 1, fUD_CTRL_EN, 1), (UD_RECBASE 1, fUD_RECBASE_NREC, 1), (DIR_CTRL, fDIR_CTRL_EN, 1)]; let s := waits 0x0A08 [1, 0] l;
      1 < 2 ∧ s.noMem 1 = false ∧ s.on (UD_CTRL 1) fUD_CTRL_EN = true ∧ 0 < s.rd (UD_RECBASE 1) fUD_RECBASE_NREC ∧ runsNow s 0x0A08 [1, 0] = true
        ∧ 8 * ((s.readRec 1 0).2.getD (List.replicate 8 0) ++ [0]).length ≤ 4096)
    ∧ (let s := waits 0x0C03 [2 ^ 21 - 1] [(DIR_CTRL, fDIR_CTRL_EN, 1)];
      2 ^ 21 - 1 < 2 ^ 21 ∧ s.on DIR_CTRL fDIR_CTRL_EN = true ∧ runsNow s 0x0C03 [2 ^ 21 - 1] = true) := by
  refine ⟨by decide, by decide, by decide, by decide, by decide, by decide, by decide, by decide, by decide, by decide, by decide, by decide, by decide⟩

/-- A command of a package that holds a role at the Ringmaster, with fields of the Ringmaster's and the package's state set. -/
def roled (code : Nat) (args : List Nat) (l : List (Nat × Fld × Nat)) (f : RmSt → RmSt) (g : PkgSt → PkgSt) : State :=
  ((waits code args l).modRm f).modPkg g

/-- The row executes as the package stands after a start. -/
def plain (code : Nat) : Bool := runsNow (waits code [1] []) code [1]

theorem witness_CommandsHaveTheirEffect :
    (∀ code ∈ [0x0901, 0x0503, 0x0B03, 0x0B04, 0x0D01, 0x0F01, 0x0F04, 0x0F05, 0x0F07, 0x100A, 0x1009, 0x0900, 0x1005, 0x1004, 0x0D02], plain code = true)
    ∧ (maskCores [1]).filter (waits 0x0900 [1] []).coreOn = [0] ∧ (waits 0x0900 [1] []).on (SQ_CTRL 0) fSQ_CTRL_EN = true
    ∧ (let s := { roled 0x0501 [0, 1, 4] memFields id id with sched := { State.reset.sched with glayers := 1, gbase := 0 } };
      let s := (s.hallWrite 0 (leBytes 16 (15 * 2 ^ 16 + 15 * 2 ^ 20)) Hint.none).s
      0 < s.sched.glayers ∧ State.gfAllow (s.gfEntry 0) 1 / 2 ^ State.gfRank 4 % 2 = 1 ∧ runsNow s 0x0501 [0, 1, 4] = true)
    ∧ (let s := { waits 0x0502 [0, 1] [] with sched := { State.reset.sched with glayers := 1 } }; 0 < s.sched.glayers ∧ runsNow s 0x0502 [0, 1] = true)
    ∧ (let l := (PKG_CONFIG, fPKG_CONFIG_STACKMAP, 1) :: memFields;
      let s := waits 0x0B01 [0, 0] l; s.siteHere 0 = true ∧ s.rd (MEM_CH_LIVE 0) fMEM_CH_LIVE_MAP / 2 ^ 0 % 2 = 1
        ∧ s.on (MEM_STATUS 0) fMEM_STATUS_COMPACTING = false ∧ runsNow s 0x0B01 [0, 0] = true ∧ runsNow (waits 0x0B02 [0] l) 0x0B02 [0] = true)
    ∧ (let s := waits 0x0B06 [0, 3] memFields; s.rd (PT_CH_INFO 0 3) fPT_CH_INFO_STATE = 0 ∧ s.dieRange 0 ≠ 0 ∧ runsNow s 0x0B06 [0, 3] = true)
    ∧ (let s := waits 0x0B07 [1] memFields; s.on (PT_STATUS 1) fPT_STATUS_COMPACTING = false ∧ s.on (UD_STATUS 1) fUD_STATUS_WALKING = false
        ∧ s.on (UD_STATUS 1) fUD_STATUS_HOLDING = false ∧ runsNow s 0x0B07 [1] = true)
    ∧ (waits 0x0D02 [1] []).enrolled = 0
    ∧ (∀ e ∈ [2, 3], let s := waits 0x0D03 [] [(FAB_ENROL, fFAB_ENROL_STATE, e)]; s.enrolled = e ∧ runsNow s 0x0D03 [] = true)
    ∧ (∀ code ∈ [0x0E01, 0x0E02, 0x0E03, 0x0E04], ∀ m ∈ [true, false], ∀ fwd ∈ [[], [1]],
      let s := roled code [2000, 5, 0] [(FAB_ENROL, fFAB_ENROL_STATE, 3), (FAB_ENROL, fFAB_ENROL_RM_VALID, 1)] (fun r => { r with master := m, standby := some 9 })
        fun p => { p with fwd := fwd };
      s.rm.master = m ∧ s.rm.suspended = false ∧ s.rm.standby ≠ none ∧ s.rm.reshard = none ∧ s.rm.epoch = 0 ∧ s.enrolled = 3
        ∧ s.on FAB_ENROL fFAB_ENROL_RM_VALID = true ∧ s.pkg.fwd = fwd ∧ runsNow s code [2000, 5, 0] = true)
    ∧ (∀ w ∈ [false, true], let s := ({ roled 0x0E02 [2000] [] (fun r => { r with master := true }) id with
          sched := { State.reset.sched with planned := 2000 } }).modTime fun t => { t with originWait := w };
      tickStatus 2000 s.sched.planned = 0 ∧ s.sched.planned ≠ 0 ∧ s.tickPending = false ∧ s.time.originWait = w ∧ runsNow s 0x0E02 [2000] = true)
    ∧ (let s := waits 0x0F06 [] [(PWR_STATUS, fPWR_STATUS_STATE, 3)]; s.rd PWR_STATUS fPWR_STATUS_STATE = 3 ∧ runsNow s 0x0F06 [] = true)
    ∧ (let s := waits 0x0F03 [7] [(PWR_ETAG_ID 63, fPWR_ETAG_ID_VALID, 1), (PWR_ETAG_ID 63, fPWR_ETAG_ID_TAG, 7)];
      s.tagSlot 7 = some 63 ∧ runsNow s 0x0F03 [7] = true)
    ∧ (∀ n ∈ [0, 10, 20], let s := waits 0x1008 [4096, n] [(HIF_STATUS, fHIF_STATUS_BME, 1)];
      s.on HIF_STATUS fHIF_STATUS_BME = true ∧ runsNow s 0x1008 [4096, n] = true)
    ∧ (waits 0x1009 [1] []).viaClass (.taken 1) = 1
    ∧ (let s := waits 0x100B [0] []; s.pkg.flashBy = none ∧ runsNow s 0x100B [0] = true) := by
  refine ⟨by decide, by decide, by decide, by decide, by decide, by decide, by decide, by decide, by decide, by decide, by decide, by decide, by decide, by decide,
    by decide, by decide, by decide⟩

/-- An image of a plan of 2000 beats, with nothing for any core or die. -/
def emptyImage : SchedImage := ⟨2000, 0, 0, List.replicate 12 0, 80, [], [], [], [], 0, [], [], [], [], false, []⟩

/-- A package whose cores are all disabled, where a schedule may be loaded. -/
def sDark : State :=
  let s := waits 0x1004 [1] []
  { s with regs := (List.range 288).map (fun b => (CAP_STATE b, 0#64)) ++ s.regs }

theorem sget_map_mem {V : Type} (d v : V) (f : Nat → Nat) (r : List (Nat × V)) : ∀ (l : List Nat) (b : Nat), b ∈ l →
    sget d (f b) (l.map (fun b => (f b, v)) ++ r) = v
  | a :: l, b, h => by
    simp only [List.map_cons, List.cons_append, sget]
    split
    · rfl
    · rename_i n
      rcases List.mem_cons.1 h with e | e
      · exact absurd (by rw [e]) n
      · exact sget_map_mem d v f r l b e

theorem sDark_dark : sDark.anyRun = false := by
  simp only [State.anyRun, List.any_eq_false]
  intro x _
  have : sDark.coreOn x.1 = false := by
    by_cases h : x.1 < 288
    · have e : sDark.reg (CAP_STATE x.1) = 0#64 := sget_map_mem _ _ CAP_STATE _ (List.range 288) x.1 (List.mem_range.2 h)
      simp only [State.coreOn, State.on, State.rd, e]
      simp [fget]
    · simp [State.coreOn, h]
  simp [this]

theorem witness_CommandsHaveTheirEffect_schedule :
    sDark.anyRun = false ∧ firstBad (imageChecks (sDark.placeImage emptyImage) emptyImage) = none
      ∧ ∀ code ∈ [0x1004, 0x1005], runsNow { sDark with pkg := (waits code [1] []).pkg } code [1] = true := by
  refine ⟨sDark_dark, by decide +kernel, by decide +kernel⟩

/-- A package that boots from slot A and takes the image of FLASH_WRITE's argument. -/
def sFlash : State :=
  (waits 0x1006 [0, 581] [(HIF_STATUS, fHIF_STATUS_BME, 1)]).modPkg fun p => { p with
    image := some factoryImage, fuse := { p.fuse with key := signedKey, part := 0 } }

theorem witness_CommandsHaveTheirEffect_flash :
    sFlash.Executes 1 0x1006 (cmd0 0x1006 [0, 581]) ∧ sFlash.pkg.flashBy = none ∧ sFlash.on HIF_STATUS fHIF_STATUS_BME = true
    ∧ sFlash.pkg.image = some factoryImage ∧ sFlash.pkg.fuse.part = 0 ∧ sFlash.pkg.fuse.key = signedKey
    ∧ (signedImage.take 581 = signedImage ∧ signedImage.length ≤ slotSize ∧ factoryImage.seq < imgNum signedImage 8 8) :=
  ⟨executes (by decide), by decide, by decide, rfl, rfl, rfl, by decide⟩

/-- A command on both update dies, enabled, holding their step or not. -/
def onBoth (code : Nat) (args : List Nat) (holding : Nat) : State :=
  waits code (3 :: args) [(UD_CTRL 0, fUD_CTRL_EN, 1), (UD_CTRL 1, fUD_CTRL_EN, 1), (UD_STATUS 0, fUD_STATUS_HOLDING, holding), (UD_STATUS 1, fUD_STATUS_HOLDING, holding)]

/-- A valid record of the built-in rule with no rows, no copies and its slots at offset 0. -/
def rec0 : List Nat := [2 ^ 63, 0, 0, 0, 2 * 2 ^ 33, 0xFFFFFFFF, 0, 0]

/-- A command on record 0 of die 1. -/
def onRecord (code : Nat) (args : List Nat) : State :=
  (waits code (1 :: 0 :: args) (memFields ++ [(UD_CTRL 1, fUD_CTRL_EN, 1), (UD_RECBASE 1, fUD_RECBASE_NREC, 1), (PT_RANGE 1, fPT_RANGE_BYTES, 2 ^ 32),
    (PT_STATUS 1, fPT_STATUS_STATE, 2)])).modMem fun m =>
      { m with known := [lineKey 11 0], peat := memStore [] (2 ^ 40) (rec0.flatMap (leBytes 8)) }

theorem witness_UpdateCommandsHaveTheirEffect :
    (∀ code ∈ [0x0A00, 0x0A01, 0x0A02, 0x0A07], ∀ h ∈ [0, 1], let s := onBoth code [5, 6, 1] h;
      runsNow s code [3, 5, 6, 1] = true ∧ maskDies 3 = [0, 1] ∧ ∀ d ∈ [0, 1], s.on (UD_CTRL d) fUD_CTRL_EN = true ∧ s.noMem d = false
        ∧ s.on (UD_STATUS d) fUD_STATUS_WALKING = false ∧ s.rd (UD_STATUS d) fUD_STATUS_HOLDING = h)
    ∧ (runsNow (waits 0x0A00 [2] [(UD_CTRL 1, fUD_CTRL_EN, 0)]) 0x0A00 [2] = true ∧ maskDies 2 = [1] ∧ (waits 0x0A00 [2] [(UD_CTRL 1, fUD_CTRL_EN, 0)]).on (UD_CTRL 1) fUD_CTRL_EN = false)
    ∧ ∀ code ∈ [0x0A03, 0x0A04, 0x0A05, 0x0A06], let s := onRecord code [5, 1]; let x := (s.readRec 1 0).1;
      runsNow s code [1, 0, 5, 1] = true ∧ s.noMem 1 = false ∧ s.on (UD_CTRL 1) fUD_CTRL_EN = true ∧ 0 < s.rd (UD_RECBASE 1) fUD_RECBASE_NREC
        ∧ (s.readRec 1 0).2 = some rec0 ∧ x.updBusy 1 0 = false ∧ x.updHeld 1 0 = false ∧ (x.ud 1).xfers = [] ∧ rcValid rec0 = true
        ∧ x.recCheck 1 rec0 = none ∧ rcTorn rec0 = false ∧ rcInplace rec0 = false :=
  ⟨by decide, by decide, by decide⟩

/-- A command on the directory's last entry, cached with words and a count of moves; the entry's words are those of 12 R350. -/
def onEntry (code : Nat) (args o : List Nat) (infl : Nat) : State :=
  (waits code ((2 ^ 21 - 1) :: args) (memFields ++ [(DIR_CTRL, fDIR_CTRL_EN, 1)])).modDir fun d => { d with cache := [⟨2 ^ 21 - 1, o, infl⟩] }

/-- The words of a raw entry of no bytes at address 0 of the stack tier, in a state, pinned or not. -/
def rawEnt (valid state pin : Nat) : List Nat := [valid * 2 ^ 63 + state * 2 ^ 61 + 2 ^ 58 + pin * 2 ^ 51, 0, 0, 0]

/-- The command runs on the entry. -/
def entryRuns (s : State) (code : Nat) (args : List Nat) : Bool :=
  runsNow s code ((2 ^ 21 - 1) :: args) && s.on DIR_CTRL fDIR_CTRL_EN && !s.dirFenced (2 ^ 21 - 1) && !s.dir.walks.contains (2 ^ 21 - 1)
    && !s.dir.queue.contains (2 ^ 21 - 1)

theorem witness_DirectoryCommandsHaveTheirEffect :
    (∀ code ∈ [0x0C00, 0x0C01, 0x0C07], let s := (waits code ((2 ^ 21 - 1) :: rawEnt 1 0 0) (memFields ++ [(DIR_CTRL, fDIR_CTRL_EN, 1), (DIR_BASE, fDIR_BASE_BASE, 2 ^ 12)]));
      entryRuns s code (rawEnt 1 0 0) = true ∧ (s.entryOf (2 ^ 21 - 1)).2 = none ∧ s.entOk (State.entArg (rawEnt 1 0 0)) = true)
    ∧ (∀ code ∈ [0x0C00, 0x0C01], ∀ v ∈ [0, 1], let s := onEntry code (rawEnt 1 0 0) (rawEnt v 0 0) 0;
      entryRuns s code (rawEnt 1 0 0) = true ∧ (s.entryOf (2 ^ 21 - 1)).2 = some (rawEnt v 0 0) ∧ (entValid (rawEnt v 0 0) = true ↔ v = 1)
        ∧ entState (rawEnt v 0 0) ≠ entMoving ∧ s.entOk (State.entArg (rawEnt 1 0 0)) = true)
    ∧ (∀ code ∈ [0x0C02, 0x0C04, 0x0C05, 0x0C06, 0x0C07], ∀ x ∈ [(0, 0, 0), (0, 0, 1), (0, 1, 0), (1, 0, 0), (1, 0, 1)],
      let st := x.1; let pin := x.2.1; let n := x.2.2; let o := rawEnt 1 st pin; let s := onEntry code [64, 0] o n;
      let m := entSet [entWord o 0, 64, entWord o 2, entWord o 3] 60 59 0;
      entryRuns s code [64, 0] = true ∧ (s.entryOf (2 ^ 21 - 1)).2 = some o ∧ entValid o = true ∧ entState o = st ∧ (entPin o = true ↔ pin = 1)
        ∧ (s.noMoves (2 ^ 21 - 1) = true ↔ n = 0) ∧ s.entOk m = true)
    ∧ (entIdle = 0 ∧ entMoving = 1)
    ∧ (∀ on ∈ [0, 1], ∀ code ∈ [0x0C00, 0x0C01, 0x0C02, 0x0C04, 0x0C05, 0x0C06, 0x0C07, 0x0C08], let s := waits code [1] [(DIR_CTRL, fDIR_CTRL_EN, on)];
      runsNow s code [1] = true ∧ (s.on DIR_CTRL fDIR_CTRL_EN = true ↔ on = 1)) :=
  ⟨by decide +kernel, by decide +kernel, by decide +kernel, by decide, by decide +kernel⟩

/-- A package in LOCAL whose host port may command nothing. -/
def sDenied : State := live [(PKG_PERM 1, fPKG_PERM_MASK, 0)]

theorem witness_CommandsDeniedAndCompleted :
    (∀ code ∈ [0x0501, 0x0900, 0x0902, 0x0A00, 0x0A02, 0x0B01, 0x0B07, 0x0C00, 0x0C08, 0x0D01, 0x0E03, 0x0F01, 0x0F04, 0x1000, 0x1005, 0x1008, 0x100A],
      sDenied.firmware = true ∧ sDenied.jnlRoom = true ∧ (cmdBit code).isSome = true ∧ (List.replicate (cmdWords code) 0).length = cmdWords code
        ∧ sDenied.mayCommand 1 (State.needBit 1 code ((cmdBit code).getD 0)) = false ∧ sDenied.rd JNL_HEAD fJNL_HEAD_SEQ + 1 < 2 ^ 64)
    ∧ (let s := (waits 0x1000 [] []).jnlPut { JEnt.empty with seq := 1 };
      (s.jnlAt (cmd0 0x1000 []).seq).seq = (cmd0 0x1000 []).seq ∧ 0 % 8192 ≠ (cmd0 0x1000 []).seq % 8192)
    ∧ (cmd0 0x1000 []).quiet = false ∧ ({ cmd0 0x1000 [] with cls := 0 }).quiet = false ∧ ({ cmd0 0x1000 [] with cls := 0 }).cls = 0 :=
  ⟨by decide, by decide, by decide, by decide, rfl⟩

/-- A package in LOCAL with stack site 9, with the host's expert and turnstile permissions or without. -/
def hosted (mask : Nat) (l : List (Nat × Fld × Nat)) : State := live ((PKG_PERM 1, fPKG_PERM_MASK, mask) :: (PKG_CONFIG, fPKG_CONFIG_STACKMAP, 512) :: l)

theorem witness_RegisterAccessesFollowTheirCodes :
    (∀ mask ∈ [0, 2 ^ 11 + 2 ^ 12], let s := hosted mask [];
      s.hostUp = true ∧ (s.holds 1 11 = true ↔ mask ≠ 0) ∧ (s.holds 1 12 = true ↔ mask ≠ 0) ∧ s.coreOn 287 = true ∧ 512 / 2 ^ 9 % 2 = 1
        ∧ s.rd PKG_CONFIG fPKG_CONFIG_STACKMAP / 2 ^ 9 % 2 = 1 ∧ 1 ∉ s.mem.recs)
    ∧ State.barShape HIF_TMO 3 = false ∧ State.barShape (PKG_SERIAL + 4) 8 = false
    ∧ 1 ∈ ((hosted 0 []).modMem fun m => { m with recs := [1] }).mem.recs
    ∧ (∀ v ∈ [0, 2, 4], (v / 2 % 4 = 0 ↔ v = 0))
    ∧ (∀ st ∈ [0, 1, 2], let s := hosted (2 ^ 11) [(DIR_CTRL, fDIR_CTRL_EN, 0), (DIR_STATUS, fDIR_STATUS_STATE, st)];
      s.holds 1 11 = true ∧ s.on DIR_CTRL fDIR_CTRL_EN = false ∧ s.rd DIR_STATUS fDIR_STATUS_STATE = st) := by decide

/-- The 64 bytes of a frame that carries a command's code and its arguments, all zero (17 R514). -/
def frame0 (code : Nat) : List Nat := leBytes 2 code ++ leBytes 2 (8 * cmdWords code) ++ List.replicate 60 0

/-- A host queue of 16 entries with one frame in it; the completion queue's tail on its last entry, with a completion due. -/
def sQueue : State :=
  (live [(PKG_PERM 1, fPKG_PERM_MASK, 2 ^ 16 - 1), (HIF_CTRL, fHIF_CTRL_CQEN, 1), (HIF_STATUS, fHIF_STATUS_BME, 1), (HIF_SQ, fHIF_SQ_LOG2, 4),
    (HIF_SQ, fHIF_SQ_HEAD, 15), (HIF_CQ, fHIF_CQ_LOG2, 4), (HIF_CQ, fHIF_CQ_TAIL, 15), (HIF_CQ, fHIF_CQ_HEAD, 8), (HIF_CQ, fHIF_CQ_PHASE, 1), (HIF_DBMAP 238, fHIF_DBMAP_EN, 1)]).modPkg
    fun p => { p with comps := [⟨1, 0, 0, ocDone, 1, 0, 4096, List.replicate 16 0⟩] }

theorem witness_HostQueuesAndMessages :
    (sQueue.hostUp = true ∧ (∀ v ∈ [15, 16], (v % 2 ^ 16 < 2 ^ sQueue.rd HIF_SQ fHIF_SQ_LOG2 ↔ v = 15))
      ∧ (∀ page ∈ [1, 239], (sQueue.on (HIF_DBMAP (page - 1)) fHIF_DBMAP_EN = true ↔ page = 239)) ∧ sQueue.holds 1 12 = true)
    ∧ (let f := frameOf (frame0 0x1000) [];
      sQueue.mayFetch = true ∧ f.parses 1 = true ∧ cmdBit f.code = some 0 ∧ sQueue.firmware = true ∧ sQueue.jnlRoom = true
        ∧ sQueue.mayCommand 1 (State.needBit 1 f.code 0) = true ∧ sQueue.pkg.cmds.length < 64)
    ∧ (frameOf (frame0 0xFFFF) []).parses 1 = false
    ∧ (live []).rd HIF_SQ fHIF_SQ_HEAD = (live []).rd HIF_SQ fHIF_SQ_TAIL
    ∧ (sQueue.on HIF_CTRL fHIF_CTRL_CQEN = true ∧ sQueue.on HIF_STATUS fHIF_STATUS_BME = true
      ∧ sQueue.oldestComp 1 = some ⟨1, 0, 0, ocDone, 1, 0, 4096, List.replicate 16 0⟩ ∧ 8 < (List.replicate 16 0).length ∧ 4096 ≠ 0)
    ∧ ((live []).oldestComp 1 = none ∧ (live []).on HIF_CTRL fHIF_CTRL_CQEN = false ∧ 3 % 2 = 1 ∧ 2 % 2 = 0)
    ∧ ({ live [] with msix := { (live []).msix with pend := [2] } }).msix.pend = [2]
    ∧ ((waits 0x1006 [] []).pkg.cmds.find? fun x => x.seq = 1) = some (cmd0 0x1006 []) ∧ (cmd0 0x1006 []).code = 0x1006
    ∧ ((sQueue.pkg.cmds.find? fun x => x.seq = 9) = none ∧ 40 < (frameOf (frame0 0x0900) []).alen ∧ frame0 0x0900 ≠ [] ∧ 0 < bar2Size) := by
  refine ⟨by decide, by decide, by decide, by decide, by decide, by decide, by decide, by decide, by decide, by decide⟩

def dev0 : CxlDev := ⟨1, 0, 7, 2 ^ 28, true, true⟩

/-- A package with CXL port 3, its link down, with devices recorded from before. -/
def sCxl (was : List (Nat × Nat)) : State :=
  let s := live [(HIF_CXL 2, fHIF_CXL_PRESENT, 1)]
  { s with hif := { s.hif with cxl := sput [] 3 was s.hif.cxl } }

theorem witness_HostResetsAndCxlLinks :
    (live []).hostUp = true
    ∧ (∀ was ∈ [[], [(7, 2 ^ 28)], [(7, 2 ^ 28), (8, 2 ^ 28)]], let s := sCxl was;
      s.hostUp = true ∧ s.cxlHere 3 = true ∧ s.on (HIF_CXL 2) fHIF_CXL_UP = false ∧ [dev0].length ≤ 4 ∧ dev0.type3 = true ∧ dev0.active = true
        ∧ sget [] 3 s.hif.cxl = was)
    ∧ (dev0.serial, dev0.cap) = (7, 2 ^ 28)
    ∧ ({ sCxl [] with hif := { (sCxl []).hif with cxlWait := [(3, [], [7])] } }).hif.cxlWait = [(3, [], [7])] := by
  refine ⟨by decide, by decide, by decide, by decide⟩

/-- The management port with a completion due or with eight, the coolant loop's limits as after reset. -/
def sMgmt (n : Nat) : State :=
  (live [(PKG_PERM 0, fPKG_PERM_MASK, 2 ^ 16 - 1), (PWR_POWER, fPWR_POWER_P1MS, 1024), (HIF_SMB, fHIF_SMB_ALERT, 1)]).modPkg
    fun p => { p with comps := List.replicate n ⟨0, 0, 0, ocDone, 1, 0, 0, []⟩ }

theorem witness_ManagementPort :
    (sMgmt 0).hostUp = true
    ∧ (nearestEven ((sMgmt 0).rd PWR_POWER fPWR_POWER_P1MS) (2 ^ 1) ≤ 1023 ∧ ∀ k, k < 1 → 1023 < nearestEven ((sMgmt 0).rd PWR_POWER fPWR_POWER_P1MS) (2 ^ k))
    ∧ ((live [(PWR_POWER, fPWR_POWER_P1MS, 1023)]).rd PWR_POWER fPWR_POWER_P1MS = 1023 ∧ nearestEven 1023 (2 ^ 0) ≤ 1023)
    ∧ [0].length ≠ 7
    ∧ (let data := leBytes 2 1440 ++ leBytes 2 1440 ++ leBytes 2 1000 ++ [5];
      data.length = 7 ∧ (∀ b ∈ data, b < 256) ∧ (sMgmt 0).pkState ≠ pkHalted ∧ imgNum data 0 2 ≤ 1440 ∧ imgNum data 2 2 ≤ 1440 ∧ imgNum data 4 2 ≤ 1000
        ∧ (sMgmt 0).pwr.reports = [] ∧ imgNum data 6 1 ≠ (sMgmt 0).rd PWR_COOL fPWR_COOL_SEQ)
    ∧ ((sMgmt 0).firmware = true ∧ (sMgmt 0).jnlRoom = true ∧ (sMgmt 0).mayCommand 0 7 = true ∧ (sMgmt 0).pkg.cmds = [])
    ∧ (let f := frameOf (frame0 0x1000) [];
      (frame0 0x1000).length = 64 ∧ ((sMgmt 0).pkg.comps.filter fun c => c.cls = 0).length < 8 ∧ f.parses 0 = true ∧ cmdBit f.code = some 0
        ∧ (sMgmt 0).mayCommand 0 0 = true ∧ (sMgmt 0).pkg.cmds.length < 64)
    ∧ 8 ≤ ((sMgmt 8).pkg.comps.filter fun c => c.cls = 0).length
    ∧ ((sMgmt 1).oldestComp 0 = some ⟨0, 0, 0, ocDone, 1, 0, 0, []⟩ ∧ (sMgmt 0).oldestComp 0 = none)
    ∧ 0 ∉ smbusCodes ∧ (sMgmt 0).on HIF_SMB fHIF_SMB_ALERT = true := by
  refine ⟨by decide, by decide, by decide, by decide, by decide, by decide, by decide, by decide, by decide, by decide, by decide⟩

/-- The debug port with its lock open or shut, and a completion due. -/
def sDebug (locked : Nat) : State :=
  (live [(PKG_LOCK, fPKG_LOCK_DBG_LOCKED, locked), (PKG_PERM 4, fPKG_PERM_MASK, 2 ^ 16 - 1)]).modPkg
    fun p => { p with comps := [⟨4, 0, 0, ocDone, 1, 0, 0, []⟩] }

theorem witness_TestPortAndDebug :
    (∀ st ∈ [pkReset, pkRecovery, pkLocal], ((live [(PKG_STATE, fPKG_STATE_STATE, st)]).pkState = pkReset ∨ (live [(PKG_STATE, fPKG_STATE_STATE, st)]).pkState = pkRecovery)
      ↔ st ≠ pkLocal)
    ∧ (∀ l ∈ [0, 1], (sDebug l).hostUp = true ∧ ((sDebug l).on PKG_LOCK fPKG_LOCK_DBG_LOCKED = true ↔ l = 1) ∧ (sDebug l).jnlRoom = true)
    ∧ (let f := frameOf (frame0 0x1000) [];
      f.parses 4 = true ∧ cmdBit f.code = some 0 ∧ (sDebug 0).firmware = true ∧ (sDebug 0).mayCommand 4 0 = true ∧ (sDebug 0).pkg.cmds.length < 64)
    ∧ (sDebug 0).oldestComp 4 = some ⟨4, 0, 0, ocDone, 1, 0, 0, []⟩ ∧ (live []).oldestComp 4 = none := by
  refine ⟨by decide, by decide, by decide, by decide⟩

/-- A package with a reference clock and the whole state in its canonical form, not the state after reset. -/
theorem witness_StepKeepsCanonicalForms : Canonical ((live []).modMem fun m => { m with stack := memStore [] 64 [5, 0, 7] }) :=
  ⟨by decide, by decide, by decide, by decide, by decide⟩

/-! Commands that are not well formed: for each check one that it refuses. -/

def reqP (f : Packet → Packet) : Bool := wellFormed (.fabRd 0 (f (req 0x00 0 0 [])))

theorem test_ill_formed_numbers :
    wellFormed (.nop 288 1) = false ∧ wellFormed (.nop 287 0) = false ∧ wellFormed (.nop 287 4) = false ∧ wellFormed (.nop 287 3) = true
      ∧ wellFormed (.cxlLinkDown 0) = false ∧ wellFormed (.cxlLinkDown 4) = false ∧ wellFormed (.turnstileDoorbell 240 0 0) = false
      ∧ wellFormed (.turnstileDoorbell 0 0 0) = false ∧ wellFormed (.tickBoundary 12) = false ∧ wellFormed (.walkStart 2) = false
      ∧ wellFormed (.signalDetected 16) = false ∧ wellFormed (.memCtrlCenWrite 10 0) = false ∧ wellFormed (.registerReadClear 0 3) = false
      ∧ wellFormed (.hotReset 3 1 false) = false ∧ wellFormed (.hotReset 16 7 false) = false ∧ wellFormed (.hotReset 16 6 false) = true := by decide

/-- A start at which every link trains and nothing fails. -/
def env0 : StartEnv := ⟨[], [], [], [], [], false, 16, 6, true, 1⟩

theorem test_ill_formed_data :
    wellFormed (.bar2Write 0 [256]) = false ∧ wellFormed (.frameFetch [0] []) = false ∧ wellFormed (.rmReshard ⟨.taken 1, none⟩ [4096]) = false
      ∧ wellFormed (.stackRead 0 64 0 0 0 [(67, 0)] false) = false ∧ wellFormed (.timeCtrlAlignWrite 0 (List.replicate 17 0)) = false
      ∧ wellFormed (.pkgQuery (.taken 0)) = false ∧ wellFormed (.pkgQuery (.arrives 5 0 [])) = false ∧ wellFormed (.pkgQuery (.arrives 7 0 [])) = true
      ∧ wellFormed (.pkgQuery (.arrives 1 0 [2 ^ 64])) = false ∧ wellFormed (.rmQuery ⟨.taken 1, some (0, 0, [])⟩) = false
      ∧ wellFormed (.flitReceive 0 [] [] [] 0 0) = false ∧ wellFormed (.powerGood { env0 with width := 3 }) = false ∧ wellFormed (.powerGood env0) = true
      ∧ wellFormed (.disc 0 { ident1 0 with gen := 16 }) = false := by decide

theorem test_ill_formed_packets :
    reqP id = true ∧ reqP (fun p => { p with vc := 5 }) = false ∧ reqP (fun p => { p with src := 4096 }) = false ∧ reqP (fun p => { p with hops := 16 }) = false
      ∧ reqP (fun p => { p with len := 257 }) = false ∧ reqP (fun p => { p with data := [256] }) = false ∧ reqP (fun p => { p with addr := 2 ^ 64 }) = false := by
  decide

/-! Results that the spec works out. -/

def toB16 (rm : Rnd) (x : Nat) : Nat × Nat := let r := Fmt.b16.ofVal rm 0xC123 (f32v x); (r.val, r.ev)

/-- The table "F32 to B16 in each mode" of spec/02_number_formats.md. -/
theorem test_f32_to_b16 :
    ([0x3F808000, 0x3F818000, 0x3F804000, 0x7F7FFFFF].map fun x => (toB16 .rne x).1) = [0x3F80, 0x3F82, 0x3F80, 0x7F80]
      ∧ ([0x3F808000, 0x3F818000, 0x3F804000, 0x7F7FFFFF].map fun x => (toB16 .rtz x).1) = [0x3F80, 0x3F81, 0x3F80, 0x7F7F]
      ∧ ([0x3F808000, 0x3F818000, 0x3F804000, 0x7F7FFFFF].map fun x => (toB16 .sr x).1) = [0x3F81, 0x3F82, 0x3F81, 0x7F7F]
      ∧ ([Rnd.rne, .rtz, .sr].all fun m => (toB16 m 0x7F7FFFFF).2 / 4 % 2 = 1) = true := by decide +kernel

/-- 2.75, -0.40, 0.10, 1.30 and 28 zeros, as F32. -/
def fourReals : List Val := [0x40300000, 0xBECCCCCD, 0x3DCCCCCD, 0x3FA66666].map f32v ++ List.replicate 28 Val.zero

/-- "One F4 block with a derived scale" of spec/02_number_formats.md. -/
theorem test_f4_block :
    quantiseBlock fourReals .f4 none .rne [] 0 = ⟨0x007E, [0x7, 0xA, 0x0, 0x5] ++ List.replicate 28 0, evInexact ||| evUnderflow⟩
      ∧ (packNibbles [0x7, 0xA, 0x0, 0x5]) = [0xA7, 0x50] := by decide +kernel

/-- "The same values into I8 with a forced static scale" of spec/02_number_formats.md: 200.4 and -0.3. -/
theorem test_i8_forced_scale :
    quantiseBlock ([0x43486666, 0xBE99999A].map f32v ++ List.replicate 30 Val.zero) .i8 (some 0x7F) .rne [] 0
      = ⟨0x027F, 127 :: List.replicate 31 0, evInexact ||| evSaturated ||| evUnderflow⟩ := by decide +kernel

/-- "Lower scale exhaustion into F8E4" of spec/02_number_formats.md. -/
theorem test_scale_exhausted :
    quantiseBlock (.fin false 1 (-140) :: List.replicate 31 Val.zero) .f8e4 none .rne [] 0
      = ⟨0x0100, List.replicate 32 0, evInexact ||| evUnderflow ||| evScaleExhausted⟩ := by decide +kernel

/-- "An F8E4 element decoded into each wide format" of spec/02_number_formats.md. -/
theorem test_f8e4_decoded :
    ([Fmt.f32, .b16, .h16].map fun t => (t.ofVal .rne 0 (Fmt.f8e4.decodeBlockElem 0x85 0xC5)).val) = [0xC3500000, 0xC350, 0xDA80] := by decide +kernel

/-- Steps 3 to 6 of "One block through the pipeline" of spec/04_accumulators_and_drain.md: 3.1, 0, 0.7, 12.5. -/
theorem test_drain_block :
    quantiseBlock ([0x40466666, 0, 0x3F333333, 0x41480000].map f32v ++ List.replicate 28 Val.zero) .f8e4 none .rne [] 0
      = ⟨0x007A, [0x6C, 0x00, 0x5B, 0x7C] ++ List.replicate 28 0, evInexact⟩ := by decide +kernel

/-- A block is 369,920 bits, 348,160 of them payload (13 R370); a codeword's value at every root is zero. -/
theorem test_blocks_and_codewords :
    blockBits = 369920 ∧ blockPayloadBits = 348160
      ∧ ((List.range 32).all fun i => decide (rsSyndrome i ([1, 5, 1023] ++ rsChecks [1, 5, 1023]) = 0)) = true := by decide +kernel

/-- The check value of the CRC-32 of IEEE 802.3 over the digits 1 to 9. -/
theorem test_crc32 : crc32 [0x31, 0x32, 0x33, 0x34, 0x35, 0x36, 0x37, 0x38, 0x39] = 0xCBF43926 := by decide +kernel

end Sys2Proof.Tests
end

section
namespace Sys2Proof.Machine

/-- A command that answers a next state touches only the parts of its footprint. -/
theorem exec_touches {c : Instr} {s t : State} (h : exec c s = .next t) : Touches (footprint c) s t := by
  cases c with
  | mwld => exact (execMwld_touches h).widen rfl
  | mwldBufferValid => exact (execMwldBufferValid_touches h).widen rfl
  | mmul => exact (execMmul_touches h).widen rfl
  | mmulComplete => exact (execMmulComplete_touches h).widen rfl
  | accld => exact (execAccld_touches h).widen rfl
  | accldComplete => exact (execAccldComplete_touches h).widen rfl
  | drain => exact (execDrain_touches h).widen rfl
  | hookRow => exact (execHookRow_touches h).widen rfl
  | drainComplete => exact (execDrainComplete_touches h).widen rfl
  | ssmul => exact (execSsmul_touches h).widen rfl
  | ssmulComplete => exact (execSsmulComplete_touches h).widen rfl
  | snchkCheck => exact (execSnchkCheck_touches h).widen rfl
  | snchkEnd => exact (execSnchkEnd_touches h).widen rfl
  | vsetl => exact (execVsetl_touches h).widen rfl
  | vsetv => exact (execVsetv_touches h).widen rfl
  | vmap => exact (execVmap_touches h).widen rfl
  | vcvt => exact (execVcvt_touches h).widen rfl
  | vred => exact (execVred_touches h).widen rfl
  | vkrn => exact (execVkrn_touches h).widen rfl
  | veInstructionComplete => exact (execVeInstructionComplete_touches h).widen rfl
  | dmovCopy => exact (execDmovCopy_touches h).widen rfl
  | dmovTensor => exact (execDmovTensor_touches h).widen rfl
  | dmovFill => exact (execDmovFill_touches h).widen rfl
  | dmovComplete => exact (execDmovComplete_touches h).widen rfl
  | dmovFailed => exact (execDmovFailed_touches h).widen rfl
  | probeStart => exact (execProbeStart_touches h).widen rfl
  | probeTickExpiry => exact (execProbeTickExpiry_touches h).widen rfl
  | nop => exact (execNop_touches h).widen rfl
  | halt => exact (execHalt_touches h).widen rfl
  | streamEntersHalted => exact (execStreamEntersHalted_touches h).widen rfl
  | smovi => exact (execSmovi_touches h).widen rfl
  | salu => exact (execSalu_touches h).widen rfl
  | sld => exact (execSld_touches h).widen rfl
  | sldLoadComplete => exact (execSldLoadComplete_touches h).widen rfl
  | sst => exact (execSst_touches h).widen rfl
  | br => exact (execBr_touches h).widen rfl
  | dbnz => exact (execDbnz_touches h).widen rfl
  | tinc => exact (execTinc_touches h).widen rfl
  | tadv => exact (execTadv_touches h).widen rfl
  | treset => exact (execTreset_touches h).widen rfl
  | tepoch => exact (execTepoch_touches h).widen rfl
  | tickb => exact (execTickb_touches h).widen rfl
  | hint => exact (execHint_touches h).widen rfl
  | waitc => exact (execWaitc_touches h).widen rfl
  | rdt => exact (execRdt_touches h).widen rfl
  | instructionFetch => exact (execInstructionFetch_touches h).widen rfl
  | guardWatchdog => exact (execGuardWatchdog_touches h).widen rfl
  | tsIncrement => exact (execTsIncrement_touches h).widen rfl
  | streamStopped => exact (execStreamStopped_touches h).widen rfl
  | tickBoundary => exact (execTickBoundary_touches h).widen rfl
  | pendingSegmentEffect => exact (execPendingSegmentEffect_touches h).widen rfl
  | beatReplicaWrite => exact (execBeatReplicaWrite_touches h).widen rfl
  | timeExchange => exact (execTimeExchange_touches h).widen rfl
  | exchangeMissed => exact (execExchangeMissed_touches h).widen rfl
  | originTimeout => exact (execOriginTimeout_touches h).widen rfl
  | droopTrip => exact (execDroopTrip_touches h).widen rfl
  | realignmentStretch => exact (execRealignmentStretch_touches h).widen rfl
  | neighbourInformed => exact (execNeighbourInformed_touches h).widen rfl
  | crossingSynchronous => exact (execCrossingSynchronous_touches h).widen rfl
  | glideStart => exact (execGlideStart_touches h).widen rfl
  | glideEnd => exact (execGlideEnd_touches h).widen rfl
  | ageingSample => exact (execAgeingSample_touches h).widen rfl
  | stackRead => exact (execStackRead_touches h).widen rfl
  | stackWrite => exact (execStackWrite_touches h).widen rfl
  | stackAtomic => exact (execStackAtomic_touches h).widen rfl
  | cacheFill => exact (execCacheFill_touches h).widen rfl
  | stackFault => exact (execStackFault_touches h).widen rfl
  | scrubRead => exact (execScrubRead_touches h).widen rfl
  | compactionComplete => exact (execCompactionComplete_touches h).widen rfl
  | stackTemperatureRead => exact (execStackTemperatureRead_touches h).widen rfl
  | stackCeReadout => exact (execStackCeReadout_touches h).widen rfl
  | peatAccess => exact (execPeatAccess_touches h).widen rfl
  | moduleTemperatureRead => exact (execModuleTemperatureRead_touches h).widen rfl
  | directoryWalk => exact (execDirectoryWalk_touches h).widen rfl
  | tierTimeout => exact (execTierTimeout_touches h).widen rfl
  | lateReply => exact (execLateReply_touches h).widen rfl
  | walkStart => exact (execWalkStart_touches h).widen rfl
  | update => exact (execUpdate_touches h).widen rfl
  | commitWord => exact (execCommitWord_touches h).widen rfl
  | copyEmissionComplete => exact (execCopyEmissionComplete_touches h).widen rfl
  | scan => exact (execScan_touches h).widen rfl
  | normOut => exact (execNormOut_touches h).widen rfl
  | normIn => exact (execNormIn_touches h).widen rfl
  | entryComplete => exact (execEntryComplete_touches h).widen rfl
  | walkComplete => exact (execWalkComplete_touches h).widen rfl
  | degradedMark => exact (execDegradedMark_touches h).widen rfl
  | sedgeLinkReset => exact (execSedgeLinkReset_touches h).widen rfl
  | ckptDone => exact (execCkptDone_touches h).widen rfl
  | signalDetected => exact (execSignalDetected_touches h).widen rfl
  | trainingComplete => exact (execTrainingComplete_touches h).widen rfl
  | disc => exact (execDisc_touches h).widen rfl
  | flitReceive => exact (execFlitReceive_touches h).widen rfl
  | linkControlNak => exact (execLinkControlNak_touches h).widen rfl
  | credit => exact (execCredit_touches h).widen rfl
  | switch => exact (execSwitch_touches h).widen rfl
  | pause => exact (execPause_touches h).widen rfl
  | resume => exact (execResume_touches h).widen rfl
  | laneErrorWindow => exact (execLaneErrorWindow_touches h).widen rfl
  | switchTimeout => exact (execSwitchTimeout_touches h).widen rfl
  | portFailure => exact (execPortFailure_touches h).widen rfl
  | transitForward => exact (execTransitForward_touches h).widen rfl
  | fabRd => exact (execFabRd_touches h).widen rfl
  | fabRdp => exact (execFabRdp_touches h).widen rfl
  | fabWr => exact (execFabWr_touches h).widen rfl
  | fabAt => exact (execFabAt_touches h).widen rfl
  | fabInc => exact (execFabInc_touches h).widen rfl
  | fabRdr => exact (execFabRdr_touches h).widen rfl
  | fabWack => exact (execFabWack_touches h).widen rfl
  | fabAtr => exact (execFabAtr_touches h).widen rfl
  | fabIncack => exact (execFabIncack_touches h).widen rfl
  | fabPack => exact (execFabPack_touches h).widen rfl
  | fabNak => exact (execFabNak_touches h).widen rfl
  | treq => exact (execTreq_touches h).widen rfl
  | trsp => exact (execTrsp_touches h).widen rfl
  | duplicateRecordExpiry => exact (execDuplicateRecordExpiry_touches h).widen rfl
  | cseqHoldExpiry => exact (execCseqHoldExpiry_touches h).widen rfl
  | enrolReq => exact (execEnrolReq_touches h).widen rfl
  | enrolReqTimer => exact (execEnrolReqTimer_touches h).widen rfl
  | enrolGrant => exact (execEnrolGrant_touches h).widen rfl
  | enrolDeny => exact (execEnrolDeny_touches h).widen rfl
  | ready => exact (execReady_touches h).widen rfl
  | unready => exact (execUnready_touches h).widen rfl
  | work => exact (execWork_touches h).widen rfl
  | leave => exact (execLeave_touches h).widen rfl
  | leaveAck => exact (execLeaveAck_touches h).widen rfl
  | leaveTimeout => exact (execLeaveTimeout_touches h).widen rfl
  | noPortUpTimeout => exact (execNoPortUpTimeout_touches h).widen rfl
  | heartbeat => exact (execHeartbeat_touches h).widen rfl
  | heartbeatTimer => exact (execHeartbeatTimer_touches h).widen rfl
  | heartbeatMiss => exact (execHeartbeatMiss_touches h).widen rfl
  | routeSet => exact (execRouteSet_touches h).widen rfl
  | rmClaim => exact (execRmClaim_touches h).widen rfl
  | claimTimer => exact (execClaimTimer_touches h).widen rfl
  | claimSuccess => exact (execClaimSuccess_touches h).widen rfl
  | rmSync => exact (execRmSync_touches h).widen rfl
  | rmSyncTimer => exact (execRmSyncTimer_touches h).widen rfl
  | standbyTakeover => exact (execStandbyTakeover_touches h).widen rfl
  | quorumCheck => exact (execQuorumCheck_touches h).widen rfl
  | hbAckLoss => exact (execHbAckLoss_touches h).widen rfl
  | hbAck => exact (execHbAck_touches h).widen rfl
  | tickChange => exact (execTickChange_touches h).widen rfl
  | epochPrepare => exact (execEpochPrepare_touches h).widen rfl
  | epochClose => exact (execEpochClose_touches h).widen rfl
  | epochOpen => exact (execEpochOpen_touches h).widen rfl
  | stepDecide => exact (execStepDecide_touches h).widen rfl
  | normTotal => exact (execNormTotal_touches h).widen rfl
  | nodeGen => exact (execNodeGen_touches h).widen rfl
  | nodeRemoved => exact (execNodeRemoved_touches h).widen rfl
  | healthStepReport => exact (execHealthStepReport_touches h).widen rfl
  | stepTmo => exact (execStepTmo_touches h).widen rfl
  | healthSlip => exact (execHealthSlip_touches h).widen rfl
  | tickShrink => exact (execTickShrink_touches h).widen rfl
  | healthBeatLost => exact (execHealthBeatLost_touches h).widen rfl
  | healthLateContrib => exact (execHealthLateContrib_touches h).widen rfl
  | healthMemFence => exact (execHealthMemFence_touches h).widen rfl
  | healthPortDown => exact (execHealthPortDown_touches h).widen rfl
  | healthTorn => exact (execHealthTorn_touches h).widen rfl
  | healthNorm => exact (execHealthNorm_touches h).widen rfl
  | healthPrepared => exact (execHealthPrepared_touches h).widen rfl
  | healthLoaded => exact (execHealthLoaded_touches h).widen rfl
  | healthSyncAck => exact (execHealthSyncAck_touches h).widen rfl
  | healthCooling => exact (execHealthCooling_touches h).widen rfl
  | staleRead => exact (execStaleRead_touches h).widen rfl
  | powerControllerRun => exact (execPowerControllerRun_touches h).widen rfl
  | budgetStepSample => exact (execBudgetStepSample_touches h).widen rfl
  | budgetTakesEffect => exact (execBudgetTakesEffect_touches h).widen rfl
  | sensorSample => exact (execSensorSample_touches h).widen rfl
  | thermalLimitUpdate => exact (execThermalLimitUpdate_touches h).widen rfl
  | clockStopEnd => exact (execClockStopEnd_touches h).widen rfl
  | minimumPowerExit => exact (execMinimumPowerExit_touches h).widen rfl
  | traySilence => exact (execTraySilence_touches h).widen rfl
  | hintReceived => exact (execHintReceived_touches h).widen rfl
  | hintPhaseEnd => exact (execHintPhaseEnd_touches h).widen rfl
  | droopMarginAdapt => exact (execDroopMarginAdapt_touches h).widen rfl
  | energyAttribution => exact (execEnergyAttribution_touches h).widen rfl
  | thermalCycleSample => exact (execThermalCycleSample_touches h).widen rfl
  | wearSaveTimer => exact (execWearSaveTimer_touches h).widen rfl
  | powerGood => exact (execPowerGood_touches h).widen rfl
  | pkgPwrgdLow => exact (execPkgPwrgdLow_touches h).widen rfl
  | railOutOfRange => exact (execRailOutOfRange_touches h).widen rfl
  | refclkLoss => exact (execRefclkLoss_touches h).widen rfl
  | refclkReturn => exact (execRefclkReturn_touches h).widen rfl
  | pkgRst => exact (execPkgRst_touches h).widen rfl
  | lockstepMismatch => exact (execLockstepMismatch_touches h).widen rfl
  | gfmtQuery => exact (execGfmtQuery_touches h).widen rfl
  | gfmtPin => exact (execGfmtPin_touches h).widen rfl
  | gfmtRelease => exact (execGfmtRelease_touches h).widen rfl
  | gfmtLimits => exact (execGfmtLimits_touches h).widen rfl
  | sqStart => exact (execSqStart_touches h).widen rfl
  | sqStop => exact (execSqStop_touches h).widen rfl
  | sqQuery => exact (execSqQuery_touches h).widen rfl
  | udStepBegin => exact (execUdStepBegin_touches h).widen rfl
  | udStepCommit => exact (execUdStepCommit_touches h).widen rfl
  | udStop => exact (execUdStop_touches h).widen rfl
  | udRestore => exact (execUdRestore_touches h).widen rfl
  | udCkpt => exact (execUdCkpt_touches h).widen rfl
  | udReemit => exact (execUdReemit_touches h).widen rfl
  | udAcceptTorn => exact (execUdAcceptTorn_touches h).widen rfl
  | udSetExp => exact (execUdSetExp_touches h).widen rfl
  | udQuery => exact (execUdQuery_touches h).widen rfl
  | memQuery => exact (execMemQuery_touches h).widen rfl
  | memFence => exact (execMemFence_touches h).widen rfl
  | memCompact => exact (execMemCompact_touches h).widen rfl
  | memCacheRelease => exact (execMemCacheRelease_touches h).widen rfl
  | memCacheFlush => exact (execMemCacheFlush_touches h).widen rfl
  | ptQuery => exact (execPtQuery_touches h).widen rfl
  | ptFence => exact (execPtFence_touches h).widen rfl
  | ptCompact => exact (execPtCompact_touches h).widen rfl
  | dirCreate => exact (execDirCreate_touches h).widen rfl
  | dirSet => exact (execDirSet_touches h).widen rfl
  | dirDelete => exact (execDirDelete_touches h).widen rfl
  | dirQuery => exact (execDirQuery_touches h).widen rfl
  | dirBeginMove => exact (execDirBeginMove_touches h).widen rfl
  | dirCommitMove => exact (execDirCommitMove_touches h).widen rfl
  | dirAbortMove => exact (execDirAbortMove_touches h).widen rfl
  | dirMarkLost => exact (execDirMarkLost_touches h).widen rfl
  | dirFlush => exact (execDirFlush_touches h).widen rfl
  | fabQuery => exact (execFabQuery_touches h).widen rfl
  | fabPortSet => exact (execFabPortSet_touches h).widen rfl
  | fabJoin => exact (execFabJoin_touches h).widen rfl
  | fabLeave => exact (execFabLeave_touches h).widen rfl
  | rmQuery => exact (execRmQuery_touches h).widen rfl
  | rmReshard => exact (execRmReshard_touches h).widen rfl
  | rmTick => exact (execRmTick_touches h).widen rfl
  | rmPolicy => exact (execRmPolicy_touches h).widen rfl
  | rmHandover => exact (execRmHandover_touches h).widen rfl
  | pwrQuery => exact (execPwrQuery_touches h).widen rfl
  | pwrSetBudget => exact (execPwrSetBudget_touches h).widen rfl
  | pwrEnergyQuery => exact (execPwrEnergyQuery_touches h).widen rfl
  | pwrEnergyRelease => exact (execPwrEnergyRelease_touches h).widen rfl
  | pwrForceMin => exact (execPwrForceMin_touches h).widen rfl
  | pwrCoolClear => exact (execPwrCoolClear_touches h).widen rfl
  | pwrResume => exact (execPwrResume_touches h).widen rfl
  | pwrWearSave => exact (execPwrWearSave_touches h).widen rfl
  | pkgQuery => exact (execPkgQuery_touches h).widen rfl
  | warm => exact (execWarm_touches h).widen rfl
  | cold => exact (execCold_touches h).widen rfl
  | dieReset => exact (execDieReset_touches h).widen rfl
  | schedLoad => exact (execSchedLoad_touches h).widen rfl
  | schedUnload => exact (execSchedUnload_touches h).widen rfl
  | flashWrite => exact (execFlashWrite_touches h).widen rfl
  | jnlQuery => exact (execJnlQuery_touches h).widen rfl
  | jnlSpill => exact (execJnlSpill_touches h).widen rfl
  | dbgUnlock => exact (execDbgUnlock_touches h).widen rfl
  | dbgLock => exact (execDbgLock_touches h).widen rfl
  | returnCapture => exact (execReturnCapture_touches h).widen rfl
  | tsInc => exact (execTsInc_touches h).widen rfl
  | tsCountWrite => exact (execTsCountWrite_touches h).widen rfl
  | tsTargetWrite => exact (execTsTargetWrite_touches h).widen rfl
  | veSlotCfgWrite => exact (execVeSlotCfgWrite_touches h).widen rfl
  | veSlotContentWrite => exact (execVeSlotContentWrite_touches h).widen rfl
  | udRuleCfgWrite => exact (execUdRuleCfgWrite_touches h).widen rfl
  | raticksWrite => exact (execRaticksWrite_touches h).widen rfl
  | dirCtrlEnWrite => exact (execDirCtrlEnWrite_touches h).widen rfl
  | memCtrlCenWrite => exact (execMemCtrlCenWrite_touches h).widen rfl
  | timeCtrlAlignWrite => exact (execTimeCtrlAlignWrite_touches h).widen rfl
  | udRecbaseFirstWrite => exact (execUdRecbaseFirstWrite_touches h).widen rfl
  | timeBeatRead => exact (execTimeBeatRead_touches h).widen rfl
  | registerReadClear => exact (execRegisterReadClear_touches h).widen rfl
  | registerWrite => exact (execRegisterWrite_touches h).widen rfl
  | bar2Read => exact (execBar2Read_touches h).widen rfl
  | bar2Write => exact (execBar2Write_touches h).widen rfl
  | bar2Atomicop => exact (execBar2Atomicop_touches h).widen rfl
  | bar2Timeout => exact (execBar2Timeout_touches h).widen rfl
  | hifBar2Write => exact (execHifBar2Write_touches h).widen rfl
  | submissionDoorbell => exact (execSubmissionDoorbell_touches h).widen rfl
  | frameFetch => exact (execFrameFetch_touches h).widen rfl
  | turnstileDoorbell => exact (execTurnstileDoorbell_touches h).widen rfl
  | completionEntryWrite => exact (execCompletionEntryWrite_touches h).widen rfl
  | cqHeadWrite => exact (execCqHeadWrite_touches h).widen rfl
  | cqenWrite => exact (execCqenWrite_touches h).widen rfl
  | msixUnmask => exact (execMsixUnmask_touches h).widen rfl
  | dmaTimeout => exact (execDmaTimeout_touches h).widen rfl
  | flr => exact (execFlr_touches h).widen rfl
  | hotReset => exact (execHotReset_touches h).widen rfl
  | perst => exact (execPerst_touches h).widen rfl
  | cxlLinkUp => exact (execCxlLinkUp_touches h).widen rfl
  | cxlDeviceNotActive => exact (execCxlDeviceNotActive_touches h).widen rfl
  | cxlLinkDown => exact (execCxlLinkDown_touches h).widen rfl
  | clearFaults => exact (execClearFaults_touches h).widen rfl
  | capability => exact (execCapability_touches h).widen rfl
  | statusByte => exact (execStatusByte_touches h).widen rfl
  | statusWord => exact (execStatusWord_touches h).widen rfl
  | statusTemperature => exact (execStatusTemperature_touches h).widen rfl
  | statusCml => exact (execStatusCml_touches h).widen rfl
  | statusMfrSpecific => exact (execStatusMfrSpecific_touches h).widen rfl
  | readTemperature1 => exact (execReadTemperature1_touches h).widen rfl
  | readTemperature2 => exact (execReadTemperature2_touches h).widen rfl
  | readTemperature3 => exact (execReadTemperature3_touches h).widen rfl
  | readPin => exact (execReadPin_touches h).widen rfl
  | pmbusRevision => exact (execPmbusRevision_touches h).widen rfl
  | mfrId => exact (execMfrId_touches h).widen rfl
  | mfrModel => exact (execMfrModel_touches h).widen rfl
  | mfrSerial => exact (execMfrSerial_touches h).widen rfl
  | mfrCoolant => exact (execMfrCoolant_touches h).widen rfl
  | mfrBudget => exact (execMfrBudget_touches h).widen rfl
  | mfrCmd => exact (execMfrCmd_touches h).widen rfl
  | mfrRsp => exact (execMfrRsp_touches h).widen rfl
  | smbusInvalidCommand => exact (execSmbusInvalidCommand_touches h).widen rfl
  | alertResponse => exact (execAlertResponse_touches h).widen rfl
  | extest => exact (execExtest_touches h).widen rfl
  | samplePreload => exact (execSamplePreload_touches h).widen rfl
  | clamp => exact (execClamp_touches h).widen rfl
  | highz => exact (execHighz_touches h).widen rfl
  | idcode => exact (execIdcode_touches h).widen rfl
  | bypass => exact (execBypass_touches h).widen rfl
  | dbgreg => exact (execDbgreg_touches h).widen rfl
  | dbgcmd => exact (execDbgcmd_touches h).widen rfl
  | dbgcmdCapture => exact (execDbgcmdCapture_touches h).widen rfl
  | markerLockLoss => exact (execMarkerLockLoss_touches h).widen rfl
  | moduleReportedFault => exact (execModuleReportedFault_touches h).widen rfl
  | farTierAccess => exact (execFarTierAccess_touches h).widen rfl
  | cxlIoError => exact (execCxlIoError_touches h).widen rfl

/-- The queue is no part of the canonical form. -/
theorem Canonical.set_pending {s : State} (c : Canonical s) (l : List Instr) : Canonical { s with pending := l } :=
  ⟨c.regs, c.cores, c.stack, c.peat, c.far⟩

theorem step_keeps_canonical {s t : State} (c : Canonical s) (h : step s = .next t) : Canonical t := by
  unfold step at h
  split at h
  case h_1 =>
    obtain rfl := Host.Outcome.next.inj h
    exact (State.clockCycle_touches (L := [.regs, .time]) Touches.refl rfl).canon c
  case h_2 i rest _ => exact (exec_touches h).canon (c.set_pending rest)

/-- Settles O3. -/
theorem stepKeepsCanonicalForms : Obligations.StepKeepsCanonicalForms := fun _ _ => step_keeps_canonical

end Sys2Proof.Machine
end

section
namespace Sys2Proof.Machine

/-! Which register an address names: a search in the table of a block that leaves out what lies elsewhere. -/

/-- No copy of a register lies in a range of offsets. -/
def RegD.misses (lo hi : Nat) (r : RegD) : Bool := decide (hi ≤ r.off) || decide (r.off + max 1 (r.n * r.stride) ≤ lo)

theorem RegD.index?_of_misses {r : RegD} {lo hi off : Nat} (h : r.misses lo hi = true) (hlo : lo ≤ off) (hhi : off < hi) :
    r.index? off = none := by
  simp only [misses, Bool.or_eq_true, decide_eq_true_eq] at h
  unfold index?
  by_cases hoff : off < r.off
  · rw [if_pos hoff]
  · have hend : r.off + max 1 (r.n * r.stride) ≤ lo := h.resolve_left (by omega)
    have hne : off ≠ r.off := by omega
    have hcopy : ¬((off - r.off) % r.stride = 0 ∧ (off - r.off) / r.stride < r.n) := by
      rintro ⟨hm, hd⟩
      rcases Nat.eq_zero_or_pos r.stride with h0 | hs
      · rw [h0, Nat.mod_zero] at hm; omega
      · have := (Nat.div_lt_iff_lt_mul hs).1 hd; omega
    simp only [if_neg hoff, if_neg hne, if_neg hcopy, ite_self]

/-- Registers that lie outside a range of offsets are not found in it. -/
theorem findReg_filter {lo hi off : Nat} (hlo : lo ≤ off) (hhi : off < hi) (l : List RegD) :
    findReg off l = findReg off (l.filter fun r => !r.misses lo hi) := by
  induction l with
  | nil => rfl
  | cons r l ih =>
    by_cases h : r.misses lo hi = true
    · rw [List.filter_cons_of_neg (by simp [h]), findReg, RegD.index?_of_misses h hlo hhi, ih]
    · rw [List.filter_cons_of_pos (by simp [h]), findReg, findReg, ih]

theorem regAt_of_findReg {a : Nat} {p : Place} {r : RegD} {i : Nat} (hp : placeOf a = some p) (hr : findReg p.off p.blk.regs = some (r, i)) :
    regAt a = some ⟨p, r, i⟩ := by
  simp only [regAt, hp, hr]

theorem placeOf_core {b off : Nat} (hb : b < 288) (ho : off < 0x10000) : placeOf (0x1000000 + b * 0x10000 + off) = some ⟨.core, b, off⟩ := by
  unfold placeOf
  repeat rw [if_neg (by omega)]
  rw [if_pos (by omega), show (0x1000000 + b * 0x10000 + off - 0x1000000) / 0x10000 = b by omega,
    show (0x1000000 + b * 0x10000 + off) % 0x10000 = off by omega]

theorem placeOf_sync {off : Nat} (ho : off < 0x100000) : placeOf (0x700000 + off) = some ⟨.sync, 0, off⟩ := by
  unfold placeOf
  repeat rw [if_neg (by omega)]
  rw [if_pos (by omega), show 0x700000 + off - 0x700000 = off by omega]

/-- The rows of a turnstile. -/
def tsRegs : List RegD := regsSync.take 4

theorem findReg_turnstile {off : Nat} (h : off < 0x40000) : findReg off regsSync = findReg off tsRegs := by
  rw [findReg_filter (Nat.zero_le off) h]; rfl

theorem findReg_TS_COUNT {ts : Nat} (h : ts < 16384) :
    findReg (16 * ts) regsSync = some (⟨0x0, 32, 16384, 0x10, [⟨fTS_COUNT_COUNT, .xw, 0, false⟩]⟩, ts) := by
  rw [findReg_turnstile (by omega)]
  simp [tsRegs, regsSync, regsSync0, findReg, RegD.index?, h]

theorem findReg_TS_TARGET {ts : Nat} (h : ts < 16384) :
    findReg (16 * ts + 4) regsSync = some (⟨0x4, 32, 16384, 0x10, [⟨fTS_TARGET_TARGET, .xw, 0, false⟩]⟩, ts) := by
  rw [findReg_turnstile (by omega)]
  have h4 : ¬16 * ts + 4 < 4 := by omega
  simp [tsRegs, regsSync, regsSync0, findReg, RegD.index?, h, h4]

theorem regAt_TS_COUNT {ts : Nat} (h : ts < 16384) :
    regAt (TS_COUNT ts) = some ⟨⟨.sync, 0, 16 * ts⟩, ⟨0x0, 32, 16384, 0x10, [⟨fTS_COUNT_COUNT, .xw, 0, false⟩]⟩, ts⟩ := by
  have ha : TS_COUNT ts = 0x700000 + 16 * ts := by unfold TS_COUNT; omega
  exact regAt_of_findReg (ha ▸ placeOf_sync (by omega)) (findReg_TS_COUNT h)

theorem regAt_TS_TARGET {ts : Nat} (h : ts < 16384) :
    regAt (TS_TARGET ts) = some ⟨⟨.sync, 0, 16 * ts + 4⟩, ⟨0x4, 32, 16384, 0x10, [⟨fTS_TARGET_TARGET, .xw, 0, false⟩]⟩, ts⟩ := by
  have ha : TS_TARGET ts = 0x700000 + (16 * ts + 4) := by unfold TS_TARGET; omega
  exact regAt_of_findReg (ha ▸ placeOf_sync (by omega)) (findReg_TS_TARGET h)

theorem regAt_SQ_STATUS {b : Nat} (h : b < 288) : regAt (SQ_STATUS b) = some ⟨⟨.core, b, 8⟩, ⟨0x8, 64, 1, 0x0, [⟨fSQ_STATUS_STATE_U, .ro, 0, false⟩,
      ⟨fSQ_STATUS_STATE_B, .ro, 0, false⟩, ⟨fSQ_STATUS_STATE_F, .ro, 0, false⟩]⟩, 0⟩ := by
  refine regAt_of_findReg (p := ⟨.core, b, 8⟩) ?_ (show findReg 8 regsCore = _ by decide +kernel)
  rw [← placeOf_core h (by omega)]; unfold SQ_STATUS; congr 1; omega

/-! The state after reset. -/

theorem resetWord_of_regAt {a : Nat} {r : RegAt} (h : regAt a = some r) : resetWord a = BitVec.ofNat 64 r.reset := by
  unfold resetWord; rw [h]

namespace State

theorem reg_reset (a : Nat) : State.reset.reg a = resetWord a := rfl

theorem canonical_reset : Canonical State.reset := ⟨rfl, by simp [State.reset], rfl, rfl, rfl⟩

theorem reg_reset_turnstile {ts : Nat} (h : ts < 16384) : State.reset.reg (TS_COUNT ts) = 0 ∧ State.reset.reg (TS_TARGET ts) = 0 := by
  constructor
  · rw [reg_reset, resetWord_of_regAt (regAt_TS_COUNT h)]; rfl
  · rw [reg_reset, resetWord_of_regAt (regAt_TS_TARGET h)]; rfl

theorem stState_reset {b i : Nat} (h : b < 288) : State.reset.stState b i = 0 := by
  have hw : State.reset.reg (SQ_STATUS b) = 0 := by rw [reg_reset, resetWord_of_regAt (regAt_SQ_STATUS h)]; rfl
  simp [stState, rd, hw, fget]

end State

/-- Settles O4: the tables' reset words, read where they are named; for turnstiles and streams, whose number is not fixed, by the row that
their address names. -/
theorem resetValuesAndForms : Obligations.ResetValuesAndForms := by
  unfold Obligations.ResetValuesAndForms
  refine ⟨State.canonical_reset, rfl, rfl, rfl, rfl, rfl, rfl, rfl, rfl, ?_⟩
  iterate 19 refine ⟨by decide +kernel, ?_⟩
  exact ⟨fun _ => State.reg_reset_turnstile, fun _ _ hb _ _ => State.stState_reset hb⟩

end Sys2Proof.Machine
end

section
namespace Sys2Proof.Machine

/-! What a change that leaves a part of the state says of that part. -/

theorem Touches.same {L : List Part} {s t : State} (h : Touches L s t) (p : Part) (hp : L.contains p = false) : p.same s t :=
  h.only p fun hm => by rw [List.contains_iff_mem.2 hm] at hp; cases hp

/-- An operation that leaves the tiers and the caches leaves the memory system. -/
theorem Touches.mem_same {L : List Part} {s t : State} (h : Touches L s t)
    (hL : [Part.stack, .peat, .far, .caches].all (fun p => !L.contains p) = true) : t.mem = s.mem := by
  simp only [List.all_cons, List.all_nil, Bool.and_true, Bool.and_eq_true, Bool.not_eq_true'] at hL
  obtain ⟨h1, h2, h3, h4⟩ := hL
  have hs : t.mem.stack = s.mem.stack := h.same .stack h1
  have hp : t.mem.peat = s.mem.peat := h.same .peat h2
  have hf : t.mem.far = s.mem.far := h.same .far h3
  have hc : { t.mem with stack := [], peat := [], far := [] } = { s.mem with stack := [], peat := [], far := [] } := h.same .caches h4
  have back : ∀ m n : MemSt, n.stack = m.stack → n.peat = m.peat → n.far = m.far →
      { n with stack := [], peat := [], far := [] } = { m with stack := [], peat := [], far := [] } → n = m := by
    rintro ⟨⟩ ⟨⟩ rfl rfl rfl h
    simpa using h
  exact back _ _ hs hp hf hc

/-! Words of which some bits are written. -/

/-- A word that takes the bits `m` of `v`. -/
def mergeBits (w : Word) (v m : Nat) : Word := (w &&& ~~~BitVec.ofNat 64 m) ||| (BitVec.ofNat 64 v &&& BitVec.ofNat 64 m)

@[simp] theorem mergeBits_zero (w : Word) (v : Nat) : mergeBits w v 0 = w := by
  rw [mergeBits, BitVec.not_zero, BitVec.and_allOnes, BitVec.and_zero, BitVec.or_zero]

theorem Fld.testBit_bits {f : Fld} {i : Nat} (h : f.lo ≤ i) (h' : i ≤ f.hi) : f.bits.testBit i = true := by
  have e : (2 ^ f.width - 1) % 2 ^ f.width = 2 ^ f.width - 1 := Nat.mod_eq_of_lt (by have := Nat.two_pow_pos f.width; omega)
  unfold Fld.bits Fld.at
  rw [e, Nat.testBit_mul_two_pow, Nat.testBit_two_pow_sub_one]
  simp only [Bool.and_eq_true, decide_eq_true_eq]
  exact ⟨h, by unfold Fld.width; omega⟩

/-- A field whose bits are all written reads as the bits of the value in its place. -/
theorem fget_mergeBits (w : Word) (v : Nat) {m : Nat} {f : Fld} (h : f.lo ≤ f.hi) (h64 : f.hi < 64) (hm : Nat.land f.bits m = f.bits) :
    fget (mergeBits w v m) f = v / 2 ^ f.lo % 2 ^ f.width := by
  unfold fget
  refine Nat.eq_of_testBit_eq fun i => ?_
  rw [Nat.testBit_mod_two_pow, Nat.testBit_mod_two_pow, Nat.testBit_div_two_pow, Nat.testBit_div_two_pow]
  by_cases hi : i < f.width
  · have hw : i + f.lo ≤ f.hi := by unfold Fld.width at hi; omega
    have hmi : m.testBit (i + f.lo) = true := by
      have hb := Fld.testBit_bits (f := f) (i := i + f.lo) (by omega) hw
      rw [← hm] at hb
      have hb' : (f.bits.testBit (i + f.lo) && m.testBit (i + f.lo)) = true := (Nat.testBit_and f.bits m _).symm.trans hb
      exact (Bool.and_eq_true_iff.1 hb').2
    have h64' : i + f.lo < 64 := by omega
    congr 1
    rw [BitVec.testBit_toNat]
    simp only [mergeBits, BitVec.getLsbD_or, BitVec.getLsbD_and, BitVec.getLsbD_not, BitVec.getLsbD_ofNat, h64', hmi]
    simp
  · simp [hi]

/-! Access codes of the row that an address names. -/

/-- The bits of a row whose fields have one of some access codes. -/
def RegD.mask (r : RegD) (l : List Acc) : Nat :=
  r.fields.foldl (fun m f => if l.contains f.acc then Nat.lor m (f.f.at (2 ^ f.f.width - 1)) else m) 0

theorem accMask_of_regAt {a : Nat} {r : RegAt} (h : regAt a = some r) (l : List Acc) : accMask a l = r.reg.mask l := by
  unfold accMask; rw [h]; rfl

theorem placeOf_of_regAt {a : Nat} {r : RegAt} (h : regAt a = some r) : placeOf a = some r.place := by
  unfold regAt at h
  split at h
  · cases h
  · split at h
    · cases h
    · rw [← Option.some.inj h]; assumption

theorem canonReg_self {a : Nat} (h : a < 0x600000 ∨ 0x700000 ≤ a) : canonReg a = a := by
  unfold canonReg; rw [if_neg (by omega)]

namespace State

theorem absentReg_core {s : State} {a b o : Nat} (hp : placeOf a = some ⟨.core, b, o⟩) (hb : s.coreOn b = true) : s.absentReg a = false := by
  simp [absentReg, hp, hb]

theorem absentReg_mem {s : State} {a x o : Nat} (hp : placeOf a = some ⟨.mem, x, o⟩)
    (hx : s.rd PKG_CONFIG fPKG_CONFIG_STACKMAP / 2 ^ x % 2 = 1) : s.absentReg a = false := by
  simp [absentReg, hp, hx]

/-- Only windows of stack sites, I/O dies and cores may be absent. -/
theorem absentReg_other {s : State} {a : Nat} {p : Place} (hp : placeOf a = some p) (hb : [Blk.mem, .fab, .core].contains p.blk = false) :
    s.absentReg a = false := by
  obtain ⟨blk, c, o⟩ := p
  cases blk <;> first | (simp [absentReg, hp]; done) | cases hb

theorem heldBits_core {s : State} {a b o : Nat} (hp : placeOf a = some ⟨.core, b, o⟩) (ho : 0x700 ≤ o) : s.heldBits a = 0 := by
  have h1 : ¬o < 0x400 := by omega
  have h2 : ¬o < 0x700 := by omega
  simp [heldBits, hp, h1, h2]

theorem heldBits_other {s : State} {a : Nat} {p : Place} (hp : placeOf a = some p) (hb : p.blk ≠ .core ∧ p.blk ≠ .hif) (ha : a ≠ DIR_BASE) :
    s.heldBits a = 0 := by
  obtain ⟨blk, c, o⟩ := p
  cases blk <;> simp_all [heldBits]

end State

/-! BAR0 accesses of one register. -/

/-- The fixed facts about the address `a` of the row `r`: no register of a FAB window, no increment register, no event register. -/
structure PlainAt (a : Nat) (r : RegAt) : Prop where
  at_ : regAt a = some r
  canon : a < 0x600000 ∨ 0x700000 ≤ a
  noInc : tsIncAt a = none

namespace State

variable {s : State} {cls a v : Nat} {r : RegAt} {skews : List Int}

/-- A 4-byte write of a register covers its low 32 bits. -/
theorem barWrite_word (up : s.hostUp = true) (h : PlainAt a r) (here : s.absentReg a = false) (shape : barShape a 4 = true) :
    s.barWrite cls a 4 v skews = s.writePart cls a a (v % 2 ^ 32) (2 ^ 32 - 1) skews := by
  simp only [barWrite, up, shape, writeReg, write32, canonReg_self h.canon, here, h.noInc, h.at_]
  rfl

/-- An 8-byte write of a 64-bit register covers all of it. -/
theorem barWrite_double (up : s.hostUp = true) (h : PlainAt a r) (here : s.absentReg a = false) (shape : barShape a 8 = true)
    (size : r.reg.size = 64) : s.barWrite cls a 8 v skews = s.writePart cls a a v (2 ^ 64 - 1) skews := by
  simp only [barWrite, up, shape, writeReg, canonReg_self h.canon, here, h.at_, size]
  rfl

/-- An access of a shape that BAR0 does not take is a frame error. -/
theorem barWrite_badShape (up : s.hostUp = true) {size : Nat} (shape : barShape a size = false) :
    s.barWrite cls a size v skews = s.frameErr := by
  simp [barWrite, up, shape]

theorem barRead_badShape (up : s.hostUp = true) {size : Nat} (shape : barShape a size = false) :
    s.barRead a size = s.frameErr.emit (.pcie 1 []) := by
  simp [barRead, up, shape]

end State

/-! What a write of one register stores, by the access codes of its fields. -/

/-- The fixed facts about the address `a` of the row `r` if no field of it is cleared by writing 1, none is ever held, and it is no source of a
message. -/
structure StoredAt (a : Nat) (r : RegAt) : Prop extends PlainAt a r where
  w1c : r.reg.mask [.w1c] = 0
  held : ∀ s : State, s.heldBits a = 0
  quiet : vectorOf a = none
  notSq : a ≠ HIF_SQ

namespace State

variable {s : State} {cls a v m : Nat} {r : RegAt} {skews : List Int}

/-- The bits that a write of the bits `m` stores. -/
def grantedBits (s : State) (cls a m : Nat) : Nat :=
  Nat.land (Nat.lor (accMask a [.rw]) (if s.holds cls 11 then accMask a [.xw] else 0)) m

/-- The state once a write of the bits `m` is recorded, if it names an expert field (16 R489). -/
def recorded (s : State) (cls a v m : Nat) : State :=
  if Nat.land (accMask a [.xw]) m = 0 then s else s.expertRecord cls a v (s.holds cls 11)

/-- A write stores the granted bits and has its effect; without any it leaves the word. -/
theorem writePart_eq (h : StoredAt a r) : s.writePart cls a a v m skews =
    if s.grantedBits cls a m = 0 then (s.recorded cls a v m).setReg a ((s.recorded cls a v m).reg a)
    else ((s.recorded cls a v m).setReg a (limited a (mergeBits ((s.recorded cls a v m).reg a) v (s.grantedBits cls a m)))).afterWrite a
      ((s.recorded cls a v m).reg a) (s.grantedBits cls a m) skews := by
  have hw : accMask a [.w1c] = 0 := (accMask_of_regAt h.at_ _).trans h.w1c
  have hz : ∀ x : Word, x &&& ~~~BitVec.ofNat 64 0 = x := fun x => by rw [BitVec.not_zero, BitVec.and_allOnes]
  have hl : ∀ n : Nat, Nat.land 0 n = 0 := Nat.zero_and
  have hr : ∀ n : Nat, Nat.land n 0 = 0 := Nat.and_zero
  have ht : ∀ n w, tailBad a n w = false := fun n w => by simp [tailBad, h.notSq]
  unfold writePart
  simp only [if_true, Nat.div_one, hw, hl, hz, h.held, hr, Nat.sub_zero, ht, h.quiet, Bool.false_eq_true, if_false]
  by_cases hg : s.grantedBits cls a m = 0
  · rw [if_pos hg]
    unfold grantedBits at hg
    simp only [hg, if_true]
    exact congrArg _ (mergeBits_zero _ v)
  · rw [if_neg hg]
    unfold grantedBits at hg
    simp only [if_neg hg]
    rfl

/-- A write of an event register clears the event bits written 1; no more than a message follows. -/
theorem writePart_event (hxw : accMask a [.xw] = 0) (hrw : accMask a [.rw] = 0) (hsq : a ≠ HIF_SQ) :
    let t := s.writePart cls a a v m skews
    t.regs = (s.setReg a (s.reg a &&& ~~~BitVec.ofNat 64 (Nat.land (Nat.land (accMask a [.w1c]) m) v))).regs
      ∧ t.mem = s.mem ∧ t.cores = s.cores := by
  have hl : ∀ n : Nat, Nat.land 0 n = 0 := Nat.zero_and
  have ho : ∀ b : Bool, Nat.lor 0 (if b then 0 else 0) = 0 := by decide
  have hm := mergeBits_zero (s.reg a) v
  unfold mergeBits at hm
  have ht : ∀ n w, tailBad a n w = false := fun n w => by simp [tailBad, hsq]
  unfold writePart
  simp only [hxw, hrw, hl, ho, if_true, Nat.sub_self, ht, hm, Bool.false_eq_true, if_false]
  split
  · split <;> simp
  · exact ⟨rfl, rfl, rfl⟩

end State

end Sys2Proof.Machine
end

section
namespace Sys2Proof.Machine

/-! The record of an expert write (16 R489): registers that it keeps, and what it counts. -/

/-- The registers that a journal entry may write (16 R492, R495). -/
def ofJournal (a : Nat) : Prop := a = JNL_HEAD ∨ a = JNL_INFO ∨ a = JNL_CTRL ∨ a = JNL_SPILL_ERR ∨ a = PKG_EVENTS

namespace State

variable {P : Nat → Prop} {s x : State}

theorem Keeps_jnlPut (h : Keeps P s x) (e : JEnt) (hP : ∀ a, ofJournal a → ¬P a) : Keeps P s (x.jnlPut e) := by
  unfold jnlPut
  extract_lets x1 x2
  have h2 : Keeps P s x2 := (h.regs (t := x1) rfl).wr (hP _ (.inr (.inl rfl))) _ _
  unfold spill
  refine Keeps.ite h2 (Keeps.ite (h2.regs rfl) ?_)
  exact ((h2.wr (hP _ (.inr (.inr (.inl rfl)))) _ _).bump (hP _ (.inr (.inr (.inr (.inl rfl))))) _ _).raise
    (hP _ (.inr (.inr (.inr (.inr rfl))))) _

theorem Keeps_jnlRegWrite (h : Keeps P s x) (off v : Nat) (ok : Bool) (hP : ∀ a, ofJournal a → ¬P a) :
    Keeps P s (x.jnlRegWrite off v ok) := by
  unfold jnlRegWrite
  refine Keeps.ite ?_ h
  unfold jnlAdd
  exact Keeps_jnlPut (h.wr (hP _ (.inl rfl)) _ _) _ hP

theorem lt_of_ofJournal {a : Nat} (h : ofJournal a) : a < 0x100000 := by rcases h with rfl | rfl | rfl | rfl | rfl <;> decide

/-- Every register outside package control stays. -/
theorem Keeps_expertRecord (cls off v : Nat) (ok : Bool) : Keeps (0x100000 ≤ ·) s (s.expertRecord cls off v ok) := by
  have hj : Keeps (0x100000 ≤ ·) s (s.jnlRegWrite off v ok) :=
    Keeps_jnlRegWrite Keeps.refl _ _ _ fun a ha => Nat.not_le.2 (lt_of_ofJournal ha)
  have hc : ∀ x, Keeps (0x100000 ≤ ·) s x →
      Keeps (0x100000 ≤ ·) s ((x.bump PKG_XW_DENY fPKG_XW_DENY_COUNT 1).raise PKG_EVENTS fPKG_EVENTS_XW_DENIED) := fun x hx =>
    (hx.bump (a := PKG_XW_DENY) (Nat.not_le.2 (by decide)) _ _).raise (a := PKG_EVENTS) (Nat.not_le.2 (by decide)) _
  have h7 : Keeps (0x100000 ≤ ·) s (if cls = 7 then s else s.jnlRegWrite off v ok) := Keeps.ite Keeps.refl hj
  unfold expertRecord
  exact Keeps.ite h7 (hc _ h7)

/-- A raised bit reads 1. -/
theorem rd_raise (s : State) (a : Nat) {f : Fld} (h : f.hi = f.lo) (h64 : f.hi < 64) : (s.raise a f).rd a f = 1 := by
  have hw : f.width = 1 := by unfold Fld.width; omega
  have hone : 1 % 2 ^ f.width = 1 := by simp [hw]
  rw [rd, reg_raise_same, fget_fset_same _ _ (by omega) h64, hone]

/-- A refused expert write counts, and PKG_EVENTS says so. -/
theorem expertRecord_denied (s : State) (off v : Nat) :
    (s.expertRecord 1 off v false).rd PKG_XW_DENY fPKG_XW_DENY_COUNT
        = min (2 ^ fPKG_XW_DENY_COUNT.width - 1) (s.rd PKG_XW_DENY fPKG_XW_DENY_COUNT + 1)
      ∧ (s.expertRecord 1 off v false).rd PKG_EVENTS fPKG_EVENTS_XW_DENIED = 1 := by
  have hk : (s.jnlRegWrite off v false).reg PKG_XW_DENY = s.reg PKG_XW_DENY := by
    refine Keeps_jnlRegWrite (P := (· = PKG_XW_DENY)) Keeps.refl off v false ?_ _ rfl
    rintro a (rfl | rfl | rfl | rfl | rfl) <;> decide
  have e : s.expertRecord 1 off v false
      = ((s.jnlRegWrite off v false).bump PKG_XW_DENY fPKG_XW_DENY_COUNT 1).raise PKG_EVENTS fPKG_EVENTS_XW_DENIED := by
    simp only [expertRecord, Nat.reduceEqDiff, Bool.false_eq_true, if_false]
  rw [e]
  constructor
  · rw [rd, reg_raise_other _ (by decide), ← rd, rd_bump_same _ _ _ (by decide) (by decide), rd, rd, hk]
  · exact rd_raise _ _ rfl (by decide)

end State

/-! Registers whose fields are all expert ones. -/

/-- The fixed facts about the address `a` of the row `r`, if expert writes alone store it, the bits `M` of it. -/
structure ExpertAt (a : Nat) (r : RegAt) (M : Nat) : Prop extends StoredAt a r where
  xw : r.reg.mask [.xw] = M
  rw_ : r.reg.mask [.rw] = 0
  some_ : M ≠ 0
  high : 0x100000 ≤ a

namespace State

variable {s : State} {cls a v m M : Nat} {r : RegAt} {skews : List Int}

theorem recorded_expert (h : ExpertAt a r M) (hm : Nat.land M m = M) : s.recorded cls a v m = s.expertRecord cls a v (s.holds cls 11) := by
  rw [recorded, accMask_of_regAt h.at_, h.xw, hm, if_neg h.some_]

/-- With expert level the bits of the fields are stored, and the write has its effect. -/
theorem writePart_expert (h : ExpertAt a r M) (hm : Nat.land M m = M) (ok : s.holds cls 11 = true) :
    s.writePart cls a a v m skews =
      ((s.expertRecord cls a v true).setReg a (limited a (mergeBits (s.reg a) v M))).afterWrite a (s.reg a) M skews := by
  have hg : s.grantedBits cls a m = M := by
    have h0 : Nat.lor 0 M = M := Nat.zero_or M
    rw [grantedBits, accMask_of_regAt h.at_, accMask_of_regAt h.at_, h.xw, h.rw_, if_pos ok, h0, hm]
  rw [writePart_eq h.toStoredAt, hg, if_neg h.some_, recorded_expert h hm, ok, Keeps_expertRecord cls a v true a h.high]

/-- Without it they stay, and the write is recorded as refused. -/
theorem writePart_denied (h : ExpertAt a r M) (hm : Nat.land M m = M) (no : s.holds cls 11 = false) :
    s.writePart cls a a v m skews = (s.expertRecord cls a v false).setReg a (s.reg a) := by
  have hg : s.grantedBits cls a m = 0 := by
    have h0 : Nat.land (Nat.lor 0 0) m = 0 := Nat.zero_and m
    rw [grantedBits, accMask_of_regAt h.at_, accMask_of_regAt h.at_, h.rw_, no, if_neg (by decide), h0]
  rw [writePart_eq h.toStoredAt, hg, if_pos rfl, recorded_expert h hm, no, Keeps_expertRecord cls a v false a h.high]

/-- Parts of the state that no record of an expert write touches. -/
theorem expertRecord_parts (s : State) (cls off v : Nat) (ok : Bool) :
    Touches [.regs, .out, .msix, .journal] s (s.expertRecord cls off v ok) := expertRecord_touches Touches.refl rfl

end State

end Sys2Proof.Machine
end

section
namespace Sys2Proof.Machine

/-! The registers that the host writes by commands of their own, by their rows (03 to 17). -/

theorem placeOf_ud {d off : Nat} (hd : d < 2) (ho : off < 0x100000) : placeOf (0x400000 + d * 0x100000 + off) = some ⟨.ud, d, off⟩ := by
  unfold placeOf
  repeat rw [if_neg (by omega)]
  rw [if_pos (by omega), show (0x400000 + d * 0x100000 + off - 0x400000) / 0x100000 = d by omega,
    show (0x400000 + d * 0x100000 + off) % 0x100000 = off by omega]

theorem placeOf_mem {x off : Nat} (hx : x < 10) (ho : off < 0x10000) : placeOf (0x300000 + x * 0x10000 + off) = some ⟨.mem, x, off⟩ := by
  unfold placeOf
  repeat rw [if_neg (by omega)]
  rw [if_pos (by omega), show (0x300000 + x * 0x10000 + off - 0x300000) / 0x10000 = x by omega,
    show (0x300000 + x * 0x10000 + off) % 0x10000 = off by omega]

/-- Every event register but those of PKG, TIME and PT lies at offset 0x10 of its block (17 R517). -/
theorem vectorOf_eq_none {a : Nat} (h : a % 0x10000 ≠ 0x10 ∨ 0x700000 ≤ a ∧ a < 0x780000) (hp : 0x100000 ≤ a ∧ a ≠ TIME_EVENTS)
    (hq : a < 0x3A0000 ∨ 0x3C0000 ≤ a) : vectorOf a = none := by
  unfold vectorOf PKG_EVENTS PWR_EVENTS TIME_EVENTS FAB_EVENTS DIR_EVENTS HIF_EVENTS UD_EVENTS PT_EVENTS
  unfold TIME_EVENTS at hp
  repeat rw [if_neg (by omega)]

/-- The row of a block at an offset. -/
def rowAt (blk : Blk) (off : Nat) : RegD := ((findReg off blk.regs).map Prod.fst).getD ⟨off, 0, 0, 0, []⟩

theorem findReg_rowAt {blk : Blk} {off : Nat} (h : (findReg off blk.regs).any (fun x => x.2 = 0) = true) :
    findReg off blk.regs = some (rowAt blk off, 0) := by
  unfold rowAt
  cases hr : findReg off blk.regs with
  | none => rw [hr] at h; cases h
  | some x => rw [hr] at h; obtain ⟨r, i⟩ := x; simpa using h

/-- The copies of a row that has a range of offsets to itself. -/
theorem findReg_array {blk : Blk} {lo n : Nat} (hi N k : Nat)
    (hl : (blk.regs.filter fun r => !r.misses lo hi) = [rowAt blk lo])
    (hr : (rowAt blk lo).off = lo ∧ (rowAt blk lo).n = N ∧ (rowAt blk lo).stride = k ∧ 1 < N ∧ 0 < k ∧ lo + N * k ≤ hi) (hn : n < N) :
    findReg (lo + n * k) blk.regs = some (rowAt blk lo, n) := by
  obtain ⟨h1, h2, h3, h4, h5, h6⟩ := hr
  have h7 : n * k < N * k := Nat.mul_lt_mul_of_pos_right hn h5
  have hx : (rowAt blk lo).index? (lo + n * k) = some n := by
    unfold RegD.index?
    rw [if_neg (by omega), if_neg (by omega), h1, h2, h3, Nat.add_sub_cancel_left]
    simp only [Nat.mul_mod_left, Nat.mul_div_cancel _ h5, hn, and_self, if_true]
  rw [findReg_filter (lo := lo) (hi := hi) (by omega) (by omega), hl]
  simp only [findReg, hx]

/-- What the row of an expert register says: `M` are the bits of its expert fields, and it has no other field that a write reaches. -/
structure ExpertRow (r : RegD) (M : Nat) : Prop where
  w1c : r.mask [.w1c] = 0
  xw : r.mask [.xw] = M
  rw_ : r.mask [.rw] = 0
  some_ : M ≠ 0

/-- Expert registers of a core above its streams' words. -/
theorem ExpertAt.ofCore {a b off M : Nat} {r : RegD} {i : Nat} (hr : findReg off regsCore = some (r, i)) (hw : ExpertRow r M) (hb : b < 288)
    (ho : 0x700 ≤ off ∧ off < 0x10000) (ha : a = 0x1000000 + b * 0x10000 + off) : ExpertAt a ⟨⟨.core, b, off⟩, r, i⟩ M :=
  have hp : placeOf a = some ⟨.core, b, off⟩ := ha ▸ placeOf_core hb ho.2
  { hw with
    at_ := regAt_of_findReg hp hr
    canon := .inr (by omega)
    noInc := if_neg (by omega)
    held := fun _ => State.heldBits_core hp ho.1
    quiet := vectorOf_eq_none (.inl (by omega)) (by unfold TIME_EVENTS; omega) (.inr (by omega))
    notSq := by unfold HIF_SQ; omega
    high := by omega }

/-- Expert registers of the blocks below the host port. -/
theorem ExpertAt.ofBlock {a M : Nat} {p : Place} {r : RegD} {i : Nat} (hp : placeOf a = some p) (hr : findReg p.off p.blk.regs = some (r, i))
    (hw : ExpertRow r M) (hb : p.blk ≠ .core ∧ p.blk ≠ .hif) (hlo : 0x100000 ≤ a ∧ a < 0x800000) (hcanon : a < 0x600000 ∨ 0x700000 ≤ a)
    (hinc : a % 16 ≠ 12) (hv : a % 0x10000 ≠ 0x10 ∨ 0x700000 ≤ a ∧ a < 0x780000)
    (hpt : a < 0x3A0000 ∨ 0x3C0000 ≤ a) (hn : a ≠ TIME_EVENTS ∧ a ≠ DIR_BASE) :
    ExpertAt a ⟨p, r, i⟩ M :=
  { hw with
    at_ := regAt_of_findReg hp hr
    canon := hcanon
    noInc := if_neg (by omega)
    held := fun _ => State.heldBits_other hp hb hn.2
    quiet := vectorOf_eq_none hv ⟨hlo.1, hn.1⟩ hpt
    notSq := by unfold HIF_SQ; omega
    high := hlo.1 }

theorem expertAt_TS_COUNT {ts : Nat} (h : ts < 16384) :
    ExpertAt (TS_COUNT ts) ⟨⟨.sync, 0, 16 * ts⟩, ⟨0x0, 32, 16384, 0x10, [⟨fTS_COUNT_COUNT, .xw, 0, false⟩]⟩, ts⟩ (2 ^ 32 - 1) := by
  have ha : TS_COUNT ts = 0x700000 + 16 * ts := by unfold TS_COUNT; omega
  exact .ofBlock (placeOf_of_regAt (regAt_TS_COUNT h)) (findReg_TS_COUNT h) ⟨rfl, rfl, rfl, by decide⟩ ⟨nofun, nofun⟩ (by omega) (by omega) (by omega)
    (by omega) (by omega) (by unfold TIME_EVENTS DIR_BASE; omega)

theorem expertAt_TS_TARGET {ts : Nat} (h : ts < 16384) :
    ExpertAt (TS_TARGET ts) ⟨⟨.sync, 0, 16 * ts + 4⟩, ⟨0x4, 32, 16384, 0x10, [⟨fTS_TARGET_TARGET, .xw, 0, false⟩]⟩, ts⟩ (2 ^ 32 - 1) := by
  have ha : TS_TARGET ts = 0x700000 + (16 * ts + 4) := by unfold TS_TARGET; omega
  exact .ofBlock (placeOf_of_regAt (regAt_TS_TARGET h)) (findReg_TS_TARGET h) ⟨rfl, rfl, rfl, by decide⟩ ⟨nofun, nofun⟩ (by omega) (by omega) (by omega)
    (by omega) (by omega) (by unfold TIME_EVENTS DIR_BASE; omega)

theorem expertAt_DM_CTRL {b : Nat} (hb : b < 288) : ExpertAt (DM_CTRL b) ⟨⟨.core, b, 0x1800⟩, rowAt .core 0x1800, 0⟩ 7 :=
  .ofCore (findReg_rowAt (blk := .core) (by decide +kernel)) ⟨by decide +kernel, by decide +kernel, by decide +kernel, by decide⟩ hb (by omega)
    (by unfold DM_CTRL; omega)

theorem expertAt_VE_SLOT_CFG {b n : Nat} (hb : b < 288) (hn : n < 32) :
    ExpertAt (VE_SLOT_CFG b n) ⟨⟨.core, b, 0x4100 + n * 8⟩, rowAt .core 0x4100, n⟩ (2 ^ 64 - 2 ^ 25) :=
  .ofCore (findReg_array (blk := .core) 0x4200 32 8 (by decide +kernel) (by decide +kernel) hn)
    ⟨by decide +kernel, by decide +kernel, by decide +kernel, by decide⟩ hb (by omega) (by unfold VE_SLOT_CFG; omega)

theorem expertAt_VE_SLOT_C {b n : Nat} (hb : b < 288) (hn : n < 128) :
    ExpertAt (VE_SLOT_C b n) ⟨⟨.core, b, 0x4200 + n * 4⟩, rowAt .core 0x4200, n⟩ (2 ^ 32 - 1) :=
  .ofCore (findReg_array (blk := .core) 0x4400 128 4 (by decide +kernel) (by decide +kernel) hn)
    ⟨by decide +kernel, by decide +kernel, by decide +kernel, by decide⟩ hb (by omega) (by unfold VE_SLOT_C; omega)

theorem expertAt_VE_UOP {b n : Nat} (hb : b < 288) (hn : n < 1024) :
    ExpertAt (VE_UOP b n) ⟨⟨.core, b, 0x4400 + n * 4⟩, rowAt .core 0x4400, n⟩ (2 ^ 32 - 1) :=
  .ofCore (findReg_array (blk := .core) 0x5400 1024 4 (by decide +kernel) (by decide +kernel) hn)
    ⟨by decide +kernel, by decide +kernel, by decide +kernel, by decide⟩ hb (by omega) (by unfold VE_UOP; omega)

theorem expertAt_UD_RULE_CFG {d n : Nat} (hd : d < 2) (hn : n < 4) :
    ExpertAt (UD_RULE_CFG d n) ⟨⟨.ud, d, 0x900 + n * 8⟩, rowAt .ud 0x900, n⟩ (2 ^ 19 - 1) := by
  have ha : UD_RULE_CFG d n = 0x400000 + d * 0x100000 + (0x900 + n * 8) := by unfold UD_RULE_CFG; omega
  refine .ofBlock (ha ▸ placeOf_ud hd (by omega)) (findReg_array (blk := .ud) 0x920 4 8 (by decide +kernel) (by decide +kernel) hn)
    ⟨by decide +kernel, by decide +kernel, by decide +kernel, by decide⟩ ⟨nofun, nofun⟩ (by omega) (by omega) (by omega) (by omega) (by omega)
    (by unfold TIME_EVENTS DIR_BASE; omega)

theorem expertAt_UD_RECBASE {d : Nat} (hd : d < 2) :
    ExpertAt (UD_RECBASE d) ⟨⟨.ud, d, 0x30⟩, rowAt .ud 0x30, 0⟩ (2 ^ 56 - 1) := by
  have ha : UD_RECBASE d = 0x400000 + d * 0x100000 + 0x30 := by unfold UD_RECBASE; omega
  refine .ofBlock (ha ▸ placeOf_ud hd (by omega)) (findReg_rowAt (blk := .ud) (off := 0x30) (by decide +kernel))
    ⟨by decide +kernel, by decide +kernel, by decide +kernel, by decide⟩ ⟨nofun, nofun⟩ (by omega) (by omega) (by omega) (by omega) (by omega)
    (by unfold TIME_EVENTS DIR_BASE; omega)

theorem expertAt_MEM_CTRL {x : Nat} (hx : x < 10) : ExpertAt (MEM_CTRL x) ⟨⟨.mem, x, 0⟩, rowAt .mem 0, 0⟩ 1 := by
  have ha : MEM_CTRL x = 0x300000 + x * 0x10000 + 0 := by unfold MEM_CTRL; omega
  refine .ofBlock (ha ▸ placeOf_mem hx (by omega)) (findReg_rowAt (blk := .mem) (off := 0) (by decide +kernel))
    ⟨by decide +kernel, by decide +kernel, by decide +kernel, by decide⟩ ⟨nofun, nofun⟩ (by omega) (by omega) (by omega) (by omega) (by omega)
    (by unfold TIME_EVENTS DIR_BASE; omega)

theorem expertAt_DIR_CTRL : ExpertAt DIR_CTRL ⟨⟨.sync, 0, 0x80000⟩, rowAt .sync 0x80000, 0⟩ 1 :=
  .ofBlock (by decide +kernel) (findReg_rowAt (by decide +kernel)) ⟨by decide +kernel, by decide +kernel, by decide +kernel, by decide⟩
    ⟨nofun, nofun⟩ (by decide) (by decide) (by decide) (by decide) (by decide) (by decide)

theorem expertAt_TIME_CTRL : ExpertAt TIME_CTRL ⟨⟨.time, 0, 0⟩, rowAt .time 0, 0⟩ 3 :=
  .ofBlock (by decide +kernel) (findReg_rowAt (by decide +kernel)) ⟨by decide +kernel, by decide +kernel, by decide +kernel, by decide⟩
    ⟨nofun, nofun⟩ (by decide) (by decide) (by decide) (by decide) (by decide) (by decide)

end Sys2Proof.Machine
end

section
namespace Sys2Proof.Machine

namespace State

variable {s : State} {a v M : Nat} {r : RegAt} {skews : List Int}

/-- The state once an expert write of the host is recorded and its bits `M` are stored. -/
def expertStored (s : State) (a v M : Nat) : State := (s.expertRecord 1 a v true).setReg a (limited a (mergeBits (s.reg a) v M))

theorem expertStored_touches (s : State) (a v M : Nat) : Touches [.regs, .out, .msix, .journal] s (s.expertStored a v M) :=
  setReg_touches (expertRecord_parts s 1 a v true) rfl

@[simp] theorem reg_expertStored_same (s : State) (a v M : Nat) :
    (s.expertStored a v M).reg a = limited a (mergeBits (s.reg a) v M) := reg_setReg_same _ _ _

theorem reg_expertStored_other {c : Nat} (h : c ≠ a) (hc : 0x100000 ≤ c) : (s.expertStored a v M).reg c = s.reg c := by
  rw [expertStored, reg_setReg_other _ h]; exact Keeps_expertRecord 1 a v true c hc

/-- A 4-byte write of an expert register by the host with expert level. -/
theorem barWrite_expert_word (up : s.hostUp = true) (ok : s.holds 1 11 = true) (h : ExpertAt a r M) (here : s.absentReg a = false)
    (shape : barShape a 4 = true) (hM : Nat.land M (2 ^ 32 - 1) = M) :
    s.barWrite 1 a 4 v skews = (s.expertStored a (v % 2 ^ 32) M).afterWrite a (s.reg a) M skews := by
  rw [barWrite_word up h.toPlainAt here shape, writePart_expert h hM ok]; rfl

/-- An 8-byte one. -/
theorem barWrite_expert_double (up : s.hostUp = true) (ok : s.holds 1 11 = true) (h : ExpertAt a r M) (here : s.absentReg a = false)
    (shape : barShape a 8 = true) (size : r.reg.size = 64) (hM : Nat.land M (2 ^ 64 - 1) = M) :
    s.barWrite 1 a 8 v skews = (s.expertStored a v M).afterWrite a (s.reg a) M skews := by
  rw [barWrite_double up h.toPlainAt here shape size, writePart_expert h hM ok]; rfl

/-- What a write of an expert register by the host does without expert level: the register stays and the write counts (16 R489). -/
def XwDenied (s t : State) (a : Nat) : Prop :=
  t.reg a = s.reg a
    ∧ (t.rd PKG_XW_DENY fPKG_XW_DENY_COUNT = min (2 ^ fPKG_XW_DENY_COUNT.width - 1) (s.rd PKG_XW_DENY fPKG_XW_DENY_COUNT + 1)
      ∧ t.rd PKG_EVENTS fPKG_EVENTS_XW_DENIED = 1)
    ∧ t.mem = s.mem ∧ t.cores = s.cores ∧ t.dir = s.dir ∧ t.ud0 = s.ud0 ∧ t.ud1 = s.ud1

theorem xwDenied_record (ha : 0x100000 ≤ a) (s : State) (v : Nat) : XwDenied s ((s.expertRecord 1 a v false).setReg a (s.reg a)) a := by
  have hne : ∀ c, c < 0x100000 → c ≠ a := fun c hc => by omega
  have ht := setReg_touches (a := a) (w := s.reg a) (expertRecord_parts s 1 a v false) rfl
  obtain ⟨hcount, hevent⟩ := expertRecord_denied s a v
  refine ⟨reg_setReg_same _ _ _, ⟨?_, ?_⟩, ht.mem_same rfl, ht.same .cores rfl, ht.same .dir rfl, ht.same .ud0 rfl, ht.same .ud1 rfl⟩
  · rw [rd, reg_setReg_other _ (hne _ (by decide))]; exact hcount
  · rw [rd, reg_setReg_other _ (hne _ (by decide))]; exact hevent

theorem barWrite_denied_word (up : s.hostUp = true) (no : s.holds 1 11 = false) (h : ExpertAt a r M) (here : s.absentReg a = false)
    (shape : barShape a 4 = true) (hM : Nat.land M (2 ^ 32 - 1) = M) : XwDenied s (s.barWrite 1 a 4 v skews) a := by
  rw [barWrite_word up h.toPlainAt here shape, writePart_denied h hM no]; exact xwDenied_record h.high s _

theorem barWrite_denied_double (up : s.hostUp = true) (no : s.holds 1 11 = false) (h : ExpertAt a r M) (here : s.absentReg a = false)
    (shape : barShape a 8 = true) (size : r.reg.size = 64) (hM : Nat.land M (2 ^ 64 - 1) = M) :
    XwDenied s (s.barWrite 1 a 8 v skews) a := by
  rw [barWrite_double up h.toPlainAt here shape size, writePart_denied h hM no]; exact xwDenied_record h.high s _

theorem barShape_of {size : Nat} (hs : size = 4 ∨ size = 8) (ha : a % size = 0) (hlt : a < 2 ^ 26) : barShape a size = true := by
  simp only [barShape, ha, hlt, Bool.and_eq_true, Bool.or_eq_true, decide_eq_true_eq]; exact ⟨⟨hs, trivial⟩, trivial⟩

/-! Turnstiles (09 R277). -/

theorem afterWrite_sync {o : Nat} (hp : placeOf a = some ⟨.sync, 0, o⟩) (ha : a ≠ DIR_CTRL) (x : State) (was : Word) (m : Nat) :
    x.afterWrite a was m skews = x := by
  simp [afterWrite, hp, ha]

theorem limited_sync {o : Nat} (hp : placeOf a = some ⟨.sync, 0, o⟩) (ha : a ≠ DIR_TMO) (w : Word) : limited a w = w := by
  simp [limited, hp, ha]

theorem fget_low (w : Word) (v : Nat) : fget (mergeBits w (v % 2 ^ 32) (2 ^ 32 - 1)) ⟨31, 0⟩ = v % 2 ^ 32 := by
  rw [fget_mergeBits w _ (by decide) (by decide) (by decide)]
  show v % 2 ^ 32 / 2 ^ 0 % 2 ^ 32 = _
  omega

/-- A register of a turnstile that one expert field fills takes the word written. -/
theorem turnstileWrite_stores {o : Nat} (up : s.hostUp = true) (ok : s.holds 1 11 = true) (h : ExpertAt a r (2 ^ 32 - 1))
    (hp : placeOf a = some ⟨.sync, 0, o⟩) (ha : a % 4 = 0) (hlt : a < 0x740000) (v : Nat) :
    ∃ t, s.barWrite 1 a 4 v [] = t ∧ t.rd a ⟨31, 0⟩ = v % 2 ^ 32 ∧ t.incs = s.incs := by
  refine ⟨_, rfl, ?_, ?_⟩ <;>
    rw [barWrite_expert_word up ok h (absentReg_other hp rfl) (barShape_of (.inl rfl) ha (by omega)) (by decide),
      afterWrite_sync hp (by unfold DIR_CTRL; omega)]
  · rw [rd, reg_expertStored_same, limited_sync hp (by unfold DIR_TMO; omega), fget_low]
  · exact (expertStored_touches s a _ _).same .incs rfl

theorem tsCountWrite_stores (up : s.hostUp = true) (ok : s.holds 1 11 = true) (ts v : Nat) : ∃ t, exec (.tsCountWrite ts v) s = .next t
    ∧ t.rd (TS_COUNT (ts % 2 ^ 14)) fTS_COUNT_COUNT = v % 2 ^ 32 ∧ t.incs = s.incs := by
  have hts : ts % 2 ^ 14 < 16384 := Nat.mod_lt _ (by decide)
  have h := expertAt_TS_COUNT hts
  obtain ⟨t, ht, hv, hi⟩ := turnstileWrite_stores up ok h (placeOf_of_regAt h.at_) (by unfold TS_COUNT; omega) (by unfold TS_COUNT; omega) v
  exact ⟨t, congrArg _ ht, hv, hi⟩

theorem tsTargetWrite_stores (up : s.hostUp = true) (ok : s.holds 1 11 = true) (ts v : Nat) : ∃ t, exec (.tsTargetWrite ts v) s = .next t
    ∧ t.rd (TS_TARGET (ts % 2 ^ 14)) fTS_TARGET_TARGET = v % 2 ^ 32 ∧ t.incs = s.incs := by
  have hts : ts % 2 ^ 14 < 16384 := Nat.mod_lt _ (by decide)
  have h := expertAt_TS_TARGET hts
  obtain ⟨t, ht, hv, hi⟩ := turnstileWrite_stores up ok h (placeOf_of_regAt h.at_) (by unfold TS_TARGET; omega) (by unfold TS_TARGET; omega) v
  exact ⟨t, congrArg _ ht, hv, hi⟩

/-! Micro-program slots and probes of a core (06 R156, 07 R203). -/

theorem afterWrite_core {b o : Nat} (hp : placeOf a = some ⟨.core, b, o⟩) (x : State) (was : Word) (m : Nat) :
    x.afterWrite a was m skews = x.coreAfter b o a := by
  simp [afterWrite, hp]

theorem limited_core {b o : Nat} (hp : placeOf a = some ⟨.core, b, o⟩) (w : Word) :
    limited a w = if o = 0x1800 then atMost w fDM_CTRL_RATICKS 2 else w := by
  simp [limited, hp]

/-- A constant or a micro-operation of a slot takes the word written, and the slot is BAD. -/
theorem slotContentWrite_stores {b n o : Nat} (up : s.hostUp = true) (ok : s.holds 1 11 = true) (on_ : s.coreOn b = true)
    (h : ExpertAt a r (2 ^ 32 - 1)) (hp : placeOf a = some ⟨.core, b, o⟩) (ha : a = 0x1000000 + b * 0x10000 + o) (hb : b < 288) (ho : o < 0x5400)
    (ho4 : o % 4 = 0) (hn : n < 32) (hslot : 0x4200 ≤ o ∧ o < 0x4400 ∧ (o - 0x4200) / 16 = n ∨ 0x4400 ≤ o ∧ (o - 0x4400) / 128 = n) (v : Nat) :
    ∃ t, s.barWrite 1 a 4 v [] = t ∧ (t.reg a).toNat % 2 ^ 32 = v % 2 ^ 32 ∧ t.on (VE_SLOT_CFG b n) fVE_SLOT_CFG_BAD = true := by
  have hcfg : a ≠ VE_SLOT_CFG b n := by unfold VE_SLOT_CFG; omega
  have hafter : ∀ x : State, x.coreAfter b o a = x.wr (VE_SLOT_CFG b n) fVE_SLOT_CFG_BAD 1 := by
    intro x
    unfold coreAfter
    have h1 : ¬o = 0x1800 := by omega
    have h2 : ¬o < 0x4200 := by omega
    rcases hslot with ⟨h3, h4, h5⟩ | ⟨h3, h5⟩
    · simp [h1, h2, h3, h4, h5]
    · have h6 : ¬o < 0x4400 := by omega
      simp [h1, h2, h3, h6, ho, h5]
  refine ⟨_, rfl, ?_, ?_⟩ <;>
    rw [barWrite_expert_word up ok h (absentReg_core hp on_) (barShape_of (.inl rfl) (by omega) (by omega)) (by decide), afterWrite_core hp, hafter]
  · rw [reg_wr_other _ hcfg, reg_expertStored_same, limited_core hp, if_neg (by omega)]
    have := fget_low (s.reg a) v
    simpa [fget, Fld.width] using this
  · rw [on, rd_wr_same _ _ _ (by decide) (by decide)]; rfl

theorem exec_veSlotContentWrite {b n k : Nat} (hb : b < 288) (hn : n < 32) (hk : k < 36) (v : Nat) : exec (.veSlotContentWrite b n k v) s
    = .next (s.barWrite 1 (if k < 4 then VE_SLOT_C b (4 * n + k) else VE_UOP b (32 * n + (k - 4))) 4 v []) := by
  show Host.Outcome.next _ = _
  rw [Nat.mod_eq_of_lt hb, Nat.mod_eq_of_lt hn, Nat.mod_eq_of_lt (show k - 4 < 32 by omega)]

theorem veSlotContentWrite_stores {b n k : Nat} (up : s.hostUp = true) (ok : s.holds 1 11 = true) (on_ : s.coreOn b = true) (hb : b < 288)
    (hn : n < 32) (hk : k < 36) (v : Nat) : ∃ t, exec (.veSlotContentWrite b n k v) s = .next t
      ∧ (t.reg (if k < 4 then VE_SLOT_C b (4 * n + k) else VE_UOP b (32 * n + (k - 4)))).toNat % 2 ^ 32 = v % 2 ^ 32
      ∧ t.on (VE_SLOT_CFG b n) fVE_SLOT_CFG_BAD = true := by
  have e := exec_veSlotContentWrite (s := s) hb hn hk v
  by_cases h4 : k < 4
  · rw [if_pos h4] at e ⊢
    have h := expertAt_VE_SLOT_C hb (show 4 * n + k < 128 by omega)
    obtain ⟨t, ht, hv, hbad⟩ := slotContentWrite_stores (n := n) up ok on_ h (placeOf_of_regAt h.at_) (by unfold VE_SLOT_C; omega) hb (by omega)
      (by omega) hn (by omega) v
    exact ⟨t, e.trans (congrArg _ ht), hv, hbad⟩
  · rw [if_neg h4] at e ⊢
    have h := expertAt_VE_UOP hb (show 32 * n + (k - 4) < 1024 by omega)
    obtain ⟨t, ht, hv, hbad⟩ := slotContentWrite_stores (n := n) up ok on_ h (placeOf_of_regAt h.at_) (by unfold VE_UOP; omega) hb (by omega)
      (by omega) hn (by omega) v
    exact ⟨t, e.trans (congrArg _ ht), hv, hbad⟩

theorem exec_veSlotCfgWrite {b n : Nat} (hb : b < 288) (hn : n < 32) (v : Nat) : exec (.veSlotCfgWrite b n v) s
    = .next (s.barWrite 1 (VE_SLOT_CFG b n) 8 v []) := by
  show Host.Outcome.next _ = _
  rw [Nat.mod_eq_of_lt hb, Nat.mod_eq_of_lt hn]

theorem veSlotCfgWrite_stores {b n : Nat} (up : s.hostUp = true) (ok : s.holds 1 11 = true) (on_ : s.coreOn b = true) (hb : b < 288)
    (hn : n < 32) (v : Nat) : ∃ t, exec (.veSlotCfgWrite b n v) s = .next t ∧ fget (t.reg (VE_SLOT_CFG b n)) ⟨63, 25⟩ = v / 2 ^ 25 % 2 ^ 39
      ∧ t.cores = s.cores := by
  have h := expertAt_VE_SLOT_CFG hb hn
  have hp := placeOf_of_regAt h.at_
  have e := exec_veSlotCfgWrite (s := s) hb hn v
  have hafter : ∀ x : State, x.coreAfter b (0x4100 + n * 8) (VE_SLOT_CFG b n) = x.checkSlot b n := by
    intro x
    have h1 : ¬0x4100 + n * 8 = 0x1800 := by omega
    have h2 : 0x4100 + n * 8 < 0x4200 := by omega
    simp [coreAfter, h1, h2]
  refine ⟨_, e, ?_, ?_⟩ <;>
    rw [barWrite_expert_double up ok h (absentReg_core hp on_) (barShape_of (.inr rfl) (by unfold VE_SLOT_CFG; omega) (by unfold VE_SLOT_CFG; omega))
      (show (rowAt .core 0x4100).size = 64 by decide +kernel) (by decide), afterWrite_core hp, hafter, checkSlot]
  · rw [reg_wr_same, fget_fset_above _ _ (by decide) (by decide) (by decide), reg_expertStored_same, limited_core hp, if_neg (by omega),
      fget_mergeBits _ _ (by decide) (by decide) (by decide)]
    rfl
  · exact (expertStored_touches s (VE_SLOT_CFG b n) v (2 ^ 64 - 2 ^ 25)).same .cores rfl

theorem fget_atMost_same (w : Word) {f : Fld} {n : Nat} (h : f.lo ≤ f.hi) (h64 : f.hi < 64) (hn : n < 2 ^ f.width) :
    fget (atMost w f n) f = min n (fget w f) := by
  unfold atMost
  split
  · rw [fget_fset_same _ _ h h64, Nat.mod_eq_of_lt hn]; omega
  · omega

theorem fget_atMost_other (w : Word) {f g : Fld} (n : Nat) (h : f.lo ≤ f.hi) (h64 : f.hi < 64) (hg : g.lo ≤ g.hi)
    (hd : g.hi < f.lo ∨ f.hi < g.lo) : fget (atMost w f n) g = fget w g := by
  unfold atMost
  split
  · exact fget_fset_other _ _ h h64 hg hd
  · rfl

theorem cancelProbes_all (x : State) (b : Nat) : ((x.cancelProbes b fun _ => true).core b).probes = [] := by
  unfold cancelProbes
  extract_lets gone s1 s2
  have hgone : gone = (x.core b).probes := by simp [gone]
  have h2 : s2.cores = s1.cores := foldl_keeps (P := fun z : State => z.cores = s1.cores) rfl fun _ _ h => h
  split
  · next h => rwa [List.isEmpty_iff, hgone] at h
  · rw [core_congr (raise_cores ..), core_congr (bump_cores ..), core_congr h2, core_modCore_same]
    simp

theorem cancelProbes_keeps_DM_CTRL (x : State) (b : Nat) (f : Probe → Bool) : (x.cancelProbes b f).reg (DM_CTRL b) = x.reg (DM_CTRL b) := by
  refine Keeps_cancelProbes (P := (· = DM_CTRL b)) Keeps.refl b f ?_ _ rfl
  rintro a h rfl
  unfold ofIssue DM_CTRL TIME_LATE SQ_STATUS SQ_EVENTS SQ_ISSUED DM_RA_CANCEL DM_EVENTS SQS_PC SQS_WAIT SQS_FAULT SQS_LOST SQS_ISSUED at h
  rcases h with h | h | h | h | h | h | ⟨k, _, h⟩ <;> omega

theorem exec_raticksWrite {b : Nat} (hb : b < 288) (v : Nat) : exec (.raticksWrite b v) s = .next (s.barWrite 1 (DM_CTRL b) 4 v []) := by
  show Host.Outcome.next _ = _
  rw [Nat.mod_eq_of_lt hb]

theorem raticksWrite_stores {b : Nat} (up : s.hostUp = true) (ok : s.holds 1 11 = true) (on_ : s.coreOn b = true) (hb : b < 288) (v : Nat) :
    ∃ t, exec (.raticksWrite b v) s = .next t ∧ t.rd (DM_CTRL b) fDM_CTRL_RATICKS = min 2 (v / 2 % 4) ∧ t.rd (DM_CTRL b) fDM_CTRL_EN = v % 2
      ∧ (v / 2 % 4 = 0 → (t.core b).probes = []) ∧ (v / 2 % 4 ≠ 0 → t.cores = s.cores) := by
  have h := expertAt_DM_CTRL hb
  have hp := placeOf_of_regAt h.at_
  have e := exec_raticksWrite (s := s) hb v
  rw [barWrite_expert_word up ok h (absentReg_core hp on_) (barShape_of (.inl rfl) (by unfold DM_CTRL; omega) (by unfold DM_CTRL; omega))
    (by decide), afterWrite_core hp, coreAfter, if_pos rfl] at e
  generalize hx : s.expertStored (DM_CTRL b) (v % 2 ^ 32) 7 = x at e
  have hreg : x.reg (DM_CTRL b) = atMost (mergeBits (s.reg (DM_CTRL b)) (v % 2 ^ 32) 7) fDM_CTRL_RATICKS 2 := by
    rw [← hx, reg_expertStored_same, limited_core hp, if_pos rfl]
  have hra : x.rd (DM_CTRL b) fDM_CTRL_RATICKS = min 2 (v / 2 % 4) := by
    rw [rd, hreg, fget_atMost_same _ (by decide) (by decide) (by decide), fget_mergeBits _ _ (by decide) (by decide) (by decide)]
    show min 2 (v % 2 ^ 32 / 2 ^ 1 % 2 ^ 2) = _
    omega
  have hen : x.rd (DM_CTRL b) fDM_CTRL_EN = v % 2 := by
    rw [rd, hreg, fget_atMost_other _ _ (by decide) (by decide) (by decide) (by decide), fget_mergeBits _ _ (by decide) (by decide) (by decide)]
    show v % 2 ^ 32 / 2 ^ 0 % 2 ^ 1 = _
    omega
  have hcores : x.cores = s.cores := hx ▸ (expertStored_touches s (DM_CTRL b) (v % 2 ^ 32) 7).same .cores rfl
  by_cases h0 : v / 2 % 4 = 0
  · rw [if_pos (by omega)] at e
    have hk := cancelProbes_keeps_DM_CTRL x b fun _ => true
    exact ⟨_, e, by rw [rd, hk]; exact hra, by rw [rd, hk]; exact hen, fun _ => cancelProbes_all x b, fun h => absurd h0 h⟩
  · rw [if_neg (by omega)] at e
    exact ⟨x, e, hra, hen, fun h => absurd h h0, fun _ => hcores⟩

end State

end Sys2Proof.Machine
end

section
namespace Sys2Proof.Machine

/-- A key that a filter leaves out whatever it holds reads as unlisted. -/
theorem sget_filter_out {V : Type} (d : V) {k : Nat} {f : Nat × V → Bool} (hf : ∀ v, f (k, v) = false) (l : List (Nat × V)) :
    sget d k (l.filter f) = d := by
  induction l with
  | nil => rfl
  | cons p t ih =>
    by_cases hp : f p = true
    · have hk : p.1 ≠ k := by
        rintro rfl
        rw [hf p.2] at hp; cases hp
      rw [List.filter_cons_of_pos hp, sget, if_neg hk, ih]
    · rw [List.filter_cons_of_neg hp, ih]

namespace State

variable {s : State} {a v : Nat} {skews : List Int}

/-! Update dies (10 R305, R311). -/

theorem afterWrite_ud {d o : Nat} (hp : placeOf a = some ⟨.ud, d, o⟩) (x : State) (was : Word) (m : Nat) :
    x.afterWrite a was m skews = x.udAfter a := by
  simp [afterWrite, hp]

theorem limited_ud {d o : Nat} (hp : placeOf a = some ⟨.ud, d, o⟩) (w : Word) : limited a w = w := by
  simp [limited, hp]

theorem udAfter_rule {d n : Nat} (hd : d < 2) (hn : n < 4) (x : State) : x.udAfter (UD_RULE_CFG d n) = x.checkRule d n := by
  obtain rfl | rfl : d = 0 ∨ d = 1 := by omega
  all_goals obtain rfl | rfl | rfl | rfl : n = 0 ∨ n = 1 ∨ n = 2 ∨ n = 3 := by omega
  all_goals rfl

theorem udAfter_recbase {d : Nat} (hd : d < 2) (x : State) : x.udAfter (UD_RECBASE d) = x.firstRecbase d := by
  obtain rfl | rfl : d = 0 ∨ d = 1 := by omega
  all_goals rfl

theorem exec_udRuleCfgWrite {d n : Nat} (hd : d < 2) (hn : n < 4) (v : Nat) : exec (.udRuleCfgWrite d n v) s
    = .next (s.barWrite 1 (UD_RULE_CFG d n) 8 v []) := by
  show Host.Outcome.next _ = _
  rw [Nat.mod_eq_of_lt hd, Nat.mod_eq_of_lt hn]

theorem udRuleCfgWrite_stores {d n : Nat} (up : s.hostUp = true) (ok : s.holds 1 11 = true) (hd : d < 2) (hn : n < 4) (v : Nat) :
    ∃ t, exec (.udRuleCfgWrite d n v) s = .next t ∧ fget (t.reg (UD_RULE_CFG d n)) ⟨18, 0⟩ = v % 2 ^ 19 ∧ t.mem = s.mem := by
  have h := expertAt_UD_RULE_CFG hd hn
  have hp := placeOf_of_regAt h.at_
  have e := exec_udRuleCfgWrite (s := s) hd hn v
  rw [barWrite_expert_double up ok h (absentReg_other hp rfl) (barShape_of (.inr rfl) (by unfold UD_RULE_CFG; omega) (by unfold UD_RULE_CFG; omega))
    (show (rowAt .ud 0x900).size = 64 by decide +kernel) (by decide), afterWrite_ud hp, udAfter_rule hd hn, checkRule] at e
  refine ⟨_, e, ?_, ?_⟩
  · rw [reg_wr_same, fget_fset_below _ _ (by decide) (by decide) (by decide) (by decide), reg_expertStored_same, limited_ud hp,
      fget_mergeBits _ _ (by decide) (by decide) (by decide)]
    show v / 2 ^ 0 % 2 ^ 19 = _
    rw [Nat.pow_zero, Nat.div_one]
  · rw [wr_mem]; exact (expertStored_touches s (UD_RULE_CFG d n) v (2 ^ 19 - 1)).mem_same rfl

/-- The range of a die's records, cleared, reads as zero. -/
theorem clearRecords_peat (x : State) (d : Nat) {k : Nat} (hk : k < 64 * x.rd (UD_RECBASE d) fUD_RECBASE_NREC) :
    memBytes (x.clearRecords d).mem.peat (d * 2 ^ 40 + x.rd (UD_RECBASE d) fUD_RECBASE_BASE + k) 1 = [0] := by
  unfold clearRecords
  extract_lets base n lo y
  have hy : ((List.range n).foldl (fun s k => (s.lineClean (10 + d) (base / 64 + k)).modMem fun m =>
      { m with known := setIns (lineKey (10 + d) (base / 64 + k)) m.known }) y).mem.peat = y.mem.peat :=
    foldl_keeps (P := fun z : State => z.mem.peat = y.mem.peat) rfl fun _ _ h => h
  rw [hy]
  have hz : memByte y.mem.peat (lo + k) = 0 := sget_filter_out _ (fun v => by simp; omega) _
  show [(memByte y.mem.peat (lo + k)).toNat] = [0]
  rw [hz]; rfl

theorem firstRecbase_reg (x : State) (d c : Nat) : (x.firstRecbase d).reg c = x.reg c :=
  reg_congr ((firstRecbase_touches (L := [.peat, .caches]) Touches.refl rfl).same .regs rfl) c

/-- The first write of the record base clears the range; a later one leaves it. -/
theorem firstRecbase_peat (x : State) (d : Nat) :
    (d ∉ x.mem.recs → ∀ k, k < 64 * x.rd (UD_RECBASE d) fUD_RECBASE_NREC →
        memBytes (x.firstRecbase d).mem.peat (d * 2 ^ 40 + x.rd (UD_RECBASE d) fUD_RECBASE_BASE + k) 1 = [0])
      ∧ (d ∈ x.mem.recs → x.firstRecbase d = x) := by
  unfold firstRecbase
  constructor
  · intro h k hk
    rw [if_neg (by simpa using h)]
    exact clearRecords_peat (x.modMem fun m => { m with recs := setIns d m.recs }) d hk
  · intro h
    rw [if_pos (by simpa using h)]

theorem exec_udRecbaseFirstWrite {d : Nat} (hd : d < 2) (v : Nat) : exec (.udRecbaseFirstWrite d v) s
    = .next (s.barWrite 1 (UD_RECBASE d) 8 v []) := by
  show Host.Outcome.next _ = _
  rw [Nat.mod_eq_of_lt hd]

theorem udRecbaseFirstWrite_stores {d : Nat} (up : s.hostUp = true) (ok : s.holds 1 11 = true) (hd : d < 2) (v : Nat) :
    ∃ t, exec (.udRecbaseFirstWrite d v) s = .next t ∧ t.rd (UD_RECBASE d) fUD_RECBASE_BASE = v % 2 ^ 40
      ∧ t.rd (UD_RECBASE d) fUD_RECBASE_NREC = v / 2 ^ 40 % 2 ^ 16
      ∧ (d ∉ s.mem.recs → ∀ k, k < 64 * (v / 2 ^ 40 % 2 ^ 16) → memBytes t.mem.peat (d * 2 ^ 40 + v % 2 ^ 40 + k) 1 = [0])
      ∧ (d ∈ s.mem.recs → t.mem.peat = s.mem.peat) := by
  have h := expertAt_UD_RECBASE hd
  have hp := placeOf_of_regAt h.at_
  have e := exec_udRecbaseFirstWrite (s := s) hd v
  rw [barWrite_expert_double up ok h (absentReg_other hp rfl) (barShape_of (.inr rfl) (by unfold UD_RECBASE; omega) (by unfold UD_RECBASE; omega))
    (show (rowAt .ud 0x30).size = 64 by decide +kernel) (by decide), afterWrite_ud hp, udAfter_recbase hd] at e
  have hbase : (s.expertStored (UD_RECBASE d) v (2 ^ 56 - 1)).rd (UD_RECBASE d) fUD_RECBASE_BASE = v % 2 ^ 40 := by
    rw [rd, reg_expertStored_same, limited_ud hp, fget_mergeBits _ _ (by decide) (by decide) (by decide)]
    show v / 2 ^ 0 % 2 ^ 40 = _
    rw [Nat.pow_zero, Nat.div_one]
  have hnrec : (s.expertStored (UD_RECBASE d) v (2 ^ 56 - 1)).rd (UD_RECBASE d) fUD_RECBASE_NREC = v / 2 ^ 40 % 2 ^ 16 := by
    rw [rd, reg_expertStored_same, limited_ud hp, fget_mergeBits _ _ (by decide) (by decide) (by decide)]; rfl
  have hmem : (s.expertStored (UD_RECBASE d) v (2 ^ 56 - 1)).mem = s.mem := (expertStored_touches s (UD_RECBASE d) v (2 ^ 56 - 1)).mem_same rfl
  have hpeat := firstRecbase_peat (s.expertStored (UD_RECBASE d) v (2 ^ 56 - 1)) d
  rw [hbase, hnrec, hmem] at hpeat
  refine ⟨_, e, ?_, ?_, hpeat.1, fun hr => ?_⟩
  · rw [rd, firstRecbase_reg, ← rd, hbase]
  · rw [rd, firstRecbase_reg, ← rd, hnrec]
  · rw [hpeat.2 hr, hmem]

/-! Stack caches (11 R321). -/

/-- Nothing of the site stays cached; the bytes of the stack tier and the registers below the cores stay. -/
theorem cenCleared_spec (x : State) (n : Nat) :
    (x.cenCleared n).mem.cache = x.mem.cache.filter (fun l => l.site ≠ n) ∧ (x.cenCleared n).mem.stack = x.mem.stack
      ∧ Keeps (· < 0x1000000) x (x.cenCleared n) := by
  have hmem : (x.cenCleared n).mem = (x.dropLines fun l => l.site = n).mem := by
    unfold cenCleared
    exact foldl_keeps (P := fun z : State => z.mem = (x.dropLines fun l => l.site = n).mem) rfl fun z _ hz =>
      ((raise_mem _ _ _).trans (bump_mem _ _ _ _)).trans hz
  refine ⟨?_, ?_, ?_⟩
  · rw [hmem]; simp [dropLines, modMem]
  · rw [hmem]; rfl
  · unfold cenCleared
    refine Keeps.foldl (fun z c _ hz => (hz.bump ?_ _ _).raise ?_ _) (Keeps.refl.regs rfl)
    · unfold DM_RA_DROP; omega
    · unfold DM_EVENTS; omega

theorem exec_memCtrlCenWrite {n : Nat} (hn : n < 10) (v : Nat) : exec (.memCtrlCenWrite n v) s = .next (s.barWrite 1 (MEM_CTRL n) 4 v []) := by
  show Host.Outcome.next _ = _
  rw [Nat.mod_eq_of_lt hn]

theorem memCtrlCenWrite_stores {n : Nat} (up : s.hostUp = true) (ok : s.holds 1 11 = true) (hn : n < 10)
    (site : s.rd PKG_CONFIG fPKG_CONFIG_STACKMAP / 2 ^ n % 2 = 1) (v : Nat) :
    ∃ t, exec (.memCtrlCenWrite n v) s = .next t ∧ t.rd (MEM_CTRL n) fMEM_CTRL_CEN = v % 2
      ∧ t.mem.cache = s.mem.cache.filter (fun l => l.site ≠ n) ∧ t.mem.stack = s.mem.stack := by
  have h := expertAt_MEM_CTRL hn
  have hp := placeOf_of_regAt h.at_
  have e := exec_memCtrlCenWrite (s := s) hn v
  have hafter : ∀ (x : State) was, x.afterWrite (MEM_CTRL n) was 1 [] = x.cenCleared n := fun x was => by simp [afterWrite, hp]
  have hlim : ∀ w, limited (MEM_CTRL n) w = w := fun w => by simp [limited, hp]
  rw [barWrite_expert_word up ok h (absentReg_mem hp site) (barShape_of (.inl rfl) (by unfold MEM_CTRL; omega) (by unfold MEM_CTRL; omega))
    (by decide), hafter] at e
  have hmem : (s.expertStored (MEM_CTRL n) (v % 2 ^ 32) 1).mem = s.mem := (expertStored_touches s (MEM_CTRL n) (v % 2 ^ 32) 1).mem_same rfl
  obtain ⟨hcache, hstack, hkeep⟩ := cenCleared_spec (s.expertStored (MEM_CTRL n) (v % 2 ^ 32) 1) n
  refine ⟨_, e, ?_, by rw [hcache, hmem], by rw [hstack, hmem]⟩
  rw [rd, hkeep _ (by unfold MEM_CTRL; omega), reg_expertStored_same, hlim, fget_mergeBits _ _ (by decide) (by decide) (by decide)]
  show v % 2 ^ 32 / 2 ^ 0 % 2 ^ 1 = _
  omega

end State

end Sys2Proof.Machine
end

section
namespace Sys2Proof.Machine

namespace State

variable {s : State} {a v : Nat} {skews : List Int}

/-! The tensor directory (12 R349, R364). -/

theorem clearDir_reg (x : State) (c : Nat) : x.clearDir.reg c = x.reg c :=
  reg_congr ((clearDir_touches (L := [.stack, .caches, .dir]) Touches.refl rfl).same .regs rfl) c

theorem clearDir_cache (x : State) : x.clearDir.dir.cache = [] := by
  unfold clearDir
  extract_lets b site x1 x2 x3
  rfl

theorem dirEnabled_reg (x : State) (was : Bool) : (x.dirEnabled was).reg DIR_CTRL = x.reg DIR_CTRL := by
  have hne : DIR_CTRL ≠ DIR_STATUS := by decide
  unfold dirEnabled
  split
  · rfl
  · split
    · rw [reg_wr_other _ hne, clearDir_reg]
    · exact reg_wr_other _ hne _ _

/-- Whether the directory's range is mapped depends on registers outside package control but DIR_CTRL alone. -/
theorem dirMapped_congr {x y : State} (h : ∀ c, c ≠ DIR_CTRL → 0x100000 ≤ c → y.reg c = x.reg c) : y.dirMapped = x.dirMapped := by
  have hb : y.rd DIR_BASE fDIR_BASE_BASE = x.rd DIR_BASE fDIR_BASE_BASE := by rw [rd, h _ (by decide) (by decide), ← rd]
  unfold dirMapped
  rw [hb]
  extract_lets b site
  by_cases hs : site < 10
  · have h1 : y.siteState site = x.siteState site := by
      rw [siteState, rd, h _ (by unfold MEM_STATUS DIR_CTRL; omega) (by unfold MEM_STATUS; omega)]; rfl
    have h2 : y.siteRange site = x.siteRange site := by
      rw [siteRange, rd, h _ (by unfold MEM_RANGE DIR_CTRL; omega) (by unfold MEM_RANGE; omega)]; rfl
    rw [h1, h2]
  · simp [hs]

/-- The directory comes on: kept where it was lost or unmapped, else cleared and empty. -/
theorem dirEnabled_on (x : State) (h : x.on DIR_CTRL fDIR_CTRL_EN = true) :
    (x.rd DIR_STATUS fDIR_STATUS_STATE ≠ 2 → (x.dirEnabled false).rd DIR_STATUS fDIR_STATUS_STATE = (if x.dirMapped then 1 else 0)
        ∧ (x.dirEnabled false).mem = x.mem)
      ∧ (x.rd DIR_STATUS fDIR_STATUS_STATE = 2 → (x.dirEnabled false).rd DIR_STATUS fDIR_STATUS_STATE = 1
        ∧ (x.dirEnabled false).dir.cache = []) := by
  have h0 : (false || !x.on DIR_CTRL fDIR_CTRL_EN) = false := by rw [h]; rfl
  unfold dirEnabled
  rw [h0, if_neg (by decide)]
  constructor
  · intro h2
    rw [if_neg h2]
    refine ⟨?_, wr_mem _ _ _ _⟩
    rw [rd_wr_same _ _ _ (by decide) (by decide)]
    split <;> rfl
  · intro h2
    rw [if_pos h2]
    refine ⟨?_, ?_⟩
    · rw [rd_wr_same _ _ _ (by decide) (by decide)]; rfl
    · rw [wr_dir]; exact clearDir_cache x

theorem dirCtrlEnWrite_stores (up : s.hostUp = true) (ok : s.holds 1 11 = true) (v : Nat) :
    ∃ t, exec (.dirCtrlEnWrite v) s = .next t ∧ t.rd DIR_CTRL fDIR_CTRL_EN = v % 2
      ∧ (v % 2 = 1 → s.on DIR_CTRL fDIR_CTRL_EN = false → s.rd DIR_STATUS fDIR_STATUS_STATE ≠ 2 →
          t.rd DIR_STATUS fDIR_STATUS_STATE = (if s.dirMapped then 1 else 0) ∧ t.mem = s.mem)
      ∧ (v % 2 = 1 → s.on DIR_CTRL fDIR_CTRL_EN = false → s.rd DIR_STATUS fDIR_STATUS_STATE = 2 →
          t.rd DIR_STATUS fDIR_STATUS_STATE = 1 ∧ t.dir.cache = []) := by
  have hp := placeOf_of_regAt expertAt_DIR_CTRL.at_
  have e : exec (.dirCtrlEnWrite v) s = .next (s.barWrite 1 DIR_CTRL 4 v []) := rfl
  have hafter : ∀ (x : State) was, x.afterWrite DIR_CTRL was 1 [] = x.dirEnabled (fget was fDIR_CTRL_EN = 1) := fun x was => by
    simp [afterWrite, hp]
  rw [barWrite_expert_word up ok expertAt_DIR_CTRL (absentReg_other hp rfl) (by decide) (by decide), hafter] at e
  have hen : (s.expertStored DIR_CTRL (v % 2 ^ 32) 1).rd DIR_CTRL fDIR_CTRL_EN = v % 2 := by
    rw [rd, reg_expertStored_same, limited_sync hp (by decide), fget_mergeBits _ _ (by decide) (by decide) (by decide)]
    show v % 2 ^ 32 / 2 ^ 0 % 2 ^ 1 = _
    omega
  have hother : ∀ c, c ≠ DIR_CTRL → 0x100000 ≤ c → (s.expertStored DIR_CTRL (v % 2 ^ 32) 1).reg c = s.reg c := fun c => reg_expertStored_other
  have hstate : (s.expertStored DIR_CTRL (v % 2 ^ 32) 1).rd DIR_STATUS fDIR_STATUS_STATE = s.rd DIR_STATUS fDIR_STATUS_STATE := by
    rw [rd, hother _ (by decide) (by decide), ← rd]
  have hmem : (s.expertStored DIR_CTRL (v % 2 ^ 32) 1).mem = s.mem := (expertStored_touches s DIR_CTRL (v % 2 ^ 32) 1).mem_same rfl
  have hon : v % 2 = 1 → (s.expertStored DIR_CTRL (v % 2 ^ 32) 1).on DIR_CTRL fDIR_CTRL_EN = true := fun h1 => by rw [on, hen, h1]; rfl
  have hwas : s.on DIR_CTRL fDIR_CTRL_EN = false → (decide (fget (s.reg DIR_CTRL) fDIR_CTRL_EN = 1)) = false := fun h => h
  refine ⟨_, e, ?_, fun h1 hoff h2 => ?_, fun h1 hoff h2 => ?_⟩
  · rw [rd, dirEnabled_reg, ← rd, hen]
  · rw [hwas hoff, ← dirMapped_congr hother, ← hmem]
    exact (dirEnabled_on _ (hon h1)).1 (by rw [hstate]; exact h2)
  · rw [hwas hoff]
    exact (dirEnabled_on _ (hon h1)).2 (by rw [hstate]; exact h2)

/-! The aligner (08 R220, R240). -/

theorem Keeps_setXing {x y : State} (h : Keeps (· = TIME_CTRL) x y) (n : Nat) (sync : Bool) : Keeps (· = TIME_CTRL) x (y.setXing n sync) := by
  have h1 : ¬TIME_XING n = TIME_CTRL := by unfold TIME_XING TIME_CTRL; omega
  unfold setXing realigned
  exact ((h.wr h1 _ _).wr (a := TIME_XMODE) (by decide) _ _).wr (a := TIME_STATUS) (by decide) _ _

theorem Keeps_rephase {x y : State} (h : Keeps (· = TIME_CTRL) x y) : Keeps (· = TIME_CTRL) x y.rephase := by
  have hz : ∀ n, ¬TIME_ZSTAT n = TIME_CTRL := fun n => by unfold TIME_ZSTAT TIME_CTRL; omega
  unfold rephase
  extract_lets y1 y2
  have h1 : Keeps (· = TIME_CTRL) x y1 := Keeps.foldl (fun z n _ h => (h.wr (hz n) _ _).wr (hz n) _ _) h
  have h2 : Keeps (· = TIME_CTRL) x y2 := h1.regs rfl
  exact Keeps.foldl (fun z n _ h => Keeps.ite h (Keeps_setXing h n true)) h2

theorem align_reg (x : State) (skews : List Int) : (x.align skews).reg TIME_CTRL = x.reg TIME_CTRL := by
  have hx : ∀ n, ¬TIME_XING n = TIME_CTRL := fun n => by unfold TIME_XING TIME_CTRL; omega
  unfold align
  extract_lets code y
  have h1 : Keeps (· = TIME_CTRL) x y := by
    refine Keeps.foldl (fun z n _ h => ?_) Keeps.refl
    have h2 := fun v w => (h.wr (hx n) fTIME_XING_SKEW v).wr (hx n) fTIME_XING_STUCK w
    exact Keeps.ite ((Keeps_setXing (h2 _ _) n false).raise (a := TIME_EVENTS) (by decide) _) (h2 _ _)
  exact (Keeps_rephase h1).regs (t := y.rephase.modTime _) rfl _ rfl

/-- The aligner runs when ALIGN is written 1, and ALIGN reads 0 after it. -/
theorem afterWrite_TIME_CTRL (x : State) (was : Word) (m : Nat) (skews : List Int) : ∃ l, x.afterWrite TIME_CTRL was m skews =
    if x.on TIME_CTRL fTIME_CTRL_ALIGN = true then (x.wr TIME_CTRL fTIME_CTRL_ALIGN 0).align l else x := by
  refine ⟨if skews.isEmpty then x.lastSkews else skews, ?_⟩
  simp [afterWrite, placeOf_of_regAt expertAt_TIME_CTRL.at_]

theorem timeCtrlAlignWrite_stores (up : s.hostUp = true) (ok : s.holds 1 11 = true) (v : Nat) (skews : List Int) :
    ∃ t, exec (.timeCtrlAlignWrite v skews) s = .next t ∧ t.on TIME_CTRL fTIME_CTRL_ALIGN = false
      ∧ t.rd TIME_CTRL fTIME_CTRL_GATE_OVR = v % 2 := by
  have hp := placeOf_of_regAt expertAt_TIME_CTRL.at_
  have e : exec (.timeCtrlAlignWrite v skews) s = .next (s.barWrite 1 TIME_CTRL 4 v skews) := rfl
  have hlim : ∀ w, limited TIME_CTRL w = w := fun w => by
    have : TIME_CTRL ≠ TIME_SERVO_CFG := by decide
    simp [limited, hp, this]
  obtain ⟨l, hafter⟩ := afterWrite_TIME_CTRL (s.expertStored TIME_CTRL (v % 2 ^ 32) 3) (s.reg TIME_CTRL) 3 skews
  rw [barWrite_expert_word up ok expertAt_TIME_CTRL (absentReg_other hp rfl) (by decide) (by decide), hafter] at e
  have hgate : (s.expertStored TIME_CTRL (v % 2 ^ 32) 3).rd TIME_CTRL fTIME_CTRL_GATE_OVR = v % 2 := by
    rw [rd, reg_expertStored_same, hlim, fget_mergeBits _ _ (by decide) (by decide) (by decide)]
    show v % 2 ^ 32 / 2 ^ 0 % 2 ^ 1 = _
    omega
  by_cases hon : (s.expertStored TIME_CTRL (v % 2 ^ 32) 3).on TIME_CTRL fTIME_CTRL_ALIGN = true
  · rw [if_pos hon] at e
    refine ⟨_, e, ?_, ?_⟩
    · rw [on, rd, align_reg, ← rd, rd_wr_same _ _ _ (by decide) (by decide)]; rfl
    · rw [rd, align_reg, ← rd, rd_wr_field _ _ _ (by decide) (by decide) (by decide) (by decide), hgate]
  · rw [if_neg hon] at e
    exact ⟨_, e, Bool.eq_false_iff.2 hon, hgate⟩

end State

end Sys2Proof.Machine
end

section
namespace Sys2Proof.Machine

namespace State

variable {s : State} {a v : Nat}

/-! Event registers and the registers of the host port (17 R507, R509). -/

/-- The fixed facts about the four event registers: every field of them is cleared by writing 1. -/
theorem eventRegister {a : Nat} (ha : a ∈ [TIME_EVENTS, PWR_EVENTS, PKG_EVENTS, HIF_EVENTS]) :
    (∃ r, PlainAt a r ∧ [Blk.mem, .fab, .core].contains r.place.blk = false) ∧ barShape a 4 = true ∧ accMask a [.xw] = 0 ∧ accMask a [.rw] = 0
      ∧ a ≠ HIF_SQ ∧ Nat.land (accMask a [.w1c]) (2 ^ 32 - 1) = accMask a [.w1c] := by
  have hplain : ∀ a, (regAt a).any (fun r => !([Blk.mem, .fab, .core].contains r.place.blk)) = true → (a < 0x600000 ∨ 0x700000 ≤ a) →
      tsIncAt a = none → ∃ r, PlainAt a r ∧ [Blk.mem, .fab, .core].contains r.place.blk = false := by
    intro a hr hc hi
    obtain ⟨r, hr, hb⟩ := (Option.any_eq_true _ _).1 hr
    exact ⟨r, ⟨hr, hc, hi⟩, by simpa using hb⟩
  simp only [List.mem_cons, List.not_mem_nil, or_false] at ha
  rcases ha with rfl | rfl | rfl | rfl <;>
    exact ⟨hplain _ (by decide +kernel) (by decide) (by decide +kernel), by decide, by decide +kernel, by decide +kernel, by decide, by decide +kernel⟩

theorem eventWrite_clears (up : s.hostUp = true) (v : Nat) (ha : a ∈ [TIME_EVENTS, PWR_EVENTS, PKG_EVENTS, HIF_EVENTS]) :
    ∃ t, exec (.registerWrite a 4 v) s = .next t
      ∧ t.reg a = s.reg a &&& ~~~(BitVec.ofNat 64 (Nat.land (accMask a [.w1c]) (v % 2 ^ 32))) ∧ (∀ b, b ≠ a → t.reg b = s.reg b)
      ∧ t.mem = s.mem ∧ t.cores = s.cores := by
  obtain ⟨⟨r, hr, hblk⟩, hshape, hxw, hrw, hsq, hw⟩ := eventRegister ha
  have e : exec (.registerWrite a 4 v) s = .next (s.barWrite 1 a 4 v []) := rfl
  rw [barWrite_word up hr (absentReg_other (placeOf_of_regAt hr.at_) hblk) hshape] at e
  obtain ⟨hregs, hmem, hcores⟩ := writePart_event (s := s) (cls := 1) (v := v % 2 ^ 32) (m := 2 ^ 32 - 1) (skews := []) hxw hrw hsq
  rw [hw] at hregs
  refine ⟨_, e, ?_, fun b hb => ?_, hmem, hcores⟩
  · rw [reg_congr hregs, reg_setReg_same]
  · rw [reg_congr hregs, reg_setReg_other _ hb]

/-- A write of a register that has no expert field stores its writable bits. -/
theorem writePart_writable {r : RegAt} {cls m M : Nat} {skews : List Int} (h : StoredAt a r) (hxw : r.reg.mask [.xw] = 0)
    (hrw : r.reg.mask [.rw] = M) (hM : M ≠ 0) (hm : Nat.land M m = M) :
    s.writePart cls a a v m skews = (s.setReg a (limited a (mergeBits (s.reg a) v M))).afterWrite a (s.reg a) M skews := by
  have hrec : s.recorded cls a v m = s := by
    have h0 : Nat.land 0 m = 0 := Nat.zero_and m
    rw [recorded, accMask_of_regAt h.at_, hxw, if_pos h0]
  have hg : s.grantedBits cls a m = M := by
    have h0 : Nat.lor M 0 = M := Nat.or_zero M
    rw [grantedBits, accMask_of_regAt h.at_, accMask_of_regAt h.at_, hxw, hrw, ite_self, h0, hm]
  rw [writePart_eq h, hg, if_neg hM, hrec]

/-- Registers of the host port but those of its queues. -/
theorem storedAt_hif {o i : Nat} {r : RegD} (hp : placeOf a = some ⟨.hif, 0, o⟩) (hr : findReg o Blk.hif.regs = some (r, i))
    (ha : 0x800000 ≤ a ∧ a < 0x810000) (hw : r.mask [.w1c] = 0) (hq : vectorOf a = none)
    (hne : a ≠ HIF_SQ_BASE ∧ a ≠ HIF_CQ_BASE ∧ a ≠ HIF_SQ ∧ a ≠ HIF_CQ) : StoredAt a ⟨⟨.hif, 0, o⟩, r, i⟩ := by
  obtain ⟨h1, h2, h3, h4⟩ := hne
  exact { at_ := regAt_of_findReg hp hr, canon := .inr (by omega), noInc := if_neg (by omega), w1c := hw,
          held := fun s => by simp [heldBits, hp, h1, h2, h3, h4], quiet := hq, notSq := h3 }

theorem storedAt_HIF_TMO : StoredAt HIF_TMO ⟨⟨.hif, 0, 0x20⟩, rowAt .hif 0x20, 0⟩ :=
  storedAt_hif (by decide +kernel) (findReg_rowAt (by decide +kernel)) (by decide) (by decide +kernel) (by decide +kernel) (by decide)

theorem storedAt_HIF_BAR2 : StoredAt HIF_BAR2 ⟨⟨.hif, 0, 0x18⟩, rowAt .hif 0x18, 0⟩ :=
  storedAt_hif (by decide +kernel) (findReg_rowAt (by decide +kernel)) (by decide) (by decide +kernel) (by decide +kernel) (by decide)

theorem afterWrite_hif {o : Nat} (hp : placeOf a = some ⟨.hif, 0, o⟩) (ha : a ≠ HIF_CTRL) (x : State) (was : Word) (m : Nat) (skews : List Int) :
    x.afterWrite a was m skews = x := by
  simp [afterWrite, hp, ha]

theorem fget_atLeast_same (w : Word) {f : Fld} {n : Nat} (h : f.lo ≤ f.hi) (h64 : f.hi < 64) (hn : n < 2 ^ f.width) :
    fget (atLeast w f n) f = max n (fget w f) := by
  unfold atLeast
  split
  · rw [fget_fset_same _ _ h h64, Nat.mod_eq_of_lt hn]; omega
  · omega

theorem fget_atLeast_other (w : Word) {f g : Fld} (n : Nat) (h : f.lo ≤ f.hi) (h64 : f.hi < 64) (hg : g.lo ≤ g.hi)
    (hd : g.hi < f.lo ∨ f.hi < g.lo) : fget (atLeast w f n) g = fget w g := by
  unfold atLeast
  split
  · exact fget_fset_other _ _ h h64 hg hd
  · rfl

theorem hifTmoWrite_stores (up : s.hostUp = true) (v : Nat) : ∃ t, exec (.registerWrite HIF_TMO 4 v) s = .next t
    ∧ t.rd HIF_TMO fHIF_TMO_BAR2 = max 100 (v % 2 ^ 32 % 2 ^ 16) ∧ t.rd HIF_TMO fHIF_TMO_DMA = max 1 (v % 2 ^ 32 / 2 ^ 16) := by
  have hp := placeOf_of_regAt storedAt_HIF_TMO.at_
  have e : exec (.registerWrite HIF_TMO 4 v) s = .next (s.barWrite 1 HIF_TMO 4 v []) := rfl
  have hlim : ∀ w, limited HIF_TMO w = atLeast (atLeast w fHIF_TMO_BAR2 100) fHIF_TMO_DMA 1 := fun w => by
    have : HIF_TMO ≠ HIF_BAR2 := by decide
    simp [limited, hp, this]
  rw [barWrite_word up storedAt_HIF_TMO.toPlainAt (absentReg_other hp rfl) (by decide), writePart_writable (M := 2 ^ 32 - 1) storedAt_HIF_TMO
    (by decide +kernel) (by decide +kernel) (by decide) (by decide), afterWrite_hif hp (by decide), hlim] at e
  refine ⟨_, e, ?_, ?_⟩
  · rw [rd, reg_setReg_same, fget_atLeast_other _ _ (by decide) (by decide) (by decide) (by decide),
      fget_atLeast_same _ (by decide) (by decide) (by decide), fget_mergeBits _ _ (by decide) (by decide) (by decide)]
    show max 100 (v % 2 ^ 32 / 2 ^ 0 % 2 ^ 16) = _
    rw [Nat.pow_zero, Nat.div_one]
  · rw [rd, reg_setReg_same, fget_atLeast_same _ (by decide) (by decide) (by decide),
      fget_atLeast_other _ _ (by decide) (by decide) (by decide) (by decide), fget_mergeBits _ _ (by decide) (by decide) (by decide)]
    show max 1 (v % 2 ^ 32 / 2 ^ 16 % 2 ^ 16) = _
    rw [Nat.mod_eq_of_lt (show v % 2 ^ 32 / 2 ^ 16 < 2 ^ 16 by omega)]

theorem hifBar2Write_stores (up : s.hostUp = true) (v : Nat) : ∃ t, exec (.hifBar2Write v) s = .next t
    ∧ t.rd HIF_BAR2 fHIF_BAR2_BASE = min 2559 (v / 2 ^ 32 % 2 ^ 12) ∧ t.rd HIF_BAR2 fHIF_BAR2_HINT = v % 4
    ∧ t.rd HIF_BAR2 fHIF_BAR2_USE = v / 4 % 16 := by
  have hp := placeOf_of_regAt storedAt_HIF_BAR2.at_
  have e : exec (.hifBar2Write v) s = .next (s.barWrite 1 HIF_BAR2 8 v []) := rfl
  have hlim : ∀ w, limited HIF_BAR2 w = atMost w fHIF_BAR2_BASE 2559 := fun w => by simp [limited, hp]
  rw [barWrite_double up storedAt_HIF_BAR2.toPlainAt (absentReg_other hp rfl) (by decide) (show (rowAt .hif 0x18).size = 64 by decide +kernel),
    writePart_writable (M := (2 ^ 12 - 1) * 2 ^ 32 + 63) storedAt_HIF_BAR2 (by decide +kernel) (by decide +kernel) (by decide) (by decide),
    afterWrite_hif hp (by decide), hlim] at e
  refine ⟨_, e, ?_, ?_, ?_⟩
  · rw [rd, reg_setReg_same, fget_atMost_same _ (by decide) (by decide) (by decide), fget_mergeBits _ _ (by decide) (by decide) (by decide)]; rfl
  · rw [rd, reg_setReg_same, fget_atMost_other _ _ (by decide) (by decide) (by decide) (by decide),
      fget_mergeBits _ _ (by decide) (by decide) (by decide)]
    show v / 2 ^ 0 % 2 ^ 2 = _
    omega
  · rw [rd, reg_setReg_same, fget_atMost_other _ _ (by decide) (by decide) (by decide) (by decide),
      fget_mergeBits _ _ (by decide) (by decide) (by decide)]; rfl

/-! Frame errors and increments (17 R507, 09 R277). -/

theorem frameErr_reg (s : State) : s.frameErr.rd HIF_EVENTS fHIF_EVENTS_FRAME_ERR = 1
    ∧ ∀ b, b ≠ HIF_EVENTS → b ≠ HIF_FRAME_ERR → s.frameErr.reg b = s.reg b := by
  unfold frameErr
  exact ⟨rd_raise _ _ rfl (by decide), fun b h1 h2 => by rw [reg_raise_other _ h1, reg_bump_other s h2]⟩

theorem badShape_frameErr (up : s.hostUp = true) {size : Nat} (v : Nat) (shape : barShape a size = false) :
    (∃ t, exec (.registerWrite a size v) s = .next t ∧ t.rd HIF_EVENTS fHIF_EVENTS_FRAME_ERR = 1
        ∧ ∀ b, b ≠ HIF_EVENTS → b ≠ HIF_FRAME_ERR → t.reg b = s.reg b)
      ∧ ∃ t, exec (.registerReadClear a size) s = .next t ∧ t.rd HIF_EVENTS fHIF_EVENTS_FRAME_ERR = 1 ∧ (.pcie 1 []) ∈ t.out := by
  have hw : exec (.registerWrite a size v) s = .next (s.barWrite 1 a size v []) := rfl
  have hr : exec (.registerReadClear a size) s = .next (s.barRead a size) := rfl
  rw [barWrite_badShape up shape] at hw
  rw [barRead_badShape up shape] at hr
  exact ⟨⟨_, hw, frameErr_reg s⟩, ⟨_, hr, by rw [rd, reg_emit, ← rd]; exact (frameErr_reg s).1, by simp [emit]⟩⟩

/-- A write of TS_INC is one increment on its way. -/
theorem barWrite_tsInc (up : s.hostUp = true) (ts v : Nat) :
    s.barWrite 1 (TS_INC (ts % 2 ^ 14)) 4 v [] = s.writeInc 1 (ts % 2 ^ 14) (v % 2 ^ 32) := by
  have ha : TS_INC (ts % 2 ^ 14) = 0x700000 + (16 * (ts % 2 ^ 14) + 12) := by unfold TS_INC; omega
  have hp : placeOf (TS_INC (ts % 2 ^ 14)) = some ⟨.sync, 0, 16 * (ts % 2 ^ 14) + 12⟩ := ha ▸ placeOf_sync (by omega)
  have hinc : tsIncAt (TS_INC (ts % 2 ^ 14)) = some (ts % 2 ^ 14) := by
    unfold tsIncAt
    rw [if_pos (by omega), ha, show (0x700000 + (16 * (ts % 2 ^ 14) + 12) - 0x700000) / 16 = ts % 2 ^ 14 by omega]
  simp only [barWrite, up, barShape_of (.inl rfl) (show TS_INC (ts % 2 ^ 14) % 4 = 0 by omega) (by omega), writeReg, write32,
    canonReg_self (a := TS_INC (ts % 2 ^ 14)) (.inr (by omega)), absentReg_other hp rfl, hinc]
  rfl

theorem tsInc_sends (up : s.hostUp = true) (ts v : Nat) :
    (s.holds 1 12 = true → exec (.tsInc ts v) s = .next { s with incs := s.incs ++ [⟨ts % 2 ^ 14, v % 2 ^ 24, v / 2 ^ 24 % 256, s.node⟩] })
      ∧ (s.holds 1 12 = false → ∃ t, exec (.tsInc ts v) s = .next t ∧ t.incs = s.incs
        ∧ t.rd PKG_PERM_DENY fPKG_PERM_DENY_COUNT = min (2 ^ fPKG_PERM_DENY_COUNT.width - 1) (s.rd PKG_PERM_DENY fPKG_PERM_DENY_COUNT + 1)) := by
  have e : exec (.tsInc ts v) s = .next (s.barWrite 1 (TS_INC (ts % 2 ^ 14)) 4 v []) := rfl
  rw [barWrite_tsInc up, writeInc] at e
  constructor
  · intro h
    rw [if_pos h] at e
    rw [e, hostInc, Nat.mod_mod, show v % 2 ^ 32 % 2 ^ 24 = v % 2 ^ 24 by omega, show v % 2 ^ 32 / 2 ^ 24 % 256 = v / 2 ^ 24 % 256 by omega]
  · intro h
    rw [h, if_neg (by decide)] at e
    exact ⟨_, e, bump_incs _ _ _ _, rd_bump_same _ _ _ (by decide) (by decide)⟩

/-! Reads (00 R11, R13, 08 R239). -/

/-- An 8-byte read of a 64-bit register that shows its stored word. -/
theorem barRead_double {r : RegAt} (up : s.hostUp = true) (h : regAt a = some r) (hcanon : a < 0x600000 ∨ 0x700000 ≤ a)
    (here : s.absentReg a = false) (shape : barShape a 8 = true) (size : r.reg.size = 64) (hfresh : s.freshen a = s)
    (hview : s.view a = (s.reg a).toNat) :
    s.barRead a 8 = (s.clearBits a (fieldsIn a 63 0 [.rc])).emit (.value a (s.reg a).toNat) := by
  have hlt : (s.reg a).toNat % 2 ^ (63 + 1) / 2 ^ 0 = (s.reg a).toNat := by
    rw [Nat.mod_eq_of_lt (s.reg a).isLt, Nat.pow_zero, Nat.div_one]
  simp only [barRead, up, shape, readReg, canonReg_self hcanon, here, h, size, readPart, hfresh, hview, hlt]
  rfl

/-- A read of a count answers it and leaves it 0. -/
theorem barRead_clears {r : RegAt} (up : s.hostUp = true) (h : regAt a = some r) (hcanon : a < 0x600000 ∨ 0x700000 ≤ a)
    (here : s.absentReg a = false) (shape : barShape a 8 = true) (size : r.reg.size = 64) (hfresh : s.freshen a = s)
    (hview : s.view a = (s.reg a).toNat) (hrc : fieldsIn a 63 0 [.rc] = 2 ^ 64 - 1) :
    ∃ t, exec (.registerReadClear a 8) s = .next t ∧ t.out = s.out ++ [.value a (s.reg a).toNat]
        ∧ t.reg a = 0 ∧ (∀ b, b ≠ a → t.reg b = s.reg b) ∧ t.mem = s.mem ∧ t.cores = s.cores := by
  have e : exec (.registerReadClear a 8) s = .next (s.barRead a 8) := rfl
  rw [barRead_double up h hcanon here shape size hfresh hview, hrc, clearBits] at e
  refine ⟨_, e, rfl, ?_, fun b hb => ?_, rfl, rfl⟩
  · have hz : ~~~BitVec.ofNat 64 (2 ^ 64 - 1) = 0#64 := by decide
    rw [reg_emit, reg_setReg_same, hz, BitVec.and_zero]; rfl
  · rw [reg_emit, reg_setReg_other _ hb]

theorem freshen_other {p : Place} (hp : placeOf a = some p) (hb : p.blk ≠ .core) (hz : ((List.range 12).find? fun z => a = TIME_ZCYC z) = none) :
    s.freshen a = s := by
  simp only [freshen, hp, hb, hz]; rfl

theorem readClear_counts (up : s.hostUp = true) (ha : a ∈ [PKG_PERM_DENY, TS_STALE, TIME_LATE]) :
    ∃ t, exec (.registerReadClear a 8) s = .next t ∧ t.out = s.out ++ [.value a (s.reg a).toNat]
        ∧ t.reg a = 0 ∧ (∀ b, b ≠ a → t.reg b = s.reg b) ∧ t.mem = s.mem ∧ t.cores = s.cores := by
  simp only [List.mem_cons, List.not_mem_nil, or_false] at ha
  rcases ha with rfl | rfl | rfl
  · have hp : placeOf PKG_PERM_DENY = some ⟨.pkg, 0, 0x140⟩ := by decide +kernel
    exact barRead_clears up (regAt_of_findReg hp (findReg_rowAt (by decide +kernel))) (by decide) (absentReg_other hp rfl) (by decide)
      (show (rowAt .pkg 0x140).size = 64 by decide +kernel) (freshen_other hp nofun (by decide +kernel)) (by simp [view, hp]) (by decide +kernel)
  · have hp : placeOf TS_STALE = some ⟨.sync, 0, 0x40000⟩ := by decide +kernel
    have hne : TS_STALE ≠ DIR_INFL := by decide
    exact barRead_clears up (regAt_of_findReg hp (findReg_rowAt (by decide +kernel))) (by decide) (absentReg_other hp rfl) (by decide)
      (show (rowAt .sync 0x40000).size = 64 by decide +kernel) (freshen_other hp nofun (by decide +kernel)) (by simp [view, hp, hne])
      (by decide +kernel)
  · have hp : placeOf TIME_LATE = some ⟨.time, 0, 0x98⟩ := by decide +kernel
    exact barRead_clears up (regAt_of_findReg hp (findReg_rowAt (by decide +kernel))) (by decide) (absentReg_other hp rfl) (by decide)
      (show (rowAt .time 0x98).size = 64 by decide +kernel) (freshen_other hp nofun (by decide +kernel)) (by simp [view, hp]) (by decide +kernel)

/-! The beat (08 R239): all of it at once, or its low half with the high half latched. -/

theorem placeOf_TIME_BEAT : placeOf TIME_BEAT = some ⟨.time, 0, 0x10⟩ := by decide +kernel

theorem regAt_TIME_BEAT : regAt TIME_BEAT = some ⟨⟨.time, 0, 0x10⟩, rowAt .time 0x10, 0⟩ :=
  regAt_of_findReg placeOf_TIME_BEAT (findReg_rowAt (by decide +kernel))

theorem freshen_TIME_BEAT (s : State) : s.freshen TIME_BEAT = s := freshen_other placeOf_TIME_BEAT nofun (by decide +kernel)

theorem view_TIME_BEAT (s : State) : s.view TIME_BEAT = s.beat := by
  have hbeat : s.beat = (s.reg TIME_BEAT).toNat := by
    show (s.reg TIME_BEAT).toNat / 2 ^ 0 % 2 ^ 64 = _
    rw [Nat.pow_zero, Nat.div_one, Nat.mod_eq_of_lt (s.reg TIME_BEAT).isLt]
  rw [hbeat]; simp [view, placeOf_TIME_BEAT]

theorem clearBits_emit_out (s : State) (a m : Nat) (o : Out) : ((s.clearBits a m).emit o).out = s.out ++ [o] := rfl

theorem clearBits_zero_reg (s : State) (a b : Nat) : (s.clearBits a 0).reg b = s.reg b := by
  rw [clearBits, reg_setReg, BitVec.not_zero, BitVec.and_allOnes]
  split
  · next h => rw [h]
  · rfl

theorem timeBeatRead_double (up : s.hostUp = true) :
    ∃ t, exec (.timeBeatRead 8) s = .next t ∧ t.out = s.out ++ [.value TIME_BEAT s.beat] ∧ ∀ b, t.reg b = s.reg b := by
  have hw := view_TIME_BEAT s
  have hv : s.view TIME_BEAT = (s.reg TIME_BEAT).toNat := by simp [view, placeOf_TIME_BEAT]
  have hz : fieldsIn TIME_BEAT 63 0 [.rc] = 0 := by decide +kernel
  have e : exec (.timeBeatRead 8) s = .next (s.barRead TIME_BEAT 8) := rfl
  rw [barRead_double up regAt_TIME_BEAT (.inl (by decide)) (absentReg_other placeOf_TIME_BEAT rfl) (by decide)
    (show (rowAt .time 0x10).size = 64 by decide +kernel) (freshen_TIME_BEAT s) hv, hz, ← hv, hw] at e
  exact ⟨_, e, clearBits_emit_out _ _ _ _, fun b => by rw [reg_emit, clearBits_zero_reg]⟩

/-- A 4-byte read of the beat answers its low half and latches the high one. -/
theorem barRead_TIME_BEAT_word (up : s.hostUp = true) : s.barRead TIME_BEAT 4 =
    ((s.wr TIME_BEAT_HIL fTIME_BEAT_HIL_HI (s.beat / 2 ^ 32)).clearBits TIME_BEAT 0).emit (.value TIME_BEAT (s.beat % 2 ^ 32)) := by
  have hz : fieldsIn TIME_BEAT 31 0 [.rc] = 0 := by decide +kernel
  have hsize : (rowAt .time 0x10).size ≠ 0 := by decide +kernel
  have hbeat : (s.wr TIME_BEAT_HIL fTIME_BEAT_HIL_HI (s.beat / 2 ^ 32)).beat = s.beat := rd_wr_other _ (by decide) _ _ _
  have hlow : (decide (0x80000 ≤ TIME_BEAT) && decide (TIME_BEAT < 0x100000)) = false := by decide
  have hread : s.readReg TIME_BEAT 4 =
      ((s.wr TIME_BEAT_HIL fTIME_BEAT_HIL_HI (s.beat / 2 ^ 32)).clearBits TIME_BEAT 0, s.beat % 2 ^ 32) := by
    rw [readReg, if_pos rfl, read32]
    simp only [canonReg_self (a := TIME_BEAT) (.inl (by decide)), absentReg_other placeOf_TIME_BEAT rfl, hlow, regAt_TIME_BEAT, Bool.false_eq_true,
      if_false, if_true, if_neg hsize, readPart, freshen_TIME_BEAT, hz, view_TIME_BEAT, hbeat, Nat.pow_zero, Nat.div_one]
  rw [barRead, up, show barShape TIME_BEAT 4 = true by decide, hread]
  simp only [Bool.not_true, Bool.false_eq_true, if_false, if_true]

theorem timeBeatRead_word (up : s.hostUp = true) :
    ∃ t, exec (.timeBeatRead 4) s = .next t ∧ t.out = s.out ++ [.value TIME_BEAT (s.beat % 2 ^ 32)]
        ∧ t.rd TIME_BEAT_HIL fTIME_BEAT_HIL_HI = s.beat / 2 ^ 32 := by
  have hlt : s.beat < 2 ^ 64 := fget_lt _ _
  have e : exec (.timeBeatRead 4) s = .next (s.barRead TIME_BEAT 4) := rfl
  rw [barRead_TIME_BEAT_word up] at e
  refine ⟨_, e, by rw [clearBits_emit_out, wr_out], ?_⟩
  rw [rd, reg_emit, clearBits_zero_reg, ← rd, rd_wr_same _ _ _ (by decide) (by decide)]
  show s.beat / 2 ^ 32 % 2 ^ 32 = _
  omega

end State

end Sys2Proof.Machine
end

section
namespace Sys2Proof.Machine

namespace State

variable {s : State} {a b n M : Nat} {r : RegAt} {skews : List Int} {i : Instr}

/-! The same registers without expert level (16 R489). -/

/-- The instruction `i` is a write of the register `a` that is refused and counted. -/
def Denied (s : State) (i : Instr) (a : Nat) : Prop := ∃ t, exec i s = .next t ∧ XwDenied s t a

theorem denied_word (up : s.hostUp = true) (no : s.holds 1 11 = false) (h : ExpertAt a r M) (here : s.absentReg a = false) {v : Nat}
    (e : exec i s = .next (s.barWrite 1 a 4 v skews)) (ha : a % 4 = 0) (hlt : a < 2 ^ 26) (hM : Nat.land M (2 ^ 32 - 1) = M) : Denied s i a :=
  ⟨_, e, barWrite_denied_word up no h here (barShape_of (.inl rfl) ha hlt) hM⟩

theorem denied_double (up : s.hostUp = true) (no : s.holds 1 11 = false) (h : ExpertAt a r M) (here : s.absentReg a = false) {v : Nat}
    (e : exec i s = .next (s.barWrite 1 a 8 v skews)) (size : r.reg.size = 64) (ha : a % 8 = 0) (hlt : a < 2 ^ 26)
    (hM : Nat.land M (2 ^ 64 - 1) = M) : Denied s i a :=
  ⟨_, e, barWrite_denied_double up no h here (barShape_of (.inr rfl) ha hlt) size hM⟩

theorem tsCountWrite_denied (up : s.hostUp = true) (no : s.holds 1 11 = false) (ts v : Nat) :
    Denied s (.tsCountWrite ts v) (TS_COUNT (ts % 2 ^ 14)) := by
  have hts : ts % 2 ^ 14 < 16384 := Nat.mod_lt _ (by decide)
  have h := expertAt_TS_COUNT hts
  exact denied_word up no h (absentReg_other (placeOf_of_regAt h.at_) rfl) rfl (by unfold TS_COUNT; omega) (by unfold TS_COUNT; omega) (by decide)

theorem tsTargetWrite_denied (up : s.hostUp = true) (no : s.holds 1 11 = false) (ts v : Nat) :
    Denied s (.tsTargetWrite ts v) (TS_TARGET (ts % 2 ^ 14)) := by
  have hts : ts % 2 ^ 14 < 16384 := Nat.mod_lt _ (by decide)
  have h := expertAt_TS_TARGET hts
  exact denied_word up no h (absentReg_other (placeOf_of_regAt h.at_) rfl) rfl (by unfold TS_TARGET; omega) (by unfold TS_TARGET; omega)
    (by decide)

theorem veSlotCfgWrite_denied (up : s.hostUp = true) (no : s.holds 1 11 = false) (on_ : s.coreOn b = true) (hb : b < 288) (hn : n < 32) (v : Nat) :
    Denied s (.veSlotCfgWrite b n v) (VE_SLOT_CFG b n) := by
  have h := expertAt_VE_SLOT_CFG hb hn
  exact denied_double up no h (absentReg_core (placeOf_of_regAt h.at_) on_) (exec_veSlotCfgWrite hb hn v) (show (rowAt .core 0x4100).size = 64 by decide +kernel)
    (by unfold VE_SLOT_CFG; omega) (by unfold VE_SLOT_CFG; omega) (by decide)

theorem veSlotContentWrite_denied (up : s.hostUp = true) (no : s.holds 1 11 = false) (on_ : s.coreOn b = true) (hb : b < 288) (hn : n < 32)
    (v : Nat) : Denied s (.veSlotContentWrite b n 0 v) (VE_SLOT_C b (4 * n)) := by
  have h := expertAt_VE_SLOT_C hb (show 4 * n < 128 by omega)
  exact denied_word up no h (absentReg_core (placeOf_of_regAt h.at_) on_) (exec_veSlotContentWrite hb hn (by decide) v)
    (by unfold VE_SLOT_C; omega) (by unfold VE_SLOT_C; omega) (by decide)

theorem raticksWrite_denied (up : s.hostUp = true) (no : s.holds 1 11 = false) (on_ : s.coreOn b = true) (hb : b < 288) (v : Nat) :
    Denied s (.raticksWrite b v) (DM_CTRL b) := by
  have h := expertAt_DM_CTRL hb
  exact denied_word up no h (absentReg_core (placeOf_of_regAt h.at_) on_) (exec_raticksWrite hb v) (by unfold DM_CTRL; omega) (by unfold DM_CTRL; omega) (by decide)

theorem udRuleCfgWrite_denied {d : Nat} (up : s.hostUp = true) (no : s.holds 1 11 = false) (hd : d < 2) (hn : n < 4) (v : Nat) :
    Denied s (.udRuleCfgWrite d n v) (UD_RULE_CFG d n) := by
  have h := expertAt_UD_RULE_CFG hd hn
  exact denied_double up no h (absentReg_other (placeOf_of_regAt h.at_) rfl) (exec_udRuleCfgWrite hd hn v) (show (rowAt .ud 0x900).size = 64 by decide +kernel)
    (by unfold UD_RULE_CFG; omega) (by unfold UD_RULE_CFG; omega) (by decide)

theorem udRecbaseFirstWrite_denied {d : Nat} (up : s.hostUp = true) (no : s.holds 1 11 = false) (hd : d < 2) (v : Nat) :
    Denied s (.udRecbaseFirstWrite d v) (UD_RECBASE d) := by
  have h := expertAt_UD_RECBASE hd
  exact denied_double up no h (absentReg_other (placeOf_of_regAt h.at_) rfl) (exec_udRecbaseFirstWrite hd v) (show (rowAt .ud 0x30).size = 64 by decide +kernel)
    (by unfold UD_RECBASE; omega) (by unfold UD_RECBASE; omega) (by decide)

theorem memCtrlCenWrite_denied (up : s.hostUp = true) (no : s.holds 1 11 = false) (hn : n < 10)
    (site : s.rd PKG_CONFIG fPKG_CONFIG_STACKMAP / 2 ^ n % 2 = 1) (v : Nat) : Denied s (.memCtrlCenWrite n v) (MEM_CTRL n) := by
  have h := expertAt_MEM_CTRL hn
  exact denied_word up no h (absentReg_mem (placeOf_of_regAt h.at_) site) (exec_memCtrlCenWrite hn v) (by unfold MEM_CTRL; omega) (by unfold MEM_CTRL; omega) (by decide)

theorem dirCtrlEnWrite_denied (up : s.hostUp = true) (no : s.holds 1 11 = false) (v : Nat) : Denied s (.dirCtrlEnWrite v) DIR_CTRL :=
  denied_word up no expertAt_DIR_CTRL (absentReg_other (placeOf_of_regAt expertAt_DIR_CTRL.at_) rfl) rfl (by decide) (by decide) (by decide)

theorem timeCtrlAlignWrite_denied (up : s.hostUp = true) (no : s.holds 1 11 = false) (v : Nat) (skews : List Int) :
    Denied s (.timeCtrlAlignWrite v skews) TIME_CTRL :=
  denied_word up no expertAt_TIME_CTRL (absentReg_other (placeOf_of_regAt expertAt_TIME_CTRL.at_) rfl) rfl (by decide) (by decide) (by decide)

end State

open State in
/-- Settles O56, register by register: each clause is the lemma about its instruction. -/
theorem registerAccessesFollowTheirCodes : Obligations.RegisterAccessesFollowTheirCodes := by
  intro s up low expert counted site
  refine ⟨fun a v ha => eventWrite_clears up v ha, hifTmoWrite_stores up, hifBar2Write_stores up, fun a size v => badShape_frameErr up v,
    tsInc_sends up, fun ok ts v => ⟨tsCountWrite_stores up ok ts v, tsTargetWrite_stores up ok ts v⟩, ?slots, ?update, ?cache, ?sync, ?denied,
    timeBeatRead_double up, timeBeatRead_word up, fun a => readClear_counts up⟩
  case slots =>
    intro ok b n v hb hn on_
    exact ⟨fun k hk => veSlotContentWrite_stores up ok on_ hb hn hk v, veSlotCfgWrite_stores up ok on_ hb hn v, raticksWrite_stores up ok on_ hb v⟩
  case update =>
    intro ok d v hd
    exact ⟨fun n hn => udRuleCfgWrite_stores up ok hd hn v, udRecbaseFirstWrite_stores up ok hd v⟩
  case cache => exact fun ok x v hx hsite => memCtrlCenWrite_stores up ok hx (of_decide_eq_true hsite) v
  case sync => exact fun ok v skews => ⟨dirCtrlEnWrite_stores up ok v, timeCtrlAlignWrite_stores up ok v skews⟩
  case denied =>
    intro no d v ts b n x skews hd hb hn hx on_ hsite
    show ∀ r ∈ (_ : List (Instr × Nat)), Denied s r.1 r.2
    simp only [List.forall_mem_cons, List.not_mem_nil, false_imp_iff, implies_true, and_true]
    exact ⟨tsCountWrite_denied up no ts v, tsTargetWrite_denied up no ts v, veSlotCfgWrite_denied up no on_ hb hn v,
      veSlotContentWrite_denied up no on_ hb hn v, udRuleCfgWrite_denied up no hd (by decide) v, raticksWrite_denied up no on_ hb v,
      dirCtrlEnWrite_denied up no v, memCtrlCenWrite_denied up no hx (of_decide_eq_true hsite) v,
      timeCtrlAlignWrite_denied up no v skews, udRecbaseFirstWrite_denied up no hd v⟩

end Sys2Proof.Machine
end

section
namespace Sys2Proof.Machine

namespace State

/-! What an accepted command leaves when it executes, by what its body answers (16 R486, R493, 17 R515). -/

theorem fits_nil (c : Cmd) : Fits c [] := fun _ h => absurd h (by decide)

theorem fits_singleton (c : Cmd) (w : Nat) : Fits c [w] := fun _ h => absurd h (by simp)

variable {s t : State} {seq code : Nat} {c : Cmd} {i : Instr} {body : List Nat → State → State × Ans} {resp : List Nat}

theorem command_of_executes (h : s.Executes seq code c) : s.command code (.taken seq) body = s.runCmd c body := by
  simp only [command, h.found, h.runs, if_true]

theorem runCmd_done (first : s.heldBack c = false) (fits : Fits c resp) (hb : body c.args s = (t, .done 0 resp)) :
    s.runCmd c body = t.answer c resp := by
  have short : (c.cls = 1 && decide (1 < resp.length) && decide (c.rlen < 8 * resp.length)) = false := by
    rw [← Bool.not_eq_true, Bool.and_eq_true, Bool.and_eq_true, decide_eq_true_eq, decide_eq_true_eq, decide_eq_true_eq]
    rintro ⟨⟨host, two⟩, long⟩
    exact absurd (fits host two) (Nat.not_le.2 long)
  simp only [runCmd, first, hb, short, Bool.false_eq_true, if_false]
  rfl

theorem runCmd_refused {st : Nat} (first : s.heldBack c = false) (hb : body c.args s = (t, .refused st)) :
    s.runCmd c body = t.finishCmd c ocRefused st 0 [] := by
  simp only [runCmd, first, hb, Bool.false_eq_true, if_false]

theorem runCmd_waits (first : s.heldBack c = false) (hb : body c.args s = (t, .waits)) : s.runCmd c body = t := by
  simp only [runCmd, first, hb, Bool.false_eq_true, if_false]

/-- A command whose body answers a response that fits is DONE. -/
theorem exec_response (hx : exec i s = .next (s.command code (.taken seq) body)) (fits : Fits c resp) (hb : body c.args s = (t, .done 0 resp))
    (h : s.Executes seq code c) : exec i s = .next (t.answer c resp) := by
  rw [hx, command_of_executes h, runCmd_done h.first fits hb]

/-- A command whose body answers no response is DONE. -/
theorem exec_done (hx : exec i s = .next (s.command code (.taken seq) body)) (hb : body c.args s = (t, .done 0 []))
    (h : s.Executes seq code c) : exec i s = .next (t.answer c []) := exec_response hx (fits_nil c) hb h

theorem exec_refused {st : Nat} (hx : exec i s = .next (s.command code (.taken seq) body)) (hb : body c.args s = (t, .refused st))
    (h : s.Executes seq code c) : exec i s = .next (t.finishCmd c ocRefused st 0 []) := by
  rw [hx, command_of_executes h, runCmd_refused h.first hb]

/-- A command whose body goes on executing leaves the body's state. -/
theorem exec_waits (hx : exec i s = .next (s.command code (.taken seq) body)) (hb : body c.args s = (t, .waits))
    (h : s.Executes seq code c) : exec i s = .next t := by
  rw [hx, command_of_executes h, runCmd_waits h.first hb]

end State

end Sys2Proof.Machine
end

section
namespace Sys2Proof.Machine

namespace State

/-! The bodies of the commands on streams, formats, sites, dies, the fabric, power and the package, under the conditions of their rules. -/

variable {s : State} {a : List Nat}

theorem sqStart_done (en : ∀ b ∈ (maskCores a).filter s.coreOn, s.on (SQ_CTRL b) fSQ_CTRL_EN = true) :
    sqStart a s = (((maskCores a).filter s.coreOn).foldl (fun s b => (maskStreams a).foldl (fun s i => s.startStream b i (startPc a i)) s) s,
      .done 0 []) := by
  have noneOff : (((maskCores a).filter s.coreOn).any fun b => !s.on (SQ_CTRL b) fSQ_CTRL_EN) = false :=
    List.any_eq_false.2 fun b hb => by simp [en b hb]
  simp only [sqStart, noneOff, Bool.false_eq_true, if_false]

/-- A layer and a kind that the format table has. -/
theorem gfmtNamed {l kind : Nat} (hl : l < s.sched.glayers) (hk : kind < 2) : ¬(s.sched.glayers ≤ l || 2 ≤ kind) = true := by
  simp only [Bool.or_eq_true, decide_eq_true_eq]; omega

theorem gfmtPin_done (hl : a.getD 0 0 < s.sched.glayers) (hk : a.getD 1 0 < 2) (hf : a.getD 2 0 = 1 ∨ a.getD 2 0 = 3 ∨ a.getD 2 0 = 4)
    (allowed : gfAllow (s.gfEntry (a.getD 0 0)) (a.getD 1 0) / 2 ^ gfRank (a.getD 2 0) % 2 = 1) :
    let x := s.gfPut (a.getD 0 0) (nput (entWord (s.gfEntry (a.getD 0 0)) 0) (6 + a.getD 1 0) (6 + a.getD 1 0) 1 :: (s.gfEntry (a.getD 0 0)).drop 1)
    gfmtPin a s = ({ x with sched := { x.sched with
      pend := (x.sched.pend.filter fun p => !(p.1 = a.getD 0 0 && p.2.1 = a.getD 1 0)) ++ [(a.getD 0 0, a.getD 1 0, a.getD 2 0)] } }, .done 0 []) := by
  have held : ¬(!(a.getD 2 0 = 1 || a.getD 2 0 = 3 || a.getD 2 0 = 4)
      || gfAllow (s.gfEntry (a.getD 0 0)) (a.getD 1 0) / 2 ^ gfRank (a.getD 2 0) % 2 = 0) = true := by
    simp only [Bool.or_eq_true, Bool.not_eq_true', Bool.or_eq_false_iff, decide_eq_true_eq, decide_eq_false_iff_not]; omega
  simp only [gfmtPin, if_neg (gfmtNamed hl hk), if_neg held]

theorem gfmtRelease_done (hl : a.getD 0 0 < s.sched.glayers) (hk : a.getD 1 0 < 2) :
    gfmtRelease a s = (s.gfPut (a.getD 0 0)
      (nput (entWord (s.gfEntry (a.getD 0 0)) 0) (6 + a.getD 1 0) (6 + a.getD 1 0) 0 :: (s.gfEntry (a.getD 0 0)).drop 1), .done 0 []) := by
  simp only [gfmtRelease, if_neg (gfmtNamed hl hk)]

theorem memFence_done (here : s.siteHere (a.headD 0) = true) (hc : a.getD 1 0 < 32)
    (live : s.rd (MEM_CH_LIVE (a.headD 0)) fMEM_CH_LIVE_MAP / 2 ^ a.getD 1 0 % 2 = 1) :
    memFence a s = (s.fenceSite (a.headD 0) (a.getD 1 0) 4, .done 0 []) := by
  have channel : ¬(32 ≤ a.getD 1 0 || s.rd (MEM_CH_LIVE (a.headD 0)) fMEM_CH_LIVE_MAP / 2 ^ a.getD 1 0 % 2 = 0) = true := by
    simp only [Bool.or_eq_true, decide_eq_true_eq]; omega
  simp only [memFence, here, if_neg channel, Bool.not_true, Bool.false_eq_true, if_false]

theorem memCompact_done (here : s.siteHere (a.headD 0) = true) (idle : s.on (MEM_STATUS (a.headD 0)) fMEM_STATUS_COMPACTING = false) :
    memCompact a s = (s.compactStart (a.headD 0), .done 0 []) := by
  simp only [memCompact, here, idle, Bool.not_true, Bool.false_eq_true, if_false]

theorem ptFence_done (hd : a.headD 0 < 2) (hc : a.getD 1 0 < 4) (live : s.rd (PT_CH_INFO (a.headD 0) (a.getD 1 0)) fPT_CH_INFO_STATE = 0)
    (range : s.dieRange (a.headD 0) ≠ 0) : ptFence a s = (s.fenceDie (a.headD 0) (a.getD 1 0) 4, .done 0 []) := by
  have channel : ¬(4 ≤ a.getD 1 0 || s.rd (PT_CH_INFO (a.headD 0) (a.getD 1 0)) fPT_CH_INFO_STATE ≠ 0 || s.dieRange (a.headD 0) = 0) = true := by
    simp only [Bool.or_eq_true, decide_eq_true_eq]; omega
  simp only [ptFence, if_neg (Nat.not_le.2 hd), if_neg channel]

theorem ptCompact_done (hd : a.headD 0 < 2) (idle : s.on (PT_STATUS (a.headD 0)) fPT_STATUS_COMPACTING = false)
    (still : s.on (UD_STATUS (a.headD 0)) fUD_STATUS_WALKING = false) (free : s.on (UD_STATUS (a.headD 0)) fUD_STATUS_HOLDING = false) :
    ptCompact a s = (s.dieCompactStart (a.headD 0), .done 0 []) := by
  simp only [ptCompact, if_neg (Nat.not_le.2 hd), idle, still, free, Bool.or_self, Bool.false_eq_true, if_false]

theorem fabJoin_done (out : s.enrolled = 0) : fabJoin a s = (s.setEnrol 1, .done 0 []) := if_pos out

theorem fabLeave_done (enrolled : s.enrolled = 2 ∨ s.enrolled = 3) : fabLeave a s = ((s.toRm 0x37 [0]).setEnrol 4, .done 0 []) :=
  if_pos (by simpa using enrolled)

theorem pwrResume_done (stopped : s.rd PWR_STATUS fPWR_STATUS_STATE = 3) :
    pwrResume a s = (s.modPwr fun p => { p with resume := true }, .done 0 []) := if_neg fun no => no stopped

/-- The release of a job's accumulator answers its millijoules. -/
theorem pwrEnergyRelease_done {n : Nat} (h0 : a.getD 0 0 ≠ 0) (hF : a.getD 0 0 ≠ 0xFFFF) (slot : s.tagSlot (a.getD 0 0) = some n) :
    pwrEnergyRelease a s = (((s.setReg (PWR_ETAG_ID n) 0).setReg (PWR_ETAG_MJ n) 0).modPwr fun p => { p with micro := sput 0 n 0 p.micro },
      .done 0 [s.rd (PWR_ETAG_MJ n) fPWR_ETAG_MJ_MJ]) := by
  have job : ¬(a.getD 0 0 = 0 || a.getD 0 0 = 0xFFFF) = true := by simp only [Bool.or_eq_true, decide_eq_true_eq]; omega
  simp only [pwrEnergyRelease, if_neg job, slot]

theorem schedUnload_done (idle : s.anyRun = false) : schedUnload a s = (s.unloadImage, .done 0 []) := by
  simp only [schedUnload, idle, Bool.false_eq_true, if_false]

theorem schedLoad_done {m : SchedImage} (idle : s.anyRun = false) (good : firstBad (imageChecks (s.placeImage m) m) = none) :
    schedLoad (some m) a s = ((s.placeImage m).takeImage m, .done 0 []) := by
  simp only [schedLoad, loadImage, idle, good, Bool.false_eq_true, if_false]

theorem jnlSpill_off (h0 : a.getD 1 0 = 0) : jnlSpill a s = (s.wr JNL_CTRL fJNL_CTRL_SPILL 0, .done 0 []) := if_pos h0

theorem jnlSpill_on (lo : 10 ≤ a.getD 1 0) (hi : a.getD 1 0 ≤ 20) (bme : s.on HIF_STATUS fHIF_STATUS_BME = true) :
    jnlSpill a s = (((s.wr JNL_SPILL_BASE fJNL_SPILL_BASE_ADDR (a.getD 0 0)).wr JNL_CTRL fJNL_CTRL_LOG2N (a.getD 1 0)).wr JNL_CTRL fJNL_CTRL_SPILL 1,
      .done 0 []) := by
  have some_ : ¬a.getD 1 0 = 0 := by omega
  have size : ¬(a.getD 1 0 < 10 || 20 < a.getD 1 0) = true := by simp only [Bool.or_eq_true, decide_eq_true_eq]; omega
  have master : ¬(!s.busMaster) = true := by simp [busMaster, bme]
  simp only [jnlSpill, if_neg some_, if_neg size, if_neg master]

theorem dbgUnlock_done {cls : Nat} (host : cls = 1) :
    dbgUnlock cls a s = ((s.wr PKG_LOCK fPKG_LOCK_DBG_LOCKED 0).raise PKG_EVENTS fPKG_EVENTS_DBG_UNLOCKED, .done 0 []) := if_neg fun no => no host

/-! FLASH_WRITE (16 R475) and RETURN_CAPTURE (16 R501): no other command holds the flash. -/

theorem flashFree {seq : Nat} (free : s.pkg.flashBy = none) : (s.pkg.flashBy.any fun q => q ≠ seq) = false := by rw [free]; rfl

theorem flashWrite_erases {seq : Nat} {image : List Nat} (free : s.pkg.flashBy = none) (bme : s.on HIF_STATUS fHIF_STATUS_BME = true) :
    flashWrite seq image true a s = ((s.putSlot .erased).modPkg fun p => { p with flashBy := some seq }, .waits) := by
  simp only [flashWrite, flashFree free, busMaster, bme, Bool.not_true, Bool.false_eq_true, if_false, if_true]

/-- An image whose header and contents pass the checks of 16 R473 and that is newer than the one running is written. -/
theorem flashWrite_done {seq : Nat} {image : List Nat} {i : BootImage} (free : s.pkg.flashBy = none) (bme : s.on HIF_STATUS fHIF_STATUS_BME = true)
    (running : s.pkg.image = some i) (room : (image.take (a.getD 1 0)).length ≤ slotSize)
    (header : headerCode (image.take (a.getD 1 0)) s.pkg.fuse.part = 0) (content : contentCode (image.take (a.getD 1 0)) s.pkg.fuse.key = 0)
    (newer : i.seq < imgNum (image.take (a.getD 1 0)) 8 8) :
    flashWrite seq image false a s =
      (((s.putSlot .erased).modPkg fun p => { p with flashBy := none }).putSlot (.bytes (image.take (a.getD 1 0))), .done 0 []) := by
  have kept : ∀ x : FlashSlot, ((s.putSlot x).modPkg fun p => { p with flashBy := none }).pkg.fuse = s.pkg.fuse
      ∧ ((s.putSlot x).modPkg fun p => { p with flashBy := none }).pkg.image = s.pkg.image := fun _ => ⟨rfl, rfl⟩
  simp only [flashWrite, flashFree free, busMaster, bme, (kept _).1, (kept _).2, running, room, header, content, newer, decide_true,
    Bool.and_self, Bool.not_true, Bool.false_eq_true, if_false, if_true]

/-- Address 0 asks for no access to host memory. -/
theorem namesNone (a0 : a.getD 0 0 = 0) : ¬(decide (a.getD 0 0 ≠ 0) && !s.busMaster) = true := by
  rw [a0]; exact Bool.false_ne_true

theorem returnCapture_begins {seq : Nat} (free : s.pkg.flashBy = none) (a0 : a.getD 0 0 = 0) :
    returnCapture seq true a s = (s.modPkg fun p => { p with flashBy := some seq, flash := { p.flash with captured := false, capture := [] } },
      .waits) := by
  simp only [returnCapture, flashFree free, Bool.false_eq_true, if_false, if_true, if_neg (namesNone a0)]
  rfl

/-- The capture record is of the package as the command has cleared the old one. -/
theorem returnCapture_done {seq : Nat} (free : s.pkg.flashBy = none) (a0 : a.getD 0 0 = 0) :
    let rec_ := (s.modPkg fun p => { p with flash := { p.flash with captured := false, capture := [] } }).captureRecord
    returnCapture seq false a s = (((s.modPkg fun p => { p with flashBy := none, flash := { p.flash with captured := true, capture := rec_ } }).wr
      PKG_LOCK fPKG_LOCK_CAPTURED 1).raise PKG_EVENTS fPKG_EVENTS_CAPTURE_DONE, .done 0 []) := by
  simp only [returnCapture, flashFree free, Bool.false_eq_true, if_false, if_neg (namesNone a0), if_pos a0]
  rfl

end State

end Sys2Proof.Machine
end

section
namespace Sys2Proof.Machine

namespace State

/-! Commands of the Ringmaster (14 R429): executed by it, forwarded by every other Working package. -/

variable {s : State} {seq code : Nat} {a : List Nat} {reply : Option (Nat × Nat × List Nat)} {f : List Nat → State → State × Ans}

/-- A command is no longer among those forwarded. -/
def unforwarded (s : State) (seq : Nat) : State := s.modPkg fun p => { p with fwd := p.fwd.filter (· ≠ seq) }

theorem rmCommand_master {t : State} {r : Ans} (m : s.rm.master = true) (quorate : s.rm.suspended = false) (hf : f a (s.unforwarded seq) = (t, r)) :
    rmCommand code seq reply f a s = (s.rmSettle t, r) := by
  simp only [rmCommand, m, quorate, Bool.false_eq_true, if_false, if_true]
  exact congrArg (fun x => (s.rmSettle x.1, x.2)) hf

theorem rmCommand_forwards (m : s.rm.master = false) (new : s.pkg.fwd.contains seq = false) (working : s.enrolled = 3)
    (valid : s.on FAB_ENROL fFAB_ENROL_RM_VALID = true) : rmCommand code seq reply f a s =
      ((s.emit (.forward (s.rd FAB_ENROL fFAB_ENROL_RM) code a)).modPkg fun p => { p with fwd := p.fwd ++ [seq] }, .waits) := by
  simp only [rmCommand, m, new, working, valid, decide_true, Bool.and_self, Bool.false_eq_true, if_false, if_true]

theorem rmCommand_unanswered (m : s.rm.master = false) (sent : s.pkg.fwd.contains seq = true) : rmCommand code seq none f a s = (s, .waits) := by
  simp only [rmCommand, m, sent, Bool.false_eq_true, if_false, if_true]

theorem rmCommand_answered (m : s.rm.master = false) (sent : s.pkg.fwd.contains seq = true) (r : Nat × Nat × List Nat) :
    rmCommand code seq (some r) f a s = (s.unforwarded seq, rmReply r) := by
  simp only [rmCommand, m, sent, Bool.false_eq_true, if_false, if_true]
  rfl

theorem rmTick_changes (good : tickStatus (a.getD 0 0) s.sched.planned = 0) (plan : s.sched.planned ≠ 0) (none_ : s.tickPending = false)
    (origin : s.time.originWait = false) : rmTick a s = (s.changeTick (a.getD 0 0), .done 0 []) := by
  simp only [rmTick, good, if_neg plan, none_, origin, Bool.or_self, Bool.false_eq_true, if_false]

theorem rmTick_waits (good : tickStatus (a.getD 0 0) s.sched.planned = 0) (plan : s.sched.planned ≠ 0)
    (h : s.tickPending = true ∨ s.time.originWait = true) : rmTick a s = (s, .waits) := by
  simp only [rmTick, good, if_neg plan, if_pos (Bool.or_eq_true_iff.2 h)]

theorem rmHandover_done (standby : s.rm.standby ≠ none) :
    rmHandover a s = (((s.modRm fun r => { r with handover := true }).sync).modRm fun r => { r with handover := false }, .done 0 []) :=
  if_neg (by simpa using standby)

theorem rmReshard_done {layout : List Nat} (some_ : layout ≠ []) (idle : s.rm.reshard = none)
    (fence : s.rm.epoch = 0 ∨ s.rm.step + 2 ≤ a.getD 1 0) :
    let x : Reshard := ⟨a.getD 0 0, a.getD 1 0, a.getD 2 0, layout.eraseDups, [], [], 0, false, a.getD 1 0⟩
    rmReshard layout a s = ((s.modRm fun r => { r with reshard := some x, epochMsg := some (3, [a.getD 0 0, a.getD 1 0, a.getD 2 0]) }).rmLayout
      ((s.rm.layout ++ x.layout).eraseDups) 3 [a.getD 0 0, a.getD 1 0, a.getD 2 0], .done 0 []) := by
  have late : ¬(decide (s.rm.epoch ≠ 0) && decide (a.getD 1 0 < s.rm.step + 2)) = true := by
    simp only [Bool.and_eq_true, decide_eq_true_eq]; omega
  have packages : ¬layout.isEmpty = true := by simpa using some_
  simp only [rmReshard, idle, Option.isSome_none, Bool.false_eq_true, if_false, if_neg late, if_neg packages]
  rfl

/-- The commands of the Ringmaster, each with its code. -/
def rmRows (seq : Nat) (layout : List Nat) (reply : Option (Nat × Nat × List Nat)) : List (Instr × Nat) :=
  [(.rmQuery ⟨.taken seq, reply⟩, 0x0E00), (.rmReshard ⟨.taken seq, reply⟩ layout, 0x0E01), (.rmTick ⟨.taken seq, reply⟩, 0x0E02),
    (.rmPolicy ⟨.taken seq, reply⟩, 0x0E03), (.rmHandover ⟨.taken seq, reply⟩, 0x0E04)]

/-- Each executes as a Ringmaster command with a body of its own. -/
theorem exec_rmRow {layout : List Nat} {r : Instr × Nat} (hr : r ∈ rmRows seq layout reply) :
    ∃ f, exec r.1 s = .next (s.command r.2 (.taken seq) (rmCommand r.2 seq reply f)) := by
  simp only [rmRows, List.mem_cons, List.not_mem_nil, or_false] at hr
  rcases hr with rfl | rfl | rfl | rfl | rfl
  · exact ⟨rmQuery, rfl⟩
  · exact ⟨rmReshard layout, rfl⟩
  · exact ⟨rmTick, rfl⟩
  · exact ⟨rmPolicy, rfl⟩
  · exact ⟨rmHandover, rfl⟩

end State

open State in
/-- Settles O52, command by command: what the body answers under its rule's conditions, and how that completes. -/
theorem commandsHaveTheirEffect : Obligations.CommandsHaveTheirEffect := by
  intro s seq c a site home does cores
  refine ⟨fun en => exec_done rfl (sqStart_done en), exec_done rfl rfl, fun hl hk hf ok => exec_done rfl (gfmtPin_done hl hk hf ok),
    fun hl hk => exec_done rfl (gfmtRelease_done hl hk), exec_done rfl rfl, fun here hc live => exec_done rfl (memFence_done here hc live),
    fun here idle => exec_done rfl (memCompact_done here idle), exec_done rfl rfl, exec_done rfl rfl,
    fun hd hc live range => exec_done rfl (ptFence_done hd hc live range),
    fun hd idle still free => exec_done rfl (ptCompact_done hd idle still free), exec_done rfl rfl, fun out => exec_done rfl (fabJoin_done out),
    fun enrolled => exec_done rfl (fabLeave_done enrolled), ?master, ?elsewhere, exec_done rfl rfl, exec_done rfl rfl, exec_done rfl rfl,
    fun stopped => exec_done rfl (pwrResume_done stopped), exec_done rfl rfl,
    fun n h0 hF slot => exec_response rfl (fits_singleton c _) (pwrEnergyRelease_done h0 hF slot),
    fun idle => ⟨exec_done rfl (schedUnload_done idle), fun m good => exec_done rfl (schedLoad_done idle good)⟩,
    fun h0 => exec_done rfl (jnlSpill_off h0), fun lo hi bme => exec_done rfl (jnlSpill_on lo hi bme),
    fun host => exec_done rfl (dbgUnlock_done host), exec_done rfl rfl, ?flash, ?capture⟩
  case master =>
    intro m quorate reply
    refine ⟨exec_done rfl (rmCommand_master m quorate rfl), ?tick, ?wait, ?handover, ?reshard⟩
    case tick => exact fun good plan none_ origin => exec_done rfl (rmCommand_master m quorate (rmTick_changes good plan none_ origin))
    case wait => exact fun good plan h => exec_waits rfl (rmCommand_master m quorate (rmTick_waits good plan h))
    case handover => exact fun standby => exec_done rfl (rmCommand_master m quorate (rmHandover_done standby))
    case reshard => exact fun layout some_ idle fence => exec_done rfl (rmCommand_master m quorate (rmReshard_done some_ idle fence))
  case elsewhere =>
    intro m layout reply r hr
    obtain ⟨f, hx⟩ := exec_rmRow (s := s) hr
    refine ⟨fun new working valid => exec_waits hx (rmCommand_forwards m new working valid), fun sent => ⟨?_, ?_, ?_⟩⟩
    · rintro rfl
      exact exec_waits hx (rmCommand_unanswered m sent)
    · rintro st rfl
      exact exec_refused hx (rmCommand_answered m sent _)
    · rintro st resp rfl fits
      exact exec_response hx fits (rmCommand_answered m sent _)
  case flash =>
    intro image i free bme running l
    exact ⟨fun room header content newer => exec_done rfl (flashWrite_done free bme running room header content newer),
      exec_waits rfl (flashWrite_erases free bme)⟩
  case capture =>
    intro free a0
    exact ⟨exec_waits rfl (returnCapture_begins free a0), exec_done rfl (returnCapture_done free a0)⟩

end Sys2Proof.Machine
end

section
namespace Sys2Proof.Machine

/-! Issue of the head of a stream (09 R247, R248). -/

namespace State

variable {s : State} {b i : Nat} {h : Head}

/-- A head that issues acts, and then the next head is judged. -/
theorem issue_of_issues (hs : s.Issues b i h) {sel : Word → Bool} (hsel : sel h.word = true) (act : State → Head → State) :
    s.issue b i sel act = (act s h).checkHead b i := by
  simp [issue, hs.may, hs.head, hs.ready, hs.chosen, hsel]

/-- A command whose meaning is the issue of words of one opcode answers what it does to a head with that opcode, once the next head is judged. -/
theorem exec_issue (hs : s.Issues b i h) {c : Instr} {o : Nat} {act : State → Head → State} {t : State}
    (hc : exec c s = .next (s.issue b i (fun w => opc w = o) act)) (ht : act s h = t) (ho : opc h.word = o) :
    exec c s = .next (t.checkHead b i) := by
  rw [hc, issue_of_issues hs (decide_eq_true ho), ht]

theorem smovi_low (hs : s.Issues b i h) (ho : opc h.word = 0x10) (h0 : bitsOf h.word 50 50 = 0) : exec (.smovi b i) s =
    .next (s.doneAtIssue b i h fun s => s.setSreg b i (bitsOf h.word 55 51) (imod 64 (sext 32 (bitsOf h.word 31 0)))) :=
  exec_issue hs rfl (by simp [h0]) ho

theorem smovi_high (hs : s.Issues b i h) (ho : opc h.word = 0x10) (h1 : bitsOf h.word 50 50 = 1) : exec (.smovi b i) s =
    .next (s.doneAtIssue b i h fun s =>
      s.setSreg b i (bitsOf h.word 55 51) (bitsOf h.word 31 0 * 2 ^ 32 + s.sreg b i (bitsOf h.word 55 51) % 2 ^ 32)) :=
  exec_issue hs rfl (by simp [h1]) ho

theorem salu_defined (hs : s.Issues b i h) (ho : opc h.word = 0x12) {v : Word}
    (hv : saluFn (bitsOf h.word 39 36) (s.sw b i (bitsOf h.word 50 46)) (saluB s b i h.word) = some v) :
    exec (.salu b i) s = .next (s.doneAtIssue b i h fun s => s.setSreg b i (bitsOf h.word 55 51) v.toNat) :=
  exec_issue hs rfl (by simp only [hv]) ho

theorem sst_stores (hs : s.Issues b i h) (ho : opc h.word = 0x15) (ha : memCheck (s.memAddr b i h.word) = none) :
    exec (.sst b i) s = .next (s.doneAtIssue b i h fun t => t.modCore b fun c =>
      c.locStore (s.memAddr b i h.word) (leBytes 8 (t.sreg b i (bitsOf h.word 55 51)))) :=
  exec_issue hs rfl (by simp only [ha]) ho

/-- A branch with a defined condition goes on at its target if the condition holds. -/
theorem br_defined (hs : s.Issues b i h) (ho : opc h.word = 0x18) {t : Bool}
    (ht : brCond (bitsOf h.word 45 43) (s.sw b i (bitsOf h.word 55 51)) (s.sw b i (bitsOf h.word 50 46)) = some t) :
    exec (.br b i) s = .next (s.doneAtIssue b i h fun s => if t then s.jump b i (branchTarget h.pc h.word) else s) :=
  exec_issue hs rfl (by simp only [ht]) ho

theorem br_taken (hs : s.Issues b i h) (ho : opc h.word = 0x18)
    (ht : brCond (bitsOf h.word 45 43) (s.sw b i (bitsOf h.word 55 51)) (s.sw b i (bitsOf h.word 50 46)) = some true) :
    exec (.br b i) s = .next (s.doneAtIssue b i h fun s => s.jump b i (branchTarget h.pc h.word)) := by
  simpa only [if_true] using br_defined hs ho ht

theorem br_untaken (hs : s.Issues b i h) (ho : opc h.word = 0x18)
    (ht : brCond (bitsOf h.word 45 43) (s.sw b i (bitsOf h.word 55 51)) (s.sw b i (bitsOf h.word 50 46)) = some false) :
    exec (.br b i) s = .next (s.doneAtIssue b i h id) := by
  have hid : (id : State → State) = fun s => s := rfl
  simpa only [Bool.false_eq_true, if_false, hid] using br_defined hs ho ht

/-- What an RDT shows (09 R249). -/
def rdtValue (s : State) (b sel : Nat) : Nat :=
  if sel = 0 then s.zbeat b else if sel = 1 then s.rd TIME_TICK fTIME_TICK_TICK else s.rd (TIME_ZCYC (zoneOf b)) fTIME_ZCYC_CYCLES

/-- The cycle count moves on before it is read. -/
def rdtCounted (s : State) (b sel : Nat) : State := if sel = 2 then s.bumpFree (TIME_ZCYC (zoneOf b)) fTIME_ZCYC_CYCLES else s

theorem rdt_defined (hs : s.Issues b i h) (ho : opc h.word = 0x2A) (h3 : bitsOf h.word 50 49 ≠ 3) :
    exec (.rdt b i) s = .next (s.doneAtIssue b i h fun s =>
      (s.rdtCounted b (bitsOf h.word 50 49)).setSreg b i (bitsOf h.word 55 51)
        ((s.rdtCounted b (bitsOf h.word 50 49)).rdtValue b (bitsOf h.word 50 49))) :=
  exec_issue hs rfl (if_neg h3) ho

end State

open State in
/-- Settles O5, instruction by instruction. -/
theorem sequencerInstructionsAtIssue : Obligations.SequencerInstructionsAtIssue := by
  intro s b i h hs w rd imm
  exact ⟨exec_issue hs rfl rfl, exec_issue hs rfl rfl, smovi_low hs, smovi_high hs, fun v ho => salu_defined hs ho, sst_stores hs,
    br_taken hs, br_untaken hs, exec_issue hs rfl rfl, exec_issue hs rfl rfl, exec_issue hs rfl rfl, exec_issue hs rfl rfl,
    exec_issue hs rfl rfl, rdt_defined hs⟩

open State in
/-- Settles O6: TICKB by its issue, the launch tick by what an instruction carries. -/
theorem tickBaseAndLaunchTick : Obligations.TickBaseAndLaunchTick := by
  refine ⟨fun s b i h hs => exec_issue hs rfl rfl, fun s b i h g hg hlt => ?_⟩
  simp only [issuedOf, hg, hlt, if_true, launchTick]

end Sys2Proof.Machine
end

section
namespace Sys2Proof.Machine

/-! Streams: what a write of one leaves, and that no completion writes any (09 R241, R246). -/

namespace CoreSt

@[simp] theorem stream_setStream_same (c : CoreSt) (i : Nat) (x : Stream) : (c.setStream i x).stream i = x :=
  match i with
  | 1 => rfl
  | 2 => rfl
  | 0 => rfl
  | _ + 3 => rfl

end CoreSt

/-- No stream of any core differs. -/
structure SameStreams (s t : State) : Prop where
  streams : ∀ d, (t.core d).stream = (s.core d).stream

namespace SameStreams

variable {s x t : State}

theorem trans (h : SameStreams s x) (g : SameStreams x t) : SameStreams s t := ⟨fun d => (g.streams d).trans (h.streams d)⟩

theorem ofCores (h : t.cores = s.cores) : SameStreams s t := ⟨fun d => by rw [State.core_congr h]⟩

theorem andCores (h : SameStreams s x) (g : t.cores = x.cores) : SameStreams s t := h.trans (ofCores g)

theorem modCore (b : Nat) {f : CoreSt → CoreSt} (hf : ∀ c, (f c).stream = c.stream) : SameStreams s (s.modCore b f) := by
  refine ⟨fun d => ?_⟩
  by_cases e : d = b
  · rw [e, State.core_modCore_same, hf]
  · rw [State.core_modCore_other _ e]

theorem foldl {α : Type} {f : State → α → State} {l : List α} (hf : ∀ z a, SameStreams z (f z a)) : SameStreams s (l.foldl f s) :=
  foldl_keeps (P := SameStreams s) (ofCores rfl) fun z a h => h.trans (hf z a)

theorem stream (h : SameStreams s t) (b i : Nat) : t.stream b i = s.stream b i := congrFun (h.streams b) i

end SameStreams

namespace State

@[simp] theorem stream_setStream_same (s : State) (b i : Nat) (x : Stream) : (s.setStream b i x).stream b i = x := by
  rw [stream, setStream, core_modCore_same, CoreSt.stream_setStream_same]

theorem takeTag_streams (s : State) (b : Nat) : SameStreams s (s.takeTag b) :=
  .modCore b (f := fun c => { c with nextTag := (c.nextTag + 1) % 2 ^ 16 }) fun _ => rfl

theorem addJob_streams (s : State) (b : Nat) (j : Job) : SameStreams s (s.addJob b j) :=
  .modCore b (f := fun c => { c with jobs := c.jobs ++ [{ j with ord := c.nextOrd, since := s.beat }], nextOrd := c.nextOrd + 1 }) fun _ => rfl

/-- A slip recorded and raised (08 R236). -/
def slipped (s : State) (b t : Nat) : State :=
  (((((s.modCore b fun c => { c with slips := setIns t c.slips }).bump (TIME_ZSLIPS (zoneOf b)) fTIME_ZSLIPS_COUNT 1).bump
    TIME_SLIPS fTIME_SLIPS_COUNT 1).wr TIME_SLIP_LAST fTIME_SLIP_LAST_CORE b).wr TIME_SLIP_LAST fTIME_SLIP_LAST_TICK t).raise
    TIME_EVENTS fTIME_EVENTS_SLIP

/-- What the slip check can do. -/
theorem slipCheck_cases (s : State) (b : Nat) (tick : Option Nat) : s.slipCheck b tick = s ∨
    ∃ t, s.slipCheck b tick = s.slipped b t ∨ s.slipCheck b tick = (s.slipped b t).health 2 [t, 1] := by
  unfold slipCheck
  split
  case h_1 => exact .inl rfl
  case h_2 t =>
    split
    case isFalse => exact .inl rfl
    case isTrue =>
      refine .inr ⟨t, ?_⟩
      by_cases hx : ((s.slipped b t).cores.any fun c => c.1 ≠ b && c.2.slips.contains t) = true
      · exact .inl (if_pos hx)
      · exact .inr (if_neg hx)

theorem slipped_streams (s : State) (b t : Nat) : SameStreams s (s.slipped b t) :=
  (SameStreams.modCore b (f := fun c => { c with slips := setIns t c.slips }) fun _ => rfl).andCores (raise_cores ..)

theorem slipCheck_streams (s : State) (b : Nat) (tick : Option Nat) : SameStreams s (s.slipCheck b tick) := by
  rcases slipCheck_cases s b tick with e | ⟨t, e | e⟩ <;> rw [e]
  · exact .ofCores rfl
  · exact slipped_streams s b t
  · exact (slipped_streams s b t).andCores ((health_touches (L := [.regs, .out, .fab]) Touches.refl rfl).cores_same rfl)

theorem sendInc_streams (s : State) (b : Nat) (iss : Issued) (w : Word) (loc : Bool) (node ts n : Nat) :
    SameStreams s (s.sendInc b iss w loc node ts n) := by
  unfold sendInc
  split
  · exact .ofCores rfl
  · extract_lets tag p
    split
    case h_1 =>
      have h1 : SameStreams s (s.bump FAB_DROP fFAB_DROP_NOROUTE 1) := .ofCores (bump_cores ..)
      exact (h1.trans (slipCheck_streams _ b iss.tick)).andCores
        ((moveFail_touches (L := [.regs, .out, .msix]) Touches.refl rfl).cores_same rfl)
    case h_2 x hx =>
      have h1 : SameStreams s x := .ofCores (((sendReq_touches (L := [.regs, .out, .fab]) Touches.refl rfl).out _ hx).cores_same rfl)
      exact (h1.trans (takeTag_streams x b)).trans (addJob_streams ..)

/-- A completion leaves every stream. -/
theorem finish_streams (s : State) (b : Nat) (iss : Issued) : SameStreams s (s.finish b iss) :=
  (slipCheck_streams s b iss.tick).trans (.foldl fun z _ => sendInc_streams z ..)

/-! What HALT leaves to be done (09 R249, R256). -/

variable {s : State} {b i : Nat}

theorem endHalts_of_nil (h : (s.stream b i).halts = []) : s.endHalts b i = s := by
  simp [endHalts, h]

/-- The one HALT set aside completes once no instruction before it is in progress. -/
theorem endHalts_of_single {ord : Nat} {iss : Issued} (h : (s.stream b i).halts = [(ord, iss)]) (hl : (s.stream b i).slds = [])
    (hj : ∀ j ∈ (s.core b).jobs, j.iss.stream = i → ord ≤ j.ord) :
    s.endHalts b i = (s.setStream b i { s.stream b i with halts := [] }).finish b iss := by
  have hdone : ((s.core b).jobs.any fun j => j.iss.stream = i && decide (j.ord < ord) && (j.kind ≠ .remInc || j.word ≠ 0#64)) = false := by
    rw [List.any_eq_false]
    intro j hm hc
    simp only [Bool.and_eq_true, decide_eq_true_eq] at hc
    exact absurd hc.1.2 (Nat.not_lt.2 (hj j hm hc.1.1))
  unfold endHalts
  extract_lets st due
  have hdue : due = [(ord, iss)] := by
    simp only [due, st, h, hl, List.filter_cons, hdone, List.isEmpty_nil, Bool.not_false, Bool.and_self, if_true, List.filter_nil]
  have hrest : (st.halts.filter fun x => !due.contains x) = [] := by simp [st, h, hdue]
  rw [hrest, hdue]
  rfl

/-- A stream with nothing of its own in progress enters HALTED by its HALT. -/
theorem entersHalted_of_pending {iss : Issued} (h : (s.stream b i).halts = []) (hp : (s.stream b i).haltPend = some iss) (on_ : s.coreOn b = true)
    (run : s.stState b i = stRun) (done : s.allDone b i = true) :
    let t := (s.setSt b i stHalted).flush b i none
    s.entersHalted b i = (t.setStream b i { t.stream b i with haltPend := none, stopPend := false }).finish b iss := by
  simp [entersHalted, endHalts_of_nil h, hp, on_, run, done]

/-- One stopped since has no more to do than complete it. -/
theorem entersHalted_of_aside {ord : Nat} {iss : Issued} (h : (s.stream b i).halts = [(ord, iss)]) (hp : (s.stream b i).haltPend = none)
    (hl : (s.stream b i).slds = []) (hj : ∀ j ∈ (s.core b).jobs, j.iss.stream = i → ord ≤ j.ord) :
    s.entersHalted b i = (s.setStream b i { s.stream b i with halts := [] }).finish b iss := by
  have hs : (((s.setStream b i { s.stream b i with halts := [] }).finish b iss).stream b i).haltPend = none := by
    rw [(finish_streams _ b iss).stream, stream_setStream_same, hp]
  simp [entersHalted, endHalts_of_single h hl hj, hs]

/-! Increments at issue, loads, fetching, the watchdog and stops. -/

variable {h : Head}

theorem sld_loads (hs : s.Issues b i h) (ho : opc h.word = 0x14) (ha : memCheck (s.memAddr b i h.word) = none) :
    let t := s.accept b i h
    exec (.sld b i) s = .next ((t.setStream b i { t.stream b i with slds := (t.stream b i).slds ++
      [(bitsOf h.word 55 51, (s.core b).locNat (s.memAddr b i h.word) 8, s.issuedOf b i h)] }).checkHead b i) :=
  exec_issue hs rfl (by simp only [ha]) ho

/-- The amount of a TINC (09 R249). -/
def tincAmount (s : State) (b i : Nat) (w : Word) : Nat :=
  if bitsOf w 28 28 = 1 then bitsOf w 22 0 else s.sreg b i (bitsOf w 27 23) % 2 ^ 24

theorem tinc_local (hs : s.Issues b i h) (ho : opc h.word = 0x20) (hl : bitsOf h.word 55 55 = 1 ∨ bitsOf h.word 54 43 = s.node) :
    exec (.tinc b i) s = .next ((((s.accept b i h).sendInc b (s.issuedOf b i h) h.word true (bitsOf h.word 54 43) (bitsOf h.word 42 29)
      (s.tincAmount b i h.word)).finish b (s.issuedOf b i h)).checkHead b i) := by
  have hloc : (decide (bitsOf h.word 55 55 = 1) || decide (bitsOf h.word 54 43 = s.node)) = true := by simpa using hl
  exact exec_issue hs rfl (by simp only [hloc, if_true, tincAmount]) ho

theorem tinc_remote (hs : s.Issues b i h) (ho : opc h.word = 0x20) (hl : bitsOf h.word 55 55 = 0) (hn : bitsOf h.word 54 43 ≠ s.node) :
    exec (.tinc b i) s = .next (((s.accept b i h).sendInc b (s.issuedOf b i h) h.word false (bitsOf h.word 54 43) (bitsOf h.word 42 29)
      (s.tincAmount b i h.word)).checkHead b i) := by
  have hloc : (decide (bitsOf h.word 55 55 = 1) || decide (bitsOf h.word 54 43 = s.node)) = false := by simp [hl, hn]
  exact exec_issue hs rfl (by simp only [hloc, Bool.false_eq_true, if_false, tincAmount]) ho

theorem sldLoadComplete_lands {r v : Nat} {iss : Issued} (hl : (s.stream b i).slds.find? (fun l => l.1 = r) = some (r, v, iss)) :
    exec (.sldLoadComplete b i r) s = .next (((s.setStream b i { s.stream b i with slds := (s.stream b i).slds.erase (r, v, iss) }).setSreg
      b i r v).finish b iss) := by
  show execSldLoadComplete b i r s = _
  simp only [execSldLoadComplete, hl]

theorem instructionFetch_line {a : Nat} (may : s.mayIssue b i = true) (hf : (s.stream b i).fnext = some a) :
    let r := fetchLine (s.core b) (s.rd (SQS_PBASE b (i - 1)) fSQS_PBASE_PBASE) (s.rd (SQS_PLIMIT b (i - 1)) fSQS_PLIMIT_PLIMIT) 8 a
      (s.stream b i).fbuf
    let x := s.setStream b i { s.stream b i with fbuf := r.1, fnext := r.2 }
    exec (.instructionFetch b i) s =
      .next ((if s.head b i = .absent then x.setStream b i { x.stream b i with since := s.zbeat b } else x).checkHead b i) := by
  show execInstructionFetch b i s = _
  simp only [execInstructionFetch, may, hf]
  rfl

theorem guardWatchdog_raises {ts : Nat} {g : Word} (may : s.mayIssue b i = true) (hh : s.head b i = .ok h) (hg : h.guard = some g)
    (hu : s.unmet g = some ts) (h0 : s.rd (SQ_WDOG b) fSQ_WDOG_LIMIT ≠ 0)
    (late : (s.stream b i).since + s.rd (SQ_WDOG b) fSQ_WDOG_LIMIT < s.zbeat b) :
    exec (.guardWatchdog b i) s =
      .next ((s.wr (SQS_WAIT b (i - 1)) fSQS_WAIT_WDOG 1).raise (SQ_EVENTS b) fSQ_EVENTS_WDOG) := by
  show execGuardWatchdog b i s = _
  simp [execGuardWatchdog, may, hh, hg, hu, h0, late]

theorem tsIncrement_applies {k : Nat} {x : IncMsg} (hx : s.incs[k]? = some x) :
    exec (.tsIncrement k) s = .next ({ s with incs := s.incs.eraseIdx k }.applyInc x) := by
  show execTsIncrement k s = _
  simp only [execTsIncrement, hx]

theorem streamStopped_stops (on_ : s.coreOn b = true) (hp : (s.stream b i).stopPend = true) (run : s.stState b i = stRun) :
    let t := (s.setSt b i stStopped).flush b i none
    s.streamStopped b i = (t.setStream b i { (t.stream b i).asideHalt (t.core b).nextOrd with stopPend := false }).setReg
      (SQS_WAIT b (i - 1)) 0 := by
  simp [streamStopped, on_, hp, run]

end State

open State in
/-- Settles O7, event by event. -/
theorem sequencerInstructionsThatLast : Obligations.SequencerInstructionsThatLast := by
  refine ⟨fun s b i h hs => ⟨exec_issue hs rfl rfl, sld_loads hs, tinc_local hs, tinc_remote hs⟩, ?halted, ?aside,
    fun s b i r v iss => sldLoadComplete_lands, fun s b i a => instructionFetch_line, fun s b i ts h g => guardWatchdog_raises,
    fun s k x => tsIncrement_applies, ?stopped⟩
  case halted =>
    intro s b i iss hh hp on_ run done
    exact congrArg (fun t : State => Host.Outcome.next t.settleEpoch) (entersHalted_of_pending hh hp on_ run done)
  case aside =>
    intro s b i ord iss _ _ hh hp hl hj
    exact congrArg (fun t : State => Host.Outcome.next t.settleEpoch) (entersHalted_of_aside hh hp hl hj)
  case stopped =>
    intro s b i on_ hp run
    exact congrArg (fun t : State => Host.Outcome.next t.settleEpoch) (streamStopped_stops on_ hp run)

end Sys2Proof.Machine
end

section
namespace Sys2Proof.Machine

/-! Rejection at issue (09 R254): what the registers show, and what stays. -/

/-- The streams F, B and U (09 R241). -/
theorem mem_streams {i : Nat} : i ∈ [1, 2, 3] ↔ 1 ≤ i ∧ i ≤ 3 := by
  simp only [List.mem_cons, List.not_mem_nil, or_false]
  omega

theorem stateFld_fits (i : Nat) : (stateFld i).lo ≤ (stateFld i).hi ∧ (stateFld i).hi < 64 ∧ (stateFld i).width = 3 := by
  unfold stateFld
  split <;> decide

theorem stateFld_disjoint : ∀ i ∈ [1, 2, 3], ∀ k ∈ [1, 2, 3], k ≠ i →
    (stateFld k).hi < (stateFld i).lo ∨ (stateFld i).hi < (stateFld k).lo := by decide

theorem faultFld_bit (i : Nat) : (faultFld i).hi = (faultFld i).lo ∧ (faultFld i).hi < 64 := by
  unfold faultFld
  split <;> decide

/-- The scalar registers of a core (09 R241). -/
def ofScalars (b a : Nat) : Prop := SQS_S b 0 ≤ a ∧ a < SQS_S b 96

theorem not_ofScalars_of_ofIssue {b a : Nat} (h : ofIssue b a) : ¬ofScalars b a := by
  unfold ofIssue TIME_LATE SQ_STATUS SQ_EVENTS SQ_ISSUED DM_RA_CANCEL DM_EVENTS SQS_PC SQS_WAIT SQS_FAULT SQS_LOST SQS_ISSUED at h
  unfold ofScalars SQS_S
  rcases h with h | h | h | h | h | h | ⟨k, _, h⟩ <;> omega

namespace State

variable {s t : State} {b i : Nat}

theorem ofScalars_SQS_S {k r : Nat} (hk : k ∈ [1, 2, 3]) (hr : r < 32) : ofScalars b (SQS_S b ((k - 1) * 32 + r)) := by
  have hk := mem_streams.1 hk
  unfold ofScalars SQS_S
  omega

/-- Scalar registers that are kept read the same. -/
theorem sreg_of_keeps (h : Keeps (ofScalars b) s t) {k r : Nat} (hk : k ∈ [1, 2, 3]) (hr : r < 32) : t.sreg b k r = s.sreg b k r := by
  unfold sreg
  rw [h _ (ofScalars_SQS_S hk hr)]

theorem reg_cancelProbes_other {a : Nat} (hc : a ≠ DM_RA_CANCEL b) (hd : a ≠ DM_EVENTS b) (x : State) (f : Probe → Bool) :
    (x.cancelProbes b f).reg a = x.reg a := by
  unfold cancelProbes
  extract_lets gone s1 s2
  have h2 : s2.reg a = x.reg a := foldl_keeps (P := fun z : State => z.reg a = x.reg a) rfl fun _ _ h => h
  split
  · rfl
  · rw [reg_raise_other _ hd, reg_bump_other _ hc, h2]

theorem reg_flush_other {a : Nat} (hc : a ≠ DM_RA_CANCEL b) (hd : a ≠ DM_EVENTS b) (x : State) (n : Option Nat) :
    (x.flush b i n).reg a = x.reg a := reg_cancelProbes_other hc hd _ _

/-- The state of a stream, its PC and the record of its fault as a rejection leaves them. -/
def faulted (s : State) (b i pc unit code : Nat) : State :=
  ((((s.setSt b i stFault).setPc b i pc).wr (SQS_FAULT b (i - 1)) fSQS_FAULT_CODE code).wr (SQS_FAULT b (i - 1)) fSQS_FAULT_UNIT unit).wr
    (SQS_FAULT b (i - 1)) fSQS_FAULT_PC pc

theorem reg_reject {a : Nat} (hw : a ≠ SQS_WAIT b (i - 1)) (hc : a ≠ DM_RA_CANCEL b) (hd : a ≠ DM_EVENTS b) (he : a ≠ SQ_EVENTS b)
    (pc unit code : Nat) : (s.reject b i pc unit code).reg a = (s.faulted b i pc unit code).reg a := by
  show ((((s.faulted b i pc unit code).setReg (SQS_WAIT b (i - 1)) 0).flush b i none).raise (SQ_EVENTS b) (faultFld i)).reg a = _
  rw [reg_raise_other _ he, reg_flush_other hc hd, reg_setReg_other _ hw]

theorem reg_reject_SQ_STATUS (pc unit code : Nat) : (s.reject b i pc unit code).reg (SQ_STATUS b) = (s.setSt b i stFault).reg (SQ_STATUS b) := by
  have h1 : SQ_STATUS b ≠ SQS_PC b (i - 1) := by unfold SQ_STATUS SQS_PC; omega
  have h2 : SQ_STATUS b ≠ SQS_FAULT b (i - 1) := by unfold SQ_STATUS SQS_FAULT; omega
  rw [reg_reject (by unfold SQ_STATUS SQS_WAIT; omega) (by unfold SQ_STATUS DM_RA_CANCEL; omega) (by unfold SQ_STATUS DM_EVENTS; omega)
    (by unfold SQ_STATUS SQ_EVENTS; omega), faulted, reg_wr_other _ h2, reg_wr_other _ h2, reg_wr_other _ h2, setPc, reg_wr_other _ h1]

/-- The rejected stream is in FAULT. -/
theorem stState_reject (pc unit code : Nat) : (s.reject b i pc unit code).stState b i = stFault := by
  obtain ⟨h1, h2, h3⟩ := stateFld_fits i
  rw [stState, rd, reg_reject_SQ_STATUS, ← rd, setSt, rd_wr_same _ _ _ h1 h2, h3]
  rfl

/-- The other streams keep their states. -/
theorem stState_reject_other {k : Nat} (hi : i ∈ [1, 2, 3]) (hk : k ∈ [1, 2, 3]) (hki : k ≠ i) (pc unit code : Nat) :
    (s.reject b i pc unit code).stState b k = s.stState b k := by
  obtain ⟨h1, h2, -⟩ := stateFld_fits i
  rw [stState, rd, reg_reject_SQ_STATUS, ← rd, setSt, rd_wr_field _ _ _ h1 h2 (stateFld_fits k).1 (stateFld_disjoint i hi k hk hki)]
  rfl

theorem reg_reject_SQS_PC (k pc unit code : Nat) :
    (s.reject b i pc unit code).reg (SQS_PC b k) = ((s.setSt b i stFault).setPc b i pc).reg (SQS_PC b k) := by
  have h2 : SQS_PC b k ≠ SQS_FAULT b (i - 1) := by unfold SQS_PC SQS_FAULT; omega
  rw [reg_reject (by unfold SQS_PC SQS_WAIT; omega) (by unfold SQS_PC DM_RA_CANCEL; omega) (by unfold SQS_PC DM_EVENTS; omega)
    (by unfold SQS_PC SQ_EVENTS; omega), faulted, reg_wr_other _ h2, reg_wr_other _ h2, reg_wr_other _ h2]

/-- Its PC is at the instruction. -/
theorem pc_reject {pc : Nat} (hpc : pc < 2 ^ 32) (unit code : Nat) : (s.reject b i pc unit code).pc b i = pc := by
  rw [State.pc, rd, reg_reject_SQS_PC, ← rd, setPc, rd_wr_same _ _ _ (by decide) (by decide)]
  exact Nat.mod_eq_of_lt hpc

/-- The other streams keep theirs. -/
theorem pc_reject_other {k : Nat} (hi : i ∈ [1, 2, 3]) (hk : k ∈ [1, 2, 3]) (hki : k ≠ i) (pc unit code : Nat) :
    (s.reject b i pc unit code).pc b k = s.pc b k := by
  have hi := mem_streams.1 hi
  have hk := mem_streams.1 hk
  rw [State.pc, rd, reg_reject_SQS_PC, setPc, reg_wr_other _ (by unfold SQS_PC; omega), setSt,
    reg_wr_other _ (by unfold SQS_PC SQ_STATUS; omega)]
  rfl

/-- SQS_FAULT names the code, the unit and the instruction. -/
theorem rd_reject_SQS_FAULT {pc unit code : Nat} (hpc : pc < 2 ^ 32) (hu : unit < 2 ^ 8) (hc : code < 2 ^ 8) :
    let t := s.reject b i pc unit code
    t.rd (SQS_FAULT b (i - 1)) fSQS_FAULT_CODE = code ∧ t.rd (SQS_FAULT b (i - 1)) fSQS_FAULT_UNIT = unit
      ∧ t.rd (SQS_FAULT b (i - 1)) fSQS_FAULT_PC = pc := by
  have h (f : Fld) : (s.reject b i pc unit code).rd (SQS_FAULT b (i - 1)) f = (s.faulted b i pc unit code).rd (SQS_FAULT b (i - 1)) f := by
    rw [rd, rd, reg_reject (by unfold SQS_FAULT SQS_WAIT; omega) (by unfold SQS_FAULT DM_RA_CANCEL; omega)
      (by unfold SQS_FAULT DM_EVENTS; omega) (by unfold SQS_FAULT SQ_EVENTS; omega)]
  refine ⟨?_, ?_, ?_⟩ <;> rw [h, faulted]
  · rw [rd_wr_field _ _ _ (by decide) (by decide) (by decide) (by decide), rd_wr_field _ _ _ (by decide) (by decide) (by decide) (by decide),
      rd_wr_same _ _ _ (by decide) (by decide)]
    exact Nat.mod_eq_of_lt hc
  · rw [rd_wr_field _ _ _ (by decide) (by decide) (by decide) (by decide), rd_wr_same _ _ _ (by decide) (by decide)]
    exact Nat.mod_eq_of_lt hu
  · rw [rd_wr_same _ _ _ (by decide) (by decide)]
    exact Nat.mod_eq_of_lt hpc

/-- The FAULT event of the stream is raised. -/
theorem on_reject_fault (pc unit code : Nat) : (s.reject b i pc unit code).on (SQ_EVENTS b) (faultFld i) = true :=
  on_raise _ _ (faultFld_bit i).1 (faultFld_bit i).2

/-- A stream in FAULT is not judged. -/
theorem checkHead_of_fault (h : s.stState b i = stFault) : s.checkHead b i = s := by
  have hm : s.mayIssue b i = false := by
    have hr : stFault ≠ stRun := by decide
    simp [mayIssue, h, hr]
  simp [checkHead, hm]

/-- What a rejection by the sequencer itself shows in the next state `t`, and what of the core it leaves (09 R253, R254). -/
structure Rejects (s : State) (b i pc code : Nat) (t : State) : Prop where
  inFault : t.stState b i = stFault
  pcAt : t.pc b i = pc
  code : t.rd (SQS_FAULT b (i - 1)) fSQS_FAULT_CODE = code
  unit : t.rd (SQS_FAULT b (i - 1)) fSQS_FAULT_UNIT = 6
  faultPc : t.rd (SQS_FAULT b (i - 1)) fSQS_FAULT_PC = pc
  event : t.on (SQ_EVENTS b) (faultFld i) = true
  scalars : ∀ k r, k ∈ [1, 2, 3] → r < 32 → t.sreg b k r = s.sreg b k r
  mem : (t.core b).mem = (s.core b).mem
  acc : (t.core b).acc = (s.core b).acc
  jobs : (t.core b).jobs = (s.core b).jobs
  incs : t.incs = s.incs
  others : ∀ k, k ∈ [1, 2, 3] → k ≠ i → t.stState b k = s.stState b k ∧ t.pc b k = s.pc b k

theorem reject_rejects (hi : i ∈ [1, 2, 3]) {pc code : Nat} (hpc : pc < 2 ^ 32) (hc : code < 2 ^ 8) :
    Rejects s b i pc code (s.reject b i pc 6 code) := by
  obtain ⟨hcode, hunit, hfault⟩ := rd_reject_SQS_FAULT (s := s) (b := b) (i := i) hpc (by decide : 6 < 2 ^ 8) hc
  have hq := reject_quiet s b i pc 6 code
  exact {
    inFault := stState_reject pc 6 code
    pcAt := pc_reject hpc 6 code
    code := hcode
    unit := hunit
    faultPc := hfault
    event := on_reject_fault pc 6 code
    scalars := fun k r hk hr => sreg_of_keeps (Keeps_reject Keeps.refl b i pc 6 code (mem_streams.1 hi) fun _ => not_ofScalars_of_ofIssue) hk hr
    mem := congrArg Prod.fst (hq.data b)
    acc := congrArg (fun x => x.2.1) (hq.data b)
    jobs := hq.jobs b
    incs := (reject_touches (L := [.regs, .cores, .out, .msix, .caches]) Touches.refl rfl).same .incs rfl
    others := fun k hk hki => ⟨stState_reject_other hi hk hki pc 6 code, pc_reject_other hi hk hki pc 6 code⟩ }

/-- An instruction whose issue is its rejection answers so. -/
theorem exec_rejects {h : Head} (hs : s.Issues b i h) (hpc : h.pc < 2 ^ 32) {c : Instr} {code : Nat} (hc : code < 2 ^ 8)
    (e : exec c s = .next ((s.reject b i h.pc 6 code).checkHead b i)) : ∃ t, exec c s = .next t ∧ Rejects s b i h.pc code t := by
  rw [checkHead_of_fault (stState_reject h.pc 6 code)] at e
  exact ⟨_, e, reject_rejects (mem_streams.2 (mayIssue_bounds hs.may).2) hpc hc⟩

end State

theorem saluFn_reserved {fn : Nat} (h : 13 ≤ fn) (x y : Word) : saluFn fn x y = none := by
  unfold saluFn
  split
  case h_14 => rfl
  all_goals omega

theorem memCheck_outside {a : Nat} (h : coreMemSize < a + 8) : State.memCheck a = some 0x51 := if_pos h

theorem memCheck_misaligned {a : Nat} (h : a + 8 ≤ coreMemSize) (ha : a % 8 ≠ 0) : State.memCheck a = some 0x52 := by
  rw [State.memCheck, if_neg (Nat.not_lt.2 h), if_pos ha]

namespace State

variable {s : State} {b i : Nat} {h : Head}

theorem sld_rejected (hs : s.Issues b i h) (ho : opc h.word = 0x14) {code : Nat} (hc : memCheck (s.memAddr b i h.word) = some code) :
    exec (.sld b i) s = .next ((s.reject b i h.pc 6 code).checkHead b i) := exec_issue hs rfl (by simp only [hc]) ho

theorem sst_rejected (hs : s.Issues b i h) (ho : opc h.word = 0x15) {code : Nat} (hc : memCheck (s.memAddr b i h.word) = some code) :
    exec (.sst b i) s = .next ((s.reject b i h.pc 6 code).checkHead b i) := exec_issue hs rfl (by simp only [hc]) ho

theorem salu_rejected (hs : s.Issues b i h) (ho : opc h.word = 0x12) (hf : 13 ≤ bitsOf h.word 39 36) :
    exec (.salu b i) s = .next ((s.reject b i h.pc 6 0x55).checkHead b i) := exec_issue hs rfl (by simp only [saluFn_reserved hf]) ho

theorem br_rejected (hs : s.Issues b i h) (ho : opc h.word = 0x18) (hc : bitsOf h.word 45 43 = 7) :
    exec (.br b i) s = .next ((s.reject b i h.pc 6 0x55).checkHead b i) := exec_issue hs rfl (by simp only [hc, brCond]) ho

theorem rdt_rejected (hs : s.Issues b i h) (ho : opc h.word = 0x2A) (h3 : bitsOf h.word 50 49 = 3) :
    exec (.rdt b i) s = .next ((s.reject b i h.pc 6 0x55).checkHead b i) := exec_issue hs rfl (if_pos h3) ho

end State

open State in
/-- Settles O8: each of the seven is a rejection with its code, and a rejection changes of the core only what it shows. -/
theorem rejectedAtIssue : Obligations.RejectedAtIssue := by
  intro s b i h hs hpc w rejects a
  have answers {c : Instr} {code : Nat} (hc : code < 2 ^ 8) (e : exec c s = .next ((s.reject b i h.pc 6 code).checkHead b i)) :
      rejects c code := by
    obtain ⟨t, ht, r⟩ := exec_rejects hs hpc hc e
    exact ⟨t, ht, r.inFault, r.pcAt, r.code, r.unit, r.faultPc, r.event, r.scalars, r.mem, r.acc, r.jobs, r.incs, r.others⟩
  exact ⟨fun ho ha => answers (by decide) (sld_rejected hs ho (memCheck_outside ha)),
    fun ho ha hm => answers (by decide) (sld_rejected hs ho (memCheck_misaligned ha hm)),
    fun ho ha => answers (by decide) (sst_rejected hs ho (memCheck_outside ha)),
    fun ho ha hm => answers (by decide) (sst_rejected hs ho (memCheck_misaligned ha hm)),
    fun ho hf => answers (by decide) (salu_rejected hs ho hf), fun ho hc => answers (by decide) (br_rejected hs ho hc),
    fun ho h3 => answers (by decide) (rdt_rejected hs ho h3)⟩

end Sys2Proof.Machine
end

section
namespace Sys2Proof.Machine

/-! The cycle counts of the zones (08 R240), which nothing that completes or issues writes. -/

namespace State

variable {s x : State}

/-- What is sent writes registers of the fabric alone. -/
theorem Keeps_launch_low (h : Keeps (· < 0x600000) s x) (port : Nat) (p : Packet) : Keeps (· < 0x600000) s (x.launch port p) := by
  unfold launch
  extract_lets pad n seq x1
  exact ((h.regs (modPort_regs x port _)).regs (emit_regs x1 _)).bump (by unfold FP_TX_FLITS; omega) _ _

theorem Keeps_send_low (h : Keeps (· < 0x600000) s x) {p : Packet} {y : State} (hy : x.send p = some y) : Keeps (· < 0x600000) s y := by
  unfold send at hy
  split at hy
  case h_1 => cases hy
  case h_2 r _ =>
    cases hy
    unfold transmit
    exact .ite (Keeps_launch_low h _ _) (h.regs (modPort_regs ..))

theorem Keeps_sendReq_low (h : Keeps (· < 0x600000) s x) {p : Packet} {y : State} (hy : x.sendReq p = some y) : Keeps (· < 0x600000) s y := by
  unfold sendReq at hy
  split at hy
  · exact Keeps_send_low h hy
  · cases hy

theorem Keeps_health_low (h : Keeps (· < 0x600000) s x) (k : Nat) (l : List Nat) : Keeps (· < 0x600000) s (x.health k l) := by
  unfold health sendCtrl
  refine .ite (.ite ((h.regs (emit_regs ..)).regs (modFab_regs ..)) ?_) h
  split
  case h_1 y hy => exact (Keeps_send_low h hy).regs (modFab_regs ..)
  case h_2 => exact h.bump (by decide) _ _

variable {z : Nat}

theorem reg_slipped_TIME_ZCYC (s : State) (b t : Nat) : (s.slipped b t).reg (TIME_ZCYC z) = s.reg (TIME_ZCYC z) := by
  have h1 : TIME_ZCYC z ≠ TIME_ZSLIPS (zoneOf b) := by unfold TIME_ZCYC TIME_ZSLIPS; omega
  have h2 : TIME_ZCYC z ≠ TIME_SLIPS := by unfold TIME_ZCYC TIME_SLIPS; omega
  have h3 : TIME_ZCYC z ≠ TIME_SLIP_LAST := by unfold TIME_ZCYC TIME_SLIP_LAST; omega
  have h4 : TIME_ZCYC z ≠ TIME_EVENTS := by unfold TIME_ZCYC TIME_EVENTS; omega
  rw [slipped, reg_raise_other _ h4, reg_wr_other _ h3, reg_wr_other _ h3, reg_bump_other _ h2, reg_bump_other _ h1]
  rfl

theorem TIME_ZCYC_low (hz : z < 12) : TIME_ZCYC z < 0x600000 := by unfold TIME_ZCYC; omega

theorem reg_slipCheck_TIME_ZCYC (hz : z < 12) (s : State) (b : Nat) (tick : Option Nat) :
    (s.slipCheck b tick).reg (TIME_ZCYC z) = s.reg (TIME_ZCYC z) := by
  rcases slipCheck_cases s b tick with e | ⟨t, e | e⟩ <;> rw [e]
  · exact reg_slipped_TIME_ZCYC s b t
  · exact (Keeps_health_low .refl 2 [t, 1] _ (TIME_ZCYC_low hz)).trans (reg_slipped_TIME_ZCYC s b t)

theorem reg_sendInc_TIME_ZCYC (hz : z < 12) (s : State) (b : Nat) (iss : Issued) (w : Word) (loc : Bool) (node ts n : Nat) :
    (s.sendInc b iss w loc node ts n).reg (TIME_ZCYC z) = s.reg (TIME_ZCYC z) := by
  unfold sendInc
  split
  · rfl
  · extract_lets tag p
    split
    case h_1 =>
      have h1 : TIME_ZCYC z ≠ SQS_MFAIL b (iss.stream - 1) := by unfold TIME_ZCYC SQS_MFAIL; omega
      have h2 : TIME_ZCYC z ≠ SQ_EVENTS b := by unfold TIME_ZCYC SQ_EVENTS; omega
      have h3 : TIME_ZCYC z ≠ FAB_DROP := by unfold TIME_ZCYC FAB_DROP; omega
      rw [moveFail, reg_raise_other _ h2, reg_wr_other _ h1, reg_bump_other _ h1, reg_wr_other _ h1, reg_slipCheck_TIME_ZCYC hz,
        reg_bump_other _ h3]
    case h_2 x hx => exact Keeps_sendReq_low .refl hx _ (TIME_ZCYC_low hz)

/-- A completion leaves the cycle counts. -/
theorem reg_finish_TIME_ZCYC (hz : z < 12) (s : State) (b : Nat) (iss : Issued) :
    (s.finish b iss).reg (TIME_ZCYC z) = s.reg (TIME_ZCYC z) :=
  foldl_keeps (P := fun x : State => x.reg (TIME_ZCYC z) = s.reg (TIME_ZCYC z)) (reg_slipCheck_TIME_ZCYC hz s b iss.tick)
    fun x _ hx => (reg_sendInc_TIME_ZCYC hz x ..).trans hx

end State

end Sys2Proof.Machine
end

section
namespace Sys2Proof.Machine

/-! The result of a scalar instruction in the next state (09 R241, R249). -/

theorem not_ofScalars_of_ofCompletion {b i a : Nat} (hi : 1 ≤ i ∧ i ≤ 3) (h : ofCompletion b i a) : ¬ofScalars b a := by
  unfold ofCompletion SQS_MFAIL SQ_EVENTS at h
  unfold ofScalars SQS_S
  omega

/-- Registers of the package's time that neither issue nor the check of the next head writes. -/
theorem not_ofIssue_of_low {b a : Nat} (ha : a < 0x1000000) (hl : a ≠ TIME_LATE) : ¬ofIssue b a := by
  unfold ofIssue SQ_STATUS SQ_EVENTS SQ_ISSUED DM_RA_CANCEL DM_EVENTS SQS_PC SQS_WAIT SQS_FAULT SQS_LOST SQS_ISSUED
  rintro (h | h | h | h | h | h | ⟨k, _, h⟩) <;> omega

namespace State

variable {s x t : State} {b i rd v : Nat} {h : Head}

/-- The register written holds the value, s0 reads 0, and all others of the core read as before. -/
def SregHolds (s t : State) (b i rd v : Nat) : Prop :=
  t.sreg b i rd = (if rd = 0 then 0 else v % 2 ^ 64)
    ∧ ∀ k r, k ∈ [1, 2, 3] → r < 32 → (k = i → r ≠ rd) → t.sreg b k r = s.sreg b k r

theorem setSreg_holds (hi : i ∈ [1, 2, 3]) (hrd : rd < 32) (x : State) (v : Nat) : SregHolds x (x.setSreg b i rd v) b i rd v := by
  have hi := mem_streams.1 hi
  by_cases h0 : rd = 0
  · exact ⟨by rw [sreg, if_pos h0, if_pos h0], fun k r _ _ _ => by rw [setSreg, if_pos h0]⟩
  · refine ⟨?_, fun k r hk hr hne => ?_⟩
    · rw [sreg, setSreg, if_neg h0, if_neg h0, if_neg h0, reg_setReg_same, BitVec.toNat_ofNat]
    · have hk := mem_streams.1 hk
      have ha : SQS_S b ((k - 1) * 32 + r) ≠ SQS_S b ((i - 1) * 32 + rd) := by unfold SQS_S; omega
      rw [sreg, sreg, setSreg, if_neg h0, reg_setReg_other _ ha]

/-- A result stands while the scalar registers are kept. -/
theorem SregHolds.keep (hi : i ∈ [1, 2, 3]) (hrd : rd < 32) {y : State} (before : Keeps (ofScalars b) s x) (h : SregHolds x y b i rd v)
    (after : Keeps (ofScalars b) y t) : SregHolds s t b i rd v :=
  ⟨(sreg_of_keeps after hi hrd).trans h.1,
    fun k r hk hr hne => ((sreg_of_keeps after hk hr).trans (h.2 k r hk hr hne)).trans (sreg_of_keeps before hk hr)⟩

theorem Keeps_accept_scalars (hi : 1 ≤ i ∧ i ≤ 3) (s : State) (h : Head) : Keeps (ofScalars b) s (s.accept b i h) :=
  Keeps_accept .refl b i h hi fun _ => not_ofScalars_of_ofIssue

/-- An instruction that writes one scalar register by an effect on the accepted state. -/
theorem doneAtIssue_holds (hs : s.Issues b i h) (hrd : rd < 32) {f : State → State} {g : State → Nat}
    (hf : Keeps (ofScalars b) (s.accept b i h) (f (s.accept b i h))) (hv : g (s.accept b i h) = v) :
    SregHolds s (s.doneAtIssue b i h fun x => (f x).setSreg b i rd (g x)) b i rd v := by
  obtain ⟨hb, hi⟩ := mayIssue_bounds hs.may
  subst hv
  refine SregHolds.keep (mem_streams.2 hi) hrd ((Keeps_accept_scalars hi s h).trans hf) (setSreg_holds (mem_streams.2 hi) hrd _ _) ?_
  exact Keeps_checkHead (Keeps_finish .refl b _ hb fun _ => not_ofScalars_of_ofCompletion hi) b i hi fun _ => not_ofScalars_of_ofIssue

theorem rd_accept_low {a : Nat} (hs : s.Issues b i h) (ha : a < 0x1000000) (hl : a ≠ TIME_LATE) (f : Fld) :
    (s.accept b i h).rd a f = s.rd a f := by
  have hk := Keeps_accept (P := (· = a)) .refl b i h (mayIssue_bounds hs.may).2 (s := s) (x := s) fun c hc hca =>
    not_ofIssue_of_low ha hl (hca ▸ hc)
  rw [rd, rd, hk a rfl]

theorem zoneOf_lt (hs : s.Issues b i h) : zoneOf b < 12 := by
  have hb := (mayIssue_bounds hs.may).1
  unfold zoneOf; omega

theorem zbeat_accept (hs : s.Issues b i h) : (s.accept b i h).zbeat b = s.zbeat b := by
  have hz := zoneOf_lt hs
  exact rd_accept_low hs (by unfold TIME_ZBEAT; omega) (by unfold TIME_ZBEAT TIME_LATE; omega) _

theorem rdtValue_beat (x : State) : (x.rdtCounted b 0).rdtValue b 0 = x.zbeat b := by
  rw [rdtCounted, if_neg (by decide), rdtValue, if_pos rfl]

theorem rdtValue_tick (x : State) : (x.rdtCounted b 1).rdtValue b 1 = x.rd TIME_TICK fTIME_TICK_TICK := by
  rw [rdtCounted, if_neg (by decide), rdtValue, if_neg (by decide), if_pos rfl]

theorem rdtValue_cycles (x : State) : x.rdtValue b 2 = x.rd (TIME_ZCYC (zoneOf b)) fTIME_ZCYC_CYCLES := by
  rw [rdtValue, if_neg (by decide), if_neg (by decide)]

theorem Keeps_rdtCounted (x : State) (sel : Nat) : Keeps (ofScalars b) x (x.rdtCounted b sel) := by
  unfold rdtCounted bumpFree
  refine .ite ?_ .refl
  refine Keeps.regs (Keeps.bump .refl (a := TIME_ZCYC (zoneOf b)) ?_ fTIME_ZCYC_CYCLES (Config.cycles x.freeCtr)) rfl
  unfold ofScalars SQS_S TIME_ZCYC zoneOf; omega

/-- An RDT leaves in its register what it reads in the accepted state. -/
theorem rdt_holds (hs : s.Issues b i h) (hrd : rd < 32) {sel : Nat} (hv : ((s.accept b i h).rdtCounted b sel).rdtValue b sel = v) :
    SregHolds s (s.doneAtIssue b i h fun x => (x.rdtCounted b sel).setSreg b i rd ((x.rdtCounted b sel).rdtValue b sel)) b i rd v :=
  doneAtIssue_holds hs hrd (f := fun x => x.rdtCounted b sel) (g := fun x => (x.rdtCounted b sel).rdtValue b sel) (Keeps_rdtCounted _ sel) hv

theorem rd_TIME_ZCYC_lt (x : State) (z : Nat) : x.rd (TIME_ZCYC z) fTIME_ZCYC_CYCLES < 2 ^ 64 := fget_lt _ _

/-- The cycle count of the core's zone stands after the completion and the check of the next head. -/
theorem rd_doneAtIssue_TIME_ZCYC (hs : s.Issues b i h) (f : State → State) (g : State → Nat) (fld : Fld) :
    (s.doneAtIssue b i h fun x => (f x).setSreg b i rd (g x)).rd (TIME_ZCYC (zoneOf b)) fld
      = (f (s.accept b i h)).rd (TIME_ZCYC (zoneOf b)) fld := by
  have hz := zoneOf_lt hs
  have hlow : TIME_ZCYC (zoneOf b) < 0x1000000 := by unfold TIME_ZCYC; omega
  have hck (x : State) : (x.checkHead b i).reg (TIME_ZCYC (zoneOf b)) = x.reg (TIME_ZCYC (zoneOf b)) :=
    Keeps_checkHead (P := (· = TIME_ZCYC (zoneOf b))) .refl b i (mayIssue_bounds hs.may).2
      (fun c hc hca => not_ofIssue_of_low hlow (by unfold TIME_ZCYC TIME_LATE; omega) (hca ▸ hc)) _ rfl
  have hset (x : State) (v : Nat) : (x.setSreg b i rd v).reg (TIME_ZCYC (zoneOf b)) = x.reg (TIME_ZCYC (zoneOf b)) := by
    unfold setSreg
    split
    · rfl
    · exact reg_setReg_other _ (by unfold SQS_S; omega) _
  rw [State.rd, State.rd, doneAtIssue, hck, complete, reg_finish_TIME_ZCYC hz, hset]

end State

open State in
/-- Settles O9: the result is written into the accepted state, whose scalar registers, like those of the state after it, are as before. -/
theorem scalarResultsStand : Obligations.ScalarResultsStand := by
  intro s b i h hs w rd gives
  have hrd : rd < 32 := fget_lt _ _
  have hi := (mayIssue_bounds hs.may).2
  have hkeep : Keeps (ofScalars b) s (s.accept b i h) := Keeps_accept_scalars hi s h
  have answers {c : Instr} {v : Nat} {t : State} (e : exec c s = .next t) (ht : SregHolds s t b i rd v) : gives c v := ⟨t, e, ht⟩
  refine ⟨fun v ho hv => answers (salu_defined hs ho hv) (doneAtIssue_holds hs hrd .refl rfl),
    fun ho h0 => answers (smovi_low hs ho h0) (doneAtIssue_holds hs hrd .refl rfl),
    fun ho h1 => answers (smovi_high hs ho h1) (doneAtIssue_holds hs hrd .refl (by rw [sreg_of_keeps hkeep (mem_streams.2 hi) hrd])),
    ?beat, ?tick, ?cycles⟩
  case beat =>
    intro ho h0
    exact answers (rdt_defined hs ho (fun e => absurd (h0.symm.trans e) (by decide))) (rdt_holds hs hrd (by rw [h0, rdtValue_beat, zbeat_accept hs]))
  case tick =>
    intro ho h1
    exact answers (rdt_defined hs ho (fun e => absurd (h1.symm.trans e) (by decide)))
      (rdt_holds hs hrd (by rw [h1, rdtValue_tick, rd_accept_low hs (by decide) (by decide)]))
  case cycles =>
    intro ho h2
    obtain ⟨hres, hrest⟩ := rdt_holds hs hrd (sel := bitsOf w 50 49) rfl
    refine ⟨_, rdt_defined hs ho (fun e => absurd (h2.symm.trans e) (by decide)), hres.trans ?_, hrest⟩
    rw [rd_doneAtIssue_TIME_ZCYC hs, h2, rdtValue_cycles, Nat.mod_eq_of_lt (rd_TIME_ZCYC_lt _ _)]

end Sys2Proof.Machine
end

section
namespace Sys2Proof.Machine

/-! Turnstiles (09 R260, R265). -/

namespace State

variable {s : State} {x : IncMsg}

theorem applyInc_current (h : s.rd (TS_STATE x.ts) fTS_STATE_EPOCH = x.stamp) : s.applyInc x =
    s.wr (TS_COUNT x.ts) fTS_COUNT_COUNT ((s.rd (TS_COUNT x.ts) fTS_COUNT_COUNT + x.amount) % 2 ^ 32) := if_pos h

theorem applyInc_stale (h : s.rd (TS_STATE x.ts) fTS_STATE_EPOCH ≠ x.stamp) : s.applyInc x =
    ((((s.bump TS_STALE fTS_STALE_COUNT 1).wr TS_STALE_LAST fTS_STALE_LAST_NODE x.node).wr TS_STALE_LAST fTS_STALE_LAST_STAMP x.stamp).wr
      TS_STALE_LAST fTS_STALE_LAST_CUR (s.rd (TS_STATE x.ts) fTS_STATE_EPOCH)).wr TS_STALE_LAST fTS_STALE_LAST_TS x.ts := if_neg h

/-- The record of the last stale increment holds its four fields. -/
theorem rd_staleLast (s : State) {node stamp cur ts : Nat} (hn : node < 2 ^ 12) (hs : stamp < 2 ^ 8) (hc : cur < 2 ^ 8) (ht : ts < 2 ^ 14) :
    let t := (((s.wr TS_STALE_LAST fTS_STALE_LAST_NODE node).wr TS_STALE_LAST fTS_STALE_LAST_STAMP stamp).wr TS_STALE_LAST
      fTS_STALE_LAST_CUR cur).wr TS_STALE_LAST fTS_STALE_LAST_TS ts
    t.rd TS_STALE_LAST fTS_STALE_LAST_NODE = node ∧ t.rd TS_STALE_LAST fTS_STALE_LAST_STAMP = stamp
      ∧ t.rd TS_STALE_LAST fTS_STALE_LAST_CUR = cur ∧ t.rd TS_STALE_LAST fTS_STALE_LAST_TS = ts := by
  refine ⟨?_, ?_, ?_, ?_⟩
  · rw [rd_wr_field _ _ _ (by decide) (by decide) (by decide) (by decide), rd_wr_field _ _ _ (by decide) (by decide) (by decide) (by decide),
      rd_wr_field _ _ _ (by decide) (by decide) (by decide) (by decide), rd_wr_same _ _ _ (by decide) (by decide)]
    exact Nat.mod_eq_of_lt hn
  · rw [rd_wr_field _ _ _ (by decide) (by decide) (by decide) (by decide), rd_wr_field _ _ _ (by decide) (by decide) (by decide) (by decide),
      rd_wr_same _ _ _ (by decide) (by decide)]
    exact Nat.mod_eq_of_lt hs
  · rw [rd_wr_field _ _ _ (by decide) (by decide) (by decide) (by decide), rd_wr_same _ _ _ (by decide) (by decide)]
    exact Nat.mod_eq_of_lt hc
  · rw [rd_wr_same _ _ _ (by decide) (by decide)]
    exact Nat.mod_eq_of_lt ht

end State

open State in
/-- Settles O10: an increment of the turnstile's epoch is one write of COUNT, another one five writes of the stale registers. -/
theorem turnstileIncrement : Obligations.TurnstileIncrement := by
  intro s k x hx hts
  have hexec := tsIncrement_applies hx
  refine ⟨fun hcur => ?_, fun hold hstamp hnode => ?_⟩
  · rw [applyInc_current (s := { s with incs := s.incs.eraseIdx k }) hcur] at hexec
    refine ⟨_, hexec, rfl, ?_, fun a ha => reg_wr_other _ ha _ _⟩
    rw [rd_wr_same _ _ _ (by decide) (by decide)]
    exact Nat.mod_mod _ _
  · rw [applyInc_stale (s := { s with incs := s.incs.eraseIdx k }) hold] at hexec
    obtain ⟨hn, hs, hc, ht⟩ := rd_staleLast (({ s with incs := s.incs.eraseIdx k } : State).bump TS_STALE fTS_STALE_COUNT 1) hnode hstamp
      (fget_lt (s.reg (TS_STATE x.ts)) fTS_STATE_EPOCH) hts
    have hne : TS_STALE ≠ TS_STALE_LAST := by decide
    refine ⟨_, hexec, rfl, ?_, hn, hs, hc, ht, fun a h1 h2 => ?_⟩
    · rw [rd_wr_other _ hne, rd_wr_other _ hne, rd_wr_other _ hne, rd_wr_other _ hne, rd_bump_same _ _ _ (by decide) (by decide)]
      rfl
    · rw [reg_wr_other _ h2, reg_wr_other _ h2, reg_wr_other _ h2, reg_wr_other _ h2, reg_bump_other _ h1]
      rfl

end Sys2Proof.Machine
end

section
namespace Sys2Proof.Machine

namespace State

/-! What a command on an entry finds (12 R356). No walk of the entry runs or waits: the entry stands as it was, unless a move that still shows
itself walking for it shares its order number with one that is translated, which `afterTrans` then asks its reads for once more. -/

variable {s : State} {id : Nat}

/-- The moves that wait for a walk of the entry stand under their own order numbers: each number finds a move that waits so. -/
def WalkersNamed (s : State) (id : Nat) : Prop :=
  ∀ x ∈ s.transJobs fun t => t = .walking id, ∀ j, s.job x.1 x.2.ord = some j → j.trans = .walking id

theorem afterTrans_of_walking {l : List (Nat × Job)} (h : ∀ x ∈ l, ∀ j, s.job x.1 x.2.ord = some j → j.trans = .walking id) :
    s.afterTrans l = s := by
  induction l with
  | nil => rfl
  | cons x l ih =>
    have rest := ih fun y hy => h y (List.mem_cons_of_mem _ hy)
    cases hj : s.job x.1 x.2.ord with
    | none => simpa only [afterTrans, List.foldl_cons, hj] using rest
    | some j =>
      have waits := h x List.mem_cons_self j hj
      simpa only [afterTrans, List.foldl_cons, hj, waits] using rest

theorem walkNow_of_unwalked (walks : s.dir.walks.contains id = false) (queue : s.dir.queue.contains id = false) : s.walkNow id = s := by
  simp only [walkNow, walks, queue, Bool.false_eq_true, if_false]

/-- Where the waiting moves stand under their own numbers, a command on an entry acts on the entry as it stands. -/
theorem dirCommand_of_walkersNamed {body : State → Option (List Nat) → State × Ans} (en : s.on DIR_CTRL fDIR_CTRL_EN = true) (small : id < 2 ^ 21)
    (unfenced : s.dirFenced id = false) (walks : s.dir.walks.contains id = false) (queue : s.dir.queue.contains id = false)
    (named : s.WalkersNamed id) : s.dirCommand id body = body (s.entryOf id).1 (s.entryOf id).2 := by
  have still : s.walkMovesNow id = s := by rw [walkMovesNow, walkNow_of_unwalked walks queue, afterTrans_of_walking named]
  simp only [dirCommand, en, if_neg (Nat.not_le.2 small), unfenced, still, Bool.not_true, Bool.false_eq_true, if_false]

/-! Two moves of core 0 under one order number: a tensor read from node 1, translated, and one that waits for a walk of entry 0 which nothing
makes. -/

/-- A whole-tensor move to core-local memory of order number 0. -/
def twinMove (t : Trans) : Job := ⟨0, .dmov, ⟨1, 0, 0, [], none⟩, 0, [2 ^ 60], [], [], [], [], [], [], false, t, none, 0⟩

/-- DIR_DELETE of entry 0. -/
def twinDelete : Cmd := ⟨1, 0x0C02, 0, 0, 0, 0, 0, [0], false⟩

/-- The package after reset with its directory on, entry 0 cached valid and IDLE with one translation in flight, DIR_DELETE of it accepted, and
both moves in core 0. -/
def twinMoves : State :=
  let s := (State.reset.wr DIR_CTRL fDIR_CTRL_EN 1).modPkg fun p => { p with cmds := [twinDelete] }
  { s with
    dir := { s.dir with cache := [⟨0, [2 ^ 63, 0, 0, 0], 1⟩] }
    cores := [(0, { CoreSt.reset with jobs := [twinMove (.found 1 true 3 (2 ^ 52) 64), twinMove (.walking 0)] })] }

/-- Number 0 finds the translated move, not the one that waits. -/
theorem twinMoves_not_walkersNamed : ¬ twinMoves.WalkersNamed 0 := fun named =>
  absurd (named (0, twinMove (.walking 0)) (by decide) (twinMove (.found 1 true 3 (2 ^ 52) 64)) (by decide)) (by decide)

/-- The failure that an answer leaves in the first move under number 0 of core 0. -/
def twinFailure (r : Res) : Option Nat :=
  match r with
  | .next t => (t.job 0 0).bind (·.fail)
  | _ => none

theorem twinMoves_executes : twinMoves.Executes 1 0x0C02 twinDelete := ⟨by decide, by decide, by decide⟩

/-- DIR_DELETE waits, and the translated twin, asked for its reads, fails: node 1 has no route. -/
theorem dirDelete_fails_twin : twinFailure (exec (.dirDelete (.taken 1)) twinMoves) = some 0x04 := by decide

end State

open State in
/-- Refutes O54: nothing in the statement keeps two moves of a core from standing under one order number, as in `twinMoves`. There DIR_DELETE of
a valid IDLE entry with a translation in flight does not leave the package as it was while it waits: it fails a move. The hypothesis that the
statement lacks is `WalkersNamed`, under which the command finds the entry and the package as they stand (`dirCommand_of_walkersNamed`). -/
theorem not_directoryCommandsHaveTheirEffect : ¬ Obligations.DirectoryCommandsHaveTheirEffect := by
  intro h
  obtain ⟨-, -, entry⟩ := (h twinMoves 1 twinDelete).1 (by decide) (by decide) (by decide) (by decide) (by decide)
  obtain ⟨-, -, -, -, waits, -⟩ := entry [2 ^ 63, 0, 0, 0] (by decide)
  have unchanged : exec (.dirDelete (.taken 1)) twinMoves = .next twinMoves := waits (by decide) (by decide) (by decide) twinMoves_executes
  have noFailure : twinFailure (.next twinMoves) = none := rfl
  exact absurd (dirDelete_fails_twin.symm.trans ((congrArg twinFailure unchanged).trans noFailure)) (by decide)

end Sys2Proof.Machine
end
